-- ==== Sys2Proof/Word.lean ====
section
/-!
DEFINITION. The word and byte types of the ABK6400's register fabric, and their plainest arithmetic: reading and
writing a bit range, which every register description of the spec uses with bit 0 least significant (R8's notation).
-/

namespace Sys2Proof

/-- A register word (R369: one 32-bit address space). -/
abbrev Word := BitVec 32

/-- A byte of a memory window (R370). -/
abbrev Byte := BitVec 8

/-- The unsigned value of bits `hi` down to `lo` of a word. -/
def Word.get (w : Word) (hi lo : Nat) : Nat := (w.toNat / 2 ^ lo) % 2 ^ (hi + 1 - lo)

/-- `w` with bits `hi` down to `lo` replaced by the low bits of `n`. -/
def Word.put (w : Word) (hi lo n : Nat) : Word :=
  BitVec.ofNat 32 (w.toNat / 2 ^ (hi + 1) * 2 ^ (hi + 1) + n % 2 ^ (hi + 1 - lo) * 2 ^ lo + w.toNat % 2 ^ lo)

/-- Bit `i` of a word. -/
def Word.bit (w : Word) (i : Nat) : Bool := w.toNat.testBit i

/-- A two's-complement reading of an `n`-bit unsigned value. -/
def signed (n v : Nat) : Int := if v < 2 ^ (n - 1) then (v : Int) else (v : Int) - 2 ^ n

/-- The `n`-bit two's-complement pattern of an integer. -/
def unsigned (n : Nat) (v : Int) : Nat := (v % (2 ^ n : Int)).toNat

/-- A Boolean as a one-bit number. -/
def b2n (b : Bool) : Nat := if b then 1 else 0

end Sys2Proof
end

