-- ==== Sys2Proof/Syntax.lean ====
section
/-!
DEFINITION. The commands of the block: one constructor per row of spec/opcode_table.json, in the table's order. An
operand is what comes from outside (a written value, a measured quantity, a message's cell, which unit an event
concerns); what the block already holds (the command ring, received messages, pending changes) is read from State.
-/

namespace Sys2Proof

/-- The five initiators of the address space, in the order of R376. -/
inductive Initiator where
  | cpu | derrick | link | spi | debug
  deriving DecidableEq, Repr

/-- The writers of an Ashlar word, in the order of R135. -/
inductive AshlarWriter where
  | solver | weightLoad | derrick | link | spi
  deriving DecidableEq, Repr

/-- The unit whose transition of Table 3.1 completes (R61). -/
inductive TransUnit where
  | tile (t : Fin 4)
  | path (p : Fin 64)
  deriving DecidableEq, Repr

/-- The criterion of R69 that fails when a synthesizer loses LO-qualified. -/
inductive QualLoss where
  | phase | slip (n : Nat) | vtune | band
  deriving DecidableEq, Repr

/-- A set of seven IQ taps committed by a write of tap 0 (R116). -/
inductive IqSet where
  | rx (p : Fin 64) | tx (p : Fin 64) | orx (k : Fin 16)
  deriving DecidableEq, Repr

/-- One estimated correction of a register of two signed halves: both in 2^-20 of the LSB, with the bound on their variance in the
same unit squared (R197). -/
structure CalWord where
  hi : Int
  lo : Int
  bound : Nat
  deriving DecidableEq, Repr

/-- What a calibration measurement of Table 7.5 measured (R197 to R201): the residual of a path, and of an observation capture or of
received samples the registers that Table 7.5 corrects from them, in its order, as far as they were estimated. -/
structure CalMeasure where
  route : Nat          -- 0 ROUTE_OUT, 1 ROUTE_REF, 2 ROUTE_RET, 3 ROUTE_INT, 4 observation capture, 5 received samples
  path : Fin 64
  gain : Int           -- mdB
  phase : Int          -- mdeg
  delay : Int          -- fs
  rho : Nat            -- E/N0 of the observation
  beta : Nat           -- rms bandwidth of the observed signal, kHz
  refLevelLow : Bool   -- the reference is more than 20 dB below Table 7.2 (R210)
  words : List CalWord -- leakage or offset, then image taps; of a capture those of the path, then of its receiver
  deriving DecidableEq, Repr

/-- A complex number of whole steps. -/
structure Cpx where
  re : Int
  im : Int
  deriving DecidableEq, Repr, Inhabited

/-- One sample of an observation capture, in steps of 2^-30 of full scale (R170): the observation, the DPD output and input, and the
DPD inputs of the four neighbours. -/
structure CapSample where
  obs : Cpx
  u : Cpx
  x : Cpx
  near : List Cpx
  deriving DecidableEq, Repr

/-- What one observation capture brought (R170 to R172, R183): its samples in time order, from which the figures and the update follow;
where no samples are given, the figures that the firmware made of them. -/
structure CaptureQuality where
  overrange : Bool
  aclr : Nat           -- 0.25 dB units, 255 not measured
  evm : Nat            -- 0.01 % units
  samples : List CapSample
  deriving DecidableEq, Repr

/-- A RAM of a Chisel core (R218). -/
inductive CoreRam where
  | x | y | c | i
  deriving DecidableEq, Repr

/-- A rail of the Coruf die (R500). -/
inductive CorufRail where
  | vbp | vbn | vbio
  deriving DecidableEq, Repr

/-- The fields of a Chisel memory operand: pointer S8 + `p`, post-increment `inc` in elements (Table 8.3). -/
structure MemOp where
  p : Fin 8
  inc : BitVec 16
  deriving DecidableEq, Repr

/-- A command of the block. -/
inductive Instr where
  -- cadence and register access
  | registerWrite (by_ : Initiator) (width : Nat) (addr : Nat) (data : BitVec 64)
  | tick
  | cutoff
  | seamMidpoint
  | ticksStart
  | cadenceRunStart (by_ : Initiator) (w : Word)
  | cadenceRunStop (by_ : Initiator) (w : Word)
  | cadenceCfgWrite (by_ : Initiator) (w : Word)
  -- tiles and synthesizers
  | stateTransitionDone (u : TransUnit)
  | loQualLost (t : Fin 4) (synB : Bool) (why : QualLoss)
  | loQualified (t : Fin 4) (synB : Bool)
  | vtTrackExit (t : Fin 4) (synB : Bool)
  | synFracWrite (by_ : Initiator) (t : Fin 4) (synB : Bool) (frac : Word)
  | wakeEnergyDetect (rx : Fin 2)
  | wakeCodeAccept (rx : Fin 2) (chips : BitVec 32)
  -- relief converters
  | reliefSlotStart (t : Fin 4)
  | reliefWindowClose (t : Fin 4) (dac : Bool)
  | reliefCompareDone (t : Fin 4) (dac : Bool) (ratio : Nat) (qualified : Bool)
  | reliefCalEnd (t : Fin 4) (dac : Bool) (finished : Bool)
  | iqTap0Write (by_ : Initiator) (set : IqSet) (w : Word)
  -- beamformer
  | beamMirror (by_ : Initiator) (w : Word)
  | mirrorCopyDone
  | ashlarWrite (by_ : AshlarWriter) (addr : Nat) (w : Word)
  | ashlarEccError (addr : Nat) (correctable : Bool)
  | solverCycleStart
  | solverCycleDeadline (allWritten : Bool)
  | sliceMismatch (s : Fin 8) (nextMatches : Bool)
  | sliceCheckFail (s : Fin 8)
  -- DPD
  | dpdLutDataAccess (by_ : Initiator) (write : Option Word)
  | dpdPageCommit (by_ : Initiator) (p : Fin 64) (bank : Fin 4)
  | dpdAdaptRequest (by_ : Initiator) (p : Fin 64) (bank : Fin 4) (nupd : BitVec 8)
  | orxCaptureDone (k : Fin 16) (q : CaptureQuality)
  | dpdUpdateStart
  | dpdUpdateDone (p : Fin 64) (luts : List Word)
  | dpdCapTimeout (p : Fin 64)
  | dpdQStale (p : Fin 64)
  -- calibration
  | vrefCheck (errPpm : Int)
  | calMeasurementDone (m : CalMeasure)
  | qmapCfgWrite (by_ : Initiator) (w : Word)
  | calRunDone (t : Fin 4) (terrFs : Int)
  | calRunTimeout (t : Fin 4)
  | snapshotDone
  | restoreDone
  -- Chisel instructions (Table 8.4), each issued on core c
  | add (c : Fin 16) (d a b : Fin 32)
  | sub (c : Fin 16) (d a b : Fin 32)
  | and (c : Fin 16) (d a b : Fin 32)
  | or (c : Fin 16) (d a b : Fin 32)
  | xor (c : Fin 16) (d a b : Fin 32)
  | shl (c : Fin 16) (d a b : Fin 32)
  | shr (c : Fin 16) (d a b : Fin 32)
  | mul (c : Fin 16) (d a b : Fin 32)
  | li (c : Fin 16) (d : Fin 32) (imm : Word)
  | addi (c : Fin 16) (d a : Fin 32) (imm : BitVec 16)
  | fadd (c : Fin 16) (d a b : Fin 32)
  | fmul (c : Fin 16) (d a b : Fin 32)
  | fma (c : Fin 16) (d a b : Fin 32)
  | ld (c : Fin 16) (d : Fin 32) (m : MemOp)
  | st (c : Fin 16) (d : Fin 32) (m : MemOp)
  | vld (c : Fin 16) (d : Fin 32) (m : MemOp)
  | vld2 (c : Fin 16) (d : Fin 32) (m1 m2 : MemOp)
  | vst (c : Fin 16) (a : Fin 32) (m : MemOp)
  | vsta (c : Fin 16) (a : Fin 32) (m : MemOp)
  | vadd (c : Fin 16) (d a b : Fin 32)
  | vsub (c : Fin 16) (d a b : Fin 32)
  | vmul (c : Fin 16) (d a b : Fin 32)
  | vfma (c : Fin 16) (d a b : Fin 32)
  | vmac (c : Fin 16) (d : Fin 32) (m1 m2 : MemOp)
  | vmacc (c : Fin 16) (d a : Fin 32) (m2 : MemOp)
  | tapmv (c : Fin 16) (d a : Fin 32) (m1 m2 : MemOp)
  | vcmul (c : Fin 16) (d a b : Fin 32)
  | vcmac (c : Fin 16) (d : Fin 32) (m1 m2 : MemOp)
  | vmax (c : Fin 16) (d a b : Fin 32)
  | vmin (c : Fin 16) (d a b : Fin 32)
  | vabs (c : Fin 16) (d a : Fin 32)
  | vsqrt (c : Fin 16) (d a : Fin 32)
  | vdiv (c : Fin 16) (d a b : Fin 32)
  | vred (c : Fin 16) (d a : Fin 32)
  | vperm (c : Fin 16) (d a b : Fin 32)
  | vbcast (c : Fin 16) (d a : Fin 32)
  | vmova (c : Fin 16) (d a : Fin 32)
  | br (c : Fin 16) (a : Fin 32)
  | bz (c : Fin 16) (a b : Fin 32)
  | bnz (c : Fin 16) (a b : Fin 32)
  | loop (c : Fin 16) (count : BitVec 16) (body : BitVec 16)
  | xfer (c : Fin 16) (a b : Fin 32) (toCluster : Bool) (bytes : BitVec 24)
  | xwait (c : Fin 16)
  | getf (c : Fin 16) (d : Fin 32)
  | endAct (c : Fin 16)
  | illegalInstruction (c : Fin 16)
  | xferDone (c : Fin 16) (atCycle : Nat)
  | kernelRelease (k : Nat)
  | activationOverrun (c : Fin 16)
  | chiselEccError (c : Fin 16) (ram : CoreRam) (correctable : Bool)
  | vdspSettled
  | vdspSettleTimeout
  -- lanes
  | trainingFrameReceived (k : Fin 8) (control status : BitVec 64) (ownLqf : Nat)
  | codewordReceived (k : Fin 8) (corrected : Option Nat)
  | lqfWindow (k : Fin 8) (snrS snrF : Nat)
  | laneLockLost (k : Fin 8)
  | laneQualifyDone (k : Fin 8)
  | laneAttemptTimeout (k : Fin 8)
  | laneBackoffExpire (k : Fin 8)
  | laneProbe (k : Fin 8)
  | laneFastExit (k : Fin 8) (answered : Bool)
  | laneSetSwitch
  | laneSleepRequest (by_ : Initiator) (w : Word)
  | laneEnableWrite (by_ : Initiator) (w : Word)
  -- cells and messages
  | cellReceived (header : Word) (payload : List Byte) (uncorrectable : Bool)
  | sampleMessage (flow : Nat)
  | soundingMessage (flow : Nat)
  | weightLoadMessage
  | commandMessage
  | linkProposal
  | linkNotice
  | linkShedReport
  | dlBoundMissing (flow : Nat)
  | sampleMsgAbandon (flow : Nat)
  | timedCommandDue
  -- Drunas opcodes: each executes the packet at the head of the command ring
  | sysPing
  | sysInfo
  | sysCancel
  | pwrRequest
  | pwrStatus
  | radioSetState
  | carrierConfig
  | powerStep
  | beamMode
  | beamLoad
  | beamLoadTimeout (tag : BitVec 16)
  | solverConfig
  | dpdConfig
  | dpdBankSelect
  | calRun
  | calSnapshot
  | calRestore
  | quietMap
  | timeStep
  | timeSchedule
  | timeStatus
  | biasSet
  | biasSpan
  | faultQuery
  | pathRetire
  | pathRestore
  | fwStage
  | fwStageDone
  | fwActivate
  | fwHandoverDone (selfCheckPassed : Bool)
  | debugUnlockChallenge
  | debugUnlockResponse
  | debugUnlockClose
  | lifecycle
  | capture
  | captureDone (samples : List Word)
  | chiselLoad
  | chiselUnload
  | bistRun
  | bistDone (kind : Nat) (index : Nat) (failMask : Nat)
  | drunasSubmitWrite (by_ : Initiator) (w : Word)
  | drunasReplyRead (by_ : Initiator)
  | flushReply (by_ : Initiator)
  | flushSubmit (by_ : Initiator)
  -- time
  | timeSync (t3 : BitVec 96)
  | timeDelayResp
  | delayRespTimeout
  | holdoverTimeout
  | candidateTimeout
  | stepApply
  | stepForceTimeout
  | timeIncSetWrite (by_ : Initiator) (hi : Word)
  | timeCfgWrite (by_ : Initiator) (w : Word)
  | tsqPop (by_ : Initiator)
  | schedArm (by_ : Initiator) (s : Fin 32) (w : Word)
  | schedTileLevel (s : Fin 32)
  | schedCapture (s : Fin 32)
  | schedCommand (s : Fin 32)
  | schedPps (s : Fin 32)
  | schedKernel (s : Fin 32)
  | schedNoAction (s : Fin 32)
  | ppsSecond
  | ppsWidthEnd
  | ppsInEdge (stamp : BitVec 96)
  | tsyncInstant (lineHigh : Bool)
  | tsyncEdge (stamp : BitVec 96)
  | tsyncEdgeTimeout
  -- Coruf bias die
  | biasFrameReceived (crcOk : Bool)
  | biasLinkWatchdog
  | corufRailLoss (rail : CorufRail)
  | corufRailGood
  | spanSwitch (n : Fin 96)
  | spanChangeDone (n : Fin 96)
  | biasCurrentLimit (n : Fin 96)
  | biasScPersist (n : Fin 96)
  | biasTestStart (by_ : Initiator) (w : Word)
  | biasTestDone (readSafe readOff : Nat) (limited : Bool)
  | biasOcTrip (p : Fin 64)
  | biasTripClear (by_ : Initiator) (high : Bool) (w : Word)
  | biasCfgWrite (by_ : Initiator) (w : Word)
  | paoffExtKill
  | paoffHighTimer
  -- register access, SPI, DMA, check values
  | regAccessRead
  | regAccessWrite
  | regAccessAuthRead
  | regAccessAuthWrite
  | busTimeout (by_ : Initiator) (write : Bool) (addr : Nat)
  | spiWrite (addr : Word) (words : List Word)
  | spiWriteFix (addr : Word) (words : List Word)
  | spiRead (addr : Word) (count : Nat)
  | spiReadFix (addr : Word) (count : Nat)
  | spiStatus
  | spiQueuedWrite
  | spiFrameEnd (partialWord : Bool)
  | derrickStart (by_ : Initiator) (c : Fin 8)
  | derrickResume (by_ : Initiator) (c : Fin 8)
  | derrickAbort (by_ : Initiator) (c : Fin 8)
  | derrickDescriptorFetch
  | derrickBurst
  | derrickChainEnd
  | checkScanStart (by_ : Initiator)
  | checkScanDone
  | checkDataFeed (by_ : Initiator) (w : Word)
  -- Sump
  | sumpReport (n : Fin 256)
  | sumpWireFault (n : Fin 256)
  | sumpWireRecover (n : Fin 256)
  | sumpHoldEnd (n : Fin 256)
  | faultnPulseEnd
  | faultnExtFall
  | logRecordWrite
  | logDataRead (by_ : Initiator)
  | thermalSample (d : Fin 6) (reading : Int) (power : Nat)
  -- supplies, reset, power states
  | powerOnReset (bootSel : Fin 4)
  | resetAssert
  | resetRelease (bootSel : Fin 4)
  | pgoodRise
  | railSequenceStep
  | pgoodTimeout
  | pgoodFault
  | autoRestart
  | railRemoveStep
  | avsStep
  | avsMarginLow
  | powerReqWrite (by_ : Initiator) (w : Word)
  | powerTransitionDone
  | powerSynthTimeout
  | dormantSafeConfirmed
  | dormantNoReturn
  | wakeNWake
  | wakeTimer
  | wakeTaken
  | slowclkLost
  | startPhaseDone
  | startPhaseTimeout
  | thermalSettled
  | timebaseQualified
  | firmwareBoot
  | secCfgWrite (by_ : Initiator) (w : Word)
  | debugHalt
  | unlockNonceExpire
  | unlockLockoutEnd
  -- further rows of the table
  | spiUnknownOpcode (opcode : Byte)
  | regAccessReservedOp
  | unknownOpcodeCommand
  | vaonRemoved
  | slowclkRestored
  | calPathStale (p : Fin 64) (tx : Bool)
  deriving DecidableEq, Repr

end Sys2Proof
end

