-- ==== Sys2Proof/Decode.lean ====
section
/-!
DEFINITION. The reader of table words. No row of spec/opcode_table.json gives bits: commands are events and accesses, not
instruction words, so no word spells one.
-/

namespace Sys2Proof

/-- The command that a word of the table spells: none, for no row gives bits. -/
def decodeTableWord (_nbits _w : Nat) : Option Instr := none

end Sys2Proof
end

