-- ==== Sys2Proof/Config.lean ====
section
/-!
DEFINITION. What the manual leaves open: free values, one opaque constant for each kind. Nothing can evaluate
them, so a statement that holds holds whatever the device does there. Each is named in a row of the assumption log.
-/

namespace Sys2Proof.Config

/-- The result that the manual calls unpredictable (R5), drawn afresh: the argument is a counter of State that each
use advances. Log entry 2. -/
opaque freeWord : Nat → Word

/-- A free choice, drawn afresh. Log entry 2. -/
opaque freeNat : Nat → Nat

/-- AES-256-GCM (R306, R468): the plaintext of an authenticated body, or none when the tag does not verify. The key, the
96-bit nonce, the additional data, the ciphertext and the tag are bytes. Log entry 3. -/
opaque gcmOpen : List Byte → List Byte → List Byte → List Byte → List Byte → Option (List Byte)

/-- AES-256-GCM sealing of a reply body: ciphertext followed by the 16-byte tag. Log entry 3. -/
opaque gcmSeal : List Byte → List Byte → List Byte → List Byte → List Byte

/-- The counter-mode KDF of R467 over the owner flow secret, the silicon identifier and BOOT_COUNT. Log entry 3. -/
opaque kdf : List Byte → BitVec 64 → Word → List Byte

/-- ECDSA P-384 verification over a SHA-384 digest: key, message, signature (R464, R474). Log entry 3. -/
opaque sigVerify : List Byte → List Byte → List Byte → Bool

/-- SHA-384 (R464). Log entry 3. -/
opaque sha384 : List Byte → List Byte

/-- The Holant root key in the boot ROM (R465). Log entry 3. -/
opaque holantKey : List Byte

/-- The silicon identifier reported by SYS_INFO (R1): fixed per part, no value given. Log entry 4. -/
opaque siliconId : BitVec 64

/-- Bytes of a fresh random nonce (R474). Log entry 2. -/
opaque nonceByte : Nat → Byte

/-- The characterised thermal resistance that SUMP_THERMd_MODEL.RTH resets to (register table of chapter 15). Log entry 4. -/
opaque thermalR : Nat → Nat

/-- The characterised gain error of power-step entry `i` that firmware loads at start-up (R84). Log entry 4. -/
opaque pstepGerr : Nat → BitVec 8

/-- A per-path trim turned by a phase in mdeg and scaled by a gain in mdB (R205, R208): its rounding is not stated. Log entry 27. -/
opaque trimTurn : Word → Int → Int → Word

/-- 2^30 cos(2πk/n), as precisely as the device holds it (R47, R122, R124): arguments n and k. Log entry 20. -/
opaque cosine : Nat → Nat → Int

/-- The steps into which the datapath divides 2^-30 of full scale, less one: the spec gives no stage a width. Log entry 20. -/
opaque fineSteps : Nat

/-- Tap `i` of a half-band filter, in steps of 2^-20: HB0 to HB5 of Table 4.2. Log entry 20. -/
opaque halfBand : Nat → Nat → Int

/-- Tap `i` of the fractional-delay filter for a fraction of 1/16384 carrier sample, in steps of 2^-20 (Table 4.2). Log entry 20. -/
opaque delayTap : Nat → Nat → Int

/-- 2^30 × 10^(−a/20), the amplitude of an attenuation of `a` dB, as precisely as the device holds it (R51, R85). Log entry 20. -/
opaque atten : Nat → Nat

/-- Sample of the receive ADC that serves a path, in steps of 2^-13 (Table 4.1): path, and number at 1966.08 Msps counted from timebase
cycle 0. No command brings the signals at the RX balls. Log entry 20. -/
opaque adc : Nat → Int → Sys2Proof.Cpx

/-- What block-scaled arithmetic of at least 24 bits makes of an exact result (R124): the loss is not stated. Log entry 20. -/
opaque blockScaled : (Unit → Sys2Proof.Cpx) → Sys2Proof.Cpx

/-- Phase of a carrier's mixer at timebase cycle 0, in 2^-32 turns (R121): not stated. Log entry 20. -/
opaque mixerStart : Nat → Nat

/-- The channel estimate of a layer for a group without a usable subcarrier, in steps of 2^-30: tick of the cycle, slot, antenna and layer.
R141 states no result there. Log entry 86. -/
opaque unsounded : Nat → Nat → Nat → Nat → Sys2Proof.Cpx

/-- Observation samples before the first captured sample and after the last, in steps of 2^-30 (R171). Log entry 86. -/
opaque edgeObs : Nat → Sys2Proof.Cpx

/-- The observations of a capture delayed by its fine delay against u (R176), in steps of 2^-30: twelve samples and u for each kept
sample. The interpolation is not stated. Log entry 86. -/
opaque fineDelayed : List (List Sys2Proof.Cpx × Sys2Proof.Cpx) → List (List Sys2Proof.Cpx)

/-- Cycles per tick that the weight solver takes of a core, 0 where it takes none (R147): core, PRBs of a group, P_eff, and layers of all
carriers. The spec gives no figure. Log entry 37. -/
opaque solverWork : Nat → Nat → Nat → Nat → Nat

/-- What a NaN becomes where the solver or an update rounds it to a word's part (R127, R158): no result is stated. Log entry 86. -/
opaque partOfNan : Int

/-- Whether a maximum or minimum with one NaN operand is the default NaN, rather than the other operand (R224, R228 leave
it open). Log entry 14. -/
opaque maxOfNan : Bool

/-- Which of two zeros of different signs a maximum or minimum returns, true for the second. Log entry 14. -/
opaque maxOfZeros : Bool

/-- Whether zero times infinity plus a quiet NaN signals invalid (IEEE 754 leaves it to the implementation). Log entry 14. -/
opaque fmaNanInvalid : Bool

end Sys2Proof.Config
end

