-- ==== Sys2Proof/Machine/RegTable.lean ====
section
/-!
DEFINITION. The register map: the address of every register of the spec and the fields of each, transcribed from the
register descriptions of chapters 2 to 17 (R369's blocks, Table 14.8's index). A field is (hi, lo, type, tick-bound, reset).
-/

namespace Sys2Proof.Machine

/-- The field types of Table 0.3 (R9). -/
inductive FieldType where
  | rw | ro | w1c | wm | cnt | wo
  deriving DecidableEq, Repr

/-- One field of a register description: bits, type, whether a write commits a tick-bound change (R40, R49), reset value. -/
structure FieldRow where
  hi : Nat
  lo : Nat
  type : FieldType
  tickBound : Bool
  reset : Nat
  deriving DecidableEq, Repr

/-- One register description: offset in its block, the (count, stride) of each index, coarsest first, and its fields. -/
structure RegRow where
  offset : Nat
  dims : List (Nat × Nat)
  fields : List FieldRow
  deriving DecidableEq, Repr

namespace Reg

/-- CADENCE_CFG (02_cadence_and_seam.md). -/
def CADENCE_CFG : Nat := 0x10000

/-- CADENCE_STATUS (02_cadence_and_seam.md). -/
def CADENCE_STATUS : Nat := 0x10004

/-- CADENCE_SYMADDR (02_cadence_and_seam.md). -/
def CADENCE_SYMADDR : Nat := 0x10008

/-- CADENCE_TICK_TIME_LO (02_cadence_and_seam.md). -/
def CADENCE_TICK_TIME_LO : Nat := 0x10010

/-- CADENCE_TICK_TIME_HI (02_cadence_and_seam.md). -/
def CADENCE_TICK_TIME_HI : Nat := 0x10014

/-- CADENCE_PHASE (02_cadence_and_seam.md). -/
def CADENCE_PHASE : Nat := 0x10018

/-- CADENCE_TICK_COUNT (02_cadence_and_seam.md). -/
def CADENCE_TICK_COUNT : Nat := 0x10020

/-- CADENCE_SUPERSEDED (02_cadence_and_seam.md). -/
def CADENCE_SUPERSEDED : Nat := 0x10024

/-- CADENCE_LATE (02_cadence_and_seam.md). -/
def CADENCE_LATE : Nat := 0x10028

/-- CADENCE_EVT (02_cadence_and_seam.md). -/
def CADENCE_EVT : Nat := 0x1002C

/-- CADENCE_STEP_GAP (02_cadence_and_seam.md). -/
def CADENCE_STEP_GAP : Nat := 0x10030

/-- TILE_CFG (03_rf_tiles.md). -/
def TILE_CFG (t : Nat) : Nat := 0x100000 + 0x10000 * t

/-- TILE_STATUS (03_rf_tiles.md). -/
def TILE_STATUS (t : Nat) : Nat := 0x100004 + 0x10000 * t

/-- TILE_PATH_MODE_LO (03_rf_tiles.md). -/
def TILE_PATH_MODE_LO (t : Nat) : Nat := 0x100008 + 0x10000 * t

/-- TILE_PATH_MODE_HI (03_rf_tiles.md). -/
def TILE_PATH_MODE_HI (t : Nat) : Nat := 0x10000C + 0x10000 * t

/-- TILE_PATH_STATE_LO (03_rf_tiles.md). -/
def TILE_PATH_STATE_LO (t : Nat) : Nat := 0x100010 + 0x10000 * t

/-- TILE_PATH_STATE_HI (03_rf_tiles.md). -/
def TILE_PATH_STATE_HI (t : Nat) : Nat := 0x100014 + 0x10000 * t

/-- TILE_SYN_A_INT (03_rf_tiles.md). -/
def TILE_SYN_A_INT (t : Nat) : Nat := 0x100040 + 0x10000 * t

/-- TILE_SYN_B_INT (03_rf_tiles.md). -/
def TILE_SYN_B_INT (t : Nat) : Nat := 0x100048 + 0x10000 * t

/-- TILE_SYN_A_FRAC (03_rf_tiles.md). -/
def TILE_SYN_A_FRAC (t : Nat) : Nat := 0x100044 + 0x10000 * t

/-- TILE_SYN_B_FRAC (03_rf_tiles.md). -/
def TILE_SYN_B_FRAC (t : Nat) : Nat := 0x10004C + 0x10000 * t

/-- TILE_SYN_CTRL (03_rf_tiles.md). -/
def TILE_SYN_CTRL (t : Nat) : Nat := 0x100050 + 0x10000 * t

/-- TILE_SYN_STATUS (03_rf_tiles.md). -/
def TILE_SYN_STATUS (t : Nat) : Nat := 0x100054 + 0x10000 * t

/-- TILE_SYN_SLIPS (03_rf_tiles.md). -/
def TILE_SYN_SLIPS (t : Nat) : Nat := 0x100058 + 0x10000 * t

/-- TILE_SYN_PHASE (03_rf_tiles.md). -/
def TILE_SYN_PHASE (t : Nat) : Nat := 0x10005C + 0x10000 * t

/-- TILE_SYN_QCFG (03_rf_tiles.md). -/
def TILE_SYN_QCFG (t : Nat) : Nat := 0x100060 + 0x10000 * t

/-- TILE_LO_HELD (03_rf_tiles.md). -/
def TILE_LO_HELD (t : Nat) : Nat := 0x100070 + 0x10000 * t

/-- TILE_DEFER (03_rf_tiles.md). -/
def TILE_DEFER (t : Nat) : Nat := 0x100074 + 0x10000 * t

/-- TILE_EVT (03_rf_tiles.md). -/
def TILE_EVT (t : Nat) : Nat := 0x100078 + 0x10000 * t

/-- TILE_PIDXk (03_rf_tiles.md). -/
def TILE_PIDX (t k : Nat) : Nat := 0x100100 + 0x10000 * t + 0x4 * k

/-- TILE_RXATTk (03_rf_tiles.md). -/
def TILE_RXATT (t k : Nat) : Nat := 0x100140 + 0x10000 * t + 0x4 * k

/-- WAKE_CFG (03_rf_tiles.md). -/
def WAKE_CFG (t : Nat) : Nat := 0x100200 + 0x10000 * t

/-- WAKE_STATUS (03_rf_tiles.md). -/
def WAKE_STATUS (t : Nat) : Nat := 0x100204 + 0x10000 * t

/-- TILE_PSTEP_TAB (03_rf_tiles.md). -/
def TILE_PSTEP_TAB (t i : Nat) : Nat := 0x101000 + 0x10000 * t + 0x4 * i

/-- TILE_RELIEF_CFG (04_converters_and_filter_chains.md). -/
def TILE_RELIEF_CFG (t : Nat) : Nat := 0x100400 + 0x10000 * t

/-- TILE_RELIEF_STATUS (04_converters_and_filter_chains.md). -/
def TILE_RELIEF_STATUS (t : Nat) : Nat := 0x100404 + 0x10000 * t

/-- TILE_RELIEF_HO (04_converters_and_filter_chains.md). -/
def TILE_RELIEF_HO (t : Nat) : Nat := 0x100408 + 0x10000 * t

/-- TILE_RELIEF_FAIL (04_converters_and_filter_chains.md). -/
def TILE_RELIEF_FAIL (t : Nat) : Nat := 0x10040C + 0x10000 * t

/-- TILE_RELIEF_EVT (04_converters_and_filter_chains.md). -/
def TILE_RELIEF_EVT (t : Nat) : Nat := 0x100410 + 0x10000 * t

/-- TILE_RELIEF_METRIC (04_converters_and_filter_chains.md). -/
def TILE_RELIEF_METRIC (t : Nat) : Nat := 0x100414 + 0x10000 * t

/-- TILE_CONV_TRIM_Aj (04_converters_and_filter_chains.md). -/
def TILE_CONV_TRIM_A (t j : Nat) : Nat := 0x100500 + 0x10000 * t + 0x8 * j

/-- TILE_CONV_TRIM_Bj (04_converters_and_filter_chains.md). -/
def TILE_CONV_TRIM_B (t j : Nat) : Nat := 0x100504 + 0x10000 * t + 0x8 * j

/-- TILE_CH_RX_DCk (04_converters_and_filter_chains.md). -/
def TILE_CH_RX_DC (t k : Nat) : Nat := 0x102000 + 0x10000 * t + 0x80 * k

/-- TILE_CH_TX_LOLk (04_converters_and_filter_chains.md). -/
def TILE_CH_TX_LOL (t k : Nat) : Nat := 0x102004 + 0x10000 * t + 0x80 * k

/-- TILE_CH_DLY_HOSTk (04_converters_and_filter_chains.md). -/
def TILE_CH_DLY_HOST (t k : Nat) : Nat := 0x102008 + 0x10000 * t + 0x80 * k

/-- TILE_CH_DLY_CALk (04_converters_and_filter_chains.md). -/
def TILE_CH_DLY_CAL (t k : Nat) : Nat := 0x10200C + 0x10000 * t + 0x80 * k

/-- TILE_CH_GAIN_PATHk (04_converters_and_filter_chains.md). -/
def TILE_CH_GAIN_PATH (t k : Nat) : Nat := 0x102010 + 0x10000 * t + 0x80 * k

/-- TILE_CH_GAIN_CARck (04_converters_and_filter_chains.md). -/
def TILE_CH_GAIN_CAR (t c k : Nat) : Nat := 0x102014 + 0x10000 * t + 0x4 * c + 0x80 * k

/-- TILE_CH_STATUSk (04_converters_and_filter_chains.md). -/
def TILE_CH_STATUS (t k : Nat) : Nat := 0x102024 + 0x10000 * t + 0x80 * k

/-- TILE_CH_SATk (04_converters_and_filter_chains.md). -/
def TILE_CH_SAT (t k : Nat) : Nat := 0x102028 + 0x10000 * t + 0x80 * k

/-- TILE_CH_RX_IQjk (04_converters_and_filter_chains.md). -/
def TILE_CH_RX_IQ (t j k : Nat) : Nat := 0x102040 + 0x10000 * t + 0x4 * j + 0x80 * k

/-- TILE_CH_TX_IQjk (04_converters_and_filter_chains.md). -/
def TILE_CH_TX_IQ (t j k : Nat) : Nat := 0x102060 + 0x10000 * t + 0x4 * j + 0x80 * k

/-- TILE_ORX_DCm (04_converters_and_filter_chains.md). -/
def TILE_ORX_DC (t m : Nat) : Nat := 0x103000 + 0x10000 * t + 0x40 * m

/-- TILE_ORX_IQjm (04_converters_and_filter_chains.md). -/
def TILE_ORX_IQ (t j m : Nat) : Nat := 0x103004 + 0x10000 * t + 0x4 * j + 0x40 * m

/-- BEAM_CFG (05_beamforming_engine.md). -/
def BEAM_CFG : Nat := 0xA0000

/-- BEAM_STATUS (05_beamforming_engine.md). -/
def BEAM_STATUS : Nat := 0xA0004

/-- BEAM_BANK (05_beamforming_engine.md). -/
def BEAM_BANK : Nat := 0xA0008

/-- BEAM_RETIRED_LO (05_beamforming_engine.md). -/
def BEAM_RETIRED_LO : Nat := 0xA0010

/-- BEAM_RETIRED_HI (05_beamforming_engine.md). -/
def BEAM_RETIRED_HI : Nat := 0xA0014

/-- BEAM_EVT (05_beamforming_engine.md). -/
def BEAM_EVT : Nat := 0xA0020

/-- BEAM_SAT (05_beamforming_engine.md). -/
def BEAM_SAT : Nat := 0xA0024

/-- BEAM_SWDEFER (05_beamforming_engine.md). -/
def BEAM_SWDEFER : Nat := 0xA0028

/-- BEAM_ECC (05_beamforming_engine.md). -/
def BEAM_ECC : Nat := 0xA002C

/-- BEAM_SND_DROP (05_beamforming_engine.md). -/
def BEAM_SND_DROP : Nat := 0xA0030

/-- BEAM_CARc_CFG (05_beamforming_engine.md). -/
def BEAM_CAR_CFG (c : Nat) : Nat := 0xA0040 + 0x10 * c

/-- BEAM_CARc_NCO (05_beamforming_engine.md). -/
def BEAM_CAR_NCO (c : Nat) : Nat := 0xA0044 + 0x10 * c

/-- BEAM_CARc_LDL (05_beamforming_engine.md). -/
def BEAM_CAR_LDL (c : Nat) : Nat := 0xA0048 + 0x10 * c

/-- BEAM_CARc_LUL (05_beamforming_engine.md). -/
def BEAM_CAR_LUL (c : Nat) : Nat := 0xA004C + 0x10 * c

/-- BEAM_SLOTBASEc (05_beamforming_engine.md). -/
def BEAM_SLOTBASE (c : Nat) : Nat := 0xA0080 + 0x4 * c

/-- BEAM_SOLVER_CFG (05_beamforming_engine.md). -/
def BEAM_SOLVER_CFG : Nat := 0xA0100

/-- BEAM_SOLVER_REG (05_beamforming_engine.md). -/
def BEAM_SOLVER_REG : Nat := 0xA0104

/-- BEAM_SOLVER_PIVOT (05_beamforming_engine.md). -/
def BEAM_SOLVER_PIVOT : Nat := 0xA0108

/-- BEAM_SOLVER_STATUS (05_beamforming_engine.md). -/
def BEAM_SOLVER_STATUS : Nat := 0xA010C

/-- BEAM_SOLVER_MISS (05_beamforming_engine.md). -/
def BEAM_SOLVER_MISS : Nat := 0xA0110

/-- BEAM_SOLVER_ILL (05_beamforming_engine.md). -/
def BEAM_SOLVER_ILL : Nat := 0xA0114

/-- BEAM_SOLVER_DONE (05_beamforming_engine.md). -/
def BEAM_SOLVER_DONE : Nat := 0xA011C

/-- BEAM_SOLVER_AGED (05_beamforming_engine.md). -/
def BEAM_SOLVER_AGED : Nat := 0xA0118

/-- BEAM_SOLVER_POWl (05_beamforming_engine.md). -/
def BEAM_SOLVER_POW (l : Nat) : Nat := 0xA0200 + 0x4 * l

/-- BEAM_LGAINcl (05_beamforming_engine.md). -/
def BEAM_LGAIN (c l : Nat) : Nat := 0xA0400 + 0x80 * c + 0x4 * l

/-- DPD_CFG (06_linearisation.md). -/
def DPD_CFG : Nat := 0xB0000

/-- DPD_SEL_THR (06_linearisation.md). -/
def DPD_SEL_THR : Nat := 0xB0004

/-- DPD_TIMING (06_linearisation.md). -/
def DPD_TIMING : Nat := 0xB0008

/-- DPD_LUT_ADDR (06_linearisation.md). -/
def DPD_LUT_ADDR : Nat := 0xB0010

/-- DPD_LUT_DATA (06_linearisation.md). -/
def DPD_LUT_DATA : Nat := 0xB0014

/-- DPD_EVT (06_linearisation.md). -/
def DPD_EVT : Nat := 0xB0020

/-- DPD_UPD_DONE (06_linearisation.md). -/
def DPD_UPD_DONE : Nat := 0xB0028

/-- DPD_REVERT (06_linearisation.md). -/
def DPD_REVERT : Nat := 0xB002C

/-- DPD_CAP_DROP (06_linearisation.md). -/
def DPD_CAP_DROP : Nat := 0xB0030

/-- DPD_CAP_TIMEOUT (06_linearisation.md). -/
def DPD_CAP_TIMEOUT : Nat := 0xB0034

/-- DPD_ORX_RETIRED (06_linearisation.md). -/
def DPD_ORX_RETIRED : Nat := 0xB0040

/-- DPD_PATHp_CFG (06_linearisation.md). -/
def DPD_PATH_CFG (p : Nat) : Nat := 0xB1000 + 0x20 * p

/-- DPD_PATHp_ADJ (06_linearisation.md). -/
def DPD_PATH_ADJ (p : Nat) : Nat := 0xB1004 + 0x20 * p

/-- DPD_PATHp_CTRL (06_linearisation.md). -/
def DPD_PATH_CTRL (p : Nat) : Nat := 0xB1008 + 0x20 * p

/-- DPD_PATHp_STATUS (06_linearisation.md). -/
def DPD_PATH_STATUS (p : Nat) : Nat := 0xB100C + 0x20 * p

/-- DPD_PATHp_Q (06_linearisation.md). -/
def DPD_PATH_Q (p : Nat) : Nat := 0xB1010 + 0x20 * p

/-- DPD_PATHp_SAT (06_linearisation.md). -/
def DPD_PATH_SAT (p : Nat) : Nat := 0xB1014 + 0x20 * p

/-- DPD_PATHp_UPD (06_linearisation.md). -/
def DPD_PATH_UPD (p : Nat) : Nat := 0xB1018 + 0x20 * p

/-- CAL_CFG (07_calibration.md). -/
def CAL_CFG : Nat := 0xC0000

/-- CAL_STATUS (07_calibration.md). -/
def CAL_STATUS : Nat := 0xC0004

/-- CAL_EVT (07_calibration.md). -/
def CAL_EVT : Nat := 0xC0008

/-- CAL_REF_CFG (07_calibration.md). -/
def CAL_REF_CFG : Nat := 0xC0010

/-- CAL_STIM (07_calibration.md). -/
def CAL_STIM : Nat := 0xC0014

/-- CAL_VREF (07_calibration.md). -/
def CAL_VREF : Nat := 0xC0018

/-- CAL_QMAP_CFG (07_calibration.md). -/
def CAL_QMAP_CFG : Nat := 0xC0020

/-- CAL_DEVQ_TERR (07_calibration.md). -/
def CAL_DEVQ_TERR : Nat := 0xC0030

/-- CAL_DEVQ_STAT (07_calibration.md). -/
def CAL_DEVQ_STAT : Nat := 0xC0034

/-- CAL_REFOFSt_A (07_calibration.md). -/
def CAL_REFOFS_A (t : Nat) : Nat := 0xC0100 + 0x8 * t

/-- CAL_REFOFSt_B (07_calibration.md). -/
def CAL_REFOFS_B (t : Nat) : Nat := 0xC0104 + 0x8 * t

/-- CAL_TQt (07_calibration.md). -/
def CAL_TQ (t : Nat) : Nat := 0xC0180 + 0x4 * t

/-- CAL_QMAPw (07_calibration.md). -/
def CAL_QMAP (w : Nat) : Nat := 0xC0400 + 0x4 * w

/-- CAL_BRANCHn_A (07_calibration.md). -/
def CAL_BRANCH_A (n : Nat) : Nat := 0xC0800 + 0x8 * n

/-- CAL_BRANCHn_B (07_calibration.md). -/
def CAL_BRANCH_B (n : Nat) : Nat := 0xC0804 + 0x8 * n

/-- CAL_RXQ0p (07_calibration.md). -/
def CAL_RXQ0 (p : Nat) : Nat := 0xC1000 + 0x20 * p

/-- CAL_TXQ0p (07_calibration.md). -/
def CAL_TXQ0 (p : Nat) : Nat := 0xC1008 + 0x20 * p

/-- CAL_RXQ1p (07_calibration.md). -/
def CAL_RXQ1 (p : Nat) : Nat := 0xC1004 + 0x20 * p

/-- CAL_TXQ1p (07_calibration.md). -/
def CAL_TXQ1 (p : Nat) : Nat := 0xC100C + 0x20 * p

/-- CAL_CONVQp (07_calibration.md). -/
def CAL_CONVQ (p : Nat) : Nat := 0xC1010 + 0x20 * p

/-- CAL_PFLAGp (07_calibration.md). -/
def CAL_PFLAG (p : Nat) : Nat := 0xC1014 + 0x20 * p

/-- CAL_TRIM_TXpc (07_calibration.md). -/
def CAL_TRIM_TX (p c : Nat) : Nat := 0xC2000 + 0x20 * p + 0x4 * c

/-- CAL_TRIM_RXpc (07_calibration.md). -/
def CAL_TRIM_RX (p c : Nat) : Nat := 0xC2010 + 0x20 * p + 0x4 * c

/-- CAL_REFTPLi (07_calibration.md). -/
def CAL_REFTPL (i : Nat) : Nat := 0xC8000 + 0x4 * i

/-- CHISEL_CFG (08_chisel_cores.md). -/
def CHISEL_CFG : Nat := 0xD0000

/-- CHISEL_STATUS (08_chisel_cores.md). -/
def CHISEL_STATUS : Nat := 0xD0004

/-- CHISEL_CAP (08_chisel_cores.md). -/
def CHISEL_CAP : Nat := 0xD0008

/-- CHISEL_EVT (08_chisel_cores.md). -/
def CHISEL_EVT : Nat := 0xD000C

/-- CHISEL_OVERRUN (08_chisel_cores.md). -/
def CHISEL_OVERRUN : Nat := 0xD0010

/-- CHISEL_FAULT (08_chisel_cores.md). -/
def CHISEL_FAULT : Nat := 0xD0014

/-- CHISEL_TRIG_DROP (08_chisel_cores.md). -/
def CHISEL_TRIG_DROP : Nat := 0xD0018

/-- CHISEL_REFUSED (08_chisel_cores.md). -/
def CHISEL_REFUSED : Nat := 0xD001C

/-- CHISEL_EVICT (08_chisel_cores.md). -/
def CHISEL_EVICT : Nat := 0xD0020

/-- CHISEL_COREc_LOAD (08_chisel_cores.md). -/
def CHISEL_CORE_LOAD (c : Nat) : Nat := 0xD0100 + 0x4 * c

/-- CHISEL_KSLOTk_STATUS (08_chisel_cores.md). -/
def CHISEL_KSLOT_STATUS (k : Nat) : Nat := 0xD0200 + 0x10 * k

/-- CHISEL_KSLOTk_MAX (08_chisel_cores.md). -/
def CHISEL_KSLOT_MAX (k : Nat) : Nat := 0xD0204 + 0x10 * k

/-- CHISEL_KSLOTk_ACT (08_chisel_cores.md). -/
def CHISEL_KSLOT_ACT (k : Nat) : Nat := 0xD0208 + 0x10 * k

/-- CHISEL_KSLOTk_LAST (08_chisel_cores.md). -/
def CHISEL_KSLOT_LAST (k : Nat) : Nat := 0xD020C + 0x10 * k

/-- SKX_PHY_CFG (09_skx_lanes.md). -/
def SKX_PHY_CFG : Nat := 0x80000

/-- SKX_PHY_THR (09_skx_lanes.md). -/
def SKX_PHY_THR : Nat := 0x80004

/-- SKX_PHY_SLEEP (09_skx_lanes.md). -/
def SKX_PHY_SLEEP : Nat := 0x80008

/-- SKX_PHY_STATUS (09_skx_lanes.md). -/
def SKX_PHY_STATUS : Nat := 0x8000C

/-- SKX_PHY_EVT (09_skx_lanes.md). -/
def SKX_PHY_EVT : Nat := 0x80010

/-- SKX_PHY_SETCHG (09_skx_lanes.md). -/
def SKX_PHY_SETCHG : Nat := 0x80014

/-- SKX_PHY_CELLS_LOST (09_skx_lanes.md). -/
def SKX_PHY_CELLS_LOST : Nat := 0x80018

/-- LANEk_STATE (09_skx_lanes.md). -/
def LANE_STATE (k : Nat) : Nat := 0x80100 + 0x40 * k

/-- LANEk_LQF (09_skx_lanes.md). -/
def LANE_LQF (k : Nat) : Nat := 0x80104 + 0x40 * k

/-- LANEk_FEC_CORR (09_skx_lanes.md). -/
def LANE_FEC_CORR (k : Nat) : Nat := 0x80108 + 0x40 * k

/-- LANEk_FEC_UNCORR (09_skx_lanes.md). -/
def LANE_FEC_UNCORR (k : Nat) : Nat := 0x8010C + 0x40 * k

/-- LANEk_RETRAIN (09_skx_lanes.md). -/
def LANE_RETRAIN (k : Nat) : Nat := 0x80110 + 0x40 * k

/-- LANEk_LAT (09_skx_lanes.md). -/
def LANE_LAT (k : Nat) : Nat := 0x80114 + 0x40 * k

/-- LANEk_EQ (09_skx_lanes.md). -/
def LANE_EQ (k : Nat) : Nat := 0x80118 + 0x40 * k

/-- SKX_CELL_CFG (10_skx_cells_and_flows.md). -/
def SKX_CELL_CFG : Nat := 0x90000

/-- SKX_CELL_STATUS (10_skx_cells_and_flows.md). -/
def SKX_CELL_STATUS : Nat := 0x90004

/-- SKX_CELL_CAP (10_skx_cells_and_flows.md). -/
def SKX_CELL_CAP : Nat := 0x90008

/-- SKX_CELL_DEMAND (10_skx_cells_and_flows.md). -/
def SKX_CELL_DEMAND : Nat := 0x9000C

/-- SKX_CELL_EVT (10_skx_cells_and_flows.md). -/
def SKX_CELL_EVT : Nat := 0x90010

/-- SKX_CELL_HCHK_ERR (10_skx_cells_and_flows.md). -/
def SKX_CELL_HCHK_ERR : Nat := 0x90020

/-- SKX_CELL_FMT_ERR (10_skx_cells_and_flows.md). -/
def SKX_CELL_FMT_ERR : Nat := 0x90024

/-- SKX_CELL_SEQ_GAP (10_skx_cells_and_flows.md). -/
def SKX_CELL_SEQ_GAP : Nat := 0x90028

/-- SKX_CELL_MSG_BAD (10_skx_cells_and_flows.md). -/
def SKX_CELL_MSG_BAD : Nat := 0x9002C

/-- SKX_CELL_LATE (10_skx_cells_and_flows.md). -/
def SKX_CELL_LATE : Nat := 0x90030

/-- SKX_CELL_MISSING (10_skx_cells_and_flows.md). -/
def SKX_CELL_MISSING : Nat := 0x90034

/-- SKX_CELL_DUP (10_skx_cells_and_flows.md). -/
def SKX_CELL_DUP : Nat := 0x90038

/-- SKX_CELL_BFP_SAT (10_skx_cells_and_flows.md). -/
def SKX_CELL_BFP_SAT : Nat := 0x9003C

/-- SKX_CELL_ABANDON (10_skx_cells_and_flows.md). -/
def SKX_CELL_ABANDON : Nat := 0x90040

/-- SKX_CELL_SHED_EVENTS (10_skx_cells_and_flows.md). -/
def SKX_CELL_SHED_EVENTS : Nat := 0x90044

/-- SKX_CELL_EVTENg (10_skx_cells_and_flows.md). -/
def SKX_CELL_EVTEN (g : Nat) : Nat := 0x90080 + 0x4 * g

/-- SKX_CELL_FLOWf_CFG (10_skx_cells_and_flows.md). -/
def SKX_CELL_FLOW_CFG (f : Nat) : Nat := 0x91000 + 0x8 * f

/-- SKX_CELL_FLOWf_STAT (10_skx_cells_and_flows.md). -/
def SKX_CELL_FLOW_STAT (f : Nat) : Nat := 0x91004 + 0x8 * f

/-- DRUNAS_CTRL (11_drunas_commands.md). -/
def DRUNAS_CTRL : Nat := 0x100

/-- DRUNAS_STATUS (11_drunas_commands.md). -/
def DRUNAS_STATUS : Nat := 0x104

/-- DRUNAS_SUBMIT (11_drunas_commands.md). -/
def DRUNAS_SUBMIT : Nat := 0x108

/-- DRUNAS_REPLY (11_drunas_commands.md). -/
def DRUNAS_REPLY : Nat := 0x10C

/-- DRUNAS_EVT (11_drunas_commands.md). -/
def DRUNAS_EVT : Nat := 0x110

/-- DRUNAS_RING_FULL (11_drunas_commands.md). -/
def DRUNAS_RING_FULL : Nat := 0x120

/-- DRUNAS_BAD_CHECK (11_drunas_commands.md). -/
def DRUNAS_BAD_CHECK : Nat := 0x124

/-- DRUNAS_REPLY_LOST (11_drunas_commands.md). -/
def DRUNAS_REPLY_LOST : Nat := 0x128

/-- DRUNAS_LATE (11_drunas_commands.md). -/
def DRUNAS_LATE : Nat := 0x12C

/-- DRUNAS_DONE (11_drunas_commands.md). -/
def DRUNAS_DONE : Nat := 0x130

/-- TIME_CFG (12_time_and_joined_systems.md). -/
def TIME_CFG : Nat := 0x20000

/-- TIME_SERVO (12_time_and_joined_systems.md). -/
def TIME_SERVO : Nat := 0x20004

/-- TIME_STATUS (12_time_and_joined_systems.md). -/
def TIME_STATUS : Nat := 0x20008

/-- TIME_EVT (12_time_and_joined_systems.md). -/
def TIME_EVT : Nat := 0x2000C

/-- TIME_NOW_LO (12_time_and_joined_systems.md). -/
def TIME_NOW_LO : Nat := 0x20010

/-- TIME_NOW_HI (12_time_and_joined_systems.md). -/
def TIME_NOW_HI : Nat := 0x20014

/-- TIME_NOW_FRAC (12_time_and_joined_systems.md). -/
def TIME_NOW_FRAC : Nat := 0x20018

/-- TIME_INC_LO (12_time_and_joined_systems.md). -/
def TIME_INC_LO : Nat := 0x20020

/-- TIME_INC_HI (12_time_and_joined_systems.md). -/
def TIME_INC_HI : Nat := 0x20024

/-- TIME_INC_SET_LO (12_time_and_joined_systems.md). -/
def TIME_INC_SET_LO : Nat := 0x20028

/-- TIME_INC_SET_HI (12_time_and_joined_systems.md). -/
def TIME_INC_SET_HI : Nat := 0x2002C

/-- TIME_OFS (12_time_and_joined_systems.md). -/
def TIME_OFS : Nat := 0x20030

/-- TIME_DELAY (12_time_and_joined_systems.md). -/
def TIME_DELAY : Nat := 0x20034

/-- TIME_EPOCH (12_time_and_joined_systems.md). -/
def TIME_EPOCH : Nat := 0x20038

/-- TIME_HOLD_AGE (12_time_and_joined_systems.md). -/
def TIME_HOLD_AGE : Nat := 0x2003C

/-- TIME_TSQ_E0 (12_time_and_joined_systems.md). -/
def TIME_TSQ_E0 : Nat := 0x20040

/-- TIME_TSQ_E1 (12_time_and_joined_systems.md). -/
def TIME_TSQ_E1 : Nat := 0x20044

/-- TIME_TSQ_E2 (12_time_and_joined_systems.md). -/
def TIME_TSQ_E2 : Nat := 0x20048

/-- TIME_TSQ_E3 (12_time_and_joined_systems.md). -/
def TIME_TSQ_E3 : Nat := 0x2004C

/-- TIME_TSQ_STAT (12_time_and_joined_systems.md). -/
def TIME_TSQ_STAT : Nat := 0x20050

/-- TIME_XCHG_BAD (12_time_and_joined_systems.md). -/
def TIME_XCHG_BAD : Nat := 0x20060

/-- TIME_RESP_LOST (12_time_and_joined_systems.md). -/
def TIME_RESP_LOST : Nat := 0x20064

/-- TIME_STEP_MUTE (12_time_and_joined_systems.md). -/
def TIME_STEP_MUTE : Nat := 0x20068

/-- TIME_PPS_CFG (12_time_and_joined_systems.md). -/
def TIME_PPS_CFG : Nat := 0x20070

/-- TIME_PPS_IN_LO (12_time_and_joined_systems.md). -/
def TIME_PPS_IN_LO : Nat := 0x20074

/-- TIME_PPS_IN_HI (12_time_and_joined_systems.md). -/
def TIME_PPS_IN_HI : Nat := 0x20078

/-- TIME_TSYNC_DLY (12_time_and_joined_systems.md). -/
def TIME_TSYNC_DLY : Nat := 0x20080

/-- TIME_TSYNC_ERR (12_time_and_joined_systems.md). -/
def TIME_TSYNC_ERR : Nat := 0x20084

/-- TIME_JOIN (12_time_and_joined_systems.md). -/
def TIME_JOIN : Nat := 0x20088

/-- TIME_SCHED_FIRED (12_time_and_joined_systems.md). -/
def TIME_SCHED_FIRED : Nat := 0x2008C

/-- TIME_ASYMk (12_time_and_joined_systems.md). -/
def TIME_ASYM (k : Nat) : Nat := 0x200A0 + 0x4 * k

/-- TIME_SCHEDs_CTRL (12_time_and_joined_systems.md). -/
def TIME_SCHED_CTRL (s : Nat) : Nat := 0x20200 + 0x10 * s

/-- TIME_SCHEDs_LO (12_time_and_joined_systems.md). -/
def TIME_SCHED_LO (s : Nat) : Nat := 0x20204 + 0x10 * s

/-- TIME_SCHEDs_HI (12_time_and_joined_systems.md). -/
def TIME_SCHED_HI (s : Nat) : Nat := 0x20208 + 0x10 * s

/-- TIME_SCHEDs_ARG (12_time_and_joined_systems.md). -/
def TIME_SCHED_ARG (s : Nat) : Nat := 0x2020C + 0x10 * s

/-- BIAS_CFG (13_coruf_bias_die.md). -/
def BIAS_CFG : Nat := 0x180000

/-- BIAS_STATUS (13_coruf_bias_die.md). -/
def BIAS_STATUS : Nat := 0x180004

/-- BIAS_EVT (13_coruf_bias_die.md). -/
def BIAS_EVT : Nat := 0x180008

/-- BIAS_SC0 (13_coruf_bias_die.md). -/
def BIAS_SC0 : Nat := 0x180010

/-- BIAS_SC1 (13_coruf_bias_die.md). -/
def BIAS_SC1 : Nat := 0x180014

/-- BIAS_SC2 (13_coruf_bias_die.md). -/
def BIAS_SC2 : Nat := 0x180018

/-- BIAS_TRIP_LO (13_coruf_bias_die.md). -/
def BIAS_TRIP_LO : Nat := 0x180020

/-- BIAS_TRIP_HI (13_coruf_bias_die.md). -/
def BIAS_TRIP_HI : Nat := 0x180024

/-- BIAS_LINK_ERR (13_coruf_bias_die.md). -/
def BIAS_LINK_ERR : Nat := 0x180030

/-- BIAS_WD_COUNT (13_coruf_bias_die.md). -/
def BIAS_WD_COUNT : Nat := 0x180034

/-- BIAS_TEST (13_coruf_bias_die.md). -/
def BIAS_TEST : Nat := 0x180040

/-- BIAS_OUTn_CFG (13_coruf_bias_die.md). -/
def BIAS_OUT_CFG (n : Nat) : Nat := 0x180100 + 0x10 * n

/-- BIAS_OUTn_CODE (13_coruf_bias_die.md). -/
def BIAS_OUT_CODE (n : Nat) : Nat := 0x180104 + 0x10 * n

/-- BIAS_OUTn_STATUS (13_coruf_bias_die.md). -/
def BIAS_OUT_STATUS (n : Nat) : Nat := 0x180108 + 0x10 * n

/-- BIAS_SNSp_CFG (13_coruf_bias_die.md). -/
def BIAS_SNS_CFG (p : Nat) : Nat := 0x181000 + 0x10 * p

/-- BIAS_SNSp_THR (13_coruf_bias_die.md). -/
def BIAS_SNS_THR (p : Nat) : Nat := 0x181004 + 0x10 * p

/-- BIAS_SNSp_LIM (13_coruf_bias_die.md). -/
def BIAS_SNS_LIM (p : Nat) : Nat := 0x181008 + 0x10 * p

/-- BIAS_SNSp_VAL (13_coruf_bias_die.md). -/
def BIAS_SNS_VAL (p : Nat) : Nat := 0x18100C + 0x10 * p

/-- SYS_BUS_ERR_INFO (14_register_access_dma_and_check_values.md). -/
def SYS_BUS_ERR_INFO : Nat := 0x40

/-- SYS_BUS_ERR_ADDR (14_register_access_dma_and_check_values.md). -/
def SYS_BUS_ERR_ADDR : Nat := 0x44

/-- SYS_BUS_ERR_CNT (14_register_access_dma_and_check_values.md). -/
def SYS_BUS_ERR_CNT : Nat := 0x48

/-- SYS_DOMAIN_OFF (14_register_access_dma_and_check_values.md). -/
def SYS_DOMAIN_OFF : Nat := 0x4C

/-- SYS_SPI_STATUS (14_register_access_dma_and_check_values.md). -/
def SYS_SPI_STATUS : Nat := 0x50

/-- DERRICK_CFG (14_register_access_dma_and_check_values.md). -/
def DERRICK_CFG : Nat := 0x60000

/-- DERRICK_STATUS (14_register_access_dma_and_check_values.md). -/
def DERRICK_STATUS : Nat := 0x60004

/-- DERRICK_EVT (14_register_access_dma_and_check_values.md). -/
def DERRICK_EVT : Nat := 0x60008

/-- DERRICK_ERR_ADDR (14_register_access_dma_and_check_values.md). -/
def DERRICK_ERR_ADDR : Nat := 0x6000C

/-- DERRICK_ERR_INFO (14_register_access_dma_and_check_values.md). -/
def DERRICK_ERR_INFO : Nat := 0x60010

/-- DERRICK_CHc_DESC (14_register_access_dma_and_check_values.md). -/
def DERRICK_CH_DESC (c : Nat) : Nat := 0x60100 + 0x20 * c

/-- DERRICK_CHc_CTRL (14_register_access_dma_and_check_values.md). -/
def DERRICK_CH_CTRL (c : Nat) : Nat := 0x60104 + 0x20 * c

/-- DERRICK_CHc_STATUS (14_register_access_dma_and_check_values.md). -/
def DERRICK_CH_STATUS (c : Nat) : Nat := 0x60108 + 0x20 * c

/-- DERRICK_CHc_CUR (14_register_access_dma_and_check_values.md). -/
def DERRICK_CH_CUR (c : Nat) : Nat := 0x6010C + 0x20 * c

/-- DERRICK_CHc_SRC (14_register_access_dma_and_check_values.md). -/
def DERRICK_CH_SRC (c : Nat) : Nat := 0x60110 + 0x20 * c

/-- DERRICK_CHc_DST (14_register_access_dma_and_check_values.md). -/
def DERRICK_CH_DST (c : Nat) : Nat := 0x60114 + 0x20 * c

/-- DERRICK_CHc_COUNT (14_register_access_dma_and_check_values.md). -/
def DERRICK_CH_COUNT (c : Nat) : Nat := 0x60118 + 0x20 * c

/-- CHECK_CFG (14_register_access_dma_and_check_values.md). -/
def CHECK_CFG : Nat := 0x70000

/-- CHECK_CTRL (14_register_access_dma_and_check_values.md). -/
def CHECK_CTRL : Nat := 0x70004

/-- CHECK_ADDR (14_register_access_dma_and_check_values.md). -/
def CHECK_ADDR : Nat := 0x70008

/-- CHECK_LEN (14_register_access_dma_and_check_values.md). -/
def CHECK_LEN : Nat := 0x7000C

/-- CHECK_DATA (14_register_access_dma_and_check_values.md). -/
def CHECK_DATA : Nat := 0x70010

/-- CHECK_RESULT (14_register_access_dma_and_check_values.md). -/
def CHECK_RESULT : Nat := 0x70014

/-- CHECK_STATUS (14_register_access_dma_and_check_values.md). -/
def CHECK_STATUS : Nat := 0x70018

/-- CHECK_EVT (14_register_access_dma_and_check_values.md). -/
def CHECK_EVT : Nat := 0x7001C

/-- CHECK_ERR_ADDR (14_register_access_dma_and_check_values.md). -/
def CHECK_ERR_ADDR : Nat := 0x70020

/-- SUMP_CFG (15_faults_retirement_and_thermal.md). -/
def SUMP_CFG : Nat := 0x30000

/-- SUMP_STATUS (15_faults_retirement_and_thermal.md). -/
def SUMP_STATUS : Nat := 0x30004

/-- SUMP_FAULTN (15_faults_retirement_and_thermal.md). -/
def SUMP_FAULTN : Nat := 0x30020

/-- SUMP_FIRST_INFO (15_faults_retirement_and_thermal.md). -/
def SUMP_FIRST_INFO : Nat := 0x30010

/-- SUMP_FIRST_LO (15_faults_retirement_and_thermal.md). -/
def SUMP_FIRST_LO : Nat := 0x30014

/-- SUMP_FIRST_HI (15_faults_retirement_and_thermal.md). -/
def SUMP_FIRST_HI : Nat := 0x30018

/-- SUMP_FIRST_EPOCH (15_faults_retirement_and_thermal.md). -/
def SUMP_FIRST_EPOCH : Nat := 0x3001C

/-- SUMP_EVT (15_faults_retirement_and_thermal.md). -/
def SUMP_EVT : Nat := 0x30008

/-- SUMP_RETIREDg (15_faults_retirement_and_thermal.md). -/
def SUMP_RETIRED (g : Nat) : Nat := 0x30040 + 0x4 * g

/-- SUMP_MASKED (15_faults_retirement_and_thermal.md). -/
def SUMP_MASKED : Nat := 0x30060

/-- SUMP_LOG_DROP (15_faults_retirement_and_thermal.md). -/
def SUMP_LOG_DROP : Nat := 0x30064

/-- SUMP_LOG_HEAD (15_faults_retirement_and_thermal.md). -/
def SUMP_LOG_HEAD : Nat := 0x30070

/-- SUMP_LOG_ADDR (15_faults_retirement_and_thermal.md). -/
def SUMP_LOG_ADDR : Nat := 0x30074

/-- SUMP_LOG_DATA (15_faults_retirement_and_thermal.md). -/
def SUMP_LOG_DATA : Nat := 0x30078

/-- SUMP_THERMd_CFG (15_faults_retirement_and_thermal.md). -/
def SUMP_THERM_CFG (d : Nat) : Nat := 0x30100 + 0x10 * d

/-- SUMP_THERMd_STATUS (15_faults_retirement_and_thermal.md). -/
def SUMP_THERM_STATUS (d : Nat) : Nat := 0x30104 + 0x10 * d

/-- SUMP_THERMd_TEMP (15_faults_retirement_and_thermal.md). -/
def SUMP_THERM_TEMP (d : Nat) : Nat := 0x30108 + 0x10 * d

/-- SUMP_THERMd_MODEL (15_faults_retirement_and_thermal.md). -/
def SUMP_THERM_MODEL (d : Nat) : Nat := 0x3010C + 0x10 * d

/-- SUMP_SRCn_CFG (15_faults_retirement_and_thermal.md). -/
def SUMP_SRC_CFG (n : Nat) : Nat := 0x31000 + 0x8 * n

/-- SUMP_SRCn_STATUS (15_faults_retirement_and_thermal.md). -/
def SUMP_SRC_STATUS (n : Nat) : Nat := 0x31004 + 0x8 * n

/-- EVENT_STATg (15_faults_retirement_and_thermal.md). -/
def EVENT_STAT (g : Nat) : Nat := 0xE0000 + 0x10 * g

/-- EVENT_ENg (15_faults_retirement_and_thermal.md). -/
def EVENT_EN (g : Nat) : Nat := 0xE0004 + 0x10 * g

/-- EVENT_PEND (15_faults_retirement_and_thermal.md). -/
def EVENT_PEND : Nat := 0xE0100

/-- EVENT_CFG (15_faults_retirement_and_thermal.md). -/
def EVENT_CFG : Nat := 0xE0104

/-- POWER_REQ (16_supplies_start_up_and_power_states.md). -/
def POWER_REQ : Nat := 0x40000

/-- POWER_STATUS (16_supplies_start_up_and_power_states.md). -/
def POWER_STATUS : Nat := 0x40004

/-- POWER_EVT (16_supplies_start_up_and_power_states.md). -/
def POWER_EVT : Nat := 0x40008

/-- POWER_CFG (16_supplies_start_up_and_power_states.md). -/
def POWER_CFG : Nat := 0x4000C

/-- POWER_REFUSED (16_supplies_start_up_and_power_states.md). -/
def POWER_REFUSED : Nat := 0x40010

/-- POWER_ABORTED (16_supplies_start_up_and_power_states.md). -/
def POWER_ABORTED : Nat := 0x40014

/-- POWER_LAST (16_supplies_start_up_and_power_states.md). -/
def POWER_LAST : Nat := 0x40018

/-- POWER_VOLT (16_supplies_start_up_and_power_states.md). -/
def POWER_VOLT : Nat := 0x4001C

/-- POWER_AON_CFG (16_supplies_start_up_and_power_states.md). -/
def POWER_AON_CFG : Nat := 0x40100

/-- POWER_AON_TIMER (16_supplies_start_up_and_power_states.md). -/
def POWER_AON_TIMER : Nat := 0x40104

/-- POWER_AON_CAUSE (16_supplies_start_up_and_power_states.md). -/
def POWER_AON_CAUSE : Nat := 0x40108

/-- POWER_AON_CNT (16_supplies_start_up_and_power_states.md). -/
def POWER_AON_CNT : Nat := 0x4010C

/-- SEC_STATUS (17_security_debug_and_power.md). -/
def SEC_STATUS : Nat := 0x50000

/-- SEC_CFG (17_security_debug_and_power.md). -/
def SEC_CFG : Nat := 0x50004

/-- SEC_EVT (17_security_debug_and_power.md). -/
def SEC_EVT : Nat := 0x50008

/-- SEC_BOOTCNT (17_security_debug_and_power.md). -/
def SEC_BOOTCNT : Nat := 0x5000C

/-- SEC_AUTH_FAIL (17_security_debug_and_power.md). -/
def SEC_AUTH_FAIL : Nat := 0x50010

/-- SEC_RXSEQ_LINK (17_security_debug_and_power.md). -/
def SEC_RXSEQ_LINK : Nat := 0x50020

/-- SEC_RXSEQ_SPI (17_security_debug_and_power.md). -/
def SEC_RXSEQ_SPI : Nat := 0x50024

end Reg

/-- Registers of block CADENCE. -/
def rowsCadence : List RegRow := [
  -- CADENCE_CFG
  ⟨0x0, [], [⟨31, 31, .rw, false, 0x0⟩, ⟨22, 16, .rw, true, 0x10⟩, ⟨13, 8, .rw, true, 0x8⟩, ⟨1, 0, .rw, true, 0x0⟩]⟩,
  -- CADENCE_STATUS
  ⟨0x4, [], [⟨31, 31, .ro, false, 0x0⟩, ⟨30, 30, .ro, false, 0x0⟩, ⟨29, 29, .ro, false, 0x0⟩, ⟨28, 28, .ro, false, 0x0⟩, ⟨27, 27, .ro, false, 0x0⟩, ⟨26, 26, .ro, false, 0x0⟩, ⟨25, 25, .ro, false, 0x0⟩, ⟨15, 8, .ro, false, 0x0⟩]⟩,
  -- CADENCE_SYMADDR
  ⟨0x8, [], [⟨25, 16, .ro, false, 0x0⟩, ⟨15, 12, .ro, false, 0x0⟩, ⟨11, 8, .ro, false, 0x0⟩, ⟨4, 4, .ro, false, 0x0⟩, ⟨3, 0, .ro, false, 0x0⟩]⟩,
  -- CADENCE_TICK_TIME_LO
  ⟨0x10, [], [⟨31, 0, .ro, false, 0x0⟩]⟩,
  -- CADENCE_TICK_TIME_HI
  ⟨0x14, [], [⟨31, 0, .ro, false, 0x0⟩]⟩,
  -- CADENCE_PHASE
  ⟨0x18, [], [⟨8, 0, .ro, false, 0x0⟩]⟩,
  -- CADENCE_TICK_COUNT
  ⟨0x20, [], [⟨31, 0, .cnt, false, 0x0⟩]⟩,
  -- CADENCE_SUPERSEDED
  ⟨0x24, [], [⟨31, 0, .cnt, false, 0x0⟩]⟩,
  -- CADENCE_LATE
  ⟨0x28, [], [⟨31, 0, .cnt, false, 0x0⟩]⟩,
  -- CADENCE_EVT
  ⟨0x2C, [], [⟨4, 4, .w1c, false, 0x0⟩, ⟨3, 3, .w1c, false, 0x0⟩, ⟨2, 2, .w1c, false, 0x0⟩, ⟨1, 1, .w1c, false, 0x0⟩, ⟨0, 0, .w1c, false, 0x0⟩]⟩,
  -- CADENCE_STEP_GAP
  ⟨0x30, [], [⟨31, 0, .ro, false, 0x0⟩]⟩]

/-- Registers of block TILE, part 0. -/
def rowsTile0 : List RegRow := [
  -- TILE_CFG
  ⟨0x0, [], [⟨2, 2, .rw, false, 0x1⟩, ⟨1, 0, .rw, true, 0x0⟩]⟩,
  -- TILE_STATUS
  ⟨0x4, [], [⟨31, 31, .ro, false, 0x0⟩, ⟨30, 30, .ro, false, 0x0⟩, ⟨29, 29, .ro, false, 0x0⟩, ⟨28, 28, .ro, false, 0x0⟩, ⟨10, 8, .ro, false, 0x0⟩, ⟨3, 3, .ro, false, 0x0⟩, ⟨2, 2, .ro, false, 0x0⟩, ⟨1, 1, .ro, false, 0x0⟩, ⟨0, 0, .ro, false, 0x0⟩]⟩,
  -- TILE_PATH_MODE_LO
  ⟨0x8, [], [⟨1, 0, .rw, true, 0x0⟩, ⟨3, 2, .rw, true, 0x0⟩, ⟨5, 4, .rw, true, 0x0⟩, ⟨7, 6, .rw, true, 0x0⟩, ⟨9, 8, .rw, true, 0x0⟩, ⟨11, 10, .rw, true, 0x0⟩, ⟨13, 12, .rw, true, 0x0⟩, ⟨15, 14, .rw, true, 0x0⟩]⟩,
  -- TILE_PATH_MODE_HI
  ⟨0xC, [], [⟨1, 0, .rw, true, 0x0⟩, ⟨3, 2, .rw, true, 0x0⟩, ⟨5, 4, .rw, true, 0x0⟩, ⟨7, 6, .rw, true, 0x0⟩, ⟨9, 8, .rw, true, 0x0⟩, ⟨11, 10, .rw, true, 0x0⟩, ⟨13, 12, .rw, true, 0x0⟩, ⟨15, 14, .rw, true, 0x0⟩]⟩,
  -- TILE_PATH_STATE_LO
  ⟨0x10, [], [⟨1, 0, .ro, false, 0x0⟩, ⟨3, 2, .ro, false, 0x0⟩, ⟨5, 4, .ro, false, 0x0⟩, ⟨7, 6, .ro, false, 0x0⟩, ⟨9, 8, .ro, false, 0x0⟩, ⟨11, 10, .ro, false, 0x0⟩, ⟨13, 12, .ro, false, 0x0⟩, ⟨15, 14, .ro, false, 0x0⟩]⟩,
  -- TILE_PATH_STATE_HI
  ⟨0x14, [], [⟨1, 0, .ro, false, 0x0⟩, ⟨3, 2, .ro, false, 0x0⟩, ⟨5, 4, .ro, false, 0x0⟩, ⟨7, 6, .ro, false, 0x0⟩, ⟨9, 8, .ro, false, 0x0⟩, ⟨11, 10, .ro, false, 0x0⟩, ⟨13, 12, .ro, false, 0x0⟩, ⟨15, 14, .ro, false, 0x0⟩]⟩,
  -- TILE_SYN_A_INT
  ⟨0x40, [], [⟨9, 8, .rw, false, 0x0⟩, ⟨5, 0, .rw, false, 0x0⟩]⟩,
  -- TILE_SYN_B_INT
  ⟨0x48, [], [⟨9, 8, .rw, false, 0x0⟩, ⟨5, 0, .rw, false, 0x0⟩]⟩,
  -- TILE_SYN_A_FRAC
  ⟨0x44, [], [⟨31, 0, .rw, true, 0x0⟩]⟩,
  -- TILE_SYN_B_FRAC
  ⟨0x4C, [], [⟨31, 0, .rw, true, 0x0⟩]⟩,
  -- TILE_SYN_CTRL
  ⟨0x50, [], [⟨5, 4, .rw, false, 0x1⟩, ⟨2, 2, .rw, false, 0x1⟩, ⟨0, 0, .rw, true, 0x0⟩]⟩,
  -- TILE_SYN_STATUS
  ⟨0x54, [], [⟨31, 24, .ro, false, 0x0⟩, ⟨23, 16, .ro, false, 0x0⟩, ⟨11, 11, .ro, false, 0x0⟩, ⟨10, 10, .ro, false, 0x0⟩, ⟨9, 9, .ro, false, 0x0⟩, ⟨8, 8, .ro, false, 0x0⟩, ⟨2, 2, .ro, false, 0x0⟩, ⟨1, 1, .ro, false, 0x0⟩, ⟨0, 0, .ro, false, 0x0⟩]⟩]

/-- Registers of block TILE, part 1. -/
def rowsTile1 : List RegRow := [
  -- TILE_SYN_SLIPS
  ⟨0x58, [], [⟨31, 16, .cnt, false, 0x0⟩, ⟨15, 0, .cnt, false, 0x0⟩]⟩,
  -- TILE_SYN_PHASE
  ⟨0x5C, [], [⟨31, 16, .ro, false, 0x0⟩, ⟨15, 0, .rw, false, 0x0⟩]⟩,
  -- TILE_SYN_QCFG
  ⟨0x60, [], [⟨31, 24, .rw, false, 0x9⟩, ⟨15, 8, .rw, false, 0x8⟩, ⟨7, 0, .rw, false, 0x20⟩]⟩,
  -- TILE_LO_HELD
  ⟨0x70, [], [⟨31, 0, .cnt, false, 0x0⟩]⟩,
  -- TILE_DEFER
  ⟨0x74, [], [⟨31, 0, .cnt, false, 0x0⟩]⟩,
  -- TILE_EVT
  ⟨0x78, [], [⟨7, 7, .w1c, false, 0x0⟩, ⟨6, 6, .w1c, false, 0x0⟩, ⟨5, 5, .w1c, false, 0x0⟩, ⟨4, 4, .w1c, false, 0x0⟩, ⟨3, 3, .w1c, false, 0x0⟩, ⟨2, 2, .w1c, false, 0x0⟩, ⟨1, 1, .w1c, false, 0x0⟩, ⟨0, 0, .w1c, false, 0x0⟩]⟩,
  -- TILE_PIDXk
  ⟨0x100, [(16, 0x4)], [⟨9, 0, .rw, true, 0x0⟩]⟩,
  -- TILE_RXATTk
  ⟨0x140, [(16, 0x4)], [⟨4, 0, .rw, true, 0x0⟩]⟩,
  -- WAKE_CFG
  ⟨0x200, [], [⟨31, 31, .rw, false, 0x0⟩, ⟨30, 30, .rw, false, 0x0⟩, ⟨29, 29, .rw, false, 0x0⟩, ⟨23, 16, .rw, false, 0x2⟩, ⟨7, 4, .rw, false, 0x0⟩]⟩,
  -- WAKE_STATUS
  ⟨0x204, [], [⟨13, 12, .ro, false, 0x0⟩, ⟨11, 11, .w1c, false, 0x0⟩, ⟨10, 10, .w1c, false, 0x0⟩]⟩,
  -- TILE_PSTEP_TAB
  ⟨0x1000, [(1024, 0x4)], [⟨31, 24, .rw, false, 0x0⟩, ⟨17, 12, .rw, false, 0x0⟩, ⟨11, 0, .rw, false, 0x0⟩]⟩,
  -- TILE_RELIEF_CFG
  ⟨0x400, [], [⟨31, 31, .rw, false, 0x1⟩, ⟨30, 30, .rw, false, 0x1⟩, ⟨19, 16, .rw, false, 0x4⟩, ⟨15, 12, .rw, false, 0x2⟩, ⟨7, 0, .rw, false, 0xC⟩]⟩]

/-- Registers of block TILE, part 2. -/
def rowsTile2 : List RegRow := [
  -- TILE_RELIEF_STATUS
  ⟨0x404, [], [⟨31, 31, .ro, false, 0x0⟩, ⟨30, 30, .ro, false, 0x0⟩, ⟨29, 29, .ro, false, 0x0⟩, ⟨28, 28, .ro, false, 0x0⟩, ⟨27, 27, .ro, false, 0x0⟩, ⟨26, 26, .ro, false, 0x0⟩, ⟨20, 16, .ro, false, 0x0⟩, ⟨11, 8, .ro, false, 0x0⟩, ⟨7, 4, .ro, false, 0x0⟩, ⟨3, 2, .ro, false, 0x0⟩, ⟨1, 1, .ro, false, 0x0⟩, ⟨0, 0, .ro, false, 0x0⟩]⟩,
  -- TILE_RELIEF_HO
  ⟨0x408, [], [⟨31, 0, .cnt, false, 0x0⟩]⟩,
  -- TILE_RELIEF_FAIL
  ⟨0x40C, [], [⟨31, 0, .cnt, false, 0x0⟩]⟩,
  -- TILE_RELIEF_EVT
  ⟨0x410, [], [⟨2, 2, .w1c, false, 0x0⟩, ⟨1, 1, .w1c, false, 0x0⟩, ⟨0, 0, .w1c, false, 0x0⟩]⟩,
  -- TILE_RELIEF_METRIC
  ⟨0x414, [], [⟨15, 8, .ro, false, 0x0⟩, ⟨7, 0, .ro, false, 0x0⟩]⟩,
  -- TILE_CONV_TRIM_Aj
  ⟨0x500, [(34, 0x8)], [⟨31, 24, .ro, false, 0x0⟩, ⟨23, 16, .ro, false, 0x0⟩, ⟨15, 8, .ro, false, 0x0⟩, ⟨7, 0, .ro, false, 0x0⟩]⟩,
  -- TILE_CONV_TRIM_Bj
  ⟨0x504, [(34, 0x8)], [⟨15, 0, .ro, false, 0x0⟩]⟩,
  -- TILE_CH_RX_DCk
  ⟨0x2000, [(16, 0x80)], [⟨31, 16, .rw, true, 0x0⟩, ⟨15, 0, .rw, true, 0x0⟩]⟩,
  -- TILE_CH_TX_LOLk
  ⟨0x2004, [(16, 0x80)], [⟨31, 16, .rw, true, 0x0⟩, ⟨15, 0, .rw, true, 0x0⟩]⟩,
  -- TILE_CH_DLY_HOSTk
  ⟨0x2008, [(16, 0x80)], [⟨31, 16, .rw, true, 0x0⟩, ⟨15, 0, .rw, true, 0x0⟩]⟩,
  -- TILE_CH_DLY_CALk
  ⟨0x200C, [(16, 0x80)], [⟨31, 16, .rw, true, 0x0⟩, ⟨15, 0, .rw, true, 0x0⟩]⟩,
  -- TILE_CH_GAIN_PATHk
  ⟨0x2010, [(16, 0x80)], [⟨31, 16, .rw, true, 0x4000⟩, ⟨15, 0, .rw, true, 0x4000⟩]⟩]

/-- Registers of block TILE, part 3. -/
def rowsTile3 : List RegRow := [
  -- TILE_CH_GAIN_CARck
  ⟨0x2014, [(16, 0x80), (4, 0x4)], [⟨31, 16, .rw, true, 0x4000⟩, ⟨15, 0, .rw, true, 0x4000⟩]⟩,
  -- TILE_CH_STATUSk
  ⟨0x2024, [(16, 0x80)], [⟨31, 31, .ro, false, 0x0⟩, ⟨30, 30, .ro, false, 0x0⟩, ⟨29, 29, .ro, false, 0x0⟩, ⟨28, 28, .ro, false, 0x0⟩, ⟨2, 2, .w1c, false, 0x0⟩, ⟨1, 1, .w1c, false, 0x0⟩, ⟨0, 0, .w1c, false, 0x0⟩]⟩,
  -- TILE_CH_SATk
  ⟨0x2028, [(16, 0x80)], [⟨31, 16, .cnt, false, 0x0⟩, ⟨15, 0, .cnt, false, 0x0⟩]⟩,
  -- TILE_CH_RX_IQjk
  ⟨0x2040, [(16, 0x80), (7, 0x4)], [⟨31, 16, .rw, true, 0x0⟩, ⟨15, 0, .rw, true, 0x0⟩]⟩,
  -- TILE_CH_TX_IQjk
  ⟨0x2060, [(16, 0x80), (7, 0x4)], [⟨31, 16, .rw, true, 0x0⟩, ⟨15, 0, .rw, true, 0x0⟩]⟩,
  -- TILE_ORX_DCm
  ⟨0x3000, [(4, 0x40)], [⟨31, 16, .rw, true, 0x0⟩, ⟨15, 0, .rw, true, 0x0⟩]⟩,
  -- TILE_ORX_IQjm
  ⟨0x3004, [(4, 0x40), (7, 0x4)], [⟨31, 16, .rw, true, 0x0⟩, ⟨15, 0, .rw, true, 0x0⟩]⟩]

/-- Registers of block TILE. -/
def rowsTile : List RegRow := rowsTile0 ++ rowsTile1 ++ rowsTile2 ++ rowsTile3

/-- Registers of block BEAM, part 0. -/
def rowsBeam0 : List RegRow := [
  -- BEAM_CFG
  ⟨0x0, [], [⟨31, 31, .rw, true, 0x0⟩, ⟨10, 8, .rw, true, 0x3⟩, ⟨2, 2, .rw, true, 0x1⟩, ⟨1, 1, .rw, true, 0x0⟩, ⟨0, 0, .rw, true, 0x0⟩]⟩,
  -- BEAM_STATUS
  ⟨0x4, [], [⟨31, 31, .ro, false, 0x0⟩, ⟨30, 30, .ro, false, 0x0⟩, ⟨29, 29, .ro, false, 0x0⟩, ⟨28, 28, .ro, false, 0x0⟩, ⟨27, 27, .ro, false, 0x0⟩, ⟨26, 26, .ro, false, 0x0⟩, ⟨25, 23, .ro, false, 0x0⟩, ⟨22, 20, .ro, false, 0x0⟩, ⟨19, 19, .ro, false, 0x0⟩, ⟨17, 8, .ro, false, 0x0⟩, ⟨7, 0, .ro, false, 0x0⟩]⟩,
  -- BEAM_BANK
  ⟨0x8, [], [⟨2, 2, .wo, false, 0x0⟩, ⟨1, 1, .rw, true, 0x0⟩, ⟨0, 0, .rw, true, 0x0⟩]⟩,
  -- BEAM_RETIRED_LO
  ⟨0x10, [], [⟨31, 0, .ro, false, 0x0⟩]⟩,
  -- BEAM_RETIRED_HI
  ⟨0x14, [], [⟨31, 0, .ro, false, 0x0⟩]⟩,
  -- BEAM_EVT
  ⟨0x20, [], [⟨10, 10, .w1c, false, 0x0⟩, ⟨9, 9, .w1c, false, 0x0⟩, ⟨8, 8, .w1c, false, 0x0⟩, ⟨7, 7, .w1c, false, 0x0⟩, ⟨6, 6, .w1c, false, 0x0⟩, ⟨5, 5, .w1c, false, 0x0⟩, ⟨4, 4, .w1c, false, 0x0⟩, ⟨3, 3, .w1c, false, 0x0⟩, ⟨2, 2, .w1c, false, 0x0⟩, ⟨1, 1, .w1c, false, 0x0⟩, ⟨0, 0, .w1c, false, 0x0⟩]⟩,
  -- BEAM_SAT
  ⟨0x24, [], [⟨31, 16, .cnt, false, 0x0⟩, ⟨15, 0, .cnt, false, 0x0⟩]⟩,
  -- BEAM_SWDEFER
  ⟨0x28, [], [⟨31, 0, .cnt, false, 0x0⟩]⟩,
  -- BEAM_ECC
  ⟨0x2C, [], [⟨31, 16, .cnt, false, 0x0⟩, ⟨15, 0, .cnt, false, 0x0⟩]⟩,
  -- BEAM_SND_DROP
  ⟨0x30, [], [⟨31, 16, .cnt, false, 0x0⟩, ⟨15, 0, .cnt, false, 0x0⟩]⟩,
  -- BEAM_CARc_CFG
  ⟨0x40, [(4, 0x10)], [⟨31, 31, .rw, true, 0x0⟩, ⟨30, 29, .rw, true, 0x0⟩, ⟨24, 16, .rw, true, 0x0⟩, ⟨11, 0, .rw, true, 0x0⟩]⟩,
  -- BEAM_CARc_NCO
  ⟨0x44, [(4, 0x10)], [⟨31, 0, .rw, true, 0x0⟩]⟩]

/-- Registers of block BEAM, part 1. -/
def rowsBeam1 : List RegRow := [
  -- BEAM_CARc_LDL
  ⟨0x48, [(4, 0x10)], [⟨31, 0, .rw, true, 0x0⟩]⟩,
  -- BEAM_CARc_LUL
  ⟨0x4C, [(4, 0x10)], [⟨31, 0, .rw, true, 0x0⟩]⟩,
  -- BEAM_SLOTBASEc
  ⟨0x80, [(4, 0x4)], [⟨25, 16, .ro, false, 0x0⟩, ⟨9, 0, .ro, false, 0x0⟩]⟩,
  -- BEAM_SOLVER_CFG
  ⟨0x100, [], [⟨31, 31, .rw, false, 0x0⟩, ⟨30, 30, .rw, false, 0x1⟩, ⟨29, 29, .rw, false, 0x1⟩, ⟨27, 16, .rw, false, 0x38⟩, ⟨7, 0, .rw, false, 0x4⟩]⟩,
  -- BEAM_SOLVER_REG
  ⟨0x104, [], [⟨31, 0, .rw, false, 0x3C23D70A⟩]⟩,
  -- BEAM_SOLVER_PIVOT
  ⟨0x108, [], [⟨31, 0, .rw, false, 0x35800000⟩]⟩,
  -- BEAM_SOLVER_STATUS
  ⟨0x10C, [], [⟨31, 31, .ro, false, 0x0⟩, ⟨30, 30, .ro, false, 0x0⟩, ⟨29, 29, .ro, false, 0x0⟩, ⟨11, 0, .ro, false, 0x0⟩]⟩,
  -- BEAM_SOLVER_MISS
  ⟨0x110, [], [⟨31, 0, .cnt, false, 0x0⟩]⟩,
  -- BEAM_SOLVER_ILL
  ⟨0x114, [], [⟨31, 0, .cnt, false, 0x0⟩]⟩,
  -- BEAM_SOLVER_DONE
  ⟨0x11C, [], [⟨31, 0, .cnt, false, 0x0⟩]⟩,
  -- BEAM_SOLVER_AGED
  ⟨0x118, [], [⟨31, 0, .ro, false, 0x0⟩]⟩,
  -- BEAM_SOLVER_POWl
  ⟨0x200, [(32, 0x4)], [⟨15, 0, .rw, false, 0x1000⟩]⟩]

/-- Registers of block BEAM, part 2. -/
def rowsBeam2 : List RegRow := [
  -- BEAM_LGAINcl
  ⟨0x400, [(4, 0x80), (32, 0x4)], [⟨31, 16, .rw, true, 0x4000⟩, ⟨15, 0, .rw, true, 0x4000⟩]⟩]

/-- Registers of block BEAM. -/
def rowsBeam : List RegRow := rowsBeam0 ++ rowsBeam1 ++ rowsBeam2

/-- Registers of block DPD, part 0. -/
def rowsDpd0 : List RegRow := [
  -- DPD_CFG
  ⟨0x0, [], [⟨31, 31, .rw, false, 0x1⟩, ⟨23, 16, .rw, false, 0x8⟩, ⟨15, 8, .rw, false, 0x80⟩, ⟨7, 4, .rw, false, 0x4⟩, ⟨3, 0, .rw, false, 0xA⟩]⟩,
  -- DPD_SEL_THR
  ⟨0x4, [], [⟨29, 20, .rw, true, 0x200⟩, ⟨19, 10, .rw, true, 0x100⟩, ⟨9, 0, .rw, true, 0x80⟩]⟩,
  -- DPD_TIMING
  ⟨0x8, [], [⟨15, 0, .rw, false, 0x64⟩]⟩,
  -- DPD_LUT_ADDR
  ⟨0x10, [], [⟨31, 26, .rw, false, 0x0⟩, ⟨25, 23, .rw, false, 0x0⟩, ⟨10, 0, .rw, false, 0x0⟩]⟩,
  -- DPD_LUT_DATA
  ⟨0x14, [], [⟨31, 0, .rw, false, 0x0⟩]⟩,
  -- DPD_EVT
  ⟨0x20, [], [⟨7, 7, .w1c, false, 0x0⟩, ⟨6, 6, .w1c, false, 0x0⟩, ⟨5, 5, .w1c, false, 0x0⟩, ⟨4, 4, .w1c, false, 0x0⟩, ⟨3, 3, .w1c, false, 0x0⟩, ⟨2, 2, .w1c, false, 0x0⟩, ⟨1, 1, .w1c, false, 0x0⟩, ⟨0, 0, .w1c, false, 0x0⟩]⟩,
  -- DPD_UPD_DONE
  ⟨0x28, [], [⟨31, 0, .cnt, false, 0x0⟩]⟩,
  -- DPD_REVERT
  ⟨0x2C, [], [⟨31, 0, .cnt, false, 0x0⟩]⟩,
  -- DPD_CAP_DROP
  ⟨0x30, [], [⟨31, 0, .cnt, false, 0x0⟩]⟩,
  -- DPD_CAP_TIMEOUT
  ⟨0x34, [], [⟨31, 0, .cnt, false, 0x0⟩]⟩,
  -- DPD_ORX_RETIRED
  ⟨0x40, [], [⟨15, 0, .ro, false, 0x0⟩]⟩,
  -- DPD_PATHp_CFG
  ⟨0x1000, [(64, 0x20)], [⟨31, 31, .rw, true, 0x0⟩, ⟨30, 30, .rw, true, 0x0⟩, ⟨29, 28, .rw, true, 0x0⟩, ⟨25, 24, .rw, false, 0x0⟩]⟩]

/-- Registers of block DPD, part 1. -/
def rowsDpd1 : List RegRow := [
  -- DPD_PATHp_ADJ
  ⟨0x1004, [(64, 0x20)], [⟨31, 31, .rw, true, 0x0⟩, ⟨29, 24, .rw, true, 0x0⟩, ⟨23, 23, .rw, true, 0x0⟩, ⟨21, 16, .rw, true, 0x0⟩, ⟨15, 15, .rw, true, 0x0⟩, ⟨13, 8, .rw, true, 0x0⟩, ⟨7, 7, .rw, true, 0x0⟩, ⟨5, 0, .rw, true, 0x0⟩]⟩,
  -- DPD_PATHp_CTRL
  ⟨0x1008, [(64, 0x20)], [⟨31, 31, .wo, true, 0x0⟩, ⟨29, 28, .wo, false, 0x0⟩, ⟨15, 15, .wo, false, 0x0⟩, ⟨13, 12, .wo, false, 0x0⟩, ⟨7, 0, .wo, false, 0x0⟩]⟩,
  -- DPD_PATHp_STATUS
  ⟨0x100C, [(64, 0x20)], [⟨31, 31, .ro, false, 0x0⟩, ⟨30, 30, .ro, false, 0x0⟩, ⟨29, 29, .ro, false, 0x0⟩, ⟨28, 28, .ro, false, 0x0⟩, ⟨27, 24, .ro, false, 0x0⟩, ⟨23, 20, .ro, false, 0x0⟩, ⟨19, 18, .ro, false, 0x0⟩, ⟨17, 15, .ro, false, 0x4⟩, ⟨14, 12, .ro, false, 0x3⟩, ⟨11, 9, .ro, false, 0x2⟩, ⟨8, 6, .ro, false, 0x1⟩, ⟨5, 3, .ro, false, 0x0⟩]⟩,
  -- DPD_PATHp_Q
  ⟨0x1010, [(64, 0x20)], [⟨31, 24, .ro, false, 0xFF⟩, ⟨23, 22, .ro, false, 0x0⟩, ⟨21, 21, .ro, false, 0x1⟩, ⟨15, 0, .ro, false, 0x0⟩]⟩,
  -- DPD_PATHp_SAT
  ⟨0x1014, [(64, 0x20)], [⟨31, 0, .cnt, false, 0x0⟩]⟩,
  -- DPD_PATHp_UPD
  ⟨0x1018, [(64, 0x20)], [⟨31, 0, .cnt, false, 0x0⟩]⟩]

/-- Registers of block DPD. -/
def rowsDpd : List RegRow := rowsDpd0 ++ rowsDpd1

/-- Registers of block CAL, part 0. -/
def rowsCal0 : List RegRow := [
  -- CAL_CFG
  ⟨0x0, [], [⟨31, 31, .rw, false, 0x1⟩, ⟨30, 30, .rw, false, 0x0⟩, ⟨29, 29, .rw, false, 0x1⟩, ⟨23, 16, .rw, false, 0x32⟩, ⟨15, 8, .rw, false, 0x10⟩, ⟨7, 4, .rw, false, 0x5⟩, ⟨3, 0, .rw, false, 0x4⟩]⟩,
  -- CAL_STATUS
  ⟨0x4, [], [⟨31, 31, .ro, false, 0x0⟩, ⟨30, 28, .ro, false, 0x0⟩, ⟨27, 24, .ro, false, 0x0⟩, ⟨23, 20, .ro, false, 0x0⟩, ⟨19, 16, .ro, false, 0x0⟩, ⟨15, 15, .ro, false, 0x0⟩, ⟨14, 14, .ro, false, 0x0⟩, ⟨7, 0, .ro, false, 0x0⟩]⟩,
  -- CAL_EVT
  ⟨0x8, [], [⟨9, 9, .w1c, false, 0x0⟩, ⟨8, 8, .w1c, false, 0x0⟩, ⟨7, 7, .w1c, false, 0x0⟩, ⟨6, 6, .w1c, false, 0x0⟩, ⟨5, 5, .w1c, false, 0x0⟩, ⟨4, 4, .w1c, false, 0x0⟩, ⟨3, 3, .w1c, false, 0x0⟩, ⟨2, 2, .w1c, false, 0x0⟩, ⟨1, 1, .w1c, false, 0x0⟩, ⟨0, 0, .w1c, false, 0x0⟩]⟩,
  -- CAL_REF_CFG
  ⟨0x10, [], [⟨31, 31, .rw, false, 0x0⟩, ⟨23, 0, .rw, false, 0x0⟩]⟩,
  -- CAL_STIM
  ⟨0x14, [], [⟨28, 24, .rw, false, 0xF⟩, ⟨15, 8, .rw, false, 0x1E⟩]⟩,
  -- CAL_VREF
  ⟨0x18, [], [⟨31, 31, .ro, false, 0x0⟩, ⟨15, 0, .ro, false, 0x0⟩]⟩,
  -- CAL_QMAP_CFG
  ⟨0x20, [], [⟨31, 31, .rw, true, 0x0⟩, ⟨27, 24, .rw, true, 0x0⟩, ⟨6, 0, .rw, true, 0x1⟩]⟩,
  -- CAL_DEVQ_TERR
  ⟨0x30, [], [⟨31, 0, .ro, false, 0x0⟩]⟩,
  -- CAL_DEVQ_STAT
  ⟨0x34, [], [⟨7, 0, .ro, false, 0xFF⟩]⟩,
  -- CAL_REFOFSt_A
  ⟨0x100, [(4, 0x8)], [⟨31, 16, .rw, false, 0x0⟩, ⟨15, 0, .rw, false, 0x0⟩]⟩,
  -- CAL_REFOFSt_B
  ⟨0x104, [(4, 0x8)], [⟨31, 0, .rw, false, 0x0⟩]⟩,
  -- CAL_TQt
  ⟨0x180, [(4, 0x4)], [⟨31, 24, .ro, false, 0x0⟩, ⟨23, 16, .ro, false, 0xFF⟩, ⟨7, 7, .ro, false, 0x0⟩]⟩]

/-- Registers of block CAL, part 1. -/
def rowsCal1 : List RegRow := [
  -- CAL_QMAPw
  ⟨0x400, [(70, 0x4)], [⟨31, 0, .rw, false, 0x0⟩]⟩,
  -- CAL_BRANCHn_A
  ⟨0x800, [(64, 0x8)], [⟨31, 16, .rw, false, 0x0⟩, ⟨15, 0, .rw, false, 0x0⟩]⟩,
  -- CAL_BRANCHn_B
  ⟨0x804, [(64, 0x8)], [⟨31, 0, .rw, false, 0x0⟩]⟩,
  -- CAL_RXQ0p
  ⟨0x1000, [(64, 0x20)], [⟨31, 16, .ro, false, 0x0⟩, ⟨15, 0, .ro, false, 0x0⟩]⟩,
  -- CAL_TXQ0p
  ⟨0x1008, [(64, 0x20)], [⟨31, 16, .ro, false, 0x0⟩, ⟨15, 0, .ro, false, 0x0⟩]⟩,
  -- CAL_RXQ1p
  ⟨0x1004, [(64, 0x20)], [⟨31, 16, .ro, false, 0x0⟩, ⟨7, 0, .ro, false, 0xFF⟩]⟩,
  -- CAL_TXQ1p
  ⟨0x100C, [(64, 0x20)], [⟨31, 16, .ro, false, 0x0⟩, ⟨7, 0, .ro, false, 0xFF⟩]⟩,
  -- CAL_CONVQp
  ⟨0x1010, [(64, 0x20)], [⟨31, 24, .ro, false, 0x0⟩, ⟨23, 16, .ro, false, 0x0⟩, ⟨15, 8, .ro, false, 0x0⟩, ⟨7, 0, .ro, false, 0x0⟩]⟩,
  -- CAL_PFLAGp
  ⟨0x1014, [(64, 0x20)], [⟨31, 31, .ro, false, 0x1⟩, ⟨30, 30, .ro, false, 0x0⟩, ⟨29, 29, .ro, false, 0x0⟩, ⟨28, 28, .ro, false, 0x0⟩, ⟨15, 0, .ro, false, 0x0⟩]⟩,
  -- CAL_TRIM_TXpc
  ⟨0x2000, [(64, 0x20), (4, 0x4)], [⟨31, 16, .rw, true, 0x4000⟩, ⟨15, 0, .rw, true, 0x0⟩]⟩,
  -- CAL_TRIM_RXpc
  ⟨0x2010, [(64, 0x20), (4, 0x4)], [⟨31, 16, .rw, true, 0x4000⟩, ⟨15, 0, .rw, true, 0x0⟩]⟩,
  -- CAL_REFTPLi
  ⟨0x8000, [(4096, 0x4)], [⟨31, 16, .rw, false, 0x0⟩, ⟨15, 0, .rw, false, 0x0⟩]⟩]

/-- Registers of block CAL. -/
def rowsCal : List RegRow := rowsCal0 ++ rowsCal1

/-- Registers of block CHISEL, part 0. -/
def rowsChisel0 : List RegRow := [
  -- CHISEL_CFG
  ⟨0x0, [], [⟨31, 16, .rw, false, 0x0⟩, ⟨2, 2, .rw, false, 0x1⟩, ⟨1, 0, .rw, false, 0x3⟩]⟩,
  -- CHISEL_STATUS
  ⟨0x4, [], [⟨31, 16, .ro, false, 0x0⟩, ⟨15, 15, .ro, false, 0x0⟩, ⟨14, 14, .ro, false, 0x0⟩, ⟨8, 4, .ro, false, 0x10⟩, ⟨3, 2, .ro, false, 0x0⟩, ⟨1, 0, .ro, false, 0x0⟩]⟩,
  -- CHISEL_CAP
  ⟨0x8, [], [⟨19, 0, .ro, false, 0x0⟩]⟩,
  -- CHISEL_EVT
  ⟨0xC, [], [⟨7, 7, .w1c, false, 0x0⟩, ⟨6, 6, .w1c, false, 0x0⟩, ⟨5, 5, .w1c, false, 0x0⟩, ⟨4, 4, .w1c, false, 0x0⟩, ⟨3, 3, .w1c, false, 0x0⟩, ⟨2, 2, .w1c, false, 0x0⟩, ⟨1, 1, .w1c, false, 0x0⟩, ⟨0, 0, .w1c, false, 0x0⟩]⟩,
  -- CHISEL_OVERRUN
  ⟨0x10, [], [⟨31, 0, .cnt, false, 0x0⟩]⟩,
  -- CHISEL_FAULT
  ⟨0x14, [], [⟨31, 0, .cnt, false, 0x0⟩]⟩,
  -- CHISEL_TRIG_DROP
  ⟨0x18, [], [⟨31, 0, .cnt, false, 0x0⟩]⟩,
  -- CHISEL_REFUSED
  ⟨0x1C, [], [⟨31, 0, .cnt, false, 0x0⟩]⟩,
  -- CHISEL_EVICT
  ⟨0x20, [], [⟨31, 0, .cnt, false, 0x0⟩]⟩,
  -- CHISEL_COREc_LOAD
  ⟨0x100, [(16, 0x4)], [⟨31, 24, .ro, false, 0x0⟩, ⟨19, 0, .ro, false, 0x200⟩]⟩,
  -- CHISEL_KSLOTk_STATUS
  ⟨0x200, [(16, 0x10)], [⟨31, 30, .ro, false, 0x0⟩, ⟨29, 29, .ro, false, 0x0⟩, ⟨28, 28, .ro, false, 0x0⟩, ⟨27, 24, .ro, false, 0x0⟩, ⟨19, 16, .ro, false, 0x0⟩, ⟨15, 0, .ro, false, 0x0⟩]⟩,
  -- CHISEL_KSLOTk_MAX
  ⟨0x204, [(16, 0x10)], [⟨31, 0, .ro, false, 0x0⟩]⟩]

/-- Registers of block CHISEL, part 1. -/
def rowsChisel1 : List RegRow := [
  -- CHISEL_KSLOTk_ACT
  ⟨0x208, [(16, 0x10)], [⟨31, 0, .cnt, false, 0x0⟩]⟩,
  -- CHISEL_KSLOTk_LAST
  ⟨0x20C, [(16, 0x10)], [⟨31, 0, .ro, false, 0x0⟩]⟩]

/-- Registers of block CHISEL. -/
def rowsChisel : List RegRow := rowsChisel0 ++ rowsChisel1

/-- Registers of block SKX_PHY, part 0. -/
def rowsSkxPhy0 : List RegRow := [
  -- SKX_PHY_CFG
  ⟨0x0, [], [⟨31, 24, .rw, false, 0xFF⟩, ⟨23, 23, .rw, false, 0x1⟩, ⟨15, 8, .rw, false, 0xA⟩, ⟨7, 0, .rw, false, 0x8⟩]⟩,
  -- SKX_PHY_THR
  ⟨0x4, [], [⟨23, 16, .rw, false, 0x18⟩, ⟨15, 8, .rw, false, 0xC⟩, ⟨7, 0, .rw, false, 0x4⟩]⟩,
  -- SKX_PHY_SLEEP
  ⟨0x8, [], [⟨15, 8, .rw, false, 0x0⟩, ⟨7, 0, .rw, false, 0x0⟩]⟩,
  -- SKX_PHY_STATUS
  ⟨0xC, [], [⟨31, 24, .ro, false, 0x0⟩, ⟨23, 16, .ro, false, 0x0⟩, ⟨15, 8, .ro, false, 0x0⟩, ⟨7, 0, .ro, false, 0x0⟩]⟩,
  -- SKX_PHY_EVT
  ⟨0x10, [], [⟨8, 8, .w1c, false, 0x0⟩, ⟨7, 7, .w1c, false, 0x0⟩, ⟨6, 6, .w1c, false, 0x0⟩, ⟨5, 5, .w1c, false, 0x0⟩, ⟨4, 4, .w1c, false, 0x0⟩, ⟨3, 3, .w1c, false, 0x0⟩, ⟨2, 2, .w1c, false, 0x0⟩, ⟨1, 1, .w1c, false, 0x0⟩, ⟨0, 0, .w1c, false, 0x0⟩]⟩,
  -- SKX_PHY_SETCHG
  ⟨0x14, [], [⟨31, 0, .cnt, false, 0x0⟩]⟩,
  -- SKX_PHY_CELLS_LOST
  ⟨0x18, [], [⟨31, 0, .cnt, false, 0x0⟩]⟩,
  -- LANEk_STATE
  ⟨0x100, [(8, 0x40)], [⟨31, 28, .ro, false, 0x0⟩, ⟨27, 24, .ro, false, 0x0⟩, ⟨23, 23, .ro, false, 0x0⟩, ⟨22, 22, .ro, false, 0x0⟩, ⟨21, 21, .ro, false, 0x0⟩]⟩,
  -- LANEk_LQF
  ⟨0x104, [(8, 0x40)], [⟨31, 24, .ro, false, 0x0⟩, ⟨23, 16, .ro, false, 0x0⟩, ⟨15, 8, .ro, false, 0x0⟩, ⟨7, 0, .ro, false, 0x0⟩]⟩,
  -- LANEk_FEC_CORR
  ⟨0x108, [(8, 0x40)], [⟨31, 0, .cnt, false, 0x0⟩]⟩,
  -- LANEk_FEC_UNCORR
  ⟨0x10C, [(8, 0x40)], [⟨31, 0, .cnt, false, 0x0⟩]⟩,
  -- LANEk_RETRAIN
  ⟨0x110, [(8, 0x40)], [⟨31, 16, .cnt, false, 0x0⟩, ⟨15, 0, .cnt, false, 0x0⟩]⟩]

/-- Registers of block SKX_PHY, part 1. -/
def rowsSkxPhy1 : List RegRow := [
  -- LANEk_LAT
  ⟨0x114, [(8, 0x40)], [⟨31, 16, .ro, false, 0x0⟩, ⟨15, 0, .ro, false, 0x0⟩]⟩,
  -- LANEk_EQ
  ⟨0x118, [(8, 0x40)], [⟨31, 24, .ro, false, 0x0⟩, ⟨23, 16, .ro, false, 0x0⟩, ⟨15, 8, .ro, false, 0x40⟩, ⟨7, 0, .ro, false, 0x0⟩]⟩]

/-- Registers of block SKX_PHY. -/
def rowsSkxPhy : List RegRow := rowsSkxPhy0 ++ rowsSkxPhy1

/-- Registers of block SKX_CELL, part 0. -/
def rowsSkxCell0 : List RegRow := [
  -- SKX_CELL_CFG
  ⟨0x0, [], [⟨31, 31, .rw, false, 0x1⟩, ⟨19, 0, .rw, true, 0x208E⟩]⟩,
  -- SKX_CELL_STATUS
  ⟨0x4, [], [⟨25, 16, .ro, false, 0x0⟩, ⟨9, 0, .ro, false, 0x0⟩]⟩,
  -- SKX_CELL_CAP
  ⟨0x8, [], [⟨19, 0, .ro, false, 0x0⟩]⟩,
  -- SKX_CELL_DEMAND
  ⟨0xC, [], [⟨19, 0, .ro, false, 0x0⟩]⟩,
  -- SKX_CELL_EVT
  ⟨0x10, [], [⟨7, 7, .w1c, false, 0x0⟩, ⟨6, 6, .w1c, false, 0x0⟩, ⟨5, 5, .w1c, false, 0x0⟩, ⟨4, 4, .w1c, false, 0x0⟩, ⟨3, 3, .w1c, false, 0x0⟩, ⟨2, 2, .w1c, false, 0x0⟩, ⟨1, 1, .w1c, false, 0x0⟩, ⟨0, 0, .w1c, false, 0x0⟩]⟩,
  -- SKX_CELL_HCHK_ERR
  ⟨0x20, [], [⟨31, 0, .cnt, false, 0x0⟩]⟩,
  -- SKX_CELL_FMT_ERR
  ⟨0x24, [], [⟨31, 0, .cnt, false, 0x0⟩]⟩,
  -- SKX_CELL_SEQ_GAP
  ⟨0x28, [], [⟨31, 0, .cnt, false, 0x0⟩]⟩,
  -- SKX_CELL_MSG_BAD
  ⟨0x2C, [], [⟨31, 0, .cnt, false, 0x0⟩]⟩,
  -- SKX_CELL_LATE
  ⟨0x30, [], [⟨31, 0, .cnt, false, 0x0⟩]⟩,
  -- SKX_CELL_MISSING
  ⟨0x34, [], [⟨31, 0, .cnt, false, 0x0⟩]⟩,
  -- SKX_CELL_DUP
  ⟨0x38, [], [⟨31, 0, .cnt, false, 0x0⟩]⟩]

/-- Registers of block SKX_CELL, part 1. -/
def rowsSkxCell1 : List RegRow := [
  -- SKX_CELL_BFP_SAT
  ⟨0x3C, [], [⟨31, 0, .cnt, false, 0x0⟩]⟩,
  -- SKX_CELL_ABANDON
  ⟨0x40, [], [⟨31, 0, .cnt, false, 0x0⟩]⟩,
  -- SKX_CELL_SHED_EVENTS
  ⟨0x44, [], [⟨31, 0, .cnt, false, 0x0⟩]⟩,
  -- SKX_CELL_EVTENg
  ⟨0x80, [(8, 0x4)], [⟨31, 0, .rw, false, 0x0⟩]⟩,
  -- SKX_CELL_FLOWf_CFG
  ⟨0x1000, [(1024, 0x8)], [⟨10, 8, .rw, true, 0x1⟩, ⟨2, 0, .rw, true, 0x0⟩]⟩,
  -- SKX_CELL_FLOWf_STAT
  ⟨0x1004, [(1024, 0x8)], [⟨31, 31, .ro, false, 0x0⟩, ⟨30, 30, .ro, false, 0x0⟩, ⟨29, 29, .ro, false, 0x0⟩, ⟨19, 0, .ro, false, 0x0⟩]⟩]

/-- Registers of block SKX_CELL. -/
def rowsSkxCell : List RegRow := rowsSkxCell0 ++ rowsSkxCell1

/-- Registers of block SYS, part 0. -/
def rowsSys0 : List RegRow := [
  -- DRUNAS_CTRL
  ⟨0x100, [], [⟨1, 1, .wo, false, 0x0⟩, ⟨0, 0, .wo, false, 0x0⟩]⟩,
  -- DRUNAS_STATUS
  ⟨0x104, [], [⟨31, 25, .ro, false, 0x0⟩, ⟨24, 18, .ro, false, 0x0⟩, ⟨17, 17, .ro, false, 0x0⟩, ⟨16, 16, .ro, false, 0x0⟩, ⟨15, 11, .ro, false, 0x0⟩, ⟨10, 0, .ro, false, 0x0⟩]⟩,
  -- DRUNAS_SUBMIT
  ⟨0x108, [], [⟨31, 0, .wo, false, 0x0⟩]⟩,
  -- DRUNAS_REPLY
  ⟨0x10C, [], [⟨31, 0, .ro, false, 0x0⟩]⟩,
  -- DRUNAS_EVT
  ⟨0x110, [], [⟨4, 4, .w1c, false, 0x0⟩, ⟨3, 3, .w1c, false, 0x0⟩, ⟨2, 2, .w1c, false, 0x0⟩, ⟨1, 1, .w1c, false, 0x0⟩, ⟨0, 0, .w1c, false, 0x0⟩]⟩,
  -- DRUNAS_RING_FULL
  ⟨0x120, [], [⟨31, 0, .cnt, false, 0x0⟩]⟩,
  -- DRUNAS_BAD_CHECK
  ⟨0x124, [], [⟨31, 0, .cnt, false, 0x0⟩]⟩,
  -- DRUNAS_REPLY_LOST
  ⟨0x128, [], [⟨31, 0, .cnt, false, 0x0⟩]⟩,
  -- DRUNAS_LATE
  ⟨0x12C, [], [⟨31, 0, .cnt, false, 0x0⟩]⟩,
  -- DRUNAS_DONE
  ⟨0x130, [], [⟨31, 0, .cnt, false, 0x0⟩]⟩,
  -- SYS_BUS_ERR_INFO
  ⟨0x40, [], [⟨31, 31, .w1c, false, 0x0⟩, ⟨30, 28, .ro, false, 0x0⟩, ⟨27, 27, .ro, false, 0x0⟩, ⟨26, 24, .ro, false, 0x0⟩, ⟨19, 16, .ro, false, 0x0⟩]⟩,
  -- SYS_BUS_ERR_ADDR
  ⟨0x44, [], [⟨31, 0, .ro, false, 0x0⟩]⟩]

/-- Registers of block SYS, part 1. -/
def rowsSys1 : List RegRow := [
  -- SYS_BUS_ERR_CNT
  ⟨0x48, [], [⟨31, 0, .cnt, false, 0x0⟩]⟩,
  -- SYS_DOMAIN_OFF
  ⟨0x4C, [], [⟨31, 0, .cnt, false, 0x0⟩]⟩,
  -- SYS_SPI_STATUS
  ⟨0x50, [], [⟨7, 0, .ro, false, 0x0⟩]⟩]

/-- Registers of block SYS. -/
def rowsSys : List RegRow := rowsSys0 ++ rowsSys1

/-- Registers of block TIME, part 0. -/
def rowsTime0 : List RegRow := [
  -- TIME_CFG
  ⟨0x0, [], [⟨31, 31, .rw, false, 0x1⟩, ⟨30, 30, .rw, false, 0x0⟩, ⟨29, 28, .rw, false, 0x0⟩, ⟨27, 27, .rw, false, 0x0⟩, ⟨26, 24, .rw, false, 0x0⟩, ⟨23, 20, .rw, false, 0x1⟩, ⟨19, 16, .rw, false, 0x3⟩, ⟨15, 8, .rw, false, 0x14⟩, ⟨7, 0, .rw, false, 0x32⟩]⟩,
  -- TIME_SERVO
  ⟨0x4, [], [⟨31, 16, .rw, false, 0x7D⟩, ⟨15, 8, .rw, false, 0x19⟩, ⟨7, 4, .rw, false, 0x2⟩, ⟨3, 0, .rw, false, 0x6⟩]⟩,
  -- TIME_STATUS
  ⟨0x8, [], [⟨31, 31, .ro, false, 0x0⟩, ⟨30, 30, .ro, false, 0x0⟩, ⟨29, 29, .ro, false, 0x0⟩, ⟨28, 28, .ro, false, 0x0⟩, ⟨27, 27, .ro, false, 0x0⟩, ⟨26, 26, .ro, false, 0x0⟩, ⟨25, 25, .ro, false, 0x0⟩, ⟨18, 16, .ro, false, 0x0⟩, ⟨15, 0, .ro, false, 0x0⟩]⟩,
  -- TIME_EVT
  ⟨0xC, [], [⟨9, 9, .w1c, false, 0x0⟩, ⟨8, 8, .w1c, false, 0x0⟩, ⟨7, 7, .w1c, false, 0x0⟩, ⟨6, 6, .w1c, false, 0x0⟩, ⟨5, 5, .w1c, false, 0x0⟩, ⟨4, 4, .w1c, false, 0x0⟩, ⟨3, 3, .w1c, false, 0x0⟩, ⟨2, 2, .w1c, false, 0x0⟩, ⟨1, 1, .w1c, false, 0x0⟩, ⟨0, 0, .w1c, false, 0x0⟩]⟩,
  -- TIME_NOW_LO
  ⟨0x10, [], [⟨31, 0, .ro, false, 0x0⟩]⟩,
  -- TIME_NOW_HI
  ⟨0x14, [], [⟨31, 0, .ro, false, 0x0⟩]⟩,
  -- TIME_NOW_FRAC
  ⟨0x18, [], [⟨31, 0, .ro, false, 0x0⟩]⟩,
  -- TIME_INC_LO
  ⟨0x20, [], [⟨31, 0, .ro, false, 0x8D55555⟩]⟩,
  -- TIME_INC_HI
  ⟨0x24, [], [⟨31, 0, .ro, false, 0x2⟩]⟩,
  -- TIME_INC_SET_LO
  ⟨0x28, [], [⟨31, 0, .rw, false, 0x8D55555⟩]⟩,
  -- TIME_INC_SET_HI
  ⟨0x2C, [], [⟨31, 0, .rw, false, 0x2⟩]⟩,
  -- TIME_OFS
  ⟨0x30, [], [⟨31, 0, .ro, false, 0x0⟩]⟩]

/-- Registers of block TIME, part 1. -/
def rowsTime1 : List RegRow := [
  -- TIME_DELAY
  ⟨0x34, [], [⟨31, 0, .ro, false, 0x0⟩]⟩,
  -- TIME_EPOCH
  ⟨0x38, [], [⟨31, 0, .ro, false, 0x0⟩]⟩,
  -- TIME_HOLD_AGE
  ⟨0x3C, [], [⟨31, 0, .ro, false, 0x0⟩]⟩,
  -- TIME_TSQ_E0
  ⟨0x40, [], [⟨31, 24, .ro, false, 0x0⟩, ⟨15, 0, .ro, false, 0x0⟩]⟩,
  -- TIME_TSQ_E1
  ⟨0x44, [], [⟨31, 0, .ro, false, 0x0⟩]⟩,
  -- TIME_TSQ_E2
  ⟨0x48, [], [⟨31, 0, .ro, false, 0x0⟩]⟩,
  -- TIME_TSQ_E3
  ⟨0x4C, [], [⟨31, 0, .ro, false, 0x0⟩]⟩,
  -- TIME_TSQ_STAT
  ⟨0x50, [], [⟨31, 16, .cnt, false, 0x0⟩, ⟨4, 0, .ro, false, 0x0⟩]⟩,
  -- TIME_XCHG_BAD
  ⟨0x60, [], [⟨31, 0, .cnt, false, 0x0⟩]⟩,
  -- TIME_RESP_LOST
  ⟨0x64, [], [⟨31, 0, .cnt, false, 0x0⟩]⟩,
  -- TIME_STEP_MUTE
  ⟨0x68, [], [⟨31, 0, .cnt, false, 0x0⟩]⟩,
  -- TIME_PPS_CFG
  ⟨0x70, [], [⟨31, 30, .rw, false, 0x0⟩, ⟨15, 0, .rw, false, 0x64⟩]⟩]

/-- Registers of block TIME, part 2. -/
def rowsTime2 : List RegRow := [
  -- TIME_PPS_IN_LO
  ⟨0x74, [], [⟨31, 0, .ro, false, 0x0⟩]⟩,
  -- TIME_PPS_IN_HI
  ⟨0x78, [], [⟨31, 0, .ro, false, 0x0⟩]⟩,
  -- TIME_TSYNC_DLY
  ⟨0x80, [], [⟨31, 0, .rw, false, 0x0⟩]⟩,
  -- TIME_TSYNC_ERR
  ⟨0x84, [], [⟨31, 0, .ro, false, 0x0⟩]⟩,
  -- TIME_JOIN
  ⟨0x88, [], [⟨8, 0, .rw, false, 0x0⟩]⟩,
  -- TIME_SCHED_FIRED
  ⟨0x8C, [], [⟨31, 0, .w1c, false, 0x0⟩]⟩,
  -- TIME_ASYMk
  ⟨0xA0, [(8, 0x4)], [⟨31, 0, .rw, false, 0x0⟩]⟩,
  -- TIME_SCHEDs_CTRL
  ⟨0x200, [(32, 0x10)], [⟨31, 31, .rw, false, 0x0⟩, ⟨30, 30, .ro, false, 0x0⟩, ⟨29, 29, .ro, false, 0x0⟩, ⟨19, 16, .rw, false, 0x0⟩, ⟨15, 0, .rw, false, 0x0⟩]⟩,
  -- TIME_SCHEDs_LO
  ⟨0x204, [(32, 0x10)], [⟨31, 0, .rw, false, 0x0⟩]⟩,
  -- TIME_SCHEDs_HI
  ⟨0x208, [(32, 0x10)], [⟨15, 0, .rw, false, 0x0⟩]⟩,
  -- TIME_SCHEDs_ARG
  ⟨0x20C, [(32, 0x10)], [⟨31, 0, .rw, false, 0x0⟩]⟩]

/-- Registers of block TIME. -/
def rowsTime : List RegRow := rowsTime0 ++ rowsTime1 ++ rowsTime2

/-- Registers of block BIAS, part 0. -/
def rowsBias0 : List RegRow := [
  -- BIAS_CFG
  ⟨0x0, [], [⟨2, 2, .rw, false, 0x1⟩, ⟨1, 1, .rw, false, 0x1⟩, ⟨0, 0, .rw, false, 0x1⟩]⟩,
  -- BIAS_STATUS
  ⟨0x4, [], [⟨31, 31, .ro, false, 0x0⟩, ⟨30, 30, .ro, false, 0x0⟩, ⟨29, 29, .ro, false, 0x0⟩, ⟨28, 28, .ro, false, 0x1⟩, ⟨27, 27, .ro, false, 0x0⟩, ⟨26, 26, .ro, false, 0x0⟩, ⟨25, 25, .ro, false, 0x0⟩, ⟨6, 0, .ro, false, 0x60⟩]⟩,
  -- BIAS_EVT
  ⟨0x8, [], [⟨7, 7, .w1c, false, 0x0⟩, ⟨6, 6, .w1c, false, 0x0⟩, ⟨5, 5, .w1c, false, 0x0⟩, ⟨4, 4, .w1c, false, 0x0⟩, ⟨3, 3, .w1c, false, 0x0⟩, ⟨2, 2, .w1c, false, 0x0⟩, ⟨1, 1, .w1c, false, 0x0⟩, ⟨0, 0, .w1c, false, 0x0⟩]⟩,
  -- BIAS_SC0
  ⟨0x10, [], [⟨31, 0, .w1c, false, 0x0⟩]⟩,
  -- BIAS_SC1
  ⟨0x14, [], [⟨31, 0, .w1c, false, 0x0⟩]⟩,
  -- BIAS_SC2
  ⟨0x18, [], [⟨31, 0, .w1c, false, 0x0⟩]⟩,
  -- BIAS_TRIP_LO
  ⟨0x20, [], [⟨31, 0, .w1c, false, 0x0⟩]⟩,
  -- BIAS_TRIP_HI
  ⟨0x24, [], [⟨31, 0, .w1c, false, 0x0⟩]⟩,
  -- BIAS_LINK_ERR
  ⟨0x30, [], [⟨31, 0, .cnt, false, 0x0⟩]⟩,
  -- BIAS_WD_COUNT
  ⟨0x34, [], [⟨31, 0, .cnt, false, 0x0⟩]⟩,
  -- BIAS_TEST
  ⟨0x40, [], [⟨31, 31, .wo, false, 0x0⟩, ⟨30, 30, .ro, false, 0x0⟩, ⟨29, 29, .ro, false, 0x0⟩, ⟨28, 28, .ro, false, 0x0⟩, ⟨6, 0, .rw, false, 0x0⟩]⟩,
  -- BIAS_OUTn_CFG
  ⟨0x100, [(96, 0x10)], [⟨31, 30, .rw, true, 0x0⟩, ⟨29, 28, .rw, true, 0x1⟩, ⟨27, 27, .rw, false, 0x1⟩, ⟨26, 26, .rw, false, 0x1⟩, ⟨21, 16, .rw, true, 0x0⟩]⟩]

/-- Registers of block BIAS, part 1. -/
def rowsBias1 : List RegRow := [
  -- BIAS_OUTn_CODE
  ⟨0x104, [(96, 0x10)], [⟨27, 16, .rw, true, 0x0⟩, ⟨11, 0, .rw, true, 0x0⟩]⟩,
  -- BIAS_OUTn_STATUS
  ⟨0x108, [(96, 0x10)], [⟨31, 31, .ro, false, 0x1⟩, ⟨30, 30, .ro, false, 0x1⟩, ⟨29, 29, .ro, false, 0x0⟩, ⟨28, 28, .ro, false, 0x0⟩, ⟨27, 27, .ro, false, 0x0⟩, ⟨11, 0, .ro, false, 0x0⟩]⟩,
  -- BIAS_SNSp_CFG
  ⟨0x1000, [(64, 0x10)], [⟨31, 31, .rw, false, 0x0⟩, ⟨22, 16, .rw, false, 0x0⟩, ⟨15, 8, .rw, false, 0x4⟩]⟩,
  -- BIAS_SNSp_THR
  ⟨0x1004, [(64, 0x10)], [⟨29, 16, .rw, false, 0x3FFF⟩, ⟨13, 0, .rw, false, 0x0⟩]⟩,
  -- BIAS_SNSp_LIM
  ⟨0x1008, [(64, 0x10)], [⟨27, 16, .rw, false, 0x0⟩, ⟨11, 0, .rw, false, 0x0⟩]⟩,
  -- BIAS_SNSp_VAL
  ⟨0x100C, [(64, 0x10)], [⟨29, 16, .ro, false, 0x0⟩, ⟨13, 0, .ro, false, 0x0⟩]⟩]

/-- Registers of block BIAS. -/
def rowsBias : List RegRow := rowsBias0 ++ rowsBias1

/-- Registers of block DERRICK. -/
def rowsDerrick : List RegRow := [
  -- DERRICK_CFG
  ⟨0x0, [], [⟨0, 0, .rw, false, 0x0⟩]⟩,
  -- DERRICK_STATUS
  ⟨0x4, [], [⟨31, 31, .ro, false, 0x0⟩, ⟨30, 30, .ro, false, 0x0⟩, ⟨26, 24, .ro, false, 0x0⟩, ⟨7, 0, .ro, false, 0x0⟩]⟩,
  -- DERRICK_EVT
  ⟨0x8, [], [⟨3, 3, .w1c, false, 0x0⟩, ⟨2, 2, .w1c, false, 0x0⟩, ⟨1, 1, .w1c, false, 0x0⟩, ⟨0, 0, .w1c, false, 0x0⟩]⟩,
  -- DERRICK_ERR_ADDR
  ⟨0xC, [], [⟨31, 0, .ro, false, 0x0⟩]⟩,
  -- DERRICK_ERR_INFO
  ⟨0x10, [], [⟨31, 31, .w1c, false, 0x0⟩, ⟨30, 28, .ro, false, 0x0⟩, ⟨27, 27, .ro, false, 0x0⟩, ⟨25, 24, .ro, false, 0x0⟩, ⟨19, 16, .ro, false, 0x0⟩]⟩,
  -- DERRICK_CHc_DESC
  ⟨0x100, [(8, 0x20)], [⟨31, 0, .rw, false, 0x0⟩]⟩,
  -- DERRICK_CHc_CTRL
  ⟨0x104, [(8, 0x20)], [⟨31, 31, .wo, false, 0x0⟩, ⟨30, 30, .wo, false, 0x0⟩, ⟨29, 29, .wo, false, 0x0⟩]⟩,
  -- DERRICK_CHc_STATUS
  ⟨0x108, [(8, 0x20)], [⟨31, 28, .ro, false, 0x0⟩, ⟨19, 16, .ro, false, 0x0⟩]⟩,
  -- DERRICK_CHc_CUR
  ⟨0x10C, [(8, 0x20)], [⟨31, 0, .ro, false, 0x0⟩]⟩,
  -- DERRICK_CHc_SRC
  ⟨0x110, [(8, 0x20)], [⟨31, 0, .ro, false, 0x0⟩]⟩,
  -- DERRICK_CHc_DST
  ⟨0x114, [(8, 0x20)], [⟨31, 0, .ro, false, 0x0⟩]⟩,
  -- DERRICK_CHc_COUNT
  ⟨0x118, [(8, 0x20)], [⟨31, 0, .ro, false, 0x0⟩]⟩]

/-- Registers of block CHECK. -/
def rowsCheck : List RegRow := [
  -- CHECK_CFG
  ⟨0x0, [], [⟨31, 31, .rw, false, 0x0⟩, ⟨30, 30, .rw, false, 0x0⟩, ⟨1, 0, .rw, false, 0x0⟩]⟩,
  -- CHECK_CTRL
  ⟨0x4, [], [⟨31, 31, .wo, false, 0x0⟩]⟩,
  -- CHECK_ADDR
  ⟨0x8, [], [⟨31, 0, .rw, false, 0x0⟩]⟩,
  -- CHECK_LEN
  ⟨0xC, [], [⟨31, 0, .rw, false, 0x0⟩]⟩,
  -- CHECK_DATA
  ⟨0x10, [], [⟨31, 0, .wo, false, 0x0⟩]⟩,
  -- CHECK_RESULT
  ⟨0x14, [], [⟨31, 0, .ro, false, 0x0⟩]⟩,
  -- CHECK_STATUS
  ⟨0x18, [], [⟨31, 31, .ro, false, 0x0⟩, ⟨19, 16, .ro, false, 0x0⟩]⟩,
  -- CHECK_EVT
  ⟨0x1C, [], [⟨2, 2, .w1c, false, 0x0⟩, ⟨1, 1, .w1c, false, 0x0⟩, ⟨0, 0, .w1c, false, 0x0⟩]⟩,
  -- CHECK_ERR_ADDR
  ⟨0x20, [], [⟨31, 0, .ro, false, 0x0⟩]⟩]

/-- Registers of block SUMP, part 0. -/
def rowsSump0 : List RegRow := [
  -- SUMP_CFG
  ⟨0x0, [], [⟨16, 16, .rw, false, 0x1⟩, ⟨15, 0, .rw, false, 0x64⟩]⟩,
  -- SUMP_STATUS
  ⟨0x4, [], [⟨31, 31, .ro, false, 0x0⟩, ⟨20, 16, .ro, false, 0x0⟩, ⟨8, 0, .ro, false, 0x0⟩]⟩,
  -- SUMP_FAULTN
  ⟨0x20, [], [⟨31, 31, .rw, false, 0x0⟩, ⟨30, 30, .ro, false, 0x0⟩, ⟨29, 29, .ro, false, 0x1⟩]⟩,
  -- SUMP_FIRST_INFO
  ⟨0x10, [], [⟨31, 31, .w1c, false, 0x0⟩, ⟨30, 30, .ro, false, 0x0⟩, ⟨29, 28, .ro, false, 0x0⟩, ⟨7, 0, .ro, false, 0x0⟩]⟩,
  -- SUMP_FIRST_LO
  ⟨0x14, [], [⟨31, 0, .ro, false, 0x0⟩]⟩,
  -- SUMP_FIRST_HI
  ⟨0x18, [], [⟨31, 0, .ro, false, 0x0⟩]⟩,
  -- SUMP_FIRST_EPOCH
  ⟨0x1C, [], [⟨31, 0, .ro, false, 0x0⟩]⟩,
  -- SUMP_EVT
  ⟨0x8, [], [⟨7, 7, .w1c, false, 0x0⟩, ⟨6, 6, .w1c, false, 0x0⟩, ⟨5, 5, .w1c, false, 0x0⟩, ⟨4, 4, .w1c, false, 0x0⟩, ⟨3, 3, .w1c, false, 0x0⟩, ⟨2, 2, .w1c, false, 0x0⟩, ⟨1, 1, .w1c, false, 0x0⟩, ⟨0, 0, .w1c, false, 0x0⟩]⟩,
  -- SUMP_RETIREDg
  ⟨0x40, [(8, 0x4)], [⟨31, 0, .ro, false, 0x0⟩]⟩,
  -- SUMP_MASKED
  ⟨0x60, [], [⟨31, 0, .cnt, false, 0x0⟩]⟩,
  -- SUMP_LOG_DROP
  ⟨0x64, [], [⟨31, 0, .cnt, false, 0x0⟩]⟩,
  -- SUMP_LOG_HEAD
  ⟨0x70, [], [⟨31, 31, .ro, false, 0x0⟩, ⟨10, 0, .ro, false, 0x0⟩]⟩]

/-- Registers of block SUMP, part 1. -/
def rowsSump1 : List RegRow := [
  -- SUMP_LOG_ADDR
  ⟨0x74, [], [⟨13, 0, .rw, false, 0x0⟩]⟩,
  -- SUMP_LOG_DATA
  ⟨0x78, [], [⟨31, 0, .ro, false, 0x0⟩]⟩,
  -- SUMP_THERMd_CFG
  ⟨0x100, [(6, 0x10)], [⟨31, 24, .rw, false, 0x73⟩, ⟨23, 16, .rw, false, 0x69⟩, ⟨11, 8, .rw, false, 0x5⟩]⟩,
  -- SUMP_THERMd_STATUS
  ⟨0x104, [(6, 0x10)], [⟨31, 31, .ro, false, 0x0⟩, ⟨30, 30, .ro, false, 0x0⟩, ⟨29, 29, .ro, false, 0x0⟩, ⟨28, 28, .ro, false, 0x0⟩, ⟨1, 0, .ro, false, 0x0⟩]⟩,
  -- SUMP_THERMd_TEMP
  ⟨0x108, [(6, 0x10)], [⟨31, 16, .ro, false, 0x0⟩, ⟨15, 0, .ro, false, 0x0⟩]⟩,
  -- SUMP_THERMd_MODEL
  ⟨0x10C, [(6, 0x10)], [⟨31, 16, .rw, false, 0x0⟩, ⟨15, 0, .ro, false, 0x0⟩]⟩,
  -- SUMP_SRCn_CFG
  ⟨0x1000, [(256, 0x8)], [⟨31, 31, .rw, false, 0x0⟩, ⟨21, 20, .rw, false, 0x0⟩, ⟨19, 8, .rw, false, 0x0⟩, ⟨7, 0, .rw, false, 0x0⟩]⟩,
  -- SUMP_SRCn_STATUS
  ⟨0x1004, [(256, 0x8)], [⟨31, 31, .ro, false, 0x0⟩, ⟨30, 30, .ro, false, 0x0⟩, ⟨29, 29, .ro, false, 0x0⟩, ⟨28, 28, .ro, false, 0x0⟩, ⟨27, 27, .ro, false, 0x0⟩, ⟨26, 26, .ro, false, 0x0⟩, ⟨23, 16, .ro, false, 0x0⟩, ⟨15, 0, .cnt, false, 0x0⟩]⟩]

/-- Registers of block SUMP. -/
def rowsSump : List RegRow := rowsSump0 ++ rowsSump1

/-- Registers of block EVENT. -/
def rowsEvent : List RegRow := [
  -- EVENT_STATg
  ⟨0x0, [(8, 0x10)], [⟨31, 0, .ro, false, 0x0⟩]⟩,
  -- EVENT_ENg
  ⟨0x4, [(8, 0x10)], [⟨31, 0, .rw, false, 0x0⟩]⟩,
  -- EVENT_PEND
  ⟨0x100, [], [⟨7, 0, .ro, false, 0x0⟩]⟩,
  -- EVENT_CFG
  ⟨0x104, [], [⟨0, 0, .rw, false, 0x0⟩]⟩]

/-- Registers of block POWER. -/
def rowsPower : List RegRow := [
  -- POWER_REQ
  ⟨0x0, [], [⟨2, 0, .wo, false, 0x0⟩]⟩,
  -- POWER_STATUS
  ⟨0x4, [], [⟨31, 29, .ro, false, 0x2⟩, ⟨28, 28, .ro, false, 0x0⟩, ⟨27, 25, .ro, false, 0x2⟩, ⟨24, 24, .ro, false, 0x0⟩, ⟨23, 21, .ro, false, 0x0⟩, ⟨20, 20, .ro, false, 0x0⟩, ⟨15, 0, .ro, false, 0x0⟩]⟩,
  -- POWER_EVT
  ⟨0x8, [], [⟨7, 7, .w1c, false, 0x0⟩, ⟨6, 6, .w1c, false, 0x0⟩, ⟨5, 5, .w1c, false, 0x0⟩, ⟨4, 4, .w1c, false, 0x0⟩, ⟨3, 3, .w1c, false, 0x0⟩, ⟨2, 2, .w1c, false, 0x0⟩, ⟨1, 1, .w1c, false, 0x0⟩, ⟨0, 0, .w1c, false, 0x0⟩]⟩,
  -- POWER_CFG
  ⟨0xC, [], [⟨31, 31, .rw, false, 0x1⟩]⟩,
  -- POWER_REFUSED
  ⟨0x10, [], [⟨31, 0, .cnt, false, 0x0⟩]⟩,
  -- POWER_ABORTED
  ⟨0x14, [], [⟨31, 0, .cnt, false, 0x0⟩]⟩,
  -- POWER_LAST
  ⟨0x18, [], [⟨31, 16, .ro, false, 0x0⟩, ⟨15, 0, .ro, false, 0x0⟩]⟩,
  -- POWER_VOLT
  ⟨0x1C, [], [⟨31, 16, .ro, false, 0x352⟩, ⟨15, 0, .ro, false, 0x352⟩]⟩,
  -- POWER_AON_CFG
  ⟨0x100, [], [⟨31, 31, .rw, false, 0x1⟩, ⟨30, 30, .rw, false, 0x0⟩, ⟨29, 29, .rw, false, 0x1⟩, ⟨28, 28, .rw, false, 0x1⟩, ⟨27, 26, .rw, false, 0x0⟩, ⟨25, 24, .rw, false, 0x0⟩, ⟨23, 22, .rw, false, 0x0⟩, ⟨21, 20, .rw, false, 0x0⟩]⟩,
  -- POWER_AON_TIMER
  ⟨0x104, [], [⟨31, 0, .rw, false, 0x0⟩]⟩,
  -- POWER_AON_CAUSE
  ⟨0x108, [], [⟨22, 16, .w1c, false, 0x0⟩, ⟨4, 0, .w1c, false, 0x1⟩]⟩,
  -- POWER_AON_CNT
  ⟨0x10C, [], [⟨31, 16, .cnt, false, 0x0⟩, ⟨15, 0, .cnt, false, 0x0⟩]⟩]

/-- Registers of block SEC. -/
def rowsSec : List RegRow := [
  -- SEC_STATUS
  ⟨0x0, [], [⟨31, 29, .ro, false, 0x0⟩, ⟨28, 28, .ro, false, 0x0⟩, ⟨27, 25, .ro, false, 0x0⟩, ⟨24, 24, .ro, false, 0x0⟩, ⟨23, 22, .ro, false, 0x0⟩, ⟨15, 8, .ro, false, 0x0⟩, ⟨6, 0, .ro, false, 0x0⟩]⟩,
  -- SEC_CFG
  ⟨0x4, [], [⟨1, 1, .rw, false, 0x0⟩, ⟨0, 0, .rw, false, 0x0⟩]⟩,
  -- SEC_EVT
  ⟨0x8, [], [⟨7, 7, .w1c, false, 0x0⟩, ⟨6, 6, .w1c, false, 0x0⟩, ⟨5, 5, .w1c, false, 0x0⟩, ⟨3, 3, .w1c, false, 0x0⟩, ⟨2, 2, .w1c, false, 0x0⟩, ⟨1, 1, .w1c, false, 0x0⟩, ⟨0, 0, .w1c, false, 0x0⟩]⟩,
  -- SEC_BOOTCNT
  ⟨0xC, [], [⟨31, 0, .ro, false, 0x0⟩]⟩,
  -- SEC_AUTH_FAIL
  ⟨0x10, [], [⟨31, 0, .cnt, false, 0x0⟩]⟩,
  -- SEC_RXSEQ_LINK
  ⟨0x20, [], [⟨31, 0, .ro, false, 0x0⟩]⟩,
  -- SEC_RXSEQ_SPI
  ⟨0x24, [], [⟨31, 0, .ro, false, 0x0⟩]⟩]

end Sys2Proof.Machine
end

