-- ==== Sys2Proof/Machine/State.lean ====
section
/-!
DEFINITION. The state of the block: plain data, every register, queue, counter, mode and pin the spec gives it
(INVENTORY.md lists them). Registers that software addresses stand in one map by address; what the spec gives the
machine beside its registers stands in the structures below, block by block. Each `reset` is the state right after
power-on reset (R444): a value the spec does not give is a DESIGN CHOICE of log entry 5.
-/

namespace Sys2Proof.Machine

/-! ### Pending changes (chapter 2) -/

/-- A setting, in the sense of R54 and R55: changes of one setting that land at one tick supersede one another. An
instance is a register word, except where the spec commits several words, or part of a word, as one (DEDUCED, log entry 10). -/
inductive Setting where
  | word (addr : Nat)                    -- one register word
  | cadenceCfg                           -- LEAD, SEAM_CODE, MU (R56)
  | pathMode (p : Fin 64)                -- the mode of one path
  | synWord (t : Fin 4) (b : Bool)       -- INT and FRAC of one synthesizer (R67)
  | synAct (t : Fin 4)                   -- TILE_SYN_CTRL.ACT (R73)
  | iqSet (s : IqSet)                    -- seven taps (R116)
  | relief (t : Fin 4) (dac : Bool)      -- a relief handover (R108)
  | beamBank (ul : Bool)                 -- one active bank (R131)
  | dpdPage (p : Fin 64)                 -- a page commit of one path (R164)
  | dpdBank (p : Fin 64)                 -- a bank selection (R165)
  | quietMap                             -- QMAP_CFG with its map (R195)
  | biasCode (n : Fin 96)                -- ON and OFF code of one output (R355)
  | biasSpan (n : Fin 96)                -- the span of one output (R356)
  | laneSet                              -- the transmit set of the link (R262)
  | unit (kind index : Nat)              -- retirement or restoration of a unit of Table 11.6 (R414, R417)
  | power                                -- Ready to Active and back (R451)
  | fwActivate                           -- the firmware handover (R321)
  | chiselUnload (h : Nat)               -- an unload of a kernel (R247)
  deriving DecidableEq, Repr

/-- A committed change of a tick-bound setting that has not taken effect (R40). -/
structure Change where
  key : Setting
  words : List (Nat × Word × Word)       -- register address, value, mask: what the word in force becomes
  land : Nat                             -- the number of the landing tick
  atFrame : Bool                         -- waits for a frame boundary instead (R56)
  stamp : Nat                            -- the timebase cycle of the commit
  rank : Nat                             -- R43: 0 slots, 1 command processors, 2 Derrick, 3 link, 4 SPI, 5 debug
  cmd : Option Nat                       -- the command that issued it
  arg : Nat                              -- what the setting needs beside the words (1 restore, a page, a level, …)
  latch : Option Word                    -- the power-step entry latched at the cutoff (R83)
  deriving DecidableEq, Repr

/-- The cadence unit (chapter 2) beside its registers. -/
structure Cadence where
  running : Bool         -- ticks are generated (RUNNING)
  runHeld : Bool         -- a RUN = 0 write waits (RUN_HELD)
  stopDue : Bool         -- a tick has come since that write: ticks may stop at it (R57)
  startAt : Option Nat   -- the frame boundary, in samples, at which requested ticks start (R57)
  tickIdx : Nat          -- ordinal of the most recent tick
  nom : Nat              -- nominal time of the most recent tick, in samples of 491.52 Msps
  since : Nat            -- timebase cycles since the edge of the most recent tick
  len : Nat              -- timebase cycles from that edge to the next tick's: a symbol, one more or less where R35 absorbs a
                         -- cycle, or a step gap (R37)
  lag : Int              -- whole cycles waiting (LAG)
  frozen : Bool          -- the cutoff of the next tick has passed (R40)
  midDone : Bool         -- the seam midpoint of the most recent tick has passed
  gapTo : Option Nat     -- in a step gap: the nominal time, in samples, of the next tick (R37)
  muHeld : Option Nat    -- a numerology change held under R56
  muNext : Option (Option Nat)  -- what a cutoff has judged that is held from its frame boundary on
  changes : List Change  -- committed changes, in the order of commit
  deriving DecidableEq, Repr

def Cadence.reset : Cadence :=
  { running := false, runHeld := false, stopDue := false, startAt := none, tickIdx := 0, nom := 0, since := 0, len := 0, lag := 0,
    frozen := false, midDone := true, gapTo := none, muHeld := none, muNext := none, changes := [] }

/-! ### RF tiles (chapter 3) -/

/-- A stored band of a synthesizer (R522): code of core and band, the word and temperature stored with it, and its track
range. Words and track limits are N_INT * 2^32 + FRAC. -/
structure Band where
  code : Nat
  word : Nat
  temp : Int
  lo : Nat
  hi : Nat
  deriving DecidableEq, Repr

/-- What a running synthesizer that is not LO-qualified is doing. -/
inductive SynBusy where
  | none          -- relocking in its band
  | cold          -- band selection (Standby to SynthOn cold, retune outside the band, re-banding)
  | warm          -- start or retune with a stored band
  deriving DecidableEq, Repr

/-- One synthesizer. -/
structure Syn where
  run : Bool             -- powered and producing its word
  qual : Bool            -- LO-qualified (R69)
  ld : Bool              -- phase-detector error within PHERR
  vt : Bool              -- tuning voltage outside the track window (R70)
  int : Word             -- INT register of the word in force
  frac : Word            -- FRAC register of the word in force
  band : Option Band     -- the stored band (R522)
  busy : SynBusy
  origin : Nat           -- timebase cycle at which the fractional-N modulator restarted (R68)
  retired : Bool
  deriving DecidableEq, Repr

def Syn.reset : Syn :=
  { run := false, qual := false, ld := false, vt := false, int := 0, frac := 0, band := none, busy := .none, origin := 0,
    retired := false }

/-- One tile. -/
structure Tile where
  level : Nat                -- 0 Sleep, 1 Standby, 2 SynthOn
  goal : Option Nat          -- the level a transition in progress reaches (TRANSIT)
  via : Bool                 -- on its way from Sleep to SynthOn it has not yet reached Standby (Table 3.1)
  deferLevel : Option Nat    -- a level deferred under R63
  act : Bool                 -- synthesizer that drives the LO, true for B
  hoWait : Bool              -- a handover waits for the new synthesizer (R73)
  reband : Bool              -- firmware re-bands the active synthesizer in the next idle window (R70)
  rebandHo : Bool            -- the standby is being re-banded to take over (R70)
  rot : Int                  -- phase rotation applied at handovers (R75), 360/65536 degree units
  phaseUnaligned : Bool      -- R76
  txHeld : Bool              -- the tile outputs zero for the current symbol (R78, R79)
  heldSym : Bool             -- the current symbol is counted in TILE_LO_HELD already
  critMute : Bool            -- thermal mute (R64)
  retired : Bool
  rangeErr : Bool            -- the last committed word was refused (R67)
  seenRef : Bool             -- a ROUTE_REF measurement since PHASE_UNALIGNED was set (R204)
  seenInt : Bool             -- a ROUTE_INT measurement since then
  hoMeas : Bool              -- the next LO phase measurement is the first after a handover (R75)
  gerrLoaded : Bool          -- firmware has loaded the characterised GERR values (R84)
  ownEntries : List Nat      -- power-step entries that software has written since
  loFrom : Option Nat        -- cycles into the current symbol from which on its LO is not qualified (R80)
  loBad : List (Nat × Nat)   -- earlier spans of the symbol without a qualified LO
  synA : Syn
  synB : Syn
  deriving DecidableEq, Repr

def Tile.reset : Tile :=
  { level := 0, goal := none, via := false, deferLevel := none, act := false, hoWait := false, reband := false, rebandHo := false,
    rot := 0, phaseUnaligned := false, txHeld := false, heldSym := false, critMute := false, retired := false,
    rangeErr := false, seenRef := false, seenInt := false, hoMeas := false, gerrLoaded := false, ownEntries := [], loFrom := none, loBad := [], synA := Syn.reset, synB := Syn.reset }

/-- One path (chapters 3 and 4). -/
structure PathSt where
  mode : Nat                 -- 0 Idle, 1 Receive, 2 Transmit: the state reached
  transit : Option Nat       -- the state a transition in progress reaches (R61)
  defer : Option Nat         -- a mode deferred under R63
  retired : Bool             -- R65
  heals : Option Bool        -- from this tick on, whether array healing and neighbour forcing act on the path (R148, R162)
  adcRetired : Bool          -- R113
  dacRetired : Bool
  muted : Bool               -- taken out of its mode by a thermal mute (R64)
  testing : Bool             -- a BIST holds the path in Idle (Table 15.6)
  pstep : Word               -- the power-step entry in force (R83)
  settle : Nat               -- unsettled marking left, in samples of 491.52 Msps (R102)
  dJump : Bool               -- the RX d of this tick has changed by more than one sample (R100)
  dTx : Int                  -- d of R99, 1/1024 sample
  dRx : Int
  deriving DecidableEq, Repr

/-- The entry in force at reset is entry 0 of the nominal table: 0 dB, DGAIN 2048 (R84). -/
def PathSt.reset : PathSt :=
  { mode := 0, transit := none, defer := none, retired := false, heals := none, adcRetired := false, dacRetired := false,
    muted := false, testing := false, pstep := 0x800#32, settle := 0, dJump := false, dTx := 0, dRx := 0 }

/-! ### Relief converters (chapter 4) -/

/-- One relief converter pair (R105 to R115): phase 0 free, 1 shadowing, 2 standing in, 3 return shadowing. -/
structure Relief where
  phase : Nat
  path : Nat                 -- local path shadowed or served
  forRetired : Bool          -- stands in for, or takes over, a retired converter (R113, R115)
  closed : Bool              -- the shadow or return window has closed; the comparator judges
  calibrating : Bool         -- the native pair is out of service for calibration
  failedReturn : Bool        -- a failed return keeps the relief serving through the next slot (R111)
  restoring : Bool           -- a restored converter shadows before it returns (R115)
  retired : Bool
  testing : Bool             -- a BIST holds the pair (Table 15.6)
  inMode : Bool              -- the path has been in Receive (ADC) or Transmit (DAC) since the last seam midpoint of the window
  whole : Nat                -- ticks of the window through which it was (R110)
  held : Option (Word × Word)  -- trims A and B that the native pair held before its calibration (R112, R113)
  abandoned : Bool           -- the last slot of this kind ended under R112
  deriving DecidableEq, Repr

def Relief.reset : Relief :=
  { phase := 0, path := 0, forRetired := false, closed := false, calibrating := false, failedReturn := false,
    restoring := false, retired := false, testing := false, inMode := false, whole := 0, held := none, abandoned := false }

/-- What the two relief pairs of a tile share: the slot sequence and the flags of TILE_RELIEF_STATUS. -/
structure ReliefTile where
  slot : Nat                 -- SLOT_IDX
  started : Bool             -- a first slot has begun
  suspended : Bool           -- R26, R114: SUSPENDED
  nocmp : Bool               -- R110
  calAbandoned : Bool        -- R112: the last slot of either kind
  adc : Relief
  dac : Relief
  deriving DecidableEq, Repr

def ReliefTile.reset : ReliefTile :=
  { slot := 0, started := false, suspended := false, nocmp := false, calAbandoned := false, adc := Relief.reset, dac := Relief.reset }

/-! ### The Sump (chapter 15) -/

/-- One Sump source beside its TOTAL count. -/
structure Source where
  times : List Nat           -- timebase cycles of the most recent events, newest first (R411)
  retired : Bool
  severe : Bool
  wire : Bool
  held : Bool                -- held quiet (R418, R421)
  limit : Bool               -- R416
  escalated : Bool           -- Table 15.2
  wireIgnored : Bool         -- reports ignored after a wire fault (R408)
  deriving DecidableEq, Repr

def Source.reset : Source :=
  { times := [], retired := false, severe := false, wire := false, held := false, limit := false, escalated := false,
    wireIgnored := false }

/-- A fault-log record before SEQ and CRC are added (Table 15.3). -/
structure LogRec where
  time : Nat                 -- whole ns
  epoch : Word
  type : Nat
  source : Nat
  kind : Nat
  index : Nat
  count : Nat
  temp : Int
  fw : Word
  deriving DecidableEq, Repr

/-- One thermal sensor (R428 to R431). -/
structure Sensor where
  broken : Bool
  atCrit : Bool
  atWarn : Bool
  fast : Bool
  mismatch : Nat
  meas : Int                 -- 0.125 degree units
  est : Int
  power : Nat                -- 10 mW units
  deriving DecidableEq, Repr

def Sensor.reset : Sensor :=
  { broken := false, atCrit := false, atWarn := false, fast := false, mismatch := 0, meas := 0, est := 0, power := 0 }

/-- The Sump beside its registers. -/
structure Sump where
  src : Vector Source 256
  sensors : Vector Sensor 6
  pulse : Bool               -- a FAULT_N pulse is being driven (R422)
  extFall : Option Nat       -- cycle at which another device pulled FAULT_N low (R421)
  logQueue : List LogRec     -- records waiting, oldest first (R426)
  logSeq : Nat               -- SEQ of the next record (R425)
  logSlot : Nat              -- slot the next record goes to
  deriving DecidableEq, Repr

def Sump.reset : Sump :=
  { src := Vector.replicate 256 Source.reset, sensors := Vector.replicate 6 Sensor.reset, pulse := false, extFall := none,
    logQueue := [], logSeq := 0, logSlot := 0 }

/-! ### Register access, SPI, Derrick, check values (chapter 14) -/

/-- The management SPI (R382 to R388). -/
structure Spi where
  queue : List (Nat × Word × Nat)  -- queued write words: address, data, frame number (R386)
  frame : Nat                -- number of the current frame
  failed : Option Nat        -- the frame whose write failed: its later words are discarded (R387)
  err : Bool                 -- ERR of the status byte
  part : Bool                -- PARTIAL
  code : Nat                 -- CODE
  sdo : List Word            -- what the last read frame returned, oldest first: sync byte in [39:32] is kept apart
  sync : List Nat            -- the sync byte of each word of the last read frame
  deriving DecidableEq, Repr

def Spi.reset : Spi :=
  { queue := [], frame := 0, failed := none, err := false, part := false, code := 0, sdo := [], sync := [] }

/-- The state of a Derrick channel. -/
inductive ChState where
  | idle | ready | running | halted | stopped | done | doneErr | aborted
  deriving DecidableEq, Repr

/-- One Derrick channel (R391 to R402). -/
structure Channel where
  st : ChState
  wasRunning : Bool          -- STOPPED while it was running (R400)
  desc : Nat                 -- address of the descriptor in work (CUR)
  src : Nat
  dst : Nat
  count : Nat                -- bytes left
  ctl : Word                 -- third descriptor word
  next : Nat
  loaded : Bool              -- the descriptor has been fetched
  down : Bool                -- the engine moves downwards (R397)
  funnel : Option (Nat × Word)  -- the source word that the funnel still holds, with its address (R395)
  deriving DecidableEq, Repr

def Channel.reset : Channel :=
  { st := .idle, wasRunning := false, desc := 0, src := 0, dst := 0, count := 0, ctl := 0, next := 0, loaded := false, down := false, funnel := none }

/-- Derrick: the channels and the error mode in force (R402). -/
structure Derrick where
  ch : Vector Channel 8
  allStop : Bool             -- ERRMODE in force
  stoppedAll : Bool
  deriving DecidableEq, Repr

def Derrick.reset : Derrick := { ch := Vector.replicate 8 Channel.reset, allStop := false, stoppedAll := false }

/-- The check-value unit (R403 to R406). -/
structure CheckUnit where
  busy : Bool
  crc : Word                 -- the running state, before XOR-out
  addr : Nat                 -- next byte of the scan
  len : Nat                  -- bytes left of the scan
  deriving DecidableEq, Repr

def CheckUnit.reset : CheckUnit := { busy := false, crc := 0, addr := 0, len := 0 }
/-! ### Supplies, start-up and power states (chapter 16) -/

/-- The state of a power domain (R447). -/
inductive DomState where
  | off | retain | on
  deriving DecidableEq, Repr

/-- A power request: its target state, and the command that asked for it. -/
structure PowerReq where
  target : Nat
  cmd : Option Nat
  deriving DecidableEq, Repr

/-- The power controller and the AON island. -/
structure Power where
  dev : Nat                     -- 0 Off, 1 Dormant, 2 Standby, 3 Ready, 4 Active (R447)
  phase : Nat                   -- phase of Table 16.6 in progress, 0 for none
  warm : Bool                   -- the start is warm (R527)
  startTgt : Nat                -- target of the start: 0 Standby, 1 Ready, 2 Ready with restore (R457)
  hold : Bool                   -- held in the boot ROM (R446, R465)
  bootSel : Nat                 -- BOOT_SEL as last sampled (R446)
  inReset : Bool                -- RESET_N is low (R445)
  fabric : Bool                 -- the register fabric is powered and answers (R383, R526)
  cur : Option PowerReq         -- the request whose transition runs (R453)
  stepTo : Option Nat           -- the state the step in progress reaches (R450)
  slot : Option PowerReq        -- the pending slot (R453)
  ctrl : DomState
  skx : DomState
  dsp : DomState
  chisel : DomState
  tile : Vector DomState 4
  rails : Nat                   -- how many of PWR_EN0 to PWR_EN5 are raised, in order (R439)
  sequencing : Bool             -- the sequence of R439 runs
  pgood : Bool                  -- PGOOD as last seen
  removing : Bool               -- R440 has begun
  dormantStep : Nat             -- step of Table 16.8 in progress, 0 for none
  wakeLatch : Option Nat        -- a latched wake and its target (R456)
  slowclk : Bool                -- SLOWCLK_OK (R459)
  emergencies : List Nat        -- cycles of recent emergency entries, newest first (R441)
  restartLimit : Bool           -- R441: no automatic restart
  pgFault : Bool                -- POWER_EVT.PGOOD_FAULT is owed at the next boot
  wokeOwed : Bool               -- POWER_EVT.WOKE is owed at the next boot (R457)
  booted : Bool                 -- a firmware image runs (R465)
  autoDue : Bool                -- an automatic restart is due (R441)
  entryRecs : Nat               -- entry records written to MRAM (Table 16.8, step 4; log entry 13)
  wakeDeferred : Bool           -- POWER_EVT.WAKE_DEFERRED is owed once CTRL is ON (R456)
  readyBy : Bool                -- the firmware sequencing of a start asks for Ready (phase 9)
  deriving DecidableEq, Repr

/-- Right after power-on reset: Dormant, phase 1 of a start, every switched domain OFF (R444, R460). -/
def Power.reset : Power :=
  { dev := 1, phase := 1, warm := false, startTgt := 1, hold := false, bootSel := 0, inReset := false, fabric := false,
    cur := none, stepTo := none, slot := none, ctrl := .off, skx := .off, dsp := .off, chisel := .off,
    tile := Vector.replicate 4 .off, rails := 0, sequencing := false, pgood := false, removing := false, dormantStep := 0,
    wakeLatch := none, slowclk := false, emergencies := [], restartLimit := false, pgFault := false, wokeOwed := false, booted := false, autoDue := false, entryRecs := 0, wakeDeferred := false,
    readyBy := false }

/-! ### Security and debug (chapter 17) -/

/-- A firmware bank of MRAM: whether it holds an authenticated image, and its VERSION and ROLLBACK (Table 17.3). -/
structure FwBank where
  valid : Bool
  version : Word
  rollback : Nat
  owner : Bool                  -- also carries an owner signature that verifies in OWNED and FIELD (R465)
  deriving DecidableEq, Repr

/-- The security unit: OTP contents, keys, sessions, sequence numbers. -/
structure Sec where
  lifecycle : Nat               -- state in force (Table 17.1)
  lcNext : Option Nat           -- burned, effective at the next reset (R463)
  ownerHash : Option (List Byte)
  flowSecret : Option (List Byte)
  rollback : Nat                -- rollback counter, 0 to 64 (R466)
  bootCount : Word              -- BOOT_COUNT in MRAM (R467)
  kFlow : Option (List Byte)    -- K_FLOW (R467)
  level : Nat                   -- 0 NONE, 1 OBSERVE, 2 FULL, 3 SCAN (R473)
  halted : Bool
  nonce : Option (List Byte)    -- a valid challenge (R474)
  fails : Nat                   -- consecutive failures, in the AON island (R474)
  lockout : Bool                -- challenges are refused (R474)
  rxLink : Nat                  -- last accepted inbound sequence numbers (R469)
  rxSpi : Nat
  txLink : Nat                  -- last used outbound sequence numbers
  txSpi : Nat
  banks : Vector FwBank 2
  active : Bool                 -- active MRAM bank, true for bank 1
  fw : Word                     -- version of the firmware in force
  deriving DecidableEq, Repr

/-- OTP and MRAM contents at power-on are those of a part in FACTORY with one authenticated image (DESIGN CHOICE, log entry 21). -/
def Sec.reset : Sec :=
  { lifecycle := 0, lcNext := none, ownerHash := none, flowSecret := none, rollback := 0, bootCount := 0, kFlow := none,
    level := 0, halted := false, nonce := none, fails := 0, lockout := false, rxLink := 0, rxSpi := 0,
    txLink := 0, txSpi := 0, banks := #v[⟨true, 1, 0, false⟩, ⟨false, 0, 0, false⟩], active := false, fw := 1 }
/-! ### Drunas commands (chapter 11) -/

/-- A packet or register-access request in the ring (R312, R389): its words as received, and whether the link message
that carried it passed its CRC. -/
structure Packet where
  words : List Word
  spi : Bool                    -- arrived through the management SPI
  regAccess : Bool              -- a request of flow 0x310
  crcOk : Bool
  loads : Nat                   -- weight-load messages with the TAG of this packet written since it entered
  loadWords : Nat               -- weights they carried
  loadRefused : Bool            -- one of them was refused
  deriving DecidableEq, Repr

/-- Where an accepted command that has not received its final reply stands. -/
inductive CmdStage where
  | pendList                    -- in the pending list (TIMING 2, R313)
  | nextMid                     -- waits for the next seam midpoint (TIMING 1)
  | committed                   -- its changes have not all landed or lost (R311)
  | queuedCal                   -- queued under R203
  | working                     -- long-running work, or waiting for a completion (R315)
  deriving DecidableEq, Repr

/-- A command between its acceptance and its final reply. -/
structure Cmd where
  id : Nat
  opcode : Nat
  tag : Nat
  spi : Bool
  auth : Bool
  finalOnly : Bool
  timing : Nat
  execTime : Nat                -- EXEC_TIME, whole ns
  params : List Word
  stage : CmdStage
  total : Nat                   -- instances committed
  lost : Nat                    -- instances that lost under R54
  late : Bool
  refused : Bool                -- a mode was refused at landing (R60, R451)
  results : List Word
  time : Nat                    -- TIME of the reply, whole ns
  aux : List Nat                -- progress of the work: what its row needs
  silent : Bool                 -- no command: work of a scheduled action, which has no reply
  verdict : Option Nat          -- the final status, once the work has ended, until the reply is sent
  deriving DecidableEq, Repr

/-- The command processor (chapter 11). -/
structure Drunas where
  ring : List Packet
  cmds : List Cmd
  nextId : Nat
  submit : List Word            -- words of the packet being submitted through the SPI (R323)
  replies : List (List Word)    -- SPI replies, oldest first, unread words only (R323)
  handover : Bool               -- R321
  staged : Option FwBank        -- authenticated image in the inactive bank (R320)
  oldFw : Word                  -- version before the handover in progress
  ranges : List (Nat × Nat × Nat)  -- capture-SRAM ranges in use: command, address, bytes (R318, R319)
  clash : List (Nat × Nat × Nat)   -- the overlaps among them, for each command (Table 11.7)
  deriving DecidableEq, Repr

def Drunas.reset : Drunas :=
  { ring := [], cmds := [], nextId := 0, submit := [], replies := [], handover := false, staged := none, oldFw := 0, ranges := [],
    clash := [] }

/-! ### Time (chapter 12) -/

/-- A step that waits (R334). Amounts are in 2^-32 ns. -/
structure Step where
  abs : Bool
  amount : Int
  cmd : Option Nat
  ripe : Nat                    -- number of the first tick whose cutoff follows the request (R335)
  deriving DecidableEq, Repr

/-- An exchange whose DELAY_RESP is awaited (R330, R331): stamps in 2^-32 ns, reference lanes of both directions. -/
structure Exchange where
  seq : Nat
  master : Nat
  t1 : Int
  t2 : Int
  t3 : Int
  rxLane : Nat
  txLane : Nat
  expired : Bool                -- 1.0 ms has passed
  deriving DecidableEq, Repr

/-- The time unit. -/
structure TimeUnit where
  now : Nat                     -- local time in 2^-32 ns (R324)
  adv : Bool                    -- local time advances (R326)
  cycle : Nat                   -- timebase cycles since power-on, the model's own clock
  inc : Nat                     -- increment in force, 2^-32 ns
  incClamp : Bool
  fterm : Int                   -- frequency term F, 10^-18 (R332)
  locked : Bool
  lockCnt : Nat                 -- consecutive valid exchanges within LOCK_THR
  unlockCnt : Nat               -- consecutive valid exchanges beyond 4 LOCK_THR
  holdover : Bool
  validAt : Nat                 -- cycle of the last valid exchange with the current master
  master : Option Nat
  cand : Option Nat             -- the candidate (R338)
  candOfs : List Int            -- its consecutive valid offsets, newest first
  candAt : Nat                  -- cycle of the last of them
  candSync : Nat                -- SYNCs from it since the last DELAY_REQ
  syncCnt : Nat                 -- SYNCs from the master since the last DELAY_REQ (R330)
  exch : List Exchange          -- exchanges that await their DELAY_RESP, oldest first
  theta : Int                   -- offset of the last valid exchange, 2^-32 ns
  step : Option Step
  tsq : List (Nat × Nat × Nat)  -- queue of R339: SEQ_ID, stamp in 2^-32 ns, epoch
  ppsOut : Bool
  tsyncOff : Bool               -- TSYNC_DRV_OFF
  fine : Bool                   -- FINE
  tsyncMiss : Nat               -- consecutive instants without an edge
  tsyncBad : Nat                -- consecutive instants with a difference above 20 ns
  tsyncDrop : Bool              -- θ_f is out of use until an instant is good again (R347)
  slotSpi : Vector Bool 32      -- slots armed through the management SPI (Table 12.2)
  deriving DecidableEq, Repr

def TimeUnit.reset : TimeUnit :=
  { now := 0, adv := false, cycle := 0, inc := 0x208D55555, incClamp := false, fterm := 0, locked := false, lockCnt := 0,
    unlockCnt := 0, holdover := false, validAt := 0, master := none, cand := none, candOfs := [], candAt := 0, candSync := 0,
    syncCnt := 0, exch := [], theta := 0, step := none, tsq := [], ppsOut := false, tsyncOff := false, fine := false,
    tsyncMiss := 0, tsyncBad := 0, tsyncDrop := false, slotSpi := Vector.replicate 32 false }
/-! ### Lanes (chapter 9) -/

/-- Where a lane stands (Tables 9.5 and 9.6); `active` is L0 or LS, which the active sets tell apart. -/
inductive LaneSt where
  | ei | detect | eq | align | qualify | ready | active | wait | down | retired | bist
  deriving DecidableEq, Repr

/-- One lane beside its registers: equaliser, precoding, quality and latency figures stand in LANE_EQ, LANE_STATE, LANE_LQF
and LANE_LAT. -/
structure Lane where
  st : LaneSt
  attempt : Nat              -- current attempt, 0 to 8 (R261)
  good : Nat                 -- consecutive good frames that name this lane, or codewords toward codeword lock (Table 9.5)
  other : Nat                -- consecutive good frames that name another lane
  low : Nat                  -- consecutive windows below LQF_RETIRE (Table 9.3)
  firstWindow : Bool         -- the next window is the first after a wake
  fastExit : Bool            -- entered EI from service: a fast exit comes first (R269)
  retired : Bool
  leaveTo : Option (LaneSt × Bool)  -- what follows its leaving both sets, and whether it recovers by fast exit
  lostAt : Option Nat        -- cycle of a loss of lock whose slots are counted (R268)
  req : Nat                  -- the partner's last FFE requests: PRE, MAIN, POST (Table 9.4)
  deriving DecidableEq, Repr

def Lane.reset : Lane :=
  { st := .ei, attempt := 0, good := 0, other := 0, low := 0, firstWindow := false, fastExit := false, retired := false,
    leaveTo := none, lostAt := none, req := 0 }

/-- A proposed change of the active sets (R264): what becomes of one lane, and the landing tick. -/
structure Proposal where
  lane : Fin 8
  tx : Option Bool           -- joins (true) or leaves (false) the transmit set
  rx : Option Bool
  land : Nat
  deriving DecidableEq, Repr
/-! ### Cells, flows and messages (chapter 10) -/

/-- A message of the link: its flow, and its body in words, or in bytes where the body is no whole number of words. -/
structure Message where
  flow : Nat
  words : List Word
  deriving DecidableEq, Repr

/-- A message that is being received (R278). -/
structure OpenMsg where
  flow : Nat
  bytes : List Byte          -- payload bytes so far
  time : Nat                 -- stamp of its first cell (R329)
  deriving DecidableEq, Repr

/-- A complete received message that its row has not taken yet. -/
structure Inbox where
  flow : Nat
  words : List Word          -- body without the closing CRC
  crcOk : Bool
  time : Nat                 -- local time of completion, 2^-32 ns
  first : Nat                -- stamp of the first cell
  deriving DecidableEq, Repr

/-- A message accepted for a symbol, or handed over (R279, R290). -/
structure Accepted where
  flow : Nat
  addr : Word                -- the symbol address
  bound : Nat                -- its bound, local time in 2^-32 ns
  words : List Word          -- the message
  deriving DecidableEq, Repr

/-- The link: active sets, proposals, and the cell layer. -/
structure Link where
  txSet : Nat                -- transmit active set, bit k for lane k
  rxSet : Nat
  proposals : List Proposal
  switching : List Proposal  -- changes fixed at the cutoff, until their superframe (R265)
  notice : Option (Nat × Nat)  -- the partner's last notice: S and its new transmit set (R265)
  sf : Option Nat            -- start of transmit superframe 0, in unit intervals of the model's clock (R254)
  peerTx : Nat               -- transmit directions that the partner asks to sleep (Table 10.7)
  peerRx : Nat
  openMsgs : List OpenMsg
  rxSeq : List (Nat × Nat)   -- expected SEQ of each flow in reception (R277)
  txSeq : List (Nat × Nat)   -- next SEQ of each flow in transmission
  inbox : List Inbox
  accepted : List Accepted   -- sample messages accepted for symbols to come (R290)
  tx : List Message          -- messages handed to the transmitter, oldest first
  shedTx : List Nat          -- flows shed by this end
  shedRx : List Nat          -- flows the partner reports as shed (R304)
  deriving DecidableEq, Repr

def Link.reset : Link :=
  { txSet := 0, rxSet := 0, proposals := [], switching := [], notice := none, sf := none, peerTx := 0, peerRx := 0, openMsgs := [], rxSeq := [], txSeq := [],
    inbox := [], accepted := [], tx := [], shedTx := [], shedRx := [] }

/-! ### Chisel cores (chapter 8) -/

/-- One level of LOOP (R230): instructions `start` up to but not including `stop`, iterations left. -/
structure LoopSt where
  start : Nat
  stop : Nat
  left : Nat
  cached : Bool              -- past its first iteration, with a body of at most 64 instructions
  deriving DecidableEq, Repr

/-- The architectural state of a core (Table 8.1), with the program position, the cycles the activation has used and the cycle
from which each register may be read (R216). -/
structure Ctx where
  s : Vector Word 16
  v : Vector (Vector Word 16) 32
  a : Vector (Vector Word 16) 8
  flags : Nat                -- 8 invalid, 4 divide-by-zero, 2 overflow, 1 underflow
  pc : Nat
  loops : List LoopSt        -- innermost first
  now : Nat
  readyS : Vector Nat 16
  readyV : Vector Nat 32
  readyA : Vector Nat 8
  deriving DecidableEq, Repr

def Ctx.reset : Ctx :=
  { s := Vector.replicate 16 0, v := Vector.replicate 32 (Vector.replicate 16 0), a := Vector.replicate 8 (Vector.replicate 16 0),
    flags := 0, pc := 0, loops := [], now := 0, readyS := Vector.replicate 16 0, readyV := Vector.replicate 32 0,
    readyA := Vector.replicate 8 0 }

/-- A block transfer (R222): core address, cluster address, bytes, and whether it goes to the cluster memory. -/
structure Xfer where
  local_ : Nat
  cluster : Nat
  bytes : Nat
  toCluster : Bool
  deriving DecidableEq, Repr

/-- One core. -/
structure Core where
  retired : Bool
  testing : Bool             -- a BIST holds the core (R244)
  run : Option Nat           -- slot of the kernel whose activation runs
  ctx : Ctx
  xfers : List Xfer          -- outstanding, oldest first
  held : Option Xfer         -- a third transfer that stalls
  waiting : Bool             -- XWAIT stalls
  deriving DecidableEq, Repr

def Core.reset : Core :=
  { retired := false, testing := false, run := none, ctx := Ctx.reset, xfers := [], held := none, waiting := false }

/-- An admitted kernel (R236 to R247). -/
structure Kernel where
  slot : Nat
  user : Bool
  handle : Nat
  evicted : Bool
  released : Bool            -- its first activation has been released
  stateLost : Bool
  pinned : Bool
  core : Nat
  home : Option Nat          -- core it returns to after a BIST (R244)
  trig : Bool                -- triggered by a scheduled action
  w : Nat
  span : Nat
  every : Nat
  entry : Nat
  x : Nat × Nat              -- base and length of each allocation, as core addresses
  y : Nat × Nat
  c : Nat × Nat
  i : Nat × Nat
  win : Nat × Nat            -- cluster window
  order : Nat                -- admission order
  from_ : Nat                -- first tick at which it may be released
  trigger : Bool             -- a trigger waits for the next tick
  active : Option Nat        -- deadline tick of the activation in progress
  count : Nat                -- activations released
  ctx : Ctx                  -- registers while it is not running
  unload : Bool              -- R247
  fpf : Nat
  max : Nat
  last : Nat
  acts : Nat
  deriving DecidableEq, Repr

/-- The cluster. -/
structure Chisel where
  cores : Vector Core 16
  kernels : List Kernel      -- in admission order
  order : Nat                -- admissions so far
  handle : Nat               -- handles given so far
  op : Nat
  opTgt : Option Nat         -- target of an OP change in progress (R234)
  settled : Bool             -- VDSP has settled
  opHeld : Bool
  waitLoads : List (Nat × Nat)  -- loads that wait for a higher OP: command and image address (R233)
  deriving DecidableEq, Repr

def Chisel.reset : Chisel :=
  { cores := Vector.replicate 16 Core.reset, kernels := [], order := 0, handle := 0, op := 0, opTgt := none, settled := false,
    opHeld := false, waitLoads := [] }
/-! ### Sample datapath (Tables 1.3 and 1.4) -/

/-- The settings that one side of a seam works with (R47, R50). -/
structure Side where
  inforce : List (Nat × Word)
  dlBank : Bool
  ulBank : Bool
  healed : Nat               -- paths whose weights and neighbour terms are zero
  pages : List Nat           -- physical LUT page of the bank in use, by path
  pstep : List Word          -- power-step entry in force, by path
  dTx : List Int             -- d of R99, by path
  dRx : List Int
  rot : List Int             -- phase rotation of the handovers (R75), by tile
  deriving DecidableEq, Repr

def Side.reset : Side :=
  { inforce := [], dlBank := false, ulBank := false, healed := 0, pages := [], pstep := [], dTx := [], dRx := [], rot := [] }

/-- One symbol on its way through the device. -/
structure Symbol where
  nom : Nat                  -- nominal time of its tick, samples at 491.52 Msps
  edge : Nat                 -- timebase cycle of its tick
  cycles : Nat               -- its length, 0 where no symbol stands here
  mu : Nat
  seam : Nat                 -- L
  set : Side
  dl : List (Nat × List Word)  -- its accepted downlink messages, by flow (R290)
  sliceErr : Nat             -- slices that failed a check in it (R153)
  marks : List (Nat × Nat × Nat)  -- path, first and past-last cycle of spans of unsettled receive samples (R101)
  deriving DecidableEq, Repr

def Symbol.reset : Symbol :=
  { nom := 0, edge := 0, cycles := 0, mu := 0, seam := 0, set := Side.reset, dl := [], sliceErr := 0, marks := [] }

/-- An uplink sample message of the symbol that has ended (R284 to R288). -/
structure UlMessage where
  flow : Nat
  addr : Word                -- address word with UMODE and MW
  map : List Byte            -- mark map, empty but for UMODE 2
  deriving DecidableEq, Repr

/-- The symbols in the datapath: the current one and the two before it, and the uplink messages of the last. -/
structure Datapath where
  cur : Symbol
  prev : Symbol
  past : Symbol
  ul : List UlMessage
  deriving DecidableEq, Repr

def Datapath.reset : Datapath := { cur := Symbol.reset, prev := Symbol.reset, past := Symbol.reset, ul := [] }

/-! ### Beamformer (chapter 5) -/

/-- Reference values that a sounding message brought (R140, R292). -/
structure SoundRef where
  car : Nat
  layer : Nat
  addr : Word                -- symbol address
  mask : Nat                 -- subcarriers with a non-zero reference, one bit each
  vals : List (Nat × Cpx)    -- those subcarriers with their references, 2^-30 of full scale
  deriving DecidableEq, Repr

/-- A layer's part in one sounding symbol (R140, R141): its usable subcarriers with their references. -/
structure SoundSym where
  car : Nat
  layer : Nat
  tick : Nat                 -- tick and timebase cycle of the symbol
  cycle : Nat
  refs : List (Nat × Cpx)
  sig : Datapath             -- the symbol and the ones before it, once it has ended
  deriving DecidableEq, Repr

/-- The beamforming engine beside its registers and the Ashlar store. -/
structure Beam where
  dlBank : Bool              -- active downlink bank
  ulBank : Bool
  dlWait : Option Bool       -- a bank change deferred behind a copy (R134)
  ulWait : Option Bool
  mirrorBusy : Bool          -- a copy runs (R133)
  mirrorWait : Bool          -- one copy waits
  mirrorAt : Option Nat      -- a copy starts at the landing tick of the bank change it was written with
  written : List Nat         -- word addresses written to inactive banks since the copy began
  cfgErr : Bool              -- CFG_ERR (R120)
  sliceRetired : Nat         -- one bit per retired slice
  spareRetired : Bool
  spareFor : Option Nat      -- the slice the spare serves (R154)
  spareNext : Option (Option Nat × Nat)  -- what the spare serves from the midpoint of a tick on
  spareStood : Option Nat    -- the slice that the spare stood in for when it retired (R154)
  sliceLost : Nat            -- slices whose eight paths retired because nothing serves them (R19, R154)
  sliceErr : Nat             -- slices whose outputs of the current symbol are zero or excluded (R153)
  eccZero : List Nat         -- words that act as zero (R136)
  solving : Bool             -- a solver cycle runs
  solvedAt : Option Nat      -- tick at which the last cycle began (R145)
  lastMiss : Bool
  stopped : Bool             -- R147
  pEff : Nat                 -- P_eff of the cycle (R145)
  est : List SoundSym        -- the sounding symbols behind the newest estimate of each carrier and layer (R141, R142)
  sounded : List SoundSym    -- those since the sounding window opened
  dropped : Nat              -- paths that the cycle leaves out (R149)
  excluded : List (Nat × Nat)  -- carriers and layers that the cycle leaves out (R142)
  brought : List Nat         -- words that commands of the solver have written in the cycle
  refs : List SoundRef       -- references received for symbols to come (R140)
  lateRefs : List (Nat × Word × Nat)  -- carrier, symbol address and cycle of the late references counted in the last 5.12 s
  deriving DecidableEq, Repr

def Beam.reset : Beam :=
  { dlBank := false, ulBank := false, dlWait := none, ulWait := none, mirrorBusy := false, mirrorWait := false,
    mirrorAt := none, written := [], cfgErr := false, sliceRetired := 0, spareRetired := false, spareFor := none,
    spareNext := none, spareStood := none, sliceLost := 0, sliceErr := 0, eccZero := [], solving := false, solvedAt := none, lastMiss := false, stopped := false,
    pEff := 0, est := [], sounded := [], dropped := 0, excluded := [], brought := [], refs := [], lateRefs := [] }
/-! ### Linearisation (chapter 6) -/

/-- A sample that the capture engine keeps (R171): observation samples n − 9 to n + 2, DPD output and input, the neighbour inputs, and
its magnitude bin. -/
structure Kept where
  obs : List Cpx
  u : Cpx
  x : Cpx
  near : List Cpx
  bin : Nat
  deriving DecidableEq, Repr

/-- What a capture leaves in cluster memory (R171). -/
structure CapSet where
  kept : List Kept           -- at most 64 of each bin, in time order
  counts : List Nat          -- samples in each of the 16 bins
  welch : List Nat           -- power of each of the 1,024 bins of the spectrum
  deriving DecidableEq, Repr

/-- An update of a path in progress (R176). -/
structure DpdUpdate where
  caps : List CapSet         -- the captures that have arrived, oldest first
  bank : Nat
  need : Nat                 -- valid captures still awaited
  before : Nat               -- ACLR estimate before the update
  cls : Nat                  -- its class under R175: 1 NEEDS_ADAPT, 2 on request, 3 round-robin
  deriving DecidableEq, Repr

/-- The predistorter of one path beside its registers and pages. -/
structure DpdPath where
  page : Vector Nat 4        -- physical page of each bank (R163)
  spare : Nat                -- the spare page
  bank : Nat                 -- ACT_BANK: the bank in force (R165)
  needs : Nat                -- NEEDS_ADAPT (R181)
  upd : Option DpdUpdate
  verify : Option (Nat × Nat × Nat)  -- bank to verify, ACLR before its update, landing tick of its page (R179)
  reverts : Vector Nat 4     -- consecutive reverts per bank (R180)
  diverged : Nat             -- banks that continuous mode skips
  aclr : Nat
  qbank : Nat
  evm : Nat
  stale : Bool
  moved : Bool               -- what R172 names has landed for the path at the tick whose midpoint is to come
  deriving DecidableEq, Repr

def DpdPath.reset : DpdPath :=
  { page := #v[0, 1, 2, 3], spare := 4, bank := 0, needs := 0, upd := none, verify := none, reverts := #v[0, 0, 0, 0],
    diverged := 0, aclr := 255, qbank := 0, evm := 0, stale := true, moved := false }

/-- Who asked for an observation capture (Table 1.6): array calibration, DPD adaptation, background tracking, CAPTURE. -/
inductive CapUser where
  | cal | dpd | track | host (cmd : Nat)
  deriving DecidableEq, Repr

/-- An observation capture in progress (R170 to R172). -/
structure OrxCapture where
  input : Fin 64
  user : CapUser
  bank : Nat                 -- bank in force when it began
  valid : Bool
  at_ : Nat                  -- local time at which it began, 2^-32 ns
  tick : Nat                 -- tick at whose midpoint it began
  deriving DecidableEq, Repr

/-- One observation receiver. -/
structure Orx where
  retired : Bool
  last : Nat                 -- selector value of the input served last (R170)
  cap : Option OrxCapture
  testing : Bool             -- a BIST holds the receiver (Table 15.6)
  deriving DecidableEq, Repr

def Orx.reset : Orx := { retired := false, last := 3, cap := none, testing := false }

/-- The adaptation scheduler. -/
structure Dpd where
  path : Vector DpdPath 64
  queue : List (Nat × Nat)   -- on-request updates: path and bank, in the order queued (R175)
  last : List Nat            -- paths that stand last in the first class, in that order (R178)
  round : Nat                -- path that the round robin served last
  orx : Vector Orx 16
  wantCal : List Nat         -- inputs that array calibration waits for
  wantTrack : List Nat       -- inputs that background tracking waits for (R27)
  wantHost : List (Nat × Nat)  -- inputs that CAPTURE commands wait for, with the command
  capAt : List (Nat × Nat)   -- input and cycle of its last valid adaptation capture (R27)
  deriving DecidableEq, Repr

def Dpd.reset : Dpd :=
  { path := Vector.replicate 64 DpdPath.reset, queue := [], last := [], round := 63, orx := Vector.replicate 16 Orx.reset,
    wantCal := [], wantTrack := [], wantHost := [], capAt := [] }
/-! ### Calibration (chapter 7) -/

/-- An on-request calibration (R202, R203). -/
structure CalReq where
  code : Nat
  mask : Nat                 -- tiles of the request
  left : Nat                 -- tiles not done yet
  deferred : Nat             -- tiles whose calibration waits for an idle window (R71)
  cmd : Option Nat
  terr : Int                 -- sum of the arrival errors of its tiles so far, fs (R211)
  at_ : Nat                  -- cycle at which it was started
  deriving DecidableEq, Repr

/-- One estimate of a figure that calibration averages: gain in mdB, phase in mdeg, delay in fs, the ratio E/N0 of its observation and
the rms bandwidth of the observed signal in kHz (R197). -/
structure CalEst where
  gain : Int
  phase : Int
  delay : Int
  rho : Nat
  beta : Nat
  deriving DecidableEq, Repr

/-- What a tile's calibration port pair does (R190, R200). -/
structure CalTile where
  pos : Nat                  -- next position of the route cycle, 0 to 5
  open_ : Option Nat         -- route open in this symbol: 0 OUT, 1 REF, 2 RET, 3 INT
  stby : Bool                -- the open or last ROUTE_INT uses the standby synthesizer; the first visit takes the active one
  probed : Nat               -- local path probed last (R196)
  last : Option Nat          -- the route opened most recently: its measurement may complete until the next route opens
  refs : List CalEst         -- the last anchoring estimates since restart, newest first, at most 64 (R197)
  arrivals : List CalEst     -- ROUTE_REF measurements under code 0x07, newest first, at most 64 (R211)
  ofs : Int                  -- average behind OFS, 2^-20 of its unit (R201)
  deriving DecidableEq, Repr

def CalTile.reset : CalTile :=
  { pos := 0, open_ := none, stby := true, probed := 15, last := none, refs := [], arrivals := [], ofs := 0 }

/-- One direction of one path: averages in 2^-20 units of mdB, mdeg and fs (R201). -/
structure CalDir where
  gain : Int
  phase : Int
  delay : Int
  hist : List CalEst         -- the last estimates since restart, newest first, at most 64 (R197)
  at_ : Nat                  -- cycle of the last estimate
  high : Nat                 -- consecutive measurements beyond the limit (R209)
  first : Bool               -- the next residual is the first after a restore (R214)
  owedGain : Int             -- correction of the averaged value that has still to enter, mdB (R205)
  owedPhase : Int            -- mdeg
  owedDelay : Int            -- 1/1024 sample
  owedTerr : Int             -- what is still to enter of the common term of R211, 1/1024 sample
  deriving DecidableEq, Repr

def CalDir.reset : CalDir :=
  { gain := 0, phase := 0, delay := 0, hist := [], at_ := 0, high := 0, first := false, owedGain := 0, owedPhase := 0, owedDelay := 0,
    owedTerr := 0 }

/-- Calibration of one path beside its registers. -/
structure CalPath where
  rx : CalDir
  tx : CalDir
  anchored : Bool            -- R199
  anchorAt : Nat             -- cycle of the last TX anchor
  kn : Word                  -- K_n (R199)
  filt : Word                -- filter-tuning code (Table 7.7)
  dac : Word                 -- DAC static code
  stale : Bool               -- the quality figures come from a snapshot (Table 7.10)
  deriving DecidableEq, Repr

def CalPath.reset : CalPath :=
  { rx := CalDir.reset, tx := CalDir.reset, anchored := false, anchorAt := 0, kn := 0, filt := 0, dac := 0, stale := false }

/-- A correction of the idle class (R206): kind 0 a synthesizer (index 2t + 1 for B), 1 a path, 2 a converter pair
(index 34t + j, j as TILE_CONV_TRIMj). -/
structure IdleItem where
  kind : Nat
  index : Nat
  words : List (Nat × Word)  -- registers it writes
  codes : List (Nat × Word)  -- codes without a register: 0 filter, 1 DAC static
  restore : Bool             -- comes from a restore (R213)
  deriving DecidableEq, Repr

/-- A snapshot in progress (R212). -/
structure Snapshot where
  cmd : Option Nat
  mram : Bool
  dest : Nat                 -- MRAM slot, or bus address
  at_ : Nat                  -- tick number at which it was asked for
  image : Option (List Byte)
  deriving DecidableEq, Repr

/-- The calibration unit. -/
structure Cal where
  runs : List CalReq         -- running, oldest first
  queue : List CalReq        -- queued, oldest first
  snap : Option Snapshot
  restore : Option (Option Nat)  -- a restore in progress, with its command
  restoreLand : Nat          -- tick at which its blended values land
  restoreN : Nat             -- sections that it restores
  mixed : List (Nat × Fin 4) -- on-request calibrations, as code and tile, that a restore overlaps (Table 11.7)
  idle : List IdleItem
  fine : List (Nat × Int × Int)  -- averages behind the offset, leakage and image corrections: register, its two halves in 2^-20 LSB (R201)
  tile : Vector CalTile 4
  path : Vector CalPath 64
  deriving DecidableEq, Repr

def Cal.reset : Cal :=
  { runs := [], queue := [], snap := none, restore := none, restoreLand := 0, restoreN := 0, mixed := [], idle := [], fine := [],
    tile := Vector.replicate 4 CalTile.reset, path := Vector.replicate 64 CalPath.reset }
/-! ### The Coruf bias die (chapter 13) -/

/-- One bias output beside its registers. -/
structure BiasOut where
  span : Nat                 -- span in force (Table 13.1)
  seq : Nat                  -- span change: 0 none, 1 moving to the old safe value, 2 switched and clamped (Table 13.2)
  seqTo : Nat
  pendSpan : Option (Nat × Option Nat)  -- a span that landed meanwhile, with its command (R356)
  pendCode : Option Word     -- a code that landed meanwhile (R357)
  wait : Bool                -- WAIT_CODE
  hold368 : Bool             -- held until a code commit lands (R368)
  trip : Option Nat          -- channel whose trip holds the output (R363)
  ext : Bool                 -- held by an external kill (R366)
  limiting : Bool            -- the current limit has acted since the SC bit was last cleared (R358)
  before : Int               -- mV that the output drove when a rail was last lost (R523)
  lossDraw : Nat             -- the free value that its level took then (R523)
  deriving DecidableEq, Repr

def BiasOut.reset : BiasOut :=
  { span := 0, seq := 0, seqTo := 0, pendSpan := none, pendCode := none, wait := true, hold368 := true, trip := none,
    ext := false, limiting := false, before := 0, lossDraw := 0 }

/-- The Coruf die. -/
structure Bias where
  out : Vector BiasOut 96
  vbp : Bool                 -- rails at or above their good thresholds (R500)
  vbn : Bool
  vbio : Bool
  railHold : Bool            -- Table 13.3
  linkUp : Bool              -- LINK_OK (R524)
  wdHold : Bool              -- the watchdog is in force
  critHold : Bool            -- CRIT of the die, until PAOFF_SW is written 0 after it clears (R364)
  tileHold : Nat             -- tiles whose CRIT holds their outputs, until a seam midpoint (Table 13.3)
  extLow : Bool              -- another source holds PAOFF_N low
  extReturn : Bool           -- killed outputs return at the next seam midpoint (R366)
  test : Option Nat          -- output under test (R360)
  testWait : Option Nat      -- output of the request that waits
  txAt : Nat                 -- paths in Transmit at the most recent tick (R361)
  touchedOut : List Nat      -- outputs and paths that a change landed on at the most recent tick (R362)
  touchedPath : List Nat
  deriving DecidableEq, Repr

def Bias.reset : Bias :=
  { out := Vector.replicate 96 BiasOut.reset, vbp := false, vbn := false, vbio := false, railHold := true, linkUp := false,
    wdHold := false, critHold := false, tileHold := 0, extLow := false, extReturn := false, test := none, testWait := none,
    txAt := 0, touchedOut := [], touchedPath := [] }
/-! ### The machine -/

/-- A rise of an event source (R294): group and bit, local time in whole ns, and whether no cutoff has passed since. -/
structure Rise where
  group : Nat
  bit : Nat
  time : Nat
  fresh : Bool
  deriving DecidableEq, Repr

/-- What has happened in one timebase cycle, by which conflicts of that cycle are settled (R13, R43, R57, R135). A record of an
earlier cycle says nothing. -/
structure SameCycle where
  cycle : Nat
  writes : List (Nat × Nat)       -- register words that software wrote: address, R43 rank
  sets : List (Nat × Word)        -- bits that hardware set in a register: address, mask
  counts : List (Nat × Nat × Nat) -- counter fields that hardware advanced: address, low bit, by how many
  commits : List (Setting × Nat)  -- settings that took effect while no ticks ran, with the R43 rank of the commit
  ashlar : List (Nat × Nat × Nat) -- Ashlar ranges written: first byte, bytes, place of the writer in the order of R135
  deriving DecidableEq, Repr

def SameCycle.reset : SameCycle := { cycle := 0, writes := [], sets := [], counts := [], commits := [], ashlar := [] }

/-- Everything but memory and the queue of commands. -/
structure Dev where
  regs : List (Nat × Word)       -- software registers that differ from their reset values, by address, rising
  inforce : List (Nat × Word)    -- tick-bound words in force that differ from their reset values, by address, rising
  staged : List (Nat × Word)     -- staged words: IQ taps 1 to 6 (R116), quiet-map words (R195)
  cad : Cadence
  tiles : Vector Tile 4
  paths : Vector PathSt 64
  relief : Vector ReliefTile 4
  sump : Sump
  spi : Spi
  derrick : Derrick
  check : CheckUnit
  power : Power
  sec : Sec
  drunas : Drunas
  time : TimeUnit
  lanes : Vector Lane 8
  link : Link
  chisel : Chisel
  beam : Beam
  dpd : Dpd
  cal : Cal
  bias : Bias
  sig : Datapath
  rises : List Rise              -- enabled event rises since the last event message of their group (R294)
  same : SameCycle               -- what has happened in the present timebase cycle
  freeCtr : Nat                  -- the model's own: how many free values have been drawn (log entry 2)
  deriving DecidableEq, Repr

/-- The device right after power-on reset (DESIGN CHOICE, log entry 5). -/
def Dev.reset : Dev :=
  { regs := [], inforce := [], staged := [], cad := Cadence.reset, tiles := Vector.replicate 4 Tile.reset,
    paths := Vector.replicate 64 PathSt.reset, relief := Vector.replicate 4 ReliefTile.reset, sump := Sump.reset,
    spi := Spi.reset, derrick := Derrick.reset, check := CheckUnit.reset, power := Power.reset, sec := Sec.reset,
    drunas := Drunas.reset, time := TimeUnit.reset, lanes := Vector.replicate 8 Lane.reset,
    link := Link.reset, chisel := Chisel.reset, beam := Beam.reset, dpd := Dpd.reset, cal := Cal.reset, bias := Bias.reset, sig := Datapath.reset, rises := [], same := SameCycle.reset, freeCtr := 0 }

/-- The state of the block: the device, its memories in canonical form, and the commands that wait, first in first out. -/
structure State where
  dev : Dev
  mem : List Host.Cell
  pending : List Instr
  deriving DecidableEq, Repr

/-- The machine right after power-on reset: nothing written in memory, no command waiting (DESIGN CHOICE, log entry 5). -/
def State.reset : State := { dev := Dev.reset, mem := [], pending := [] }

/-- Why a command stops. The spec gives the block no stop: every event has an effect, so no meaning raises a fault
(DESIGN CHOICE, log entry 6). -/
inductive Fault where
  /-- Raised by no meaning; it stands here because a machine's fault type has a name (log entry 6). Safe. -/
  | none
  deriving DecidableEq, Repr

/-- Why a command is refused (DESIGN CHOICE, log entry 6). -/
inductive Refusal where
  /-- Raised by an arm of the dispatcher that has no meaning yet. Safe: nothing can be proved of the command. -/
  | notModelled (mnemonic : String)
  /-- Raised by a meaning whose operands are no command of the table (WellFormed refuses them). Safe. -/
  | illFormed
  deriving DecidableEq, Repr

end Sys2Proof.Machine
end

