-- ==== Sys2Proof/Machine/Ops.lean ====
section
/-!
DEFINITION. The named operations on registers, memory, units, clocks and pending changes that every meaning uses. A
block has no exception entry; what it has in its place, raising an event bit (R432) and reporting to the Sump (R411),
stands here and in Sump.lean.
-/

namespace Sys2Proof.Machine

/-! ### Maps from addresses to words -/

/-- The word a map lists at an address. -/
def mapGet : List (Nat × Word) → Nat → Option Word
  | [], _ => none
  | (b, w) :: m, a => if b = a then some w else mapGet m a

/-- `m` without an entry at `a`. -/
def mapDel : List (Nat × Word) → Nat → List (Nat × Word)
  | [], _ => []
  | (b, w) :: m, a => if b = a then mapDel m a else (b, w) :: mapDel m a

/-- `m` with `w` at `a`, addresses rising. -/
def mapSet : List (Nat × Word) → Nat → Word → List (Nat × Word)
  | [], a, w => [(a, w)]
  | (b, v) :: m, a, w => if a < b then (a, w) :: (b, v) :: m else if a = b then (a, w) :: m else (b, v) :: mapSet m a w

/-! ### Register descriptions and reset values -/

/-- The register block that holds an address, as base and rows (Table 14.1). -/
def blockRows (a : Nat) : Option (Nat × List RegRow) :=
  if a < 0x100000 then
    match a / 0x10000 with
    | 0x0 => some (0x0, rowsSys)
    | 0x1 => some (0x10000, rowsCadence)
    | 0x2 => some (0x20000, rowsTime)
    | 0x3 => some (0x30000, rowsSump)
    | 0x4 => some (0x40000, rowsPower)
    | 0x5 => some (0x50000, rowsSec)
    | 0x6 => some (0x60000, rowsDerrick)
    | 0x7 => some (0x70000, rowsCheck)
    | 0x8 => some (0x80000, rowsSkxPhy)
    | 0x9 => some (0x90000, rowsSkxCell)
    | 0xA => some (0xA0000, rowsBeam)
    | 0xB => some (0xB0000, rowsDpd)
    | 0xC => some (0xC0000, rowsCal)
    | 0xD => some (0xD0000, rowsChisel)
    | 0xE => some (0xE0000, rowsEvent)
    | _ => none
  else if a < 0x140000 then some (a / 0x10000 * 0x10000, rowsTile)
  else if 0x180000 ≤ a ∧ a < 0x190000 then some (0x180000, rowsBias)
  else none

/-- Whether an offset past a row's first one is a member of the row's index range. -/
def inDims : List (Nat × Nat) → Nat → Bool
  | [], r => r == 0
  | (n, s) :: ds, r => decide (r / s < n) && inDims ds (r % s)

/-- Whether Table 10.3 gives a flow number a meaning. -/
def flowMeant (f : Nat) : Bool :=
  decide (f < 0x80) || decide (0x100 ≤ f ∧ f < 0x204) || [0x210, 0x220, 0x300, 0x310, 0x320, 0x330, 0x3FF].contains f

/-- The description of the register at an address, none at an unimplemented offset (Table 14.2). The wake registers
exist in Tiles 0 and 2 only (R86), the flow registers for the flows of Table 10.3 only. -/
def regRow (a : Nat) : Option RegRow :=
  match blockRows a with
  | none => none
  | some (base, rows) =>
    if a = Reg.WAKE_CFG 1 ∨ a = Reg.WAKE_CFG 3 ∨ a = Reg.WAKE_STATUS 1 ∨ a = Reg.WAKE_STATUS 3 then none
    else if 0x91000 ≤ a ∧ a < 0x93000 ∧ flowMeant ((a - 0x91000) / 8) = false then none
    else rows.find? fun r => decide (base + r.offset ≤ a) && inDims r.dims (a - (base + r.offset))

/-- The factors 2^64 * 10^(-2^j/20460) that make up the digital gain of a power-step entry (R84). -/
def gainSteps : List Nat :=
  [18444668178894725409, 18442592517689649790, 18438441896003596664, 18430143454791972953, 18413557775125860321,
   18380431179783526157, 18314356669383789845, 18182919374451538419, 17922867886967942395, 17413869461740142673]

/-- round(2048 * 10^(-k/20460)), by the binary digits of `k`. -/
def nominalGain (k : Nat) : Nat :=
  ((gainSteps.zipIdx.foldl (fun p c => if k.testBit c.2 then p * c.1 / 2 ^ 64 else p) (2 ^ 64)) * 2048 + 2 ^ 63) / 2 ^ 64

/-- The nominal power-step entry that firmware fills in at reset, with GERR = 0 (R84). -/
def nominalEntry (i : Nat) : Word := Word.put (BitVec.ofNat 32 (nominalGain (40 * i % 1023))) 17 12 (min (40 * i / 1023) 40)

/-- N and W of a Sump source at reset, as N, W_VAL, W_UNIT (Table 15.1). -/
def srcDefault (n : Nat) : Nat × Nat × Nat :=
  if n < 128 then (4, 10, 2)
  else if n < 136 then (3, 1, 2)
  else if n < 152 then (4, 10, 2)
  else if n < 156 then (3, 10, 1)
  else if n < 164 then (4, 10, 2)
  else if n < 172 then (3, 10, 2)
  else if n < 181 then (2, 10, 1)
  else if n < 197 then (2, 10, 2)
  else if n < 209 then (3, 10, 2)
  else if n = 215 then (16, 1, 1)
  else if n < 230 then (1, 1, 0)
  else (0, 0, 0)

/-- SUMP_SRCn_CFG at reset (R410, R421). -/
def srcCfgReset (n : Nat) : Word :=
  let (t, v, u) := srcDefault n
  ((((0 : Word).put 7 0 t).put 19 8 v).put 21 20 u).put 31 31 (if n = 218 ∨ n = 226 then 1 else 0)

/-- SKX_CELL_FLOWf_CFG.PRIO at reset: 4 for sample flows, 7 for sounding, weight-load and control flows, 0 for captures
(register description of chapter 10). -/
def prioReset (f : Nat) : Nat :=
  if f < 0x200 then 4 else if f < 0x210 then 7 else if f = 0x220 then 0 else 7

/-- The reset value of the register at an address: its description's, except the tables whose values the spec computes
(DESIGN CHOICE, log entry 4). -/
def regReset (a : Nat) : Word :=
  if 0x101000 ≤ a ∧ a < 0x140000 ∧ a % 0x10000 / 0x1000 = 1 then nominalEntry (a % 0x1000 / 4)
  else if 0x31000 ≤ a ∧ a < 0x31800 ∧ a % 8 = 0 then srcCfgReset ((a - 0x31000) / 8)
  else if 0x91000 ≤ a ∧ a < 0x93000 ∧ a % 8 = 0 then ((0 : Word).put 10 8 1).put 2 0 (prioReset ((a - 0x91000) / 8))
  else if 0x3010C ≤ a ∧ a < 0x30160 ∧ a % 16 = 12 then (0 : Word).put 31 16 (Config.thermalR ((a - 0x3010C) / 16))
  else
    match regRow a with
    | none => 0
    | some r => r.fields.foldl (fun w f => w.put f.hi f.lo f.reset) 0

/-- The bits of a register that a predicate on its fields selects. -/
def fieldMask (a : Nat) (p : FieldRow → Bool) : Word :=
  match regRow a with
  | none => 0
  | some r => r.fields.foldl (fun w f => if p f then w.put f.hi f.lo (2 ^ 32 - 1) else w) 0

/-- All implemented bits of a register: reserved bits hold 0 (R11). -/
def implMask (a : Nat) : Word := fieldMask a fun _ => true

/-- The tick-bound bits of a register. -/
def tickMask (a : Nat) : Word := fieldMask a (·.tickBound)

/-! ### Reading and writing registers -/

/-- The word a register holds: what software last wrote, or what hardware last put there. -/
def Dev.rd (d : Dev) (a : Nat) : Word := (mapGet d.regs a).getD (regReset a)

/-- `d` with a register's word replaced; the map keeps only words that differ from the reset value. -/
def Dev.wr (d : Dev) (a : Nat) (w : Word) : Dev :=
  { d with regs := if w = regReset a then mapDel d.regs a else mapSet d.regs a w }

/-- The word in force of a tick-bound register (R40): only its tick-bound bits mean anything. -/
def Dev.inf (d : Dev) (a : Nat) : Word := (mapGet d.inforce a).getD (regReset a)

/-- `d` with the masked bits of a word in force replaced. -/
def Dev.setInf (d : Dev) (a : Nat) (w m : Word) : Dev :=
  let v := (d.inf a &&& ~~~m) ||| (w &&& m)
  { d with inforce := if v = regReset a then mapDel d.inforce a else mapSet d.inforce a v }

/-- A register as it acts: tick-bound bits in force, the others as written. -/
def Dev.eff (d : Dev) (a : Nat) : Word :=
  let m := tickMask a
  (d.rd a &&& ~~~m) ||| (d.inf a &&& m)

/-- A field of a register as written. -/
def Dev.fget (d : Dev) (a hi lo : Nat) : Nat := (d.rd a).get hi lo

/-- `d` with a field of a register replaced. -/
def Dev.fset (d : Dev) (a hi lo n : Nat) : Dev := d.wr a ((d.rd a).put hi lo n)

/-! ### Conflicts of one cycle (R13, R43) -/

/-- What has happened in the present timebase cycle: nothing, where the record is of an earlier one. -/
def Dev.sameNow (d : Dev) : SameCycle :=
  if d.same.cycle = d.time.cycle then d.same else { SameCycle.reset with cycle := d.time.cycle }

/-- Hardware sets bits of a register in this cycle. -/
def Dev.noteSet (d : Dev) (a : Nat) (m : Word) : Dev :=
  { d with same := { d.sameNow with sets := if d.sameNow.sets.contains (a, m) then d.sameNow.sets else (a, m) :: d.sameNow.sets } }

/-- Hardware advances a counter field by `n` in this cycle. -/
def Dev.noteCount (d : Dev) (a lo n : Nat) : Dev := { d with same := { d.sameNow with counts := (a, lo, n) :: d.sameNow.counts } }

/-- Software writes a register in this cycle, from an initiator of an R43 rank. -/
def Dev.noteWrite (d : Dev) (a rank : Nat) : Dev := { d with same := { d.sameNow with writes := (a, rank) :: d.sameNow.writes } }

/-- The bits of a register that hardware has set in this cycle. -/
def Dev.setNow (d : Dev) (a : Nat) : Word := d.sameNow.sets.foldl (fun w x => if x.1 = a then w ||| x.2 else w) 0

/-- What hardware has counted in a field of a register in this cycle. -/
def Dev.countedNow (d : Dev) (a lo : Nat) : Nat := d.sameNow.counts.foldl (fun n x => if x.1 = a ∧ x.2.1 = lo then n + x.2.2 else n) 0

/-- Whether software has written a register in this cycle: a hardware write of an RW field then loses (R13). -/
def Dev.writtenNow (d : Dev) (a : Nat) : Bool := d.sameNow.writes.any fun x => x.1 == a

/-- Whether an initiator later in the order of R43 has written a register in this cycle: its write is the later one. -/
def Dev.overtaken (d : Dev) (a rank : Nat) : Bool := d.sameNow.writes.any fun x => x.1 == a && decide (rank < x.2)

/-- Events of a counter field, which saturates (R10). -/
def Dev.countBy (d : Dev) (a hi lo n : Nat) : Dev :=
  (d.fset a hi lo (min (d.fget a hi lo + n) (2 ^ (hi + 1 - lo) - 1))).noteCount a lo n

/-- One more event of a counter field. -/
def Dev.count (d : Dev) (a hi lo : Nat) : Dev := d.countBy a hi lo 1

/-- One more event of a 32-bit counter register. -/
def Dev.count32 (d : Dev) (a : Nat) : Dev := d.count a 31 0

/-! ### Events (Table 15.5) -/

/-- The event bits: register, lowest bit, number of bits, group, place in the group. -/
def eventRows : List (Nat × Nat × Nat × Nat × Nat) := [
  (Reg.DRUNAS_EVT, 0, 5, 0, 0), (Reg.DERRICK_EVT, 0, 4, 0, 5), (Reg.CHECK_EVT, 0, 3, 0, 9), (Reg.POWER_EVT, 0, 8, 0, 16),
  (Reg.SEC_EVT, 0, 8, 0, 24), (Reg.CADENCE_EVT, 0, 5, 1, 0), (Reg.TIME_EVT, 0, 10, 1, 16),
  (Reg.TILE_EVT 0, 0, 8, 2, 0), (Reg.TILE_RELIEF_EVT 0, 0, 3, 2, 8), (Reg.WAKE_STATUS 0, 10, 2, 2, 11),
  (Reg.TILE_EVT 1, 0, 8, 2, 16), (Reg.TILE_RELIEF_EVT 1, 0, 3, 2, 24),
  (Reg.TILE_EVT 2, 0, 8, 3, 0), (Reg.TILE_RELIEF_EVT 2, 0, 3, 3, 8), (Reg.WAKE_STATUS 2, 10, 2, 3, 11),
  (Reg.TILE_EVT 3, 0, 8, 3, 16), (Reg.TILE_RELIEF_EVT 3, 0, 3, 3, 24),
  (Reg.BEAM_EVT, 0, 11, 4, 0), (Reg.DPD_EVT, 0, 8, 4, 16), (Reg.CAL_EVT, 0, 10, 5, 0), (Reg.CHISEL_EVT, 0, 8, 5, 16),
  (Reg.SKX_PHY_EVT, 0, 9, 6, 0), (Reg.SKX_CELL_EVT, 0, 8, 6, 16), (Reg.BIAS_EVT, 0, 8, 7, 0), (Reg.SUMP_EVT, 0, 8, 7, 16)]

/-- The place of an event bit in its group: group and bit. -/
def eventSource (a bit : Nat) : Option (Nat × Nat) :=
  (eventRows.find? fun (r, lo, n, _, _) => r == a && decide (lo ≤ bit ∧ bit < lo + n)).map
    fun (_, lo, _, g, at_) => (g, at_ + (bit - lo))

/-- EVENT_STATg: the event bits of group `g` as their own registers hold them (R432). -/
def Dev.eventStat (d : Dev) (g : Nat) : Word :=
  eventRows.foldl (fun w (r, lo, n, g', at_) =>
    if g' = g then w.put (at_ + n - 1) at_ (d.fget r (lo + n - 1) lo) else w) 0

/-- Whole nanoseconds of local time. -/
def Dev.nowNs (d : Dev) : Nat := d.time.now / 4294967296

/-- Hardware sets an event bit. A rise of a source that event messages are enabled for joins the rises that the next message
of its group reports (R294). -/
def Dev.raise (d : Dev) (a bit : Nat) : Dev :=
  let d := d.noteSet a (BitVec.twoPow 32 bit)
  if (d.rd a).bit bit then d
  else
    let d := d.wr a (d.rd a ||| BitVec.twoPow 32 bit)
    match eventSource a bit with
    | some (g, b) =>
      if (d.rd (Reg.SKX_CELL_EVTEN g)).bit b then
        { d with rises := if d.rises.any (fun r => r.group == g && r.bit == b) then
            d.rises.map fun r => if r.group = g ∧ r.bit = b then { r with fresh := true } else r
          else d.rises ++ [⟨g, b, d.nowNs, true⟩] }
      else d
    | none => d

/-! ### Memory (R369 to R371)

Bus addresses below 2^32 are the three memory windows. Above them lie the stores that software reaches only through
other registers, commands or the cores: DPD pages, core memories, MRAM (DESIGN CHOICE, log entry 7). -/

/-- The first of five pages of 1,408 words of each path (R163) (DESIGN CHOICE, log entry 7). -/
def dpdAddr (p page i : Nat) : Nat := 0x100000000 + ((p * 5 + page) * 1408 + i) * 4

/-- The byte at a core address of the local RAMs of core `c` (Table 8.2) (DESIGN CHOICE, log entry 7). -/
def coreAddr (c off : Nat) : Nat := 0x110000000 + c * 0x100000 + off

/-- A byte of an MRAM snapshot slot of 64 KiB (R318) (DESIGN CHOICE, log entry 7). -/
def slotAddr (slot off : Nat) : Nat := 0x120000000 + slot * 0x10000 + off

/-- A byte of the fault log in MRAM (R425) (DESIGN CHOICE, log entry 7). -/
def logAddr (off : Nat) : Nat := 0x120100000 + off

/-- What a byte that nothing has written reads as: the identity of every DPD page, LUT 2 of value 1.0 in every bin (R159),
and 0 elsewhere (DESIGN CHOICE, log entry 8). -/
def memDefault (a : Nat) : Byte :=
  if 0x100000000 ≤ a ∧ a < dpdAddr 64 0 0 then
    let i := (a - 0x100000000) / 4 % 1408
    if i / 32 = 2 ∧ a % 4 = 3 then 0x20 else 0
  else 0

/-- The byte a memory lists at an address. -/
def cellGet : List Host.Cell → Nat → Option Byte
  | [], _ => none
  | (b, v) :: m, a => if b = a then some v else cellGet m a

/-- A memory without an entry at an address. -/
def cellDel : List Host.Cell → Nat → List Host.Cell
  | [], _ => []
  | (b, v) :: m, a => if b = a then cellDel m a else (b, v) :: cellDel m a

/-- A memory with an entry at an address, addresses rising. -/
def cellSet : List Host.Cell → Nat → Byte → List Host.Cell
  | [], a, x => [(a, x)]
  | (b, v) :: m, a, x => if a < b then (a, x) :: (b, v) :: m else if a = b then (a, x) :: m else (b, v) :: cellSet m a x

/-- A memory's contents: its list of bytes. -/
abbrev Mem := List Host.Cell

/-- The byte at an address (DESIGN CHOICE, log entry 8). -/
def Mem.get (m : Mem) (a : Nat) : Byte := (cellGet m a).getD (memDefault a)

/-- A memory with the byte at an address replaced, in canonical form. -/
def Mem.set (m : Mem) (a : Nat) (x : Byte) : Mem := if x = memDefault a then cellDel m a else cellSet m a x

/-- The canonical form: addresses strictly rising, and no entry equal to what an unlisted address reads as. -/
def Memory.wfFrom : Nat → Mem → Bool
  | _, [] => true
  | lo, (a, x) :: m => decide (lo ≤ a) && decide (x ≠ memDefault a) && Memory.wfFrom (a + 1) m

/-- The canonical form of a memory. -/
def Memory.wf (m : Mem) : Bool := Memory.wfFrom 0 m

/-- The little-endian word at an address (R370). -/
def Mem.word (m : Mem) (a : Nat) : Word := Mem.get m (a + 3) ++ Mem.get m (a + 2) ++ Mem.get m (a + 1) ++ Mem.get m a

/-- A memory with the word at an address replaced (R370). -/
def Mem.setWord (m : Mem) (a : Nat) (w : Word) : Mem :=
  Mem.set (Mem.set (Mem.set (Mem.set m a (w.extractLsb' 0 8)) (a + 1) (w.extractLsb' 8 8)) (a + 2) (w.extractLsb' 16 8))
    (a + 3) (w.extractLsb' 24 8)

/-- A memory with consecutive words replaced from an address upwards. -/
def Mem.setWords : Mem → Nat → List Word → Mem
  | m, _, [] => m
  | m, a, w :: ws => Mem.setWords (Mem.setWord m a w) (a + 4) ws

/-- `n` consecutive words from an address upwards. -/
def Mem.words (m : Mem) (a : Nat) : Nat → List Word
  | 0 => []
  | n + 1 => Mem.word m a :: Mem.words m (a + 4) n

/-- `n` consecutive bytes from an address upwards. -/
def Mem.bytes (m : Mem) (a : Nat) : Nat → List Byte
  | 0 => []
  | n + 1 => Mem.get m a :: Mem.bytes m (a + 1) n

/-- A memory with consecutive bytes replaced from an address upwards. -/
def Mem.setBytes : Mem → Nat → List Byte → Mem
  | m, _, [] => m
  | m, a, x :: xs => Mem.setBytes (Mem.set m a x) (a + 1) xs

/-- A memory without what it lists in a range: a domain that loses its contents (R448). -/
def Mem.clear (m : Mem) (lo hi : Nat) : Mem := m.filter fun c => decide (c.1 < lo ∨ hi ≤ c.1)

/-- The bytes of a word in memory order (R370). -/
def leBytes (w : Word) : List Byte := [w.extractLsb' 0 8, w.extractLsb' 8 8, w.extractLsb' 16 8, w.extractLsb' 24 8]

/-- The bytes of a word, most significant first, as the link and the SPI send it (R370). -/
def beBytes (w : Word) : List Byte := [w.extractLsb' 24 8, w.extractLsb' 16 8, w.extractLsb' 8 8, w.extractLsb' 0 8]

/-- Words from bytes sent most significant first; an unfinished last word is dropped. -/
def beWords : List Byte → List Word
  | a :: b :: c :: e :: rest => (a ++ b ++ c ++ e) :: beWords rest
  | _ => []

/-! ### Units -/

/-- `d` with a tile changed. -/
def Dev.modTile (d : Dev) (t : Fin 4) (f : Tile → Tile) : Dev := { d with tiles := d.tiles.set t (f d.tiles[t]) }

/-- `d` with a path changed. -/
def Dev.modPath (d : Dev) (p : Fin 64) (f : PathSt → PathSt) : Dev := { d with paths := d.paths.set p (f d.paths[p]) }

/-- `d` with the relief state of a tile changed. -/
def Dev.modRelief (d : Dev) (t : Fin 4) (f : ReliefTile → ReliefTile) : Dev := { d with relief := d.relief.set t (f d.relief[t]) }

/-- `d` with a Sump source changed. -/
def Dev.modSrc (d : Dev) (n : Fin 256) (f : Source → Source) : Dev :=
  { d with sump := { d.sump with src := d.sump.src.set n (f d.sump.src[n]) } }

/-- The tile of a path (R4). -/
def tileOf (p : Fin 64) : Fin 4 := ⟨p.val / 16, by omega⟩

/-- Local path `k` of tile `t` (R4). -/
def pathOf (t : Fin 4) (k : Fin 16) : Fin 64 := ⟨16 * t.val + k.val, by omega⟩

/-- The paths of a tile. -/
def pathsOf (t : Fin 4) : List (Fin 64) := (List.finRange 16).map (pathOf t)

/-- A path from a number. -/
def toPath (n : Nat) : Fin 64 := ⟨n % 64, by omega⟩

/-- A tile from a number. -/
def toTile (n : Nat) : Fin 4 := ⟨n % 4, by omega⟩

/-- One of the two synthesizers of a tile, true for B. -/
def Tile.syn (t : Tile) (b : Bool) : Syn := if b then t.synB else t.synA

/-- A tile with one synthesizer changed. -/
def Tile.modSyn (t : Tile) (b : Bool) (f : Syn → Syn) : Tile :=
  if b then { t with synB := f t.synB } else { t with synA := f t.synA }

/-- The local relief pair of a kind. -/
def ReliefTile.pair (r : ReliefTile) (dac : Bool) : Relief := if dac then r.dac else r.adc

/-- The relief state with one pair changed. -/
def ReliefTile.modPair (r : ReliefTile) (dac : Bool) (f : Relief → Relief) : ReliefTile :=
  if dac then { r with dac := f r.dac } else { r with adc := f r.adc }

/-! ### Meanings -/

/-- What a meaning answers. -/
abbrev Out := Host.Outcome State Fault Refusal

/-- A meaning that changes the device only. -/
def onDev (s : State) (f : Dev → Dev) : Out := .next { s with dev := f s.dev }

/-- A meaning that changes the device and its memories. -/
def onMem (s : State) (f : Dev → Mem → Dev × Mem) : Out :=
  .next { s with dev := (f s.dev s.mem).1, mem := (f s.dev s.mem).2 }

/-! ### Arrivals and timeouts (R12) -/

/-- Whether a command may let time pass (DESIGN CHOICE, log entry 83). -/
def passesTime : Instr → Bool
  | .tick => true
  | .cutoff => true
  | .seamMidpoint => true
  | .ticksStart => true
  | .stepApply => true
  | .stepForceTimeout => true
  | .timedCommandDue => true
  | .schedTileLevel _ => true
  | .schedCapture _ => true
  | .schedCommand _ => true
  | .schedPps _ => true
  | .schedKernel _ => true
  | .schedNoAction _ => true
  | .autoRestart => true
  | _ => false

/-- The commands that wait and come in the present timebase cycle: those before one that may let time pass, and that one, which comes now
and acts later (DESIGN CHOICE, log entry 83). -/
def State.thisCycle (s : State) : List Instr :=
  (s.pending.takeWhile fun c => !passesTime c) ++ (s.pending.dropWhile fun c => !passesTime c).take 1

/-- A timeout in whose own cycle the awaited arrival comes has not expired (R12, DESIGN CHOICE, log entry 83). -/
def unlessNow (s : State) (awaited : Instr → Bool) (expires : Out) : Out := if s.thisCycle.any awaited then .next s else expires

/-! ### Clocks -/

/-- 2^32: the scale of a fraction of a nanosecond in local time (R324). -/
def fracScale : Nat := 4294967296

/-- Local time in 2^-32 ns of a number of samples at 491.52 Msps: 3125/1536 ns each. -/
def sampTime (n : Nat) : Nat := n * 3125 * 8388608 / 3

/-- Samples at 491.52 Msps in a span of local time, rounded up. -/
def timeSampUp (t : Nat) : Nat := (t * 3 + 3125 * 8388608 - 1) / (3125 * 8388608)

/-- `n` timebase cycles pass (R324). -/
def Dev.passCycles (d : Dev) (n : Nat) : Dev :=
  { d with
    time := { d.time with
      cycle := d.time.cycle + n
      now := if d.time.adv then (d.time.now + n * d.time.inc) % 2 ^ 96 else d.time.now }
    cad := { d.cad with since := d.cad.since + n } }

/-- Timebase cycles of a number of nanoseconds, rounded up (491.52 MHz). -/
def nsCycles (ns : Nat) : Nat := (ns * 1536 + 3124) / 3125

/-! ### Free values (log entry 2) -/

/-- `d` after one free value has been drawn (DESIGN CHOICE, log entry 2). -/
def Dev.drew (d : Dev) : Dev := { d with freeCtr := d.freeCtr + 1 }

/-- `n` fresh words, and `d` after they have been drawn (DESIGN CHOICE, log entry 2). -/
def Dev.draw (d : Dev) (n : Nat) : List Word × Dev :=
  ((List.range n).map fun i => Config.freeWord (d.freeCtr + i), { d with freeCtr := d.freeCtr + n })

/-! ### Commands that end (R310) -/

/-- The command with an identity, where there is one, has ended with a status and results: its final reply follows. -/
def Dev.endCmd (d : Dev) (id : Option Nat) (status : Nat) (results : List Word) : Dev :=
  match id with
  | none => d
  | some i => { d with drunas := { d.drunas with cmds := d.drunas.cmds.map fun c =>
      if c.id = i ∧ c.verdict.isNone then { c with verdict := some status, results := results } else c } }

/-- `d` with the command processor's state changed. -/
def Dev.modDrunas (d : Dev) (f : Drunas → Drunas) : Dev := { d with drunas := f d.drunas }

/-- `d` with one open command changed. -/
def Dev.modCmd (d : Dev) (id : Nat) (f : Cmd → Cmd) : Dev :=
  d.modDrunas fun x => { x with cmds := x.cmds.map fun (c : Cmd) => if c.id = id then f c else c }

/-! ### CRC-32C -/

/-- One bit of a reflected CRC-32C. -/
def crcBit (c : Word) : Word := if c.bit 0 then (c >>> 1) ^^^ 0x82F63B78#32 else c >>> 1

/-- One byte of a CRC-32C. -/
def crcByte (c : Word) (b : Byte) : Word :=
  crcBit (crcBit (crcBit (crcBit (crcBit (crcBit (crcBit (crcBit (c ^^^ b.setWidth 32))))))))

/-- The CRC-32C (Castagnoli) of a list of bytes. -/
def crc32c (bs : List Byte) : Word := bs.foldl crcByte 0xFFFFFFFF#32 ^^^ 0xFFFFFFFF#32

/-! ### Committing changes (R40 to R43) -/

/-- The R43 rank of an initiator. -/
def initRank : Initiator → Nat
  | .cpu => 1 | .derrick => 2 | .link => 3 | .spi => 4 | .debug => 5

/-- The number of the first tick whose cutoff a commit made now meets (R40). -/
def Dev.nextLanding (d : Dev) : Nat := d.cad.tickIdx + 1 + b2n d.cad.frozen

/-- Who commits a change: its R43 rank, and the command it belongs to. -/
structure Committer where
  rank : Nat
  cmd : Option Nat
  deriving DecidableEq, Repr

/-- A commit by an initiator's register write. -/
def byInit (i : Initiator) : Committer := ⟨initRank i, none⟩

/-- A commit by the firmware. -/
def byFirmware : Committer := ⟨1, none⟩

/-- Commits a change that lands at tick `land` (R40). -/
def Dev.commitAt (d : Dev) (c : Committer) (key : Setting) (words : List (Nat × Word × Word)) (land arg : Nat) : Dev :=
  { d with cad := { d.cad with changes := d.cad.changes ++
      [{ key := key, words := words, land := land, atFrame := false, stamp := d.time.cycle, rank := c.rank, cmd := c.cmd,
         arg := arg, latch := none }] } }

/-- Commits a change that lands at the first tick whose cutoff it meets. -/
def Dev.commit (d : Dev) (c : Committer) (key : Setting) (words : List (Nat × Word × Word)) (arg : Nat) : Dev :=
  d.commitAt c key words d.nextLanding arg

/-- Commits a change that waits for a frame boundary whose cutoff it meets (R56, R195). -/
def Dev.commitFrame (d : Dev) (c : Committer) (key : Setting) (words : List (Nat × Word × Word)) : Dev :=
  { d with cad := { d.cad with changes := d.cad.changes ++
      [{ key := key, words := words, land := d.nextLanding, atFrame := true, stamp := d.time.cycle, rank := c.rank,
         cmd := c.cmd, arg := 0, latch := none }] } }

/-- Commits the tick-bound bits of one register word. -/
def Dev.commitWord (d : Dev) (c : Committer) (a : Nat) (w : Word) : Dev :=
  d.commit c (.word a) [(a, w, tickMask a)] 0

/-- Software replaces a register's word, unless a later initiator of R43 has written it in this cycle. -/
def Dev.swr (d : Dev) (c : Committer) (a : Nat) (w : Word) : Dev :=
  (if d.overtaken a c.rank then d else d.wr a w).noteWrite a c.rank

end Sys2Proof.Machine
end

