-- ==== Sys2Proof/Machine/Sump.lean ====
section
/-!
DEFINITION. The Sump's own operations (chapter 15): units and dependents of the sources, reports, severity, FAULT_N, the
fault log. Every unit of the block that reports a fault calls `Dev.report`.
-/

namespace Sys2Proof.Machine

/-- A source from a number. -/
def toSrc (n : Nat) : Fin 256 := ⟨n % 256, by omega⟩

/-- The unit a source reports for, as kind and index of Table 11.6 (Table 15.1); none for a source whose severity
retires no single unit. -/
def unitOfSource (n : Nat) : Option (Nat × Nat) :=
  if n < 64 then some (1, n)
  else if n < 128 then some (2, n - 64)
  else if n < 136 then some (5, n - 128)
  else if n < 152 then some (6, n - 136)
  else if n < 156 then some (7, n - 152)
  else if n < 160 then some (3, n - 156)
  else if n < 164 then some (4, n - 160)
  else if n < 172 then some (8, n - 164)
  else if n < 181 then some (9, n - 172)
  else if n < 197 then some (10, n - 181)
  else none

/-- The sources of a unit of Table 11.6 (R417): a path has two. -/
def sourcesOfUnit (kind i : Nat) : List (Fin 256) :=
  match kind with
  | 0 => [toSrc i, toSrc (64 + i)]
  | 1 => [toSrc i]
  | 2 => [toSrc (64 + i)]
  | 3 => [toSrc (156 + i)]
  | 4 => [toSrc (160 + i)]
  | 5 => [toSrc (128 + i)]
  | 6 => [toSrc (136 + i)]
  | 7 => [toSrc (152 + i)]
  | 8 => [toSrc (164 + i)]
  | 9 => [toSrc (172 + i)]
  | 10 => [toSrc (181 + i)]
  | _ => []

/-- The numbers from `lo` to `hi`. -/
def span (lo hi : Nat) : List Nat := (List.range (hi + 1 - lo)).map (lo + ·)

/-- The dependents of a source (Table 15.1). A standby synthesizer holds none (R420). -/
def dependents (d : Dev) (n : Nat) : List Nat :=
  if 128 ≤ n ∧ n < 136 then
    let t := (n - 128) / 2
    if d.tiles[toTile t].act = decide (n % 2 = 1) then
      span (16 * t) (16 * t + 15) ++ span (64 + 16 * t) (64 + 16 * t + 15) ++ span (136 + 4 * t) (136 + 4 * t + 3)
    else []
  else if 136 ≤ n ∧ n < 152 then span (64 + 4 * (n - 136)) (64 + 4 * (n - 136) + 3)
  else if 152 ≤ n ∧ n < 156 then
    let t := n - 152
    span (16 * t) (16 * t + 15) ++ span (64 + 16 * t) (64 + 16 * t + 15) ++ [128 + 2 * t, 129 + 2 * t] ++
      span (136 + 4 * t) (136 + 4 * t + 3) ++ [156 + t, 160 + t]
  else if n = 215 then span 64 127 ++ span 197 208
  else if n = 216 then span 64 127 ++ span 197 208 ++ [215]
  else if n = 217 then span 0 127 ++ span 197 208
  else if n = 218 then span 128 171 ++ [215, 226]
  else if n = 220 then span 181 196
  else if n = 227 then span 164 171
  else []

/-- The threshold N of a source (R412). -/
def Dev.srcN (d : Dev) (n : Nat) : Nat := max 1 (d.fget (Reg.SUMP_SRC_CFG n) 7 0)

/-- The window W of a source, in nanoseconds, clamped to 1 µs to 60 s (R412). -/
def Dev.srcW (d : Dev) (n : Nat) : Nat :=
  let c := d.rd (Reg.SUMP_SRC_CFG n)
  let u := match c.get 21 20 with | 0 => 1000 | 1 => 1000000 | _ => 100000000
  min 60000000000 (max 1000 (max 1 (c.get 19 8) * u))

/-- Whether an event at cycle `t` lies no more than W before cycle `now` (R411, R413). -/
def inWindow (now t w : Nat) : Bool := decide ((now - t) * 3125 ≤ w * 1536)

/-- How many recorded events of a source lie inside W: its COUNT. -/
def Dev.srcCount (d : Dev) (n : Fin 256) : Nat :=
  (d.sump.src[n].times.filter fun t => inWindow d.time.cycle t (d.srcW n.val)).length

/-- Whether another device holds FAULT_N low: 2.0 µs from its fall, the length of a pulse of R422 (PRESUMED, log entry 12). -/
def Dev.extLow (d : Dev) : Bool :=
  match d.sump.extFall with
  | none => false
  | some c => decide (d.time.cycle < c + 984)

/-- The level of FAULT_N (R422, R423). -/
def Dev.faultnHigh (d : Dev) : Bool := !(d.sump.pulse || (d.rd Reg.SUMP_FAULTN).bit 31 || d.extLow)

/-- A cause of R422: pulses FAULT_N and latches SUMP_FIRST (R424). Causes: 0 severity, 1 wire fault, 2 CRIT. -/
def Dev.pulseFault (d : Dev) (cause n : Nat) : Dev :=
  let prior := d.extLow
  let d := { d with sump := { d.sump with pulse := true } }
  if (d.rd Reg.SUMP_FIRST_INFO).bit 31 then d
  else
    let info := ((((0 : Word).put 31 31 1).put 30 30 (b2n prior)).put 29 28 cause).put 7 0 n
    ((((d.wr Reg.SUMP_FIRST_INFO info).noteSet Reg.SUMP_FIRST_INFO 0x80000000#32).wr Reg.SUMP_FIRST_LO (BitVec.ofNat 32 d.nowNs)).wr Reg.SUMP_FIRST_HI
      (BitVec.ofNat 32 (d.nowNs / 2 ^ 32))).wr Reg.SUMP_FIRST_EPOCH (d.rd Reg.TIME_EPOCH)

/-- Queues a fault-log record; a full queue discards and counts it (R426). -/
def Dev.log (d : Dev) (type n kind i count : Nat) (temp : Int) : Dev :=
  if d.sump.logQueue.length < 16 then
    { d with sump := { d.sump with logQueue := d.sump.logQueue ++
        [{ time := d.nowNs, epoch := d.rd Reg.TIME_EPOCH, type := type, source := n, kind := kind, index := i,
           count := count, temp := temp, fw := d.sec.fw }] } }
  else (d.count32 Reg.SUMP_LOG_DROP).raise Reg.SUMP_EVT 7

/-- The paths that an output of bias group `g` follows with FOLLOW 1 to 3 (Table 15.2). -/
def Dev.groupPaths (d : Dev) (g : Nat) : List Nat :=
  ((span (8 * g) (8 * g + 7)).filter fun n => decide (1 ≤ (d.inf (Reg.BIAS_OUT_CFG n)).get 29 28)).map
    fun n => (d.inf (Reg.BIAS_OUT_CFG n)).get 21 16

/-- The bit of a lane in a lane set. -/
def laneBit (k : Nat) : Nat := 2 ^ k

/-- Whether a lane is in service and not about to leave it. -/
def Dev.inService (d : Dev) (j : Nat) : Bool :=
  match d.lanes.toList[j]? with
  | some l => l.st == .active && l.leaveTo.isNone
  | none => false

/-- Whether lane `k` is the last awake lane of a direction, counting retirements already committed (R416). -/
def Dev.lastLane (d : Dev) (k : Nat) : Bool :=
  let gone := (d.cad.changes.filter fun c => match c.key with | .unit 8 _ => c.arg != 1 | _ => false).map
    fun c => match c.key with | .unit _ i => i | _ => 8
  let left := fun (set : Nat) => (List.range 8).filter fun j => set.testBit j && j != k && !gone.contains j && d.inService j
  (d.link.txSet.testBit k && (left d.link.txSet).isEmpty) || (d.link.rxSet.testBit k && (left d.link.rxSet).isEmpty)

/-- Whether core `c` is the last Chisel core in service (R416). -/
def Dev.lastCore (d : Dev) (c : Nat) : Bool :=
  let gone := (d.cad.changes.filter fun x => match x.key with | .unit 10 _ => x.arg != 1 | _ => false).map
    fun x => match x.key with | .unit _ i => i | _ => 16
  (((List.finRange 16).filter fun j => !d.chisel.cores[j].retired && j.val != c && !gone.contains j.val).isEmpty)

/-- Commits the retirement of a unit as a stepped setting, as a remedy (R414). -/
def Dev.commitRetire (d : Dev) (c : Committer) (kind i : Nat) : Dev := d.commit c (.unit kind i) [] 0

/-- Commits the retirement of a unit that a command names (R417). -/
def Dev.commandRetire (d : Dev) (c : Committer) (kind i : Nat) : Dev := d.commit c (.unit kind i) [] 2

/-- Commits the restoration of a unit (R417). -/
def Dev.commitRestore (d : Dev) (c : Committer) (kind i : Nat) : Dev := d.commit c (.unit kind i) [] 1

/-- The remedy of a severity (Table 15.2): what is retired, as kind and index for the log, and the device with it
committed. -/
def Dev.remedy (d : Dev) (n : Fin 256) : Dev × Nat × Nat :=
  match unitOfSource n.val with
  | some (kind, i) =>
    if d.sump.src[n].retired && kind != 1 && kind != 2 then (d, 255, 0)
    else if (kind == 8 && d.lastLane i) || (kind == 10 && d.lastCore i) then
      (d.modSrc n fun s => { s with limit := true }, 255, 0)
    else if kind == 1 || kind == 2 then
      if d.sump.src[n].escalated then (d.commitRetire byFirmware 0 i, 0, i)
      else ((d.commitRetire byFirmware kind i).modSrc n fun s => { s with escalated := true }, kind, i)
    else (d.commitRetire byFirmware kind i, kind, i)
  | none =>
    if 197 ≤ n.val ∧ n.val < 209 then
      ((d.groupPaths (n.val - 197)).foldl (fun d p => d.commitRetire byFirmware 0 p) d, 255, 0)
    else (d, 255, 0)

/-- A source becomes severe (R414), by its events (`wire` false) or by a wire fault (R408). -/
def Dev.severe (d : Dev) (n : Fin 256) (wire : Bool) : Dev :=
  let cnt := d.srcCount n
  let d := (d.modSrc n fun s => { s with severe := true }).raise Reg.SUMP_EVT 0
  let d := d.pulseFault (b2n wire) n.val
  let (d, kind, i) := d.remedy n
  let d := d.log (if wire then 2 else 1) n.val kind i cnt 0
  d.modSrc n fun s => { s with times := [] }

/-- Holds the dependents of a source quiet (R418). -/
def Dev.holdDependents (d : Dev) (n : Nat) : Dev :=
  (dependents d n).foldl (fun d m => d.modSrc (toSrc m) fun s => { s with held := true }) d

/-- A source reports one event (R411, R417 to R420). -/
def Dev.report (d : Dev) (n : Fin 256) : Dev :=
  let s := d.sump.src[n]
  if s.wireIgnored then d
  else
    let d := d.count (Reg.SUMP_SRC_STATUS n.val) 15 0
    if s.retired then d
    else
      let d := d.holdDependents n.val
      if s.held then d.count32 Reg.SUMP_MASKED
      else
        let d := d.modSrc n fun s => { s with times := (d.time.cycle :: s.times).take 255 }
        match d.sump.src[n].times[d.srcN n.val - 1]? with
        | some t => if inWindow d.time.cycle t (d.srcW n.val) then d.severe n false else d
        | none => d

end Sys2Proof.Machine
end

