-- ==== Sys2Proof/Machine/Fabric.lean ====
section
/-!
DEFINITION. The register fabric's error side: the codes of Table 14.3 and what every bus error latches and counts (R379 to
R381), and which blocks answer (R447, R526).
-/

namespace Sys2Proof.Machine

/-- The codes of Table 14.3. -/
inductive BusCode where
  | check | overrun | align | width | decode | security | domainOff | refused | ecc | timeout
  deriving DecidableEq, Repr

/-- The number of a code. -/
def BusCode.num : BusCode → Nat
  | .check => 9 | .overrun => 10 | .align => 1 | .width => 2 | .decode => 3 | .security => 4 | .domainOff => 5
  | .refused => 6 | .ecc => 7 | .timeout => 8

/-- An initiator's number in SYS_BUS_ERR_INFO.INIT. -/
def initNum : Initiator → Nat
  | .cpu => 0 | .derrick => 1 | .link => 2 | .spi => 3 | .debug => 4

/-- The number of an access width in SYS_BUS_ERR_INFO.WIDTH. -/
def widthNum (w : Nat) : Nat := if w = 8 then 0 else if w = 16 then 1 else 2

/-- A bus error: counted, and latched when no earlier one is (R380, R381). -/
def Dev.busError (d : Dev) (i : Initiator) (write : Bool) (width addr : Nat) (c : BusCode) : Dev :=
  let d := d.count32 Reg.SYS_BUS_ERR_CNT
  let d := if c = .domainOff then d.count32 Reg.SYS_DOMAIN_OFF else d
  if (d.rd Reg.SYS_BUS_ERR_INFO).bit 31 then d
  else
    let info := (((((0 : Word).put 31 31 1).put 30 28 (initNum i)).put 27 27 (b2n write)).put 26 24 (widthNum width)).put
      19 16 c.num
    ((d.wr Reg.SYS_BUS_ERR_INFO info).noteSet Reg.SYS_BUS_ERR_INFO 0x80000000#32).wr Reg.SYS_BUS_ERR_ADDR (BitVec.ofNat 32 addr)

/-- The blocks and windows of Table 14.1, by the domain that holds them (Table 16.3). -/
inductive Domain where
  | aon | ctrl | skx | dsp | chisel | tile (t : Fin 4)
  deriving DecidableEq, Repr

/-- The domain of an address (Table 16.3). -/
def domainOf (a : Nat) : Domain :=
  if a < 0x100000 then
    match a / 0x10000 with
    | 0x2 => if a = Reg.TIME_JOIN then .aon else .ctrl
    | 0x4 => if 0x40100 ≤ a ∧ a < 0x40200 then .aon else .ctrl
    | 0x8 => .skx
    | 0x9 => .skx
    | 0xA => .dsp
    | 0xB => .dsp
    | 0xD => .chisel
    | _ => .ctrl
  else if a < 0x140000 then
    let o := a % 0x10000
    if o = 0x200 ∨ o = 0x204 then .aon
    else if (0x400 ≤ o ∧ o < 0x1000) ∨ (0x2000 ≤ o ∧ o < 0x4000) then .dsp
    else .tile (toTile ((a - 0x100000) / 0x10000))
  else if a < 0x1000000 then .ctrl
  else if a < 0x2400000 then .dsp
  else if a < 0x3400000 then .chisel
  else .ctrl

/-- The state of a domain. -/
def Dev.domState (d : Dev) : Domain → DomState
  | .aon => .on
  | .ctrl => d.power.ctrl
  | .skx => d.power.skx
  | .dsp => d.power.dsp
  | .chisel => d.power.chisel
  | .tile t => d.power.tile[t]

/-- Whether the block at an address answers: its domain is ON, and until a start has ended phase 6, or while the device
holds in the boot ROM, only SYS and SEC answer (R447, R526). -/
def Dev.answers (d : Dev) (a : Nat) : Bool :=
  let early := d.power.hold || (d.power.phase != 0 && decide (d.power.phase ≤ 6))
  let sysSec := decide (a < 0x10000 ∨ (0x50000 ≤ a ∧ a < 0x60000))
  if early then sysSec && d.power.fabric
  else d.power.fabric && d.domState (domainOf a) == .on

end Sys2Proof.Machine
end

