-- ==== Sys2Proof/Machine/Clock.lean ====
section
/-!
DEFINITION. Numerology, symbol and seam lengths, tick times and symbol addresses (R31 to R46), and the settling of receive
chains (R101, R102).
-/

namespace Sys2Proof.Machine

/-- The numerology in force. -/
def Dev.mu (d : Dev) : Nat := (d.inf Reg.CADENCE_CFG).get 1 0

/-- The longest permitted seam (Table 2.1). -/
def seamMax : Nat → Nat
  | 0 => 512 | 1 => 512 | 2 => 288 | _ => 144

/-- The seam length L in force, in samples (R46; code 0 acts as 1, a clip acts as the limit). -/
def Dev.seamL (d : Dev) : Nat := min (seamMax d.mu) (16 * max 1 ((d.inf Reg.CADENCE_CFG).get 13 8))

/-- SEAM_CLIPPED: the effective seam is below the value asked for. -/
def Dev.seamClipped (d : Dev) : Bool := decide (seamMax d.mu < 16 * max 1 ((d.inf Reg.CADENCE_CFG).get 13 8))

/-- LEAD as written in force. -/
def Dev.leadCode (d : Dev) : Nat := (d.inf Reg.CADENCE_CFG).get 22 16

/-- LEAD_CLIPPED: the lead lies outside 1.0 to 8.0 µs. -/
def Dev.leadClipped (d : Dev) : Bool := decide (d.leadCode < 8 ∨ 64 < d.leadCode)

/-- The commit lead in nanoseconds, clamped to 1.0 to 8.0 µs. -/
def Dev.leadNs (d : Dev) : Nat := 125 * min 64 (max 8 d.leadCode)

/-- A normal symbol in samples (Table 2.1). -/
def normalSym (mu : Nat) : Nat := 35072 / 2 ^ mu

/-- A long-CP symbol in samples. -/
def longSym (mu : Nat) : Nat := normalSym mu + 256

/-- Whether the symbol that begins at a nominal time is a long-CP symbol (R31, R33). -/
def isLong (nom : Nat) : Bool := nom % 245760 == 0

/-- The length of the symbol that begins at a nominal time. -/
def symLen (mu nom : Nat) : Nat := if isLong nom then longSym mu else normalSym mu

/-- The cyclic prefix of the symbol that begins at a nominal time. -/
def cpLen (mu nom : Nat) : Nat := 2304 / 2 ^ mu + (if isLong nom then 256 else 0)

/-- The number, from local time 0, of the first symbol that begins at or after a time in samples (R31, Table 2.1)
(DEDUCED, log entry 34). -/
def symIndex (mu t : Nat) : Nat :=
  let r := t % 245760
  t / 245760 * (7 * 2 ^ mu) +
    (if r = 0 then 0 else if r ≤ longSym mu then 1 else 1 + (r - longSym mu + normalSym mu - 1) / normalSym mu)

/-- The nominal time, in samples, at which symbol `n` begins. -/
def symStart (mu n : Nat) : Nat :=
  let k := n % (7 * 2 ^ mu)
  n / (7 * 2 ^ mu) * 245760 + (if k = 0 then 0 else longSym mu + (k - 1) * normalSym mu)

/-- Samples in a 10 ms frame. -/
def frameSamples : Nat := 4915200

/-- CADENCE_SYMADDR of the tick at a nominal time (R34). -/
def symAddr (mu nom : Nat) : Word :=
  (((((0 : Word).put 25 16 (nom / frameSamples % 1024)).put 15 12 (nom % frameSamples / 491520)).put 11 8
    (nom % 491520 / (491520 / 2 ^ mu))).put 4 4 (b2n (isLong nom))).put 3 0 (symIndex mu nom % 14)

/-- Whether RUN is in effect (R57): ticks run, or are to start at a frame boundary. What is committed waits for a tick. -/
def Dev.ticking (d : Dev) : Bool := d.cad.running || d.cad.startAt.isSome

/-- Nominal time of the next tick, in samples: the first nominal time after a step gap, the frame boundary at which ticks start, or
the end of the current symbol. -/
def Dev.nextNom (d : Dev) : Nat :=
  match d.cad.gapTo, d.cad.running, d.cad.startAt with
  | some n, _, _ => n
  | none, false, some f => f
  | none, _, _ => d.cad.nom + symLen d.mu d.cad.nom

/-- Timebase cycles still to pass before the edge of the next tick (DEDUCED, log entry 65). -/
def Dev.toEdge (d : Dev) : Nat :=
  match d.cad.running, d.cad.startAt with
  | false, some f => (sampTime f - d.time.now) / Nat.max 1 d.time.inc
  | _, _ => d.cad.len - d.cad.since

/-- Timebase cycles in which local time advances by the commit lead (R40): a commit that many cycles before the edge of a tick has
the local time of its cutoff. -/
def Dev.leadCycles (d : Dev) : Nat := (d.leadNs * fracScale + Nat.max 1 d.time.inc - 1) / Nat.max 1 d.time.inc

/-- Timebase cycles from now to the last cycle at or before the cutoff of the next tick (R40) (DEDUCED, log entry 65). -/
def Dev.toCutoff (d : Dev) : Nat := d.toEdge - d.leadCycles

/-- The seam length in force at the next tick: that of a change which the cutoff has frozen for it, where there is one (R38, R56). -/
def Dev.nextSeamL (d : Dev) : Nat :=
  let asks := if d.cad.frozen && d.nextNom % 4915200 == 0 then
      d.cad.changes.findSome? fun c => if c.key = .cadenceCfg then c.words.head?.map (·.2.1) else none
    else none
  match asks with
  | some w => min (seamMax (if d.cad.muNext = some none then w.get 1 0 else d.mu)) (16 * max 1 (w.get 13 8))
  | none => d.seamL

/-- The tick budget of the current symbol in timebase cycles: D_n − t_n (R38). -/
def Dev.tickBudget (d : Dev) : Nat := symLen d.mu d.cad.nom - d.nextSeamL

/-- The deadline D_n = t_(n+1) − L for the work of the current symbol, as local time in 2^-32 ns (R38). -/
def Dev.deadline (d : Dev) : Nat := sampTime (d.nextNom - d.nextSeamL)

/-- The cyclic prefix of the current symbol in timebase cycles, which the receive side removes: a whole cycle absorbed at its tick
has made it longer or shorter (R35). -/
def Dev.cpNow (d : Dev) : Nat :=
  if d.cad.gapTo.isSome then cpLen d.mu d.cad.nom else cpLen d.mu d.cad.nom + d.cad.len - symLen d.mu d.cad.nom

/-- Whether `n` cycles may pass before the cadence unit acts: at a seam midpoint, a cutoff, a tick, or the start of ticks
(DESIGN CHOICE, log entry 1). -/
def Dev.canPass (d : Dev) (n : Nat) : Bool :=
  if d.cad.running then
    decide (n ≤ d.toEdge) && (d.cad.midDone || decide (d.cad.since + n ≤ d.seamL / 2)) && (d.cad.frozen || decide (n ≤ d.toCutoff))
  else !d.cad.startAt.isSome || !d.time.adv || (decide (n ≤ d.toEdge) && (d.cad.frozen || decide (n ≤ d.toCutoff)))

/-- Timebase cycles until local time has advanced by a number of ns from its present whole ns; none where it stands still. -/
def Dev.cyclesTo (d : Dev) (ns : Nat) : Option Nat :=
  if ns = 0 then some 0
  else if d.time.adv && d.time.inc != 0 then some ((ns * fracScale - d.time.now % fracScale + d.time.inc - 1) / d.time.inc)
  else none

/-- The signed difference of a time in ns and local time, on the low 48 bits (R314, R340). -/
def Dev.timeDiff (d : Dev) (ns : Nat) : Int := signed 48 ((ns % 2 ^ 48 + 2 ^ 48 - d.nowNs % 2 ^ 48) % 2 ^ 48)

/-- Timebase cycles of the symbol that begins now (R35): its samples, one more or less so that the next tick's edge comes
closer to the last edge at or before its nominal time (DEDUCED, log entry 65). -/
def Dev.symCycles (d : Dev) : Nat :=
  let n := symLen d.mu d.cad.nom
  let ideal := (sampTime d.nextNom - d.time.now) / Nat.max 1 d.time.inc
  if n < ideal then n + 1 else if ideal < n then n - 1 else n

/-- The first tick T with t_T at or after a local time in whole ns, as a tick number, from the ticks in force (R41, R42). -/
def Dev.tickAtNs (d : Dev) (ns : Nat) : Nat :=
  let s := timeSampUp (ns * fracScale)
  d.cad.tickIdx + 1 + (symIndex d.mu s - symIndex d.mu d.nextNom)

/-- The nominal time of a tick number, in samples, from the ticks in force. -/
def Dev.tickNom (d : Dev) (n : Nat) : Nat :=
  if n ≤ d.cad.tickIdx then d.cad.nom else symStart d.mu (symIndex d.mu d.nextNom + (n - (d.cad.tickIdx + 1)))

/-- The nominal time of a tick number in whole ns. -/
def Dev.tickNs (d : Dev) (n : Nat) : Nat := sampTime (d.tickNom n) / fracScale

/-- The first 10 ms frame boundary that local time reaches after now, in samples. -/
def Dev.nextFrame (d : Dev) : Nat := (timeSampUp (d.time.now + 1) + frameSamples - 1) / frameSamples * frameSamples

/-- A write of CADENCE_CFG.RUN (R57). -/
def Dev.writeRun (d : Dev) (run : Bool) : Dev :=
  let d := d.fset Reg.CADENCE_CFG 31 31 (b2n run)
  if run then
    if d.cad.running then { d with cad := { d.cad with runHeld := false, stopDue := false } }
    else { d with cad := { d.cad with startAt := some (d.cad.startAt.getD d.nextFrame), frozen := d.ticking && d.cad.frozen } }
  else if d.cad.running then { d with cad := { d.cad with runHeld := true } }
  else { d with cad := { d.cad with startAt := none, frozen := false } }

/-- A path is in, or on its way to, Receive or Transmit. -/
def PathSt.onAir (p : PathSt) : Bool := p.mode != 0 || p.transit == some 1 || p.transit == some 2

/-- Some path is in Receive or Transmit. -/
def Dev.anyOnAir (d : Dev) : Bool := d.paths.toList.any PathSt.onAir

/-- A path is in Transmit. -/
def PathSt.inTx (p : PathSt) : Bool := p.mode == 2 && p.transit.isNone

/-- A path is in Receive. -/
def PathSt.inRx (p : PathSt) : Bool := p.mode == 1 && p.transit.isNone

/-- Some path is in Transmit, or a transition to or from it is in progress. -/
def Dev.anyTx (d : Dev) : Bool := d.paths.toList.any fun p => p.mode == 2 || p.transit == some 2

/-- Some path is in Receive, or on its way there. -/
def Dev.anyRx (d : Dev) : Bool := d.paths.toList.any fun p => p.mode == 1 || p.transit == some 1

/-- The RX settling length of a carrier rate, in samples at 491.52 Msps (Table 4.3), by BEAM_CARc_CFG.RATE. -/
def settleSamples : Nat → Nat
  | 0 => 432 | 1 => 216 | 2 => 106 | _ => 52

/-- Whether a carrier is enabled. -/
def Dev.carOn (d : Dev) (c : Nat) : Bool := (d.inf (Reg.BEAM_CAR_CFG c)).bit 31

/-- The settling length of the carriers in force: the longest of the enabled ones (R102) (DEDUCED, log entry 90). -/
def Dev.settleLen (d : Dev) : Nat :=
  (List.range 4).foldl (fun n c => if d.carOn c then max n (settleSamples ((d.inf (Reg.BEAM_CAR_CFG c)).get 30 29)) else n) 0

/-- TILE_CH_STATUSk of a global path. -/
def chStatus (p : Fin 64) : Nat := Reg.TILE_CH_STATUS (p.val / 16) (p.val % 16)

/-- The window advance of a carrier: FFT_ADV, at most the normal cyclic prefix less the seam at the carrier rate (R123). -/
def Dev.fftAdvance (d : Dev) (c : Nat) : Nat :=
  let w := d.inf (Reg.BEAM_CAR_CFG c)
  let k := 2 ^ (3 - w.get 30 29)
  min (w.get 11 0) (2304 / 2 ^ d.mu / k - d.seamL / k)

/-- Timebase cycles from the edge of a tick to the first sample that an FFT window takes: the end of the cyclic prefix, less the
longest window advance of the enabled carriers (R103, R123). -/
def Dev.fftOpen (d : Dev) : Nat :=
  d.cpNow - (List.range 4).foldl (fun n c =>
    if d.carOn c then max n (d.fftAdvance c * 2 ^ (3 - (d.inf (Reg.BEAM_CAR_CFG c)).get 30 29)) else n) 0

/-- Whether unsettled samples up to a number of cycles after the tick's edge mark a sample message (R103): any block in antenna mode,
and in beam mode the symbol, once they reach into an FFT window. -/
def Dev.marksUpTo (d : Dev) (n : Nat) : Bool := (d.inf Reg.BEAM_CFG).bit 31 || decide (d.fftOpen < n)

/-- More cycles than any symbol has. -/
def wholeSymbol : Nat := 65536

/-- A span of the current symbol, in timebase cycles from its tick, in which a path's receive samples are unsettled. -/
def Dev.noteMark (d : Dev) (p : Fin 64) (a b : Nat) : Dev :=
  { d with sig := { d.sig with cur := { d.sig.cur with marks := (p.val, a, b) :: d.sig.cur.marks } } }

/-- A path begins now to mark its receive samples unsettled (R101, R102), for the settling length or as long as an earlier marking
lasts. UNSET is set where a path in Receive causes a mark (R103). -/
def Dev.markUnsettled (d : Dev) (p : Fin 64) : Dev :=
  let n := d.settleLen
  let d := if n = 0 then d else d.modPath p fun s => { s with settle := max s.settle (d.cad.since + n) }
  let k := d.paths[p].settle
  let d := if d.paths[p].mode = 1 ∧ d.cad.since < k then d.noteMark p d.cad.since k else d
  if d.paths[p].mode = 1 ∧ d.cad.since < k ∧ d.marksUpTo k then d.raise (chStatus p) 2 else d

/-- A transition out of Receive has lasted until now: its samples are marked (R61, R103). -/
def Dev.markTransition (d : Dev) (p : Fin 64) : Dev :=
  if d.paths[p].mode = 1 ∧ d.marksUpTo d.cad.since then d.raise (chStatus p) 2 else d

/-- At a tick, a path whose marking reaches past the removed cyclic prefix of the new symbol causes a mark there, and one whose change
out of Receive is still in progress has caused one in the symbol that ends (R61, R103). -/
def Dev.markCarried (d : Dev) : Dev :=
  (List.finRange 64).foldl (fun d p =>
    let s := d.paths[p]
    let d := if s.mode = 1 ∧ (s.transit.isSome ∨ 0 < s.settle) then d.noteMark p 0 (if s.transit.isSome then wholeSymbol else s.settle) else d
    if s.mode = 1 ∧ (s.transit.isSome ∨ 0 < s.settle ∧ d.marksUpTo s.settle) then d.raise (chStatus p) 2 else d) d

end Sys2Proof.Machine
end

