-- ==== Sys2Proof/Machine/Tiles.lean ====
section
/-!
DEFINITION. RF tiles, paths and synthesizers (chapter 3): landing of levels, modes, words and handovers, transitions, lock
qualification, and what each seam midpoint checks.
-/

namespace Sys2Proof.Machine

/-! ### The power-step table (R81 to R84) -/

/-- An entry of a tile's power-step table: the word that software has written, or the nominal entry, with its characterised GERR once
firmware has loaded those (R84) (DESIGN CHOICE, log entry 4). -/
def Dev.pstepEntry (d : Dev) (t : Fin 4) (i : Nat) : Word :=
  let w := d.rd (Reg.TILE_PSTEP_TAB t i)
  if d.tiles[t].gerrLoaded && !d.tiles[t].ownEntries.contains i then w.put 31 24 (Config.pstepGerr (1024 * t.val + i)).toNat else w

/-- Firmware loads the characterised GERR values from the configuration image (R84). -/
def Dev.loadGerr (d : Dev) : Dev :=
  { d with tiles := Vector.ofFn fun t : Fin 4 => { d.tiles[t] with gerrLoaded := true, ownEntries := [] } }

/-- Software writes an entry of the power-step table: it takes effect at once, and reaches a path when an index lands (R83). -/
def Dev.writeEntry (d : Dev) (t : Fin 4) (i : Nat) : Dev :=
  d.modTile t fun x => { x with ownEntries := if x.ownEntries.contains i then x.ownEntries else i :: x.ownEntries }

/-! ### Synthesizer words and bands -/

/-- A frequency word as one number: N_INT * 2^32 + FRAC, the VCO frequency in units of FREF / 2^32. -/
def wordNum (int frac : Word) : Nat := int.get 5 0 * 2 ^ 32 + frac.toNat

/-- The output divider (TILE_SYN_x_INT.DIV). -/
def divider (int : Word) : Nat := match int.get 9 8 with | 0 => 2 | 1 => 4 | _ => 8

/-- Whether a word is in range (R67): VCO within 7.25 to 14.5 GHz, LO within 1.4 to 7.25 GHz. -/
def wordValid (int frac : Word) : Bool :=
  let v := wordNum int frac * 49152
  let g := 2 ^ 32 * 100
  decide (7250 * g ≤ v ∧ v ≤ 14500 * g ∧ 1400 * divider int * g ≤ v ∧ v ≤ 7250 * divider int * g)

/-- Whether a synthesizer's stored band is valid for a word (R522). -/
def Syn.bandFits (s : Syn) (w : Nat) : Bool :=
  match s.band with
  | none => false
  | some b => decide (b.lo ≤ w ∧ w ≤ b.hi)

/-- The temperature of a tile's own die, 0.125 degree units (R428). -/
def Dev.tileTemp (d : Dev) (t : Fin 4) : Int := (d.sump.sensors[t.val + 1]).meas

/-- Whether a start of a synthesizer at its word is warm (Table 3.1). -/
def Dev.warmStart (d : Dev) (t : Fin 4) (s : Syn) : Bool :=
  (d.rd (Reg.TILE_CFG t)).bit 2 && s.bandFits (wordNum s.int s.frac) &&
    match s.band with
    | none => false
    | some b => decide (d.tileTemp t - b.temp ≤ 160 ∧ b.temp - d.tileTemp t ≤ 160)

/-- STBY_ROLE: 0 Off, 1 hot standby, 2 alternate; with one synthesizer retired it acts as Off (R72, R77). -/
def Dev.stbyRole (d : Dev) (t : Fin 4) : Nat :=
  let r := d.fget (Reg.TILE_SYN_CTRL t) 5 4
  if d.tiles[t].synA.retired || d.tiles[t].synB.retired || r == 3 then 0 else r

/-- Writes a synthesizer's INT and FRAC register addresses. -/
def synIntReg (t : Nat) (b : Bool) : Nat := if b then Reg.TILE_SYN_B_INT t else Reg.TILE_SYN_A_INT t

/-- The FRAC register of a synthesizer. -/
def synFracReg (t : Nat) (b : Bool) : Nat := if b then Reg.TILE_SYN_B_FRAC t else Reg.TILE_SYN_A_FRAC t

/-- Powers up one synthesizer at a word: warm with a valid stored band, otherwise through a cold band selection. -/
def Dev.startSyn (d : Dev) (t : Fin 4) (b : Bool) (int frac : Word) : Dev :=
  let s := { d.tiles[t].syn b with run := true, qual := false, ld := false, vt := false, int := int, frac := frac, origin := d.time.cycle }
  let s := { s with busy := if d.warmStart t s then .warm else .cold }
  d.modTile t fun x => x.modSyn b fun _ => s

/-- Powers down one synthesizer; its stored band stays (DEDUCED, log entry 75). -/
def Dev.stopSyn (d : Dev) (t : Fin 4) (b : Bool) : Dev :=
  d.modTile t fun x => x.modSyn b fun s => { s with run := false, qual := false, ld := false, busy := .none }

/-- A running synthesizer loses LO-qualified, and its event flag says so (R69) (DEDUCED, log entry 75). -/
def Dev.unqualify (d : Dev) (t : Fin 4) (b : Bool) : Dev :=
  let s := d.tiles[t].syn b
  let d := d.modTile t fun x => x.modSyn b fun s => { s with qual := false, ld := false }
  if s.run && s.qual then d.raise (Reg.TILE_EVT t) (if b then 3 else 2) else d

/-- A synthesizer gives up its band and goes through a cold band selection (R522). -/
def Dev.reselect (d : Dev) (t : Fin 4) (b : Bool) : Dev :=
  (d.unqualify t b).modTile t fun x => x.modSyn b fun s => { s with busy := .cold }

/-- A synthesizer takes a new word and restarts its modulator (R68, R522): in its band when the word lies in the band's track range,
otherwise through a cold band selection. It is not LO-qualified until it has requalified. A re-banding of the active synthesizer
that firmware owes at its old word falls away. -/
def Dev.retune (d : Dev) (t : Fin 4) (b : Bool) (int frac : Word) : Dev :=
  let d := if (d.tiles[t].syn b).run then d.unqualify t b else d
  let n := d.time.cycle
  d.modTile t fun x => { (x.modSyn b fun s =>
    let s := { s with int := int, frac := frac, origin := n }
    if s.run then { s with busy := if s.bandFits (wordNum int frac) then .warm else .cold } else s) with
      reband := x.reband && x.act != b }

/-- The phase of a synthesizer's fractional-N modulator at a timebase cycle, in 2^-32 turns: between synthesizers of one word it
differs by a constant (R68). -/
def Syn.modPhase (s : Syn) (cycle : Nat) : Nat := s.frac.toNat * (cycle - s.origin) % 4294967296

/-- PHASE_UNALIGNED is set; it clears after a ROUTE_REF and a ROUTE_INT measurement at the new word (R76, R204). -/
def Dev.unalign (d : Dev) (t : Fin 4) : Dev :=
  d.modTile t fun x => { x with phaseUnaligned := true, seenRef := false, seenInt := false }

/-- Puts the standby of a tile into the role that STBY_ROLE sets (R72). -/
def Dev.roleStandby (d : Dev) (t : Fin 4) : Dev :=
  let x := d.tiles[t]
  let b := !x.act
  let a := x.syn x.act
  let s := x.syn b
  if s.retired then d
  else
    match d.stbyRole t with
    | 0 => d.stopSyn t b
    | 1 =>
      if !s.run then d.startSyn t b a.int a.frac
      else if s.int = a.int ∧ s.frac = a.frac then d
      else (d.retune t b a.int a.frac).unalign t
    | _ =>
      let i := d.inf (synIntReg t b)
      let f := d.inf (synFracReg t b)
      if !s.run then d.startSyn t b i f
      else if s.int = i ∧ s.frac = f then d
      else d.retune t b i f

/-- A tile's active synthesizer is LO-qualified again: the span without a qualified LO ends (R80). -/
def Dev.loClose (d : Dev) (t : Fin 4) : Dev :=
  match d.tiles[t].loFrom with
  | some a => if (d.tiles[t].syn d.tiles[t].act).qual then
      d.modTile t fun x => { x with loFrom := none, loBad := (a, d.cad.since) :: x.loBad } else d
  | none => d

/-- A band selection or a lock completes: the synthesizer is LO-qualified, and after a cold selection it stores the word,
the temperature and the band found, whose code and track range the design does not fix (R522): they are free values. VT falls with
a cold selection alone; a requalification in the band leaves it (DEDUCED, log entry 87). -/
def Dev.qualify (d : Dev) (t : Fin 4) (b : Bool) : Dev :=
  let s := d.tiles[t].syn b
  let w := wordNum s.int s.frac
  let cold := s.busy == .cold || s.band.isNone
  let n := d.freeCtr
  let band : Option Band :=
    if cold then
      some { code := Config.freeNat n % 256, word := w, temp := d.tileTemp t, lo := w - Config.freeNat (n + 1),
             hi := w + Config.freeNat (n + 2) }
    else s.band
  let d := if cold then { d with freeCtr := n + 3 } else d
  (d.modTile t fun x => x.modSyn b fun s =>
    { s with qual := true, ld := true, vt := if cold then false else s.vt, busy := .none, band := band }).loClose t

/-! ### Handover -/

/-- The tile switches every chain's LO to the other synthesizer (R73): with the phase rotation of R75 between equal words,
with PHASE_UNALIGNED between different ones (R76). The old active synthesizer takes the standby role. -/
def Dev.handover (d : Dev) (t : Fin 4) (toB : Bool) : Dev :=
  let x := d.tiles[t]
  let same := x.synA.int = x.synB.int ∧ x.synA.frac = x.synB.frac
  let ofs := signed 16 (d.fget (Reg.TILE_SYN_PHASE t) 15 0)
  let rot := if same then (if toB then x.rot - ofs else x.rot + ofs) else x.rot
  let d := d.modTile t fun x => { x with act := toB, hoWait := false, rot := rot, hoMeas := decide same, reband := false }
  let d := if same then d else d.unalign t
  d.roleStandby t

/-- ACT as requested, in force. -/
def Dev.actReq (d : Dev) (t : Fin 4) : Bool := (d.inf (Reg.TILE_SYN_CTRL t)).bit 0

/-- The synthesizer that ACT names starts at its word, or takes it, and the other takes the standby's role. -/
def Dev.startActive (d : Dev) (t : Fin 4) : Dev :=
  let a := d.tiles[t].act
  let s := d.tiles[t].syn a
  let i := d.inf (synIntReg t a)
  let f := d.inf (synFracReg t a)
  let d := if !s.run then d.startSyn t a i f else if s.int = i ∧ s.frac = f then d else d.retune t a i f
  d.roleStandby t

/-- A change of ACT lands (R73). Below SynthOn it is no handover: the tile takes the value at once, in a start that is in progress
too, which then qualifies the synthesizer that ACT names. -/
def Dev.landAct (d : Dev) (t : Fin 4) : Dev :=
  let x := d.tiles[t]
  let b := d.actReq t
  if x.act = b then d.modTile t fun x => { x with hoWait := false }
  else if x.level < 2 ∨ x.goal.isSome then
    let b := if (x.syn b).retired then x.act else b
    let d := d.modTile t fun x => { x with act := b, hoWait := false }
    if x.goal = some 2 ∧ ¬ x.via then d.startActive t else d
  else if (x.syn b).qual ∧ ¬ (x.syn b).retired then d.handover t b
  else d.modTile t fun x => { x with hoWait := true }

/-- A frequency word lands on a synthesizer (R67, R68, R72). A word out of range is refused: the synthesizer keeps its
word. The word of a hot standby waits for another role; the active synthesizer's word goes to its hot standby too. After a
retune of the active synthesizer, or a word change of a hot standby, the phase is unaligned (R204) (DEDUCED, log entry 51). -/
def Dev.landWord (d : Dev) (t : Fin 4) (b : Bool) (int frac : Word) : Dev :=
  if !wordValid int frac then (d.modTile t fun x => { x with rangeErr := true }).raise (Reg.TILE_EVT t) 7
  else
    let all := BitVec.ofNat 32 (2 ^ 32 - 1)
    let d := ((d.setInf (synIntReg t b) int all).setInf (synFracReg t b) frac all).modTile t fun x => { x with rangeErr := false }
    let x := d.tiles[t]
    if x.act ≠ b ∧ d.stbyRole t = 1 then d
    else
      let d := d.retune t b int frac
      let d := if x.act = b ∧ (x.syn b).run then d.unalign t else d
      if x.act = b ∧ d.stbyRole t = 1 ∧ (x.syn !b).run then d.retune t (!b) int frac else d

/-! ### Tile levels and path modes -/

/-- The level a code of TILE_CFG.LEVEL stands for; in Standby every level acts as 0 (R448). -/
def Dev.levelOf (d : Dev) (n : Nat) : Nat := if d.power.dev = 2 ∧ d.power.stepTo ≠ some 3 then 0 else min n 2

/-- Every path of a tile goes to Idle at this midpoint, and modes deferred there have no effect. -/
def Dev.idlePaths (d : Dev) (t : Fin 4) : Dev :=
  (pathsOf t).foldl (fun d p => d.modPath p fun s =>
    { s with defer := none, transit := if s.mode = 0 ∧ s.transit.isNone then none else some 0 }) d

/-- A tile in Standby goes on to SynthOn: the synthesizer that ACT names starts, and the other in its role. -/
def Dev.beginSynthOn (d : Dev) (t : Fin 4) : Dev :=
  let x := d.tiles[t]
  let a := if (x.syn (d.actReq t)).retired then !d.actReq t else d.actReq t
  let d := d.modTile t fun x => { x with act := a, goal := some 2, via := false, hoWait := false }
  let d := d.startSyn t a (d.inf (synIntReg t a)) (d.inf (synFracReg t a))
  d.roleStandby t

/-- A tile begins a change of its level (Table 3.1). From Sleep to SynthOn it runs two transitions in sequence: to Standby, then on.
From SynthOn to Sleep, which is no row of the table, it runs one (DEDUCED, log entry 87). -/
def Dev.beginLevel (d : Dev) (t : Fin 4) (l : Nat) : Dev :=
  let x := d.tiles[t]
  if x.goal.isNone ∧ x.level = l then d
  else if l = 2 then
    if x.level = 0 then d.modTile t fun x => { x with goal := some 2, via := true, hoWait := false } else d.beginSynthOn t
  else
    let d := d.idlePaths t
    let d := (d.stopSyn t false).stopSyn t true
    d.modTile t fun x => { x with act := d.actReq t, hoWait := false, goal := some l, via := false, reband := false, rebandHo := false }

/-- A LEVEL lands on a tile (R63): deferred behind a transition in progress, except that a lower level abandons a start
whose synthesizer has not qualified. -/
def Dev.landLevel (d : Dev) (t : Fin 4) (code : Nat) : Dev :=
  let x := d.tiles[t]
  let l := d.levelOf code
  if x.retired ∨ d.power.tile[t] ≠ .on then d
  else
    match x.goal with
    | none => (d.modTile t fun x => { x with deferLevel := none }).beginLevel t l
    | some g =>
      if g = 2 ∧ l < 2 ∧ ¬ (x.syn x.act).qual then
        let refused := (pathsOf t).any fun p => match d.paths[p].defer with | some m => m != 0 | none => false
        let d := d.modTile t fun x => { x with deferLevel := none }
        let d := d.beginLevel t l
        if refused then d.raise (Reg.TILE_EVT t) 6 else d
      else d.modTile t fun x => { x with deferLevel := some l }

/-- Whether the tile admits a mode other than Idle now (R60, R57, R451). -/
def Dev.admits (d : Dev) (t : Fin 4) : Bool :=
  d.tiles[t].level == 2 && d.tiles[t].goal.isNone && d.power.dev == 4 && d.cad.running

/-- A path begins a mode (R60, R61, R64): an entry its tile does not admit has no effect; an entry to Transmit waits out a
thermal mute. From the change out of Receive on its samples are unsettled (R61). -/
def Dev.beginPath (d : Dev) (p : Fin 64) (m : Nat) : Dev :=
  let t := tileOf p
  let s := d.paths[p]
  let leave := fun (d : Dev) => if s.mode = 1 ∧ m ≠ 1 then d.noteMark p d.cad.since wholeSymbol else d
  if s.mode = m ∧ s.transit.isNone then d
  else if m = 0 then (leave d).modPath p fun s => { s with transit := some 0 }
  else if !d.admits t then d.raise (Reg.TILE_EVT t) 6
  else if m = 2 ∧ d.tiles[t].critMute then d.modPath p fun s => { s with muted := true }
  else (leave d).modPath p fun s => { s with transit := some m }

/-- The mode of a path in force: codes 0 Idle, 1 Receive, 2 Transmit, 3 acts as 0. -/
def Dev.modeInForce (d : Dev) (p : Fin 64) : Nat :=
  let k := p.val % 16
  let r := if k < 8 then Reg.TILE_PATH_MODE_LO (p.val / 16) else Reg.TILE_PATH_MODE_HI (p.val / 16)
  let m := (d.inf r).get (2 * (k % 8) + 1) (2 * (k % 8))
  if m = 3 then 0 else m

/-- A mode lands on a path (R60, R63, R65). A path under test stays Idle (Table 15.6) (DEDUCED, log entry 50). -/
def Dev.landMode (d : Dev) (p : Fin 64) : Dev :=
  let m := d.modeInForce p
  let s := d.paths[p]
  if s.retired ∨ s.testing ∨ d.tiles[tileOf p].retired then d
  else if s.transit.isSome ∨ d.tiles[tileOf p].goal.isSome then d.modPath p fun s => { s with defer := some m }
  else (d.modPath p fun s => { s with defer := none }).beginPath p m

/-- A seam midpoint begins what was deferred behind transitions that have completed (R63), and counts each
(DEDUCED, log entry 73). -/
def Dev.beginDeferred (d : Dev) : Dev :=
  let d := (List.finRange 4).foldl (fun d t =>
    match d.tiles[t].deferLevel with
    | some l =>
      if d.tiles[t].goal.isNone then
        ((d.modTile t fun x => { x with deferLevel := none }).beginLevel t l).count32 (Reg.TILE_DEFER t)
      else d
    | none => d) d
  (List.finRange 64).foldl (fun d p =>
    match d.paths[p].defer with
    | some m =>
      if d.paths[p].transit.isNone ∧ d.tiles[tileOf p].goal.isNone then
        ((d.modPath p fun s => { s with defer := none }).beginPath p m).count32 (Reg.TILE_DEFER (tileOf p))
      else d
    | none => d) d

/-! ### The thermal mute -/

/-- A tile's thermal mute begins or ends (R64, Table 15.4). Paths leave Transmit at the next seam midpoint, and re-enter
their programmed modes at the first tick after the mute clears. -/
def Dev.setMute (d : Dev) (t : Fin 4) (on : Bool) : Dev := d.modTile t fun x => { x with critMute := on }

/-- At a seam midpoint: paths in Transmit on a muted tile go to Idle (R64). -/
def Dev.muteAtMidpoint (d : Dev) : Dev :=
  (List.finRange 64).foldl (fun d p =>
    let s := d.paths[p]
    if d.tiles[tileOf p].critMute ∧ (s.mode = 2 ∧ s.transit.isNone ∨ s.transit = some 2) then
      d.modPath p fun s => { s with transit := some 0, defer := none, muted := true }
    else d) d

/-- At a tick: paths of an unmuted tile re-enter their programmed modes where a mute had taken them out (R64). -/
def Dev.reenter (d : Dev) : Dev :=
  (List.finRange 64).foldl (fun d p =>
    let s := d.paths[p]
    let t := tileOf p
    if !d.tiles[t].critMute && s.muted && s.transit.isNone && !s.retired && !d.tiles[t].retired then
      (d.modPath p fun s => { s with muted := false }).beginPath p (d.modeInForce p)
    else d) d

/-! ### The checks of a seam midpoint (R73, R74, R78) -/

/-- Receive samples of a tile are marked unsettled while its LO is unqualified (R80): from now on, unless they are already. -/
def Dev.rxUnsettled (d : Dev) (t : Fin 4) : Dev :=
  let d := d.modTile t fun x => { x with loFrom := some (x.loFrom.getD d.cad.since) }
  (pathsOf t).foldl (fun d p => if d.paths[p].mode = 1 then d.raise (chStatus p) 2 else d) d

/-- A tile at a seam midpoint: a handover that waits, an automatic handover, and the LO check. -/
def Dev.tileMidpoint (d : Dev) (t : Fin 4) : Dev :=
  let x := d.tiles[t]
  if x.level < 2 ∨ x.goal.isSome then d.modTile t fun x => { x with txHeld := false, heldSym := false, loFrom := none }
  else
    let o := !x.act
    let d :=
      if x.hoWait ∧ (x.syn (d.actReq t)).qual ∧ d.actReq t ≠ x.act then d.handover t (d.actReq t)
      else if ¬ (x.syn x.act).qual ∧ (d.rd (Reg.TILE_SYN_CTRL t)).bit 2 ∧ (x.syn o).qual ∧ ¬ (x.syn o).retired ∧
          d.stbyRole t ≠ 2 ∧ x.synA.int = x.synB.int ∧ x.synA.frac = x.synB.frac then
        let a := Reg.TILE_SYN_CTRL t
        let d := d.handover t o
        let d := (if d.writtenNow a then d else d.fset a 0 0 (b2n o)).setInf a (BitVec.ofNat 32 (b2n o)) 1
        d.raise (Reg.TILE_EVT t) 4
      else d
    let x := d.tiles[t]
    let d := d.modTile t fun x => { x with heldSym := false, txHeld := !(x.syn x.act).qual }
    let d := if (x.syn x.act).qual then d.loClose t else d.rxUnsettled t
    if ¬ (x.syn x.act).qual ∧ (pathsOf t).any (fun p => d.paths[p].inTx) then
      ((d.modTile t fun x => { x with heldSym := true }).count32 (Reg.TILE_LO_HELD t)).raise (Reg.TILE_EVT t) 0
    else d

/-- A transmit is scheduled on a tile (R71): a path is in Transmit or on its way there, a mute or an earlier transition has put it
off, or a change to it is committed. -/
def Dev.txScheduled (d : Dev) (t : Fin 4) : Bool :=
  (pathsOf t).any fun p =>
    let s := d.paths[p]
    s.mode == 2 || s.transit == some 2 || s.defer == some 2 || (s.muted && d.modeInForce p == 2) ||
      d.cad.changes.any fun c => c.key == .pathMode p && c.arg == 2

/-- An idle window of a tile: no path is on air and no transmit is scheduled (R70, R71). -/
def Dev.idleWindow (d : Dev) (t : Fin 4) : Bool := (pathsOf t).all (fun p => !d.paths[p].onAir) && !d.txScheduled t

/-- A tile whose active synthesizer firmware waits to re-band does so in an idle window (R70, R71). -/
def Dev.rebandIdle (d : Dev) (t : Fin 4) : Dev :=
  let x := d.tiles[t]
  if x.reband ∧ d.idleWindow t then (d.reselect t x.act).modTile t fun x => { x with reband := false } else d

/-- Every tile at a seam midpoint. -/
def Dev.tilesMidpoint (d : Dev) : Dev :=
  (List.finRange 4).foldl (fun d t => (d.rebandIdle t).tileMidpoint t) d

/-! ### Retirement of paths, tiles and synthesizers -/

/-- A path retires (R65): it goes to Idle and ignores its mode. -/
def Dev.retirePath (d : Dev) (p : Fin 64) : Dev :=
  d.modPath p fun s => { s with retired := true, defer := none, transit := if s.mode = 0 ∧ s.transit.isNone then none else some 0 }

/-- A path returns to service: its mode in force is judged as one that lands now (R65). -/
def Dev.restorePath (d : Dev) (p : Fin 64) : Dev := (d.modPath p fun s => { s with retired := false }).landMode p

/-- A synthesizer retires (R77): the other becomes active, retuned or started when it does not run the active word. -/
def Dev.retireSyn (d : Dev) (t : Fin 4) (b : Bool) : Dev :=
  let a := d.tiles[t].syn b
  let wasActive := d.tiles[t].act = b
  let up := d.tiles[t].level = 2 ∨ d.tiles[t].goal = some 2
  let d := d.modTile t fun x => x.modSyn b fun s => { s with retired := true, run := false, qual := false, busy := .none }
  if (d.tiles[t].syn !b).retired then d
  else if wasActive then
    let o := d.tiles[t].syn !b
    let d := d.modTile t fun x => { x with act := !b, hoWait := false, reband := false, rebandHo := false }
    let d := (d.fset (Reg.TILE_SYN_CTRL t) 0 0 (b2n !b)).setInf (Reg.TILE_SYN_CTRL t) (BitVec.ofNat 32 (b2n !b)) 1
    if ¬ up ∨ d.tiles[t].via then d
    else if ¬ o.run then d.startSyn t (!b) a.int a.frac
    else if o.int = a.int ∧ o.frac = a.frac then
      let ofs := signed 16 (d.fget (Reg.TILE_SYN_PHASE t) 15 0)
      d.modTile t fun x => { x with rot := if b then x.rot + ofs else x.rot - ofs, hoMeas := true }
    else (d.retune t (!b) a.int a.frac).unalign t
  else d

/-- A tile retires (R65): it stays in Sleep. -/
def Dev.retireTile (d : Dev) (t : Fin 4) : Dev :=
  let d := (d.modTile t fun x => { x with goal := none, deferLevel := none }).beginLevel t 0
  d.modTile t fun x => { x with retired := true }

/-- A tile returns to service: its LEVEL in force lands now (R65). -/
def Dev.restoreTile (d : Dev) (t : Fin 4) : Dev :=
  (d.modTile t fun x => { x with retired := false }).landLevel t ((d.inf (Reg.TILE_CFG t)).get 1 0)

end Sys2Proof.Machine
end

