-- ==== Sys2Proof/Machine/Relief.lean ====
section
/-!
DEFINITION. Relief converters (R105 to R115): rotation slots, shadow windows, comparisons, handovers, and the retirement
and restoration of converter pairs. Also the fractional delay of each tick (R99, R100) and the IQ tap sets (R116).
-/

namespace Sys2Proof.Machine

/-- SH, the shadow length in ticks (R106). -/
def Dev.shadowTicks (d : Dev) (t : Nat) : Nat := max 2 (d.fget (Reg.TILE_RELIEF_CFG t) 15 12)

/-- Ticks in 0.5 ms. -/
def Dev.ticksHalfMs (d : Dev) : Nat := 7 * 2 ^ d.mu

/-- SLOT_CLIPPED: SLOT gives a slot of fewer than 2 SH + 8 ticks (R106). -/
def Dev.slotClipped (d : Dev) (t : Nat) : Bool :=
  decide (d.ticksHalfMs * max 1 (d.fget (Reg.TILE_RELIEF_CFG t) 19 16) < 2 * d.shadowTicks t + 8)

/-- The slot length in units of 0.5 ms on which the tile acts (R105, R106). -/
def Dev.slotUnits (d : Dev) (t : Nat) : Nat :=
  max (max 1 (d.fget (Reg.TILE_RELIEF_CFG t) 19 16)) ((2 * d.shadowTicks t + 8 + d.ticksHalfMs - 1) / d.ticksHalfMs)

/-- Whether the rotation of a kind is enabled (RUN_ADC, RUN_DAC). -/
def Dev.reliefRuns (d : Dev) (t : Nat) (dac : Bool) : Bool := (d.rd (Reg.TILE_RELIEF_CFG t)).bit (if dac then 30 else 31)

/-- Whether the slot of local path `k` is skipped: the path, or one of its converters, is retired (R107). -/
def Dev.slotSkipped (d : Dev) (t : Fin 4) (k : Nat) : Bool :=
  if k < 16 then
    let s := d.paths[toPath (16 * t.val + k)]
    s.retired || s.adcRetired || s.dacRetired
  else false

/-- The slot that follows slot `k` in the sequence 0 to 16, without the skipped ones (R105, R107). -/
def Dev.slotAfter (d : Dev) (t : Fin 4) (k : Nat) : Nat :=
  (((List.range 17).map fun i => (k + 1 + i) % 17).find? fun j => !d.slotSkipped t j).getD 16

/-- Whether a relief pair of the tile stands in for a retired converter: the rotation of both kinds stops (R26). -/
def ReliefTile.stops (r : ReliefTile) : Bool := r.adc.forRetired || r.dac.forRetired

/-- The trim register index of a converter pair: ADC 0 to 15 and relief 16, DAC 17 to 32 and relief 33. -/
def trimIndex (dac : Bool) (k : Nat) : Nat := (if dac then 17 else 0) + k

/-- The trims that a converter pair holds (R92). -/
def Dev.convTrims (d : Dev) (t : Fin 4) (dac : Bool) (k : Nat) : Word × Word :=
  (d.rd (Reg.TILE_CONV_TRIM_A t (trimIndex dac k)), d.rd (Reg.TILE_CONV_TRIM_B t (trimIndex dac k)))

/-- Firmware writes the trims of a converter pair; reserved bits hold 0 (R11). -/
def Dev.putTrims (d : Dev) (t : Fin 4) (dac : Bool) (k : Nat) (w : Word × Word) : Dev :=
  (d.wr (Reg.TILE_CONV_TRIM_A t (trimIndex dac k)) w.1).wr (Reg.TILE_CONV_TRIM_B t (trimIndex dac k)) (w.2 &&& 0xFFFF#32)

/-- A slot starts (R105 to R108): the relief pairs begin to shadow the slot's path, or are calibrated in slot 16. A pair
whose return failed keeps serving, and the rotation does not advance (R111). Nothing starts while no ticks run, or while a relief
pair stands in for a retired converter; a retired relief pair stops its own kind alone (R26, R107, R114). -/
def Dev.slotStart (d : Dev) (t : Fin 4) : Dev :=
  let r := d.relief[t]
  if !d.cad.running || r.stops then d
  else
    let k := if r.adc.failedReturn || r.dac.failedReturn then r.slot
      else if r.started then d.slotAfter t r.slot
      else if d.slotSkipped t 0 then d.slotAfter t 0 else 0
    let begin_ := fun (dac : Bool) (x : Relief) =>
      if x.retired || x.testing || !d.reliefRuns t dac then x
      else if x.failedReturn then { x with failedReturn := false, calibrating := true, held := some (d.convTrims t dac x.path) }
      else if x.phase != 0 || x.forRetired then x
      else if k = 16 then { x with calibrating := true, path := 16, held := none }
      else { x with phase := 1, path := k, closed := false, calibrating := false, inMode := false, whole := 0, held := none }
    d.modRelief t fun r => { r with slot := k, started := true, adc := begin_ false r.adc, dac := begin_ true r.dac }

/-- Whether a path is in the state in which its converter of a kind works: Receive for an ADC, Transmit for a DAC (R110). -/
def Dev.inModeOf (d : Dev) (t : Fin 4) (dac : Bool) (k : Nat) : Bool :=
  let s := d.paths[toPath (16 * t.val + k)]
  if dac then s.inTx else s.inRx

/-- Each shadow window at a seam midpoint: before anything lands, a tick through which the path was in Receive or Transmit counts;
after that, whether it is there now (R110). -/
def Dev.windowTick (d : Dev) (before : Bool) : Dev :=
  (List.finRange 4).foldl (fun d t => [false, true].foldl (fun d dac =>
    d.modRelief t fun r => r.modPair dac fun x =>
      if (x.phase = 1 ∨ x.phase = 3) ∧ ¬ x.closed then
        let here := d.inModeOf t dac x.path
        if before then { x with whole := if x.inMode && here then x.whole + 1 else x.whole } else { x with inMode := here }
      else x) d) d

/-- A shadow or return window closes: the comparator judges (R108 steps 2 and 6). The rotation pauses while no ticks run (R107). -/
def Dev.windowClose (d : Dev) (t : Fin 4) (dac : Bool) : Dev :=
  if !d.cad.running then d
  else d.modRelief t fun r => r.modPair dac fun x => if x.phase = 1 ∨ x.phase = 3 then { x with closed := true } else x

/-- The Sump source of the native pair a relief pair shadows. -/
def nativeSource (t : Fin 4) (dac : Bool) (k : Nat) : Fin 256 := toSrc ((if dac then 64 else 0) + 16 * t.val + k)

/-- The Sump source of a relief pair. -/
def reliefSource (t : Fin 4) (dac : Bool) : Fin 256 := toSrc ((if dac then 160 else 156) + t.val)

/-- The comparator delivers (R109 to R111): a pass commits the handover, a failure is counted and reported. `ratio` is in
0.25 dB units. There is a comparison where the comparator says so and the path was in Receive or Transmit through a tick of the
window; a handover without one is recorded (R110). A restored converter that fails leaves the relief serving, with no new attempt
(DEDUCED, log entry 89). -/
def Dev.compareDone (d : Dev) (t : Fin 4) (dac : Bool) (ratio : Nat) (qualified : Bool) : Dev :=
  let x := d.relief[t].pair dac
  if !x.closed || !d.cad.running then d
  else
    let compared := qualified && decide (0 < x.whole)
    let d := if compared then d.fset (Reg.TILE_RELIEF_METRIC t) (if dac then 15 else 7) (if dac then 8 else 0) (min ratio 255) else d
    let pass := !compared || decide (ratio ≤ d.fget (Reg.TILE_RELIEF_CFG t) 7 0)
    let d := d.modRelief t fun r =>
      { r.modPair dac (fun x => { x with closed := false }) with nocmp := if pass then !compared else r.nocmp }
    if pass then d.commit byFirmware (.relief t dac) [] (if x.phase = 1 then 1 else 0)
    else
      let d := (d.count32 (Reg.TILE_RELIEF_FAIL t)).raise (Reg.TILE_RELIEF_EVT t) 0
      if x.phase = 1 then
        (d.modRelief t fun r => r.modPair dac fun x => { x with phase := 0 }).report (reliefSource t dac)
      else
        (d.modRelief t fun r => r.modPair dac fun x => { x with phase := 2, failedReturn := !x.restoring }).report
          (nativeSource t dac x.path)

/-- The result of a converter calibration is valid: the voltage reference is not bad (R189). -/
def Dev.vrefGood (d : Dev) : Bool := !(d.rd Reg.CAL_VREF).bit 31

/-- Out-of-service time of a native pair ends, or the relief calibration of slot 16 does (R108 step 5, R112). A finished
calibration leaves new trims, which the spec does not compute: free values (DESIGN CHOICE, log entry 27). One that has not finished,
or that runs while the rotation is stopped or the voltage reference bad, leaves the trims as they were (R26, R112, R189). -/
def Dev.reliefCalEnd (d : Dev) (t : Fin 4) (dac : Bool) (finished : Bool) : Dev :=
  let x := d.relief[t].pair dac
  if !x.calibrating || !d.cad.running then d
  else
    let n := d.freeCtr
    let writes := finished && !d.relief[t].stops && d.vrefGood
    let d :=
      if writes then { d.putTrims t dac x.path (Config.freeWord n, Config.freeWord (n + 1)) with freeCtr := n + 2 } else d
    let d := if finished then d else d.raise (Reg.TILE_RELIEF_EVT t) 1
    let d :=
      if writes ∧ x.path < 16 then
        { (d.fset (Reg.CAL_CONVQ (16 * t.val + x.path)) (if dac then 23 else 31) (if dac then 16 else 24) (Config.freeNat d.freeCtr % 256)) with
          freeCtr := d.freeCtr + 1 }
      else d
    d.modRelief t fun r =>
      let r := r.modPair dac fun x => { x with
        calibrating := false, closed := false, phase := if x.phase = 2 then 3 else x.phase, inMode := false, whole := 0, abandoned := !finished }
      { r with calAbandoned := r.adc.abandoned || r.dac.abandoned }

/-- SUSPENDED follows what stops a rotation of the tile (R26, R114), and its rise is an event (DEDUCED, log entry 89). -/
def Dev.suspend (d : Dev) (t : Fin 4) : Dev :=
  let r := d.relief[t]
  let now := r.stops || r.adc.retired || r.dac.retired
  let d := d.modRelief t fun r => { r with suspended := now }
  if now && !r.suspended then d.raise (Reg.TILE_RELIEF_EVT t) 2 else d

/-- A relief handover lands (R108 steps 4 and 7): the relief takes over (`arg` 1) or the native pair returns (`arg` 0). -/
def Dev.landRelief (d : Dev) (t : Fin 4) (dac : Bool) (arg : Nat) : Dev :=
  let x := d.relief[t].pair dac
  if x.retired then d
  else if arg = 1 ∧ x.phase = 1 then
    let was := d.convTrims t dac x.path
    (d.modRelief t fun r => r.modPair dac fun x => { x with phase := 2, calibrating := true, held := some was }).count32
      (Reg.TILE_RELIEF_HO t)
  else if arg = 0 ∧ x.phase = 3 then
    ((d.modRelief t fun r => r.modPair dac fun x =>
      { x with phase := 0, forRetired := false, restoring := false, failedReturn := false, held := none }).count32
        (Reg.TILE_RELIEF_HO t)).suspend t
  else d

/-- A native pair that a relief pair serves in rotation returns without a comparison, with the trims that it held before the slot
(R113). -/
def Dev.nativeReturns (d : Dev) (t : Fin 4) (dac : Bool) : Dev :=
  let x := d.relief[t].pair dac
  if !x.forRetired && (x.phase == 2 || x.phase == 3) then
    let d := match x.held with | some w => d.putTrims t dac x.path w | none => d
    d.count32 (Reg.TILE_RELIEF_HO t)
  else d

/-- The rotation of a tile stops as a relief pair begins to stand in for a retired converter (R26): a slot of the other kind that
only shadows ends; one whose native pair is out runs to its end, and the pair keeps its correction (DEDUCED, log entry 89). -/
def Dev.stopRotation (d : Dev) (t : Fin 4) : Dev :=
  (d.modRelief t fun r =>
    let f := fun (x : Relief) => if x.phase = 1 ∧ ¬ x.forRetired then { x with phase := 0, closed := false } else x
    { r with adc := f r.adc, dac := f r.dac }).suspend t

/-- A converter pair retires (R113, R114). The answer says whether its path has to retire, because no relief can serve it. -/
def Dev.retireConv (d : Dev) (p : Fin 64) (dac : Bool) : Dev × Bool :=
  let t := tileOf p
  let k := p.val % 16
  let x := d.relief[t].pair dac
  let d := d.modPath p fun s => if dac then { s with dacRetired := true } else { s with adcRetired := true }
  if x.retired || (x.forRetired && x.path != k) then (d, true)
  else
    let stays := (x.phase == 2 || x.phase == 3) && x.path == k
    let d := if stays then d else (d.nativeReturns t dac).count32 (Reg.TILE_RELIEF_HO t)
    let d := d.modRelief t fun r => r.modPair dac fun x =>
      { x with phase := 2, path := k, forRetired := true, closed := false, calibrating := false, failedReturn := false, restoring := false,
               held := none }
    (d.stopRotation t, false)

/-- A relief pair retires (R114): the native pair that it serves in rotation returns. The answer is the path that nothing can serve
any more, if there is one. -/
def Dev.retireRelief (d : Dev) (t : Fin 4) (dac : Bool) : Dev × Option (Fin 64) :=
  let x := d.relief[t].pair dac
  let lost := if x.forRetired then some (toPath (16 * t.val + x.path)) else none
  let d := d.nativeReturns t dac
  let d := d.modRelief t fun r => r.modPair dac fun x =>
    { x with retired := true, phase := 0, forRetired := false, closed := false, calibrating := false, failedReturn := false, restoring := false,
             held := none }
  (d.suspend t, lost)

/-- A converter pair is restored (R115): it shadows the relief that stands in for it, and returns on a pass. -/
def Dev.restoreConv (d : Dev) (p : Fin 64) (dac : Bool) : Dev :=
  let t := tileOf p
  let d := d.modPath p fun s => if dac then { s with dacRetired := false } else { s with adcRetired := false }
  d.modRelief t fun r => r.modPair dac fun x =>
    if x.forRetired && x.path == p.val % 16 then { x with phase := 3, restoring := true, closed := false, inMode := false, whole := 0 } else x

/-- A relief pair is restored; rotation resumes when nothing else stops it. -/
def Dev.restoreRelief (d : Dev) (t : Fin 4) (dac : Bool) : Dev :=
  (d.modRelief t fun r => r.modPair dac fun x => { x with retired := false }).suspend t

/-! ### Fractional delay (R99, R100) -/

/-- The clamp of d: -2 to 63 + 1023/1024 samples. -/
def clampDelay (x : Int) : Int := max (-2048) (min 65535 x)

/-- d of one direction of a path before the clamp, 1/1024 sample; CAL_DLY counts within −2 to +2047/1024 samples (R99). -/
def Dev.delaySum (d : Dev) (p : Fin 64) (tx : Bool) (resid : Nat) : Int :=
  let h := d.inf (Reg.TILE_CH_DLY_HOST (p.val / 16) (p.val % 16))
  let c := d.inf (Reg.TILE_CH_DLY_CAL (p.val / 16) (p.val % 16))
  let hi := if tx then 31 else 15
  let lo := if tx then 16 else 0
  (h.get hi lo : Int) + max (-2048) (min 2047 (signed 16 (c.get hi lo))) + 4 * resid

/-- Every path forms d at a tick (R99): a clamp sets DLY_SAT. A change of the RX d of more than one sample marks the path's receive
samples from the seam midpoint on; the TX d delays no receive sample (R100, R101) (DEDUCED, log entry 90). -/
def Dev.formDelays (d : Dev) (resid : Nat) : Dev :=
  (List.finRange 64).foldl (fun d p =>
    let tx := d.delaySum p true resid
    let rx := d.delaySum p false resid
    let s := d.paths[p]
    let sat := (if clampDelay tx = tx then 0 else 2) + (if clampDelay rx = rx then 0 else 1)
    let d := if sat / 2 = 1 then d.raise (chStatus p) 1 else d
    let d := if sat % 2 = 1 then d.raise (chStatus p) 0 else d
    let jump := (clampDelay rx - s.dRx).natAbs > 1024
    d.modPath p fun s => { s with dTx := clampDelay tx, dRx := clampDelay rx, dJump := jump }) d

/-- At a seam midpoint the paths whose d has jumped begin to mark (R101). -/
def Dev.jumpMarks (d : Dev) : Dev :=
  (List.finRange 64).foldl (fun d p =>
    if d.paths[p].dJump then (d.markUnsettled p).modPath p fun s => { s with dJump := false } else d) d

/-! ### IQ tap sets (R116) -/

/-- The address of tap `j` of an IQ set. -/
def iqTap (s : IqSet) (j : Nat) : Nat :=
  match s with
  | .rx p => Reg.TILE_CH_RX_IQ (p.val / 16) j (p.val % 16)
  | .tx p => Reg.TILE_CH_TX_IQ (p.val / 16) j (p.val % 16)
  | .orx k => Reg.TILE_ORX_IQ (k.val / 4) j (k.val % 4)

/-- The IQ set and tap that an address names. -/
def iqOf (a : Nat) : Option (IqSet × Nat) :=
  if a < 0x100000 ∨ 0x140000 ≤ a then none
  else
    let t := (a - 0x100000) / 0x10000
    let o := a % 0x10000
    if 0x2000 ≤ o ∧ o < 0x2800 then
      let k := (o - 0x2000) / 0x80
      let r := o % 0x80
      if 0x40 ≤ r ∧ r < 0x5C then some (.rx (toPath (16 * t + k)), (r - 0x40) / 4)
      else if 0x60 ≤ r ∧ r < 0x7C then some (.tx (toPath (16 * t + k)), (r - 0x60) / 4)
      else none
    else if 0x3000 ≤ o ∧ o < 0x3100 then
      let r := o % 0x40
      if 4 ≤ r ∧ r < 0x20 then some (.orx ⟨(4 * t + (o - 0x3000) / 0x40) % 16, by omega⟩, (r - 4) / 4) else none
    else none

/-- A write of tap 1 to 6 stages a value. -/
def Dev.stage (d : Dev) (a : Nat) (w : Word) : Dev := { d with staged := mapSet d.staged a w }

/-- What was staged for an IQ set falls away with a commit of its taps: from then on they stand as committed. -/
def Dev.unstage (d : Dev) (s : IqSet) : Dev := { d with staged := (List.range 7).foldl (fun m j => mapDel m (iqTap s j)) d.staged }

/-- A write of tap 0 commits all seven taps: tap 0 as written, the others as last staged or committed. -/
def Dev.commitIq (d : Dev) (c : Committer) (s : IqSet) (w : Word) : Dev :=
  let taps := (List.range 7).map fun j =>
    let a := iqTap s j
    (a, if j = 0 then w else (mapGet d.staged a).getD (d.rd a))
  let d := taps.foldl (fun d (a, v) => d.swr c a v) d
  (d.unstage s).commit c (.iqSet s) (taps.map fun (a, v) => (a, v, BitVec.ofNat 32 (2 ^ 32 - 1))) 0

end Sys2Proof.Machine
end

