-- ==== Sys2Proof/Machine/Beam.lean ====
section
/-!
DEFINITION. The beamforming engine (chapter 5): validity of a carrier configuration, slots, Ashlar writes, bank copies and
changes, ECC, the solver's cycles, slices and the spare, array healing.
-/

namespace Sys2Proof.Machine

/-! ### Carrier configuration (R119, R120, R130) -/

/-- The largest N_PRB of a carrier rate at a numerology, none where Table 5.1 has no row. -/
def prbLimit (mu rate : Nat) : Option Nat :=
  if rate ≤ mu then some (match mu - rate with | 0 => 275 | 1 => 138 | 2 => 69 | _ => 34) else none

/-- PRBs of a carrier configuration word; 0 acts as 1. -/
def carPrb (w : Word) : Nat := max 1 (w.get 24 16)

/-- R119 for one carrier word. -/
def carFits (mu : Nat) (w : Word) : Bool :=
  match prbLimit mu (w.get 30 29) with
  | some n => decide (carPrb w ≤ n)
  | none => false

/-- PRBs of a group (BEAM_CFG.GROUP; values 5 to 7 act as 4). -/
def groupSize (cfg : Word) : Nat := 2 ^ min 4 (cfg.get 10 8)

/-- Slots of a carrier word under a group size (R130). -/
def carSlots (g : Nat) (w : Word) : Nat := if w.bit 31 then (carPrb w + g - 1) / g else 0

/-- Whether a carrier's band lies inside the filter: |f_NCO| + 0.407 × rate at most 400 MHz, in exact integers. -/
def ncoFits (w nco : Word) : Bool :=
  decide ((signed 32 nco.toNat).natAbs * 98304000 + 2500608 * 2 ^ (w.get 30 29) * 2 ^ 32 ≤ 40000000 * 2 ^ 32)

/-- R120 for a configuration: the numerology, BEAM_CFG, and configuration and NCO word of each carrier. -/
def configValid (mu : Nat) (cfg : Word) (cars : List (Word × Word)) : Bool :=
  let on := cars.filter fun c => c.1.bit 31
  let antenna := cfg.bit 31
  on.all (fun c => carFits mu c.1 && ncoFits c.1 c.2) &&
    decide ((on.map fun c => 12 * carPrb c.1 * 15000 * 2 ^ mu).sum ≤ 800000000) &&
    decide ((on.map fun c => 2 ^ (c.1.get 30 29)).sum ≤ if antenna then 8 else 16) &&
    (antenna || decide ((on.map fun c => carSlots (groupSize cfg) c.1).sum ≤ 640))

/-- The configuration and NCO words of the four carriers in force. -/
def Dev.carsInf (d : Dev) : List (Word × Word) :=
  (List.range 4).map fun c => (d.inf (Reg.BEAM_CAR_CFG c), d.inf (Reg.BEAM_CAR_NCO c))

/-- The same words as most recently committed. -/
def Dev.carsReg (d : Dev) : List (Word × Word) :=
  (List.range 4).map fun c => (d.rd (Reg.BEAM_CAR_CFG c), d.rd (Reg.BEAM_CAR_NCO c))

/-- The configuration in force is valid. -/
def Dev.beamValid (d : Dev) : Bool := configValid d.mu (d.inf Reg.BEAM_CFG) d.carsInf

/-- Whether an address holds part of the carrier configuration that R120 judges. -/
def isBeamConfig (a : Nat) : Bool :=
  a == Reg.BEAM_CFG || (List.range 4).any fun c => a == Reg.BEAM_CAR_CFG c || a == Reg.BEAM_CAR_NCO c

/-- Slots allocated for the configuration in force. -/
def Dev.slotsInForce (d : Dev) : Nat :=
  (d.carsInf.map fun c => carSlots (groupSize (d.inf Reg.BEAM_CFG)) c.1).sum

/-- BEAM_SLOTBASEc, of the most recently committed configuration (R130). -/
def Dev.slotBase (d : Dev) (c : Nat) : Word :=
  let n := d.carsReg.map fun x => carSlots (groupSize (d.rd Reg.BEAM_CFG)) x.1
  ((0 : Word).put 25 16 (n.getD c 0)).put 9 0 (n.take c).sum

/-- A carrier is disabled: EN reads 0, committed and in force. -/
def Dev.disableCar (d : Dev) (c : Nat) : Dev :=
  let a := Reg.BEAM_CAR_CFG c
  (d.fset a 31 31 0).setInf a 0 (BitVec.twoPow 32 31)

/-- The hold-off of R120. -/
def Dev.configError (d : Dev) : Dev := ({ d with beam := { d.beam with cfgErr := true } }).raise Reg.BEAM_EVT 8

/-- A change of MU has landed: carriers that fail R119 are disabled, then further ones from the highest-numbered
downwards until R120 holds. -/
def Dev.muDisable (d : Dev) : Dev :=
  let bad := (List.range 4).filter fun c => d.carOn c && !carFits d.mu (d.inf (Reg.BEAM_CAR_CFG c))
  let d1 := bad.foldl Dev.disableCar d
  let (d2, more) := [3, 2, 1, 0].foldl (fun (x : Dev × Bool) c =>
    if x.1.beamValid || !x.1.carOn c then x else (x.1.disableCar c, true)) (d1, false)
  if bad.isEmpty && !more then d2 else d2.configError

/-! ### The Ashlar store (R129 to R136) -/

/-- The address of a weight (R129). -/
def ashlarAddr (bank ul : Bool) (slot layer ant : Nat) : Nat :=
  0x1000000 + 0xA00000 * b2n bank + 0x500000 * b2n ul + 0x2000 * slot + 0x100 * layer + 4 * ant

/-- The bank and direction of an Ashlar address: true for bank 1, true for uplink. -/
def ashlarHalf (a : Nat) : Bool × Bool :=
  (decide (0x1A00000 ≤ a), decide (0x500000 ≤ (a - 0x1000000) % 0xA00000))

/-- Whether a writer may write an Ashlar word: not the active bank of its direction, and not a direction that the solver
owns unless it writes itself (R131). -/
def Dev.ashlarAllows (d : Dev) (by_ : AshlarWriter) (a : Nat) : Bool :=
  let (bank, ul) := ashlarHalf a
  let active := if ul then d.beam.ulBank else d.beam.dlBank
  let solver := (d.inf Reg.BEAM_CFG).bit (if ul then 0 else 1)
  bank != active && (!solver || by_ == .solver)

/-- An Ashlar word is written: a running copy leaves it alone from now on (R133), and an uncorrectable word is mended (R136). -/
def Dev.ashlarNote (d : Dev) (a : Nat) : Dev :=
  let w := a / 4 * 4
  { d with beam := { d.beam with
      eccZero := d.beam.eccZero.filter (· != w)
      written := if d.beam.mirrorBusy && !d.beam.written.contains w then w :: d.beam.written else d.beam.written } }

/-- The place of a writer of the store within one cycle: the last write applied stays (R135). -/
def ashlarPlace : AshlarWriter → Nat
  | .solver => 0
  | .weightLoad => 1
  | .derrick => 2
  | .link => 3
  | .spi => 4

/-- Bytes are written to the Ashlar store: those that a writer later in the order of R135 has written in this cycle stay. -/
def ashlarPut (d : Dev) (m : Mem) (by_ : AshlarWriter) (a : Nat) (bs : List Byte) : Dev × Mem :=
  let later := d.sameNow.ashlar.filter fun x => decide (ashlarPlace by_ < x.2.2 ∧ x.1 < a + bs.length ∧ a < x.1 + x.2.1)
  let m := if later.isEmpty then Mem.setBytes m a bs
    else bs.zipIdx.foldl (fun m (b, i) => if later.any fun x => decide (x.1 ≤ a + i ∧ a + i < x.1 + x.2.1) then m else Mem.set m (a + i) b) m
  (({ d with same := { d.sameNow with ashlar := (a, bs.length, ashlarPlace by_) :: d.sameNow.ashlar } }).ashlarNote a, m)

/-- A refused Ashlar write (R131). -/
def Dev.ashlarRefused (d : Dev) : Dev := d.raise Reg.BEAM_EVT 7

/-- The bus initiator that an Ashlar writer is, where it is one. -/
def ashlarInit : AshlarWriter → Option Initiator
  | .solver => none
  | .weightLoad => none
  | .derrick => some .derrick
  | .link => some .link
  | .spi => some .spi

/-- A weight word as the engine uses it: a word with an uncorrectable error acts as zero (R136). -/
def Dev.weight (d : Dev) (m : Mem) (a : Nat) : Word := if d.beam.eccZero.contains a then 0 else Mem.word m a

/-- Starts a copy of the active banks, or keeps one waiting (R133). -/
def Dev.startMirror (d : Dev) : Dev :=
  if d.beam.mirrorBusy then { d with beam := { d.beam with mirrorWait := true } }
  else { d with beam := { d.beam with mirrorBusy := true, written := [] } }

/-- The memory after a copy of one direction: the active half into the inactive half, but for words written since. -/
def copyHalf (m : Mem) (ul active : Bool) (written : List Nat) : Mem :=
  let src := ashlarAddr active ul 0 0 0
  let dst := ashlarAddr (!active) ul 0 0 0
  let kept := m.filter fun c => !(decide (dst ≤ c.1 ∧ c.1 < dst + 0x500000) && !written.contains (c.1 / 4 * 4))
  (m.filter fun c => decide (src ≤ c.1 ∧ c.1 < src + 0x500000)).foldl (fun k c =>
    let a := c.1 - src + dst
    if written.contains (a / 4 * 4) then k else Mem.set k a c.2) kept

/-- Whether an Ashlar address lies in the active bank of its direction. -/
def Dev.ashlarActive (d : Dev) (a : Nat) : Bool :=
  let (bank, ul) := ashlarHalf a
  bank == if ul then d.beam.ulBank else d.beam.dlBank

/-- The word of the active bank that stands at the same place as one of the inactive bank. -/
def ashlarPeer (a : Nat) : Nat :=
  let (bank, ul) := ashlarHalf a
  a - ashlarAddr bank ul 0 0 0 + ashlarAddr (!bank) ul 0 0 0

/-- Before a word of an inactive bank is read while a copy runs, whether the copy has moved it already is a free choice; once moved it
stays moved (R133) (DEDUCED, log entry 55). -/
def copySeen (d : Dev) (m : Mem) (a : Nat) : Dev × Mem :=
  let w := a / 4 * 4
  if d.beam.mirrorBusy && decide (0x1000000 ≤ a ∧ a < 0x2400000) && !d.ashlarActive a && !d.beam.written.contains w then
    if Config.freeNat d.freeCtr % 2 = 1 then
      ({ d.drew with beam := { d.beam with written := w :: d.beam.written } }, Mem.setWord m w (d.weight m (ashlarPeer w)))
    else (d.drew, m)
  else (d, m)

/-- The words of a range before it is read (R133). -/
def copySeenIn (d : Dev) (m : Mem) (a n : Nat) : Dev × Mem :=
  if d.beam.mirrorBusy && decide (0x1000000 ≤ a ∧ a < 0x2400000) then
    (List.range ((a % 4 + n + 3) / 4)).foldl (fun (x : Dev × Mem) i => copySeen x.1 x.2 (a / 4 * 4 + 4 * i)) (d, m)
  else (d, m)

/-- What a copy makes of uncorrectable words (R136): one of an active bank is copied as zero, and one that the copy has
rewritten is mended (DEDUCED, log entry 55). -/
def copyErrors (d : Dev) (m : Mem) : Dev × Mem :=
  let zero := (d.beam.eccZero.filter d.ashlarActive).map fun w =>
    let (bank, ul) := ashlarHalf w
    w - ashlarAddr bank ul 0 0 0 + ashlarAddr (!bank) ul 0 0 0
  ({ d with beam := { d.beam with eccZero := d.beam.eccZero.filter fun w => d.ashlarActive w || d.beam.written.contains w } },
   (zero.filter fun a => !d.beam.written.contains a).foldl (fun m a => Mem.setWord m a 0) m)

/-- A copy ends (R133, R134): the inactive banks hold the active banks' words; a waiting copy starts, and otherwise
deferred bank changes become due (DEDUCED, log entry 55). -/
def mirrorDone (d : Dev) (m : Mem) : Dev × Mem :=
  if !d.beam.mirrorBusy then (d, m)
  else
    let m := copyHalf (copyHalf m false d.beam.dlBank d.beam.written) true d.beam.ulBank d.beam.written
    let (d, m) := copyErrors d m
    if d.beam.mirrorWait then ({ d with beam := { d.beam with mirrorWait := false, written := [] } }, m)
    else
      let d1 := { d with beam := { d.beam with mirrorBusy := false, written := [], dlWait := none, ulWait := none } }
      let d1 := match d.beam.dlWait with | some b => d1.commit byFirmware (.beamBank false) [] (b2n b) | none => d1
      let d1 := match d.beam.ulWait with | some b => d1.commit byFirmware (.beamBank true) [] (b2n b) | none => d1
      (d1, m)

/-- A write of BEAM_BANK commits a bank change of each direction (R132) and, with MIRROR, a copy (R133). -/
def Dev.writeBank (d : Dev) (c : Committer) (w : Word) : Dev :=
  let a := Reg.BEAM_BANK
  let changes := w.get 1 0 != d.fget a 1 0
  let land := d.nextLanding
  let d := d.fset a 1 0 (w.get 1 0)
  let d := (d.commit c (.beamBank false) [(a, w, 2)] (w.get 1 1)).commit c (.beamBank true) [(a, w, 1)] (w.get 0 0)
  if w.bit 2 then
    if changes then { d with beam := { d.beam with mirrorAt := some (if d.ticking then land else d.cad.tickIdx) } }
    else d.startMirror
  else d

/-- A bank change lands (R132): behind a running copy it is deferred (R134), and one that names the bank in force ends an earlier
one that waits. -/
def Dev.landBank (d : Dev) (ul bank : Bool) : Dev :=
  let now := if ul then d.beam.ulBank else d.beam.dlBank
  let wait := fun (d : Dev) (w : Option Bool) => { d with beam := if ul then { d.beam with ulWait := w } else { d.beam with dlWait := w } }
  if now = bank then wait d none
  else if d.beam.mirrorBusy then ((wait d (some bank)).count32 Reg.BEAM_SWDEFER).raise Reg.BEAM_EVT 9
  else { d with beam := if ul then { d.beam with ulBank := bank } else { d.beam with dlBank := bank } }

/-- At a tick: a copy that was written with a bank change starts at that change's landing (R133) (DEDUCED, log entry 91). -/
def Dev.mirrorAtTick (d : Dev) : Dev :=
  match d.beam.mirrorAt with
  | some n => if n ≤ d.cad.tickIdx then ({ d with beam := { d.beam with mirrorAt := none } }).startMirror else d
  | none => d

/-! ### The solver (R140 to R147) -/

/-- Chisel cores in service. -/
def Dev.coresInService (d : Dev) : Nat := ((List.finRange 16).filter fun c => !d.chisel.cores[c].retired).length

/-- P_eff of R145. -/
def Dev.solverPeriod (d : Dev) : Nat :=
  let p := max 1 (d.fget Reg.BEAM_SOLVER_CFG 27 16)
  let c := max 1 d.coresInService
  (16 * p + c - 1) / c

/-- Whether the solver is to run: RUN, beam mode, not stopped. -/
def Dev.solverOn (d : Dev) : Bool := (d.rd Reg.BEAM_SOLVER_CFG).bit 31 && !(d.inf Reg.BEAM_CFG).bit 31 && !d.beam.stopped

/-- Whether the solver runs. -/
def Dev.solverRuns (d : Dev) : Bool := d.solverOn && d.cad.running

/-- Whether the tick at a nominal time is one at which solver cycles of `p` ticks begin: its index h, counted from the tick that begins
frame 0 of local time, is a multiple of `p` (R145). -/
def Dev.cycleTick (d : Dev) (p nom : Nat) : Bool := symIndex d.mu (nom % (1024 * 4915200)) % max 1 p == 0

/-- Whether array healing acts on a path: from the head of its retirement tick to that of its restoration tick (R148, R162). -/
def PathSt.healed (s : PathSt) : Bool := s.heals.getD s.retired

/-- The retired-path mask, one bit per path (R126, R148). -/
def Dev.retiredMask (d : Dev) : Nat :=
  (List.finRange 64).foldl (fun n p => if d.paths[p].healed then n + 2 ^ p.val else n) 0

/-- The carriers and layers in force, in either direction. -/
def Dev.layersOn (d : Dev) : List (Nat × Nat) :=
  (List.range 4).flatMap fun c => if d.carOn c then
    ((List.range 32).filter fun l => (d.inf (Reg.BEAM_CAR_LDL c)).bit l || (d.inf (Reg.BEAM_CAR_LUL c)).bit l).map fun l => (c, l) else []

/-- A solver cycle begins (R141, R142, R145), at the ticks of R145 alone: the sounding window of the cycle before closes, and its
symbols are the newest estimates of their layers; layers whose estimate is too old or absent are left out (a bit of
BEAM_SOLVER_AGED: on some carrier), and so are retired paths (R149) (DESIGN CHOICE, log entry 86). -/
def Dev.solverStart (d : Dev) : Dev :=
  if !d.solverRuns || !d.cycleTick d.solverPeriod d.cad.nom || d.beam.solvedAt == some d.cad.tickIdx then d
  else
    let (closed, open_) := d.beam.sounded.partition fun x => decide (x.tick < d.cad.tickIdx)
    let est := closed ++ d.beam.est.filter fun x => !closed.any fun y => y.car == x.car && y.layer == x.layer
    let age := max 1 (d.fget Reg.BEAM_SOLVER_CFG 7 0) * 245760
    let out := d.layersOn.filter fun (c, l) => !est.any fun x => x.car == c && x.layer == l && decide (d.time.cycle ≤ x.cycle + age)
    let aged := out.foldl (fun (w : Word) x => w ||| BitVec.twoPow 32 x.2) 0
    let d := { d with beam := { d.beam with
      solving := true, solvedAt := some d.cad.tickIdx, pEff := d.solverPeriod, est := est, sounded := open_, excluded := out, dropped := d.retiredMask,
      brought := [] } }
    let d := d.wr Reg.BEAM_SOLVER_AGED aged
    if aged = 0 then d else d.raise Reg.BEAM_EVT 2

/-- The solver commits the bank change of a direction that it owns, and BEAM_BANK shows it (R145 step 3). -/
def Dev.solverSwitch (d : Dev) (ul : Bool) : Dev :=
  let bit := if ul then 0 else 1
  let bank := !(if ul then d.beam.ulBank else d.beam.dlBank)
  if (d.inf Reg.BEAM_CFG).bit bit then
    let w := (d.rd Reg.BEAM_BANK).put bit bit (b2n bank)
    (d.swr byFirmware Reg.BEAM_BANK w).commit byFirmware (.beamBank ul) [(Reg.BEAM_BANK, w, BitVec.twoPow 32 bit)] (b2n bank)
  else d

/-- A change of carriers, GROUP, layer masks or sources lands: the cycle is abandoned without a miss (R146). -/
def Dev.solverAbandon (d : Dev) : Dev := { d with beam := { d.beam with solving := false } }

/-- The bank of a direction that is not active. -/
def Dev.inactiveBank (d : Dev) (ul : Bool) : Bool := !(if ul then d.beam.ulBank else d.beam.dlBank)

/-- The results of a BEAM_LOAD: the bank written, whether it switches, and the words written; the mask is that of the reply's time
(R139). -/
def Dev.loadResult (d : Dev) (ul switch : Bool) (words : Nat) : List Word :=
  [(((0 : Word).put 31 31 (b2n (d.inactiveBank ul))).put 30 30 (b2n switch)).put 23 0 words, 0, 0]

/-! ### Slices, the spare, array healing (R148 to R154) -/

/-- The paths of a slice (R15). -/
def slicePaths (s : Nat) : List (Fin 64) := (List.range 8).map fun i => toPath (8 * s + i)

/-- The slice that the spare serves once what is under way has landed. -/
def Dev.spareGoal (d : Dev) : Option Nat :=
  match d.beam.spareNext with
  | some (x, _) => x
  | none => d.beam.spareFor

/-- Slice `s` retires (R154, R19). Where the spare serves it already, or is handing it back, it goes on; where the spare is in use for
another slice or retired, nothing serves the slice. The answer is the paths that nothing serves. -/
def Dev.retireSlice (d : Dev) (s : Nat) : Dev × List (Fin 64) :=
  if d.beam.sliceRetired.testBit s then (d, [])
  else
    let d := { d with beam := { d.beam with sliceRetired := d.beam.sliceRetired ||| 2 ^ s } }
    if d.spareGoal = some s then (d, [])
    else if d.beam.spareFor = some s then ({ d with beam := { d.beam with spareNext := none } }, [])
    else if d.beam.spareRetired || d.beam.spareFor.isSome || d.beam.spareNext.isSome then
      ({ d with beam := { d.beam with sliceLost := d.beam.sliceLost ||| 2 ^ s } }, slicePaths s)
    else ({ d with beam := { d.beam with spareNext := some (some s, d.cad.tickIdx + 1) } }, [])

/-- The spare slice retires (R154): a retired slice that it stood in for loses its paths. -/
def Dev.retireSpare (d : Dev) : Dev × List (Fin 64) :=
  let s := match d.spareGoal with
    | some s => if d.beam.sliceRetired.testBit s then some s else none
    | none => none
  let d := { d with beam := { d.beam with spareRetired := true, spareFor := none, spareNext := none, spareStood := s } }
  match s with
  | some s => ({ d with beam := { d.beam with sliceLost := d.beam.sliceLost ||| 2 ^ s } }, slicePaths s)
  | none => (d, [])

/-- Slice `s` returns (R154); its lost paths return with it. -/
def Dev.restoreSlice (d : Dev) (s : Nat) : Dev × List (Fin 64) :=
  let lost := d.beam.sliceLost.testBit s
  let d := { d with beam := { d.beam with
    sliceRetired := d.beam.sliceRetired &&& (255 - 2 ^ s), sliceLost := d.beam.sliceLost &&& (255 - 2 ^ s)
    spareStood := if d.beam.spareStood = some s then none else d.beam.spareStood
    spareNext := if d.beam.spareFor = some s then some (none, d.cad.tickIdx + 1)
      else if d.spareGoal = some s then none else d.beam.spareNext } }
  (d, if lost then slicePaths s else [])

/-- The spare slice returns: it stands in again for the slice that it served when it retired, whose paths return (R154). -/
def Dev.restoreSpare (d : Dev) : Dev × List (Fin 64) :=
  let s := d.beam.spareStood
  let d := { d with beam := { d.beam with spareRetired := false, spareStood := none } }
  match s with
  | some s => ({ d with beam := { d.beam with
      sliceLost := d.beam.sliceLost &&& (255 - 2 ^ s), spareNext := some (some s, d.cad.tickIdx + 1) } }, slicePaths s)
  | none => (d, [])

/-- At a seam midpoint the spare takes over, or gives back, a slice's antennas (R154). -/
def Dev.spareMidpoint (d : Dev) : Dev :=
  match d.beam.spareNext with
  | some (x, n) =>
    if n ≤ d.cad.tickIdx then
      let d := { d with beam := { d.beam with spareFor := x, spareNext := none } }
      if x.isSome then d.raise Reg.BEAM_EVT 3 else d
    else d
  | none => d

/-- |w|^2 of a weight, in units of 2^-28. -/
def weightSq (w : Word) : Nat := (signed 16 (w.get 31 16)).natAbs ^ 2 + (signed 16 (w.get 15 0)).natAbs ^ 2

/-- The energies of one column of a downlink bank, over all antennas and over those that no array healing acts on (R150). -/
def Dev.columnEnergy (d : Dev) (m : Mem) (bank : Bool) (healed slot layer : Nat) : Nat × Nat :=
  (List.range 64).foldl (fun e p =>
    let w := weightSq (d.weight m (ashlarAddr bank false slot layer p))
    (e.1 + w, if healed.testBit p then e.2 else e.2 + w)) (0, 0)

/-- Whether the downlink rescaling factor of a layer and group in force would exceed 2.0 (R150). -/
def Dev.rescaleCaps (d : Dev) (m : Mem) : Bool :=
  let cfg := d.inf Reg.BEAM_CFG
  if d.retiredMask = 0 || cfg.bit 31 || !cfg.bit 2 || cfg.bit 1 then false
  else
    let base := d.carsInf.map fun c => carSlots (groupSize cfg) c.1
    (List.range 4).any fun c => (List.range (base.getD c 0)).any fun g => (List.range 32).any fun l =>
      (d.inf (Reg.BEAM_CAR_LDL c)).bit l &&
        let e := d.columnEnergy m d.beam.dlBank d.retiredMask ((base.take c).sum + g) l
        decide (0 < e.2 ∧ 4 * e.2 < e.1)

/-- At a tick in host-weight beam mode, a factor capped at 2.0 sets RESCALE_CAP (R150). -/
def Dev.rescaleAtTick (d : Dev) (m : Mem) : Dev := if d.rescaleCaps m then d.raise Reg.BEAM_EVT 10 else d

end Sys2Proof.Machine
end

