-- ==== Sys2Proof/Machine/Flags.lean ====
section
/-!
DEFINITION. FP32 arithmetic of the Chisel cores with its sticky flags (R224, R226): IEEE 754 binary32, round to nearest even,
subnormal inputs and results flushed to zero, one default NaN.
-/

namespace Sys2Proof.Machine

/-- A result and the flags it raises: 8 invalid, 4 divide-by-zero, 2 overflow, 1 underflow. -/
structure Fp where
  val : Word
  flags : Nat
  deriving DecidableEq, Repr

/-- The default NaN. -/
def defNaN : Word := 0x7FC00000#32

/-- The sign of a word, true for negative. -/
def fpSign (w : Word) : Bool := w.bit 31

/-- Exponent field. -/
def fpExp (w : Word) : Nat := w.get 30 23

/-- Fraction field. -/
def fpFrac (w : Word) : Nat := w.get 22 0

/-- A NaN. -/
def isNaN (w : Word) : Bool := fpExp w == 255 && fpFrac w != 0

/-- A signalling NaN, an operand that makes any operation invalid. -/
def isSNaN (w : Word) : Bool := isNaN w && !w.bit 22

/-- An infinity. -/
def isInf (w : Word) : Bool := fpExp w == 255 && fpFrac w == 0

/-- A zero, or a subnormal, which acts as zero of the same sign. -/
def isZero (w : Word) : Bool := fpExp w == 0

/-- A zero of a sign. -/
def fpZero (neg : Bool) : Word := if neg then 0x80000000#32 else 0

/-- An infinity of a sign. -/
def fpInf (neg : Bool) : Word := if neg then 0xFF800000#32 else 0x7F800000#32

/-- The significand of a finite number with its hidden bit: the value is it times 2^(exponent − 150). -/
def fpMant (w : Word) : Nat := if isZero w then 0 else 2 ^ 23 + fpFrac w

/-- The number of bits of a natural number. -/
def bitLen (n : Nat) : Nat := if n = 0 then 0 else Nat.log2 n + 1

/-- Rounds the magnitude m * 2^(e − 2000), a little more where `sticky`, to nearest even. Exponents are biased by 2000 to
stay natural numbers. -/
def roundMag (neg : Bool) (m e : Nat) (sticky : Bool) : Fp :=
  if m = 0 then ⟨fpZero neg, if sticky then 1 else 0⟩
  else
    let q := max (e + bitLen m - 24) 1851
    let k :=
      if q ≤ e then m * 2 ^ (e - q)
      else
        let s := q - e
        let r := m % 2 ^ s
        let half := 2 ^ (s - 1)
        let up := decide (half < r) || (r == half && (sticky || (m / 2 ^ s) % 2 == 1))
        m / 2 ^ s + b2n up
    if k < 2 ^ 23 then ⟨fpZero neg, 1⟩
    else
      let (k, q) := if k = 2 ^ 24 then (2 ^ 23, q + 1) else (k, q)
      if 2104 < q then ⟨fpInf neg, 2⟩
      else ⟨BitVec.ofNat 32 (b2n neg * 2 ^ 31 + (q - 1850) * 2 ^ 23 + (k - 2 ^ 23)), 0⟩

/-- The default NaN of a NaN operand: invalid only for a signalling one. -/
def nanOf (ws : List Word) : Fp := ⟨defNaN, if ws.any isSNaN then 8 else 0⟩

/-- An exact sum of two signed magnitudes with one exponent, rounded; an exact zero is +0 unless both are negative. -/
def addRound (x y : Int) (e : Nat) (bothNeg : Bool) : Fp :=
  let s := x + y
  if s = 0 then ⟨fpZero bothNeg, 0⟩ else roundMag (decide (s < 0)) s.natAbs e false

/-- A magnitude with its sign. -/
def withSign (neg : Bool) (n : Nat) : Int := if neg then -(n : Int) else n

/-- The sum of two finite terms, each a sign, a magnitude and a biased exponent. -/
def addTerms (n1 : Bool) (m1 e1 : Nat) (n2 : Bool) (m2 e2 : Nat) : Fp :=
  let e := min e1 e2
  addRound (withSign n1 (m1 * 2 ^ (e1 - e))) (withSign n2 (m2 * 2 ^ (e2 - e))) e (n1 && n2)

/-- FADD. -/
def fpAdd (a b : Word) : Fp :=
  if isNaN a || isNaN b then nanOf [a, b]
  else if isInf a && isInf b && fpSign a != fpSign b then ⟨defNaN, 8⟩
  else if isInf a then ⟨fpInf (fpSign a), 0⟩
  else if isInf b then ⟨fpInf (fpSign b), 0⟩
  else addTerms (fpSign a) (fpMant a) (fpExp a + 1850) (fpSign b) (fpMant b) (fpExp b + 1850)

/-- The negation of a word. -/
def fpNeg (a : Word) : Word := a ^^^ 0x80000000#32

/-- VSUB, per lane. -/
def fpSub (a b : Word) : Fp := if isNaN b then nanOf [a, b] else fpAdd a (fpNeg b)

/-- FMUL. -/
def fpMul (a b : Word) : Fp :=
  let n := fpSign a != fpSign b
  if isNaN a || isNaN b then nanOf [a, b]
  else if (isInf a && isZero b) || (isZero a && isInf b) then ⟨defNaN, 8⟩
  else if isInf a || isInf b then ⟨fpInf n, 0⟩
  else if isZero a || isZero b then ⟨fpZero n, 0⟩
  else roundMag n (fpMant a * fpMant b) (fpExp a + fpExp b + 1700) false

/-- A fused multiply-add, a × b + c, rounded once (DESIGN CHOICE, log entry 14). -/
def fpFma (a b c : Word) : Fp :=
  let n := fpSign a != fpSign b
  let bad := (isInf a && isZero b) || (isZero a && isInf b)
  if isNaN a || isNaN b then nanOf [a, b, c]
  else if bad then ⟨defNaN, if isNaN c && !isSNaN c && !Config.fmaNanInvalid then 0 else 8⟩
  else if isNaN c then nanOf [c]
  else if isInf a || isInf b then (if isInf c && fpSign c != n then ⟨defNaN, 8⟩ else ⟨fpInf n, 0⟩)
  else if isInf c then ⟨fpInf (fpSign c), 0⟩
  else addTerms n (fpMant a * fpMant b) (fpExp a + fpExp b + 1700) (fpSign c) (fpMant c) (fpExp c + 1850)

/-- The signed magnitude of a finite product with its biased exponent. -/
def prodTerm (a b : Word) : Int × Nat := (withSign (fpSign a != fpSign b) (fpMant a * fpMant b), fpExp a + fpExp b + 1700)

/-- a × b + c × e + acc, rounded once after the add (VCMAC, R224) (DESIGN CHOICE, log entry 14). -/
def fpFma2 (a b c e acc : Word) : Fp :=
  let bad := (isInf a && isZero b) || (isZero a && isInf b) || (isInf c && isZero e) || (isZero c && isInf e)
  let infs := (if isInf a || isInf b then [fpSign a != fpSign b] else []) ++
    (if isInf c || isInf e then [fpSign c != fpSign e] else []) ++ (if isInf acc then [fpSign acc] else [])
  if isNaN a || isNaN b || isNaN c || isNaN e then nanOf [a, b, c, e, acc]
  else if bad then ⟨defNaN, if isNaN acc && !isSNaN acc && !Config.fmaNanInvalid then 0 else 8⟩
  else if isNaN acc then nanOf [acc]
  else
    match infs with
    | n :: ns => if ns.any (· != n) then ⟨defNaN, 8⟩ else ⟨fpInf n, 0⟩
    | [] =>
      let (x, ex) := prodTerm a b
      let (y, ey) := prodTerm c e
      let (z, ez) := (withSign (fpSign acc) (fpMant acc), fpExp acc + 1850)
      let m := min ex (min ey ez)
      let s := x * 2 ^ (ex - m) + y * 2 ^ (ey - m) + z * 2 ^ (ez - m)
      if s = 0 then ⟨fpZero ((fpSign a != fpSign b) && (fpSign c != fpSign e) && fpSign acc), 0⟩
      else roundMag (decide (s < 0)) s.natAbs m false

/-- VDIV, per lane, correctly rounded. -/
def fpDiv (a b : Word) : Fp :=
  let n := fpSign a != fpSign b
  if isNaN a || isNaN b then nanOf [a, b]
  else if (isInf a && isInf b) || (isZero a && isZero b) then ⟨defNaN, 8⟩
  else if isInf a then ⟨fpInf n, 0⟩
  else if isInf b then ⟨fpZero n, 0⟩
  else if isZero b then ⟨fpInf n, 4⟩
  else if isZero a then ⟨fpZero n, 0⟩
  else
    let x := fpMant a * 2 ^ 30
    roundMag n (x / fpMant b) (fpExp a + 1970 - fpExp b) (x % fpMant b != 0)

/-- The integer square root, bit by bit from bit `k - 1` down. -/
def isqrt (n : Nat) : Nat → Nat → Nat
  | 0, r => r
  | k + 1, r => let t := r + 2 ^ k; isqrt n k (if t * t ≤ n then t else r)

/-- VSQRT, per lane, correctly rounded. -/
def fpSqrt (a : Word) : Fp :=
  if isNaN a then nanOf [a]
  else if isZero a then ⟨fpZero (fpSign a), 0⟩
  else if fpSign a then ⟨defNaN, 8⟩
  else if isInf a then ⟨fpInf false, 0⟩
  else
    -- value = m * 2^(E - 150); m' * 2^(2k) with 2k = E - 150 - sh, sh of the parity of E
    let sh := 30 + fpExp a % 2
    let m := fpMant a * 2 ^ sh
    let r := isqrt m 30 0
    roundMag false r (2000 + (fpExp a + 850 - sh) / 2 - 500) (r * r != m)

/-- A total order key of a finite or infinite number, its two zeros equal. -/
def fpKey (w : Word) : Int := if isZero w then 0 else withSign (fpSign w) (w.get 30 0)

/-- A number as it acts: a subnormal is a zero. -/
def fpFlush (w : Word) : Word := if isZero w then fpZero (fpSign w) else w

/-- VMAX (`mx`) and VMIN, per lane (DESIGN CHOICE, log entry 14). -/
def fpPick (mx : Bool) (a b : Word) : Fp :=
  if isNaN a && isNaN b then nanOf [a, b]
  else if isNaN a || isNaN b then
    if Config.maxOfNan || isSNaN a || isSNaN b then nanOf [a, b] else ⟨fpFlush (if isNaN a then b else a), 0⟩
  else if fpKey a = fpKey b then ⟨fpFlush (if Config.maxOfZeros then b else a), 0⟩
  else ⟨fpFlush (if decide (fpKey a < fpKey b) == mx then b else a), 0⟩

/-- VABS, per lane. -/
def fpAbs (a : Word) : Fp := if isNaN a then ⟨defNaN, 0⟩ else ⟨(fpFlush a).put 31 31 0, 0⟩

/-- One level of the tree of R226: adjacent pairs. -/
def sumPairs : List Fp → List Fp
  | x :: y :: rest => (let z := fpAdd x.val y.val; ⟨z.val, x.flags ||| y.flags ||| z.flags⟩) :: sumPairs rest
  | l => l

/-- VRED: the balanced tree sum of 16 lanes (R226). -/
def fpTree (v : Vector Word 16) : Fp :=
  (sumPairs (sumPairs (sumPairs (sumPairs (v.toList.map fun w => ⟨w, 0⟩))))).headD ⟨0, 0⟩

end Sys2Proof.Machine
end

