-- ==== Sys2Proof/Machine/Complex.lean ====
section
/-!
DEFINITION. Complex arithmetic: exact, in whole steps with the rounding of the sample datapath (R98, R124), and in FP32 for the
firmware's solves (R141, R176).
-/

namespace Sys2Proof

/-- The sum of two complex numbers. -/
def Cpx.plus (a b : Cpx) : Cpx := ⟨a.re + b.re, a.im + b.im⟩

/-- The difference of two complex numbers. -/
def Cpx.minus (a b : Cpx) : Cpx := ⟨a.re - b.re, a.im - b.im⟩

/-- The product of two complex numbers, exact. -/
def Cpx.times (a b : Cpx) : Cpx := ⟨a.re * b.re - a.im * b.im, a.re * b.im + a.im * b.re⟩

/-- The conjugate. -/
def Cpx.conj (a : Cpx) : Cpx := ⟨a.re, -a.im⟩

/-- A complex number times a whole number. -/
def Cpx.scale (n : Int) (a : Cpx) : Cpx := ⟨n * a.re, n * a.im⟩

/-- The squared magnitude. -/
def Cpx.sq (a : Cpx) : Nat := a.re.natAbs ^ 2 + a.im.natAbs ^ 2

end Sys2Proof

namespace Sys2Proof.Machine

/-- The sum over a list. -/
def cpxSum {α : Type} (l : List α) (g : α → Cpx) : Cpx := l.foldl (fun s x => s.plus (g x)) ⟨0, 0⟩

/-- A quotient rounded to the nearest integer, ties to even. -/
def roundEven (n : Int) (d : Nat) : Int :=
  let q := n / (max 1 d : Nat)
  let r := 2 * (n % (max 1 d : Nat))
  if r < (max 1 d : Nat) then q else if (max 1 d : Nat) < r then q + 1 else if q % 2 = 0 then q else q + 1

/-- Saturation at full scale. -/
def satFull (f : Nat) (x : Int) : Int := max (-(f : Int)) (min ((f : Int) - 1) x)

/-- A sample in steps `d` times as fine, rounded and saturated component by component (R98, R124). -/
def roundTo (f d : Nat) (x : Cpx) : Cpx := ⟨satFull f (roundEven x.re d), satFull f (roundEven x.im d)⟩

/-- Whether a rounding saturates a sample, in either component: a saturated sample counts once (R98). -/
def clips (f d : Nat) (x : Cpx) : Bool := roundEven x.re d != satFull f (roundEven x.re d) || roundEven x.im d != satFull f (roundEven x.im d)

/-- How many components of a sample a rounding saturates (R124, R158). -/
def clipped (f d : Nat) (x : Cpx) : Nat :=
  b2n (roundEven x.re d != satFull f (roundEven x.re d)) + b2n (roundEven x.im d != satFull f (roundEven x.im d))

/-- The two signed halves of a coefficient word, real part in [31:16]. -/
def coeff (w : Word) : Cpx := ⟨signed 16 (w.get 31 16), signed 16 (w.get 15 0)⟩

/-! ### FP32 (the rules of chapter 8) -/

/-- A complex number in FP32. -/
structure Cfp where
  re : Word
  im : Word
  deriving DecidableEq, Repr

/-- Zero. -/
def cfZero : Cfp := ⟨0, 0⟩

/-- An integer times 2^-k, rounded to FP32. -/
def fpOf (n : Int) (k : Nat) : Word := (roundMag (decide (n < 0)) n.natAbs (2000 - k) false).val

/-- A complex number of steps of 2^-k in FP32. -/
def cfOf (k : Nat) (x : Cpx) : Cfp := ⟨fpOf x.re k, fpOf x.im k⟩

/-- The sum. -/
def Cfp.add (a b : Cfp) : Cfp := ⟨(fpAdd a.re b.re).val, (fpAdd a.im b.im).val⟩

/-- The difference. -/
def Cfp.sub (a b : Cfp) : Cfp := ⟨(fpSub a.re b.re).val, (fpSub a.im b.im).val⟩

/-- The conjugate. -/
def Cfp.conj (a : Cfp) : Cfp := ⟨a.re, fpNeg a.im⟩

/-- c + a × b, each part one chain of fused operations (R224). -/
def Cfp.fma (a b c : Cfp) : Cfp :=
  ⟨(fpFma2 a.re b.re (fpNeg a.im) b.im c.re).val, (fpFma2 a.re b.im a.im b.re c.im).val⟩

/-- The product. -/
def Cfp.mul (a b : Cfp) : Cfp := Cfp.fma a b cfZero

/-- The product with a real number. -/
def Cfp.mulRe (a : Cfp) (r : Word) : Cfp := ⟨(fpMul a.re r).val, (fpMul a.im r).val⟩

/-- The quotient by a real number. -/
def Cfp.divRe (a : Cfp) (r : Word) : Cfp := ⟨(fpDiv a.re r).val, (fpDiv a.im r).val⟩

/-- The squared magnitude. -/
def Cfp.sq (a : Cfp) : Word := (fpFma2 a.re a.re a.im a.im 0).val

/-- The quotient of two complex numbers. -/
def Cfp.div (a b : Cfp) : Cfp := (a.mul b.conj).divRe b.sq

/-- The sum of a list, in its order (DESIGN CHOICE, log entry 86). -/
def fpSum (l : List Word) : Word := l.foldl (fun s x => (fpAdd s x).val) 0

/-- The sum of products of two lists, in their order (DESIGN CHOICE, log entry 86). -/
def cfDot (a b : List Cfp) : Cfp := (a.zip b).foldl (fun s x => Cfp.fma x.1 x.2 s) cfZero

/-- Whether one finite number is below another. -/
def fpBelow (a b : Word) : Bool := !isNaN a && !isNaN b && decide (fpKey a < fpKey b)

/-- An FP32 number in steps of 2^-k as a signed 16-bit part: rounded to nearest even and saturated (R127, R158)
(DESIGN CHOICE, log entry 86). -/
def fpPart (k : Nat) (w : Word) : Int :=
  if isNaN w then Config.partOfNan
  else
    let n : Int := if isInf w then 2 ^ 200 else if fpExp w + k ≤ 150 then roundEven (fpMant w) (2 ^ (150 - k - fpExp w)) else (fpMant w : Int) * 2 ^ (fpExp w + k - 150)
    if fpSign w then -n else n

/-- Whether a part saturates. -/
def partClips (n : Int) : Bool := decide (n < -32768 ∨ 32767 < n)

/-- A coefficient word of two parts in steps of 2^-k. -/
def wordOf (k : Nat) (a : Cfp) : Word :=
  ((0 : Word).put 31 16 (unsigned 16 (max (-32768) (min 32767 (fpPart k a.re))))).put 15 0
    (unsigned 16 (max (-32768) (min 32767 (fpPart k a.im))))

/-- How many parts of a coefficient word saturate (R127). -/
def wordClips (k : Nat) (a : Cfp) : Nat := b2n (partClips (fpPart k a.re)) + b2n (partClips (fpPart k a.im))

/-! ### Cholesky (R143, R144, R176) -/

/-- One more row of the factor L of a Hermitian matrix, row by row: `a` is the row up to the diagonal, `l` the rows so far. The answer is
none where the pivot is below `least`. -/
def cholRow (least : Word) (l : List (List Cfp)) (a : List Cfp) : Option (List Cfp) :=
  let row := l.zipIdx.foldl (fun (r : List Cfp) (lj, j) =>
    let s := (a.getD j cfZero).sub (cfDot r ((lj.take j).map Cfp.conj))
    r ++ [s.divRe (lj.getD j cfZero).re]) []
  let p := (fpSub (a.getD l.length cfZero).re (fpSum (row.map Cfp.sq))).val
  if fpBelow p least then none else some (row ++ [⟨(fpSqrt p).val, 0⟩])

/-- The factor L of a Hermitian matrix given by its rows, none where a pivot falls below `least` (R144). -/
def cholesky (least : Word) (g : List (List Cfp)) : Option (List (List Cfp)) :=
  g.foldl (fun (l : Option (List (List Cfp))) a =>
    match l with
    | none => none
    | some l => (cholRow least l a).map fun r => l ++ [r]) (some [])

/-- Solves L y = b. -/
def forwardSub (l : List (List Cfp)) (b : List Cfp) : List Cfp :=
  l.zipIdx.foldl (fun (y : List Cfp) (r, i) =>
    y ++ [((b.getD i cfZero).sub (cfDot (r.take i) y)).divRe (r.getD i cfZero).re]) []

/-- Solves L^H x = y. -/
def backSub (l : List (List Cfp)) (y : List Cfp) : List Cfp :=
  (l.zipIdx.reverse).foldl (fun (x : List Cfp) (r, i) =>
    let below := (l.drop (i + 1)).map fun q => (q.getD i cfZero).conj
    ((y.getD i cfZero).sub (cfDot below x)).divRe (r.getD i cfZero).re :: x) []

/-- Solves A x = b with the factor of A. -/
def cholSolve (l : List (List Cfp)) (b : List Cfp) : List Cfp := backSub l (forwardSub l b)

/-- A matrix of rows with a real number added to its diagonal. -/
def addDiag (g : List (List Cfp)) (r : Word) : List (List Cfp) :=
  g.zipIdx.map fun (row, i) => row.zipIdx.map fun (x, j) => if i = j then ⟨(fpAdd x.re r).val, x.im⟩ else x

/-- The sum of the real diagonal. -/
def traceOf (g : List (List Cfp)) : Word := fpSum (g.zipIdx.map fun (row, i) => (row.getD i cfZero).re)

end Sys2Proof.Machine
end

