-- ==== Sys2Proof/Machine/Adapt.lean ====
section
/-!
DEFINITION. What the adaptation firmware computes from observation captures (R171, R176, R183): the kept set, the spectrum, the LUT
words of an update and the quality figures. All arithmetic on samples is FP32, sums in the order of the indices
(DESIGN CHOICE, log entry 86).
-/

namespace Sys2Proof.Machine

/-! ### The kept set (R171) -/

/-- The magnitude bin of a sample: ⌊16 × min(|u|, 0.999)⌋. -/
def magBin (u : Cpx) : Nat := min 15 (Nat.sqrt (256 * u.sq) / 2 ^ 30)

/-- The observation around a sample: n − 9 to n + 2. Those before the first and after the last captured sample are not given. -/
def obsAround (obs : Array Cpx) (n : Nat) : List Cpx :=
  (List.range 12).map fun i => if n + i < 9 then Config.edgeObs (n + i) else obs.getD (n + i - 9) (Config.edgeObs (n + i))

/-- The first 64 samples of each magnitude bin in time order, with the count of all samples of each bin. -/
def keepSamples (xs : List CapSample) : List Kept × List Nat :=
  let obs := (xs.map CapSample.obs).toArray
  let r := xs.zipIdx.foldl (fun (r : List Kept × List Nat) (x, n) =>
    let b := magBin x.u
    let c := r.2.getD b 0
    (if c < 64 then { obs := obsAround obs n, u := x.u, x := x.x, near := x.near, bin := b } :: r.1 else r.1, r.2.set b (c + 1)))
    ([], List.replicate 16 0)
  (r.1.reverse, r.2)

/-- One segment of the Welch spectrum: |DFT|² of 1,024 windowed samples, up to a common factor. -/
def segmentPower (xs : List Cpx) : List Nat :=
  let ws := xs.zipIdx.map fun (x, i) => x.scale (2 ^ 30 - Config.cosine 1024 i)
  (List.range 1024).map fun k =>
    (cpxSum ws.zipIdx fun (x, i) => x.times ⟨Config.cosine 1024 (k * i % 1024), -Config.cosine 1024 ((k * i + 768) % 1024)⟩).sq

/-- The Welch spectrum of the observation: segments of 1,024 samples at multiples of 512, at most 59, with a Hann window. -/
def welchOf (obs : List Cpx) : List Nat :=
  let segs := (List.range 59).filter fun i => decide (512 * i + 1024 ≤ obs.length)
  segs.foldl (fun p i => (p.zip (segmentPower ((obs.drop (512 * i)).take 1024))).map fun x => x.1 + x.2) (List.replicate 1024 0)

/-- What a capture leaves in cluster memory (R171). -/
def capSetOf (xs : List CapSample) : CapSet :=
  let k := keepSamples xs
  { kept := k.1, counts := k.2, welch := welchOf (xs.map CapSample.obs) }

/-! ### Alignment and gain (R176) -/

/-- The samples of a capture with their aligned observation: how the fine delay is found and applied is not stated. -/
def alignedKept (c : CapSet) : List (Kept × List Cfp) :=
  let zs := Config.fineDelayed (c.kept.map fun k => (k.obs, k.u))
  c.kept.zipIdx.map fun (k, i) => (k, (zs.getD i []).map (cfOf 30))

/-- The aligned observation at a sample. -/
def atSample (z : List Cfp) : Cfp := z.getD 9 cfZero

/-- G = Σ obs conj(u) / Σ |u|², over the samples with |u| ≤ 0.5. -/
def obsGain (ks : List (Kept × List Cfp)) : Cfp :=
  let low := ks.filter fun k => decide (4 * k.1.u.sq ≤ 2 ^ 60)
  (low.foldl (fun s k => Cfp.fma (atSample k.2) (cfOf 30 k.1.u).conj s) cfZero).divRe (fpSum (low.map fun k => (cfOf 30 k.1.u).sq))

/-- The weight of a sample squared: bin count over samples kept in the bin. -/
def binWeight (c : CapSet) (b : Nat) : Word :=
  (fpDiv (fpOf (c.counts.getD b 0) 0) (fpOf (min 64 (c.counts.getD b 0)) 0)).val

/-! ### An update (R176) -/

/-- a, a r, a r², and on to a r⁶. -/
def sevenPowers (a : Cfp) (r : Word) : List Cfp := (List.range 6).foldl (fun l _ => l ++ [(l.getLastD a).mulRe r]) [a]

/-- The magnitude of a number. -/
def Cfp.mag (a : Cfp) : Word := (fpSqrt a.sq).val

/-- The columns of one sample, before its weight: the 40 memory terms, then the neighbour terms that take part. -/
def basisRow (terms : List Nat) (k : Kept) (z : List Cfp) : List Cfp :=
  let own := (List.range 40).flatMap fun t =>
    sevenPowers (z.getD (9 - t / 5) cfZero) (z.getD (11 - t / 5 - t % 5) cfZero).mag
  own ++ terms.flatMap fun j => sevenPowers (cfOf 30 (k.near.getD j ⟨0, 0⟩)) (atSample z).mag

/-- The weighted rows of the captures of an update, each with its weighted u (DESIGN CHOICE, log entry 86). -/
def updateRows (terms : List Nat) (caps : List CapSet) : List (List Cfp × Cfp) :=
  let all := caps.map fun c => (c, alignedKept c)
  let g := obsGain (all.flatMap Prod.snd)
  all.flatMap fun (c, ks) => ks.map fun (k, z) =>
    let w := (fpSqrt (binWeight c k.bin)).val
    ((basisRow terms k (z.map fun x => x.div g)).map fun x => x.mulRe w, (cfOf 30 k.u).mulRe w)

/-- The solution of a Hermitian system: a pivot that is not positive leaves no stated result (DESIGN CHOICE, log entry 86). -/
def hermSolve (a : List (List Cfp)) (b : List Cfp) : List Cfp :=
  match cholesky (fpInf true) a with
  | some l => cholSolve l b
  | none => []

/-- c_post: the regularised least-squares solution. -/
def postInverse (delta : Nat) (rows : List (List Cfp × Cfp)) : List Cfp :=
  let n := (rows.headD ([], cfZero)).1.length
  let r := (List.range n).map fun i => (List.range n).map fun j =>
    cfDot (rows.map fun x => (x.1.getD i cfZero).conj) (rows.map fun x => x.1.getD j cfZero)
  let v := (List.range n).map fun i => cfDot (rows.map fun x => (x.1.getD i cfZero).conj) (rows.map Prod.snd)
  hermSolve (addDiag r (fpMul (fpOf 1 delta) (fpDiv (traceOf r) (fpOf n 0)).val).val) v

/-- The powers of i / 31. -/
def entryPowers (i : Nat) : List Cfp := sevenPowers (cfOf 0 ⟨1, 0⟩) (fpDiv (fpOf i 0) (fpOf 31 0)).val

/-- c_cur of one LUT: the least-squares projection of its 32 entries onto the powers of i / 31. -/
def projectLut (e : Nat → Word) : List Cfp :=
  let pw := (List.range 32).map entryPowers
  let col := fun (a : Nat) => pw.map fun r => r.getD a cfZero
  hermSolve ((List.range 7).map fun a => (List.range 7).map fun b => cfDot (col a) (col b))
    ((List.range 7).map fun a => cfDot (col a) ((List.range 32).map fun i => cfOf 13 (coeff (e i))))

/-- The LUT words of an update (R176): `mu` and `delta` of DPD_CFG, the neighbour terms that take part, the captures, and the page of
the bank. LUTs of other neighbour terms are zero. -/
def updateWords (mu delta : Nat) (terms : List Nat) (caps : List CapSet) (page : Nat → Word) : List Word :=
  let post := postInverse delta (updateRows terms caps)
  let luts := List.range 40 ++ terms.map (40 + ·)
  (List.range 44).flatMap fun t =>
    if luts.contains t then
      let at_ := 7 * (luts.takeWhile (· != t)).length
      let cur := projectLut fun i => page (32 * t + i)
      let new := (List.range 7).map fun a =>
        let c := cur.getD a cfZero
        c.add (((post.getD (at_ + a) cfZero).sub c).mulRe (fpOf (max 1 mu) 8))
      (List.range 32).map fun i => wordOf 13 (cfDot new (entryPowers i))
    else List.replicate 32 0

/-! ### Quality figures (R183) -/

/-- EVM in 0.01 % units: √(Σ |z − x|² / Σ |x|²) over the kept samples, weighted by bin count. -/
def evmOf (c : CapSet) : Nat :=
  let ks := alignedKept c
  let g := obsGain ks
  let sum := fun (f : Kept → Cfp → Word) => fpSum (ks.map fun k => (fpMul (binWeight c k.1.bin) (f k.1 ((atSample k.2).div g))).val)
  let r := (fpDiv (sum fun k z => (z.sub (cfOf 30 k.x)).sq) (sum fun k _ => (cfOf 30 k.x).sq)).val
  (min 65535 (max 0 (fpPart 0 (fpMul (fpSqrt r).val (fpOf 10000 0)).val))).toNat

/-- The power of the bins of a spectrum whose frequencies lie from `lo` to `hi`, in 2^-32 of 983.04 MHz; bin j stands for j × 1.92 MHz. -/
def bandPower (welch : List Nat) (lo hi : Int) : Nat :=
  (welch.zipIdx.map fun (x, i) =>
    let f := (if i < 512 then (i : Int) else (i : Int) - 1024) * 2 ^ 23
    if lo ≤ f ∧ f < hi then x else 0).sum

/-- The ACLR of one carrier as power in its band and the larger power of the measurable bands beside it; none where neither is
measurable: a band that reaches beyond ±400 MHz is not. -/
def carrierAclr (mu : Nat) (welch : List Nat) (cfg nco : Word) : Option (Nat × Nat) :=
  let f := signed 32 nco.toNat
  let b : Int := (12 * carPrb cfg * 2 ^ mu * 2 ^ 16 : Nat)
  let bands := [(f - 3 * b / 2, f - b / 2), (f + b / 2, f + 3 * b / 2)].filter fun (x : Int × Int) =>
    decide (-(400000000 * 2 ^ 32 : Int) ≤ x.1 * 983040000 ∧ x.2 * 983040000 ≤ 400000000 * 2 ^ 32)
  if bands.isEmpty then none
  else some (bandPower welch (f - b / 2) (f + b / 2), bands.foldl (fun n x => max n (bandPower welch x.1 x.2)) 0)

/-- A power ratio in 0.25 dB units, rounded down, at most 254 (DESIGN CHOICE, log entry 86). -/
def ratioSteps (r : Nat × Nat) : Nat :=
  ((List.range 255).reverse.find? fun v => decide (10 ^ v * r.2 ^ 40 ≤ r.1 ^ 40)).getD 0

/-- ACLR in 0.25 dB units over the enabled carriers, the lowest; 255 where none is measurable. -/
def aclrOf (mu : Nat) (cars : List (Word × Word)) (welch : List Nat) : Nat :=
  ((cars.filter fun c => c.1.bit 31).filterMap fun c => carrierAclr mu welch c.1 c.2).foldl (fun n r => min n (ratioSteps r)) 255

/-- The figures of a capture, as aclr and evm (R183): from its samples, or as the firmware made them where no samples are given. -/
def captureFigures (mu : Nat) (cars : List (Word × Word)) (q : CaptureQuality) : Nat × Nat :=
  if q.samples.isEmpty then (min 255 q.aclr, min 65535 q.evm)
  else
    let c := capSetOf q.samples
    (aclrOf mu cars c.welch, evmOf c)

end Sys2Proof.Machine
end

