-- ==== Sys2Proof/Machine/Admit.lean ====
section
/-!
DEFINITION. The Chisel cluster's operating points and admission (R232 to R240), for user kernels and for the firmware's own work (R25,
R147, R177).
-/

namespace Sys2Proof.Machine

/-! ### Operating points and admission (R232 to R240) -/

/-- A core from a number. -/
def toCore (n : Nat) : Fin 16 := ⟨n % 16, by omega⟩

/-- The core clock of an operating point, MHz (Table 8.5). -/
def opMHz : Nat → Nat | 0 => 600 | 1 => 850 | 2 => 1050 | _ => 1250

/-- VDSP of an operating point, mV. -/
def opVolt : Nat → Nat | 0 => 550 | 1 => 650 | 2 => 750 | _ => 850

/-- CAP of R235 at an operating point: floor of the normal-symbol budget times the clock (DEDUCED, log entry 54). -/
def Dev.capAt (d : Dev) (op : Nat) : Nat := (normalSym d.mu - d.seamL) * opMHz op * 100 / 49152

/-- The operating point of admission: the lower one while a change is in progress (R234). -/
def Dev.opAdm (d : Dev) : Nat := min d.chisel.op (d.chisel.opTgt.getD d.chisel.op)

/-- The share of one tick that a kernel takes, with its preemptions. -/
def Kernel.share (k : Kernel) : Nat := (k.w + k.span - 1) / Nat.max 1 k.span + 256

/-- The kernels that a core holds (DESIGN CHOICE, log entry 33). -/
def Dev.held (d : Dev) (c : Nat) : List Kernel := d.chisel.kernels.filter fun k => k.core == c && !k.evicted

/-- What the weight solver takes of a core's tick while it runs (R147): which core holds how much of it is not given
(DESIGN CHOICE, log entry 37). -/
def Dev.solverLoad (d : Dev) (c : Nat) : Nat :=
  if d.solverOn && !d.chisel.cores[toCore c].retired then
    match Config.solverWork c (groupSize (d.inf Reg.BEAM_CFG)) d.solverPeriod d.layersOn.length with
    | 0 => 0
    | w + 1 => w + 257
  else 0

/-- The left side of R237: user kernels, updates of predistorters, and the solver (DESIGN CHOICE, log entry 33). -/
def Dev.charge (d : Dev) (c : Nat) : Nat := 512 + ((d.held c).map Kernel.share).sum + d.solverLoad c

/-- Whether a core passes R237 at an operating point. -/
def Dev.coreFits (d : Dev) (op c : Nat) : Bool := (d.held c).isEmpty && d.solverLoad c == 0 || decide (d.charge c ≤ d.capAt op)

/-- Whether every core passes R237 at an operating point. -/
def Dev.fitsAt (d : Dev) (op : Nat) : Bool := (List.range 16).all (d.coreFits op)

/-- The lowest base in a RAM at which `len` bytes fit between the areas in use (DEDUCED, log entry 17). -/
def firstFit (used : List (Nat × Nat)) (base size len : Nat) : Option Nat :=
  let spots := base :: used.map fun u => u.1 + u.2
  let good := spots.filter fun b => decide (base ≤ b ∧ b + len ≤ base + size) && used.all fun u => decide (b + len ≤ u.1 ∨ u.1 + u.2 ≤ b)
  good.foldl (fun (r : Option Nat) b => match r with | none => some b | some x => some (min x b)) none

/-- A length rounded up to 256 bytes (R237). -/
def round256 (n : Nat) : Nat := (n + 255) / 256 * 256

/-- A kernel placed on a core, where it passes R237 at an operating point and its RAM allocations fit. -/
def Dev.placeOn (d : Dev) (k : Kernel) (op c : Nat) : Option Kernel :=
  let core := d.chisel.cores[toCore c]
  let hs := d.held c
  if core.retired || core.testing || decide (d.capAt op < d.charge c + k.share) then none
  else
    match firstFit (hs.map Kernel.x) 0 0x10000 k.x.2, firstFit (hs.map Kernel.y) 0x10000 0x10000 k.y.2,
        firstFit (hs.map Kernel.c) 0x20000 0x8000 k.c.2, firstFit (hs.map Kernel.i) 0x30000 0x8000 k.i.2 with
    | some x, some y, some cc, some i => some { k with core := c, x := (x, k.x.2), y := (y, k.y.2), c := (cc, k.c.2), i := (i, k.i.2) }
    | _, _, _, _ => none

/-- Where the firmware admits a kernel (R238, R240): the core it is pinned to, or the lowest-numbered permitted one. -/
def Dev.place (d : Dev) (k : Kernel) (op : Nat) : Option Kernel :=
  let allowed := (List.range 16).filter fun c =>
    (!k.pinned || c == k.core) && (!k.user || (d.rd Reg.CHISEL_CFG).bit (16 + c))
  (allowed.filterMap fun c => d.placeOn k op c).head?

/-- The operating point that the cluster moves to now (R233): the lowest that fits, or the one requested where it fits. -/
def Dev.opWant (d : Dev) : Nat :=
  let c := d.rd Reg.CHISEL_CFG
  if c.bit 2 then ((List.range 4).find? fun op => d.fitsAt op).getD 3
  else if d.fitsAt (c.get 1 0) then c.get 1 0 else d.chisel.op

/-- Starts an operating-point change (R234): raising it raises VDSP first. -/
def Dev.opStart (d : Dev) (op : Nat) : Dev :=
  if d.chisel.opTgt.isSome ∨ op = d.chisel.op then d
  else
    let d := { d with chisel := { d.chisel with opTgt := some op, settled := decide (op < d.chisel.op) } }
    if d.chisel.op < op then d.fset Reg.POWER_VOLT 15 0 (opVolt op) else d

/-- Whether the cluster holds a request that its work does not fit (R233). -/
def Dev.opHolds (d : Dev) : Bool :=
  let c := d.rd Reg.CHISEL_CFG
  !c.bit 2 && !d.fitsAt (c.get 1 0)

/-- The cluster looks for a change of operating point: up at once, down under AUTO_OP at a frame boundary only (R233). -/
def Dev.opCheck (d : Dev) (frame : Bool) : Dev :=
  let d := { d with chisel := { d.chisel with opHeld := d.opHolds || (d.chisel.opHeld && d.chisel.op != d.opWant) } }
  let w := d.opWant
  if d.power.chisel ≠ .on then d
  else if w < d.chisel.op ∧ (d.rd Reg.CHISEL_CFG).bit 2 ∧ !frame then d
  else d.opStart w

/-- VDSP has settled (R442). -/
def Dev.vdspOk (d : Dev) : Dev :=
  if d.chisel.opTgt.isSome then { d with chisel := { d.chisel with settled := true } } else d

/-- Committing kernel image bytes and zeroed or kept RAM for an admitted kernel. -/
def Dev.addKernel (d : Dev) (k : Kernel) : Dev :=
  { d with chisel := { d.chisel with
      kernels := (d.chisel.kernels.filter fun x => x.slot != k.slot) ++ [k], order := d.chisel.order + 1 } }

/-- A firmware kernel leaves its core. -/
def Dev.dropFirmware (d : Dev) (slot : Nat) : Dev :=
  { d with chisel := { d.chisel with kernels := d.chisel.kernels.filter fun k => k.slot != slot } }

/-- Whether admission accepts the solver's work beside what the cluster has admitted (R147, R237), at the operating point that the
cluster may move to (DESIGN CHOICE, log entry 37). -/
def Dev.solverFits (d : Dev) : Bool :=
  (List.range 16).all fun c => d.chisel.cores[toCore c].retired || d.coreFits (if (d.rd Reg.CHISEL_CFG).bit 2 then 3 else d.opAdm) c

/-! ### Updates of predistorters as work of the cluster (R177) -/

/-- The slot in which the model keeps the update of a path; the user slots are 0 to 15. -/
def updateSlot (p : Fin 64) : Nat := 64 + p.val

/-- The kernel that an update declares: 60.0 M cycles over as many ticks as pieces of Table 6.3 take
(DESIGN CHOICE, log entry 33). -/
def Dev.updateKernel (d : Dev) (p : Fin 64) : Kernel :=
  { slot := updateSlot p, user := false, handle := 0, evicted := false, released := true, stateLost := false, pinned := false, core := 0,
    home := none, trig := true, w := 60000000, span := 750 * 2 ^ d.mu, every := 750 * 2 ^ d.mu, entry := 0, x := (0, 0), y := (0, 0),
    c := (0, 0), i := (0, 0), win := (0, 0), order := d.chisel.order, from_ := 0, trigger := false, active := none, count := 0,
    ctx := Ctx.reset, unload := false, fpf := 0, max := 0, last := 0, acts := 0 }

/-- Whether the cluster has admitted the update of a path. -/
def Dev.updateAdmitted (d : Dev) (p : Fin 64) : Bool := d.chisel.kernels.any fun k => k.slot == updateSlot p

/-- The firmware asks for the work of an update whose captures are complete (R177, R236, R240): it waits where no core has room, and with
AUTO_OP raises the operating point first. -/
def Dev.askUpdate (d : Dev) (p : Fin 64) : Dev :=
  let k := d.updateKernel p
  let asks := match d.dpd.path[p].upd with | some u => u.need == 0 | none => false
  if !asks || d.updateAdmitted p || d.power.chisel != .on || decide (d.capAt 3 < (k.w + k.span - 1) / k.span + 768) then d
  else
    match d.place k d.opAdm with
    | some k => d.addKernel k
    | none =>
      if (d.rd Reg.CHISEL_CFG).bit 2 then
        match ((List.range 4).filter fun op => decide (d.opAdm < op)).find? fun op => (d.place k op).isSome with
        | some op => d.opStart op
        | none => d
      else d

/-- At a tick the updates that wait for room ask again (R177). -/
def Dev.askUpdates (d : Dev) : Dev := (List.finRange 64).foldl Dev.askUpdate d

end Sys2Proof.Machine
end

