-- ==== Sys2Proof/Machine/Dpd.lean ====
section
/-!
DEFINITION. The DPD datapath's control and the adaptation firmware (chapter 6): pages and banks, the data port, observation
captures, updates, verification, neighbour forcing, quality figures.
-/

namespace Sys2Proof.Machine

/-- `d` with the predistorter of a path changed. -/
def Dev.modDpd (d : Dev) (p : Fin 64) (f : DpdPath → DpdPath) : Dev :=
  { d with dpd := { d.dpd with path := d.dpd.path.set p (f d.dpd.path[p]) } }

/-- `d` with an observation receiver changed. -/
def Dev.modOrx (d : Dev) (k : Fin 16) (f : Orx → Orx) : Dev :=
  { d with dpd := { d.dpd with orx := d.dpd.orx.set k (f d.dpd.orx[k]) } }

/-- The receiver that serves an input (R15). -/
def orxOf (p : Fin 64) : Fin 16 := ⟨p.val / 4, by omega⟩

/-- NO_OBS: the path's observation receiver is retired (R173). -/
def Dev.noObs (d : Dev) (p : Fin 64) : Bool := d.dpd.orx[orxOf p].retired

/-- The adaptation mode in effect: AMODE, or Frozen while NO_OBS is 1 (R169, R173); 3 acts as 0. -/
def Dev.amode (d : Dev) (p : Fin 64) : Nat :=
  let m := d.fget (Reg.DPD_PATH_CFG p) 25 24
  if d.noObs p || m == 3 then 0 else m

/-- COMMIT_PEND: a page commit of the path awaits its landing tick. -/
def Dev.commitPend (d : Dev) (p : Fin 64) : Bool := d.cad.changes.any fun c => c.key == .dpdPage p && decide (d.cad.tickIdx < c.land)

/-- Term `j` of an adjacency word: enabled, and its neighbour. -/
def adjTerm (w : Word) (j : Nat) : Bool × Nat := (w.bit (8 * j + 7), w.get (8 * j + 5) (8 * j))

/-- FORCED: the enabled neighbour terms whose neighbour is retired (R162). -/
def Dev.forcedTerms (d : Dev) (p : Fin 64) : Nat :=
  (List.range 4).foldl (fun n j =>
    let (en, q) := adjTerm (d.inf (Reg.DPD_PATH_ADJ p)) j
    if en && d.paths[toPath q].healed && q != p.val then n + 2 ^ j else n) 0

/-! ### Bank selection (R164, R165) -/

/-- A register word that governs this tick: what lands at it, over what is in force. -/
def Dev.wordNow (d : Dev) (a : Nat) : Word :=
  let landing := d.cad.changes.filter fun c => c.key == .word a && decide (c.land ≤ d.cad.tickIdx) && !c.atFrame
  landing.foldl (fun w c => c.words.foldl (fun w (x : Nat × Word × Word) =>
    if x.1 = a then (w &&& ~~~x.2.2) ||| (x.2.1 &&& x.2.2) else w) w) (d.inf a)

/-- The power-step index of a path that governs this tick: the one landing at it, otherwise the one in force. -/
def Dev.pidxNow (d : Dev) (p : Fin 64) : Nat := (d.wordNow (Reg.TILE_PIDX (p.val / 16) (p.val % 16))).get 9 0

/-- The bank a path selects at this tick (R165), in the selection mode that governs it: SEL_MODE as it lands there, like the
index (DEDUCED, log entry 44). -/
def Dev.selectedBank (d : Dev) (p : Fin 64) : Nat :=
  let c := d.inf (Reg.DPD_PATH_CFG p)
  if (d.wordNow (Reg.DPD_PATH_CFG p)).bit 30 then
    let t := d.inf Reg.DPD_SEL_THR
    let i := d.pidxNow p
    b2n (decide (t.get 9 0 ≤ i)) + b2n (decide (t.get 19 10 ≤ i)) + b2n (decide (t.get 29 20 ≤ i))
  else c.get 29 28

/-- A capture of an input loses its validity (R172). -/
def Dev.spoil (d : Dev) (p : Fin 64) : Dev :=
  d.modOrx (orxOf p) fun o =>
    match o.cap with
    | some c => if c.input = p then { o with cap := some { c with valid := false } } else o
    | none => o

/-- What R172 names lands for a path: a capture in progress is spoiled, and one that begins at this tick's midpoint will be. -/
def Dev.dpdMoves (d : Dev) (p : Fin 64) : Dev := (d.modDpd p fun x => { x with moved := true }).spoil p

/-- Every path selects its bank at a tick; a change spoils a capture of the path. -/
def Dev.selectBanks (d : Dev) : Dev :=
  (List.finRange 64).foldl (fun d p =>
    let b := d.selectedBank p
    if d.dpd.path[p].bank = b then d else (d.modDpd p fun x => { x with bank := b }).dpdMoves p) d

/-- A page commit lands (R164): the spare page and the page of the bank change places. -/
def Dev.landPage (d : Dev) (p : Fin 64) (bank : Nat) : Dev :=
  let b : Fin 4 := ⟨bank % 4, by omega⟩
  (d.modDpd p fun x => { x with page := x.page.set b x.spare, spare := x.page[b] }).dpdMoves p

/-! ### The data port (R168, R169) -/

/-- The page that SEL names. -/
def DpdPath.pageOf (x : DpdPath) (sel : Nat) : Nat := if sel < 4 then x.page.toList.getD sel 0 else x.spare

/-- The memory word that DPD_LUT_ADDR selects, none where an access raises a bus error (R168). -/
def Dev.lutWord (d : Dev) : Option Nat :=
  let a := d.rd Reg.DPD_LUT_ADDR
  if a.get 10 0 ≤ 1407 ∧ a.get 25 23 ≤ 4 then
    some (dpdAddr (a.get 31 26) (d.dpd.path[toPath (a.get 31 26)].pageOf (a.get 25 23)) (a.get 10 0))
  else none

/-- An access moves the word index on. -/
def Dev.lutNext (d : Dev) : Dev := d.fset Reg.DPD_LUT_ADDR 10 0 (d.fget Reg.DPD_LUT_ADDR 10 0 + 1)

/-- Whether R169 refuses a write: a bank's page, a path that adapts and a writer other than the firmware, a pending commit. -/
def Dev.lutRefuses (d : Dev) (i : Initiator) : Bool :=
  let a := d.rd Reg.DPD_LUT_ADDR
  let p := toPath (a.get 31 26)
  decide (a.get 25 23 < 4) || (d.amode p != 0 && i != .cpu) || d.commitPend p

/-! ### Captures (R170 to R173) -/

/-- Whether the adaptation firmware wants a capture of an input: for an update, or to verify one. -/
def Dev.dpdWants (d : Dev) (p : Fin 64) : Bool :=
  let x := d.dpd.path[p]
  (match x.upd with | some u => decide (0 < u.need) && u.bank == x.bank | none => false) ||
    (match x.verify with | some v => v.1 == x.bank | none => false)

/-- The inputs of a receiver in the order a visit tries them: selector order, resuming after the input served last. -/
def Dev.visitOrder (d : Dev) (k : Fin 16) : List (Fin 64) :=
  (List.range 4).map fun i => toPath (4 * k.val + (d.dpd.orx[k].last + 1 + i) % 4)

/-- Who a receiver serves next, by the ranks of Table 1.6; only inputs whose path is in Transmit. -/
def Dev.nextCapture (d : Dev) (k : Fin 16) : Option (Fin 64 × CapUser) :=
  let ready := (d.visitOrder k).filter fun p => d.paths[p].inTx
  match ready.find? fun p => d.dpd.wantCal.contains p.val with
  | some p => some (p, .cal)
  | none =>
    match ready.find? fun p => d.dpdWants p with
    | some p => some (p, .dpd)
    | none =>
      match ready.find? fun p => d.dpd.wantTrack.contains p.val with
      | some p => some (p, .track)
      | none =>
        match (d.visitOrder k).find? fun p => d.dpd.wantHost.any fun w => w.1 == p.val with
        | some p => (d.dpd.wantHost.find? fun w => w.1 == p.val).map fun w => (p, .host w.2)
        | none => none

/-- Whether something that R172 excludes lands for a path at this tick: at the tick, or at its midpoint. -/
def Dev.touched (d : Dev) (p : Fin 64) : Bool :=
  d.dpd.path[p].moved || d.cad.changes.any fun c => decide (c.land ≤ d.cad.tickIdx) && !c.atFrame &&
    (c.key == .dpdPage p || c.key == .dpdBank p || c.key == .word (Reg.DPD_PATH_CFG p) || c.key == .word (Reg.DPD_PATH_ADJ p) ||
      c.key == .word (Reg.TILE_PIDX (p.val / 16) (p.val % 16)))

/-- At a seam midpoint: captures in progress stay valid only while their path transmits on a qualified LO and nothing of
R172 lands; free receivers begin the captures that wait (R170). -/
def Dev.capturesMidpoint (d : Dev) (touched : List (Fin 64)) : Dev :=
  let d := touched.foldl (fun d p => d.modDpd p fun x => { x with moved := false }) d
  (List.finRange 16).foldl (fun d k =>
    let o := d.dpd.orx[k]
    match o.cap with
    | some c =>
      if !d.paths[c.input].inTx || d.tiles[tileOf c.input].txHeld || touched.contains c.input then d.spoil c.input else d
    | none =>
      if o.retired || o.testing then d
      else
        match d.nextCapture k with
        | some (p, u) =>
          let v := d.paths[p].inTx && !d.tiles[tileOf p].txHeld && !touched.contains p
          let d := d.modOrx k fun o => { o with last := p.val % 4, cap := some ⟨p, u, d.dpd.path[p].bank, v, d.time.now, d.cad.tickIdx⟩ }
          match u with
          | .host c => { d with dpd := { d.dpd with wantHost := d.dpd.wantHost.filter fun w => w.2 != c } }
          | _ => d
        | none => d) d

/-- The quality figures of a path (R183), as ACLR and EVM. -/
def Dev.setQuality (d : Dev) (p : Fin 64) (bank : Nat) (q : Nat × Nat) : Dev :=
  d.modDpd p fun x => { x with aclr := q.1, evm := q.2, qbank := bank, stale := false }

/-- The first valid capture of a bank that begins after its commit has landed verifies the update (R179, R180). -/
def Dev.verifyUpdate (d : Dev) (p : Fin 64) (bank tick aclr : Nat) : Dev :=
  match d.dpd.path[p].verify with
  | none => d
  | some (b, before, land) =>
    if b ≠ bank ∨ tick < land then d
    else
      let d := d.modDpd p fun x => { x with verify := none }
      let i : Fin 4 := ⟨b % 4, by omega⟩
      if aclr < 255 ∧ before < 255 ∧ aclr + d.fget Reg.DPD_CFG 23 16 < before then
        let d := d.commit byFirmware (.dpdPage p) [] b
        let d := (d.count32 Reg.DPD_REVERT).raise Reg.DPD_EVT 1
        let d := d.modDpd p fun x => { x with reverts := x.reverts.set i (x.reverts[i] + 1) }
        if d.dpd.path[p].reverts[i] = 3 then
          ((d.modDpd p fun x => { x with diverged := x.diverged ||| 2 ^ b, reverts := x.reverts.set i 0 }).raise Reg.DPD_EVT 7).report
            (toSrc (64 + p.val))
        else d
      else d.modDpd p fun x => { x with reverts := x.reverts.set i 0 }

/-- An observation capture ends (R171, R172). Its figures are those of adaptation and tracking; one for array calibration feeds neither
(R183). -/
def Dev.captureDone (d : Dev) (k : Fin 16) (q : CaptureQuality) : Dev :=
  match d.dpd.orx[k].cap with
  | none => d
  | some c =>
    match c.user with
    | .host _ => d
    | _ =>
      let p := c.input
      let d := d.modOrx k fun o => { o with cap := none }
      if !c.valid || q.overrange then
        let d := d.count32 Reg.DPD_CAP_DROP
        if q.overrange then d.report (toSrc (136 + k.val)) else d
      else
        let d := { d with dpd := { d.dpd with wantTrack := d.dpd.wantTrack.filter (· != p.val) } }
        if c.user = .cal then { d with dpd := { d.dpd with wantCal := d.dpd.wantCal.filter (· != p.val) } }
        else
          let fig := captureFigures d.mu d.carsInf q
          let d := d.setQuality p c.bank fig
          let d := { d with dpd := { d.dpd with capAt := (p.val, d.time.cycle) :: d.dpd.capAt.filter (fun x => x.1 != p.val) } }
          let d := if c.user = .dpd then
              d.modDpd p fun x => { x with upd := x.upd.map fun (w : DpdUpdate) =>
                if w.bank = c.bank ∧ 0 < w.need then { w with need := w.need - 1, caps := if q.samples.isEmpty then w.caps else w.caps ++ [capSetOf q.samples] }
                else w }
            else d
          let d := d.askUpdate p
          d.verifyUpdate p c.bank c.tick fig.1

/-! ### Updates (R174 to R178) -/

/-- Whether the firmware may start an update of a path. -/
def Dev.updReady (d : Dev) (p : Fin 64) : Bool :=
  let x := d.dpd.path[p]
  x.upd.isNone && x.verify.isNone && !d.paths[p].retired && !d.commitPend p

/-- A bank that continuous mode updates now: the path's bank in use, unless it is skipped (R174, R180). -/
def Dev.continuous (d : Dev) (p : Fin 64) : Bool :=
  d.amode p == 2 && d.updReady p && !d.dpd.path[p].diverged.testBit d.dpd.path[p].bank

/-- The next update: path, bank, and its class (R175). In the first class the paths whose update was abandoned stand last (R178). -/
def Dev.nextUpdate (d : Dev) : Option (Fin 64 × Nat × Nat) :=
  let needy := fun (p : Fin 64) => d.continuous p && d.dpd.path[p].needs.testBit d.dpd.path[p].bank
  let first := (List.finRange 64).filter fun p => !d.dpd.last.contains p.val
  match (first ++ d.dpd.last.map toPath).find? needy with
  | some p => some (p, d.dpd.path[p].bank, 1)
  | none =>
    match d.dpd.queue.find? fun x => d.amode (toPath x.1) == 1 && d.updReady (toPath x.1) with
    | some (p, b) => some (toPath p, b, 2)
    | none =>
      (((List.range 64).map fun i => toPath (d.dpd.round + 1 + i)).find? d.continuous).map fun p => (p, d.dpd.path[p].bank, 3)

/-- The firmware picks the next update and requests its captures (R175, R176). The round-robin of the third class moves on with its own
picks alone. -/
def Dev.updateStart (d : Dev) : Dev :=
  if !(d.rd Reg.DPD_CFG).bit 31 then d
  else
    match d.nextUpdate with
    | none => d
    | some (p, b, cls) =>
      let d := d.modDpd p fun x => { x with upd := some { caps := [], bank := b, need := max 1 (d.fget Reg.DPD_CFG 7 4), before := x.aclr, cls := cls } }
      if cls = 2 then { d with dpd := { d.dpd with queue := d.dpd.queue.erase (p.val, b) } }
      else if cls = 3 then { d with dpd := { d.dpd with round := p.val } }
      else d

/-- The neighbour terms that take part in an update: enabled, not forced, and not the path itself (R160, R176). -/
def Dev.updTerms (d : Dev) (p : Fin 64) : List Nat :=
  let adj := d.inf (Reg.DPD_PATH_ADJ p)
  (List.range 4).filter fun j => (adjTerm adj j).1 && !(d.forcedTerms p).testBit j && (adjTerm adj j).2 != p.val

/-- The LUT words of an update as written (R176): the firmware's where its captures came without samples, but zero for neighbour terms
that take no part. -/
def Dev.updWords (d : Dev) (m : Mem) (p : Fin 64) (u : DpdUpdate) (luts : List Word) : List Word :=
  let terms := d.updTerms p
  if u.caps.isEmpty then
    (List.range 1408).map fun i => if 1280 ≤ i ∧ !terms.contains (i / 32 - 40) then 0 else luts.getD i 0
  else
    let page := d.dpd.path[p].pageOf u.bank
    updateWords (d.fget Reg.DPD_CFG 15 8) (d.fget Reg.DPD_CFG 3 0) terms u.caps fun i => Mem.word m (dpdAddr p.val page i)

/-- An update finishes its solve (R176), where the cluster has admitted its work (R177): the spare page is written and committed to the
bank. -/
def updateDone (d : Dev) (m : Mem) (p : Fin 64) (luts : List Word) : Dev × Mem :=
  match d.dpd.path[p].upd with
  | none => (d, m)
  | some u =>
    if 0 < u.need || !d.updateAdmitted p then (d, m)
    else
      let m := Mem.setWords m (dpdAddr p.val d.dpd.path[p].spare 0) (d.updWords m p u luts)
      let d := d.modDpd p fun x => { x with
        upd := none, verify := some (u.bank, u.before, if d.ticking then d.nextLanding else d.cad.tickIdx)
        needs := if x.needs.testBit u.bank then x.needs - 2 ^ u.bank else x.needs }
      let d := ({ d with dpd := { d.dpd with last := d.dpd.last.filter (· != p.val) } }).dropFirmware (updateSlot p)
      let d := d.commit byFirmware (.dpdPage p) [] u.bank
      (((d.count32 Reg.DPD_UPD_DONE).count32 (Reg.DPD_PATH_UPD p)).raise Reg.DPD_EVT 6, m)

/-- The captures of an update do not arrive in time (R178): it is abandoned and placed last in its class. -/
def Dev.capTimeout (d : Dev) (p : Fin 64) : Dev :=
  match d.dpd.path[p].upd with
  | none => d
  | some u =>
    if u.need = 0 then d
    else
      let d := (d.modDpd p fun x => { x with upd := none }).count32 Reg.DPD_CAP_TIMEOUT
      let d := d.raise Reg.DPD_EVT 0
      let of_ := fun (x : Nat × Nat) => x.1 == p.val
      { d with dpd :=
        if u.cls = 2 then { d.dpd with queue := d.dpd.queue.filter (fun x => !of_ x) ++ (p.val, u.bank) :: d.dpd.queue.filter of_ }
        else if u.cls = 3 then { d.dpd with round := p.val }
        else { d.dpd with last := d.dpd.last.filter (· != p.val) ++ [p.val] } }

/-- Whether the capture that runs on a receiver is the last one that the update of a path awaits. -/
def Dev.lastCapture (d : Dev) (p : Fin 64) (k : Fin 16) : Bool :=
  match d.dpd.orx[k].cap, d.dpd.path[p].upd with
  | some c, some u => c.user == .dpd && c.input == p && c.valid && c.bank == u.bank && u.need == 1
  | _, _ => false

/-- A write of ADAPT queues updates in On-request mode only (R174). -/
def Dev.adaptRequest (d : Dev) (p : Fin 64) (bank n : Nat) : Dev :=
  if d.amode p = 1 then { d with dpd := { d.dpd with queue := d.dpd.queue ++ List.replicate (max 1 n) (p.val, bank) } }
  else d

/-- A write of AMODE: a change abandons the path's update in progress (R174), and skipped banks count again (R180). -/
def Dev.writeAmode (d : Dev) (p : Fin 64) (changed : Bool) : Dev :=
  (if changed then d.dropFirmware (updateSlot p) else d).modDpd p fun x => { x with upd := if changed then none else x.upd, diverged := 0, reverts := #v[0, 0, 0, 0] }

/-! ### Retirement (R162, R173, R181, R182) -/

/-- Every path that names `q` as an enabled neighbour. -/
def Dev.neighboursOf (d : Dev) (q : Fin 64) : List (Fin 64) :=
  (List.finRange 64).filter fun p => p != q && (List.range 4).any fun j =>
    let t := adjTerm (d.inf (Reg.DPD_PATH_ADJ p)) j
    t.1 && t.2 == q.val

/-- A path has retired: forcing, NEEDS_ADAPT and the end of its adaptation (R162, R181, R182). -/
def Dev.dpdRetire (d : Dev) (q : Fin 64) : Dev :=
  let n := d.neighboursOf q
  let told := d.paths[q].heals == some true
  let d := (d.dropFirmware (updateSlot q)).modDpd q fun x => { x with upd := none, verify := none }
  let d := n.foldl (fun d p => (d.modDpd p fun x => { x with needs := 15 }).spoil p) d
  if n.isEmpty || told then d else d.raise Reg.DPD_EVT 2

/-- At a tick array healing and neighbour forcing begin or end for the paths whose retirement or return lands there (R148, R162): `after`
is the device with what lands. -/
def Dev.healAtTick (d : Dev) (after : Dev) : Dev :=
  (List.finRange 64).foldl (fun d q =>
    let r := after.paths[q].retired
    if r = d.paths[q].retired then d
    else
      let n := d.neighboursOf q
      let d := d.modPath q fun s => { s with heals := some r }
      let d := n.foldl Dev.dpdMoves d
      if r && !n.isEmpty then d.raise Reg.DPD_EVT 2 else d) d

/-- At the seam midpoint the retirement itself stands (R148). -/
def Dev.healed (d : Dev) : Dev :=
  (List.finRange 64).foldl (fun d q => if d.paths[q].heals.isSome then d.modPath q fun s => { s with heals := none } else d) d

/-- A path has returned: forcing lifts and banks need adaptation (R162, R182). -/
def Dev.dpdRestore (d : Dev) (q : Fin 64) : Dev :=
  (q :: d.neighboursOf q).foldl (fun d p => (d.modDpd p fun x => { x with needs := 15 }).spoil p) d

/-- An observation receiver retires (R173). -/
def Dev.retireOrx (d : Dev) (k : Fin 16) : Dev :=
  let d := d.modOrx k fun o => { o with retired := true, cap := none }
  let d := (List.range 4).foldl (fun d i =>
    (d.dropFirmware (updateSlot (toPath (4 * k.val + i)))).modDpd (toPath (4 * k.val + i)) fun x => { x with upd := none, verify := none }) d
  d.raise Reg.DPD_EVT 3

/-- An observation receiver returns (R173). -/
def Dev.restoreOrx (d : Dev) (k : Fin 16) : Dev := d.modOrx k fun o => { o with retired := false }

end Sys2Proof.Machine
end

