-- ==== Sys2Proof/Machine/Cal.lean ====
section
/-!
DEFINITION. Calibration (chapter 7): the quiet map and the route cycle, measurements and the corrections they commit,
on-request calibrations, idle-class corrections, snapshots and restores.
-/

namespace Sys2Proof.Machine

/-- `d` with the calibration of a path changed. -/
def Dev.modCal (d : Dev) (p : Fin 64) (f : CalPath → CalPath) : Dev :=
  { d with cal := { d.cal with path := d.cal.path.set p (f d.cal.path[p]) } }

/-- `d` with one direction of a path's calibration changed. -/
def Dev.modCalDir (d : Dev) (p : Fin 64) (tx : Bool) (f : CalDir → CalDir) : Dev :=
  d.modCal p fun c => if tx then { c with tx := f c.tx } else { c with rx := f c.rx }

/-- One direction of a path's calibration. -/
def CalPath.dir (c : CalPath) (tx : Bool) : CalDir := if tx then c.tx else c.rx

/-- `d` with the calibration port pair of a tile changed. -/
def Dev.modCalTile (d : Dev) (t : Fin 4) (f : CalTile → CalTile) : Dev :=
  { d with cal := { d.cal with tile := d.cal.tile.set t (f d.cal.tile[t]) } }

/-- Cycles of the timebase in 10 ms. -/
def cyc10ms : Nat := 4915200

/-! ### The quiet map and the route cycle (R193 to R202) -/

/-- The class of the current symbol under the quiet map in force (R193, R194); 0 where no map is in force for the tile. -/
def Dev.quietClass (d : Dev) (t : Fin 4) : Nat :=
  let c := d.inf Reg.CAL_QMAP_CFG
  let w := symAddr d.mu d.cad.nom
  let slots := min (10 * 2 ^ d.mu) (max 1 (c.get 6 0))
  let s := (w.get 15 12 * 2 ^ d.mu + w.get 11 8) % slots
  let i := 14 * s + w.get 3 0
  if c.bit 31 && c.bit (24 + t.val) then (d.inf (Reg.CAL_QMAP (i / 16))).get (2 * (i % 16) + 1) (2 * (i % 16)) else 0

/-- What the current symbol permits on a tile: its class, and every route while no path is in service (R193, R202)
(DEDUCED, log entry 25). -/
def Dev.classNow (d : Dev) (t : Fin 4) : Nat := if d.anyOnAir then d.quietClass t else 3

/-- The on-request calibration that holds a tile's port pair (R25, R200), if one does. -/
def Dev.portHolder (d : Dev) (t : Fin 4) : Option CalReq :=
  d.cal.runs.find? fun r => r.left.testBit t.val && !r.deferred.testBit t.val && decide (5 ≤ r.code)

/-- Whether the tile may probe a TX path in this symbol (R196): `after` is the device with what lands at the symbol's tick, and a path
counts that keeps its state there. While no path is in service a calibration of every path probes them all (R202). -/
def Dev.mayProbe (d : Dev) (after : Dev) (t : Fin 4) : Bool :=
  (d.rd Reg.CAL_CFG).bit 29 &&
    (!d.anyOnAir || (pathsOf t).any (fun p => d.paths[p].inTx && after.paths[p].inTx) &&
      (pathsOf t).any fun p => d.paths[p].inRx && after.paths[p].inRx)

/-- The path that a probe takes: the next in Transmit after the one probed last, in local order (R196). -/
def Dev.nextProbe (d : Dev) (after : Dev) (t : Fin 4) : Nat :=
  (((List.range 16).map fun i => (d.cal.tile[t].probed + 1 + i) % 16).find? fun k =>
    let p := toPath (16 * t.val + k)
    !d.anyOnAir || (d.paths[p].inTx && after.paths[p].inTx)).getD 0

/-- The route of a position of the cycle of R200. -/
def cycleRoute (pos : Nat) : Nat := match pos with | 2 => 1 | 5 => 3 | _ => 0

/-- Whether B is the tile's hot standby (R72): OFS is measured only then (Table 7.5). -/
def Dev.bHotStandby (d : Dev) (t : Fin 4) : Bool :=
  let x := d.tiles[t]
  decide (d.stbyRole t = 1) && !x.act && x.synB.run && !x.synB.retired

/-- Receive samples of the current symbol are unsettled on a path: those converted so far, and those to come (R37, R191). -/
def Dev.unsettlePath (d : Dev) (p : Fin 64) : Dev :=
  let d := d.modPath p fun s => { s with settle := max s.settle (symLen d.mu d.cad.nom) }
  if d.paths[p].mode = 1 then (d.noteMark p 0 wholeSymbol).raise (chStatus p) 2 else d

/-- Opens a route in the current symbol: every receive sample of the tile is unsettled (R191). ROUTE_INT takes the active synthesizer,
and at the next visit the standby, where B is hot standby (Table 7.6). A probe asks for an observation capture of its path
(Table 7.5). -/
def Dev.openRoute (d : Dev) (after : Dev) (t : Fin 4) (route : Nat) : Dev :=
  let d := d.modCalTile t fun c => { c with
    open_ := some route, last := some route
    stby := if route = 3 then d.bHotStandby t && !c.stby else c.stby
    probed := if route = 2 then d.nextProbe after t else c.probed }
  let d := if route = 2 then { d with dpd := { d.dpd with wantCal := d.dpd.wantCal ++ [16 * t.val + d.cal.tile[t].probed] } } else d
  (pathsOf t).foldl Dev.unsettlePath d

/-- The route of the symbol that ends closes, and with a probe the request for its capture. -/
def Dev.closeRoute (d : Dev) (t : Fin 4) : Dev :=
  let x := d.cal.tile[t]
  let d := if x.open_ = some 2 then
      { d with dpd := { d.dpd with wantCal := d.dpd.wantCal.filter (· != 16 * t.val + x.probed) } }
    else d
  d.modCalTile t fun c => { c with open_ := none }

/-- What a tile's port pair does in the symbol that begins (R200): the next route of the cycle, a probe, or what the
on-request calibration that holds the port pair needs; the order of its routes is not stated, a free choice
(DEDUCED, log entry 25). -/
def Dev.routeTick (d : Dev) (after : Dev) (t : Fin 4) : Dev :=
  let d := d.closeRoute t
  if d.tiles[t].level < 2 || d.tiles[t].goal.isSome then d
  else
    let cls := d.classNow t
    let inj := cls % 2 == 1
    let probe := decide (2 ≤ cls) && d.mayProbe after t
    match d.portHolder t with
    | some r =>
      if cls = 0 then d
      else if r.code = 7 then (if inj then d.openRoute after t 1 else d)
      else
        let n := Config.freeNat d.freeCtr
        let d := d.drew
        if r.code = 5 then (if inj then d.openRoute after t (if n % 2 = 0 then 1 else 3) else d)
        else if probe && n % 4 == 2 then d.openRoute after t 2
        else if inj then d.openRoute after t (match n % 3 with | 0 => 0 | 1 => 1 | _ => 3)
        else d
    | none =>
      if !(d.rd Reg.CAL_CFG).bit 31 then d
      else if probe && d.anyOnAir then d.openRoute after t 2
      else if inj then
        let pos := d.cal.tile[t].pos
        (d.openRoute after t (cycleRoute pos)).modCalTile t fun c => { c with pos := (pos + 1) % 6 }
      else d

/-! ### Corrections (R205 to R208) -/

/-- 2^20: the scale of an average. -/
def avgScale : Int := 1048576

/-- The words of a 32-bit register that are written whole. -/
def wholeWord : Word := BitVec.ofNat 32 (2 ^ 32 - 1)

/-- A signed 16-bit quality field: the value, saturated. -/
def sat16 (x : Int) : Int := max (-32768) (min 32767 x)

/-- The whole number nearest to an average. -/
def rounded (x : Int) : Int := (x + avgScale / 2) / avgScale

/-- Femtoseconds in units of 1/1024 sample at 983.04 Msps (0.9934 ps), to the nearest. -/
def dlyUnits (fs : Int) : Int := (fs * 100663296 + 50000000000) / 100000000000

/-- The CAL_DLY register of a path. -/
def dlyReg (p : Fin 64) : Nat := Reg.TILE_CH_DLY_CAL (p.val / 16) (p.val % 16)

/-- Whether the host owns the blended corrections (R207). -/
def Dev.calHeld (d : Dev) : Bool := (d.rd Reg.CAL_CFG).bit 30

/-- The firmware changes CAL_DLY of one direction by a step, within its range (R99, R205). -/
def Dev.stepDly (d : Dev) (p : Fin 64) (tx : Bool) (step : Int) : Dev :=
  if step = 0 then d
  else
    let a := dlyReg p
    let w := d.rd a
    let hi := if tx then 31 else 15
    let lo := if tx then 16 else 0
    let v := w.put hi lo (unsigned 16 (max (-2048) (min 2047 (signed 16 (w.get hi lo) + step))))
    (d.wr a v).commit byFirmware (.word a) [(a, v, wholeWord)] 0

/-- The firmware turns the four trims of one direction of a path by a phase and scales them by a gain (R205, R208); the rounding of
the product is not stated (DESIGN CHOICE, log entry 27). -/
def Dev.stepTrims (d : Dev) (p : Fin 64) (tx : Bool) (mdeg mdb : Int) : Dev :=
  if mdeg = 0 ∧ mdb = 0 then d
  else
    (List.range 4).foldl (fun d c =>
      let a := if tx then Reg.CAL_TRIM_TX p.val c else Reg.CAL_TRIM_RX p.val c
      let w := Config.trimTurn (d.rd a) mdeg mdb
      (d.wr a w).commit byFirmware (.word a) [(a, w, wholeWord)] 0) d

/-- A correction within the bounds of one tick. -/
def stepOf (limit : Nat) (x : Int) : Int := max (-(limit : Int)) (min limit x)

/-- One step of what one direction of a path is still owed, committed for the next tick (R205): at most 0.5 degree, 0.05 dB and 16/1024
sample in one tick; all of it where no tick runs. Nothing enters while the host owns the corrections (R207). What enters no longer
stands in the average of the residual (DESIGN CHOICE, log entry 27). -/
def Dev.stepOwed (d : Dev) (p : Fin 64) (tx : Bool) : Dev :=
  let c := d.cal.path[p].dir tx
  if c.owedGain = 0 ∧ c.owedPhase = 0 ∧ c.owedDelay = 0 ∧ c.owedTerr = 0 then d
  else if d.calHeld then
    d.modCalDir p tx fun c => { c with owedGain := 0, owedPhase := 0, owedDelay := 0, owedTerr := 0 }
  else
    let lim := fun (n : Nat) (x : Int) => if d.ticking then stepOf n x else x
    let g := lim 50 c.owedGain
    let ph := lim 500 c.owedPhase
    let own := lim 16 c.owedDelay
    let terr := lim (16 - own.natAbs) c.owedTerr
    let d := d.modCalDir p tx fun c => { c with
      owedGain := c.owedGain - g, owedPhase := c.owedPhase - ph, owedDelay := c.owedDelay - own, owedTerr := c.owedTerr - terr
      gain := c.gain + g * avgScale, phase := c.phase + ph * avgScale
      delay := c.delay + own * 100000000000 * avgScale / 100663296 }
    (d.stepTrims p tx ph g).stepDly p tx (own + terr)

/-- The next steps of every correction that spreads over ticks (R205). -/
def Dev.stepAllOwed (d : Dev) : Dev :=
  (List.finRange 64).foldl (fun d p => (d.stepOwed p false).stepOwed p true) d

/-- The firmware corrects the averaged residual of one direction of a path (R201): it is owed its opposite, delay only where the
measurement anchors it (R187). Where no tick runs it enters at once (DESIGN CHOICE, log entry 27). -/
def Dev.correctPath (d : Dev) (p : Fin 64) (tx dly : Bool) : Dev :=
  if d.calHeld then d
  else
    let d := d.modCalDir p tx fun c => { c with
      owedGain := -(rounded c.gain), owedPhase := -(rounded c.phase)
      owedDelay := if dly then -(dlyUnits (rounded c.delay)) else c.owedDelay }
    if d.ticking then d else d.stepOwed p tx

/-- The average of a register's two halves in 2^-20 LSB: what estimates have left behind it, or the register as written since. -/
def Dev.fineOf (d : Dev) (a : Nat) : Int × Int × Bool :=
  let w := d.rd a
  let h := signed 16 (w.get 31 16)
  let l := signed 16 (w.get 15 0)
  match d.cal.fine.find? fun x => x.1 == a with
  | some (_, x, y) => if rounded x = h ∧ rounded y = l then (x, y, true) else (h * avgScale, l * avgScale, false)
  | none => (h * avgScale, l * avgScale, false)

/-- An exponential average with weight 2^-AVG (R201). -/
def average (avg x : Int) (w : Nat) : Int := avg + (x - avg) / 2 ^ w

/-- Whether an estimate differs from its average by more than six times the square root of its bound (R201). -/
def outlying (avg x : Int) (bound : Nat) : Bool := decide (36 * bound < (x - avg).natAbs ^ 2)

/-- One estimated correction enters the average behind its register (R201): the first estimate is the average. The answer is the device
and the register's corrected value. -/
def Dev.averageWord (d : Dev) (a : Nat) (e : CalWord) : Dev × Word :=
  let (h, l, known) := d.fineOf a
  if known && (outlying h e.hi e.bound || outlying l e.lo e.bound) then (d, d.rd a)
  else
    let w := d.fget Reg.CAL_CFG 3 0
    let h := if known then average h e.hi w else e.hi
    let l := if known then average l e.lo w else e.lo
    let lim := fun (x : Int) => max (-32768 * avgScale) (min (32767 * avgScale) x)
    let d := { d with cal := { d.cal with fine := (a, lim h, lim l) :: d.cal.fine.filter fun x => x.1 != a } }
    (d, ((0 : Word).put 31 16 (unsigned 16 (rounded (lim h)))).put 15 0 (unsigned 16 (rounded (lim l))))

/-- An offset or leakage correction enters (Table 7.5), blended, unless the host owns it (R207) (DESIGN CHOICE, log entry 27). -/
def Dev.correctWord (d : Dev) (a : Nat) (e : Option CalWord) : Dev :=
  match e with
  | none => d
  | some e =>
    let (d, w) := d.averageWord a e
    if d.calHeld then d else (d.wr a w).commit byFirmware (.word a) [(a, w, wholeWord)] 0

/-- The image taps of an IQ set enter in one commit (R116, Table 7.5) (DESIGN CHOICE, log entry 27). -/
def Dev.correctIq (d : Dev) (s : IqSet) (es : List CalWord) : Dev :=
  if es.length < 7 then d
  else
    let (d, taps) := (es.take 7).zipIdx.foldl (fun (x : Dev × List (Nat × Word)) (e, j) =>
      let (d, w) := x.1.averageWord (iqTap s j) e
      (d, x.2 ++ [(iqTap s j, w)])) (d, [])
    if d.calHeld then d
    else ((taps.foldl (fun d (a, v) => d.wr a v) d).unstage s).commit byFirmware (.iqSet s) (taps.map fun (a, v) => (a, v, wholeWord)) 0

/-! ### Measurements (R197 to R214) -/

/-- The variance bounds of an estimate, in 2^-20 of its unit squared: gain 75.44 / 2ρ dB², phase 1 / 2ρ rad², delay 1 / (8π²β²ρ) s². -/
def CalEst.bounds (e : CalEst) : Nat × Nat × Nat :=
  let r := max 1 e.rho
  (75440000 * 2 ^ 20 / (2 * r), 3282806350 * 2 ^ 20 / (2 * r), 10 ^ 31 * 2 ^ 20 / (789568352 * max 1 (e.beta ^ 2) * r))

/-- The CRB ratio of 64 estimates in 1/64 units: their variance over their mean bound, at most 255 (R197) (DEDUCED, log entry 26). -/
def crbRatio (xs : List (Int × Nat)) : Nat :=
  let n : Int := xs.length
  let sum := xs.foldl (fun s x => s + x.1) (0 : Int)
  let sq := xs.foldl (fun s x => s + x.1 * x.1) (0 : Int)
  let bound := xs.foldl (fun s x => s + x.2) 0
  min 255 ((n * sq - sum * sum).toNat * 2 ^ 20 / max 1 bound)

/-- The CRR that a quality register states: 0xFF below 64 estimates, else the largest of its figures (R197) (DEDUCED, log entry 26). -/
def crrOf (hist : List CalEst) : Nat :=
  if hist.length < 64 then 255
  else max (crbRatio (hist.map fun e => (e.gain, e.bounds.1)))
    (max (crbRatio (hist.map fun e => (e.phase, e.bounds.2.1))) (crbRatio (hist.map fun e => (e.delay, e.bounds.2.2))))

/-- An estimate joins the last 64. -/
def remember (e : CalEst) (hist : List CalEst) : List CalEst := (e :: hist).take 64

/-- Whether a direction of a path discards an estimate (R201): one of its figures is an outlier. The first is none. -/
def CalDir.discards (c : CalDir) (e : CalEst) (dly : Bool) : Bool :=
  let (bg, bp, bd) := e.bounds
  let far := fun (avg x : Int) (b : Nat) => outlying avg (x * avgScale) (b * 2 ^ 20)
  !c.hist.isEmpty && (far c.gain e.gain bg || far c.phase e.phase bp || (dly && far c.delay e.delay bd))

/-- ρ in 0.5 dB units: the whole steps of 10^(1/20) in it, at most 255. -/
def rhoSteps (rho : Nat) : Nat := (List.range 255).foldl (fun n k => if 10 ^ (k + 1) ≤ rho ^ 20 then k + 1 else n) 0

/-- Whether the averaged residual exceeds RESID_LIMIT / 8 times the figures of Table 1.7: 0.1 degree, 0.01 dB, 1 ps. -/
def Dev.residHigh (d : Dev) (c : CalDir) : Bool :=
  let l : Int := d.fget Reg.CAL_CFG 15 8
  decide (l * 100 * avgScale < 8 * (c.phase.natAbs : Int) ∨ l * 10 * avgScale < 8 * (c.gain.natAbs : Int) ∨
    l * 1000 * avgScale < 8 * (c.delay.natAbs : Int))

/-- The averages of one direction of a path with one more estimate (R201); the first estimate is the average. -/
def CalDir.taken (c : CalDir) (e : CalEst) (dly : Bool) (w now : Nat) : CalDir :=
  let avg := fun (a x : Int) => if c.hist.isEmpty then x * avgScale else average a (x * avgScale) w
  { c with gain := avg c.gain e.gain, phase := avg c.phase e.phase, delay := if dly then avg c.delay e.delay else c.delay
           hist := remember e c.hist, at_ := now }

/-- The quality registers of a direction of a path show its averages and its CRR. -/
def Dev.showQuality (d : Dev) (p : Fin 64) (tx : Bool) : Dev :=
  let c := d.cal.path[p].dir tx
  let a0 := if tx then Reg.CAL_TXQ0 p.val else Reg.CAL_RXQ0 p.val
  let a1 := if tx then Reg.CAL_TXQ1 p.val else Reg.CAL_RXQ1 p.val
  let d := d.wr a0 (((0 : Word).put 31 16 (unsigned 16 (sat16 (c.phase / avgScale)))).put 15 0 (unsigned 16 (sat16 (c.gain / avgScale))))
  d.wr a1 (((0 : Word).put 31 16 (unsigned 16 (sat16 (c.delay / avgScale)))).put 7 0 (crrOf c.hist))

/-- One estimate of a direction of a path enters its average and its quality figures, and then its correction (R201, R209, R214). `dly`
says whether the measurement anchors delay too (R187). An outlier changes nothing (DEDUCED, log entry 26). -/
def Dev.estimate (d : Dev) (p : Fin 64) (tx : Bool) (e : CalEst) (dly : Bool) : Dev :=
  if (d.cal.path[p].dir tx).discards e dly then d
  else
    let w := d.fget Reg.CAL_CFG 3 0
    let d := (d.modCalDir p tx fun c => c.taken e dly w d.time.cycle).showQuality p tx
    let c := d.cal.path[p].dir tx
    let d := d.modCal p fun x => { x with stale := false }
    let high := d.residHigh c
    let d := if c.first && high then d.raise Reg.CAL_EVT 7 else d
    let d := d.modCalDir p tx fun c => { c with first := false, high := if high then c.high + 1 else 0 }
    let f := Reg.CAL_PFLAG p.val
    let d :=
      if !high then d.fset f 28 28 0
      else if (d.cal.path[p].dir tx).high = 8 then
        let d := d.modCalDir p tx fun c => { c with high := 0 }
        ((d.fset f 28 28 1).raise Reg.CAL_EVT 3).report (toSrc (if tx then 64 + p.val else p.val))
      else d
    d.correctPath p tx dly

/-- What a measurement found of its path. -/
def estOf (m : CalMeasure) : CalEst := ⟨m.gain, m.phase, m.delay, m.rho, m.beta⟩

/-- R188: an anchoring measurement less the board's figures for CAL_INt. -/
def Dev.lessRefOfs (d : Dev) (t : Fin 4) (e : CalEst) : CalEst :=
  let a := d.rd (Reg.CAL_REFOFS_A t.val)
  let b := d.rd (Reg.CAL_REFOFS_B t.val)
  { e with gain := e.gain - signed 16 (a.get 15 0), phase := e.phase - signed 16 (a.get 31 16) * 360000 / 65536
           delay := e.delay - signed 32 b.toNat }

/-- Whether delay is anchored: the reference is in wideband mode (R187). -/
def Dev.wideband (d : Dev) : Bool := (d.rd Reg.CAL_REF_CFG).bit 31

/-- REF_MISSING of a tile (R210). -/
def Dev.refMissing (d : Dev) (t : Fin 4) : Bool := (d.rd (Reg.CAL_TQ t.val)).bit 7

/-- A measurement of a route on a tile counts toward alignment at the new word (R204). -/
def Dev.alignSeen (d : Dev) (t : Fin 4) (ref int : Bool) : Dev :=
  let d := d.modTile t fun x => { x with seenRef := x.seenRef || ref, seenInt := x.seenInt || int }
  if d.tiles[t].seenRef && d.tiles[t].seenInt then d.modTile t fun x => { x with phaseUnaligned := false } else d

/-- A ROUTE_REF measurement (R199, R210); under code 0x07 it also measures the arrival of the template (R211)
(DEDUCED, log entry 26). -/
def Dev.measureRef (d : Dev) (t : Fin 4) (m : CalMeasure) : Dev :=
  let a := Reg.CAL_TQ t.val
  let e := d.lessRefOfs t (estOf m)
  let holds7 := match d.portHolder t with | some r => r.code == 7 | none => false
  let d := d.modCalTile t fun c => { c with
    refs := remember e c.refs, arrivals := if holds7 && !m.refLevelLow then remember e c.arrivals else c.arrivals }
  let d := (d.fset a 31 24 (rhoSteps m.rho)).fset a 23 16 (crrOf d.cal.tile[t].refs)
  if m.refLevelLow then (d.fset a 7 7 1).raise Reg.CAL_EVT 4
  else ((d.fset a 7 7 0).estimate m.path false e d.wideband).alignSeen t true false

/-- A ROUTE_RET measurement: the path is anchored and K_n refreshed (R199), with a value that the spec does not state. -/
def Dev.measureRet (d : Dev) (t : Fin 4) (m : CalMeasure) : Dev :=
  if d.refMissing t then d
  else
    let (ws, d) := d.draw 1
    let held := d.calHeld
    let d := d.modCal m.path fun c => { c with anchored := true, anchorAt := d.time.cycle, kn := if held then c.kn else ws.getD 0 0 }
    d.estimate m.path true (d.lessRefOfs t (estOf m)) d.wideband

/-- LO phase alignment of a tile with the stimulus on the standby: the average of the phase of B against A is written to OFS (R75). After
a handover the step that remains, which OFS did not foresee, is recorded, corrected at the next tick and compared with HO_LIMIT. Under
HOLD it is recorded alone (R207). -/
def Dev.measureOfs (d : Dev) (t : Fin 4) (e : CalEst) : Dev :=
  let a := Reg.TILE_SYN_PHASE t.val
  let ofs := signed 16 (d.fget a 15 0)
  let avg := d.cal.tile[t].ofs
  let known := rounded avg == ofs && avg != 0
  let x := e.phase * 65536 * avgScale / 360000
  if known && outlying avg x (e.bounds.2.1 * 65536 * 65536 / (360000 * 360000) * 2 ^ 20) then d
  else
    let avg := if known then average avg x (d.fget Reg.CAL_CFG 3 0) else x
    let d := if d.calHeld then d
      else (d.modCalTile t fun c => { c with ofs := avg }).fset a 15 0 (unsigned 16 (sat16 (rounded avg)))
    if d.tiles[t].hoMeas then
      let step := rounded x - ofs
      let resid := sat16 (if d.tiles[t].act then step else -step)
      let d := (d.modTile t fun x => { x with hoMeas := false }).fset a 31 16 (unsigned 16 resid)
      let d := if d.fget (Reg.TILE_SYN_QCFG t.val) 31 24 < resid.natAbs then d.raise (Reg.TILE_EVT t.val) 5 else d
      if d.calHeld then d else d.commit byFirmware (.word a) [] (unsigned 16 resid)
    else d

/-- An observation capture feeds TX tracking, with GERR of the entry in force as its prior (R84), and the TX and observation-receiver
corrections of Table 7.5. -/
def Dev.measureCapture (d : Dev) (m : CalMeasure) : Dev :=
  let p := m.path
  let k := orxOf p
  let e := (estOf m)
  let d := d.estimate p true { e with gain := e.gain - 2 * signed 8 (d.paths[p].pstep.get 31 24) } true
  let d := d.correctWord (Reg.TILE_CH_TX_LOL (p.val / 16) (p.val % 16)) m.words.head?
  let d := d.correctIq (.tx p) (m.words.drop 1)
  let d := d.correctWord (Reg.TILE_ORX_DC (k.val / 4) (k.val % 4)) (m.words.drop 8).head?
  d.correctIq (.orx k) (m.words.drop 9)

/-- Received samples feed the RX offset and image corrections of Table 7.5. -/
def Dev.measureSamples (d : Dev) (m : CalMeasure) : Dev :=
  (d.correctWord (Reg.TILE_CH_RX_DC (m.path.val / 16) (m.path.val % 16)) m.words.head?).correctIq (.rx m.path) (m.words.drop 1)

/-- Whether a tile measures by a route: background calibration runs, or an on-request one that uses the route holds the port pair
(R198, Table 7.7). -/
def Dev.measures (d : Dev) (t : Fin 4) (route : Nat) : Bool :=
  (d.rd Reg.CAL_CFG).bit 31 ||
    match d.portHolder t with
    | some r => (r.code == 6 && decide (route ≤ 3)) || (r.code == 5 && (route == 1 || route == 3)) || (r.code == 7 && route == 1)
    | none => false

/-- Whether what a measurement needs was there: its route was the last the tile opened, and its path measures there (R190, Table 7.6).
While no path is in service a calibration takes every path (R202). -/
def Dev.measurable (d : Dev) (m : CalMeasure) : Bool :=
  let s := d.paths[m.path]
  let c := d.cal.tile[tileOf m.path]
  match m.route with
  | 0 | 1 | 3 => c.last == some m.route && (s.mode == 1 || !d.anyOnAir)
  | 2 => c.last == some 2 && m.path.val % 16 == c.probed
  | 4 => !d.dpd.orx[orxOf m.path].retired
  | _ => s.mode == 1

/-- A calibration measurement completes (R198 to R214). A route closes to measurement as the next opens (DEDUCED, log entry 26). -/
def Dev.measured (d : Dev) (m : CalMeasure) : Dev :=
  let t := tileOf m.path
  if !d.measures t m.route || !d.measurable m then d
  else
    match m.route with
    | 0 => d.estimate m.path false (estOf m) true
    | 1 => d.measureRef t m
    | 2 => d.measureRet t m
    | 3 => (if d.cal.tile[t].stby then d.measureOfs t (estOf m) else d).alignSeen t false true
    | 4 => d.measureCapture m
    | _ => d.measureSamples m

/-! ### The tick -/

/-- Background TX tracking asks for a capture of its own of an input in Transmit that nothing has captured within STALE_AGE (R27)
(DEDUCED, log entry 84). -/
def Dev.trackTick (d : Dev) : Dev :=
  if !(d.rd Reg.CAL_CFG).bit 31 then d
  else
    let limit := 10 * cyc10ms * max 1 (d.fget Reg.CAL_CFG 7 4)
    let wants := (List.finRange 64).filter fun p =>
      d.paths[p].inTx && !d.dpd.orx[orxOf p].retired && !d.dpd.wantTrack.contains p.val &&
        !d.dpd.capAt.any fun x => x.1 == p.val && decide (d.time.cycle ≤ x.2 + limit)
    { d with dpd := { d.dpd with wantTrack := d.dpd.wantTrack ++ wants.map (·.val) } }

/-- Calibration at a tick: routes, the steps of corrections, and requests for captures. `after` is the device with what lands there. -/
def Dev.calTick (d : Dev) (after : Dev) : Dev :=
  (((List.finRange 4).foldl (fun d t => d.routeTick after t) d).stepAllOwed).trackTick

/-- VREF_EXT is compared with the bandgap (R189): BAD is the result of the most recent comparison. -/
def Dev.vrefCheck (d : Dev) (errPpm : Int) : Dev :=
  let bad := decide (5000 < errPpm.natAbs)
  let d := d.wr Reg.CAL_VREF (((0 : Word).put 31 31 (b2n bad)).put 15 0 (unsigned 16 (sat16 errPpm)))
  if bad then (d.raise Reg.CAL_EVT 5).report 217 else d

/-! ### On-request calibrations (R202, R203) -/

/-- Tiles that a calibration runs on now. -/
def Dev.calBusy (d : Dev) : Nat := d.cal.runs.foldl (fun n r => n ||| r.left) 0

/-- A calibration of one synthesizer begins (Table 7.7, code 0x01): it is not LO-qualified while it runs (R71). -/
def Dev.calSyn (d : Dev) (t : Fin 4) (b : Bool) : Dev :=
  d.modTile t fun x => x.modSyn b fun s => if s.run then { s with qual := false, ld := false, busy := .cold } else s

/-- A calibration starts on its tiles. Code 0x01 takes a standby synthesizer at once; on a tile with a scheduled transmit that of the
active one is deferred (R71, R203). -/
def Dev.startCal (d : Dev) (r : CalReq) : Dev :=
  let ts := (List.finRange 4).filter fun t => r.mask.testBit t.val
  let late := if r.code = 1 then ts.filter d.txScheduled else []
  let defer := late.foldl (fun n t => n + 2 ^ t.val) 0
  let d := { d with cal := { d.cal with runs := d.cal.runs ++ [{ r with deferred := defer, at_ := d.time.cycle }] } }
  let d := if r.code = 1 then
      ts.foldl (fun d t =>
        let d := d.calSyn t (!d.tiles[t].act)
        if late.contains t then d else d.calSyn t d.tiles[t].act) d
    else d
  let d := if r.code = 7 then ts.foldl (fun d t => d.modCalTile t fun c => { c with arrivals := [] }) d else d
  if late.isEmpty then d else d.raise Reg.CAL_EVT 2

/-- Queued requests whose tiles have become free start, in arrival order. -/
def Dev.startQueued (d : Dev) : Dev :=
  d.cal.queue.foldl (fun d r =>
    match d.cal.queue with
    | h :: rest =>
      if h == r && d.calBusy &&& h.mask == 0 then ({ d with cal := { d.cal with queue := rest } }).startCal h else d
    | [] => d) d

/-- A request for a calibration (R203): none where it is refused for lack of room in the queue. -/
def Dev.requestCal (d : Dev) (code mask : Nat) (cmd : Option Nat) : Option Dev :=
  let r : CalReq := { code := code, mask := mask, left := mask, deferred := 0, cmd := cmd, terr := 0, at_ := 0 }
  if d.cal.queue.isEmpty && d.calBusy &&& mask == 0 then some (d.startCal r)
  else if d.cal.queue.length < 4 then some { d with cal := { d.cal with queue := d.cal.queue ++ [r] } }
  else none

/-- An idle-class correction waits for its unit (R206). -/
def Dev.addIdle (d : Dev) (x : IdleItem) : Dev := { d with cal := { d.cal with idle := d.cal.idle ++ [x] } }

/-- Fresh trims of one converter pair of a tile. -/
def Dev.convIdle (d : Dev) (t : Fin 4) (j : Nat) : Dev :=
  let (ws, d) := d.draw 2
  d.addIdle { kind := 2, index := 34 * t.val + j, codes := [], restore := false,
              words := [(Reg.TILE_CONV_TRIM_A t j, ws.getD 0 0), (Reg.TILE_CONV_TRIM_B t j, BitVec.ofNat 32 ((ws.getD 1 0).get 15 0))] }

/-- The corrections that a finished calibration leaves on a tile (Table 7.7). Values that the spec does not state are free
(DESIGN CHOICE, log entry 27). Converters get no new trims while the voltage reference is bad (R189), a tile whose reference is missing
is not anchored (R210), and no blended correction enters while the host owns them (R207). -/
def Dev.calResult (d : Dev) (code : Nat) (t : Fin 4) : Dev :=
  match code with
  | 1 => [false, true].foldl (fun d b =>
      if (d.tiles[t].syn b).retired then d
      else d.addIdle { kind := 0, index := 2 * t.val + b2n b, words := [], codes := [], restore := false }) d
  | 2 => (pathsOf t).foldl (fun d p =>
      let (ws, d) := d.draw 1
      d.addIdle { kind := 1, index := p.val, words := [], codes := [(0, ws.getD 0 0)], restore := false }) d
  | 3 => (pathsOf t).foldl (fun d p =>
      let (ws, d) := d.draw 1
      d.addIdle { kind := 1, index := p.val, words := [], codes := [(1, ws.getD 0 0)], restore := false }) d
  | 4 => if d.vrefGood then (List.range 34).foldl (fun d j => d.convIdle t j) d else d
  | 5 =>
    let d := (pathsOf t).foldl (fun d p => d.correctPath p false d.wideband) d
    if d.refMissing t then d else d.alignSeen t true true
  | 6 =>
    let d := (pathsOf t).foldl (fun d p => (d.correctPath p false d.wideband).correctPath p true d.wideband) d
    if d.refMissing t then d
    else
      let held := d.calHeld
      let d := (pathsOf t).foldl (fun d p =>
        let (ws, d) := d.draw 1
        d.modCal p fun c => { c with anchored := true, anchorAt := d.time.cycle, kn := if held then c.kn else ws.getD 0 0 }) d
      d.alignSeen t true true
  | _ => if d.refMissing t then d else (pathsOf t).foldl (fun d p => d.correctPath p false d.wideband) d

/-- CAL_DLY of every path is owed −TERR, in both directions (R205, R211); at once where no tick runs. -/
def Dev.applyTerr (d : Dev) (terr : Int) : Dev :=
  if d.calHeld then d
  else
    let units := -(dlyUnits terr)
    (List.finRange 64).foldl (fun d p => [false, true].foldl (fun d tx =>
      let d := d.modCalDir p tx fun c => { c with owedTerr := c.owedTerr + units }
      if d.ticking then d else d.stepOwed p tx) d) d

/-- The end of code 0x07 on all its tiles (R211): TERR is the average of the tiles' errors, and its CRR the largest of theirs
(DEDUCED, log entry 31). -/
def Dev.interDevice (d : Dev) (r : CalReq) : Dev :=
  let ts := (List.finRange 4).filter fun t => r.mask.testBit t.val
  let crr := ts.foldl (fun (n : Nat) (t : Fin 4) =>
    let l := d.cal.tile[t].arrivals
    max n (if l.length < 64 then 255 else crbRatio (l.map fun e => (e.delay, e.bounds.2.2)))) 0
  let terr := r.terr / (max 1 ts.length : Nat)
  let d := (d.wr Reg.CAL_DEVQ_TERR (BitVec.ofNat 32 (unsigned 32 terr))).wr Reg.CAL_DEVQ_STAT (BitVec.ofNat 32 crr)
  if terr.natAbs ≤ 500000 then d.applyTerr terr else d.raise Reg.CAL_EVT 9

/-- An on-request calibration completes on a tile (R202). -/
def Dev.calDone (d : Dev) (t : Fin 4) (terrFs : Int) : Dev :=
  match d.cal.runs.find? fun r => r.left.testBit t.val && !r.deferred.testBit t.val with
  | none => d
  | some r =>
    let d := d.calResult r.code t
    let d := if d.cal.restore.isSome then { d with cal := { d.cal with mixed := d.cal.mixed ++ [(r.code, t)] } } else d
    let r' := { r with
      left := r.left - 2 ^ t.val, terr := r.terr + (terrFs - signed 32 (d.rd (Reg.CAL_REFOFS_B t.val)).toNat) }
    let d := { d with cal := { d.cal with runs := d.cal.runs.map fun x => if x == r then r' else x } }
    if r'.left ≠ 0 then d
    else
      let d := { d with cal := { d.cal with runs := d.cal.runs.filter (· != r') } }
      let d := if r.code = 7 then d.interDevice r' else d
      ((d.raise Reg.CAL_EVT 0).endCmd r.cmd 0 [0]).startQueued

/-- A running calibration ends before its tiles are done (R203, R316). -/
def Dev.abortCal (d : Dev) (r : CalReq) : Dev :=
  let d := { d with cal := { d.cal with runs := d.cal.runs.filter (· != r) } }
  let d := (d.fset Reg.CAL_STATUS 19 16 r.left).raise Reg.CAL_EVT 1
  (d.endCmd r.cmd 0x31 [BitVec.ofNat 32 r.left]).startQueued

/-- A calibration that needs released symbols ends once it has not completed within TIMEOUT, in units of 0.1 s; 0 acts as 1 (R203). -/
def Dev.calTimeout (d : Dev) (t : Fin 4) : Dev :=
  match d.portHolder t with
  | none => d
  | some r => if d.time.cycle < r.at_ + 10 * cyc10ms * max 1 (d.fget Reg.CAL_CFG 23 16) then d else d.abortCal r

/-- CAL_STATUS as its units stand: CODE and TILES are those of the calibration that has run longest (DEDUCED, log entry 25). -/
def Dev.calStatus (d : Dev) : Word :=
  let r := d.cal.runs.head?
  ((((((((d.rd Reg.CAL_STATUS).put 31 31 (b2n r.isSome)).put 30 28 d.cal.queue.length).put 27 24
    (match r with | some r => r.code | none => 0)).put 23 20 (match r with | some r => r.mask | none => 0)).put 15 15
    (b2n d.cal.snap.isSome)).put 14 14 (b2n d.cal.restore.isSome)).put 13 8 0).put 7 0 (min 255 d.cal.idle.length)

/-- RX_AGE or TX_AGE of a path, 10 ms units, saturating. -/
def Dev.estAge (d : Dev) (p : Fin 64) (tx : Bool) : Nat := min 255 ((d.time.cycle - (d.cal.path[p].dir tx).at_) / cyc10ms)

/-- Whether an age exceeds STALE_AGE. -/
def Dev.estStale (d : Dev) (p : Fin 64) (tx : Bool) : Bool :=
  decide (10 * max 1 (d.fget Reg.CAL_CFG 7 4) < d.estAge p tx)

/-- CAL_CONVQp and CAL_PFLAGp as read. -/
def Dev.convq (d : Dev) (p : Fin 64) : Word := ((d.rd (Reg.CAL_CONVQ p.val)).put 15 8 (d.estAge p false)).put 7 0 (d.estAge p true)

/-- CAL_PFLAGp as read. -/
def Dev.pflag (d : Dev) (p : Fin 64) : Word :=
  ((((d.rd (Reg.CAL_PFLAG p.val)).put 31 31 (b2n !d.cal.path[p].anchored)).put 30 30 (b2n (d.estStale p false))).put 29 29
    (b2n (d.estStale p true))).put 15 0 (min 65535 ((d.time.cycle - d.cal.path[p].anchorAt) / (10 * cyc10ms)))

/-! ### Idle-class corrections (R206) -/

/-- Whether a path is idle throughout the symbol of this tick (R206). -/
def Dev.pathIdle (d : Dev) (p : Fin 64) : Bool := d.paths[p].mode == 0 && d.paths[p].transit.isNone

/-- Whether a converter pair (index as TILE_CONV_TRIMj) is out of service in rotation (R206). -/
def Dev.convOut (d : Dev) (t : Fin 4) (j : Nat) : Bool :=
  let r := d.relief[t].pair (decide (17 ≤ j))
  r.calibrating && r.path == j % 17

/-- Whether the unit of an idle-class correction is idle at this seam midpoint. A DAC's static codes enter in its out-of-service time
too (Table 7.7). Converter calibrations hold while the voltage reference is bad; a restore does not (R189). -/
def Dev.idleNow (d : Dev) (x : IdleItem) : Bool :=
  match x.kind with
  | 0 =>
    let t := toTile (x.index / 2)
    d.tiles[t].act != (x.index % 2 == 1) || d.idleWindow t
  | 1 =>
    d.pathIdle (toPath x.index) ||
      (x.codes.all (fun c => c.1 == 1) && d.convOut (tileOf (toPath x.index)) (17 + x.index % 16))
  | _ => d.convOut (toTile (x.index / 34)) (x.index % 34) && (x.restore || d.vrefGood)

/-- An idle-class correction lands: register words, codes, or a stored band found afresh (free values). -/
def Dev.landIdle (d : Dev) (x : IdleItem) : Dev :=
  let d := x.words.foldl (fun d (a, w) => d.wr a (w &&& implMask a)) d
  let d := x.codes.foldl (fun d (k, w) =>
    d.modCal (toPath x.index) fun c => if k = 0 then { c with filt := w } else { c with dac := w }) d
  if x.kind = 0 && !x.restore then
    let t := toTile (x.index / 2)
    let b := x.index % 2 == 1
    let n := d.freeCtr
    let s := d.tiles[t].syn b
    let w := wordNum s.int s.frac
    let band : Band := { code := Config.freeNat n % 256, word := w, temp := d.tileTemp t, lo := w - Config.freeNat (n + 1),
                         hi := w + Config.freeNat (n + 2) }
    ({ d with freeCtr := n + 3 }).modTile t fun y => y.modSyn b fun s => { s with band := some band }
  else d

/-- A calibration that no longer waits on a tile. -/
def CalReq.undefer (t : Fin 4) (r : CalReq) : CalReq :=
  if r.deferred.testBit t.val then { r with deferred := r.deferred - 2 ^ t.val } else r

/-- Every idle-class correction whose unit is idle lands at a seam midpoint; calibrations deferred to an idle window begin
on their tiles (R71). -/
def Dev.idleMidpoint (d : Dev) : Dev :=
  let items := d.cal.idle
  let d := { d with cal := { d.cal with idle := [] } }
  let d := items.foldl (fun d x =>
    if d.idleNow x then d.landIdle x else d.addIdle x) d
  (List.finRange 4).foldl (fun d t =>
    if (d.cal.runs.any fun r => r.deferred.testBit t.val) && d.idleWindow t then
      let runs := d.cal.runs.map (CalReq.undefer t)
      ({ d with cal := { d.cal with runs := runs } }).calSyn t d.tiles[t].act
    else d) d

/-! ### Snapshot (R212) -/

/-- The bytes of a number, least significant first. -/
def leN : Nat → Nat → List Byte
  | 0, _ => []
  | k + 1, n => BitVec.ofNat 8 n :: leN k (n / 256)

/-- A number from bytes, least significant first. -/
def ofLe : List Byte → Nat
  | [] => 0
  | b :: bs => b.toNat + 256 * ofLe bs

/-- A snapshot section: its header and its data words (R212). -/
def section_ (type index : Nat) (ws : List Word) : List Byte :=
  leN 2 type ++ leN 2 index ++ leN 4 (4 * ws.length) ++ ws.flatMap leBytes

/-- A number as words, least significant first. -/
def wordsOf (k n : Nat) : List Word := (List.range k).map fun i => BitVec.ofNat 32 (n / 2 ^ (32 * i))

/-- A stored band as nine words: present, code, temperature, word, track range (DESIGN CHOICE, log entry 28). -/
def bandWords : Option Band → List Word
  | none => List.replicate 9 0
  | some b => [1, BitVec.ofNat 32 b.code, BitVec.ofNat 32 (unsigned 32 b.temp)] ++ wordsOf 2 b.word ++ wordsOf 2 b.lo ++ wordsOf 2 b.hi

/-- A stored band from its words. -/
def bandOf (ws : List Word) : Option Band :=
  let n := fun i => (ws.getD i 0).toNat
  if n 0 = 0 then none
  else some { code := n 1, temp := signed 32 (n 2), word := n 3 + 2 ^ 32 * n 4, lo := n 5 + 2 ^ 32 * n 6, hi := n 7 + 2 ^ 32 * n 8 }

/-- Section 0x0001 of a tile: words of A and B, roles (R518), stored bands, OFS (DESIGN CHOICE, log entry 28). -/
def Dev.synSection (d : Dev) (t : Fin 4) : List Word :=
  let x := d.tiles[t]
  [x.synA.int, x.synA.frac, x.synB.int, x.synB.frac, d.rd (Reg.TILE_SYN_CTRL t.val)] ++ bandWords x.synA.band ++ bandWords x.synB.band ++
    [BitVec.ofNat 32 (d.fget (Reg.TILE_SYN_PHASE t.val) 15 0)]

/-- The registers of the sections that hold registers, in register order (Table 7.10). -/
def snapRegs (type : Nat) : List Nat :=
  let paths := List.range 64
  match type with
  | 2 => paths.flatMap fun p => (List.range 4).map (Reg.CAL_TRIM_TX p) ++ (List.range 4).map (Reg.CAL_TRIM_RX p)
  | 3 => paths.flatMap fun p => [Reg.TILE_CH_DLY_HOST (p / 16) (p % 16), Reg.TILE_CH_DLY_CAL (p / 16) (p % 16)]
  | 4 => paths.flatMap fun p => [Reg.TILE_CH_RX_DC (p / 16) (p % 16), Reg.TILE_CH_TX_LOL (p / 16) (p % 16)] ++
      (List.range 7).map (fun j => Reg.TILE_CH_RX_IQ (p / 16) j (p % 16)) ++ (List.range 7).map (fun j => Reg.TILE_CH_TX_IQ (p / 16) j (p % 16))
  | 5 => (List.range 16).flatMap fun k => Reg.TILE_ORX_DC (k / 4) (k % 4) :: (List.range 7).map fun j => Reg.TILE_ORX_IQ (k / 4) j (k % 4)
  | 6 => (List.range 4).flatMap fun t => (List.range 34).flatMap fun j => [Reg.TILE_CONV_TRIM_A t j, Reg.TILE_CONV_TRIM_B t j]
  | 8 => ((List.range 4).flatMap fun t => [Reg.CAL_REFOFS_A t, Reg.CAL_REFOFS_B t]) ++
      paths.flatMap fun n => [Reg.CAL_BRANCH_A n, Reg.CAL_BRANCH_B n]
  | 9 => (List.range 4).map Reg.CAL_TQ ++ paths.flatMap fun p =>
      [Reg.CAL_RXQ0 p, Reg.CAL_RXQ1 p, Reg.CAL_TXQ0 p, Reg.CAL_TXQ1 p, Reg.CAL_CONVQ p, Reg.CAL_PFLAG p]
  | 10 => [Reg.CAL_CFG, Reg.CAL_REF_CFG, Reg.CAL_STIM, Reg.CAL_QMAP_CFG] ++ (List.range 70).map Reg.CAL_QMAP ++
      (List.range 4096).map Reg.CAL_REFTPL
  | _ => []

/-- Codes that a path holds without a register, as words (DESIGN CHOICE, log entry 28). -/
def Dev.pathCodes (d : Dev) : List Word := (List.finRange 64).flatMap fun p => [d.cal.path[p].filt, d.cal.path[p].dac]

/-- The data of a section, of the values in force (DESIGN CHOICE, log entry 28). -/
def Dev.snapData (d : Dev) (type : Nat) : List Word :=
  (snapRegs type).map (fun a => if type = 9 then d.rd a else d.eff a) ++
    (if type = 5 then (List.finRange 64).map fun p => d.cal.path[p].kn else if type = 7 then d.pathCodes else [])

/-- The sections of a snapshot, in the order of Table 7.10. -/
def Dev.snapSections (d : Dev) : List Byte :=
  ((List.finRange 4).flatMap fun t => section_ 1 t.val (d.synSection t)) ++
    ([2, 3, 4, 5, 6, 7, 8, 9, 10].flatMap fun k => section_ k 0xFFFF (d.snapData k))

/-- A temperature in 0.01 °C units. -/
def centi (x : Int) : Int := x * 25 / 2

/-- The snapshot image of the values in force (R212, Table 7.9). -/
def Dev.snapImage (d : Dev) : List Byte :=
  let body := d.snapSections
  let anchored := (List.finRange 64).all fun p => d.paths[p].retired || d.cal.path[p].anchored
  let loaded := (snapRegs 8).any fun a => d.rd a != regReset a
  let head := leN 4 0x43414C31 ++ leN 2 1 ++ leN 2 13 ++ leN 4 (64 + body.length + 4) ++ leBytes d.sec.fw ++
    leN 8 Config.siliconId.toNat ++ leN 8 (sampTime d.cad.nom / fracScale) ++ leBytes (d.rd Reg.TIME_EPOCH) ++
    leN 2 (d.fget Reg.TIME_JOIN 8 0) ++ leN 2 (b2n d.wideband + 2 * b2n anchored + 4 * b2n loaded) ++
    ((List.finRange 6).flatMap fun i => leN 2 (unsigned 16 (centi d.sump.sensors[i].meas))) ++ leN 8 0
  head ++ leBytes (crc32c head) ++ body ++ leBytes (crc32c body)

/-- At a tick: a snapshot that waits takes its image (R212). -/
def Dev.snapTick (d : Dev) : Dev :=
  match d.cal.snap with
  | some s =>
    if s.image.isNone && decide (s.at_ < d.cad.tickIdx) then { d with cal := { d.cal with snap := some { s with image := some d.snapImage } } }
    else d
  | none => d

/-- Where a snapshot image goes: an MRAM slot, or a bus address (R318). -/
def Snapshot.base (s : Snapshot) : Nat := if s.mram then slotAddr s.dest 0 else s.dest

/-- A snapshot finishes writing its image (R212). -/
def snapshotDone (d : Dev) (m : Mem) : Dev × Mem :=
  match d.cal.snap with
  | none => (d, m)
  | some s =>
    let img := s.image.getD d.snapImage
    let d := ({ d with cal := { d.cal with snap := none } }).raise Reg.CAL_EVT 8
    (d.endCmd s.cmd 0 [BitVec.ofNat 32 img.length], Mem.setBytes m s.base img)

/-! ### Restore (R213) -/

/-- The sections of an image body: type, index and data words, as far as they are well formed. -/
def sectionsOf : Nat → List Byte → List (Nat × Nat × List Word)
  | 0, _ => []
  | k + 1, bs =>
    let n := ofLe ((bs.drop 4).take 4)
    let rest := bs.drop 8
    if bs.length < 8 ∨ rest.length < n then []
    else (ofLe (bs.take 2), ofLe ((bs.drop 2).take 2), (beWords (rest.take n).reverse).reverse) :: sectionsOf k (rest.drop n)

/-- Whether an image is accepted (R213): both CRCs, MAGIC and FORMAT, SILICON_ID. -/
def imageAccepted (img : List Byte) : Bool :=
  let len := ofLe ((img.drop 8).take 4)
  decide (68 ≤ len ∧ len ≤ img.length) &&
    ofLe (img.take 4) == 0x43414C31 && ofLe ((img.drop 4).take 2) == 1 &&
    ofLe ((img.drop 0x3C).take 4) == (crc32c (img.take 0x3C)).toNat &&
    ofLe ((img.drop (len - 4)).take 4) == (crc32c ((img.drop 64).take (len - 68))).toNat &&
    ofLe ((img.drop 0x10).take 8) == Config.siliconId.toNat

/-- Blended register values of a section land together at one tick: each word is committed at `land`, an IQ set as one. -/
def Dev.restoreBlended (d : Dev) (c : Committer) (land type : Nat) (ws : List Word) : Dev :=
  let d := ((snapRegs type).zip ws).foldl (fun d (a, w) =>
    let d := d.wr a (w &&& implMask a)
    match iqOf a with
    | some (s, _) => d.unstage s
    | none => d.commitAt c (.word a) [(a, w, tickMask a)] land 0) d
  let sets := ((snapRegs type).filterMap fun a => match iqOf a with | some (s, 0) => some s | _ => none)
  sets.foldl (fun d s => d.commitAt c (.iqSet s) ((List.range 7).map fun j => (iqTap s j, d.rd (iqTap s j), wholeWord)) land 0) d

/-- A synthesizer section: band store and OFS where the words match; otherwise it is skipped (R213). `seed` marks the bands
of a die whose temperature has moved invalid. -/
def Dev.restoreSyn (d : Dev) (t : Fin 4) (ws : List Word) (seed : Bool) : Dev :=
  let x := d.tiles[t]
  if ws.take 4 = [x.synA.int, x.synA.frac, x.synB.int, x.synB.frac] then
    let band := fun k => if seed then none else bandOf (ws.drop k)
    (d.modTile t fun x => { x with synA := { x.synA with band := band 5 }, synB := { x.synB with band := band 14 } }).fset
      (Reg.TILE_SYN_PHASE t.val) 15 0 (ws.getD 23 0).toNat
  else d.unalign t

/-- Registers take the words of a section; reserved bits stay 0 (R11). -/
def Dev.sectionWords (d : Dev) (l : List (Nat × Word)) : Dev := l.foldl (fun d (a, w) => d.wr a (w &&& implMask a)) d

/-- One section of an accepted image (Table 7.10). -/
def Dev.restoreSection (d : Dev) (c : Committer) (land : Nat) (seed : Nat → Bool) (s : Nat × Nat × List Word) : Dev :=
  let (type, index, ws) := s
  match type with
  | 1 => if index < 4 then d.restoreSyn (toTile index) ws (seed (index + 1)) else d
  | 5 =>
    let d := d.restoreBlended c land 5 ws
    (List.finRange 64).foldl (fun d p => d.modCal p fun x => { x with kn := ws.getD (128 + p.val) x.kn }) d
  | 6 => (List.range 136).foldl (fun d i =>
      d.addIdle { kind := 2, index := i, codes := [], restore := true,
                  words := [(Reg.TILE_CONV_TRIM_A (i / 34) (i % 34), ws.getD (2 * i) 0), (Reg.TILE_CONV_TRIM_B (i / 34) (i % 34), ws.getD (2 * i + 1) 0)] }) d
  | 7 => (List.range 64).foldl (fun d p =>
      d.addIdle { kind := 1, index := p, words := [], codes := [(0, ws.getD (2 * p) 0), (1, ws.getD (2 * p + 1) 0)], restore := true }) d
  | 8 => d.sectionWords ((snapRegs 8).zip ws)
  | 9 =>
    let d := d.sectionWords ((snapRegs 9).zip ws)
    (List.finRange 64).foldl (fun d p => d.modCal p fun x => { x with stale := true }) d
  | 10 =>
    let l : List (Nat × Word) := (snapRegs 10).zip ws
    let d := d.sectionWords l
    let map := l.filter fun (x : Nat × Word) => decide (Reg.CAL_QMAP_CFG ≤ x.1 ∧ x.1 < Reg.CAL_BRANCH_A 0)
    let d := { d with staged := map.foldl (fun s (x : Nat × Word) => mapDel s x.1) d.staged }
    d.commitFrame c .quietMap (map.map fun (x : Nat × Word) => (x.1, x.2, wholeWord))
  | _ => if type = 2 ∨ type = 3 ∨ type = 4 then d.restoreBlended c land type ws else d

/-- Whether a section of an accepted image is restored: a synthesizer section only on a tile whose words match (R213). -/
def Dev.sectionApplies (d : Dev) (s : Nat × Nat × List Word) : Bool :=
  let (type, index, ws) := s
  if type = 1 then
    let x := d.tiles[toTile index]
    decide (index < 4) && ws.take 4 == [x.synA.int, x.synA.frac, x.synB.int, x.synB.frac]
  else decide (2 ≤ type ∧ type ≤ 10)

/-- Restores an accepted image (R213). Every path's next residual is the first after the restore (R214), and no path is
anchored until it has been anchored once since (R199). -/
def Dev.restoreImage (d : Dev) (cmd : Option Nat) (img : List Byte) : Dev :=
  let len := ofLe ((img.drop 8).take 4)
  let temp := fun (i : Nat) => signed 16 (ofLe ((img.drop (0x28 + 2 * i)).take 2))
  let seed := fun (i : Nat) => match d.sump.sensors.toList[i]? with
    | some s => decide (2000 < (centi s.meas - temp i).natAbs)
    | none => false
  let land := d.nextLanding
  let ss := sectionsOf 64 ((img.drop 64).take (len - 68))
  let d := { d with cal := { d.cal with restore := some cmd, restoreLand := land, restoreN := ss.countP fun s => d.sectionApplies s } }
  let d := ss.foldl (fun d s => d.restoreSection ⟨1, none⟩ land seed s) d
  (List.finRange 64).foldl (fun d p => d.modCal p fun c => { c with
    anchored := false, rx := { c.rx with first := true, hist := [] }, tx := { c.tx with first := true, hist := [] } }) d

/-- Every restored value has entered (R213): RESTORE_BUSY falls, and the command completes. Corrections of a calibration of the
same tiles that overlapped the restore keep either value (Table 11.7): a free one. -/
def Dev.restoreDone (d : Dev) : Dev :=
  match d.cal.restore with
  | none => d
  | some cmd =>
    if d.cal.idle.any (·.restore) || (d.cad.running && decide (d.cad.tickIdx < d.cal.restoreLand)) then d
    else
      let d := d.cal.mixed.foldl (fun d (x : Nat × Fin 4) => d.calResult x.1 x.2) d
      ({ d with cal := { d.cal with restore := none, mixed := [] } }).endCmd cmd 0 [BitVec.ofNat 32 d.cal.restoreN]

/-! ### The quiet map (R195) -/

/-- A write of CAL_QMAP_CFG commits the staged words with it, landing at the first frame boundary whose cutoff it meets. The words of an
earlier commit that has not landed go with it: they have been staged, and nothing has been written over them. -/
def Dev.commitQuietMap (d : Dev) (c : Committer) (w : Word) : Dev :=
  let waiting := (d.cad.changes.filter fun (x : Change) => x.key == .quietMap).foldl
    (fun ws (x : Change) => x.words.foldl (fun m (y : Nat × Word × Word) => mapSet m y.1 y.2.1) ws) []
  let words := (List.range 70).filterMap fun i =>
    let a := Reg.CAL_QMAP i
    match mapGet d.staged a with
    | some v => some (a, v)
    | none => (mapGet waiting a).map fun v => (a, v)
  let d := words.foldl (fun d (a, v) => { d.wr a v with staged := mapDel d.staged a }) d
  let a := Reg.CAL_QMAP_CFG
  let d := d.wr a (w &&& tickMask a)
  d.commitFrame c .quietMap ((a, w &&& tickMask a, wholeWord) :: words.map fun (b, v) => (b, v, wholeWord))

end Sys2Proof.Machine
end

