-- ==== Sys2Proof/Machine/Bias.lean ====
section
/-!
DEFINITION. The Coruf bias die (chapter 13): spans and codes, span changes, forcing conditions and their release, current
limit, output test, the quiescent-current loop, trips and PAOFF_N.
-/

namespace Sys2Proof.Machine

/-- `d` with a bias output changed. -/
def Dev.modOut (d : Dev) (n : Fin 96) (f : BiasOut → BiasOut) : Dev :=
  { d with bias := { d.bias with out := d.bias.out.set n (f d.bias.out[n]) } }

/-- An output from a number. -/
def toOut (n : Nat) : Fin 96 := ⟨n % 96, by omega⟩

/-- The safe code of a span (Table 13.1). -/
def safeCode (span : Nat) : Nat := if span = 2 then 2048 else 0

/-- Both codes at a span's safe code, as a CODE word. -/
def safeWord (span : Nat) : Word := ((0 : Word).put 27 16 (safeCode span)).put 11 0 (safeCode span)

/-- A span code as the die takes it: 3 acts as 0. -/
def spanOf (n : Nat) : Nat := if n = 3 then 0 else n

/-- FOLLOW and PATH of an output, in force. -/
def Dev.outFollow (d : Dev) (n : Fin 96) : Nat := (d.inf (Reg.BIAS_OUT_CFG n.val)).get 29 28

/-- The path that an output names. -/
def Dev.outPath (d : Dev) (n : Fin 96) : Fin 64 := toPath ((d.inf (Reg.BIAS_OUT_CFG n.val)).get 21 16)

/-- The state of a path as the outputs follow it: the one it is in or, from the midpoint on which it begins, the one it goes
to (R354). -/
def PathSt.towards (s : PathSt) : Nat := s.transit.getD s.mode

/-- Whether the ON code of an output applies (R354). -/
def Dev.onApplies (d : Dev) (n : Fin 96) : Bool :=
  let m := d.paths[d.outPath n].towards
  match d.outFollow n with
  | 0 => true
  | 1 => m == 2
  | 2 => m == 1
  | _ => m == 1 || m == 2

/-- Whether the die is at CRIT. -/
def Dev.corufCrit (d : Dev) : Bool := (d.sump.sensors[5]).atCrit

/-- Whether a trip bit of a channel is set. -/
def Dev.tripBit (d : Dev) (p : Nat) : Bool := (d.rd (if p < 32 then Reg.BIAS_TRIP_LO else Reg.BIAS_TRIP_HI)).bit (p % 32)

/-- Whether the die drives PAOFF_N low (R364). -/
def Dev.paoffOut (d : Dev) : Bool :=
  (d.rd Reg.BIAS_CFG).bit 0 || !(d.bias.vbp && d.bias.vbn && d.bias.vbio) || d.bias.wdHold || d.corufCrit ||
    ((d.rd Reg.BIAS_CFG).bit 1 && (d.rd Reg.BIAS_TRIP_LO != 0 || d.rd Reg.BIAS_TRIP_HI != 0))

/-- The level of PAOFF_N: low whenever VBIO is absent (R365). -/
def Dev.paoffIn (d : Dev) : Bool := d.bias.vbio && !d.paoffOut && !d.bias.extLow

/-- Whether any condition of Table 13.3 covers an output (R367), the output test apart. -/
def Dev.forced (d : Dev) (n : Fin 96) : Bool :=
  let o := d.bias.out[n]
  d.bias.wdHold || d.bias.railHold || d.bias.critHold || o.hold368 || o.trip.isSome || o.ext ||
    (d.outFollow n != 0 && d.bias.tileHold.testBit (tileOf (d.outPath n)).val)

/-- SAFE: held at the safe value (R367). -/
def Dev.isSafe (d : Dev) (n : Fin 96) : Bool := d.forced n || d.bias.test == some n.val

/-- The code that an output drives: the safe code while it is held or while a span change clamps it. -/
def Dev.driven (d : Dev) (n : Fin 96) : Nat :=
  let o := d.bias.out[n]
  if d.isSafe n || o.seq != 0 then safeCode o.span
  else if d.onApplies n then (d.inf (Reg.BIAS_OUT_CODE n.val)).get 27 16 else (d.inf (Reg.BIAS_OUT_CODE n.val)).get 11 0

/-! ### Output levels (R353, R523) -/

/-- The voltage of a code in a span, in mV (Table 13.1). -/
def spanMv (span code : Nat) : Int :=
  match span with
  | 0 => -8192 + 2 * code
  | 1 => code
  | _ => -4096 + 2 * code

/-- The number that a free choice takes between two bounds. -/
def between (lo hi : Int) (n : Nat) : Int := lo + (n % ((hi - lo).toNat + 1) : Nat)

/-- The level of an output in mV (R353): that of the code it drives or, where the rails present do not reach it, an open level
within the bounds of R523 (DESIGN CHOICE, log entry 85). -/
def Dev.level (d : Dev) (n : Fin 96) : Int :=
  let o := d.bias.out[n]
  let free := Config.freeNat o.lossDraw
  match o.span with
  | 0 => if d.bias.vbn then spanMv 0 (d.driven n) else between (-8192) 0 free
  | 1 => if d.bias.vbp then spanMv 1 (d.driven n) else between (min 0 o.before) (max 0 o.before) free
  | _ => if d.bias.vbn then spanMv 2 (d.driven n) else between (-4096) 4094 free

/-! ### Codes and spans (R355 to R357) -/

/-- The codes of an output in force become a word; the register follows unless a later commit of it waits. -/
def Dev.setCodes (d : Dev) (n : Fin 96) (w : Word) : Dev :=
  let a := Reg.BIAS_OUT_CODE n.val
  let d := d.setInf a w wholeWord
  if d.cad.changes.any fun c => c.key == .biasCode n then d else d.wr a (d.inf a)

/-- A code commit lands (R355, R357): lost while the link is down (R524), taken at the end of a running span change. -/
def Dev.landCode (d : Dev) (n : Fin 96) (w : Word) : Dev :=
  if !d.bias.linkUp then d
  else if d.bias.out[n].seq ≠ 0 then d.modOut n fun o => { o with pendCode := some w }
  else (d.setInf (Reg.BIAS_OUT_CODE n.val) w wholeWord).modOut n fun o => { o with wait := false, hold368 := false }

/-- The command that asked for a change is answered REFUSED_STATE once all its changes are settled. -/
def Dev.refuseCmd (d : Dev) (id : Option Nat) : Dev :=
  match id with
  | none => d
  | some i => { d with drunas := { d.drunas with cmds := d.drunas.cmds.map fun c => if c.id = i then { c with refused := true } else c } }

/-- A span is judged against the span in force (R356). -/
def Dev.judgeSpan (d : Dev) (n : Fin 96) (s : Nat) (cmd : Option Nat) : Dev :=
  let o := d.bias.out[n]
  let a := Reg.BIAS_OUT_CFG n.val
  if s = o.span then d
  else if d.paths[d.outPath n].towards = 2 ∧ (d.outFollow n = 1 ∨ d.outFollow n = 3) then
    let d := d.setInf a ((0 : Word).put 31 30 o.span) ((0 : Word).put 31 30 3)
    let d := if d.cad.changes.any fun c => c.key == .biasSpan n then d else d.fset a 31 30 o.span
    (d.raise Reg.BIAS_EVT 1).refuseCmd cmd
  else d.modOut n fun o => { o with seq := 1, seqTo := s }

/-- A span commit lands (R356): lost while the link is down (R524), kept until a running span change ends. -/
def Dev.landSpan (d : Dev) (n : Fin 96) (code : Nat) (cmd : Option Nat) : Dev :=
  if !d.bias.linkUp then d
  else if d.bias.out[n].seq ≠ 0 then d.modOut n fun o => { o with pendSpan := some (spanOf code, cmd) }
  else d.judgeSpan n (spanOf code) cmd

/-- Step 2 of Table 13.2: the string switches span. -/
def Dev.spanSwitched (d : Dev) (n : Fin 96) : Dev :=
  d.modOut n fun o => if o.seq = 1 then { o with seq := 2, span := o.seqTo } else o

/-- Step 3 of Table 13.2, and what waited for it. -/
def Dev.spanDone (d : Dev) (n : Fin 96) : Dev :=
  let o := d.bias.out[n]
  if o.seq ≠ 2 then d
  else
    let d := d.setCodes n (o.pendCode.getD (safeWord o.span))
    let d := d.modOut n fun x => { x with
      seq := 0, pendCode := none, pendSpan := none, wait := o.pendCode.isNone
      hold368 := if o.pendCode.isSome then false else x.hold368 }
    let d := d.raise Reg.BIAS_EVT 0
    match o.pendSpan with
    | some (s, c) => d.judgeSpan n s c
    | none => d

/-! ### Forcing conditions (Table 13.3, R368) -/

/-- After a watchdog hold, a rail loss or Dormant (R368): every span stays, every code is the safe code, every output waits. -/
def Dev.force368 (d : Dev) : Dev :=
  let d := (List.finRange 96).foldl (fun d n =>
    let d := d.modOut n fun o => { o with seq := 0, pendSpan := none, pendCode := none, wait := true, hold368 := true }
    d.setCodes n (safeWord d.bias.out[n].span)) d
  d.fset Reg.BIAS_CFG 0 0 1

/-- No good frame for 100 µs. -/
def Dev.watchdog (d : Dev) : Dev :=
  if !d.bias.linkUp then d
  else (({ d with bias := { d.bias with linkUp := false, wdHold := true } }).count32 Reg.BIAS_WD_COUNT |>.raise Reg.BIAS_EVT 7).force368

/-- One bias-link frame (R350): a discarded one is counted and reported; a good one brings the link up (R524). -/
def Dev.biasFrame (d : Dev) (ok : Bool) : Dev :=
  if !d.bias.vbio then d
  else if ok then { d with bias := { d.bias with linkUp := true, wdHold := false } }
  else (d.count32 Reg.BIAS_LINK_ERR).report 215

/-- A rail of the die falls below its good threshold (R367, R500). -/
def Dev.railLoss (d : Dev) (r : CorufRail) : Dev :=
  let out := Vector.ofFn fun n => { d.bias.out[n] with before := d.level n, lossDraw := d.freeCtr + n.val }
  let b := { d.bias with out := out }
  let d := { d with freeCtr := d.freeCtr + 96 }
  let b := match r with
    | .vbp => { b with vbp := false }
    | .vbn => { b with vbn := false }
    | .vbio => { b with vbio := false, linkUp := false }
  (({ d with bias := { b with railHold := true } }).force368).report 216

/-- Every rail has been good for 100 µs: the rail hold ends, and outputs wait for codes (R368). -/
def Dev.railsGood (d : Dev) : Dev :=
  { d with bias := { d.bias with vbp := true, vbn := true, vbio := true, railHold := false } }

/-- CRIT of the die begins (R364, Table 13.3). -/
def Dev.corufCritEnter (d : Dev) : Dev :=
  ({ d with bias := { d.bias with critHold := true } }).fset Reg.BIAS_CFG 0 0 1

/-- CRIT of Tile `t` begins: the outputs of its paths go to safe values (Table 13.3). -/
def Dev.tileCritEnter (d : Dev) (t : Nat) : Dev := { d with bias := { d.bias with tileHold := d.bias.tileHold ||| 2 ^ t } }

/-- A write of BIAS_CFG (R364): a write of 0 to PAOFF_SW is ignored at CRIT and otherwise ends a CRIT hold. -/
def Dev.writeBiasCfg (d : Dev) (w : Word) : Dev :=
  let v := if d.corufCrit then w.put 0 0 1 else w
  let d := d.wr Reg.BIAS_CFG (v &&& 7)
  if v.bit 0 then d else { d with bias := { d.bias with critHold := false } }

/-- PAOFF_N is held low by another source for 0.5 µs (R366). -/
def Dev.extKill (d : Dev) : Dev :=
  if d.paoffOut then d
  else
    let d := { d with bias := { d.bias with extLow := true, extReturn := false } }
    if (d.rd Reg.BIAS_CFG).bit 2 then
      ((List.finRange 96).foldl (fun d n =>
        if (d.rd (Reg.BIAS_OUT_CFG n.val)).bit 27 then d.modOut n fun o => { o with ext := true } else d) d).raise Reg.BIAS_EVT 6
    else d

/-- PAOFF_N has read high for 10 µs (R366). -/
def Dev.extHigh (d : Dev) : Dev :=
  if d.paoffOut then d else { d with bias := { d.bias with extLow := false, extReturn := true } }

/-- A sense channel trips (R363). -/
def Dev.ocTrip (d : Dev) (p : Fin 64) : Dev :=
  let a := if p.val < 32 then Reg.BIAS_TRIP_LO else Reg.BIAS_TRIP_HI
  let d := (d.wr a (d.rd a ||| BitVec.twoPow 32 (p.val % 32))).noteSet a (BitVec.twoPow 32 (p.val % 32))
  let d := (List.finRange 96).foldl (fun d n =>
    if d.outPath n == p && (d.rd (Reg.BIAS_OUT_CFG n.val)).bit 26 then d.modOut n fun o => { o with trip := some p.val } else d) d
  (d.raise Reg.BIAS_EVT 5).report (toSrc (64 + p.val))

/-- A clear of trip bits (R363); one set in the same cycle stands (R13). -/
def Dev.tripClear (d : Dev) (high : Bool) (w : Word) : Dev :=
  let a := if high then Reg.BIAS_TRIP_HI else Reg.BIAS_TRIP_LO
  d.wr a ((d.rd a &&& ~~~w) ||| d.setNow a)

/-! ### Current limit and test (R358, R360) -/

/-- The SC register of an output. -/
def scReg (n : Nat) : Nat := match n / 32 with | 0 => Reg.BIAS_SC0 | 1 => Reg.BIAS_SC1 | _ => Reg.BIAS_SC2

/-- The current limit of an output acts. -/
def Dev.currentLimit (d : Dev) (n : Fin 96) : Dev :=
  let a := scReg n.val
  let bit := BitVec.twoPow 32 (n.val % 32)
  ((d.wr a (d.rd a ||| bit)).noteSet a bit).modOut n fun o => { o with limiting := true }

/-- The limit has acted for 10 µs. -/
def Dev.scPersist (d : Dev) (n : Fin 96) : Dev :=
  if d.bias.out[n].limiting then (d.raise Reg.BIAS_EVT 4).report (toSrc (197 + n.val / 8)) else d

/-- A write of an SC register clears bits, but for those set in the same cycle (R13); what the limit does then, SC_NOW no
longer says. -/
def Dev.clearSc (d : Dev) (k : Nat) (w : Word) : Dev :=
  let a := scReg (32 * k)
  let off := w &&& ~~~d.setNow a
  let d := d.wr a (d.rd a &&& ~~~off)
  (List.range 32).foldl (fun d i => if off.bit i then d.modOut (toOut (32 * k + i)) fun o => { o with limiting := false } else d) d

/-- A write of BIAS_TEST with START = 1 (R360). -/
def Dev.testStart (d : Dev) (w : Word) : Dev :=
  if !w.bit 31 then d.wr Reg.BIAS_TEST ((d.rd Reg.BIAS_TEST).put 6 0 (w.get 6 0))
  else if d.bias.test.isSome then d
  else
    let d := d.wr Reg.BIAS_TEST ((0 : Word).put 6 0 (w.get 6 0))
    { d with bias := { d.bias with testWait := some (w.get 6 0) } }

/-- BIAS_TEST as read. -/
def Dev.testView (d : Dev) : Word := (d.rd Reg.BIAS_TEST).put 30 30 (b2n (d.bias.test.isSome || d.bias.testWait.isSome))

/-- A waiting test begins (R360) where nothing lands on the output or its path, its OFF code applies, no forcing condition
holds and VREF_EXT is good (R359). -/
def Dev.testBegin (d : Dev) : Dev :=
  match d.bias.testWait with
  | none => d
  | some k =>
    let n := toOut k
    if k < 96 ∧ d.outFollow n ≠ 0 ∧ d.onApplies n = false ∧ d.forced n = false ∧ d.bias.out[n].seq = 0 ∧
        ¬ k ∈ d.bias.touchedOut ∧ ¬ (d.outPath n).val ∈ d.bias.touchedPath ∧ (d.rd Reg.CAL_VREF).bit 31 = false ∧ d.bias.test = none then
      { d with bias := { d.bias with test := some k, testWait := none } }
    else d

/-- An output test ends (R360): a running one with its two readings, or a request that can never begin. -/
def Dev.testDone (d : Dev) (readSafe readOff : Nat) (limited : Bool) : Dev :=
  match d.bias.test with
  | some k =>
    let n := toOut k
    let near := fun (x y : Nat) => decide (x ≤ y + 8 ∧ y ≤ x + 8)
    let pass := near readSafe (safeCode d.bias.out[n].span) && near readOff ((d.inf (Reg.BIAS_OUT_CODE k)).get 11 0) && !limited
    let d := ({ d with bias := { d.bias with test := none } }).wr Reg.BIAS_TEST (((d.rd Reg.BIAS_TEST).put 29 29 1).put 28 28 (b2n pass))
    if pass then d else (d.raise Reg.BIAS_EVT 2).report (toSrc (197 + k / 8))
  | none =>
    match d.bias.testWait with
    | some k =>
      if 96 ≤ k ∨ d.outFollow (toOut k) = 0 then
        ({ d with bias := { d.bias with testWait := none } }).wr Reg.BIAS_TEST (((d.rd Reg.BIAS_TEST).put 29 29 1).put 28 28 0)
      else d
    | none => d

/-! ### The seam midpoint (R354, R363, R366, R525) -/

/-- What returns at a seam midpoint, or at once while no ticks run: cleared trips, ended kills and tile holds; then a waiting
test begins. -/
def Dev.biasReturn (d : Dev) : Dev :=
  let hold := (List.finRange 4).foldl (fun n t =>
    if d.bias.tileHold.testBit t.val && (d.sump.sensors[t.val + 1]).atCrit then n + 2 ^ t.val else n) 0
  let d := { d with bias := { d.bias with tileHold := hold } }
  let back := d.bias.extReturn
  let d := (List.finRange 96).foldl (fun d n => d.modOut n fun o => { o with
    ext := o.ext && !back
    trip := match o.trip with
      | some p => if d.tripBit p || d.paths[toPath p].mode == 2 || d.paths[toPath p].transit == some 2 then some p else none
      | none => none }) d
  let d := { d with bias := { d.bias with extReturn := false } }
  d.testBegin

/-! ### Drain-current sense and the quiescent-current loop (R361, R362) -/

/-- What the loop asks of an ON code: the step and whether it is clamped. -/
def loopStep (on avg target tol lo hi : Nat) : Nat × Bool :=
  let step : Int := if target + tol < avg then -1 else if avg + tol < target then 1 else 0
  let v : Int := on + step
  let c := max (lo : Int) (min v hi)
  (c.toNat, decide (c ≠ v))

/-- One sense channel at the end of a symbol in which its path was in Transmit throughout. The conversions are outside the
model: their mean, and whether the DPD input stayed below −60 dBFS, are free values (DESIGN CHOICE, log entry 29). -/
def Dev.senseTick (d : Dev) (p : Fin 64) : Dev :=
  let avg := Config.freeNat d.freeCtr % 16384
  let has := d.mu != 3 || Config.freeNat (d.freeCtr + 1) % 2 == 0
  let low := Config.freeNat (d.freeCtr + 2) % 2 == 0
  let d := { d with freeCtr := d.freeCtr + 3 }
  let d := if has then d.fset (Reg.BIAS_SNS_VAL p.val) 29 16 avg else d
  let c := d.rd (Reg.BIAS_SNS_CFG p.val)
  let g := c.get 22 16
  let n := toOut g
  if has && low && c.bit 31 && decide (g < 96) && !d.bias.touchedOut.contains g && !d.bias.touchedPath.contains p.val &&
      !(d.rd Reg.CAL_VREF).bit 31 && !d.forced n && d.bias.linkUp then
    let t := d.rd (Reg.BIAS_SNS_THR p.val)
    let l := d.rd (Reg.BIAS_SNS_LIM p.val)
    let a := Reg.BIAS_OUT_CODE g
    let w := d.rd a
    let (on, clamped) := loopStep (w.get 27 16) avg (t.get 13 0) (c.get 15 8) (l.get 11 0) (l.get 27 16)
    let d := if clamped then d.raise Reg.BIAS_EVT 3 else d
    if on = w.get 27 16 then d
    else
      let v := w.put 27 16 on
      (d.wr a v).commit byFirmware (.biasCode n) [(a, v, tickMask a)] 1
  else d

/-- Every sense channel at a tick, for the symbol that ends (R361, R362). -/
def Dev.senseAll (d : Dev) : Dev :=
  let d := (List.finRange 64).foldl (fun d p =>
    if d.bias.txAt.testBit p.val && d.paths[p].inTx then d.senseTick p else d) d
  let tx := (List.finRange 64).foldl (fun n p => if d.paths[p].inTx then n + 2 ^ p.val else n) 0
  { d with bias := { d.bias with txAt := tx } }

/-- At a tick: which outputs and paths a change lands on. -/
def Dev.biasTouched (d : Dev) : Dev :=
  let due := d.cad.changes.filter fun c => decide (c.land ≤ d.cad.tickIdx) && !c.atFrame
  let outs := due.filterMap fun c => match c.key with
    | .biasCode n => some n.val
    | .biasSpan n => some n.val
    | .word a => if Reg.BIAS_OUT_CFG 0 ≤ a ∧ a < Reg.BIAS_OUT_CFG 96 then some ((a - Reg.BIAS_OUT_CFG 0) / 16) else none
    | _ => none
  let paths := due.filterMap fun c => match c.key with
    | .pathMode p => some p.val
    | .unit 0 i => some i
    | _ => none
  { d with bias := { d.bias with touchedOut := outs, touchedPath := paths } }

/-! ### Registers as read -/

/-- BIAS_STATUS. -/
def Dev.biasStatus (d : Dev) : Word :=
  let n := ((List.finRange 96).filter d.isSafe).length
  ((((((((0 : Word).put 31 31 (b2n (d.bias.vbp && d.bias.vbn && d.bias.vbio))).put 30 30 (b2n d.bias.linkUp)).put 29 29
    (b2n d.bias.wdHold)).put 28 28 (b2n d.paoffOut)).put 27 27 (b2n d.paoffIn)).put 26 26 (b2n d.corufCrit)).put 25 25
    (b2n ((d.rd Reg.CAL_VREF).bit 31))).put 6 0 n

/-- BIAS_OUTn_STATUS but for READBACK and SC_NOW. -/
def Dev.outStatus (d : Dev) (n : Fin 96) : Word :=
  ((((0 : Word).put 31 31 (b2n (d.isSafe n))).put 30 30 (b2n d.bias.out[n].wait)).put 29 29 (b2n (d.bias.out[n].seq != 0))).put 27 27
    (b2n (d.onApplies n))

/-- Whether a BIAS register access is answered (R352, R524). -/
def Dev.biasAnswers (d : Dev) : Bool := d.bias.vbio && d.bias.linkUp

end Sys2Proof.Machine
end

