-- ==== Sys2Proof/Machine/Operands.lean ====
section
/-!
DEFINITION. Operand forms of the Chisel instructions (Tables 8.1 to 8.3): registers, pointers with post-increment, elements
and vectors of the local RAMs inside a kernel's allocation, and issue with its stalls (R216) and loops (R230).
-/

namespace Sys2Proof.Machine

/-! ### Registers -/

/-- Scalar register of a five-bit field (R215; the low four bits name it, DESIGN CHOICE, log entry 15). -/
def sIx (r : Fin 32) : Fin 16 := ⟨r.val % 16, by omega⟩

/-- Accumulator of a five-bit field (the low three bits name it, DESIGN CHOICE, log entry 15). -/
def aIx (r : Fin 32) : Fin 8 := ⟨r.val % 8, by omega⟩

/-- The pointer register S8 + P of a memory operand (Table 8.3). -/
def ptrIx (m : MemOp) : Fin 16 := ⟨8 + m.p.val, by omega⟩

/-- The byte address that a memory operand names. -/
def Ctx.addr (x : Ctx) (m : MemOp) : Nat := (x.s[ptrIx m]).toNat

/-- `x` with a scalar register written, readable from a cycle on. -/
def Ctx.setS (x : Ctx) (r : Fin 16) (w : Word) (ready : Nat) : Ctx :=
  { x with s := x.s.set r w, readyS := x.readyS.set r ready }

/-- `x` with a vector register written. -/
def Ctx.setV (x : Ctx) (r : Fin 32) (w : Vector Word 16) (ready : Nat) : Ctx :=
  { x with v := x.v.set r w, readyV := x.readyV.set r ready }

/-- `x` with an accumulator written. -/
def Ctx.setA (x : Ctx) (r : Fin 8) (w : Vector Word 16) (ready : Nat) : Ctx :=
  { x with a := x.a.set r w, readyA := x.readyA.set r ready }

/-- `x` with more sticky flags. -/
def Ctx.orFlags (x : Ctx) (f : Nat) : Ctx := { x with flags := x.flags ||| f }

/-- The post-increment of a memory operand, in elements (R219). -/
def Ctx.bump (x : Ctx) (m : MemOp) (ready : Nat) : Ctx :=
  x.setS (ptrIx m) (x.s[ptrIx m] + (m.inc.signExtend 32) * 4) ready

/-- Lane by lane. -/
def lanes1 (f : Word → Fp) (a : Vector Word 16) : Vector Word 16 × Nat :=
  (Vector.ofFn fun i => (f a[i]).val, (List.finRange 16).foldl (fun n i => n ||| (f a[i]).flags) 0)

/-- Lane by lane on two vectors. -/
def lanes2 (f : Word → Word → Fp) (a b : Vector Word 16) : Vector Word 16 × Nat :=
  (Vector.ofFn fun i => (f a[i] b[i]).val, (List.finRange 16).foldl (fun n i => n ||| (f a[i] b[i]).flags) 0)

/-- Lane by lane on three vectors. -/
def lanes3 (f : Word → Word → Word → Fp) (a b z : Vector Word 16) : Vector Word 16 × Nat :=
  (Vector.ofFn fun i => (f a[i] b[i] z[i]).val, (List.finRange 16).foldl (fun n i => n ||| (f a[i] b[i] z[i]).flags) 0)

/-- The lane that holds the real part of lane `i`'s pair. -/
def reLane (i : Fin 16) : Fin 16 := ⟨i.val / 2 * 2, by omega⟩

/-- The lane that holds its imaginary part. -/
def imLane (i : Fin 16) : Fin 16 := ⟨i.val / 2 * 2 + 1, by omega⟩

/-- One lane of a complex product of two vectors (VCMUL): re = ar br − ai bi, im = ar bi + ai br, each product rounded and
then their sum (DEDUCED, log entry 16). -/
def cmulLane (a b : Vector Word 16) (i : Fin 16) : Fp :=
  let ar := a[reLane i]; let ai := a[imLane i]; let br := b[reLane i]; let bi := b[imLane i]
  let (x, y) := if i.val % 2 = 0 then (fpMul ar br, fpMul ai bi) else (fpMul ar bi, fpMul ai br)
  let z := if i.val % 2 = 0 then fpSub x.val y.val else fpAdd x.val y.val
  ⟨z.val, x.flags ||| y.flags ||| z.flags⟩

/-- One lane of a complex multiply-accumulate (VCMAC), rounded once after the add (R224) (DEDUCED, log entry 16). -/
def cmacLane (a b acc : Vector Word 16) (i : Fin 16) : Fp :=
  let ar := a[reLane i]; let ai := a[imLane i]; let br := b[reLane i]; let bi := b[imLane i]
  if i.val % 2 = 0 then fpFma2 ar br (fpNeg ai) bi acc[i] else fpFma2 ar bi ai br acc[i]

/-- A vector of lanes and their flags. -/
def laneVec (f : Fin 16 → Fp) : Vector Word 16 × Nat :=
  (Vector.ofFn fun i => (f i).val, (List.finRange 16).foldl (fun n i => n ||| (f i).flags) 0)

/-! ### Local RAMs (R218, R219) -/

/-- The RAM of a core address. -/
inductive Ram where
  | x | y | c | i
  deriving DecidableEq, Repr

/-- The RAM that holds a core address (Table 8.2), none outside them. -/
def ramOf (a : Nat) : Option Ram :=
  if a < 0x10000 then some .x
  else if a < 0x20000 then some .y
  else if a < 0x28000 then some .c
  else if 0x30000 ≤ a ∧ a < 0x38000 then some .i
  else none

/-- The allocation of a kernel in a RAM: base and length. -/
def Kernel.alloc (k : Kernel) : Ram → Nat × Nat
  | .x => k.x
  | .y => k.y
  | .c => k.c
  | .i => k.i

/-- Whether `n` bytes at a core address lie in one RAM that the bus reaches, aligned, inside the kernel's allocation. -/
def Kernel.reaches (k : Kernel) (rams : List Ram) (a n : Nat) : Bool :=
  match ramOf a with
  | none => false
  | some r =>
    let (b, l) := k.alloc r
    rams.contains r && a % 4 == 0 && decide (b ≤ a ∧ a + n ≤ b + l)

/-- Sixteen elements of a local RAM. -/
def vecAt (m : Mem) (c a : Nat) : Vector Word 16 := Vector.ofFn fun i : Fin 16 => Mem.word m (coreAddr c (a + 4 * i.val))

/-- One element of a local RAM. -/
def elemAt (m : Mem) (c a : Nat) : Word := Mem.word m (coreAddr c a)

/-! ### Issue (R216, R228, R230) -/

/-- The position after an instruction, with the loops that end or repeat there: position, loops, extra cycles. -/
def loopBack (pc : Nat) : List LoopSt → Nat × List LoopSt × Nat
  | [] => (pc, [], 0)
  | l :: ls =>
    if pc = l.stop then
      if 1 < l.left then
        let small := decide (l.stop - l.start ≤ 64)
        (l.start, { l with left := l.left - 1, cached := small } :: ls, if small then 0 else 2)
      else
        let (p, r, e) := loopBack pc ls
        (p, r, if l.stop - l.start ≤ 64 then e else e + 2)
    else (pc, l :: ls, 0)

/-- `x` after an instruction that issued at cycle `t` and took `cycles`. -/
def Ctx.advance (x : Ctx) (t cycles : Nat) : Ctx :=
  let (p, ls, e) := loopBack (x.pc + 1) x.loops
  { x with pc := p, loops := ls, now := t + cycles + e }

/-- A taken branch to an instruction index: loops whose body it leaves end, and outside the loop cache it costs two cycles. -/
def Ctx.jump (x : Ctx) (t target : Nat) : Ctx :=
  let cached := match x.loops with | l :: _ => l.cached | [] => false
  { x with
    pc := target, now := t + 1 + (if cached then 0 else 2)
    loops := x.loops.filter fun l => decide (l.start ≤ target ∧ target < l.stop) }

/-- LOOP (R230): a count of 0 skips the body; three levels nest (DESIGN CHOICE, log entry 15). -/
def Ctx.enterLoop (x : Ctx) (t count body : Nat) : Ctx :=
  if count = 0 ∨ body = 0 then { x with pc := x.pc + 1 + body, now := t + 1 }
  else
    { x with pc := x.pc + 1, now := t + 1
             loops := ({ start := x.pc + 1, stop := x.pc + 1 + body, left := count, cached := false } :: x.loops).take 3 }

end Sys2Proof.Machine
end

