-- ==== Sys2Proof/Machine/Chisel.lean ====
section
/-!
DEFINITION. The Chisel cluster (chapter 8) around its instructions: dispatch of activations, stops, transfers, admission,
operating points, retirement of cores, and kernel images.
-/

namespace Sys2Proof.Machine

/-- `d` with a core changed. -/
def Dev.modCore (d : Dev) (c : Fin 16) (f : Core → Core) : Dev :=
  { d with chisel := { d.chisel with cores := d.chisel.cores.set c (f d.chisel.cores[c]) } }

/-- `d` with the kernel of a slot changed. -/
def Dev.modKernel (d : Dev) (slot : Nat) (f : Kernel → Kernel) : Dev :=
  { d with chisel := { d.chisel with kernels := d.chisel.kernels.map fun k => if k.slot = slot then f k else k } }

/-- The kernel of a slot. -/
def Dev.kernel? (d : Dev) (slot : Nat) : Option Kernel := d.chisel.kernels.find? fun k => k.slot == slot

/-- The kernel whose activation issues instructions on a core now: none while a transfer stalls it. -/
def Dev.running? (d : Dev) (c : Fin 16) : Option Kernel :=
  let k := d.chisel.cores[c]
  if k.retired || k.waiting || k.held.isSome then none
  else match k.run with | some s => d.kernel? s | none => none

/-! ### Dispatch (R239) -/

/-- Whether an activation goes before another: earlier deadline, then firmware, then admission order. -/
def Kernel.before (a b : Kernel) : Bool :=
  let x := a.active.getD 0
  let y := b.active.getD 0
  decide (x < y) || (x == y && ((!a.user && b.user) || (a.user == b.user && decide (a.order < b.order))))

/-- The activation that a core runs next. -/
def Dev.nextAct (d : Dev) (c : Nat) : Option Nat :=
  ((d.chisel.kernels.filter fun k => k.core == c && k.active.isSome && !k.evicted).foldl (fun (b : Option Kernel) k =>
    match b with
    | none => some k
    | some x => if k.before x then some k else b) none).map Kernel.slot

/-- A core runs the activation with the earliest deadline (R239): the registers of a preempted one are kept with its
kernel. A stalled instruction is not interrupted. -/
def Dev.dispatch (d : Dev) (c : Fin 16) : Dev :=
  let k := d.chisel.cores[c]
  if k.retired || k.testing || k.waiting || k.held.isSome || d.nextAct c.val == k.run then d
  else
    let d := match k.run with
      | some s => d.modKernel s fun x => { x with ctx := k.ctx }
      | none => d
    match d.nextAct c.val with
    | some s => d.modCore c fun y => { y with run := some s, ctx := match d.kernel? s with | some x => x.ctx | none => y.ctx }
    | none => d.modCore c fun y => { y with run := none }

/-- A kernel that is unloaded leaves its slot once it is idle (R247). -/
def Dev.dropUnloaded (d : Dev) : Dev :=
  { d with chisel := { d.chisel with kernels := d.chisel.kernels.filter fun k => !(k.unload && k.active.isNone) } }

/-- The activation of a core ends (END, R228): counts, cycles and flags of the kernel slot. -/
def Dev.endActivation (d : Dev) (c : Fin 16) : Dev :=
  match d.running? c with
  | none => d
  | some k =>
    let x := d.chisel.cores[c].ctx
    let n := x.now + 1
    let d := d.modKernel k.slot fun k => { k with
      active := none, ctx := { x with now := n }, fpf := x.flags, last := n, max := max k.max n, acts := min (k.acts + 1) (2 ^ 32 - 1) }
    (((d.modCore c fun y => { y with run := none }).noteCount (0xD0208 + 16 * k.slot) 0 1).dropUnloaded).dispatch c

/-- `n` free words in memory from an address on: contents that become unpredictable (R241). -/
def freeWords (d : Dev) (m : Mem) (a n : Nat) : Dev × Mem :=
  let (ws, d) := d.draw n
  (d, Mem.setWords m a ws)

/-- Why an activation stops. -/
inductive StopCause where
  | overrun | access | illegal
  deriving DecidableEq, Repr

/-- A core stops its activation (R241): counted, flagged, reported for firmware; the kernel's X and Y allocations and its
window become unpredictable. -/
def stopActivation (d : Dev) (m : Mem) (c : Fin 16) (why : StopCause) : Dev × Mem :=
  match d.chisel.cores[c].run with
  | none => (d, m)
  | some s =>
    match d.kernel? s with
    | none => (d, m)
    | some k =>
      let x := d.chisel.cores[c].ctx
      let d := d.modKernel s fun k => { k with active := none, ctx := x, fpf := x.flags, last := x.now, max := max k.max x.now }
      let d := (d.modCore c fun y => { y with run := none, waiting := false, held := none }).dropUnloaded
      let d := match why with
        | .overrun => (d.count32 Reg.CHISEL_OVERRUN).raise Reg.CHISEL_EVT 1
        | .access => (d.count32 Reg.CHISEL_FAULT).raise Reg.CHISEL_EVT 3
        | .illegal => (d.count32 Reg.CHISEL_FAULT).raise Reg.CHISEL_EVT 2
      let d := if k.user then d else d.report (toSrc (181 + c.val))
      let (d, m) := freeWords d m (coreAddr c.val k.x.1) (k.x.2 / 4)
      let (d, m) := freeWords d m (coreAddr c.val k.y.1) (k.y.2 / 4)
      let (d, m) := freeWords d m k.win.1 (k.win.2 / 4)
      (d.dispatch c, m)

/-! ### Issue -/

/-- Issues an instruction that touches no memory: `need` is the cycle its operands are ready, `f` writes results given the
cycle of issue. Nothing happens where no activation runs on the core. -/
def Dev.issue (d : Dev) (c : Fin 16) (need : Ctx → Nat) (cycles : Nat) (f : Ctx → Nat → Ctx) : Dev :=
  match d.running? c with
  | none => d
  | some _ => d.modCore c fun k =>
    let t := max k.ctx.now (need k.ctx)
    { k with ctx := (f k.ctx t).advance t cycles }

/-- Issues a branch: `f` sets the position itself. -/
def Dev.issueJump (d : Dev) (c : Fin 16) (need : Ctx → Nat) (f : Ctx → Nat → Ctx) : Dev :=
  match d.running? c with
  | none => d
  | some _ => d.modCore c fun k => { k with ctx := f k.ctx (max k.ctx.now (need k.ctx)) }

/-- Issues an instruction that reads or writes local RAMs: an access that `ok` refuses is an access fault (R218, R241)
(DEDUCED, log entry 17). -/
def issueMem (d : Dev) (m : Mem) (c : Fin 16) (need : Ctx → Nat) (ok : Kernel → Ctx → Bool) (f : Ctx → Nat → Ctx)
    (g : Ctx → Mem) : Dev × Mem :=
  match d.running? c with
  | none => (d, m)
  | some k =>
    let x := d.chisel.cores[c].ctx
    if ok k x then
      let t := max x.now (need x)
      (d.modCore c fun y => { y with ctx := (f x t).advance t 1 }, g x)
    else stopActivation d m c .access

/-- A transfer moves its block (R222). -/
def Xfer.move (x : Xfer) (c : Nat) (m : Mem) : Mem :=
  if x.toCluster then Mem.setBytes m x.cluster (Mem.bytes m (coreAddr c x.local_) x.bytes)
  else Mem.setBytes m (coreAddr c x.local_) (Mem.bytes m x.cluster x.bytes)

/-- XFER issues (R222): at most two transfers are outstanding, a third stalls the core. -/
def issueXfer (d : Dev) (m : Mem) (c : Fin 16) (a b : Fin 32) (toCluster : Bool) (bytes : Nat) : Dev × Mem :=
  match d.running? c with
  | none => (d, m)
  | some k =>
    let x := d.chisel.cores[c].ctx
    let la := (x.s[sIx a]).toNat
    let cl := (x.s[sIx b]).toNat
    let t := max x.now (max x.readyS[sIx a] x.readyS[sIx b])
    if bytes % 4 = 0 ∧ k.reaches [.x, .y, .c, .i] la bytes ∧ cl % 4 = 0 ∧ k.win.1 ≤ cl ∧ cl + bytes ≤ k.win.1 + k.win.2 then
      let xf : Xfer := ⟨la, cl, bytes, toCluster⟩
      (d.modCore c fun y0 =>
        let y : Core := { y0 with ctx := x.advance t 1 }
        if y.xfers.length < 2 then { y with xfers := y.xfers ++ [xf] } else { y with held := some xf }, m)
    else stopActivation d m c .access

/-- The oldest outstanding transfer of a core completes at a cycle (R222). -/
def xferComplete (d : Dev) (m : Mem) (c : Fin 16) (at_ : Nat) : Dev × Mem :=
  let y := d.chisel.cores[c]
  match y.xfers with
  | [] => (d, m)
  | x :: xs =>
    let xs' := match y.held with | some h => xs ++ [h] | none => xs
    let free := y.waiting && xs'.isEmpty
    let d := d.modCore c fun y => { y with
      xfers := xs', held := none, waiting := y.waiting && !free
      ctx := if y.held.isSome || free then { y.ctx with now := max y.ctx.now at_ } else y.ctx }
    (d.dispatch c, x.move c.val m)

/-- XWAIT (R222): the core waits while a transfer is outstanding. -/
def Dev.xwait (d : Dev) (c : Fin 16) : Dev :=
  match d.running? c with
  | none => d
  | some _ => d.modCore c fun y =>
    { y with ctx := y.ctx.advance y.ctx.now 1, waiting := !y.xfers.isEmpty }

/-! ### Kernel images (R245, R246) -/

/-- A field of a kernel image at an address. -/
def imgN (m : Mem) (a off n : Nat) : Nat := ofLe (Mem.bytes m (a + off) n)

/-- The operation codes of Table 8.4. -/
def isOp (n : Nat) : Bool :=
  decide ((1 ≤ n ∧ n ≤ 10) ∨ (0x10 ≤ n ∧ n ≤ 0x12) ∨ (0x20 ≤ n ∧ n ≤ 0x25) ∨ (0x30 ≤ n ∧ n ≤ 0x41) ∨ (0x50 ≤ n ∧ n ≤ 0x53) ∨
    (0x60 ≤ n ∧ n ≤ 0x62) ∨ n = 0x7F)

/-- The user region of the cluster memory (R221). -/
def userBase : Nat := 0x03300000

/-- End of the cluster memory. -/
def clusterEnd : Nat := 0x03400000

/-- Whether an image at an address is accepted (R236, R245, R246). -/
def imageGood (d : Dev) (m : Mem) (a : Nat) : Bool :=
  let il := imgN m a 8 4
  let cl := imgN m a 0xC 4
  let w := imgN m a 0x18 4
  let s := imgN m a 0x1C 2
  let e := imgN m a 0x1E 2
  let wb := imgN m a 0x24 4
  let wl := imgN m a 0x28 4
  decide (userBase ≤ a ∧ a % 4 = 0 ∧ il ≤ 0x8000 ∧ il % 8 = 0 ∧ cl ≤ 0x8000 ∧ a + 64 + il + cl + 4 ≤ clusterEnd) &&
    imgN m a 0 4 == 0x43484B31 && imgN m a 4 2 == 1 &&
    imgN m a 0x3C 4 == (crc32c (Mem.bytes m a 0x3C)).toNat &&
    imgN m a (64 + il + cl) 4 == (crc32c (Mem.bytes m (a + 64) (il + cl))).toNat &&
    decide (1 ≤ s ∧ s ≤ e ∧ 1 ≤ w ∧ (w + s - 1) / s + 768 ≤ d.capAt 3) &&
    (List.range (il / 8)).all (fun i => isOp (Mem.get m (a + 64 + 8 * i + 7)).toNat) &&
    decide (userBase ≤ wb ∧ wb + wl ≤ clusterEnd)

/-- The kernel that an image declares, not yet placed. -/
def kernelOf (m : Mem) (a slot handle order land : Nat) : Kernel :=
  let f := imgN m a 6 2
  { slot := slot, user := true, handle := handle, evicted := false, released := false, stateLost := false,
    pinned := f.testBit 2, core := imgN m a 0x22 2 % 16, home := none, trig := f % 4 == 1, w := imgN m a 0x18 4,
    span := imgN m a 0x1C 2, every := imgN m a 0x1E 2, entry := imgN m a 0x20 2, x := (0, round256 (imgN m a 0x10 4)),
    y := (0, round256 (imgN m a 0x14 4)), c := (0, round256 (imgN m a 0xC 4)), i := (0, round256 (imgN m a 8 4)),
    win := (imgN m a 0x24 4, imgN m a 0x28 4), order := order, from_ := land, trigger := false, active := none, count := 0,
    ctx := Ctx.reset, unload := false, fpf := 0, max := 0, last := 0, acts := 0 }

/-- The lowest slot without a kernel; an evicted one holds none. -/
def Dev.freeSlot (d : Dev) : Option Nat :=
  (List.range 16).find? fun s => d.chisel.kernels.all fun k => k.slot != s || k.evicted

/-- Instructions and coefficients of an image go into the kernel's allocations (R245). -/
def loadImage (m : Mem) (a : Nat) (k : Kernel) : Mem :=
  let il := imgN m a 8 4
  let cl := imgN m a 0xC 4
  Mem.setBytes (Mem.setBytes m (coreAddr k.core k.i.1) (Mem.bytes m (a + 64) il)) (coreAddr k.core k.c.1)
    (Mem.bytes m (a + 64 + il) cl)

/-- CHISEL_LOAD (R233, R236 to R240, R246): admitted, refused, or kept until the operating point has been raised for it.
`late` says that it has waited for that already. -/
def chiselLoadAt (d : Dev) (m : Mem) (cmd : Nat) (a : Nat) (late : Bool) : Dev × Mem :=
  if !imageGood d m a then (d.endCmd (some cmd) 0x10 [], m)
  else
    match d.freeSlot with
    | none => ((d.count32 Reg.CHISEL_REFUSED).endCmd (some cmd) 0x11 [], m)
    | some s =>
      let h := d.chisel.handle % 65535 + 1
      let k := kernelOf m a s h d.chisel.order d.nextLanding
      match d.place k d.opAdm with
      | some k =>
        let d := ({ d with chisel := { d.chisel with handle := d.chisel.handle + 1 } }).addKernel k
        (d.endCmd (some cmd) 0 [BitVec.ofNat 32 (s * 65536 + h)], loadImage m a k)
      | none =>
        match ((List.range 4).filter fun op => decide (d.opAdm < op)).find? fun op => (d.place k op).isSome with
        | some op =>
          if (d.rd Reg.CHISEL_CFG).bit 2 && !late then
            (({ d with chisel := { d.chisel with waitLoads := d.chisel.waitLoads ++ [(cmd, a)] } }).opStart op, m)
          else ((d.count32 Reg.CHISEL_REFUSED).endCmd (some cmd) 0x11 [], m)
        | none => ((d.count32 Reg.CHISEL_REFUSED).endCmd (some cmd) 0x11 [], m)

/-- VDSP has not reached its target (R442): the cluster stays at the lower operating point, and loads that waited are
refused. -/
def vdspTimeout (d : Dev) (m : Mem) : Dev × Mem :=
  match d.chisel.opTgt with
  | none => (d, m)
  | some op =>
    if op < d.chisel.op ∨ d.chisel.settled then (d, m)
    else
      let ws := d.chisel.waitLoads
      let d := ({ d with chisel := { d.chisel with opTgt := none, opHeld := true, waitLoads := [] } }).raise Reg.POWER_EVT 7
      let d := d.fset Reg.POWER_VOLT 15 0 (opVolt d.chisel.op)
      ws.foldl (fun (x : Dev × Mem) l => chiselLoadAt x.1 x.2 l.1 l.2 true) (d, m)

/-! ### Releases (R239, R242) and the tick -/

/-- Releases an activation (R217, R239) (DEDUCED, log entry 17). -/
def Dev.release (d : Dev) (slot : Nat) : Dev :=
  match d.kernel? slot with
  | none => d
  | some k =>
    let n := k.count + 1
    let s := k.ctx.s
    let s := ((((s.set 0 (BitVec.ofNat 32 n)).set 1 (BitVec.ofNat 32 k.win.1)).set 8 (BitVec.ofNat 32 k.x.1)).set 9
      (BitVec.ofNat 32 k.y.1)).set 10 (BitVec.ofNat 32 k.c.1)
    let x : Ctx := { k.ctx with
      s := s, pc := k.entry, loops := [], now := 0, readyS := Vector.replicate 16 0, readyV := Vector.replicate 32 0, readyA := Vector.replicate 8 0 }
    (d.modKernel slot fun k => { k with
      released := true, count := n, active := some (d.cad.tickIdx + k.span - 1), ctx := x, trigger := false }).dispatch (toCore k.core)

/-- Whether a periodic kernel is released at the current tick (R239, R246) (DEDUCED, log entry 34). -/
def Dev.releaseDue (d : Dev) (slot : Nat) : Bool :=
  match d.kernel? slot with
  | none => false
  | some k => d.cad.running && !k.trig && !k.evicted && !k.unload && k.active.isNone && decide (k.from_ ≤ d.cad.tickIdx) &&
      !d.chisel.cores[toCore k.core].testing && symIndex d.mu d.cad.nom % max 1 k.every == 0

/-- A scheduled action triggers a kernel (R242). -/
def Dev.triggerKernel (d : Dev) (slot : Nat) : Dev :=
  match d.kernel? slot with
  | none => d
  | some k =>
    if !k.trig || k.evicted || k.unload then d
    else if k.active.isSome then (d.count32 Reg.CHISEL_TRIG_DROP).raise Reg.CHISEL_EVT 4
    else d.modKernel slot fun k => { k with trigger := true }

/-- The cluster at a tick: an operating-point change takes effect (R234), loads that waited for it are admitted, triggered
kernels are released, and the operating point is looked at again. -/
def chiselTick (d : Dev) (m : Mem) (frame : Bool) : Dev × Mem :=
  let (d, m) : Dev × Mem := match d.chisel.opTgt with
    | some op =>
      if d.chisel.settled then
        let ws := d.chisel.waitLoads
        let d := ({ d with chisel := { d.chisel with op := op, opTgt := none, waitLoads := [] } }).raise Reg.CHISEL_EVT 0
        let d := d.fset Reg.POWER_VOLT 15 0 (opVolt op)
        ws.foldl (fun (x : Dev × Mem) (l : Nat × Nat) => chiselLoadAt x.1 x.2 l.1 l.2 false) (d, m)
      else (d, m)
    | none => (d, m)
  let d : Dev := d.chisel.kernels.foldl (fun (d : Dev) (k : Kernel) => if k.trigger && k.active.isNone then d.release k.slot else d) d
  (if d.chisel.waitLoads.isEmpty then d.opCheck frame else d, m)

/-! ### Moving kernels: retirement and live test (R243, R244) -/

/-- Copies a kernel's RAM contents from one placement to another; X and Y only where `keepXY`. -/
def copyKernel (m : Mem) (old new : Kernel) (keepXY : Bool) : Mem :=
  let cp := fun (m : Mem) (a b : Nat × Nat) (keep : Bool) =>
    let bs := if keep then Mem.bytes m (coreAddr old.core a.1) a.2 else List.replicate a.2 (0 : Byte)
    Mem.setBytes m (coreAddr new.core b.1) bs
  cp (cp (cp (cp m old.x new.x keepXY) old.y new.y keepXY) old.c new.c true) old.i new.i true

/-- Re-admits one kernel of a retired core (R243): elsewhere with zeroed X and Y; else a user kernel is evicted, and a firmware kernel
waits for room (R240). -/
def readmit (x : Dev × Mem) (k : Kernel) : Dev × Mem :=
  let (d, m) := x
  let k0 := { k with active := none, trigger := false }
  match d.place { k0 with pinned := k.pinned } d.opAdm with
  | some k' =>
    let d := d.modKernel k.slot fun _ => { k' with stateLost := true }
    (d.raise Reg.CHISEL_EVT 5, copyKernel m k k' false)
  | none =>
    if !k.user then (d.dropFirmware k.slot, m)
    else
      let d := d.modKernel k.slot fun _ => { k0 with evicted := true }
      ((d.count32 Reg.CHISEL_EVICT).raise Reg.CHISEL_EVT 6, m)

/-- Core `c` retires (R243). -/
def retireCore (d : Dev) (m : Mem) (c : Fin 16) : Dev × Mem :=
  let y := d.chisel.cores[c]
  let d := if y.run.isSome then d.count32 Reg.CHISEL_FAULT else d
  let ks := (d.held c.val)
  let d := d.modCore c fun k => { k with retired := true, run := none, xfers := [], held := none, waiting := false }
  let d := d.raise Reg.CHISEL_EVT 7
  let d := { d with chisel := { d.chisel with kernels := d.chisel.kernels.map fun k =>
    if k.core = c.val ∧ !k.evicted then { k with core := 16, active := none } else k } }
  (ks.filter (!·.user) ++ ks.filter (·.user)).foldl readmit (d, m)

/-- Core `c` returns to service (R244); kernels stay where they are. -/
def Dev.restoreCore (d : Dev) (c : Fin 16) : Dev := d.modCore c fun k => { k with retired := false, testing := false }

/-- Moves the kernels of a core elsewhere for a BIST (R244): none where one is pinned or does not fit. -/
def vacateCore (d : Dev) (m : Mem) (c : Fin 16) : Option (Dev × Mem) :=
  let ks := d.held c.val
  if ks.any (·.pinned) then none
  else
    let d1 := d.modCore c fun k => { k with testing := true }
    ks.foldl (fun (x : Option (Dev × Mem)) k =>
      match x with
      | none => none
      | some (d, m) =>
        match d.place k d.opAdm with
        | some k' => some (d.modKernel k.slot fun _ => { k' with home := some c.val }, copyKernel m k k' true)
        | none => none) (some (d1, m))

/-- Whether none of a core's kernels has an activation in progress. -/
def Dev.coreIdle (d : Dev) (c : Nat) : Bool := (d.held c).all fun k => k.active.isNone

/-- The kernels that a BIST moved away return to their core (R244). -/
def returnKernels (d : Dev) (m : Mem) (c : Fin 16) : Dev × Mem :=
  let d := d.modCore c fun k => { k with testing := false }
  (d.chisel.kernels.filter fun k => k.home == some c.val).foldl (fun (x : Dev × Mem) k =>
    match x.1.placeOn k x.1.opAdm c.val with
    | some k' => (x.1.modKernel k.slot fun _ => { k' with home := none }, copyKernel x.2 k k' true)
    | none => (x.1.modKernel k.slot fun y => { y with home := none }, x.2)) (d, m)

/-! ### Registers as read -/

/-- CHISEL_STATUS. -/
def Dev.chiselStatus (d : Dev) : Word :=
  let ret := (List.finRange 16).foldl (fun n c => if d.chisel.cores[c].retired then n + 2 ^ c.val else n) 0
  ((((((0 : Word).put 31 16 ret).put 15 15 (b2n d.chisel.opTgt.isSome)).put 14 14 (b2n (d.chisel.opHeld || d.opHolds))).put 8 4
    d.coresInService).put 3 2 (d.chisel.opTgt.getD 0)).put 1 0 d.chisel.op

/-- CHISEL_COREc_LOAD. -/
def Dev.coreLoad (d : Dev) (c : Nat) : Word := ((0 : Word).put 31 24 ((d.held c).length + b2n (d.solverLoad c != 0))).put 19 0 (d.charge c)

/-- CHISEL_KSLOTk_STATUS. -/
def Dev.slotStatus (d : Dev) (k : Nat) : Word :=
  match d.kernel? k with
  | none => 0
  | some x => ((((((0 : Word).put 31 30 (if x.evicted then 3 else if x.released then 1 else 2)).put 29 29 (b2n x.stateLost)).put 28 28
      (b2n x.pinned)).put 27 24 x.core).put 19 16 x.fpf).put 15 0 x.handle

/-- CHISEL_KSLOTk_MAX, _ACT and _LAST. -/
def Dev.slotValue (d : Dev) (k which : Nat) : Word :=
  match d.kernel? k with
  | none => 0
  | some x => BitVec.ofNat 32 (match which with | 1 => x.max | 2 => x.acts | _ => x.last)

/-- A user kernel is admitted (Table 16.7). -/
def Dev.userKernel (d : Dev) : Bool := d.chisel.kernels.any fun k => k.user && !k.evicted

end Sys2Proof.Machine
end

