-- ==== Sys2Proof/Machine/Lanes.lean ====
section
/-!
DEFINITION. The lanes of the SKX link (chapter 9): training, quality, loss and recovery, and the active-lane sets with their
proposals, notices and switches.
-/

namespace Sys2Proof.Machine

/-- `d` with a lane changed. -/
def Dev.modLane (d : Dev) (k : Fin 8) (f : Lane → Lane) : Dev := { d with lanes := d.lanes.set k (f d.lanes[k]) }

/-- `d` with the link changed. -/
def Dev.modLink (d : Dev) (f : Link → Link) : Dev := { d with link := f d.link }

/-- Whether LANE_EN of a lane is 1. -/
def Dev.laneEn (d : Dev) (k : Fin 8) : Bool := (d.rd Reg.SKX_PHY_CFG).bit (24 + k.val)

/-- The Sump source of a lane. -/
def laneSource (k : Fin 8) : Fin 256 := toSrc (164 + k.val)

/-! ### Messages handed to the transmitter -/

/-- Cells of a message of `n` body words (R278). -/
def cellsOf (n : Nat) : Nat := (4 * n + 4 + 59) / 60

/-- Hands a message to the transmitter, where the transmit set holds a lane (it is kept: DESIGN CHOICE, log entry 24); its cells take
the flow's next sequence numbers (R277). LINK cells take part in no count (DESIGN CHOICE, log entry 82). -/
def Dev.send (d : Dev) (flow : Nat) (ws : List Word) : Dev :=
  if d.link.txSet = 0 then d
  else d.modLink fun l => { l with
    tx := l.tx ++ [⟨flow, ws⟩]
    txSeq := if flow = 0x3FF then l.txSeq
      else (flow, (((l.txSeq.find? fun (x : Nat × Nat) => x.1 == flow).map Prod.snd).getD 0 + cellsOf ws.length) % 4096) ::
        l.txSeq.filter fun (x : Nat × Nat) => x.1 != flow }

/-- Word 0 to 14 of a LINK cell (Table 10.7) for the landing tick `land`. -/
def Dev.linkCell (d : Dev) (kind rest w1 land : Nat) : List Word :=
  let t := d.tickNs land
  let w0 := (((0 : Word).put 31 28 kind).put 27 19 (d.fget Reg.TIME_JOIN 8 0)) ||| BitVec.ofNat 32 rest
  let ws := [w0, BitVec.ofNat 32 w1, BitVec.ofNat 32 (t / 2 ^ 32), BitVec.ofNat 32 t] ++ List.replicate 10 0
  ws ++ [crc32c (ws.flatMap beBytes)]

/-! ### Active sets (R262 to R272) -/

/-- A lane set with one lane in or out. -/
def setLane (s : Nat) (k : Nat) (on : Option Bool) : Nat :=
  match on with
  | none => s
  | some true => s ||| 2 ^ k
  | some false => if s.testBit k then s - 2 ^ k else s

/-- The transmit set once changes have landed. -/
def afterTx (s : Nat) (ps : List Proposal) : Nat := ps.foldl (fun s p => setLane s p.lane.val p.tx) s

/-- The receive set once changes have landed. -/
def afterRx (s : Nat) (ps : List Proposal) : Nat := ps.foldl (fun s p => setLane s p.lane.val p.rx) s

/-- The transmit set once everything proposed has landed. -/
def Dev.finalTx (d : Dev) : Nat := afterTx (afterTx d.link.txSet d.link.switching) d.link.proposals

/-- The receive set once everything proposed has landed. -/
def Dev.finalRx (d : Dev) : Nat := afterRx (afterRx d.link.rxSet d.link.switching) d.link.proposals

/-- RS_LEAD in ns, at least the commit lead plus 4 µs, rounded up to a microsecond (R264). -/
def Dev.rsLeadNs (d : Dev) : Nat := 1000 * max (d.fget Reg.SKX_PHY_CFG 15 8) ((d.leadNs + 4999) / 1000)

/-- The landing tick of a proposal made now (R264); while the link is down the cutoff follows by RS_LEAD (R272). -/
def Dev.proposalTick (d : Dev) : Nat :=
  let t := d.nowNs + d.rsLeadNs
  max (d.cad.tickIdx + 1) (d.tickAtNs (if d.link.txSet = 0 ∨ d.link.rxSet = 0 then t + d.leadNs else t))

/-- A proposal for a lane joins the others of the lane: the latest tick governs (R264). -/
def Dev.addProposal (d : Dev) (p : Proposal) : Dev :=
  d.modLink fun l =>
    match l.proposals.find? fun (q : Proposal) => q.lane == p.lane with
    | none => { l with proposals := l.proposals ++ [p] }
    | some _ => { l with proposals := l.proposals.map fun (q : Proposal) =>
        if q.lane = p.lane then { q with tx := p.tx.or q.tx, rx := p.rx.or q.rx, land := max q.land p.land } else q }

/-- Sends a proposal (Table 10.7) and takes it up: `leave` and `join` name lanes; the masks name own directions that sleep or
wake. -/
def Dev.propose (d : Dev) (leave join sleepTx sleepRx wakeTx wakeRx : Nat) : Dev :=
  let land := d.proposalTick
  let d := d.send 0x3FF (d.linkCell 1 (256 * leave + join) (sleepTx * 2 ^ 24 + sleepRx * 2 ^ 16 + wakeTx * 2 ^ 8 + wakeRx) land)
  (List.finRange 8).foldl (fun d k =>
    let b := fun (m : Nat) => m.testBit k.val
    let tx := if b leave || b sleepTx then some false else if b join || b wakeTx then some true else none
    let rx := if b leave || b sleepRx then some false else if b join || b wakeRx then some true else none
    if tx.isNone && rx.isNone then d else d.addProposal { lane := k, tx := tx, rx := rx, land := land }) d

/-- A lane enters DETECT: a training attempt begins (R260). -/
def Dev.beginAttempt (d : Dev) (k : Fin 8) (n : Nat) : Dev :=
  (d.modLane k fun l => { l with st := .detect, attempt := n, good := 0, other := 0, fastExit := false }).count
    (Reg.LANE_RETRAIN k.val) 15 0

/-- From EI, an enabled lane that is not retired and owes no fast exit trains at once (Table 9.5). -/
def Dev.laneStart (d : Dev) (k : Fin 8) : Dev :=
  let l := d.lanes[k]
  if l.st = .ei ∧ d.laneEn k ∧ ¬ l.retired ∧ ¬ l.fastExit then d.beginAttempt k 1 else d

/-- A lane goes to electrical idle; `fast` says that it leaves service and recovers by a fast exit (R269). -/
def Dev.laneIdle (d : Dev) (k : Fin 8) (fast : Bool) : Dev :=
  (d.modLane k fun l => { l with st := .ei, attempt := 0, good := 0, other := 0, low := 0, fastExit := fast && d.laneEn k }).laneStart k

/-- Every lane begins to train when its domain powers up (R263). -/
def Dev.lanesUp (d : Dev) : Dev := (List.finRange 8).foldl Dev.laneStart d

/-- A lane enters RETIRED (R271). -/
def Dev.laneRetired (d : Dev) (k : Fin 8) : Dev :=
  (d.modLane k fun l => { l with st := .retired, fastExit := false, attempt := 0 }).raise Reg.SKX_PHY_EVT 6

/-- What follows a lane's leaving both sets. -/
def Dev.laneLeft (d : Dev) (k : Fin 8) : Dev :=
  match d.lanes[k].leaveTo with
  | none => d
  | some (st, fast) =>
    let d := d.modLane k fun l => { l with leaveTo := none }
    match st with
    | .retired => d.laneRetired k
    | .bist => d.modLane k fun l => { l with st := .bist, attempt := 0 }
    | _ => if d.lanes[k].st = .active ∨ d.lanes[k].st = .ready then d.laneIdle k fast else d

/-- Cell slots of one lane in a number of timebase cycles: 1,285 in each superframe of 348,160 unit intervals, 108 to a cycle. -/
def slotsIn (cycles : Nat) : Nat := cycles * 108 * 1285 / 348160

/-- A lane's slots lost from its loss until this switch are counted (R268) (DEDUCED, log entry 35). -/
def Dev.countLost (d : Dev) (k : Fin 8) : Dev :=
  match d.lanes[k].lostAt with
  | none => d
  | some c =>
    let n := d.fget Reg.SKX_PHY_CELLS_LOST 31 0 + slotsIn (d.time.cycle - c)
    (d.fset Reg.SKX_PHY_CELLS_LOST 31 0 (min n (2 ^ 32 - 1))).modLane k fun l => { l with lostAt := none }

/-- A set change takes effect (R265): the sets, the lanes that join and leave, and the events. -/
def Dev.switchSets (d : Dev) (ps : List Proposal) (rxSet : Option Nat) : Dev :=
  let tx0 := d.link.txSet
  let rx0 := d.link.rxSet
  let tx1 := afterTx tx0 ps
  let rx1 := rxSet.getD (afterRx rx0 ps)
  let d := d.modLink fun l => { l with txSet := tx1, rxSet := rx1 }
  let d := (List.finRange 8).foldl (fun d k =>
    let i := k.val
    let was := tx0.testBit i || rx0.testBit i
    let now := tx1.testBit i || rx1.testBit i
    let d := if rx0.testBit i && !rx1.testBit i then d.countLost k else d
    let d := if now && !was && d.lanes[k].st == .ready then d.modLane k fun l => { l with st := .active } else d
    let d := if was && rx1.testBit i && !rx0.testBit i then d.modLane k fun l => { l with firstWindow := true } else d
    if was && !now then d.laneLeft k else d) d
  if tx0 = tx1 ∧ rx0 = rx1 then d
  else
    let d := d.count32 Reg.SKX_PHY_SETCHG
    let d := if (List.range 8).any fun i => (tx1.testBit i && !tx0.testBit i) || (rx1.testBit i && !rx0.testBit i) then
      d.raise Reg.SKX_PHY_EVT 4 else d
    if (List.range 8).any fun i => (tx0.testBit i && !tx1.testBit i) || (rx0.testBit i && !rx1.testBit i) then
      d.raise Reg.SKX_PHY_EVT 3 else d

/-- Whether a proposal can land: a lane joins from READY, or from service. -/
def Dev.canLand (d : Dev) (p : Proposal) : Bool :=
  let st := d.lanes[p.lane].st
  !(p.tx == some true || p.rx == some true) || st == .ready || st == .active

/-- The number of the first transmit superframe that begins at or after a timebase cycle (R254, R265) (DEDUCED, log entry 35). -/
def Dev.superframeAt (d : Dev) (cycle : Nat) : Nat :=
  match d.link.sf with
  | none => 0
  | some b => (108 * cycle - b + 348159) / 348160

/-- At the cutoff of tick T: the changes that land there are fixed, and a notice gives their superframe (R265). -/
def Dev.fixSets (d : Dev) (land edgeCycle : Nat) : Dev :=
  let due := d.link.proposals.filter fun p => decide (p.land ≤ land) && d.canLand p
  if due.isEmpty then d
  else
    let d := d.modLink fun l => { l with proposals := l.proposals.filter fun p => !due.contains p, switching := l.switching ++ due }
    d.send 0x3FF (d.linkCell 2 (afterTx d.link.txSet d.link.switching) (d.superframeAt (edgeCycle + d.seamL / 2) % 2 ^ 32) land)

/-- Superframe S begins (R265): both directions switch to the new sets. -/
def Dev.laneSetSwitch (d : Dev) : Dev :=
  if d.link.switching.isEmpty then d
  else
    let ps := d.link.switching
    let rx := d.link.notice.map Prod.snd
    (d.modLink fun l => { l with switching := [], notice := none }).switchSets ps rx

/-- While no ticks run, what is proposed lands at once (R57) (DEDUCED, log entry 35). -/
def Dev.settleSets (d : Dev) : Dev :=
  if d.ticking then d
  else
    let due := d.link.switching ++ d.link.proposals.filter d.canLand
    if due.isEmpty then d
    else (d.modLink fun l => { l with switching := [], proposals := l.proposals.filter fun p => !d.canLand p }).switchSets due none

/-! ### Training (R259 to R261, R269) -/

/-- One bit of CRC-8 with polynomial x^8 + x^2 + x + 1. -/
def crc8Bit (c : Nat) (b : Bool) : Nat :=
  let x := (c / 128 % 2 == 1) != b
  Nat.xor (c * 2 % 256) (if x then 7 else 0)

/-- The check of a training field over bits [63:8], initial value 0 (R259). -/
def crc8 (w : BitVec 64) : Nat := ((List.range 56).map fun i => w.getLsbD (63 - i)).foldl crc8Bit 0

/-- Whether the check of a training field holds. -/
def fieldGood (w : BitVec 64) : Bool := crc8 w == w.toNat % 256

/-- Bits of a 64-bit field. -/
def bits64 (w : BitVec 64) (hi lo : Nat) : Nat := w.toNat / 2 ^ lo % 2 ^ (hi + 1 - lo)

/-- The threshold LQF_JOIN. -/
def Dev.lqfJoin (d : Dev) : Nat := d.fget Reg.SKX_PHY_THR 23 16

/-- One step of a tap on a request (R256, Table 9.4): 1 increments toward 0, 2 decrements, 3 is the preset. -/
def tapStep (x : Int) (lo : Int) (req : Nat) : Int :=
  match req with
  | 1 => min 0 (x + 1)
  | 2 => max lo (x - 1)
  | 3 => 0
  | _ => x

/-- This end's FFE follows the partner's requests; each request acts once, until the partner holds. The main cursor is what
the other two leave (R256), so a request for it changes nothing by itself. -/
def Dev.ffe (d : Dev) (k : Fin 8) (req : Nat) : Dev :=
  let a := Reg.LANE_EQ k.val
  let old := d.lanes[k].req
  let r := fun (i : Nat) => if old / 4 ^ i % 4 = 0 then req / 4 ^ i % 4 else 0
  let preset := r 2 = 3 ∨ r 1 = 3 ∨ r 0 = 3
  let pre := tapStep (signed 8 (d.fget a 23 16)) (-16) (if preset then 3 else r 2)
  let post := tapStep (signed 8 (d.fget a 7 0)) (-24) (if preset then 3 else r 0)
  let d := ((d.fset a 23 16 (unsigned 8 pre)).fset a 7 0 (unsigned 8 post)).fset a 15 8 (64 - pre.natAbs - post.natAbs)
  d.modLane k fun l => { l with req := req }

/-- A failed attempt: WAIT, or DOWN after the eighth (R261). -/
def Dev.attemptFailed (d : Dev) (k : Fin 8) : Dev :=
  if 8 ≤ d.lanes[k].attempt then (d.modLane k fun l => { l with st := .down }).raise Reg.SKX_PHY_EVT 1
  else d.modLane k fun l => { l with st := .wait }

/-- A lane enters ALIGN: superframe 0 of a direction that is not yet numbered begins after the 16 frames of the countdown
(R260, R272) (DEDUCED, log entry 35). -/
def Dev.laneAlign (d : Dev) (k : Fin 8) : Dev :=
  let d := d.modLane k fun l => { l with st := .align, good := 0, fastExit := false }
  if d.link.txSet = 0 then d.modLink fun l => { l with sf := some (108 * d.time.cycle + 16 * 2720) } else d

/-- A training frame is received (R259, R260). `ownLqf` is the receiver's own figure over the last millisecond
(DESIGN CHOICE, log entry 36). -/
def Dev.trainingFrame (d : Dev) (k : Fin 8) (control status : BitVec 64) (ownLqf : Nat) : Dev :=
  let good := fieldGood control
  match d.lanes[k].st with
  | .detect =>
    if !good then d.modLane k fun l => { l with good := 0 }
    else if bits64 control 59 57 = k.val then
      if d.lanes[k].good = 7 then
        let inv := Config.freeNat d.freeCtr % 2
        (d.drew.modLane k fun l => { l with st := .eq, good := 0, other := 0, req := 0 }).fset (Reg.LANE_STATE k.val) 21 21 inv
      else d.modLane k fun l => { l with good := l.good + 1, other := 0 }
    else if d.lanes[k].other = 7 then (d.raise Reg.SKX_PHY_EVT 7).attemptFailed k
    else d.modLane k fun l => { l with good := 0, other := l.other + 1 }
  | .eq =>
    let d := if fieldGood status then d.fset (Reg.LANE_STATE k.val) 22 22 (bits64 status 57 57) else d
    if !good then d
    else
      let ask := bits64 control 41 41
      let grant := if (d.rd Reg.SKX_PHY_CFG).bit 23 then ask else 0
      let d := (d.ffe k (bits64 control 47 42)).fset (Reg.LANE_STATE k.val) 23 23 grant
      if bits64 control 40 40 = 1 ∧ d.lqfJoin ≤ ownLqf ∧ grant = ask then
        let ctle := Config.freeNat d.freeCtr % 16
        (d.drew.fset (Reg.LANE_EQ k.val) 31 24 ctle).laneAlign k
      else d
  | _ => d

/-- One codeword (R252): corrected symbols, or uncorrectable; in ALIGN 64 good ones in a row are codeword lock. -/
def Dev.codeword (d : Dev) (k : Fin 8) (corrected : Option Nat) : Dev :=
  match corrected with
  | some n =>
    let a := Reg.LANE_FEC_CORR k.val
    let d := d.fset a 31 0 (min (d.fget a 31 0 + n) (2 ^ 32 - 1))
    if d.lanes[k].st = .align then
      if d.lanes[k].good = 63 then d.modLane k fun l => { l with st := .qualify, good := 0 }
      else d.modLane k fun l => { l with good := l.good + 1 }
    else d
  | none => (d.count32 (Reg.LANE_FEC_UNCORR k.val)).modLane k fun l => { l with good := 0 }

/-- A lane leaves service and recovers: the lane's set changes are proposed. -/
def Dev.proposeLeave (d : Dev) (k : Fin 8) (leaveTo : LaneSt × Bool) : Dev :=
  let d := d.modLane k fun l => { l with leaveTo := some leaveTo }
  if d.finalTx.testBit k.val || d.finalRx.testBit k.val then d.propose (2 ^ k.val) 0 0 0 0 0
  else if d.link.txSet.testBit k.val || d.link.rxSet.testBit k.val then d
  else (d.modLink fun l => { l with proposals := l.proposals.filter fun p => p.lane != k }).laneLeft k

/-- Loss of lock (R255, R268): a lane in service goes to EI and its removal is proposed; a lane in READY trains again. -/
def Dev.lockLost (d : Dev) (k : Fin 8) : Dev :=
  let l := d.lanes[k]
  if l.st = .active ∨ l.st = .ready then
    let d := ((d.raise Reg.SKX_PHY_EVT 2).count (Reg.LANE_RETRAIN k.val) 31 16).report (laneSource k)
    if l.st = .ready then (d.modLink fun x => { x with proposals := x.proposals.filter fun p => p.lane != k }).laneIdle k false
    else
      let d := d.modLane k fun l => { l with
        st := .ei, attempt := 0, low := 0, fastExit := d.laneEn k && l.leaveTo.isNone
        lostAt := if d.link.rxSet.testBit k.val then some d.time.cycle else none }
      d.proposeLeave k (l.leaveTo.getD (.ei, true))
  else d

/-- The quality figure of a millisecond (R257): SNRs in thousandths of a decibel. -/
def lqfOf (snrS snrF : Nat) : Nat :=
  let x : Int := (min snrS snrF : Nat) - 17600
  (max 0 (min 255 ((x + 125) / 250))).toNat

/-- An SNR in 0.25 dB units, saturating. -/
def quarterDb (x : Nat) : Nat := min 255 ((x + 125) / 250)

/-- The lane quality figure of a millisecond and what follows (R257, R258). -/
def Dev.lqfWindow (d : Dev) (k : Fin 8) (snrS snrF : Nat) : Dev :=
  let a := Reg.LANE_LQF k.val
  let q := lqfOf snrS snrF
  let low := min (d.fget a 23 16) q
  let d := d.wr a (((((0 : Word).put 31 24 q).put 23 16 low).put 15 8 (quarterDb snrS)).put 7 0 (quarterDb snrF))
  let l := d.lanes[k]
  if l.st = .active ∧ d.link.rxSet.testBit k.val then
    let ctle := Config.freeNat d.freeCtr % 16
    let d := d.drew.fset (Reg.LANE_EQ k.val) 31 24 ctle
    let d := if q < d.fget Reg.SKX_PHY_THR 15 8 then d.raise Reg.SKX_PHY_EVT 5 else d
    let n := if q < d.fget Reg.SKX_PHY_THR 7 0 then l.low + 1 else 0
    let fall := decide (3 ≤ n) || (l.firstWindow && decide (q < d.lqfJoin))
    let d := d.modLane k fun l => { l with low := if fall then 0 else n, firstWindow := false }
    if fall then (d.report (laneSource k)).proposeLeave k (.ei, true) else d
  else d

/-- A lane in QUALIFY has met LQF_JOIN for QUAL_TIME: READY, with a proposal to join (R260, R270). Its latencies are fixed now;
the spec does not state them: free values (R273) (DESIGN CHOICE, log entry 36). -/
def Dev.qualifyDone (d : Dev) (k : Fin 8) : Dev :=
  if d.lanes[k].st = .qualify then
    let lat := Config.freeWord d.freeCtr
    let d := (d.drew.modLane k fun l => { l with st := .ready, attempt := 0, low := 0, firstWindow := false }).raise Reg.SKX_PHY_EVT 0
    let d := d.wr (Reg.LANE_LAT k.val) lat
    let d := d.fset (Reg.LANE_LQF k.val) 23 16 (d.fget (Reg.LANE_LQF k.val) 31 24)
    let b := 2 ^ k.val
    let sleepTx := (d.rd Reg.SKX_PHY_SLEEP).bit (8 + k.val) || d.link.peerTx.testBit k.val
    let sleepRx := (d.rd Reg.SKX_PHY_SLEEP).bit k.val || d.link.peerRx.testBit k.val
    d.propose 0 b (if sleepTx then b else 0) (if sleepRx then b else 0) 0 0
  else d

/-- 20 ms since the attempt began (R260, R269). -/
def Dev.attemptTimeout (d : Dev) (k : Fin 8) : Dev :=
  match d.lanes[k].st with
  | .detect => (d.report (laneSource k)).attemptFailed k
  | .eq => (d.report (laneSource k)).attemptFailed k
  | .align => (d.report (laneSource k)).attemptFailed k
  | .qualify => (d.report (laneSource k)).attemptFailed k
  | _ => d

/-- The back-off of a lane in WAIT expires. -/
def Dev.backoffExpire (d : Dev) (k : Fin 8) : Dev :=
  if d.lanes[k].st = .wait then d.beginAttempt k (d.lanes[k].attempt + 1) else d

/-- A lane in DOWN probes. -/
def Dev.laneProbe (d : Dev) (k : Fin 8) : Dev :=
  if d.lanes[k].st = .down ∧ d.laneEn k then d.beginAttempt k 8 else d

/-- The fast exit of a lane that entered EI from service (R269) (DESIGN CHOICE, log entry 36). -/
def Dev.fastExit (d : Dev) (k : Fin 8) (answered : Bool) : Dev :=
  if d.lanes[k].st = .ei ∧ d.lanes[k].fastExit then
    let d := d.count (Reg.LANE_RETRAIN k.val) 15 0
    if answered then d.laneAlign k else (d.report (laneSource k)).beginAttempt k 1
  else d

/-! ### Host software and the partner (R264 to R267, R271) -/

/-- Lanes in service. -/
def Dev.serviceLanes (d : Dev) : Nat :=
  (List.finRange 8).foldl (fun n k => if d.lanes[k].st = .active ∧ d.lanes[k].leaveTo.isNone then n + 2 ^ k.val else n) 0

/-- A write of SKX_PHY_SLEEP (R266): refused in full where a direction would be left with no lane awake. -/
def Dev.sleepRequest (d : Dev) (w : Word) : Dev :=
  let tx := w.get 15 8
  let rx := w.get 7 0
  let on := d.serviceLanes
  let awake := fun (mask : Nat) => (List.range 8).any fun i => on.testBit i && !mask.testBit i
  if tx = 255 ∨ rx = 255 ∨ (on ≠ 0 ∧ ¬ (awake tx ∧ awake rx)) then d.raise Reg.SKX_PHY_EVT 8
  else
    let d := d.wr Reg.SKX_PHY_SLEEP (w &&& 0xFFFF#32)
    let pick := fun (p : Nat → Bool) => (List.range 8).foldl (fun n i => if on.testBit i && p i then n + 2 ^ i else n) 0
    let fT := d.finalTx
    let fR := d.finalRx
    let st := pick fun i => tx.testBit i && fT.testBit i
    let sr := pick fun i => rx.testBit i && fR.testBit i
    let wt := pick fun i => !tx.testBit i && !fT.testBit i
    let wr := pick fun i => !rx.testBit i && !fR.testBit i
    if st = 0 ∧ sr = 0 ∧ wt = 0 ∧ wr = 0 then d
    else (d.modLink fun l => { l with peerTx := l.peerTx &&& (255 - wt), peerRx := l.peerRx &&& (255 - wr) }).propose 0 0 st sr wt wr

/-- The lane of a set that a write of LANE_EN has to leave (R267), where it would leave the set empty: the lowest. -/
def lastAwake (set keep : Nat) : Option Nat :=
  if set ≠ 0 ∧ (List.range 8).all fun i => !(set.testBit i && keep.testBit i) then (List.range 8).find? set.testBit else none

/-- A write of SKX_PHY_CFG (R267). -/
def Dev.laneEnable (d : Dev) (w : Word) : Dev :=
  let en := w.get 31 24
  let kept := [lastAwake (d.link.txSet &&& d.finalTx) en, lastAwake (d.link.rxSet &&& d.finalRx) en].filterMap id
  let en1 := kept.foldl (fun n i => n ||| 2 ^ i) en
  let d := d.wr Reg.SKX_PHY_CFG ((w.put 31 24 en1) &&& 0xFF80FFFF#32)
  let d := if kept.isEmpty then d else d.raise Reg.SKX_PHY_EVT 8
  (List.finRange 8).foldl (fun d k =>
    let l := d.lanes[k]
    if en1.testBit k.val then d.laneStart k
    else match l.st with
      | .active => if l.leaveTo.isNone then d.proposeLeave k (.ei, false) else d
      | .ready => (d.modLink fun x => { x with proposals := x.proposals.filter fun p => p.lane != k }).laneIdle k false
      | .retired => d
      | .bist => d
      | _ => d.modLane k fun l => { l with st := .ei, attempt := 0, fastExit := false }) d

/-- A received proposal (R264, R266): the sender's transmit directions are this end's receive directions. -/
def Dev.proposal (d : Dev) (ws : List Word) : Dev :=
  let w0 := ws.getD 0 0
  let w1 := ws.getD 1 0
  let land := d.tickAtNs ((ws.getD 2 0).toNat * 2 ^ 32 + (ws.getD 3 0).toNat)
  let leave := w0.get 15 8
  let d := d.modLink fun l => { l with
    peerRx := (l.peerRx ||| w1.get 31 24) &&& (255 - w1.get 15 8), peerTx := (l.peerTx ||| w1.get 23 16) &&& (255 - w1.get 7 0) }
  (List.finRange 8).foldl (fun d k =>
    let b := fun (m : Nat) => m.testBit k.val
    let ours := fun (o : Nat) => (d.rd Reg.SKX_PHY_SLEEP).bit (o + k.val) && !(b (w1.get 15 8) && o == 0) && !(b (w1.get 7 0) && o == 8)
    let join := w0.get 7 0
    let tx := if b leave || b (w1.get 23 16) then some false else if b join then some (!ours 8) else if b (w1.get 7 0) then some true else none
    let rx := if b leave || b (w1.get 31 24) then some false else if b join then some (!ours 0) else if b (w1.get 15 8) then some true else none
    if tx.isNone && rx.isNone then d
    else
      let d := if b leave && d.lanes[k].leaveTo.isNone then d.modLane k fun l => { l with leaveTo := some (.ei, true) } else d
      d.addProposal { lane := k, tx := tx, rx := rx, land := land }) d

/-- A received notice (R265). -/
def Dev.noticed (d : Dev) (ws : List Word) : Dev :=
  d.modLink fun l => { l with notice := some ((ws.getD 1 0).toNat, (ws.getD 0 0).get 7 0) }

/-- The retirement of a lane lands (R271). -/
def Dev.retireLane (d : Dev) (k : Fin 8) : Dev :=
  let d := d.modLane k fun l => { l with retired := true }
  if d.link.txSet.testBit k.val || d.link.rxSet.testBit k.val then d.proposeLeave k (.retired, false)
  else (d.modLink fun l => { l with proposals := l.proposals.filter fun p => p.lane != k }).laneRetired k

/-- The restoration of a lane lands: it trains again, and joins under R270. -/
def Dev.restoreLane (d : Dev) (k : Fin 8) : Dev :=
  (d.modLane k fun l => { l with retired := false, leaveTo := none, st := if l.st = .retired then .ei else l.st, fastExit := false }).laneStart k

/-! ### Registers as read -/

/-- LANEk_STATE.STATE. -/
def Dev.laneState (d : Dev) (k : Fin 8) : Nat :=
  match d.lanes[k].st with
  | .ei => 0
  | .detect => 1
  | .eq => 2
  | .align => 3
  | .qualify => 4
  | .ready => 5
  | .active => 6 + b2n (!d.link.txSet.testBit k.val) + 2 * b2n (!d.link.rxSet.testBit k.val)
  | .wait => 10
  | .down => 11
  | .retired => 12
  | .bist => 13

/-- LANEk_STATE as read. -/
def Dev.laneStateWord (d : Dev) (k : Fin 8) : Word :=
  ((d.rd (Reg.LANE_STATE k.val)).put 31 28 (d.laneState k)).put 27 24 d.lanes[k].attempt

/-- SKX_PHY_STATUS as read. -/
def Dev.phyStatus (d : Dev) : Word :=
  let pick := fun (p : Lane → Bool) => (List.finRange 8).foldl (fun n k => if p d.lanes[k] then n + 2 ^ k.val else n) 0
  ((((0 : Word).put 31 24 d.link.txSet).put 23 16 d.link.rxSet).put 15 8 (pick fun l => l.st == .ready)).put 7 0
    (pick fun l => l.st == .retired)

end Sys2Proof.Machine
end

