-- ==== Sys2Proof/Machine/Bist.lean ====
section
/-!
DEFINITION. Built-in self-tests of the units of Table 11.6 (R244, R271, R434, Table 15.6), and the long-running work that a
firmware handover ends (R315, R321).
-/

namespace Sys2Proof.Machine

/-- How many units each kind of Table 11.6 has; index 8 of kind 9 is the spare slice. -/
def unitCount (kind : Nat) : Nat := [64, 64, 64, 4, 4, 8, 16, 4, 8, 9, 16].getD kind 0

/-- The unit that a command names, or the one that a kind or index outside Table 11.6 happens to reach, if any: a free choice
(Table 11.7) (DESIGN CHOICE, log entry 49). -/
def Dev.unitNamed (d : Dev) (w : Word) : Option (Nat × Nat) × Dev :=
  let kind := w.get 27 24
  let i := w.get 7 0
  if i < unitCount kind then (some (kind, i), d)
  else
    let n := d.freeCtr
    let kind := if kind ≤ 10 then kind else Config.freeNat n % 11
    let hit := Config.freeNat (n + 1)
    (if hit % 2 = 0 then none else some (kind, Config.freeNat (n + 2) % unitCount kind), { d with freeCtr := n + 3 })

/-- A lane from a number. -/
def laneNo (n : Nat) : Fin 8 := ⟨n % 8, by omega⟩

/-- An observation receiver from a number. -/
def orxNo (n : Nat) : Fin 16 := ⟨n % 16, by omega⟩

/-- Whether a unit is retired. -/
def Dev.unitRetired (d : Dev) (kind i : Nat) : Bool :=
  match kind with
  | 0 => d.paths[toPath i].retired
  | 1 => d.paths[toPath i].adcRetired
  | 2 => d.paths[toPath i].dacRetired
  | 3 => d.relief[toTile i].adc.retired
  | 4 => d.relief[toTile i].dac.retired
  | 5 => (d.tiles[toTile (i / 2)].syn (i % 2 == 1)).retired
  | 6 => d.dpd.orx[orxNo i].retired
  | 7 => d.tiles[toTile i].retired
  | 8 => d.lanes[laneNo i].retired
  | 9 => if i < 8 then d.beam.sliceRetired.testBit i else d.beam.spareRetired
  | _ => d.chisel.cores[toCore i].retired

/-- The spare slice stands in for a slice, or is about to. -/
def Dev.spareUsed (d : Dev) : Bool := d.beam.spareFor.isSome || d.beam.spareNext.isSome

/-- The status with which Table 15.6 refuses the BIST of a unit, 0 where it does not. A core is refused where its kernels
cannot move (R244). A slice that is retired already needs no stand-in (DEDUCED, log entry 50). -/
def Dev.bistRefusal (d : Dev) (m : Mem) (kind i : Nat) : Nat :=
  match kind with
  | 0 =>
    let s := d.paths[toPath i]
    if (!s.retired && (s.mode != 0 || s.transit.isSome)) || d.tiles[tileOf (toPath i)].level != 2 then 0x10 else 0
  | 1 =>
    let x := d.relief[tileOf (toPath i)].adc
    if x.retired || x.forRetired then 0x11 else 0
  | 2 =>
    let x := d.relief[tileOf (toPath i)].dac
    if x.retired || x.forRetired then 0x11 else 0
  | 3 => if d.relief[toTile i].adc.forRetired then 0x11 else 0
  | 4 => if d.relief[toTile i].dac.forRetired then 0x11 else 0
  | 5 =>
    let t := d.tiles[toTile (i / 2)]
    if t.act == (i % 2 == 1) && decide (1 < t.level) then 0x10 else 0
  | 7 =>
    if !d.tiles[toTile i].retired && (pathsOf (toTile i)).any fun p => d.paths[p].onAir then 0x10 else 0
  | 8 => if !d.lanes[laneNo i].retired && d.lastLane i then 0x11 else 0
  | 9 => if i < 8 then (if !d.beam.sliceRetired.testBit i && (d.beam.spareRetired || d.spareUsed) then 0x11 else 0)
    else if d.spareUsed then 0x11 else 0
  | 10 => if d.chisel.cores[toCore i].retired then 0 else if (vacateCore d m (toCore i)).isSome then 0 else 0x11
  | _ => 0

/-- The relief pair of a converter in service stands in for it while it is tested (steps 1 to 4 of Table 4.4). -/
def Dev.shadowForTest (d : Dev) (p : Fin 64) (dac : Bool) : Dev :=
  let s := d.paths[p]
  if s.retired || (if dac then s.dacRetired else s.adcRetired) then d
  else d.modRelief (tileOf p) fun r => r.modPair dac fun x =>
    if x.phase = 0 ∧ ¬ x.calibrating then { x with phase := 1, path := p.val % 16, closed := false } else x

/-- A path, or no longer, under test. -/
def Dev.pathTesting (d : Dev) (on : Bool) (p : Fin 64) : Dev := d.modPath p fun s => { s with testing := on }

/-- A synthesizer that runs is tested: it is not LO-qualified until it has found its band and locked again. -/
def Dev.synTest (d : Dev) (t : Fin 4) (b : Bool) : Dev :=
  d.modTile t fun x => x.modSyn b fun s => if s.run ∧ ¬ s.retired then { s with qual := false, ld := false, busy := .cold } else s

/-- A BIST begins (the service column of Table 15.6). -/
def Dev.bistBegin (d : Dev) (kind i : Nat) : Dev :=
  match kind with
  | 0 => d.pathTesting true (toPath i)
  | 1 => d.shadowForTest (toPath i) false
  | 2 => d.shadowForTest (toPath i) true
  | 3 => d.modRelief (toTile i) fun r => r.modPair false fun x => { x with testing := true }
  | 4 => d.modRelief (toTile i) fun r => r.modPair true fun x => { x with testing := true }
  | 5 => d.synTest (toTile (i / 2)) (i % 2 == 1)
  | 6 => d.modOrx (orxNo i) fun o => { o with testing := true }
  | 7 => (pathsOf (toTile i)).foldl (fun d p => d.pathTesting true p) d
  | 8 =>
    let k := laneNo i
    if d.lanes[k].retired then d.modLane k fun l => { l with st := .bist, attempt := 0 }
    else d.proposeLeave k (.bist, false)
  | 9 =>
    if i < 8 ∧ ¬ d.beam.sliceRetired.testBit i then
      { d with beam := { d.beam with spareNext := some (some i, d.cad.tickIdx + 1) } }
    else d
  | _ => d

/-- Whether the test of a unit can be over: a lane has left both sets, the spare serves the slice, the core is vacated, the
receiver is free. -/
def Dev.bistRuns (d : Dev) (kind i : Nat) : Bool :=
  match kind with
  | 6 => d.dpd.orx[orxNo i].cap.isNone
  | 8 => d.lanes[laneNo i].st == .bist
  | 9 => decide (8 ≤ i) || d.beam.sliceRetired.testBit i || d.beam.spareFor == some i
  | 10 => d.chisel.cores[toCore i].retired || d.chisel.cores[toCore i].testing
  | _ => true

/-- The mode in force of a path that was under test lands at the next tick (DEDUCED, log entry 50). -/
def Dev.modeAfterTest (d : Dev) (p : Fin 64) : Dev :=
  if d.paths[p].retired || d.modeInForce p == 0 || d.cad.changes.any (fun c => c.key == .pathMode p) then d
  else d.commit byFirmware (.pathMode p) [] (d.modeInForce p)

/-- What a BIST held goes back to its service, or stays retired. Kernels return to a core at a tick. -/
def Dev.bistRelease (d : Dev) (kind i : Nat) (pass : Bool) : Dev :=
  match kind with
  | 0 => (d.pathTesting false (toPath i)).modeAfterTest (toPath i)
  | 3 => d.modRelief (toTile i) fun r => r.modPair false fun x => { x with testing := false }
  | 4 => d.modRelief (toTile i) fun r => r.modPair true fun x => { x with testing := false }
  | 5 =>
    let t := toTile (i / 2)
    if d.tiles[t].level = 2 ∧ d.tiles[t].act ≠ (i % 2 == 1) then d.roleStandby t else d
  | 6 => d.modOrx (orxNo i) fun o => { o with testing := false }
  | 7 => (pathsOf (toTile i)).foldl (fun d p => (d.pathTesting false p).modeAfterTest p) d
  | 8 =>
    let k := laneNo i
    if d.lanes[k].st ≠ .bist then d
    else if d.lanes[k].retired then d.modLane k fun l => { l with st := .retired }
    else if pass then (d.modLane k fun l => { l with st := .qualify }).qualifyDone k
    else d.laneIdle k false
  | 9 =>
    if i < 8 ∧ ¬ d.beam.sliceRetired.testBit i ∧ d.beam.spareFor = some i then
      { d with beam := { d.beam with spareNext := some (none, d.cad.tickIdx + 1) } }
    else d
  | _ => d

/-- The events that a failing BIST reports (R417). -/
def Dev.bistReport (d : Dev) (kind i mask : Nat) : Dev :=
  if mask = 0 then d
  else if kind = 0 then
    let d := if mask &&& 3 = 0 then d else d.report (toSrc i)
    if mask &&& 13 = 0 then d else d.report (toSrc (64 + i))
  else (sourcesOfUnit kind i).foldl Dev.report d

/-- Whether a BIST of a core is in progress for a command. -/
def Dev.coreTest (d : Dev) (c : Nat) : Bool :=
  d.drunas.cmds.any fun x => (x.opcode == 0xB20 || x.opcode == 0x902) && x.stage == .working && x.verdict.isNone && x.aux == [10, c]

/-- At a tick, or at once while none come: a core whose test waits is vacated when no kernel of it runs, and a core whose test
is over gets its kernels back (R244). A core that can no longer be vacated ends its command with REFUSED_RESOURCE. -/
def coreTestsTick (d : Dev) (m : Mem) : Dev × Mem :=
  (List.finRange 16).foldl (fun (x : Dev × Mem) c =>
    let (d, m) := x
    let k := d.chisel.cores[c]
    if d.coreTest c.val then
      if k.testing || k.retired || !d.coreIdle c.val then (d, m)
      else
        match vacateCore d m c with
        | some y => y
        | none => (d.drunas.cmds.foldl (fun d x => if x.aux == [10, c.val] then d.endCmd (some x.id) 0x11 [] else d) d, m)
    else if k.testing && d.coreIdle c.val then returnKernels d m c
    else (d, m)) (d, m)

/-- A capture that its command no longer wants is dropped. -/
def Dev.dropCapture (d : Dev) (id : Nat) : Dev :=
  { d with dpd := { d.dpd with
      wantHost := d.dpd.wantHost.filter fun w => w.2 != id
      orx := (List.finRange 16).foldl (fun v k =>
        match v[k].cap with
        | some c => if c.user = .host id then v.set k { v[k] with cap := none } else v
        | none => v) d.dpd.orx } }

/-- The opcodes of long-running work (R315). -/
def longWork : List Nat := [0x600, 0x601, 0x602, 0x401, 0x902, 0xA00, 0xB00, 0xB20]

/-- Work of R315 in progress and requests queued under R203 end with ABORTED (R321). -/
def Dev.abortWork (d : Dev) : Dev :=
  let d := d.cal.queue.foldl (fun d r => d.endCmd r.cmd 0x31 [BitVec.ofNat 32 r.mask]) d
  let d := { d with cal := { d.cal with queue := [] } }
  let d := (d.cal.runs.filter fun r => r.cmd.isSome).foldl Dev.abortCal d
  let d := match d.cal.snap with
    | some s => if s.cmd.isSome then { d with cal := { d.cal with snap := none } } else d
    | none => d
  let d := match d.cal.restore with
    | some (some _) => { d with cal := { d.cal with restore := none, mixed := [] } }
    | _ => d
  (d.drunas.cmds.filter fun c => c.stage == .working && longWork.contains c.opcode && !c.silent).foldl (fun d c =>
    let d := if c.opcode = 0xB00 then d.dropCapture c.id else d
    let d := if c.opcode = 0xB20 ∨ c.opcode = 0x902 then
        match c.aux with
        | kind :: i :: _ => d.bistRelease kind i false
        | _ => d
      else d
    d.endCmd (some c.id) 0x31 (if c.opcode = 0x401 then d.loadResult ((c.params.getD 0 0).bit 31) false (c.aux.getD 1 0) else [])) d

/-- The handover of R321 lands: work ends, and the pair runs the other bank from this tick. -/
def Dev.handoverBegins (d : Dev) (cmd : Option Nat) : Dev :=
  let d := d.abortWork
  let b := if d.sec.active then d.sec.banks[0] else d.sec.banks[1]
  { d with
    sec := { d.sec with active := !d.sec.active, fw := b.version }
    drunas := { d.drunas with
      handover := true, oldFw := d.sec.fw
      cmds := d.drunas.cmds.map fun (c : Cmd) => if some c.id = cmd then { c with stage := .working } else c } }

end Sys2Proof.Machine
end

