-- ==== Sys2Proof/Machine/Cells.lean ====
section
/-!
DEFINITION. Cells, messages and flows (chapter 10): reception, what flows exist, arrival windows, weight loads, event messages,
capacity and shedding.
-/

namespace Sys2Proof.Machine

/-! ### Flow numbers (Tables 10.3 and 10.5) -/

/-- Whether a flow number is a beam-mode sample flow. -/
def isBeamFlow (f : Nat) : Bool := decide (f < 0x80)

/-- Whether a flow number is an antenna-mode sample flow. -/
def isAntFlow (f : Nat) : Bool := decide (0x100 ≤ f ∧ f < 0x200)

/-- Whether a flow number is a sample flow. -/
def isSampleFlow (f : Nat) : Bool := isBeamFlow f || isAntFlow f

/-- Whether a flow number is a sounding flow. -/
def isSoundFlow (f : Nat) : Bool := decide (0x200 ≤ f ∧ f < 0x204)

/-- Whether a flow number has a meaning in the receive direction, IDLE and LINK cells apart. -/
def rxMeaning (f : Nat) : Bool :=
  isSampleFlow f || isSoundFlow f || f == 0x210 || f == 0x300 || f == 0x310 || f == 0x320

/-- The carrier of a sample or sounding flow. -/
def flowCar (f : Nat) : Nat := if f < 0x80 then f / 32 else if f < 0x200 then (f - 0x100) / 64 else f - 0x200

/-- The sample flows. -/
def sampleFlows : List Nat := List.range 0x80 ++ (List.range 0x100).map (0x100 + ·)

/-- Whether the engine is in antenna mode. -/
def Dev.antennaMode (d : Dev) : Bool := (d.inf Reg.BEAM_CFG).bit 31

/-- Whether a sample flow exists in a direction (R282). -/
def Dev.flowExists (d : Dev) (tx : Bool) (f : Nat) : Bool :=
  let c := flowCar f
  if isBeamFlow f then
    !d.antennaMode && d.carOn c && (d.inf (if tx then Reg.BEAM_CAR_LUL c else Reg.BEAM_CAR_LDL c)).bit (f % 32)
  else if isAntFlow f then d.antennaMode && d.carOn c
  else false

/-- Mantissa bits of a width code (Table 10.5); codes 6 and 7 act as 5. -/
def mantissa (code : Nat) : Nat := match code with | 0 => 8 | 1 => 9 | 2 => 10 | 3 => 12 | 4 => 14 | _ => 16

/-- The width code of a word of SKX_CELL_FLOWf_CFG. -/
def mwOf (w : Word) : Nat := min 5 (w.get 10 8)

/-- The width code in force for the symbol of tick `n`: of the last change that lands at or before it (R283). -/
def Dev.mwAt (d : Dev) (f n : Nat) : Nat :=
  let a := Reg.SKX_CELL_FLOW_CFG f
  let due := d.cad.changes.filter fun c => c.key == .word a && decide (c.land ≤ n)
  match due.getLast? with
  | some c => match c.words with | (_, w, _) :: _ => mwOf w | [] => mwOf (d.inf a)
  | none => mwOf (d.inf a)

/-! ### Sizes (R285 to R289) -/

/-- Blocks of a sample message of a flow for a symbol of `len` samples at 491.52 Msps (R287). -/
def Dev.blocksOf (d : Dev) (f len : Nat) : Nat :=
  let w := d.inf (Reg.BEAM_CAR_CFG (flowCar f))
  if isAntFlow f then (len / 2 ^ (3 - w.get 30 29) + 11) / 12 else carPrb w

/-- Bytes of `n` blocks of a width code. -/
def blockBytes (n code : Nat) : Nat := (n * (24 * mantissa code + 4) + 7) / 8

/-- Cells of a message of `n` body bytes with its CRC (R278, R289). -/
def cellsOfBytes (n : Nat) : Nat := (n + 4 + 59) / 60

/-- CELLS of a sample flow: unmarked cells per 0.5 ms (R289). -/
def Dev.flowCells (d : Dev) (f : Nat) : Nat :=
  let code := mwOf (d.inf (Reg.SKX_CELL_FLOW_CFG f))
  let one := fun (len : Nat) => cellsOfBytes (4 + blockBytes (d.blocksOf f len) code)
  (7 * 2 ^ d.mu - 1) * one (normalSym d.mu) + one (longSym d.mu)

/-! ### Symbol addresses (R34, R284, R290) -/

/-- The fields FRAME to SYMBOL of an address word. -/
def addrFields (w : Word) : Word := w &&& 0x3FFFFF#32

/-- Whether an address names a symbol of the numerology. -/
def addrValid (mu : Nat) (w : Word) : Bool :=
  decide (w.get 21 12 < 1024 ∧ w.get 11 8 < 10 ∧ w.get 7 4 < 2 ^ mu ∧ w.get 3 0 < 14)

/-- Where a symbol address begins in the cycle of 1,024 frames, in samples (R31, R34). -/
def addrOffset (mu : Nat) (w : Word) : Nat :=
  w.get 21 12 * frameSamples + symStart mu ((w.get 11 8 * 2 ^ mu + w.get 7 4) * 14 + w.get 3 0)

/-- The nominal time, in samples, of the symbol with an address that lies nearest a local time (R290). -/
def nearestNom (mu : Nat) (w : Word) (now : Nat) : Nat :=
  let cycle := 1024 * frameSamples
  let x := timeSampUp now
  let o := addrOffset mu w
  if x + cycle / 2 < o then o else (x + cycle / 2 - o) / cycle * cycle + o

/-- The address word of the symbol at a nominal time, without UMODE and MW. -/
def addrOfNom (mu nom : Nat) : Word :=
  let a := symAddr mu nom
  ((((0 : Word).put 21 12 (a.get 25 16)).put 11 8 (a.get 15 12)).put 7 4 (a.get 11 8)).put 3 0 (a.get 3 0)

/-- The downlink bound of a symbol, from its nominal time, in 2^-32 ns (Table 5.3). -/
def dlBound (mu nom : Nat) : Nat := sampTime nom - sampTime (normalSym mu) - 2000 * fracScale

/-! ### Cells (R274 to R281) -/

/-- HCHK of header bits [31:6] (R275). -/
def hchk (w : Word) : Nat :=
  ((List.range 26).map fun i => w.bit (31 - i)).foldl (fun c b =>
    let x := (c / 32 % 2 == 1) != b
    Nat.xor (c * 2 % 64) (if x then 3 else 0)) 0

/-- An error of R279 to R281 is counted and MSG_ERR set. -/
def Dev.msgErr (d : Dev) (a : Nat) : Dev := (d.count32 a).raise Reg.SKX_CELL_EVT 3

/-- The open message of a flow is dropped. -/
def Dev.dropOpen (d : Dev) (f : Nat) : Dev :=
  d.modLink fun l => { l with openMsgs := l.openMsgs.filter fun (o : OpenMsg) => o.flow != f }

/-- The cells that a message's kind and header fields imply, none where they imply no message (R279, R292). -/
def Dev.impliedCells (d : Dev) (f : Nat) (ws : List Word) : Option Nat :=
  let w0 := ws.getD 0 0
  let w1 := ws.getD 1 0
  if isSampleFlow f then
    let i := 14 * (w0.get 11 8 * 2 ^ d.mu + w0.get 7 4) + w0.get 3 0
    let len := if i % (7 * 2 ^ d.mu) = 0 then longSym d.mu else normalSym d.mu
    some (cellsOfBytes (4 + blockBytes (d.blocksOf f len) (w0.get 29 27)))
  else if isSoundFlow f then
    let n := carPrb (d.inf (Reg.BEAM_CAR_CFG (flowCar f)))
    if 1 ≤ w1.get 17 9 ∧ w1.get 26 18 + w1.get 17 9 ≤ n then some (cellsOfBytes (8 + blockBytes (w1.get 17 9) (w0.get 29 27))) else none
  else if f = 0x210 then
    let a := w1.get 25 19
    let l := w1.get 18 13
    if w0.get 14 5 < 640 ∧ 1 ≤ a ∧ w1.get 31 26 + a ≤ 64 ∧ 1 ≤ l ∧ w0.get 4 0 + l ≤ 32 then some (cellsOfBytes (8 + 4 * (a * l))) else none
  else some 1

/-- A message is complete (R278, R279): its words without the CRC go to its row where it is accepted. A command or
register-access message goes on together with its CRC result. -/
def Dev.messageDone (d : Dev) (f : Nat) (bytes : List Byte) (first : Nat) : Dev :=
  let n := bytes.length
  let ok := (beWords (bytes.drop (n - 4))).headD 0 == crc32c (bytes.take (n - 4))
  let ws := beWords (bytes.take (n - 4))
  let keep := d.modLink fun l => { l with inbox := l.inbox ++ [{ flow := f, words := ws, crcOk := ok, time := d.time.now, first := first }] }
  if f = 0x300 ∨ f = 0x310 then keep
  else if !ok then d.msgErr Reg.SKX_CELL_MSG_BAD
  else if d.impliedCells f ws ≠ some (n / 60) then d.msgErr Reg.SKX_CELL_FMT_ERR
  else if f = 0x320 then
    match (ws.getD 0 0).get 31 28 with
    | 1 => keep
    | 2 => d
    | 3 => keep
    | _ => d.msgErr Reg.SKX_CELL_FMT_ERR
  else keep

/-- A data cell of a flow (R277 to R280): types 1 ONLY, 2 FIRST, 3 MIDDLE, 4 LAST. -/
def Dev.dataCell (d : Dev) (f type seq : Nat) (payload : List Byte) : Dev :=
  let want := ((d.link.rxSeq.find? fun (x : Nat × Nat) => x.1 == f).map Prod.snd).getD 0
  let open_ := d.link.openMsgs.find? fun (o : OpenMsg) => o.flow == f
  let d := d.modLink fun l => { l with rxSeq := (f, (seq + 1) % 4096) :: l.rxSeq.filter fun (x : Nat × Nat) => x.1 != f }
  let begins := type = 1 ∨ type = 2
  let d := if begins ∧ open_.isSome then (d.dropOpen f).msgErr Reg.SKX_CELL_SEQ_GAP else d
  if type = 1 then d.messageDone f payload d.time.now
  else if type = 2 then d.modLink fun l => { l with openMsgs := l.openMsgs ++ [{ flow := f, bytes := payload, time := d.time.now }] }
  else
    match open_ with
    | none => d
    | some o =>
      let d := d.dropOpen f
      let bytes := o.bytes ++ payload
      if seq ≠ want then d.msgErr Reg.SKX_CELL_SEQ_GAP
      else if 512 * 60 < bytes.length then d.msgErr Reg.SKX_CELL_FMT_ERR
      else if type = 4 then d.messageDone f bytes o.time
      else d.modLink fun l => { l with openMsgs := l.openMsgs ++ [{ flow := f, bytes := bytes, time := o.time }] }

/-- One received cell (R274 to R281). -/
def Dev.cell (d : Dev) (header : Word) (payload : List Byte) (uncorrectable : Bool) : Dev :=
  let f := header.get 31 22
  let type := header.get 21 18
  if uncorrectable || hchk header != header.get 5 0 then (d.count32 Reg.SKX_CELL_HCHK_ERR).raise Reg.SKX_CELL_EVT 2
  else if 6 ≤ type then d.msgErr Reg.SKX_CELL_FMT_ERR
  else if type = 0 then d
  else if type = 5 then
    let ws := beWords payload
    if f ≠ 0x3FF then d.msgErr Reg.SKX_CELL_FMT_ERR
    else if ws.getD 14 0 = crc32c (payload.take 56) then
      if (ws.getD 0 0).get 31 28 < 1 ∨ 3 < (ws.getD 0 0).get 31 28 then d
      else d.modLink fun l => { l with inbox := l.inbox ++ [{ flow := f, words := ws, crcOk := true, time := d.time.now, first := d.time.now }] }
    else d.msgErr Reg.SKX_CELL_MSG_BAD
  else if rxMeaning f then d.dataCell f type (header.get 17 6) payload
  else d.msgErr Reg.SKX_CELL_FMT_ERR

/-! ### Received messages -/

/-- The first message of a flow, or the first LINK cell of a kind, with the device without it. -/
def Dev.take (d : Dev) (p : Inbox → Bool) : Option (Inbox × Dev) :=
  (d.link.inbox.find? p).map fun m => (m, d.modLink fun l => { l with inbox := l.inbox.erase m })

/-- The first LINK cell of a kind. -/
def isLink (kind : Nat) (m : Inbox) : Bool := m.flow == 0x3FF && (m.words.getD 0 0).get 31 28 == kind

/-- A late message is counted (R290). -/
def Dev.lateMsg (d : Dev) : Dev := (d.count32 Reg.SKX_CELL_LATE).raise Reg.SKX_CELL_EVT 4

/-- Whether a message's first cell arrived in its window: at or after t_(n−3) (R290). -/
def Dev.inArrival (d : Dev) (nom first : Nat) : Bool := decide (sampTime (symStart d.mu (symIndex d.mu nom - 3)) ≤ first)

/-- The tick number of a nominal time, by the ticks in force. -/
def Dev.tickOfNom (d : Dev) (nom : Nat) : Nat := d.cad.tickIdx + symIndex d.mu nom - symIndex d.mu d.cad.nom

/-- A downlink sample message (R284 to R291) (DEDUCED, log entry 38). -/
def Dev.sampleMessage (d : Dev) (f : Nat) : Dev :=
  match d.take fun m => m.flow == f && isSampleFlow f with
  | none => d
  | some (m, d) =>
    let w := m.words.getD 0 0
    if !addrValid d.mu w then d.msgErr Reg.SKX_CELL_FMT_ERR
    else
      let nom := nearestNom d.mu w m.first
      if w.get 29 27 ≠ d.mwAt f (d.tickOfNom nom) then d.msgErr Reg.SKX_CELL_FMT_ERR
      else if !d.inArrival nom m.first || decide (dlBound d.mu nom < m.time) then d.lateMsg
      else
        let x : Accepted := { flow := f, addr := addrFields w, bound := dlBound d.mu nom, words := m.words }
        let same := fun (y : Accepted) => y.flow == x.flow && y.addr == x.addr && y.bound == x.bound
        let d := if d.link.accepted.any same then d.count32 Reg.SKX_CELL_DUP else d
        d.modLink fun l => { l with accepted := l.accepted.filter (fun y => !same y) ++ [x] }

/-- The downlink bound of a symbol passes (R291). -/
def Dev.boundPasses (d : Dev) (f : Nat) : Dev :=
  let t := timeSampUp (d.time.now + 2000 * fracScale) + normalSym d.mu
  let i := symIndex d.mu t
  let near := if 0 < i ∧ t - symStart d.mu (i - 1) ≤ symStart d.mu i - t then i - 1 else i
  let addr := addrOfNom d.mu (symStart d.mu near)
  if d.cad.running && d.flowExists false f && !(d.link.accepted.any fun (x : Accepted) => x.flow == f && x.addr == addr) &&
      !d.link.shedRx.contains f then
    (d.count32 Reg.SKX_CELL_MISSING).raise Reg.SKX_CELL_EVT 5
  else d

/-- A bit string as a number, from bytes sent most significant first. -/
def bitString (ws : List Word) : Nat := ws.foldl (fun n w => n * 2 ^ 32 + w.toNat) 0

/-- Complex sample `i` of the blocks in a string of `total` bits, in steps of 2^-30 of full scale (R285, R287). -/
def blockSample (n total code i : Nat) : Cpx :=
  let m := mantissa code
  let at_ := total - i / 12 * (24 * m + 4) - 4
  let e := n / 2 ^ at_ % 16
  let part := fun (j : Nat) => signed m (n / 2 ^ (at_ - (j + 1) * m) % 2 ^ m) * (2 ^ (e + 16 - m) : Nat)
  ⟨part (2 * (i % 12)), part (2 * (i % 12) + 1)⟩

/-- The subcarriers on which blocks carry a non-zero reference, with the references, from PRB `first` on (R285, R287, R292). -/
def refVals (ws : List Word) (first count code : Nat) : List (Nat × Cpx) :=
  let n := bitString ws
  ((List.range (12 * count)).map fun i => (12 * first + i, blockSample n (32 * ws.length) code i)).filter fun x => x.2 != ⟨0, 0⟩

/-- Subcarriers as a number, one bit each. -/
def carrierMask (vs : List (Nat × Cpx)) : Nat := vs.foldl (fun n x => n + 2 ^ x.1) 0

/-- Half of the cycles after which a symbol address comes again (R34): within it a late reference is of the same symbol. -/
def lateSpan : Nat := 512 * 4915200

/-- A sounding reference (R140, R292): kept for its symbol, or late; each carrier and symbol counts once. -/
def Dev.soundingMessage (d : Dev) (f : Nat) : Dev :=
  match d.take fun m => m.flow == f && isSoundFlow f with
  | none => d
  | some (m, d) =>
    let w := m.words.getD 0 0
    let w1 := m.words.getD 1 0
    if !addrValid d.mu w then d.msgErr Reg.SKX_CELL_FMT_ERR
    else
      let nom := nearestNom d.mu w m.first
      let c := flowCar f
      if w.get 29 27 ≠ d.mwAt f (d.tickOfNom nom) then d.msgErr Reg.SKX_CELL_FMT_ERR
      else if !d.inArrival nom m.first then d.lateMsg
      else if sampTime nom < m.time then
        let late := d.beam.lateRefs.filter fun (x : Nat × Word × Nat) => decide (d.time.cycle < x.2.2 + lateSpan)
        if late.any fun x => x.1 == c && x.2.1 == addrFields w then d.lateMsg
        else
          let d := { d with beam := { d.beam with lateRefs := (c, addrFields w, d.time.cycle) :: late } }
          d.lateMsg.count Reg.BEAM_SND_DROP 31 16
      else
        let vs := refVals (m.words.drop 2) (w1.get 26 18) (w1.get 17 9) (w.get 29 27)
        let x : SoundRef := { car := c, layer := w1.get 31 27, addr := addrFields w, mask := carrierMask vs, vals := vs }
        let same := fun (y : SoundRef) => y.car == x.car && y.layer == x.layer && y.addr == x.addr
        let d := if d.beam.refs.any same then d.count32 Reg.SKX_CELL_DUP else d
        { d with beam := { d.beam with refs := d.beam.refs.filter (fun y => !same y) ++ [x] } }

/-- At a tick in beam mode: references of the symbol that begins are handed to the solver with the symbol (R140, R141): subcarriers that
two layers share are excluded and counted. Of a layer's symbols none is kept beyond P_eff ticks. In antenna mode the solver stands
still (R125). -/
def Dev.soundTick (d : Dev) : Dev :=
  let addr := addrOfNom d.mu d.cad.nom
  let now := d.beam.refs.filter fun r => r.addr == addr && d.carOn r.car
  if now.isEmpty || (d.inf Reg.BEAM_CFG).bit 31 then { d with beam := { d.beam with refs := d.beam.refs.filter fun r => r.addr != addr } }
  else
    let shared := fun (c : Nat) => ((now.filter fun r => r.car == c).foldl (fun (x : Nat × Nat) r =>
      (Nat.lor x.1 r.mask, Nat.lor x.2 (Nat.land x.1 r.mask))) (0, 0)).2
    let ones := fun (n : Nat) => ((List.range 3300).filter n.testBit).length
    let excl := ((List.range 4).map fun c => ones (shared c)).sum
    let usable := now.filter fun r => Nat.land r.mask (shared r.car) != r.mask
    let d := d.fset Reg.BEAM_SND_DROP 15 0 (min 65535 (d.fget Reg.BEAM_SND_DROP 15 0 + excl))
    { d with beam := { d.beam with
        refs := d.beam.refs.filter fun r => r.addr != addr
        sounded := usable.foldl (fun l r =>
          ({ car := r.car, layer := r.layer, tick := d.cad.tickIdx, cycle := d.time.cycle, sig := Datapath.reset
             refs := r.vals.filter fun x => !(shared r.car).testBit x.1 } : SoundSym) ::
            l.filter fun (x : SoundSym) => x.car != r.car || x.layer != r.layer || decide (d.cad.tickIdx < x.tick + d.solverPeriod)) d.beam.sounded } }

/-- The weights of an accepted weight-load message (R293): written to the inactive bank of its direction, or refused whole. The
answer says which, with its TAG. -/
def weightLoad (d : Dev) (m : Mem) (ws : List Word) : Dev × Mem × Bool :=
  let w0 := ws.getD 0 0
  let w1 := ws.getD 1 0
  let ul := w0.bit 15
  let bank := !(if ul then d.beam.ulBank else d.beam.dlBank)
  let ants := w1.get 25 19
  let addr := fun (i : Nat) => ashlarAddr bank ul (w0.get 14 5) (w0.get 4 0 + i / ants) (w1.get 31 26 + i % ants)
  if d.ashlarAllows .weightLoad (addr 0) then
    let n := ants * w1.get 18 13
    let (d, m) := (List.range n).foldl (fun (x : Dev × Mem) i =>
      ashlarPut x.1 x.2 .weightLoad (addr i) (leBytes (ws.getD (2 + i) 0))) (d, m)
    (d, m, true)
  else (d.ashlarRefused.raise Reg.SKX_CELL_EVT 7, m, false)

/-- A shed report of the partner (R304). -/
def Dev.shedReport (d : Dev) (ws : List Word) : Dev :=
  let w := ws.getD 0 0
  let f := w.get 9 0
  d.modLink fun l => { l with shedRx := if w.bit 10 then (if l.shedRx.contains f then l.shedRx else l.shedRx ++ [f]) else l.shedRx.filter (· != f) }

/-- A transmit sample message is abandoned (R299). -/
def Dev.abandonMsg (d : Dev) (f : Nat) : Dev :=
  if isSampleFlow f then (d.count32 Reg.SKX_CELL_ABANDON).raise Reg.SKX_CELL_EVT 6 else d

/-! ### Capacity and shedding (R300 to R304) -/

/-- Lanes of a set. -/
def setSize (s : Nat) : Nat := ((List.range 8).filter s.testBit).length

/-- The sample budget of a transmit set (R300). -/
def Dev.budget (d : Dev) (set : Nat) : Int := (97962 * setSize set : Nat) - ((d.inf Reg.SKX_CELL_CFG).get 19 0 : Int)

/-- The transmit sample flows in existence, in the order of R301: lowest priority first, and within one from the highest flow
number down. -/
def Dev.shedOrder (d : Dev) : List Nat :=
  let on := sampleFlows.reverse.filter (d.flowExists true)
  (List.range 8).flatMap fun p => on.filter fun f => (d.inf (Reg.SKX_CELL_FLOW_CFG f)).get 2 0 == p

/-- The flows that R301 sheds. -/
def shedList (budget : Int) : List (Nat × Nat) → Nat → List Nat
  | [], _ => []
  | (f, n) :: rest, total => if (total : Int) ≤ budget then [] else f :: shedList budget rest (total - n)

/-- The transmit set that governs from the landing tick on. -/
def Dev.governingTx (d : Dev) : Nat := afterTx d.link.txSet d.link.switching

/-- Each flow shed or restored is reported and raises its event (R304). -/
def Dev.shedStep (d : Dev) (f : Nat) (shed : Bool) : Dev :=
  let d := d.send 0x3FF (d.linkCell 3 (f + 1024 * b2n shed) 0 d.cad.tickIdx)
  if shed then (d.count32 Reg.SKX_CELL_SHED_EVENTS).raise Reg.SKX_CELL_EVT 0 else d.raise Reg.SKX_CELL_EVT 1

/-- Shedding at a landing tick (R301, R302, R304). Flows that have ceased to exist are forgotten with their counts (R277)
(DEDUCED, log entry 77). -/
def Dev.flowShed (d : Dev) : Dev :=
  let order := d.shedOrder.map fun f => (f, d.flowCells f)
  let now := shedList (d.budget d.governingTx) order (order.map Prod.snd).sum
  let old := d.link.shedTx
  let d := d.modLink fun l => { l with
    shedTx := now
    txSeq := l.txSeq.filter fun (x : Nat × Nat) => !isSampleFlow x.1 || d.flowExists true x.1
    rxSeq := l.rxSeq.filter fun (x : Nat × Nat) => !isSampleFlow x.1 || d.flowExists false x.1 }
  let d := (now.filter fun f => !old.contains f).foldl (fun d f => d.shedStep f true) d
  (old.filter fun f => !now.contains f && d.flowExists true f).foldl (fun d f => d.shedStep f false) d

/-- At a tick: accepted messages of symbols that have begun are spent. -/
def Dev.spendAccepted (d : Dev) : Dev :=
  let now := dlBound d.mu d.cad.nom
  d.modLink fun l => { l with accepted := l.accepted.filter fun (x : Accepted) => decide (now < x.bound) }

/-! ### Event messages (R294) -/

/-- At a cutoff: one message for each group with a rise since the last cutoff, where event messages can be sent. -/
def Dev.eventMessages (d : Dev) : Dev :=
  let can := (d.rd Reg.SKX_CELL_CFG).bit 31 && d.link.txSet != 0
  let d := (List.range 8).foldl (fun d g =>
    let mine := d.rises.filter fun r => r.group == g
    let shown := mine.filter fun r => (d.rd (Reg.SKX_CELL_EVTEN g)).bit r.bit
    match shown with
    | r0 :: _ =>
      if can && mine.any (·.fresh) then
        let raised := shown.foldl (fun (w : Word) r => w ||| BitVec.twoPow 32 r.bit) 0
        let t := shown.foldl (fun n r => min n r.time) r0.time
        let w0 := (((0 : Word).put 31 29 g).put 28 20 (d.fget Reg.TIME_JOIN 8 0))
        ({ d with rises := d.rises.filter fun r => r.group != g }).send 0x330
          [w0, raised, BitVec.ofNat 32 (t / 2 ^ 32), BitVec.ofNat 32 t]
      else d
    | [] => d) d
  { d with rises := d.rises.map fun r => { r with fresh := false } }

/-! ### Registers as read -/

/-- SKX_CELL_STATUS as read. -/
def Dev.cellStatus (d : Dev) : Word := ((0 : Word).put 25 16 d.link.shedTx.length).put 9 0 d.link.shedRx.length

/-- SKX_CELL_CAP as read. -/
def Dev.cellCap (d : Dev) : Word := BitVec.ofNat 20 (max 0 (d.budget d.link.txSet)).toNat |>.setWidth 32

/-- SKX_CELL_DEMAND as read. -/
def Dev.cellDemand (d : Dev) : Word := (0 : Word).put 19 0 ((d.shedOrder.map d.flowCells).sum)

/-- SKX_CELL_FLOWf_STAT as read: EXISTS in either direction. -/
def Dev.flowStat (d : Dev) (f : Nat) : Word :=
  let here := d.flowExists true f || d.flowExists false f
  ((((0 : Word).put 31 31 (b2n (d.link.shedTx.contains f))).put 30 30 (b2n (d.link.shedRx.contains f))).put 29 29
    (b2n (here || (!isSampleFlow f && (rxMeaning f || f == 0x220 || f == 0x330 || f == 0x3FF))))).put 19 0
    (if isSampleFlow f then d.flowCells f else 0)

end Sys2Proof.Machine
end

