-- ==== Sys2Proof/Machine/Sec.lean ====
section
/-!
DEFINITION. Security and debug (chapter 17): debug levels, unlocking, authentication of packets and requests, lifecycle,
firmware images. The cryptography is outside the model: opaque functions of Config (DESIGN CHOICE, log entry 3).
-/

namespace Sys2Proof.Machine

/-! ### Debug levels (R473 to R476) -/

/-- The level that Table 17.5 opens without unlock in the present lifecycle and power state. -/
def Dev.freeLevel (d : Dev) : Nat :=
  if d.power.dev < 2 then 0
  else match d.sec.lifecycle with
    | 0 => 2
    | 1 => 1
    | _ => 0

/-- The highest level that may be open (Table 17.5). SCAN needs BOOT_SEL 0b11 (R473). -/
def Dev.maxLevel (d : Dev) : Nat :=
  let scan := d.power.bootSel = 3
  match d.sec.lifecycle, d.power.dev with
  | 0, 2 => if scan then 3 else 2
  | 0, 3 => 2
  | 0, 4 => 2
  | 1, 2 => 2
  | 1, 3 => 2
  | 1, 4 => 2
  | 2, 2 => 2
  | 2, 3 => 2
  | 2, 4 => 1
  | 3, 2 => if scan then 3 else 2
  | 3, 3 => 2
  | 3, 4 => 2
  | _, _ => 0

/-- The debug level open now: the session's, or the one open without unlock. -/
def Dev.debugLevel (d : Dev) : Nat := max d.sec.level d.freeLevel

/-- Closes an open session (R474, R476). -/
def Dev.closeSession (d : Dev) : Dev :=
  if d.sec.level = 0 ∧ ¬ d.sec.halted then d
  else ({ d with sec := { d.sec with level := 0, halted := false } }).raise Reg.SEC_EVT 2

/-- The key that unlocks a level: the Holant root key in FACTORY and RETURN, the owner's in OWNED and FIELD (Table 17.5). -/
def Dev.keyVerifies (d : Dev) (pub : List Byte) : Bool :=
  if d.sec.lifecycle = 1 ∨ d.sec.lifecycle = 2 then d.sec.ownerHash == some (Config.sha384 pub)
  else pub == Config.holantKey

/-- The bytes of a number, most significant first. -/
def beN (k n : Nat) : List Byte := (leN k n).reverse

/-- The message that an unlock or lifecycle response signs (R474); `last` is the level or the target lifecycle. It ends with
LEVEL or the target as the rule orders them (PRESUMED, log entry 41). -/
def Dev.unlockMessage (d : Dev) (nonce : List Byte) (level target : Option Nat) : List Byte :=
  let pre := nonce ++ beN 8 Config.siliconId.toNat ++ beN 2 (d.fget Reg.TIME_JOIN 8 0)
  match target with
  | some t => pre ++ beN 4 d.sec.bootCount.toNat ++ beN 1 t
  | none => pre ++ beN 1 (level.getD 0) ++ beN 4 d.sec.bootCount.toNat

/-- The public key (97 bytes) and signature (96 bytes) of a response: P1 to P25 and P26 to P49. -/
def responseKey (ps : List Word) : List Byte × List Byte :=
  (((ps.drop 1).take 25).flatMap beBytes |>.take 97, ((ps.drop 26).take 24).flatMap beBytes)

/-- A challenge (R474): a fresh nonce, or none where the level is not allowed or the lockout runs. -/
def Dev.challenge (d : Dev) (level : Nat) (checkLevel : Bool) : Option (List Byte × Dev) :=
  if d.sec.lockout || (checkLevel && decide (d.maxLevel < level)) then none
  else
    let n := (List.range 32).map fun i => Config.nonceByte (d.freeCtr + i)
    some (n, { d with freeCtr := d.freeCtr + 32, sec := { d.sec with nonce := some n } })

/-- A failed response (R474): counted, and challenges are refused for a while (DEDUCED, log entry 63). -/
def Dev.unlockFail (d : Dev) : Dev :=
  ({ d with sec := { d.sec with nonce := none, fails := min 255 (d.sec.fails + 1), lockout := true } }).raise Reg.SEC_EVT 1

/-- A response (R474): raises the level where the key and the signature verify and Table 17.5 allows it now
(DESIGN CHOICE, log entry 3). -/
def Dev.response (d : Dev) (level : Nat) (ps : List Word) : Dev × Bool :=
  let (pub, sig) := responseKey ps
  match d.sec.nonce with
  | some n =>
    if level ≤ d.maxLevel ∧ d.keyVerifies pub ∧ Config.sigVerify pub (d.unlockMessage n (some level) none) sig then
      (({ d with sec := { d.sec with nonce := none, fails := 0, level := level } }).raise Reg.SEC_EVT 0, true)
    else (d.unlockFail, false)
  | none => (d.unlockFail, false)

/-- SEC_STATUS. -/
def Dev.secStatus (d : Dev) : Word :=
  ((((((0 : Word).put 31 29 d.sec.lifecycle).put 28 28 (b2n d.sec.lcNext.isSome)).put 27 25 (d.sec.lcNext.getD 0)).put 24 24
    (b2n d.sec.halted)).put 23 22 d.debugLevel).put 15 8 d.sec.fails |>.put 6 0 d.sec.rollback

/-! ### Authentication (R468 to R471) -/

/-- The 96-bit nonce of a packet (R468). -/
def Dev.gcmNonce (d : Dev) (toHost spi : Bool) (seq : Nat) : List Byte :=
  beN 4 (b2n toHost * 2 ^ 31 + b2n spi * 2 ^ 30 + d.fget Reg.TIME_JOIN 8 0) ++ beN 8 seq

/-- The last accepted inbound sequence number of a path. -/
def Dev.rxSeqOf (d : Dev) (spi : Bool) : Nat := if spi then d.sec.rxSpi else d.sec.rxLink

/-- The sequence number that SEQ_LO stands for: the smallest above the last accepted one with those low bits (R469). -/
def seqFrom (last lo : Nat) : Nat := last + 1 + (lo + 4096 - (last + 1) % 4096) % 4096

/-- A failed authentication (R469). -/
def Dev.authFail (d : Dev) : Dev := (d.count32 Reg.SEC_AUTH_FAIL).raise Reg.SEC_EVT 3

/-- Opens an authenticated body (R468, R469): the plaintext, with the sequence advanced, or none (DESIGN CHOICE, log entry 3). -/
def Dev.authOpen (d : Dev) (spi : Bool) (lo : Nat) (aad body tag : List Byte) : Option (List Byte) × Dev :=
  let last := d.rxSeqOf spi
  let seq := seqFrom last lo
  match d.sec.kFlow with
  | none => (none, d.authFail)
  | some k =>
    if last + 4095 < seq then (none, d.authFail)
    else
      match Config.gcmOpen k (d.gcmNonce false spi seq) aad body tag with
      | some p => (some p, { d with sec := if spi then { d.sec with rxSpi := seq } else { d.sec with rxLink := seq } })
      | none => (none, d.authFail)

/-- The next outbound sequence number of a path, taken. -/
def Dev.nextTxSeq (d : Dev) (spi : Bool) : Nat × Dev :=
  let n := (if spi then d.sec.txSpi else d.sec.txLink) + 1
  (n, { d with sec := if spi then { d.sec with txSpi := n } else { d.sec with txLink := n } })

/-- Seals a reply body (R468): ciphertext and tag (DESIGN CHOICE, log entry 3). -/
def Dev.seal (d : Dev) (spi : Bool) (seq : Nat) (aad body : List Byte) : List Byte :=
  Config.gcmSeal (d.sec.kFlow.getD []) (d.gcmNonce true spi seq) aad body

/-- A write of SEC_CFG (R471): bits are set, never cleared. -/
def Dev.writeSecCfg (d : Dev) (w : Word) : Dev := d.wr Reg.SEC_CFG (d.rd Reg.SEC_CFG ||| (w &&& 3))

/-! ### Lifecycle (R462, R463) -/

/-- Whether Table 17.2 has a transition. -/
def lcStep (from_ to_ : Nat) : Bool :=
  (from_ == 0 && to_ == 1) || (from_ == 1 && to_ == 2) || ((from_ == 1 || from_ == 2) && to_ == 3) || (from_ != 4 && to_ == 4)

/-- Burns a transition (R463): secrets are programmed or masked at the burn, the state takes effect at the next reset. -/
def Dev.burn (d : Dev) (to_ : Nat) (hash secret : Option (List Byte)) : Dev :=
  let s := { d.sec with lcNext := some to_ }
  let s := if to_ = 1 then { s with ownerHash := hash, flowSecret := secret }
    else if to_ = 3 ∨ to_ = 4 then { s with ownerHash := none, flowSecret := none }
    else s
  ({ d with sec := s }).raise Reg.SEC_EVT 5

/-! ### Firmware images (R464 to R466) -/

/-- Whether an image is accepted in the present lifecycle (R465), and what the bank then holds (DESIGN CHOICE, log entry 3). -/
def Dev.checkImage (d : Dev) (img : List Byte) : Option FwBank :=
  let n := fun (o k : Nat) => ofLe ((img.drop o).take k)
  let part := fun (o k : Nat) => (img.drop o).take k
  let body := (img.drop 512).take (n 0x10 4)
  let key := part 0x120 97
  let base := n 0 4 == 0x46574B31 && n 4 2 == 1 && decide (n 0x10 4 ≤ 1900000 ∧ 512 + n 0x10 4 ≤ img.length) &&
    part 0x40 48 == Config.sha384 body && Config.sigVerify Config.holantKey (img.take 0xC0) (part 0xC0 96)
  let own := d.sec.ownerHash == some (Config.sha384 key) && part 0x70 48 == Config.sha384 key &&
    Config.sigVerify key (img.take 0x120) (part 0x184 96)
  let needOwn := d.sec.lifecycle = 1 ∨ d.sec.lifecycle = 2
  if base && (own || !needOwn) && decide (d.sec.rollback ≤ n 0xC 4) && decide (d.sec.lifecycle ≠ 4) then
    some { valid := true, version := BitVec.ofNat 32 (n 8 4), rollback := n 0xC 4, owner := own }
  else none

/-- Whether the boot ROM accepts a bank (R465). -/
def Dev.bankGood (d : Dev) (b : FwBank) : Bool :=
  b.valid && decide (d.sec.rollback ≤ b.rollback) && (b.owner || !(d.sec.lifecycle == 1 || d.sec.lifecycle == 2)) && d.sec.lifecycle != 4

/-- The boot ROM boots a bank (R446, R465), or holds: BOOT_SEL 0b11 holds in FACTORY and RETURN, and VOID always does. -/
def Dev.boot (d : Dev) : Dev :=
  let hold := d.sec.lifecycle == 4 || (d.power.bootSel == 3 && (d.sec.lifecycle == 0 || d.sec.lifecycle == 3))
  let stay := fun (d : Dev) => { d with power := { d.power with hold := true } }
  if hold then stay d
  else
    let inactive := !d.sec.active
    let bank := fun (b : Bool) => if b then d.sec.banks[1] else d.sec.banks[0]
    let first := if d.power.bootSel == 2 && (bank inactive).valid then inactive else d.sec.active
    let go := fun (d : Dev) (b : Bool) =>
      { d with sec := { d.sec with fw := (bank b).version }, power := { d.power with booted := true } }.loadGerr
    if d.bankGood (bank first) then go d first
    else
      let d := d.raise Reg.SEC_EVT 6
      if d.bankGood (bank !first) then go d (!first) else stay d

/-- Key derivation at phase 5 of a start (R467) (DESIGN CHOICE, log entry 3). -/
def Dev.deriveKeys (d : Dev) : Dev :=
  let n := d.sec.bootCount + 1
  let k := if d.sec.lifecycle = 1 ∨ d.sec.lifecycle = 2 then d.sec.flowSecret.map fun s => Config.kdf s Config.siliconId n else none
  { d with sec := { d.sec with bootCount := n, kFlow := k, rxLink := 0, rxSpi := 0, txLink := 0, txSpi := 0 } }

/-- Clears the key registers (R467). -/
def Dev.clearKeys (d : Dev) : Dev := { d with sec := { d.sec with kFlow := none, nonce := none } }

end Sys2Proof.Machine
end

