-- ==== Sys2Proof/Machine/Power.lean ====
section
/-!
DEFINITION. Supplies, start-up and power states (chapter 16, R518, R519): resets, rail sequencing, transitions with their
refusers, entry to Dormant, wakes, the phases of a start.
-/

namespace Sys2Proof.Machine

/-- `d` with the power controller changed. -/
def Dev.modPower (d : Dev) (f : Power → Power) : Dev := { d with power := f d.power }

/-! ### Resets (R444, R445, R448) -/

/-- Registers that a reset of the core die leaves alone: the AON island's (Table 16.3) and the Coruf die's, which has
rails of its own (R436). -/
def survivesReset (a : Nat) : Bool := domainOf a == .aon || decide (0x180000 ≤ a ∧ a < 0x190000)

/-- Every domain but the AON island returns with reset values (R445, R448). The Coruf die, OTP, MRAM, the model's own counters and
the record of what has gone out on the link stay. -/
def Dev.resetCore (d : Dev) : Dev :=
  let r := Dev.reset
  { r with
    regs := d.regs.filter fun x => survivesReset x.1
    inforce := d.inforce.filter fun x => survivesReset x.1
    power := { d.power with
      fabric := false, phase := 0, cur := none, stepTo := none, slot := none, ctrl := .off, skx := .off, dsp := .off,
      chisel := .off, tile := Vector.replicate 4 .off, dormantStep := 0, hold := false, booted := false, readyBy := false }
    sec := { d.sec with level := 0, halted := false, kFlow := none, nonce := none, rxLink := 0, rxSpi := 0, txLink := 0, txSpi := 0 }
    sump := { r.sump with logSeq := d.sump.logSeq, logSlot := d.sump.logSlot, extFall := d.sump.extFall }
    time := { r.time with cycle := d.time.cycle }
    bias := d.bias
    link := { r.link with tx := d.link.tx }
    freeCtr := d.freeCtr }

/-- A lifecycle transition that waits takes effect (R463). -/
def Dev.applyLifecycle (d : Dev) : Dev :=
  { d with sec := { d.sec with lifecycle := d.sec.lcNext.getD d.sec.lifecycle, lcNext := none } }

/-- Power-on reset (R444): the AON island resets too; OTP and MRAM keep their contents (DESIGN CHOICE, log entry 21). -/
def Dev.powerOn (d : Dev) (bootSel : Nat) : Dev :=
  let d := d.applyLifecycle
  let c := d.resetCore
  { c with
    regs := c.regs.filter fun x => decide (0x180000 ≤ x.1 ∧ x.1 < 0x190000)
    inforce := c.inforce.filter fun x => decide (0x180000 ≤ x.1 ∧ x.1 < 0x190000)
    power := { Power.reset with bootSel := bootSel }
    sec := { c.sec with fails := 0, lockout := false } }

/-- VAON is removed (R450): the device is Off and the AON island loses its registers. -/
def Dev.powerOff (d : Dev) : Dev :=
  let c := d.resetCore
  { c with
    regs := c.regs.filter fun x => decide (0x180000 ≤ x.1 ∧ x.1 < 0x190000)
    inforce := c.inforce.filter fun x => decide (0x180000 ≤ x.1 ∧ x.1 < 0x190000)
    power := { Power.reset with dev := 0, phase := 0 }
    sec := { c.sec with fails := 0, lockout := false } }

/-- A reset cause is recorded in POWER_AON_CAUSE. -/
def Dev.cause (d : Dev) (bit : Nat) : Dev := d.raise Reg.POWER_AON_CAUSE bit

/-- The target of a boot (POWER_AON_CFG.BOOT_TGT). -/
def Dev.bootTgt (d : Dev) : Nat := d.fget Reg.POWER_AON_CFG 28 28

/-- A start begins at phase 2: rail sequencing with the first enable (R439). -/
def Dev.startRails (d : Dev) (tgt : Nat) : Dev :=
  d.modPower fun p => { p with phase := 2, startTgt := tgt, sequencing := true, rails := 1, pgood := false, removing := false }

/-- RESET_N has been low for 1 µs (R445): an all-safe frame, then every domain but the AON island resets. -/
def Dev.resetAssert (d : Dev) : Dev :=
  if d.power.dev = 0 then d
  else
    let d := if d.bias.linkUp then d.force368 else d
    let p := d.power
    let d := d.closeSession.resetCore
    d.modPower fun q => { q with
      inReset := true, dev := if p.rails = 6 ∧ ¬ p.sequencing ∧ ¬ p.removing then 2 else 1
      phase := if p.sequencing then 2 else 0, dormantStep := if p.removing then p.dormantStep else 0 }

/-- RESET_N rises (R445, R446): a boot from phase 3, or from phase 2 in Dormant. -/
def Dev.resetRelease (d : Dev) (bootSel : Nat) : Dev :=
  if !d.power.inReset then d
  else
    let d := (d.applyLifecycle.modPower fun p => { p with inReset := false, bootSel := bootSel }).cause 1
    if d.power.removing then (d.cause 22).modPower fun p => { p with wakeLatch := some (max (p.wakeLatch.getD 0) d.bootTgt) }
    else if d.power.sequencing then d.modPower fun p => { p with startTgt := d.bootTgt }
    else if d.power.dev = 1 then
      (((d.cause 22).count Reg.POWER_AON_CNT 15 0).modPower fun p => { p with wakeLatch := none }).startRails d.bootTgt
    else d.modPower fun p => { p with phase := 3, startTgt := d.bootTgt, ctrl := .on }

/-! ### Domains and device states (Table 16.3) -/

/-- The domains take the states of a device state. -/
def Dev.setDomains (d : Dev) (dev : Nat) : Dev :=
  match dev with
  | 2 => d.modPower fun p => { p with ctrl := .on, skx := .on, dsp := .retain, chisel := .retain, tile := Vector.replicate 4 .on }
  | 3 => d.modPower fun p => { p with ctrl := .on, skx := .on, dsp := .on, chisel := .on, tile := Vector.replicate 4 .on }
  | 4 => d.modPower fun p => { p with ctrl := .on, skx := .on, dsp := .on, chisel := .on, tile := Vector.replicate 4 .on }
  | _ => d

/-- Whether every tile is in Sleep. -/
def Dev.tilesAsleep (d : Dev) : Bool := (List.finRange 4).all fun t => d.tiles[t].level == 0 && d.tiles[t].goal.isNone

/-- Whether some tile has reached SynthOn. -/
def Dev.someSynthOn (d : Dev) : Bool :=
  (List.finRange 4).any fun t => !d.tiles[t].retired && d.tiles[t].level == 2 && d.tiles[t].goal.isNone

/-- Whether a wake source other than RESET_N is enabled and usable (R459). -/
def Dev.canWake (d : Dev) : Bool :=
  let c := d.rd Reg.POWER_AON_CFG
  c.bit 31 || (d.power.slowclk && (c.bit 30 || [0, 2].any fun t => (d.rd (Reg.WAKE_CFG t)).bit 31 || (d.rd (Reg.WAKE_CFG t)).bit 30))

/-- CAL_RUNNING of Table 16.7. -/
def Dev.calRunning (d : Dev) : Bool := !d.cal.runs.isEmpty || !d.cal.queue.isEmpty || d.cal.snap.isSome || d.cal.restore.isSome

/-- LINK_BUSY of Table 16.7, for a request that `cmd` may have made. -/
def Dev.linkBusy (d : Dev) (cmd : Option Nat) : Bool :=
  !d.drunas.ring.isEmpty || !d.link.proposals.isEmpty ||
    d.drunas.cmds.any fun c => some c.id != cmd && (c.stage == .pendList || c.stage == .working || c.stage == .queuedCal)

/-- The refuser of a step, 0 where none (Tables 16.5 and 16.7). -/
def Dev.refuser (d : Dev) (from_ to_ : Nat) (cmd : Option Nat) : Nat :=
  let first := fun (l : List (Bool × Nat)) => ((l.find? fun x => x.1).map Prod.snd).getD 0
  match from_, to_ with
  | 2, 3 => first [(d.drunas.handover, 7), ((List.finRange 4).all fun t => d.tiles[t].retired, 0xC)]
  | 3, 4 => first [(!d.cad.running, 0xA), (d.sump.sensors.toList.any Sensor.atCrit, 0xB)]
  | 4, 3 => first [(d.anyTx, 1), (d.anyRx, 2)]
  | 3, 2 => first [(d.calRunning, 4), (d.userKernel, 8), (d.drunas.handover, 7), (d.sec.halted, 6)]
  | 2, 1 => first [(d.linkBusy cmd, 3), (d.calRunning, 4), (!(d.rd Reg.BIAS_CFG).bit 0, 5),
      (decide (2 ≤ d.sec.level) && d.sec.lifecycle != 2, 6), (!d.canWake, 9), (d.drunas.handover, 7)]
  | _, _ => 0

/-- Commits LEVEL for every tile that is not retired. -/
def Dev.commitLevels (d : Dev) (l : Nat) : Dev :=
  (List.finRange 4).foldl (fun d t =>
    if d.tiles[t].retired then d
    else
      let a := Reg.TILE_CFG t.val
      let w := (d.rd a).put 1 0 l
      (d.wr a w).commit byFirmware (.word a) [(a, w, tickMask a)] 0) d

/-- The final result word of a PWR_REQUEST: code and state reached. -/
def pwrResult (code dev : Nat) : Word := ((0 : Word).put 31 16 code).put 2 0 dev

/-! ### Requests and transitions (R450 to R454)

`Dev.stepPower` begins the next step of the request in progress; what a request meets at its end is in `Dev.endRequest`. -/

/-- The neighbour of a state on the way to a target. -/
def towards (dev tgt : Nat) : Nat := if dev < tgt then dev + 1 else dev - 1

/-- Begins the next step of the request in progress. A refusal ends the request (R450, R452): the answer is false. -/
def Dev.stepPower (d : Dev) : Dev × Bool :=
  match d.power.cur with
  | none => (d, true)
  | some r =>
    let n := towards d.power.dev r.target
    let code := d.refuser d.power.dev n r.cmd
    if code ≠ 0 then
      let d := ((d.count32 Reg.POWER_REFUSED).fset Reg.POWER_LAST 31 16 code).raise Reg.POWER_EVT 3
      ((d.endCmd r.cmd 0x10 [pwrResult code d.power.dev]).modPower fun p => { p with cur := none, stepTo := none }, false)
    else
      let from_ := d.power.dev
      let d := d.modPower fun p => { p with stepTo := some n }
      if from_ = 2 ∧ n = 3 then ((d.setDomains 3).commitLevels 2, true)
      else if from_ = 3 ∧ n = 2 then ((d.commitLevels 0).solverAbandon, true)
      else if n = 1 then (d.modPower fun p => { p with dormantStep := 1 }, true)
      else (d.commit byFirmware .power [] n, true)

/-- The pending request begins, where one waits; a request for the state the device is in is answered at once (R453). -/
def Dev.nextRequest (d : Dev) : Dev :=
  match d.power.slot with
  | none => d
  | some r =>
    let d := d.modPower fun p => { p with slot := none }
    if r.target = d.power.dev then d.endCmd r.cmd 0 [pwrResult 0 d.power.dev]
    else ((d.modPower fun p => { p with cur := some r }).stepPower).1

/-- A step of the request in progress has reached its state (R450, R453, R454) (DEDUCED, log entry 32). -/
def Dev.arrived (d : Dev) : Dev :=
  match d.power.cur with
  | none => d.modPower fun p => { p with stepTo := none }
  | some r =>
    let d := d.modPower fun p => { p with stepTo := none }
    if r.target = d.power.dev then
      let d := (d.raise Reg.POWER_EVT 0).modPower fun p => { p with cur := none }
      (d.endCmd r.cmd 0 [pwrResult 0 d.power.dev]).nextRequest
    else
      let (d, ok) := d.stepPower
      if ok then d else d.nextRequest

/-- A request for a device state (R453). -/
def Dev.requestPower (d : Dev) (target : Nat) (cmd : Option Nat) : Dev :=
  if target < 1 ∨ 4 < target then d
  else
    match d.power.cur with
    | some r =>
      if r.target = target then d.endCmd cmd 0 [pwrResult 0 d.power.dev]
      else
        let d := match d.power.slot with
          | some x => (d.endCmd x.cmd 0x30 []).raise Reg.POWER_EVT 2
          | none => d
        d.modPower fun p => { p with slot := some ⟨target, cmd⟩ }
    | none =>
      if target = d.power.dev then d.endCmd cmd 0 [pwrResult 0 d.power.dev]
      else
        let (d, ok) := (d.modPower fun p => { p with cur := some ⟨target, cmd⟩ }).stepPower
        if ok then d else d.nextRequest

/-- A change between Ready and Active lands (R451); in FIELD an open FULL session falls to OBSERVE (R476). -/
def Dev.landPower (d : Dev) (to_ : Nat) : Dev :=
  if d.power.stepTo ≠ some to_ then d
  else
    let d := d.modPower fun p => { p with dev := to_ }
    let d := if to_ = 4 ∧ d.sec.lifecycle = 2 ∧ 1 < d.sec.level then { d with sec := { d.sec with level := 1, halted := false } } else d
    d.arrived

/-- A step between Standby and Ready completes: Ready where a tile is at SynthOn, Standby always (Table 16.5). -/
def Dev.transitionDone (d : Dev) : Dev :=
  match d.power.dev, d.power.stepTo with
  | 2, some 3 => if d.someSynthOn then (d.modPower fun p => { p with dev := 3 }).arrived else d
  | 3, some 2 => ((d.modPower fun p => { p with dev := 2 }).setDomains 2).arrived
  | _, _ => d

/-- The step to Ready aborts with SYNTH_TIMEOUT (R452): back to Standby, where LEVEL acts as 0. -/
def Dev.abortReady (d : Dev) : Dev :=
  let cmd := match d.power.cur with | some r => r.cmd | none => none
  let d := ((d.count32 Reg.POWER_ABORTED).fset Reg.POWER_LAST 15 0 0x102).raise Reg.POWER_EVT 4
  let d := (d.endCmd cmd 0x31 [pwrResult 0x102 2]).modPower fun p => { p with
    cur := none, stepTo := none, phase := if p.phase = 9 then 0 else p.phase }
  let d := (List.finRange 4).foldl (fun d t => d.landLevel t 0) (d.setDomains 2)
  d.nextRequest

/-- No tile has reached SynthOn within 5 ms (Table 16.5). -/
def Dev.synthTimeout (d : Dev) : Dev :=
  if d.power.stepTo = some 3 ∧ d.power.dev = 2 ∧ ¬ d.someSynthOn then d.abortReady else d

/-! ### Entry to Dormant (R455, Table 16.8) -/

/-- The Coruf die has confirmed its safe values (steps 2 and 3): keys are cleared and sessions close. -/
def Dev.safeConfirmed (d : Dev) : Dev :=
  if d.power.dormantStep = 1 ∧ d.tilesAsleep then
    ((d.force368.clearKeys).closeSession).modPower fun p => { p with dormantStep := 3 }
  else d

/-- The entry is past its refusers, with every log record written: its request ends with OK (Table 16.8, step 5). -/
def Dev.entryEnds (d : Dev) : Dev :=
  match d.power.cur with
  | some r => d.endCmd r.cmd 0 [pwrResult 0 1]
  | none => d

/-- The point of no return, once the final reply has left: the entry record is written, and every lane enters electrical idle
(DESIGN CHOICE, log entry 13). -/
def Dev.noReturn (d : Dev) : Dev :=
  let d := { d with lanes := Vector.ofFn fun k => { d.lanes[k] with st := if d.lanes[k].retired then .retired else .ei, fastExit := false } }
  let d := d.modLink fun l => { l with txSet := 0, rxSet := 0, proposals := [], switching := [] }
  d.modPower fun p => { p with dormantStep := 5, entryRecs := p.entryRecs + 1 }

/-- The logic rails are down (R440): Dormant. -/
def Dev.reachDormant (d : Dev) : Dev :=
  (d.resetCore.count Reg.POWER_AON_CNT 31 16).modPower fun p => { p with dev := 1, removing := false, sequencing := false, rails := 0, pgood := false }

/-- The next PWR_EN falls (R440). -/
def Dev.railRemove (d : Dev) : Dev :=
  if d.power.dormantStep ≠ 5 then d
  else if d.power.rails ≤ 1 then d.reachDormant
  else d.modPower fun p => { p with rails := p.rails - 1, removing := true }

/-- An emergency entry to Dormant (R441). -/
def Dev.emergency (d : Dev) : Dev :=
  if d.power.rails ≠ 6 ∨ d.power.sequencing ∨ d.power.removing then d
  else
    let now := d.time.cycle
    let times := now :: d.power.emergencies.filter fun c => decide (now ≤ c + 4915200000)
    let limit := decide (3 ≤ times.length)
    let d := (d.clearKeys.reachDormant).cause 2
    let d := if limit then d.cause 4 else d
    d.modPower fun p => { p with emergencies := times, restartLimit := limit, pgFault := true, autoDue := !limit }

/-- The automatic restart of R441, 100 ms after the entry. -/
def Dev.autoRestart (d : Dev) : Dev :=
  if d.power.dev = 1 ∧ d.power.phase = 0 ∧ d.power.autoDue ∧ ¬ d.power.inReset ∧ (d.rd Reg.POWER_AON_CFG).bit 29 then
    let due := d.power.emergencies.headD 0 + 49152000
    let d := { d with time := { d.time with cycle := max d.time.cycle due } }
    (d.modPower fun p => { p with autoDue := false }).startRails d.bootTgt
  else d

/-! ### Rail sequencing (R439) -/

/-- PGOOD rises. -/
def Dev.pgoodRise (d : Dev) : Dev := if d.power.sequencing then d.modPower fun p => { p with pgood := true } else d

/-- PGOOD has been high for 1 ms: the next enable rises; after the sixth the sequence is complete. -/
def Dev.railStep (d : Dev) : Dev :=
  if !d.power.sequencing || !d.power.pgood then d
  else if d.power.rails < 6 then d.modPower fun p => { p with rails := p.rails + 1, pgood := false }
  else d.modPower fun p => { p with sequencing := false, ctrl := .on }

/-- PGOOD has not risen within 10 ms: back to Dormant with cause SUPPLY. -/
def Dev.pgoodTimeout (d : Dev) : Dev :=
  if d.power.sequencing && !d.power.pgood then
    (d.cause 3).modPower fun p => { p with sequencing := false, rails := 0, phase := 0, dev := 1 }
  else d

/-- AVS lowers the VCORE set point by 2 mV (R443). -/
def Dev.avsStep (d : Dev) : Dev :=
  let v := d.fget Reg.POWER_VOLT 31 16
  if (d.rd Reg.POWER_CFG).bit 31 then d.fset Reg.POWER_VOLT 31 16 (max 650 (v - 2)) else d

/-- The margin is lost: the VCORE set point rises, 10 mV for each microsecond that the report stands for (DESIGN CHOICE, log entry 18). -/
def Dev.avsRaise (d : Dev) : Dev :=
  let v := d.fget Reg.POWER_VOLT 31 16
  if (d.rd Reg.POWER_CFG).bit 31 then d.fset Reg.POWER_VOLT 31 16 (min 850 (v + 10)) else d

/-- A write of POWER_CFG: with AVS_EN at 0 VCORE stays at 0.85 V (R443). -/
def Dev.writePowerCfg (d : Dev) (w : Word) : Dev :=
  let d := d.wr Reg.POWER_CFG (w &&& 0x80000000#32)
  if w.bit 31 then d else d.fset Reg.POWER_VOLT 31 16 850

/-! ### Wakes (R456, R457) -/

/-- A wake arrives: in Dormant, or during an entry, it is latched with its target; its source is recorded
(DEDUCED, log entry 68). -/
def Dev.wake (d : Dev) (src target : Nat) : Dev :=
  let t := if target = 3 then 0 else target
  let d := d.cause src
  if d.power.dev = 1 ∧ d.power.phase = 0 ∨ d.power.dormantStep ≠ 0 then
    d.modPower fun p => { p with
      wakeLatch := some (max (p.wakeLatch.getD 0) t), wakeDeferred := p.wakeDeferred || decide (p.dormantStep ≠ 0) }
  else d

/-- Whether the device is in Dormant, or on its way there past the refusers. -/
def Dev.dormant (d : Dev) : Bool := (d.power.dev == 1 && d.power.phase == 0) || d.power.dormantStep != 0

/-- WAKE_N has been low for 10 µs. -/
def Dev.wakeN (d : Dev) : Dev :=
  if d.power.dev = 0 then d
  else if d.dormant then
    if (d.rd Reg.POWER_AON_CFG).bit 31 then d.wake 16 (d.fget Reg.POWER_AON_CFG 27 26) else d
  else if d.power.dev = 1 then d.cause 16
  else (d.cause 16).raise Reg.POWER_EVT 1

/-- The wake timer expires, in Dormant. -/
def Dev.wakeTimer (d : Dev) : Dev :=
  if d.power.dev = 1 ∧ d.power.phase = 0 ∧ (d.rd Reg.POWER_AON_CFG).bit 30 ∧ d.power.slowclk then
    d.wake 17 (d.fget Reg.POWER_AON_CFG 25 24)
  else d

/-- The island takes a latched wake once in Dormant. In the same cycle as RESET_N the reset governs (R445). -/
def Dev.wakeTaken (d : Dev) : Dev :=
  match d.power.wakeLatch with
  | none => d
  | some t =>
    if d.power.dev = 1 ∧ d.power.phase = 0 ∧ ¬ d.power.inReset then
      ((d.count Reg.POWER_AON_CNT 15 0).modPower fun p => { p with wakeLatch := none, wokeOwed := true, autoDue := false }).startRails t
    else d

/-! ### The phases of a start (R460, R526 to R528) -/

/-- The image of an MRAM slot. -/
def slotImage (m : Mem) (slot : Nat) : List Byte := Mem.bytes m (slotAddr slot 0) 0x10000

/-- WARM_SLOT. -/
def Dev.warmSlot (d : Dev) : Nat := d.fget Reg.POWER_AON_CFG 21 20

/-- The end of phase 6: Standby, with every SRAM cleared; what is owed to POWER_EVT is set now that it answers. -/
def reachStandby (d : Dev) (m : Mem) : Dev × Mem :=
  let d := ((d.setDomains 2).modPower fun p => { p with dev := 2, fabric := true }).lanesUp
  let d := if d.power.pgFault then d.raise Reg.POWER_EVT 6 else d
  let d := if d.power.wakeDeferred then d.raise Reg.POWER_EVT 5 else d
  let d := if d.power.wokeOwed then d.raise Reg.POWER_EVT 1 else d
  let d := d.modPower fun p => { p with
    pgFault := false, wakeDeferred := false, wokeOwed := false, phase := 7
    cur := if p.startTgt = 0 then none else some ⟨3, none⟩ }
  (if d.power.startTgt = 0 then d.raise Reg.POWER_EVT 0 else d, Mem.clear m 0 0x120000000)

/-- R518: synthesizer words and roles of the image in WARM_SLOT are committed, ACT at 0. -/
def Dev.restoreWords (d : Dev) (img : List Byte) : Dev :=
  let len := ofLe ((img.drop 8).take 4)
  (sectionsOf 64 ((img.drop 64).take (len - 68))).foldl (fun d (s : Nat × Nat × List Word) =>
    let (type, index, ws) := s
    if type = 1 ∧ index < 4 then
      let set := fun (d : Dev) (b : Bool) (i f : Word) =>
        ((d.wr (synIntReg index b) i).wr (synFracReg index b) f).commit byFirmware (.synWord (toTile index) b)
          [(synIntReg index b, i, wholeWord), (synFracReg index b, f, wholeWord)] 0
      let d := set (set d false (ws.getD 0 0) (ws.getD 1 0)) true (ws.getD 2 0) (ws.getD 3 0)
      let a := Reg.TILE_SYN_CTRL index
      let w := (((d.rd a).put 5 4 ((ws.getD 4 0).get 5 4)).put 2 2 ((ws.getD 4 0).get 2 2)).put 0 0 0
      (d.wr a w).commit byFirmware (.synAct (toTile index)) [(a, w, tickMask a)] 0
    else d) d

/-- Phase 9 begins: from the words of WARM_SLOT, or with an abort where the slot holds no image (R518, R519)
(DEDUCED, log entry 32). -/
def Dev.beginReady (d : Dev) (m : Mem) : Dev :=
  let img := slotImage m d.warmSlot
  if imageAccepted img then
    let d := (d.restoreWords img).modPower fun p => { p with phase := 9 }
    let (d, ok) := d.stepPower
    if ok then d else (d.modPower fun p => { p with phase := 0 }).nextRequest
  else (d.modPower fun p => { p with phase := 9 }).abortReady

/-- The start-up calibrations of a cold start, in the order of Table 7.7 (R202), over the tiles that are not retired. -/
def Dev.startUpCals (d : Dev) : Dev :=
  let mask := (List.finRange 4).foldl (fun n t => if d.tiles[t].retired then n else n + 2 ^ t.val) 0
  let reqs := [1, 2, 3, 4, 5, 6, 7].map fun c => ({ code := c, mask := mask, left := mask, deferred := 0, cmd := none, terr := 0, at_ := 0 } : CalReq)
  ({ d with cal := { d.cal with queue := d.cal.queue ++ reqs } }).startQueued

/-- Phase 11 begins: the restore of WARM_SLOT (R458), or start-up calibrations. -/
def Dev.beginCals (d : Dev) (m : Mem) : Dev :=
  let d := d.modPower fun p => { p with phase := 11 }
  let img := slotImage m d.warmSlot
  if d.power.warm && imageAccepted img then d.restoreImage none img else d.startUpCals

/-- What follows phase 8: Standby, where the start ends, or phase 9. -/
def Dev.afterPhase8 (d : Dev) (m : Mem) : Dev :=
  if d.power.startTgt = 0 then d.modPower fun p => { p with phase := 0 } else d.beginReady m

/-- A phase of a start ends where its condition holds, and the next begins (R460). -/
def startPhase (d : Dev) (m : Mem) : Dev × Mem :=
  let next := fun (n : Nat) => (d.modPower fun p => { p with phase := n }, m)
  if d.power.inReset then (d, m)
  else
    match d.power.phase with
    | 1 => if d.power.bootSel = 1 then next 0 else (d.startRails d.bootTgt, m)
    | 2 => if d.power.rails = 6 ∧ ¬ d.power.sequencing then next 3 else (d, m)
    | 3 => if d.time.adv then next 4 else (d, m)
    | 4 => if d.power.booted then next 5 else (d, m)
    | 5 =>
      let d := d.deriveKeys
      let warm := d.power.startTgt == 2 && imageAccepted (slotImage m d.warmSlot)
      (d.modPower fun p => { p with phase := 6, warm := warm }, m)
    | 6 => reachStandby d m
    | 7 => if d.link.txSet ≠ 0 ∧ d.link.rxSet ≠ 0 then next 8 else (d, m)
    | 8 => if d.time.master.isSome ∧ d.time.locked then (d.afterPhase8 m, m) else (d, m)
    | 9 =>
      if d.power.dev = 3 then
        let d := d.writeRun true
        if d.power.warm then (d.beginCals m, m) else (d.modPower fun p => { p with phase := 10 }, m)
      else (d, m)
    | 11 => if d.cal.runs = [] ∧ d.cal.queue = [] ∧ d.cal.restore = none then next 0 else (d, m)
    | _ => (d, m)

/-- Phase 7 or 8 ends at its bound with its condition unmet (R528). -/
def Dev.phaseTimeout (d : Dev) (m : Mem) : Dev :=
  match d.power.phase with
  | 7 => d.modPower fun p => { p with phase := 8 }
  | 8 => d.afterPhase8 m
  | _ => d

/-- Temperatures have settled, or 3.0 s have passed since Ready (R461). -/
def Dev.settled (d : Dev) (m : Mem) : Dev := if d.power.phase = 10 then d.beginCals m else d

/-- The timebase PLL qualifies (R326, R526): local time advances and the fabric answers. -/
def Dev.timebaseUp (d : Dev) : Dev :=
  if d.power.phase = 3 ∧ ¬ d.power.inReset then
    { d with time := { d.time with adv := true }, power := { d.power with fabric := true } }
  else d

/-- The boot ROM at phase 4 (R465). -/
def Dev.bootPhase (d : Dev) : Dev := if d.power.phase = 4 ∧ ¬ d.power.booted then d.boot else d

/-- POWER_STATUS as read. -/
def Dev.powerStatus (d : Dev) : Word :=
  let n := fun (x : DomState) => match x with | .off => 0 | .retain => 1 | .on => 2
  let tgt := match d.power.cur with | some r => r.target | none => d.power.dev
  let w := ((((((0 : Word).put 31 29 d.power.dev).put 28 28 (b2n d.power.cur.isSome)).put 27 25 tgt).put 24 24
    (b2n d.power.slot.isSome)).put 23 21 (match d.power.slot with | some r => r.target | none => 0)).put 20 20 (b2n d.power.slowclk)
  let w := (((w.put 1 0 (n d.power.ctrl)).put 3 2 (n d.power.skx)).put 5 4 (n d.power.dsp)).put 7 6 (n d.power.chisel)
  (List.finRange 4).foldl (fun w t => w.put (9 + 2 * t.val) (8 + 2 * t.val) (n d.power.tile[t])) w

end Sys2Proof.Machine
end

