-- ==== Sys2Proof/Machine/Thermal.lean ====
section
/-!
DEFINITION. The rest of the Sump (chapter 15): wire faults, holds, the external FAULT_N, the fault log in MRAM, thermal
supervision, and the Sump's registers as read.
-/

namespace Sys2Proof.Machine

/-! ### Reports and wire faults (R407 to R409, R418, R421) -/

/-- A report on the pair of a source; the pairs of reserved sources are tied idle (R409). -/
def Dev.pairReport (d : Dev) (n : Fin 256) : Dev := if 230 ≤ n.val then d else d.report n

/-- A wire fault (R408): the source is taken as severe, and its reports are ignored; held sources are no exception. -/
def Dev.wireFault (d : Dev) (n : Fin 256) : Dev :=
  if d.sump.src[n].wireIgnored then d
  else ((d.modSrc n fun s => { s with wire := true, wireIgnored := true }).raise Reg.SUMP_EVT 2).severe n true

/-- A pair has read valid idle for 1 ms (R408). -/
def Dev.wireRecover (d : Dev) (n : Fin 256) : Dev := d.modSrc n fun s => { s with wireIgnored := false }

/-- The hold of a source ends. -/
def Dev.holdEnd (d : Dev) (n : Fin 256) : Dev := d.modSrc n fun s => { s with held := false }

/-- FAULT_N falls, driven by another device (R421). -/
def Dev.extFault (d : Dev) : Dev :=
  if d.sump.pulse || (d.rd Reg.SUMP_FAULTN).bit 31 || d.extLow then d
  else
    let d := { d with sump := { d.sump with extFall := some d.time.cycle } }
    if (d.rd Reg.SUMP_CFG).bit 16 then
      ((List.finRange 256).foldl (fun d n =>
        if (d.rd (Reg.SUMP_SRC_CFG n.val)).bit 31 then d.modSrc n fun s => { s with held := true } else d) d).raise Reg.SUMP_EVT 3
    else d

/-! ### The fault log (R425, R426) -/

/-- The bytes of a record (Table 15.3). -/
def LogRec.bytes (r : LogRec) (seq : Nat) : List Byte :=
  let b := leN 4 seq ++ leN 8 r.time ++ leBytes r.epoch ++ leN 1 r.type ++ leN 1 r.source ++ leN 1 r.kind ++ leN 1 r.index ++
    leN 2 r.count ++ leN 2 (unsigned 16 r.temp) ++ leBytes r.fw
  b ++ leBytes (crc32c b)

/-- The oldest queued record is written to the slot after the newest one. -/
def logWrite (d : Dev) (m : Mem) : Dev × Mem :=
  match d.sump.logQueue with
  | [] => (d, m)
  | r :: rest =>
    let s := d.sump
    ({ d with sump := { s with logQueue := rest, logSeq := s.logSeq + 1, logSlot := (s.logSlot + 1) % 2048 } },
      Mem.setBytes m (logAddr (32 * s.logSlot)) (r.bytes s.logSeq))

/-- The whole queue is drained before the rails fall (R426). -/
def logDrain (d : Dev) (m : Mem) : Dev × Mem := (List.range 16).foldl (fun (x : Dev × Mem) _ => logWrite x.1 x.2) (d, m)

/-- SUMP_LOG_HEAD as read. -/
def Dev.logHead (d : Dev) : Word :=
  if d.sump.logSeq = 0 then 0 else ((0 : Word).put 31 31 1).put 10 0 ((d.sump.logSlot + 2047) % 2048)

/-- The log word at SUMP_LOG_ADDR. -/
def Dev.logWord (d : Dev) (m : Mem) : Word := Mem.word m (logAddr (4 * d.fget Reg.SUMP_LOG_ADDR 13 0))

/-- SUMP_LOG_ADDR moves on after a read of SUMP_LOG_DATA. -/
def Dev.logNext (d : Dev) : Dev := d.fset Reg.SUMP_LOG_ADDR 13 0 (d.fget Reg.SUMP_LOG_ADDR 13 0 + 1)

/-! ### Thermal supervision (R428 to R431) -/

/-- `d` with a sensor changed. -/
def Dev.modSensor (d : Dev) (i : Fin 6) (f : Sensor → Sensor) : Dev :=
  { d with sump := { d.sump with sensors := d.sump.sensors.set i (f d.sump.sensors[i]) } }

/-- R_i P_i, in 10^-5 degrees. -/
def Dev.riseOf (d : Dev) (i : Fin 6) (power : Nat) : Int := (d.rd (Reg.SUMP_THERM_MODEL i.val)).get 31 16 * power

/-- The other dies whose sensors work. -/
def Dev.otherDies (d : Dev) (i : Fin 6) : List (Fin 6) := (List.finRange 6).filter fun j => j != i && !d.sump.sensors[j].broken

/-- Sum over the other working dies of T_j − R_j P_j, in 10^-5 degrees. -/
def Dev.otherSum (d : Dev) (i : Fin 6) : Int :=
  ((d.otherDies i).map fun j => d.sump.sensors[j].meas * 12500 - d.riseOf j d.sump.sensors[j].power).sum

/-- How many sensors are broken. -/
def Dev.brokenSensors (d : Dev) : Nat := ((List.finRange 6).filter fun i => d.sump.sensors[i].broken).length

/-- The die is at CRIT as a sample finds it, where it was or was not before: a limit with hysteresis (R431). -/
def crossed (was : Bool) (temp limit hyst : Int) : Bool := decide (limit ≤ temp) || (was && decide (limit - hyst < temp))

/-- The mute of every tile follows its own die and the core die (R64, Table 15.4). -/
def Dev.critMutes (d : Dev) : Dev :=
  (List.finRange 4).foldl (fun d t =>
    d.setMute t ((d.sump.sensors[0]).atCrit || (d.sump.sensors[t.val + 1]).atCrit)) d

/-- Entry to CRIT (Table 15.4). -/
def Dev.critEnter (d : Dev) (i : Fin 6) (temp : Int) : Dev :=
  let n := 209 + i.val
  let d := ((d.raise Reg.SUMP_EVT 5).pulseFault 2 n).log 5 n 255 0 0 (centi temp)
  let d := d.critMutes
  if i.val = 5 then d.corufCritEnter else if 1 ≤ i.val then d.tileCritEnter (i.val - 1) else d

/-- Release from CRIT. -/
def Dev.critLeave (d : Dev) (i : Fin 6) (temp : Int) : Dev := (d.log 6 (209 + i.val) 255 0 0 (centi temp)).critMutes

/-- A sample of a sensor (R429 to R431): reading in 0.125 degrees, power in 10 mW. With no other working die the estimate has
nothing to stand on: a free value (DESIGN CHOICE, log entry 39) (DEDUCED, log entry 81). -/
def Dev.thermal (d : Dev) (i : Fin 6) (reading : Int) (power : Nat) : Dev :=
  let js := d.otherDies i
  let k := js.length
  let free := signed 16 ((Config.freeWord d.freeCtr).get 15 0) * 12500
  let d0 := if k = 0 then d.drew else d
  -- E_i times max 1 k, in 10^-5 degrees
  let e := if k = 0 then free else d.riseOf i power * k + d.otherSum i
  let kk : Nat := max 1 k
  let est := (2 * e + 12500 * kk) / (25000 * kk)
  let off := decide (800000 * (kk : Int) < (reading * 12500 * kk - e).natAbs)
  let s := d.sump.sensors[i]
  let n := if s.broken then s.mismatch else if off then min 3 (s.mismatch + 1) else 0
  let breaks := !s.broken && decide (3 ≤ n)
  let d := d0.modSensor i fun s => { s with mismatch := n, meas := reading, est := est, power := power, broken := s.broken || breaks }
  let d := if breaks then ((d.report (toSrc (209 + i.val))).raise Reg.SUMP_EVT 6).log 7 (209 + i.val) 255 0 0 (centi reading) else d
  let c := d.rd (Reg.SUMP_THERM_CFG i.val)
  let hyst : Int := 8 * c.get 11 8
  let warn := 8 * signed 8 (c.get 23 16)
  let crit := 8 * signed 8 (c.get 31 24)
  let broken := d.sump.sensors[i].broken
  let temp := if broken then est else reading
  let degraded := broken && decide (3 ≤ d.brokenSensors)
  let atWarn := crossed s.atWarn temp warn hyst || degraded
  let atCrit := crossed s.atCrit temp crit hyst
  let d := d.modSensor i fun s => { s with atWarn := atWarn, atCrit := atCrit, fast := decide (warn - 80 ≤ temp) || degraded }
  let d := if atWarn && !s.atWarn then d.raise Reg.SUMP_EVT 4 else d
  if atCrit && !s.atCrit then d.critEnter i temp else if s.atCrit && !atCrit then d.critLeave i temp else d

/-! ### Registers as read -/

/-- SUMP_STATUS as read. -/
def Dev.sumpStatus (d : Dev) : Word :=
  let r := ((List.finRange 256).filter fun n => d.sump.src[n].retired).length
  (((0 : Word).put 31 31 (b2n (decide (3 ≤ d.brokenSensors)))).put 20 16 d.sump.logQueue.length).put 8 0 r

/-- SUMP_FAULTN as read. -/
def Dev.faultnWord (d : Dev) : Word := ((d.rd Reg.SUMP_FAULTN).put 30 30 (b2n d.sump.pulse)).put 29 29 (b2n d.faultnHigh)

/-- SUMP_RETIREDg as read. -/
def Dev.retiredWord (d : Dev) (g : Nat) : Word :=
  (List.range 32).foldl (fun w i => if d.sump.src[toSrc (32 * g + i)].retired then w ||| BitVec.twoPow 32 i else w) 0

/-- SUMP_SRCn_STATUS as read. -/
def Dev.srcStatus (d : Dev) (n : Fin 256) : Word :=
  let s := d.sump.src[n]
  let w := ((((d.rd (Reg.SUMP_SRC_STATUS n.val)).put 31 31 (b2n s.retired)).put 30 30 (b2n s.severe)).put 29 29 (b2n s.wire)).put 28 28 (b2n s.held)
  ((w.put 27 27 (b2n s.limit)).put 26 26 (b2n s.escalated)).put 23 16 (d.srcCount n)

/-- SUMP_THERMd_STATUS as read. -/
def Dev.thermStatus (d : Dev) (i : Fin 6) : Word :=
  let s := d.sump.sensors[i]
  (((((0 : Word).put 31 31 (b2n s.broken)).put 30 30 (b2n s.atCrit)).put 29 29 (b2n s.atWarn)).put 28 28 (b2n s.fast)).put 1 0 s.mismatch

/-- SUMP_THERMd_TEMP as read. -/
def Dev.thermTemp (d : Dev) (i : Fin 6) : Word :=
  let s := d.sump.sensors[i]
  ((0 : Word).put 31 16 (unsigned 16 s.est)).put 15 0 (unsigned 16 s.meas)

/-- SUMP_THERMd_MODEL as read. -/
def Dev.thermModel (d : Dev) (i : Fin 6) : Word := (d.rd (Reg.SUMP_THERM_MODEL i.val)).put 15 0 d.sump.sensors[i].power

/-- EVENT_PEND as read. -/
def Dev.eventPend (d : Dev) : Word :=
  (List.range 8).foldl (fun w g => if d.eventStat g &&& d.rd (Reg.EVENT_EN g) = 0 then w else w ||| BitVec.twoPow 32 g) 0

/-- IRQ_N is low (R433). -/
def Dev.irqLow (d : Dev) : Bool := (d.rd Reg.EVENT_CFG).bit 0 && d.eventPend != 0

end Sys2Proof.Machine
end

