-- ==== Sys2Proof/Machine/Time.lean ====
section
/-!
DEFINITION. The time unit (chapter 12): exchanges with the master, the servo, steps, holdover, candidates, the time-stamp queue,
scheduled-action slots, PPS and TSYNC. Times are in 2^-32 ns.
-/

namespace Sys2Proof.Machine

/-- `d` with the time unit changed. -/
def Dev.modTime (d : Dev) (f : TimeUnit → TimeUnit) : Dev := { d with time := f d.time }

/-- A signed quotient rounded to the nearest integer (DEDUCED, log entry 31). -/
def roundDiv (x : Int) (n : Nat) : Int := (2 * x + n) / (2 * n)

/-- Picoseconds of a time in 2^-32 ns, saturating at 32 bits. -/
def toPs (x : Int) : Int := max (-2147483648) (min 2147483647 (roundDiv (x * 1000) fracScale))

/-- A number of picoseconds in 2^-32 ns. -/
def ofPs (x : Int) : Int := roundDiv (x * fracScale) 1000

/-- Unit intervals of 53.08416 GBd in 2^-32 ns. -/
def uiTime (n : Nat) : Nat := n * fracScale * 100000 / 5308416

/-- The reference lane of a set: its lowest-numbered lane (R329). -/
def refLane (set : Nat) : Nat := ((List.range 8).find? set.testBit).getD 0

/-! ### The increment (R324, R325, R332) -/

/-- The nominal increment. -/
def incNominal : Nat := 0x208D55555

/-- 10^18: the scale of the servo's terms. -/
def ppScale : Nat := 1000000000000000000

/-- 250 ppm in the scale of the servo's terms. -/
def ppm250 : Int := 250000000000000

/-- Clamps to plus or minus a bound. -/
def clampTo (b x : Int) : Int := max (-b) (min b x)

/-- The nominal increment times 1 + x. -/
def incOf (x : Int) : Nat := (incNominal + roundDiv (incNominal * x) ppScale).toNat

/-- Puts an increment in force, held within 250 ppm of nominal (R325). -/
def Dev.setInc (d : Dev) (n : Nat) : Dev :=
  let v := max (incOf (-ppm250)) (min (incOf ppm250) n)
  d.modTime fun t => { t with inc := v, incClamp := decide (v ≠ n) }

/-- Puts nominal × (1 + x) in force, with x held within 250 ppm. -/
def Dev.steerInc (d : Dev) (x : Int) : Dev :=
  d.modTime fun t => { t with inc := incOf (clampTo ppm250 x), incClamp := decide (clampTo ppm250 x ≠ x) }

/-- The pair that host software last wrote. -/
def Dev.hostInc (d : Dev) : Nat := (d.rd Reg.TIME_INC_SET_HI).toNat * 2 ^ 32 + (d.rd Reg.TIME_INC_SET_LO).toNat

/-- SERVO_HW. -/
def Dev.servoHw (d : Dev) : Bool := (d.rd Reg.TIME_CFG).bit 31

/-- TIME_CFG.SRC. -/
def Dev.timeSrc (d : Dev) : Nat := d.fget Reg.TIME_CFG 29 28

/-- LOCKED falls (R333). -/
def Dev.unlock (d : Dev) : Dev :=
  let was := d.time.locked
  let d := d.modTime fun t => { t with locked := false, lockCnt := 0, unlockCnt := 0 }
  if was then d.raise Reg.TIME_EVT 1 else d

/-! ### Steps (R334 to R336) -/

/-- The step takes place (R336): local time, TIME_EPOCH, LOCKED, the reply of a TIME_STEP. A start of ticks that waits for a
frame boundary waits for the first one that the stepped time reaches (R57). -/
def Dev.stepNow (d : Dev) : Dev :=
  match d.time.step with
  | none => d
  | some s =>
    let now := if s.abs then s.amount.toNat else ((d.time.now : Int) + s.amount).toNat
    let d := d.modTime fun t => { t with now := now % 2 ^ 96, step := none }
    let d := d.wr Reg.TIME_EPOCH (d.rd Reg.TIME_EPOCH + 1)
    let d := (d.unlock.raise Reg.TIME_EVT 4).endCmd s.cmd 0 [d.rd Reg.TIME_EPOCH]
    let past := fun (c : Cmd) => c.stage == .pendList && decide (-140737488355328 < d.timeDiff c.execTime ∧ d.timeDiff c.execTime < 0)
    let stamp := fun (c : Cmd) =>
      if s.cmd = some c.id then { c with time := d.nowNs } else if past c then { c with late := true } else c
    let d := { d with drunas := { d.drunas with cmds := d.drunas.cmds.map stamp } }
    if d.cad.running then d
    else { d with cad := { d.cad with startAt := d.cad.startAt.map (fun _ => d.nextFrame), frozen := false,
                                      changes := d.cad.changes.map fun (c : Change) => { c with land := min c.land (d.cad.tickIdx + 1) } } }

/-- A request for a step (R334): it replaces a pending one. While no ticks run it is applied at once (R335). -/
def Dev.requestStep (d : Dev) (abs : Bool) (amount : Int) (cmd : Option Nat) : Dev :=
  let d := match d.time.step with | some s => d.endCmd s.cmd 0x30 [] | none => d
  let d := d.modTime fun t => { t with step := some { abs := abs, amount := amount, cmd := cmd, ripe := d.nextLanding } }
  if d.cad.running then d else d.stepNow

/-! ### The servo (R332, R333) -/

/-- STEP_THR. -/
def Dev.stepThr (d : Dev) : Int := d.fget Reg.TIME_SERVO 31 16 * 8 * fracScale

/-- SLEW_MAX in the scale of the servo's terms. -/
def Dev.slewMax (d : Dev) : Int := (min 250 (max 1 (d.fget Reg.TIME_SERVO 15 8)) : Nat) * 1000000000000

/-- The servo acts on an offset, `t` after the one before (R332) (DEDUCED, log entry 31). -/
def Dev.servo (d : Dev) (theta : Int) (t : Nat) : Dev :=
  if !d.servoHw then d
  else
    let beyond := decide (d.stepThr < theta.natAbs)
    let back := (d.rd Reg.TIME_CFG).bit 30
    if beyond && (decide (theta < 0) || back) then d.requestStep false (-theta) none
    else
      let per := fun (k : Nat) => roundDiv (-theta * ppScale) (max 1 t * 2 ^ k)
      let f := clampTo ppm250 (d.time.fterm + per (d.fget Reg.TIME_SERVO 3 0))
      let p := if beyond then -d.slewMax else clampTo d.slewMax (per (d.fget Reg.TIME_SERVO 7 4))
      (d.modTime fun t => { t with fterm := f }).steerInc (f + p)

/-- LOCKED after a valid exchange with the current master (R333). -/
def Dev.judgeLock (d : Dev) (theta : Int) : Dev :=
  let thr : Int := ofPs (25 * 2 ^ d.fget Reg.TIME_CFG 19 16 : Nat)
  let d := d.modTime fun t => { t with
    lockCnt := if (theta.natAbs : Int) ≤ thr then t.lockCnt + 1 else 0
    unlockCnt := if 4 * thr < theta.natAbs then t.unlockCnt + 1 else 0 }
  if 16 ≤ d.time.lockCnt ∧ ¬ d.time.locked then (d.modTime fun t => { t with locked := true, unlockCnt := 0 }).raise Reg.TIME_EVT 0
  else if 4 ≤ d.time.unlockCnt then d.unlock
  else d

/-- Entry to holdover (R337). -/
def Dev.enterHoldover (d : Dev) : Dev :=
  if d.time.master.isNone ∨ d.time.holdover then d
  else
    let d := ((d.modTime fun t => { t with holdover := true }).raise Reg.TIME_EVT 2).unlock
    if d.servoHw then d.steerInc d.time.fterm else d

/-- What follows a change of the active sets: an emptied receive set begins holdover (R272, R337). -/
def Dev.receiveEmptied (d : Dev) (was : Nat) : Dev := if was ≠ 0 ∧ d.link.rxSet = 0 then d.enterHoldover else d

/-! ### Exchanges (R328 to R331, R338, R339) -/

/-- A stamp of a received message at the balls (R329). -/
def Dev.inboundStamp (d : Dev) (t : Nat) : Int := (t : Int) - uiTime ((d.rd (Reg.LANE_LAT (refLane d.link.rxSet))).get 15 0)

/-- A stamp of a sent message at the balls. -/
def Dev.outboundStamp (d : Dev) (t : Nat) : Int := (t : Int) + uiTime ((d.rd (Reg.LANE_LAT (refLane d.link.txSet))).get 31 16)

/-- The time of words 1 to 3 of a time message. -/
def msgTime (ws : List Word) : Nat := ((ws.getD 1 0).toNat * 2 ^ 32 + (ws.getD 2 0).toNat) * 2 ^ 32 + (ws.getD 3 0).toNat

/-- Whether a message is a time message of a kind. -/
def isTimeMsg (kind : Nat) (m : Inbox) : Bool := m.flow == 0x320 && (m.words.getD 0 0).get 31 28 == kind

/-- Sends a DELAY_REQ, whose stamp is `t3`, and queues the stamp (R330, R339). -/
def Dev.delayReq (d : Dev) (ws : List Word) (t2 : Int) (t3 : Nat) : Dev :=
  if d.link.txSet = 0 then d
  else
    let w := ws.getD 0 0
    let seq := w.get 27 20
    let id := w.get 15 0
    let s3 := d.outboundStamp t3
    let ep := (d.rd Reg.TIME_EPOCH).get 15 0
    let d := d.send 0x320 [((((0 : Word).put 31 28 2).put 27 20 seq).put 15 0 id), 0, 0, 0, (0 : Word).put 31 16 ep]
    let d := d.modTime fun t => { t with exch := t.exch ++
      [{ seq := seq, master := id, t1 := msgTime ws, t2 := t2, t3 := s3, rxLane := refLane d.link.rxSet, txLane := refLane d.link.txSet, expired := false }] }
    if d.time.tsq.length < 16 then d.modTime fun t => { t with tsq := t.tsq ++ [(seq, s3.toNat, ep)] }
    else (d.count Reg.TIME_TSQ_STAT 31 16).raise Reg.TIME_EVT 6

/-- DREQ_DIV. -/
def Dev.dreqDiv (d : Dev) : Nat := max 1 (d.fget Reg.TIME_CFG 23 20)

/-- A SYNC (R330, R338). -/
def Dev.timeSync (d : Dev) (t3 : Nat) : Dev :=
  match d.take (isTimeMsg 1) with
  | none => d
  | some (m, d) =>
    let id := (m.words.getD 0 0).get 15 0
    let t2 := d.inboundStamp m.first
    if d.time.master = some id then
      let n := d.time.syncCnt + 1
      let due := d.dreqDiv ≤ n
      let d := d.modTime fun t => { t with syncCnt := if due then 0 else n }
      if due then d.delayReq m.words t2 t3 else d
    else
      let d := if d.time.cand = some id then d
        else d.modTime fun t => { t with cand := some id, candOfs := [], candSync := 0, candAt := t.cycle }
      let n := d.time.candSync + 1
      let due := d.dreqDiv ≤ n
      let d := d.modTime fun t => { t with candSync := if due then 0 else n }
      if due then d.delayReq m.words t2 t3 else d

/-- CONSIST. -/
def Dev.consist (d : Dev) : Int := (max 1 (d.fget Reg.TIME_CFG 7 0) * fracScale : Nat)

/-- Whether TSYNC steers in place of the exchanges (R347). -/
def Dev.fineSteers (d : Dev) : Bool := d.time.fine && decide (d.timeSrc = 1)

/-- A valid exchange with the current master (R332, R333, R337) (DEDUCED, log entry 31). -/
def Dev.masterExchange (d : Dev) (theta : Int) : Dev :=
  let t := sampTime (d.time.cycle - d.time.validAt)
  let d := d.modTime fun t => { t with validAt := t.cycle, holdover := false }
  let d := d.judgeLock theta
  let d := if 1000 * fracScale < theta.natAbs then d.modTime fun t => { t with fine := false } else d
  if d.timeSrc ≤ 1 ∧ ¬ d.fineSteers then d.servo theta t else d

/-- A valid exchange with the candidate (R338): accepted after eight that agree. -/
def Dev.candExchange (d : Dev) (id : Nat) (theta : Int) : Dev :=
  let l := theta :: d.time.candOfs
  let mean := roundDiv l.sum l.length
  let t := sampTime (d.time.cycle - d.time.candAt)
  let d := d.modTime fun t => { t with candAt := t.cycle }
  if !(l.all fun x => decide (((x - mean).natAbs : Int) ≤ d.consist)) then d.modTime fun t => { t with candOfs := [] }
  else if l.length < 8 then d.modTime fun t => { t with candOfs := l }
  else
    let d := d.modTime fun t => { t with
      master := some id, cand := none, candOfs := [], candSync := 0, syncCnt := 0, validAt := t.cycle, holdover := false
      lockCnt := 0, unlockCnt := 0, theta := mean }
    let d := d.raise Reg.TIME_EVT 3
    if d.timeSrc ≤ 1 then d.servo mean t else d

/-- A DELAY_RESP (R330, R331) (DEDUCED, log entry 80). -/
def Dev.delayResp (d : Dev) : Dev :=
  match d.take (isTimeMsg 3) with
  | none => d
  | some (m, d) =>
    let w := m.words.getD 0 0
    match d.time.exch.find? fun (x : Exchange) => x.seq == w.get 27 20 && x.master == w.get 15 0 with
    | none => d.count32 Reg.TIME_RESP_LOST
    | some x =>
      let d := d.modTime fun t => { t with exch := t.exch.erase x }
      if x.expired then d
      else
        let r := refLane d.link.rxSet
        let ab := x.t2 - x.t1
        let cd := (msgTime m.words : Int) - x.t3
        let asym := ofPs (signed 32 (d.rd (Reg.TIME_ASYM r)).toNat)
        let theta := (ab - cd - asym) / 2
        let delay := (ab + cd) / 2
        let ours := d.time.master = some x.master
        if delay < 0 ∨ 100 * (fracScale : Int) < delay ∨ x.rxLane ≠ r ∨ x.txLane ≠ refLane d.link.txSet then
          let d := d.count32 Reg.TIME_XCHG_BAD
          if ours then d.modTime fun t => { t with lockCnt := 0, unlockCnt := 0 } else d.modTime fun t => { t with candOfs := [] }
        else
          let d := (d.wr Reg.TIME_OFS (BitVec.ofNat 32 (unsigned 32 (toPs theta)))).wr Reg.TIME_DELAY (BitVec.ofNat 32 (unsigned 32 (toPs delay)))
          if ours then (d.modTime fun t => { t with theta := theta }).masterExchange theta
          else if d.time.cand = some x.master then d.candExchange x.master theta
          else d

/-- Whether the response to the oldest open DELAY_REQ has been received (R330). -/
def Dev.respHere (d : Dev) : Bool :=
  match d.time.exch.find? fun (x : Exchange) => !x.expired, d.link.inbox.find? (isTimeMsg 3) with
  | some x, some m => x.seq == (m.words.getD 0 0).get 27 20 && x.master == (m.words.getD 0 0).get 15 0
  | _, _ => false

/-- Whether the first SYNC received is the candidate's (R337). -/
def Dev.candSyncHere (d : Dev) : Bool :=
  match d.link.inbox.find? (isTimeMsg 1) with
  | some m => d.time.cand == some ((m.words.getD 0 0).get 15 0)
  | none => false

/-- 1.0 ms passes without the response to the oldest open DELAY_REQ (R330): counted lost; the response, if it still comes, is
discarded (DESIGN CHOICE, log entry 19) (DEDUCED, log entry 80). -/
def Dev.respTimeout (d : Dev) : Dev :=
  match d.time.exch.find? fun (x : Exchange) => !x.expired with
  | none => d
  | some x => (d.modTime fun t => { t with exch := t.exch.map fun (y : Exchange) => if y = x then { y with expired := true } else y }).count32
      Reg.TIME_RESP_LOST

/-- No SYNC from the candidate for HOLD_TIME. -/
def Dev.candTimeout (d : Dev) : Dev := d.modTime fun t => { t with cand := none, candOfs := [], candSync := 0 }

/-- The head entry leaves the queue (R339). -/
def Dev.tsqPop (d : Dev) : Dev := d.modTime fun t => { t with tsq := t.tsq.tail }

/-! ### Registers that steer -/

/-- A write of TIME_INC_SET_HI. -/
def Dev.writeIncHi (d : Dev) (w : Word) : Dev :=
  let d := d.wr Reg.TIME_INC_SET_HI w
  if d.servoHw then d else d.setInc d.hostInc

/-- A write of TIME_CFG (R332, R346, R347). -/
def Dev.writeTimeCfg (d : Dev) (w : Word) : Dev :=
  let was := d.servoHw
  let d := (d.wr Reg.TIME_CFG w).modTime fun t => { t with tsyncOff := false, fine := t.fine && w.get 29 28 == 1 && !w.bit 27 }
  if was && !w.bit 31 then d.setInc d.hostInc
  else if !was && w.bit 31 && d.time.holdover then d.steerInc d.time.fterm
  else d

/-! ### Scheduled-action slots (R340 to R344) -/

/-- D of R340 for a slot. -/
def Dev.slotD (d : Dev) (s : Nat) : Int :=
  let tx := d.fget (Reg.TIME_SCHED_HI s) 15 0 * 2 ^ 32 + (d.rd (Reg.TIME_SCHED_LO s)).toNat
  d.timeDiff tx

/-- Whether a slot is armed. -/
def Dev.slotArmed (d : Dev) (s : Nat) : Bool := (d.rd (Reg.TIME_SCHED_CTRL s)).bit 31

/-- ACTION of a slot. -/
def Dev.slotAction (d : Dev) (s : Nat) : Nat := d.fget (Reg.TIME_SCHED_CTRL s) 19 16

/-- Arms a slot with its time and argument as they stand (R343, R344). The answer says whether it is late. -/
def Dev.armSlot (d : Dev) (s : Fin 32) (action period : Nat) (spi : Bool) : Dev × Bool :=
  let late := decide (-140737488355328 < d.slotD s.val ∧ d.slotD s.val < 0)
  let d := d.wr (Reg.TIME_SCHED_CTRL s.val) (((((0 : Word).put 31 31 1).put 30 30 (b2n late)).put 19 16 action).put 15 0 period)
  let d := d.wr Reg.TIME_SCHED_FIRED (d.rd Reg.TIME_SCHED_FIRED &&& ~~~(BitVec.twoPow 32 s.val))
  let d := d.modTime fun t => { t with slotSpi := t.slotSpi.set s spi }
  (if late then d.raise Reg.TIME_EVT 7 else d, late)

/-- A write of TIME_SCHEDs_CTRL. -/
def Dev.writeSlot (d : Dev) (s : Fin 32) (w : Word) (spi : Bool) : Dev :=
  if w.bit 31 then (d.armSlot s (w.get 19 16) (w.get 15 0) spi).1
  else d.wr (Reg.TIME_SCHED_CTRL s.val) (((d.rd (Reg.TIME_SCHED_CTRL s.val) &&& 0x40000000#32).put 19 16 (w.get 19 16)).put 15 0 (w.get 15 0))

/-- What a slot becomes when it fires (R343): its FIRED bit is set; a one-shot slot is disarmed, and a periodic one moves on by
whole periods until it is no longer due. -/
def Dev.slotFired (d : Dev) (s : Fin 32) : Dev :=
  let c := d.rd (Reg.TIME_SCHED_CTRL s.val)
  let p := c.get 15 0 * 1000000
  let d := d.raise Reg.TIME_SCHED_FIRED s.val
  if p = 0 then d.wr (Reg.TIME_SCHED_CTRL s.val) (c &&& 0x7FFFFFFF#32)
  else
    let dd := d.slotD s.val
    let k := if dd ≤ 0 then dd.natAbs / p + 1 else 1
    let tx := (d.fget (Reg.TIME_SCHED_HI s.val) 15 0 * 2 ^ 32 + (d.rd (Reg.TIME_SCHED_LO s.val)).toNat + k * p) % 2 ^ 48
    (d.fset (Reg.TIME_SCHED_HI s.val) 15 0 (tx / 2 ^ 32)).wr (Reg.TIME_SCHED_LO s.val) (BitVec.ofNat 32 tx)

/-- The device at the instant at which an armed slot that is not tick-bound, or any slot while no ticks run, is due (R342): the
clock passes to it, unless the next tick comes first. -/
def Dev.slotDue (d : Dev) (s : Fin 32) (action : Nat) : Option Dev :=
  if !d.slotArmed s.val || d.slotAction s.val != action then none
  else if d.slotD s.val ≤ 0 then some d
  else
    match d.cyclesTo (d.slotD s.val).toNat with
    | some n => if d.canPass n then some (d.passCycles n) else none
    | none => none

/-- The first tick at or after the time of a slot: the most recent tick where that time has been reached by it
(DEDUCED, log entry 64). -/
def Dev.slotTarget (d : Dev) (s : Fin 32) : Nat :=
  let ns := ((d.nowNs : Int) + d.slotD s.val).toNat
  if ns * fracScale ≤ sampTime d.cad.nom then d.cad.tickIdx else d.tickAtNs ns

/-- The device at the instant at which an armed tick-bound slot commits (R342, R344): 0.5 µs before the cutoff of its tick, or
at once where that has passed; while no ticks run, when it is due. With it, the tick that it targets
(DEDUCED, log entry 42) (DEDUCED, log entry 64). -/
def Dev.slotTick (d : Dev) (s : Fin 32) (action : Nat) : Option (Dev × Nat) :=
  if !d.slotArmed s.val || d.slotAction s.val != action then none
  else if !d.ticking then (d.slotDue s action).map fun d => (d, d.nextLanding)
  else
    let t := d.slotTarget s
    if t ≤ d.cad.tickIdx ∨ (d.rd (Reg.TIME_SCHED_CTRL s.val)).bit 30 ∨ (t = d.cad.tickIdx + 1 ∧ d.cad.frozen) then some (d, t)
    else
      let n := d.toEdge - (d.leadCycles + nsCycles 500)
      if t = d.cad.tickIdx + 1 ∧ d.canPass n then some (d.passCycles n, t) else none

/-- `n` changes of a slot land after the tick that they target (R42) (DEDUCED, log entry 52). -/
def Dev.slotLate (d : Dev) (target n : Nat) : Dev :=
  if d.nextLanding ≤ target ∨ n = 0 then d
  else ((List.range n).foldl (fun d _ => d.count32 Reg.CADENCE_LATE) d).raise Reg.CADENCE_EVT 0

/-- A slot fires TILE_LEVEL. -/
def Dev.fireLevel (d : Dev) (s : Fin 32) : Dev :=
  match d.slotTick s 1 with
  | none => d
  | some (d, target) =>
    let arg := d.rd (Reg.TIME_SCHED_ARG s.val)
    let d := (List.finRange 4).foldl (fun d t =>
      if arg.bit t.val then
        let a := Reg.TILE_CFG t.val
        let w := (d.rd a).put 1 0 (arg.get 9 8)
        (d.wr a w).commitWord ⟨0, none⟩ a w
      else d) d
    (d.slotLate target (((List.range 4).filter arg.bit).length)).slotFired s

/-- A slot fires PPS. -/
def Dev.firePps (d : Dev) (s : Fin 32) : Dev :=
  match d.slotDue s 4 with
  | none => d
  | some d =>
    let d := if d.fget Reg.TIME_PPS_CFG 31 30 = 2 then
        d.modTime fun t => { t with ppsOut := match (d.rd (Reg.TIME_SCHED_ARG s.val)).get 1 0 with
          | 1 => true | 2 => false | _ => !t.ppsOut }
      else d
    d.slotFired s

/-- A slot with an unassigned action code fires. -/
def Dev.fireNone (d : Dev) (s : Fin 32) : Dev :=
  let a := d.slotAction s.val
  if 1 ≤ a ∧ a ≤ 5 then d
  else match d.slotDue s a with
    | some d => d.slotFired s
    | none => d

/-! ### PPS and TSYNC (R345 to R347) -/

/-- A write of TIME_PPS_CFG: MODE 0 holds PPS_OUT low. -/
def Dev.writePpsCfg (d : Dev) (w : Word) : Dev :=
  let d := d.wr Reg.TIME_PPS_CFG (w &&& 0xC000FFFF#32)
  if w.get 31 30 = 0 ∨ w.get 31 30 = 3 then d.modTime fun t => { t with ppsOut := false } else d

/-- A whole second of local time. -/
def Dev.ppsSecond (d : Dev) : Dev := if d.fget Reg.TIME_PPS_CFG 31 30 = 1 then d.modTime fun t => { t with ppsOut := true } else d

/-- WIDTH has passed since a whole second. -/
def Dev.ppsWidthEnd (d : Dev) : Dev := if d.fget Reg.TIME_PPS_CFG 31 30 = 1 then d.modTime fun t => { t with ppsOut := false } else d

/-- A stamp less the nearest multiple of a period. -/
def fromNearest (stamp period : Nat) : Int := (stamp : Int) - ((stamp + period / 2) / period * period : Nat)

/-- A rising edge of PPS_IN. -/
def Dev.ppsIn (d : Dev) (stamp : Nat) : Dev :=
  let d := (d.wr Reg.TIME_PPS_IN_LO (BitVec.ofNat 32 (stamp / 2 ^ 32))).wr Reg.TIME_PPS_IN_HI (BitVec.ofNat 32 (stamp / 2 ^ 64))
  let second := 1000000000 * fracScale
  if d.timeSrc = 2 then d.servo (fromNearest stamp second) second else d

/-- The TSYNC period (R346). -/
def Dev.tsyncPeriod (d : Dev) : Nat := 10000000 * 2 ^ d.fget Reg.TIME_CFG 26 24 * fracScale

/-- Whether this device drives TSYNC. -/
def Dev.tsyncDrives (d : Dev) : Bool := (d.rd Reg.TIME_CFG).bit 27 && !d.time.tsyncOff

/-- A TSYNC instant (R346): a driving device stops where it senses the line high before its own edge (DEDUCED, log entry 30). -/
def Dev.tsyncInstant (d : Dev) (lineHigh : Bool) : Dev :=
  if d.tsyncDrives && lineHigh then (d.modTime fun t => { t with tsyncOff := true }).raise Reg.TIME_EVT 9 else d

/-- θ_f falls out of use (R347). -/
def Dev.tsyncLose (d : Dev) : Dev :=
  if d.time.tsyncDrop then d
  else (d.modTime fun t => { t with fine := false, tsyncDrop := true }).raise Reg.TIME_EVT 8

/-- Whether this device takes TSYNC edges (R347). -/
def Dev.tsyncListens (d : Dev) : Bool := d.timeSrc == 1 && !d.tsyncDrives

/-- A rising edge of TSYNC (R347) (DEDUCED, log entry 30). -/
def Dev.tsyncEdge (d : Dev) (stamp : Nat) : Dev :=
  if !d.tsyncListens then d
  else
    let raw := fromNearest stamp d.tsyncPeriod
    let tf := raw - ofPs (signed 32 (d.rd Reg.TIME_TSYNC_DLY).toNat)
    let d := d.wr Reg.TIME_TSYNC_ERR (BitVec.ofNat 32 (unsigned 32 (toPs tf)))
    if 1000 * fracScale < raw.natAbs then d
    else
      let far := decide (20 * fracScale < (tf - d.time.theta).natAbs)
      let d := d.modTime fun t => { t with tsyncMiss := 0, tsyncBad := if far then t.tsyncBad + 1 else 0 }
      if 3 ≤ d.time.tsyncBad then d.tsyncLose
      else
        let use_ := d.time.master.isSome && !d.time.holdover && decide (d.time.theta.natAbs ≤ 1000 * fracScale) &&
          (!d.time.tsyncDrop || !far)
        if use_ then (d.modTime fun t => { t with fine := true, tsyncDrop := false }).servo tf d.tsyncPeriod else d

/-- No edge within 1.0 µs of an instant (DEDUCED, log entry 30). -/
def Dev.tsyncTimeout (d : Dev) : Dev :=
  if !d.tsyncListens then d
  else
    let d := d.modTime fun t => { t with tsyncMiss := t.tsyncMiss + 1 }
    if 3 ≤ d.time.tsyncMiss then d.tsyncLose else d

/-! ### Registers as read -/

/-- TIME_STATUS as read. -/
def Dev.timeStatus (d : Dev) : Word :=
  let t := d.time
  ((((((((((0 : Word).put 31 31 (b2n t.locked)).put 30 30 (b2n t.holdover)).put 29 29 (b2n t.cand.isSome)).put 28 28
    (b2n t.step.isSome)).put 27 27 (b2n t.fine)).put 26 26 (b2n t.tsyncOff)).put 25 25 (b2n t.incClamp)).put 18 16
    (refLane d.link.rxSet)).put 15 0 (t.master.getD 0))

/-- TIME_HOLD_AGE as read. -/
def Dev.holdAge (d : Dev) : Word :=
  if d.time.holdover then BitVec.ofNat 32 (min (2 ^ 32 - 1) ((d.time.cycle - d.time.validAt) / 491520)) else 0

/-- TIME_SCHEDs_CTRL as read. -/
def Dev.slotCtrl (d : Dev) (s : Nat) : Word :=
  (d.rd (Reg.TIME_SCHED_CTRL s)).put 29 29 (b2n ((d.rd Reg.TIME_SCHED_FIRED).bit s))

/-- Words E0 to E3 of the head of the time-stamp queue. -/
def Dev.tsqWord (d : Dev) (i : Nat) : Word :=
  match d.time.tsq with
  | [] => 0
  | (id, t, ep) :: _ =>
    match i with
    | 0 => ((0 : Word).put 31 24 id).put 15 0 ep
    | 1 => BitVec.ofNat 32 (t / 2 ^ 64)
    | 2 => BitVec.ofNat 32 (t / 2 ^ 32)
    | _ => BitVec.ofNat 32 t

end Sys2Proof.Machine
end

