-- ==== Sys2Proof/Machine/Landing.lean ====
section
/-!
DEFINITION. What each committed change does when it lands (chapter 2): retirement and restoration of units (Table 15.2,
R417), blended settings at the tick, stepped settings at the seam midpoint, and changes while no ticks run (R57).
-/

namespace Sys2Proof.Machine

/-! ### Retirement and restoration of units -/

/-- The sources of a unit are marked retired, and their history cleared (R417). -/
def Dev.flagRetired (d : Dev) (kind i : Nat) : Dev :=
  (sourcesOfUnit kind i).foldl (fun d n => d.modSrc n fun s => { s with retired := true, times := [] }) d

/-- A path retires in every unit it reaches: tile, predistorter, Sump (Table 15.2). -/
def Dev.retirePathUnit (d : Dev) (p : Fin 64) : Dev :=
  if d.paths[p].retired then d else ((d.retirePath p).dpdRetire p).flagRetired 0 p.val

/-- Each of several paths retires. -/
def Dev.retirePaths (d : Dev) (ps : List (Fin 64)) : Dev := ps.foldl Dev.retirePathUnit d

/-- A synthesizer retires (R77). -/
def Dev.retireSynUnit (d : Dev) (t : Fin 4) (b : Bool) : Dev :=
  if (d.tiles[t].syn b).retired then d else (d.retireSyn t b).flagRetired 5 (2 * t.val + b2n b)

/-- An observation receiver retires (R173). -/
def Dev.retireOrxUnit (d : Dev) (k : Fin 16) : Dev :=
  if d.dpd.orx[k].retired then d else (d.retireOrx k).flagRetired 6 k.val

/-- A relief pair retires (R114), and with it the path that only it served. -/
def Dev.retireReliefUnit (d : Dev) (t : Fin 4) (dac : Bool) : Dev :=
  if (d.relief[t].pair dac).retired then d
  else
    let (d, lost) := d.retireRelief t dac
    (match lost with | some p => d.retirePathUnit p | none => d).flagRetired (if dac then 4 else 3) t.val

/-- The observation receivers of a tile (R16). -/
def orxsOf (t : Fin 4) : List (Fin 16) := (List.finRange 4).map fun i => ⟨4 * t.val + i.val, by omega⟩

/-- A tile retires with all its units at one tick (Table 15.2). -/
def Dev.retireTileUnit (d : Dev) (t : Fin 4) : Dev :=
  if d.tiles[t].retired then d
  else
    let d := (d.retireTile t).flagRetired 7 t.val
    let d := d.retirePaths (pathsOf t)
    let d := [false, true].foldl (fun d b =>
      ((d.modTile t fun x => x.modSyn b fun s => { s with retired := true, run := false, qual := false, busy := .none })).flagRetired 5
        (2 * t.val + b2n b)) d
    let d := (orxsOf t).foldl Dev.retireOrxUnit d
    (d.retireReliefUnit t false).retireReliefUnit t true

/-- With one core fewer, admission may refuse the solve even at P_eff: the solver then stops (R147). The next accepted SOLVER_CONFIG
starts it again (DESIGN CHOICE, log entry 37). -/
def Dev.solverAdmission (d : Dev) : Dev :=
  if d.solverOn && !d.solverFits then { d with beam := { d.beam with stopped := true, solving := false } } else d

/-- A converter pair retires, and with it a path that nothing else serves (R113, R114). Its source goes on judging the path,
which the relief pair serves, unless a command retired it (R417, Table 15.2; DEDUCED, log entry 45). -/
def Dev.retireConvUnit (d : Dev) (kind i : Nat) (byCommand : Bool) : Dev :=
  let (d, lost) := d.retireConv (toPath i) (kind == 2)
  let d := if byCommand then d.flagRetired kind i else d
  if lost then d.retirePathUnit (toPath i) else d

/-- The retirement of a unit of Table 11.6 lands (Table 15.2): SUMP_EVT.RETIRED. -/
def retireUnit (d : Dev) (m : Mem) (kind i : Nat) (byCommand : Bool) : Dev × Mem :=
  let d := d.raise Reg.SUMP_EVT 1
  match kind with
  | 0 => (d.retirePathUnit (toPath i), m)
  | 1 => (d.retireConvUnit 1 i byCommand, m)
  | 2 => (d.retireConvUnit 2 i byCommand, m)
  | 3 => (d.retireReliefUnit (toTile i) false, m)
  | 4 => (d.retireReliefUnit (toTile i) true, m)
  | 5 =>
    let t := toTile (i / 2)
    let d := d.retireSynUnit t (i % 2 == 1)
    (if d.tiles[t].synA.retired && d.tiles[t].synB.retired then d.retireTileUnit t else d, m)
  | 6 => (d.retireOrxUnit (orxNo i), m)
  | 7 => (d.retireTileUnit (toTile i), m)
  | 8 => ((d.retireLane (laneNo i)).flagRetired 8 i, m)
  | 9 =>
    let (d, ps) := if i < 8 then d.retireSlice i else d.retireSpare
    ((d.retirePaths ps).flagRetired 9 i, m)
  | 10 =>
    let (d, m) := retireCore (d.flagRetired 10 i) m (toCore i)
    (d.solverAdmission, m)
  | _ => (d, m)

/-- The sources of a unit are in service again (R417): the source of a converter whose path is retired stays retired. -/
def Dev.flagRestored (d : Dev) (kind i : Nat) : Dev :=
  (sourcesOfUnit kind i).foldl (fun d n => d.modSrc n fun s => { s with
    retired := (kind == 1 || kind == 2) && d.paths[toPath i].retired
    severe := false, times := [], limit := false
    escalated := if kind = 1 ∨ kind = 2 then false else s.escalated }) d

/-- A path returns to service (R65, R162, R182). -/
def Dev.restorePathUnit (d : Dev) (p : Fin 64) : Dev :=
  if d.paths[p].retired then ((d.restorePath p).dpdRestore p).flagRestored 0 p.val else d

/-- A synthesizer returns to service: it takes the standby's role (R72). -/
def Dev.restoreSyn' (d : Dev) (t : Fin 4) (b : Bool) : Dev :=
  let d := (d.modTile t fun x => x.modSyn b fun s => { s with retired := false }).flagRestored 5 (2 * t.val + b2n b)
  if d.tiles[t].level = 2 ∧ d.tiles[t].act ≠ b then d.roleStandby t else d

/-- The restoration of a unit of Table 11.6 lands (R417): a log record of type 4. A tile returns with the units that its
retirement took (DEDUCED, log entry 22). -/
def restoreUnit (d : Dev) (m : Mem) (kind i : Nat) : Dev × Mem :=
  let d := d.log 4 ((sourcesOfUnit kind i).headD 0).val kind i 0 0
  match kind with
  | 0 => (d.restorePathUnit (toPath i), m)
  | 1 => ((d.restoreConv (toPath i) false).flagRestored 1 i, m)
  | 2 => ((d.restoreConv (toPath i) true).flagRestored 2 i, m)
  | 3 => ((d.restoreRelief (toTile i) false).flagRestored 3 i, m)
  | 4 => ((d.restoreRelief (toTile i) true).flagRestored 4 i, m)
  | 5 => (d.restoreSyn' (toTile (i / 2)) (i % 2 == 1), m)
  | 6 => ((d.restoreOrx (orxNo i)).flagRestored 6 i, m)
  | 7 =>
    let t := toTile i
    let d := (d.restoreSyn' t false).restoreSyn' t true
    let d := (orxsOf t).foldl (fun d k => (d.restoreOrx k).flagRestored 6 k.val) d
    let d := ((d.restoreRelief t false).flagRestored 3 i).restoreRelief t true |>.flagRestored 4 i
    let d := (d.restoreTile t).flagRestored 7 i
    ((pathsOf t).foldl Dev.restorePathUnit d, m)
  | 8 => ((d.restoreLane (laneNo i)).flagRestored 8 i, m)
  | 9 =>
    let (d, ps) := if i < 8 then d.restoreSlice i else d.restoreSpare
    (ps.foldl Dev.restorePathUnit (d.flagRestored 9 i), m)
  | 10 => ((d.restoreCore (toCore i)).flagRestored 10 i, m)
  | _ => (d, m)

/-! ### What lands when -/

/-- Whether the next tick, or the most recent one, at a nominal time begins a frame (R56). -/
def isFrame (nom : Nat) : Bool := nom % frameSamples == 0

/-- Whether a change lands at tick `n` that begins at nominal time `nom`. -/
def Change.landsAt (c : Change) (n nom : Nat) : Bool := decide (c.land ≤ n) && (!c.atFrame || isFrame nom)

/-- The blended tick-bound bits of a register word (Table 2.3); the other tick-bound bits are stepped. -/
def blendedBits (a : Nat) : Word :=
  if a = Reg.BEAM_BANK then 3
  else if a = Reg.BEAM_CFG then 4
  else if a = Reg.DPD_SEL_THR then wholeWord
  else if Reg.BEAM_LGAIN 0 0 ≤ a ∧ a < Reg.BEAM_LGAIN 4 0 then wholeWord
  else if Reg.DPD_PATH_CFG 0 ≤ a ∧ a < Reg.DPD_PATH_CFG 64 then
    if a % 0x20 = 0 then 0xB0000000#32 else 0
  else if Reg.CAL_TRIM_TX 0 0 ≤ a ∧ a < 0xD0000 then wholeWord
  else if 0x100000 ≤ a ∧ a < 0x140000 then
    let o := a % 0x10000
    if (0x400 ≤ o ∧ o < 0x1000) ∨ (0x2000 ≤ o ∧ o < 0x4000) then wholeWord else 0
  else 0

/-- The words of a change come into force, as far as a mask lets them. -/
def Dev.landWords (d : Dev) (c : Change) (mask : Nat → Word) : Dev :=
  c.words.foldl (fun d (x : Nat × Word × Word) => d.setInf x.1 x.2.1 (x.2.2 &&& mask x.1)) d

/-- The path whose DPD_PATHp_CFG an address is. -/
def dpdCfgOf (a : Nat) : Option (Fin 64) :=
  if Reg.DPD_PATH_CFG 0 ≤ a ∧ a < Reg.DPD_PATH_CFG 64 ∧ a % 0x20 = 0 then some (toPath ((a - Reg.DPD_PATH_CFG 0) / 0x20)) else none

/-- The tile whose TILE_SYN_PHASE an address is: a correction of R75 turns every chain of it. -/
def synPhaseOf (a : Nat) : Option (Fin 4) := (List.finRange 4).find? fun t => a == Reg.TILE_SYN_PHASE t.val

/-- The blended part of a change lands at its tick (R50). -/
def Dev.landBlended (d : Dev) (c : Change) : Dev :=
  match c.key with
  | .beamBank ul => (d.landWords c fun _ => wholeWord).landBank ul (c.arg == 1)
  | .dpdPage p => d.landPage p c.arg
  | .dpdBank _ => d.landWords c fun _ => wholeWord
  | .iqSet _ => d.landWords c fun _ => wholeWord
  | .word a =>
    let on := (d.inf a).bit 31
    let d := d.landWords c blendedBits
    match dpdCfgOf a, synPhaseOf a with
    | some p, _ => if (d.inf a).bit 31 = on then d else d.dpdMoves p
    | none, some t => d.modTile t fun x => { x with rot := x.rot - signed 16 c.arg }
    | none, none => d
  | _ => d

/-- LEAD, SEAM_CODE and MU land at a frame boundary (R56); a change of MU judges the carriers (R120). -/
def Dev.landCadence (d : Dev) (c : Change) : Dev :=
  let was := d.mu
  let (seam, lead) := (d.seamClipped, d.leadClipped)
  let d := (d.landWords c fun _ => wholeWord).raise Reg.CADENCE_EVT 3
  let d := if (!seam && d.seamClipped) || (!lead && d.leadClipped) then d.raise Reg.CADENCE_EVT 1 else d
  if d.mu = was then d else d.muDisable.solverAbandon

/-- Whether an address belongs to the words that R120 judges, and which bits it judges there. -/
def configBits (a : Nat) : Word :=
  if a = Reg.BEAM_CFG then 0x80000700#32 else if isBeamConfig a then wholeWord else 0

/-- The registers of a refused change read what stays in force, unless another commit of the setting waits: nothing has changed
(Table 11.5). -/
def Dev.withdraw (d : Dev) (others : List Change) (c : Change) : Dev :=
  if others.any fun x => x.key == c.key then d
  else c.words.foldl (fun d (x : Nat × Word × Word) => d.wr x.1 ((d.rd x.1 &&& ~~~x.2.2) ||| (d.inf x.1 &&& x.2.2))) d

/-- The carrier words that land together (R120): judged as they would be in force; a set that fails is held off whole, and a
CARRIER_CONFIG among it changes nothing and ends with REFUSED_RESOURCE. The answer is the device and the changes that still
land (DEDUCED, log entry 51). -/
def Dev.landConfig (d : Dev) (ls : List Change) : Dev × List Change :=
  let touches := fun (c : Change) => c.words.any fun x => (x.2.2 &&& configBits x.1) != 0
  if !ls.any touches then (d, ls)
  else
    let next := ls.foldl (fun d c => d.landWords c configBits) d
    if next.beamValid then
      let mark := d.antennaMode != next.antennaMode ||
        ls.any fun c => c.words.any fun x => isBeamConfig x.1 && x.1 != Reg.BEAM_CFG
      let d := ({ next with beam := { next.beam with cfgErr := false } }).solverAbandon
      (if mark then (List.finRange 64).foldl Dev.markUnsettled d else d, ls)
    else
      let ids := d.drunas.cmds.filter (fun c => c.opcode == 0x310) |>.map (·.id)
      let ofCmd := fun (c : Change) => match c.cmd with | some i => ids.contains i | none => false
      let d := (ls.filter fun c => ofCmd c).foldl (fun (d : Dev) c =>
        (d.withdraw (d.cad.changes ++ ls.filter fun x => !ofCmd x) c).endCmd c.cmd 0x11 []) d.configError
      (d, (ls.filter fun c => !ofCmd c).map fun c => { c with
        words := c.words.map fun (x : Nat × Word × Word) => (x.1, x.2.1, x.2.2 &&& ~~~configBits x.1) })

/-- The order in which the stepped changes of one tick take effect: the device state and the words and choice of synthesizers
before the tile levels that start them, those before modes, a bias span before its code (R73, R357, R451)
(DEDUCED, log entry 76). -/
def Setting.rank : Setting → Nat
  | .power => 0
  | .synWord _ _ => 1
  | .synAct _ => 2
  | .word a => if a = Reg.TILE_CFG 0 ∨ a = Reg.TILE_CFG 1 ∨ a = Reg.TILE_CFG 2 ∨ a = Reg.TILE_CFG 3 then 3 else 4
  | .biasSpan _ => 4
  | .pathMode _ => 6
  | .unit _ _ => 7
  | _ => 5

/-- Whether a setting is the service of a unit. -/
def Setting.isUnit : Setting → Bool
  | .unit _ _ => true
  | _ => false

/-- The power-step entry of a landing index (R83). -/
def Dev.landIndex (d : Dev) (c : Change) (a : Nat) : Dev :=
  let t := (a - Reg.TILE_PIDX 0 0) / 0x10000
  let k := a % 0x10000 % 0x100 / 4
  let e := c.latch.getD (d.pstepEntry (toTile t) ((d.inf a).get 9 0))
  d.modPath (toPath (16 * t + k)) fun s => { s with pstep := e }

/-- What the word of one register does when it lands, beyond coming into force. -/
def Dev.wordLanded (d : Dev) (c : Change) (a : Nat) : Dev :=
  if 0x100000 ≤ a ∧ a < 0x140000 then
    let t := toTile ((a - 0x100000) / 0x10000)
    let o := a % 0x10000
    if a = Reg.TILE_CFG t.val then d.landLevel t ((d.inf a).get 1 0)
    else if 0x100 ≤ o ∧ o < 0x140 then d.landIndex c a
    else d
  else if a = Reg.BEAM_CFG then
    if c.words.any (fun x => (x.2.2 &&& 3) != 0) then d.solverAbandon else d
  else if (List.range 4).any fun k => a == Reg.BEAM_CAR_LDL k || a == Reg.BEAM_CAR_LUL k then d.solverAbandon
  else d

/-- A stepped change lands at a seam midpoint (R51); blended parts are in force already. -/
def landStepped (d : Dev) (m : Mem) (c : Change) : Dev × Mem :=
  let all := fun _ => wholeWord
  match c.key with
  | .word a => ((d.landWords c all).wordLanded c a, m)
  | .pathMode p => ((d.landWords c all).landMode p, m)
  | .synWord t b =>
    match c.words with
    | (_, i, _) :: (_, f, _) :: _ => (d.landWord t b i f, m)
    | _ => (d, m)
  | .synAct t => ((d.landWords c all).landAct t, m)
  | .relief t dac => (d.landRelief t dac c.arg, m)
  | .quietMap => (d.landWords c all, m)
  | .biasCode n =>
    match c.words with
    | (_, w, _) :: _ => (d.landCode n w, m)
    | [] => (d, m)
  | .biasSpan n => (d.landSpan n c.arg c.cmd, m)
  | .unit kind i => if c.arg = 1 then restoreUnit d m kind i else retireUnit d m kind i (c.arg == 2)
  | .power => (d.landPower c.arg, m)
  | .fwActivate => (d.handoverBegins c.cmd, m)
  | .chiselUnload h =>
    (({ d with chisel := { d.chisel with kernels := d.chisel.kernels.map fun (k : Kernel) =>
        if k.user ∧ k.handle = h then { k with unload := true } else k } }).dropUnloaded, m)
  | _ => (d, m)

/-- Stepped changes land in the order of their ranks (DEDUCED, log entry 76). -/
def landAll (d : Dev) (m : Mem) (ls : List Change) : Dev × Mem :=
  [0, 1, 2, 3, 4, 5, 6, 7].foldl (fun (x : Dev × Mem) k =>
    (ls.filter fun c => c.key.rank == k).foldl (fun (y : Dev × Mem) c => landStepped y.1 y.2 c) x) (d, m)

/-! ### The judgement of RADIO_SET_STATE (Table 11.4) -/

/-- The device state once what lands has landed (R451). -/
def Dev.stateLanding (d : Dev) (ls : List Change) : Nat :=
  match ls.find? fun c => c.key == .power && d.power.stepTo == some c.arg with
  | some c => c.arg
  | none => d.power.dev

/-- The level a tile has reached or goes to once what lands has landed. -/
def Dev.levelLanding (d : Dev) (ls : List Change) (t : Fin 4) : Nat :=
  match (ls.filter fun c => c.key == .word (Reg.TILE_CFG t.val)).getLast? with
  | some c => match c.words with | (_, w, _) :: _ => d.levelOf (w.get 1 0) | [] => d.tiles[t].level
  | none => d.tiles[t].goal.getD d.tiles[t].level

/-- The RADIO_SET_STATE commands that what lands refuses: a mode other than Idle where the device is not Active, ticks do not
run, or the tile is below SynthOn and does not start towards it. -/
def Dev.refusedModes (d : Dev) (ls : List Change) : List Nat :=
  (d.drunas.cmds.filter fun x => x.opcode == 0x300 && ls.any fun c =>
    c.cmd == some x.id &&
      match c.key with
      | .pathMode p => c.arg != 0 && !d.paths[p].retired &&
          !(d.ticking && d.stateLanding ls == 4 && d.levelLanding ls (tileOf p) == 2)
      | _ => false).map (·.id)

/-- Those commands end with REFUSED_STATE, and nothing of them lands. -/
def Dev.refuseModes (d : Dev) (ls : List Change) : Dev × List Change :=
  let ids := d.refusedModes ls
  let gone := fun (c : Change) => match c.cmd with | some i => ids.contains i | none => false
  let kept := ls.filter fun c => !gone c
  let d := (ls.filter gone).foldl (fun (d : Dev) c => d.withdraw (kept ++ d.cad.changes) c) d
  (ids.foldl (fun d i => d.endCmd (some i) 0x10 []) d, kept)

/-! ### Competing commits (R43, R54) -/

/-- Whether a change, at its place in a list, loses against another change of its setting in the list (R43, R54)
(DEDUCED, log entry 10). -/
def losesTo (c : Change) (i : Nat) (x : Change) (j : Nat) : Bool :=
  x.key == c.key && (decide (c.stamp < x.stamp) || (c.stamp == x.stamp && (decide (c.rank < x.rank) || (c.rank == x.rank && decide (i < j)))))

/-- The changes of a list that take effect, and those that never do (R54) (DEDUCED, log entry 10). -/
def superseded (ls : List Change) : List Change × List Change :=
  let xs := ls.zipIdx
  let lost := xs.filter fun c => xs.any fun x => losesTo c.1 c.2 x.1 x.2
  ((xs.filter fun c => !lost.contains c).map (·.1), lost.map (·.1))

/-- Changes that never take effect are counted, and noted for their commands (R54, R309). -/
def Dev.countLost54 (d : Dev) (ls : List Change) : Dev :=
  ls.foldl (fun d c =>
    let d := d.count32 Reg.CADENCE_SUPERSEDED
    match c.cmd with
    | some i => d.modCmd i fun x => { x with lost := x.lost + 1 }
    | none => d) d

/-! ### Changes while no ticks run (R57) -/

/-- A change put into a list in the order of landing ticks, behind those of its own tick. -/
def insertChange (c : Change) : List Change → List Change
  | [] => [c]
  | x :: xs => if c.land < x.land then c :: x :: xs else x :: insertChange c xs

/-- Changes in the order of their landing ticks; those of one tick in the order of commit. -/
def byLanding (ls : List Change) : List Change := ls.foldl (fun acc c => insertChange c acc) []

/-- The number of the tick at which a change would land: one that waits for a frame boundary, at the first one from its tick on. -/
def Dev.landTick (d : Dev) (c : Change) : Nat :=
  if c.atFrame then
    let nom := d.tickNom c.land
    c.land + (symIndex d.mu ((nom + frameSamples - 1) / frameSamples * frameSamples) - symIndex d.mu nom)
  else c.land

/-- Whether a change takes effect at once: no ticks run, and none are to start, or it was made while none were to start. -/
def Dev.settlesNow (d : Dev) (c : Change) : Bool := !d.cad.running && (d.cad.startAt.isNone || decide (c.land ≤ d.cad.tickIdx))

/-- The changes that take effect as no ticks run, in the order of their landing ticks, and those that lose: of the changes of one
setting at one tick the latest stands (R54), and none stands against a change that a later initiator of R43 has committed in the
same cycle and that has taken effect. -/
def Dev.settling (d : Dev) : List Change × List Change :=
  let ls := (d.cad.changes.filter d.settlesNow).map fun (c : Change) => { c with land := d.landTick c }
  let xs := (byLanding ls).zipIdx
  let lost := xs.filter fun c => xs.any (fun x => x.1.land == c.1.land && losesTo c.1 c.2 x.1 x.2) ||
    (c.1.stamp == d.time.cycle && d.sameNow.commits.any fun x => x.1 == c.1.key && decide (c.1.rank < x.2))
  ((xs.filter fun c => !lost.contains c).map (·.1), lost.map (·.1))

/-- Everything that no tick holds back takes effect at once, in the order of landing ticks. -/
def settleOnce (d : Dev) (m : Mem) : Dev × Mem :=
  let (ls, lost) := d.settling
  let d := { d with cad := { d.cad with changes := d.cad.changes.filter fun c => !d.settlesNow c } }
  let d := d.countLost54 lost
  let d := { d with same := { d.sameNow with commits := ls.map (fun (c : Change) => (c.key, c.rank)) ++ d.sameNow.commits } }
  let (d, ls) := d.refuseModes ls
  let d := (ls.filter fun (c : Change) => c.key == .cadenceCfg).foldl Dev.landCadence d
  let d := ls.foldl Dev.landBlended d
  let (d, ls) := d.landConfig ls
  let (d, m) := landAll d m ls
  let d := (d.selectBanks.formDelays 0).mirrorAtTick
  ((d.biasReturn).beginDeferred, m)

/-- Outputs of the Coruf die that wait for a tick return at once while there is none (R525). -/
def Dev.biasSettle (d : Dev) : Dev := if d.ticking then d else d.biasReturn

/-- While RUN is 0, what has been committed or proposed takes effect until nothing is left (R57)
(DESIGN CHOICE, log entry 11) (DEDUCED, log entry 35). -/
def settle (d : Dev) (m : Mem) : Dev × Mem :=
  if d.cad.running then (d, m)
  else
    let now := fun (d : Dev) => d.cad.changes.any d.settlesNow
    let (d, m) :=
      if !now d then (d, m)
      else
        let (d, m) := (List.range 4).foldl (fun (x : Dev × Mem) _ => if now x.1 then settleOnce x.1 x.2 else x) (d, m)
        (d.flowShed, m)
    (if d.link.proposals = [] || d.ticking then d else (d.settleSets.receiveEmptied d.link.rxSet).flowShed, m)

end Sys2Proof.Machine
end

