-- ==== Sys2Proof/Machine/Ring.lean ====
section
/-!
DEFINITION. Command packets, the ring and replies (chapter 11): framing and checks of a packet (R305 to R308, R468 to R472),
entry to the ring (R312, R323), and the replies (R309 to R311).
-/

namespace Sys2Proof.Machine

/-! ### Replies -/

/-- The high and low word of a time in whole ns. -/
def timeWords (ns : Nat) : List Word := [BitVec.ofNat 32 (ns / 4294967296), BitVec.ofNat 32 ns]

/-- The two words of a mask of 64 paths, high word first. -/
def maskWords (mask : Nat) : List Word := [BitVec.ofNat 32 (mask / 4294967296), BitVec.ofNat 32 mask]

/-- The header of a reply (Table 11.3). -/
def replyHeader (op tag status supn time : Nat) (final : Bool) (n : Nat) : List Word :=
  [((0 : Word).put 31 16 op).put 15 0 tag,
   ((((0 : Word).put 31 16 (4 * n)).put 15 8 status).put 7 7 (b2n final)).put 6 0 (min supn 127)] ++ timeWords time

/-- Words with the CHECK that closes a packet (R305). -/
def withCheck (ws : List Word) : List Word := ws ++ [crc32c (ws.flatMap beBytes)]

/-- A reply goes back on the path of its command (R312, R323): the answer says whether it was sent. -/
def Dev.deliver (d : Dev) (spi : Bool) (ws : List Word) : Dev × Bool :=
  if spi then
    if 16 ≤ d.drunas.replies.length then ((d.count32 Reg.DRUNAS_REPLY_LOST).raise Reg.DRUNAS_EVT 3, false)
    else ((d.modDrunas fun x => { x with replies := x.replies ++ [ws] }).raise Reg.DRUNAS_EVT 0, true)
  else if d.link.txSet = 0 then (d.count32 Reg.DRUNAS_REPLY_LOST, false)
  else (d.send 0x300 ws, true)

/-- One reply (R309, R310), sealed for an authenticated command (R468). -/
def Dev.reply (d : Dev) (spi auth : Bool) (op tag status supn time : Nat) (final : Bool) (results : List Word) : Dev :=
  let head := replyHeader op tag status supn time final results.length
  let (ws, d) :=
    if auth then
      let (seq, d) := d.nextTxSeq spi
      (head ++ beWords (d.seal spi seq (head.flatMap beBytes) (results.flatMap beBytes)), d)
    else (head ++ results, d)
  let (d, sent) := d.deliver spi (withCheck ws)
  let d := if final && sent then d.count32 Reg.DRUNAS_DONE else d
  if final && status == 2 then d.count32 Reg.DRUNAS_LATE else d

/-- Status OK turns into LATE for a command that executed after its time (Table 11.5). -/
def lateStatus (late : Bool) (status : Nat) : Nat := if late && status == 0 then 2 else status

/-- The final reply of a command, which leaves the list of open commands and frees its capture SRAM; work without a command
ends in silence. The reply of a BEAM_LOAD carries the retired-path mask as it stands now (R139). -/
def Dev.endReply (d : Dev) (c : Cmd) (status time : Nat) : Dev :=
  let d := d.modDrunas fun x => { x with
    cmds := x.cmds.filter fun y => y.id != c.id
    ranges := x.ranges.filter fun (r : Nat × Nat × Nat) => r.1 != c.id
    clash := x.clash.filter fun (r : Nat × Nat × Nat) => r.1 != c.id }
  let results := match c.opcode, c.results with
    | 0x401, [r, _, _] => r :: maskWords d.retiredMask
    | _, rs => rs
  if c.silent then d
  else d.reply c.spi c.auth c.opcode c.tag (lateStatus c.late status) c.lost time true results

/-- The interim reply of a command, unless FINAL_ONLY asks for none or one has been sent. -/
def Dev.interim (d : Dev) (id time : Nat) : Dev :=
  match d.drunas.cmds.find? fun c => c.id == id with
  | none => d
  | some c =>
    if c.finalOnly || c.silent then d
    else
      (d.modDrunas fun x => { x with cmds := x.cmds.map fun y => if y.id = id then { y with finalOnly := true } else y }).reply
        c.spi c.auth c.opcode c.tag 1 0 time false []

/-- Whether a change of a command waits to land. -/
def Dev.waits (d : Dev) (id : Nat) : Bool := d.cad.changes.any fun c => c.cmd == some id

/-- The final status of a command whose changes have all landed or lost (R311). -/
def landedStatus (c : Cmd) : Nat :=
  match c.verdict with
  | some v => v
  | none => if c.refused then 0x10 else if 0 < c.total ∧ c.total ≤ c.lost then 0x30 else 0

/-- Final replies that are due: of commands whose work has ended and, at a seam midpoint or while no ticks run (`landed`), of
commands whose changes have landed (R310, R311). `time` is the nominal time of the landing tick. -/
def Dev.finals (d : Dev) (landed : Bool) (time : Nat) : Dev :=
  d.drunas.cmds.foldl (fun d c =>
    if c.stage = .committed then
      if landed && !d.waits c.id then d.endReply c (landedStatus c) time else d
    else
      match c.verdict with
      | some v => d.endReply c v c.time
      | none => d) d

/-- Final replies after a command or access, by local time where no ticks run. -/
def Dev.finalise (d : Dev) : Dev := d.finals (!d.ticking) d.nowNs

/-- What follows every event that may commit, land or end something: what no tick holds back lands, and replies go out. -/
def settled (x : Dev × Mem) : Dev × Mem :=
  let y := settle x.1 x.2
  (y.1.finalise, y.2)

/-- A meaning whose effect may commit changes or end commands. -/
def onSettled (s : State) (f : Dev → Mem → Dev × Mem) : Out := onMem s fun d m => settled (f d m)

/-- A meaning on the device alone whose effect may commit changes or end commands. -/
def onCommit (s : State) (f : Dev → Dev) : Out := onSettled s fun d m => (f d, m)

/-! ### The ring -/

/-- Bytes that the ring holds. -/
def ringBytes (ps : List Packet) : Nat := ps.foldl (fun n p => n + 4 * p.words.length) 0

/-- A packet or request enters the ring, or is refused without checks when the ring is full (R312). A refused
register-access request has no reply (DEDUCED, log entry 47). -/
def Dev.enterRing (d : Dev) (words : List Word) (spi regAccess crcOk : Bool) : Dev :=
  if 64 ≤ d.drunas.ring.length ∨ 65536 < ringBytes d.drunas.ring + 4 * words.length then
    let d := (d.count32 Reg.DRUNAS_RING_FULL).raise Reg.DRUNAS_EVT 2
    if regAccess then d
    else d.reply spi false ((words.getD 0 0).get 31 16) ((words.getD 0 0).get 15 0) 0x11 0 d.nowNs true []
  else d.modDrunas fun x => { x with
    ring := x.ring ++ [⟨words, spi, regAccess, crcOk, 0, 0, false⟩] }

/-- Words of a packet that its header's LENGTH and AUTH make (R305, R323). -/
def impliedWords (w1 : Word) : Nat := 4 + (w1.get 31 16 + 3) / 4 + (if w1.bit 3 then 4 else 0) + 1

/-- A write of DRUNAS_SUBMIT (R323). -/
def Dev.submitWord (d : Dev) (w : Word) : Dev :=
  let ws := d.drunas.submit ++ [w]
  if 2 ≤ ws.length ∧ impliedWords (ws.getD 1 0) ≤ ws.length then
    (d.modDrunas fun x => { x with submit := [] }).enterRing ws true false true
  else d.modDrunas fun x => { x with submit := ws }

/-- A read of DRUNAS_REPLY (R323): the word, and the device after it. -/
def Dev.replyWord (d : Dev) : Word × Dev :=
  match d.drunas.replies with
  | [] => (0, d)
  | [] :: rest => (0, d.modDrunas fun x => { x with replies := rest })
  | [w] :: rest => (w, d.modDrunas fun x => { x with replies := rest })
  | (w :: ws) :: rest => (w, d.modDrunas fun x => { x with replies := ws :: rest })

/-- A complete command or register-access message enters the ring (R279, R281, R312). -/
def Dev.messageToRing (d : Dev) : Dev :=
  match d.take fun m => m.flow == 0x300 || m.flow == 0x310 with
  | none => d
  | some (m, d) => d.enterRing m.words false (m.flow == 0x310) m.crcOk

/-- DRUNAS_STATUS as read. -/
def Dev.drunasStatus (d : Dev) : Word :=
  ((((((0 : Word).put 31 25 d.drunas.ring.length).put 24 18 (d.drunas.cmds.countP fun c => c.stage == .pendList)).put 17 17
    (b2n d.drunas.handover)).put 16 16 (b2n (d.drunas.submit != []))).put 15 11 d.drunas.replies.length).put 10 0
    (d.drunas.replies.headD []).length

/-- Whether the command processor pair works on packets: an image runs, it is not halted, and no handover is in progress. -/
def Dev.processorRuns (d : Dev) : Bool :=
  d.power.booted && !d.power.hold && d.power.ctrl == .on && !d.sec.halted && !d.drunas.handover

/-! ### Checks (Table 11.2) -/

/-- The opcodes of Table 11.4. -/
def opcodes : List Nat := [0x100, 0x101, 0x102, 0x200, 0x201, 0x300, 0x310, 0x320, 0x400, 0x401, 0x410, 0x500, 0x501, 0x600,
  0x601, 0x602, 0x610, 0x700, 0x701, 0x702, 0x800, 0x801, 0x900, 0x901, 0x902, 0xA00, 0xA01, 0xA10, 0xA20, 0xB00, 0xB10, 0xB20]

/-- How many bits of a number of `n` bits are set. -/
def ones (n v : Nat) : Nat := (List.range n).countP fun i => v.testBit i

/-- Whether a row of Table 11.4 allows a number of parameter words. -/
def lengthOk (op : Nat) (ps : List Word) : Bool :=
  let n := ps.length
  let p := fun (i : Nat) => ps.getD i 0
  match op with
  | 0x100 => decide (n ≤ 16)
  | 0x101 => n == 0
  | 0x102 => n == 1
  | 0x200 => n == 1
  | 0x201 => n == 0
  | 0x300 => n == 7
  | 0x310 => decide (0 < n) && n == 1 + 4 * ones 4 ((p 0).get 3 0)
  | 0x320 => decide (1 ≤ (p 0).get 6 0 ∧ (p 0).get 6 0 ≤ 64) && n == 1 + (p 0).get 6 0
  | 0x400 => n == 1
  | 0x401 => if (p 0).bit 28 then decide (3 ≤ n) && n == 3 + (p 2).get 25 19 * (p 2).get 18 13 else n == 1
  | 0x410 => decide (4 ≤ n) && n == 4 + ones 32 (p 3).toNat
  | 0x500 =>
    let g := (p 0).bit 31
    let c := (p 0).bit 30
    let a := (p 0).bit 29
    let at_ := if g then 3 else 1
    let paths := ones 32 (p at_).toNat + ones 32 (p (at_ + 1)).toNat
    if c || a then decide (at_ + 2 ≤ n) && n == at_ + 2 + (b2n c + b2n a) * paths else n == at_
  | 0x501 => n == 3
  | 0x600 => n == 1
  | 0x601 => n == 2
  | 0x602 => n == 2
  | 0x610 => decide (1 ≤ n ∧ n ≤ 71)
  | 0x700 => n == 4
  | 0x701 => n == 4
  | 0x702 => n == 0
  | 0x800 => decide (1 ≤ (p 0).get 6 0 ∧ (p 0).get 6 0 ≤ 96) && n == 1 + (p 0).get 6 0
  | 0x801 => decide (1 ≤ (p 0).get 6 0 ∧ (p 0).get 6 0 ≤ 96) && n == 1 + (p 0).get 6 0
  | 0x900 => n == 1
  | 0x901 => n == 1
  | 0x902 => n == 1
  | 0xA00 => n == 2
  | 0xA01 => n == 0
  | 0xA10 =>
    match (p 0).get 31 30 with
    | 0 => n == 1
    | 1 => n == 50
    | 2 => n == 1
    | _ => n == 1 || n == 50
  | 0xA20 => n == 1 || n == 21 || n == 50
  | 0xB00 => n == 3
  | 0xB10 => n == 2
  | 0xB20 => n == 1
  | _ => false

/-- Whether the first `n` words end with their CHECK (R305). -/
def checkAt (ws : List Word) (n : Nat) : Bool :=
  decide (5 ≤ n ∧ n ≤ ws.length) && ws.getD (n - 1) 0 == crc32c ((ws.take (n - 1)).flatMap beBytes)

/-- Words up to the last that is not zero. -/
def usedWords (ws : List Word) : Nat := (ws.reverse.dropWhile fun w => w == 0).length

/-- Where a packet ends: where its header says, when its CHECK stands there and only padding follows, and otherwise at the
first word that is its CHECK with only padding behind (R278; DEDUCED, log entry 23). -/
def packetEnd (ws : List Word) : Option Nat :=
  let n := impliedWords (ws.getD 1 0)
  if checkAt ws n && decide (usedWords ws ≤ n) then some n
  else ((List.range (ws.length + 1)).filter fun k => decide (usedWords ws ≤ k)).find? (checkAt ws)

/-- Whether a security setting asks for AUTH on a path (R471). -/
def Dev.needsAuth (d : Dev) (spi : Bool) : Bool := (d.rd Reg.SEC_CFG).bit (b2n spi)

/-- The security limits of order 4 that need no signature (R471, Table 17.4). -/
def Dev.securityAllows (d : Dev) (op : Nat) (ps : List Word) (spi auth : Bool) : Bool :=
  let challenge := op == 0xA10 && (ps.getD 0 0).get 31 30 == 0
  let field := d.sec.lifecycle == 2 && !auth
  (auth || !d.needsAuth spi || op == 0x100 || op == 0x101 || challenge) &&
    !(field && (op == 0xB10 || (op == 0xB00 && !(ps.getD 0 0).bit 27)))

/-- What the checks of Table 11.2 find: a failure, with whether its reply is authenticated, or the parameters. -/
inductive Checked where
  | fail (status : Nat) (auth : Bool)
  | pass (params : List Word) (auth : Bool)
  deriving DecidableEq, Repr

/-- A packet that fails order 1. -/
def Dev.badCheck (d : Dev) : Dev := (d.count32 Reg.DRUNAS_BAD_CHECK).raise Reg.DRUNAS_EVT 1

/-- The checks of Table 11.2 in their order; a good tag advances the inbound sequence (R469) (DEDUCED, log entry 46). -/
def Dev.checkPacket (d : Dev) (p : Packet) : Checked × Dev :=
  if !p.crcOk then (.fail 0x22 false, d.badCheck)
  else
    match packetEnd p.words with
    | none => (.fail 0x22 false, d.badCheck)
    | some n =>
      let w0 := p.words.getD 0 0
      let w1 := p.words.getD 1 0
      let auth := w1.bit 3
      let body := (p.words.take (n - 1)).drop 4
      let head := (p.words.take 4).flatMap beBytes
      let (plain, d) :=
        if auth then
          if body.length < 4 then (none, d.authFail)
          else
            let k := body.length - 4
            let (r, d) := d.authOpen p.spi (w1.get 15 4) head ((body.take k).flatMap beBytes) ((body.drop k).flatMap beBytes)
            (r.map beWords, d)
        else (some body, d)
      match plain with
      | none => (.fail 0x22 false, d.badCheck)
      | some ps =>
        if !opcodes.contains (w0.get 31 16) then (.fail 0x20 auth, d)
        else if n != impliedWords w1 || w1.get 31 16 % 4 != 0 || !lengthOk (w0.get 31 16) ps then (.fail 0x21 auth, d)
        else if !d.securityAllows (w0.get 31 16) ps p.spi auth then (.fail 0x12 auth, d)
        else (.pass ps auth, d)

/-- The opcode that a packet's header names. -/
def Packet.opcode (p : Packet) : Nat := (p.words.getD 0 0).get 31 16

/-- The packet at the head of the ring leaves it with a failure of Table 11.2 (R307) (DEDUCED, log entry 46). -/
def Dev.failReply (d : Dev) (p : Packet) (status : Nat) (auth : Bool) : Dev :=
  d.reply p.spi auth p.opcode ((p.words.getD 0 0).get 15 0) status 0 d.nowNs true []

/-- `d` without the head of its ring. -/
def Dev.popRing (d : Dev) : Dev := d.modDrunas fun x => { x with ring := x.ring.drop 1 }

/-! ### Commands in execution -/

/-- What the meaning of an opcode answers: a final status with results; changes that it has committed; or work in progress,
which `endCmd` ends. -/
inductive Exec where
  | done (status : Nat) (results : List Word)
  | commits (results : List Word)
  | works (aux : List Nat)
  deriving DecidableEq, Repr

/-- The meaning of an opcode: what it does to the device and memory, and what it answers. -/
abbrev Meaning := Dev → Mem → Cmd → Exec × Dev × Mem

/-- The command processor as a committer, for a command (R43). -/
def Cmd.by_ (c : Cmd) : Committer := ⟨1, some c.id⟩

/-- The command with an identity. -/
def Dev.cmd? (d : Dev) (id : Nat) : Option Cmd := d.drunas.cmds.find? fun c => c.id == id

/-- A command takes its place in the list of open commands. -/
def Dev.openCmd (d : Dev) (c : Cmd) : Dev :=
  d.modDrunas fun x => { x with cmds := x.cmds ++ [c], nextId := x.nextId + 1 }

/-- Changes committed under a command that land after the tick that it targets are late (R42) (DEDUCED, log entry 52). -/
def Dev.countLate (d : Dev) (id target : Nat) : Dev :=
  let n := d.cad.changes.countP fun c => c.cmd == some id && decide (target < c.land)
  if n = 0 then d
  else ((List.range n).foldl (fun d _ => d.count32 Reg.CADENCE_LATE) d).raise Reg.CADENCE_EVT 0 |>.modCmd id fun c =>
    { c with late := true }

/-- A command executes at its execution point by its meaning (R310, R311, R315): an immediate end has its final reply at
once; otherwise an interim reply follows, with the time of the tick that its changes target. `target` is the tick that
a time flag chooses. -/
def runMeaning (f : Meaning) (d : Dev) (m : Mem) (id : Nat) (target : Option Nat) : Dev × Mem :=
  match d.cmd? id with
  | none => (d, m)
  | some c =>
    let now := d.nowNs
    let (r, d, m) := f (d.modCmd id fun c => { c with time := now, stage := .working }) m c
    match r with
    | .done status results => ((d.modCmd id fun c => { c with results := results }).endCmd (some id) status results, m)
    | .commits results =>
      let n := d.cad.changes.countP fun x => x.cmd == some id
      let d := d.modCmd id fun c => { c with results := results, total := n, stage := .committed }
      let d := match target with | some t => d.countLate id t | none => d
      if n = 0 then (d.modCmd id fun c => { c with stage := .working, verdict := some (landedStatus c) }, m)
      else if d.ticking then
        let tick := d.cad.changes.foldl (fun t x => if x.cmd = some id then max t x.land else t) 0
        (d.interim id (d.tickNs tick), m)
      else (d, m)
    | .works aux =>
      let d := d.modCmd id fun c => { c with aux := aux }
      match d.cmd? id with
      | some c => (if c.verdict.isNone then d.interim id 0 else d, m)
      | none => (d, m)

end Sys2Proof.Machine
end

