-- ==== Sys2Proof/Machine/Views.lean ====
section
/-!
DEFINITION. Registers as they read (R45, R372): words that hardware keeps in units of State rather than in the register
map, and the side effects of a read.
-/

namespace Sys2Proof.Machine

/-- CADENCE_STATUS. -/
def Dev.cadenceStatus (d : Dev) : Word :=
  let pend := d.cad.muHeld.isSome || d.cad.changes.any fun c => c.key == .cadenceCfg
  ((((((((0 : Word).put 31 31 (b2n d.cad.running)).put 30 30 (b2n pend)).put 29 29 (b2n d.cad.muHeld.isSome)).put 28 28
    (b2n d.cad.runHeld)).put 27 27 (b2n d.seamClipped)).put 26 26 (b2n d.leadClipped)).put 25 25 (b2n (d.cad.lag != 0))).put 15 8
    (unsigned 8 (max (-128) (min 127 d.cad.lag)))

/-- TILE_STATUS. STATE is the highest state that the tile or a path of it has reached. -/
def Dev.tileStatus (d : Dev) (t : Fin 4) : Word :=
  let x := d.tiles[t]
  let paths := (pathsOf t).map fun p => d.paths[p]
  let state := if paths.any PathSt.inTx then 4 else if paths.any PathSt.inRx then 3 else x.level
  let a := x.syn x.act
  let s := x.syn (!x.act)
  ((((((((((0 : Word).put 31 31 (b2n x.retired)).put 30 30 (b2n x.critMute)).put 29 29 (b2n x.phaseUnaligned)).put 28 28
    (b2n x.goal.isSome)).put 10 8 state).put 3 3 (b2n x.act)).put 2 2 (b2n (s.run && s.qual && s.int == a.int && s.frac == a.frac))).put 1 1
    (b2n x.synB.qual)).put 0 0 (b2n x.synA.qual))

/-- TILE_PATH_STATE_LO or _HI. -/
def Dev.pathState (d : Dev) (t : Fin 4) (hi : Bool) : Word :=
  (List.range 8).foldl (fun w k =>
    let s := d.paths[toPath (16 * t.val + 8 * b2n hi + k)]
    w.put (2 * k + 1) (2 * k) (if s.transit.isSome then 3 else s.mode)) 0

/-- TILE_SYN_STATUS. -/
def Dev.synStatus (d : Dev) (t : Fin 4) : Word :=
  let x := d.tiles[t]
  let band := fun (s : Syn) => match s.band with | some b => b.code | none => 0
  ((((((((0 : Word).put 31 24 (band x.synB)).put 23 16 (band x.synA)).put 11 11 (b2n x.rangeErr)).put 10 10 (b2n x.synB.vt)).put 9 9
    (b2n x.synB.ld)).put 8 8 (b2n x.synB.qual)).put 2 2 (b2n x.synA.vt)).put 1 1 (b2n x.synA.ld) |>.put 0 0 (b2n x.synA.qual)

/-- Whether a relief pair serves a path now. -/
def Relief.serves (x : Relief) : Bool := x.phase == 2 || x.phase == 3

/-- TILE_RELIEF_STATUS. -/
def Dev.reliefStatus (d : Dev) (t : Fin 4) : Word :=
  let r := d.relief[t]
  ((((((((((((0 : Word).put 31 31 (b2n r.suspended)).put 30 30 (b2n (d.slotClipped t.val))).put 29 29 (b2n r.adc.retired)).put 28 28
    (b2n r.dac.retired)).put 27 27 (b2n r.nocmp)).put 26 26 (b2n r.calAbandoned)).put 20 16 r.slot).put 11 8 r.dac.path).put 7 4
    r.adc.path).put 3 2 r.dac.phase).put 1 1 (b2n r.dac.serves)).put 0 0 (b2n r.adc.serves)

/-- TILE_CH_STATUSk of a path: the latched bits, and which converters serve it. -/
def Dev.chStatusWord (d : Dev) (p : Fin 64) : Word :=
  let r := d.relief[tileOf p]
  let s := d.paths[p]
  let k := p.val % 16
  (((d.rd (chStatus p) &&& 7).put 31 31 (b2n (r.dac.serves && r.dac.path == k))).put 30 30 (b2n (r.adc.serves && r.adc.path == k))).put
    29 29 (b2n s.dacRetired) |>.put 28 28 (b2n s.adcRetired)

/-- BEAM_STATUS. -/
def Dev.beamStatus (d : Dev) : Word :=
  let b := d.beam
  let pend := b.dlWait.isSome || b.ulWait.isSome || d.cad.changes.any fun c =>
    (c.key == .beamBank false || c.key == .beamBank true) && decide (d.cad.tickIdx < c.land)
  (((((((((((0 : Word).put 31 31 (b2n b.dlBank)).put 30 30 (b2n b.ulBank)).put 29 29 (b2n pend)).put 28 28 (b2n b.mirrorBusy)).put 27 27
    (b2n b.cfgErr)).put 26 26 (b2n b.spareFor.isSome)).put 25 23 (b.spareFor.getD 0)).put 22 20
    ((d.rd Reg.CADENCE_TICK_COUNT).toNat % 8)).put 19 19 (b2n b.spareRetired)).put 17 8 d.slotsInForce).put 7 0 b.sliceRetired

/-- BEAM_SOLVER_STATUS. -/
def Dev.solverStatus (d : Dev) : Word :=
  ((((0 : Word).put 31 31 (b2n d.beam.solving)).put 30 30 (b2n d.beam.lastMiss)).put 29 29 (b2n d.beam.stopped)).put 11 0 d.beam.pEff

/-- DPD_PATHp_STATUS. -/
def Dev.dpdStatus (d : Dev) (p : Fin 64) : Word :=
  let x := d.dpd.path[p]
  (((((((((((0 : Word).put 31 31 (b2n d.paths[p].retired)).put 30 30 (b2n (d.noObs p))).put 29 29 (b2n (d.commitPend p))).put 28 28
    (b2n x.upd.isSome)).put 27 24 x.needs).put 23 20 (d.forcedTerms p)).put 19 18 x.bank).put 17 15 x.spare).put 14 12
    x.page[3]).put 11 9 x.page[2]).put 8 6 x.page[1] |>.put 5 3 x.page[0]

/-- DPD_PATHp_Q. -/
def Dev.dpdQ (d : Dev) (p : Fin 64) : Word :=
  let x := d.dpd.path[p]
  ((((0 : Word).put 31 24 x.aclr).put 23 22 x.qbank).put 21 21 (b2n (x.stale || d.noObs p || d.paths[p].retired))).put 15 0 x.evm

/-- DPD_ORX_RETIRED. -/
def Dev.orxRetired (d : Dev) : Word :=
  (List.finRange 16).foldl (fun w k => if d.dpd.orx[k].retired then w.put k.val k.val 1 else w) 0

/-- The number of a channel state in DERRICK_CHc_STATUS. -/
def ChState.num : ChState → Nat
  | .idle => 0 | .ready => 1 | .running => 2 | .halted => 3 | .stopped => 4 | .done => 5 | .doneErr => 6 | .aborted => 7

/-- The channel that runs. -/
def Dev.runningChannel (d : Dev) : Option (Fin 8) := (List.finRange 8).find? fun c => d.derrick.ch[c].st == .running

/-- DERRICK_STATUS. -/
def Dev.derrickStatus (d : Dev) : Word :=
  let ready := (List.finRange 8).foldl (fun n c => if d.derrick.ch[c].st = .ready then n + 2 ^ c.val else n) 0
  let run := d.runningChannel
  ((((0 : Word).put 31 31 (b2n d.derrick.stoppedAll)).put 30 30 (b2n run.isSome)).put 26 24
    (match run with | some c => c.val | none => 0)).put 7 0 ready

/-- The next beat of a channel: bytes of its width, and how far it lies from the lowest address still to move (R395). -/
def Channel.beat (x : Channel) : Nat × Nat :=
  let lo := if x.ctl.bit 28 then 0 else x.dst
  let e := lo + x.count
  if x.down then
    let k := if e % 4 = 0 ∧ 4 ≤ x.count then 4 else if e % 2 = 0 ∧ 2 ≤ x.count then 2 else 1
    (k, x.count - k)
  else (if lo % 4 = 0 ∧ 4 ≤ x.count then 4 else if lo % 2 = 0 ∧ 2 ≤ x.count then 2 else 1, 0)

/-- A register of a Derrick channel, by its offset from DERRICK_CHc_DESC: SRC and DST are those of the next beat. -/
def Dev.channelWord (d : Dev) (c : Fin 8) (o : Nat) : Word :=
  let x := d.derrick.ch[c]
  match o with
  | 0x8 => (d.rd (Reg.DERRICK_CH_STATUS c.val)).put 31 28 x.st.num
  | 0xC => BitVec.ofNat 32 x.desc
  | 0x10 => BitVec.ofNat 32 (if x.ctl.bit 29 then x.src else x.src + x.beat.2)
  | 0x14 => BitVec.ofNat 32 (if x.ctl.bit 28 then x.dst else x.dst + x.beat.2)
  | 0x18 => BitVec.ofNat 32 x.count
  | _ => d.rd (Reg.DERRICK_CH_DESC c.val + o)

/-- The status byte of the management SPI (R388). -/
def Dev.spiByte (d : Dev) : Nat :=
  128 * b2n (d.spi.queue != []) + 64 * b2n d.spi.err + 32 * b2n d.spi.part + d.spi.code

/-- A word of a 64-bit sequence number, low 32 bits. -/
def low32 (n : Nat) : Word := BitVec.ofNat 32 n

/-- A free value in a field of a word that reads as the device happens to measure it (DESIGN CHOICE, log entry 29). -/
def Dev.freeField (d : Dev) (w : Word) (hi lo : Nat) : Word × Dev := (w.put hi lo (Config.freeWord d.freeCtr).toNat, d.drew)

/-- A register of the blocks below 0x0008_0000 as read, by its address. -/
def Dev.viewLow (d : Dev) (m : Mem) (a : Nat) : Word :=
  if a = Reg.SYS_SPI_STATUS then low32 d.spiByte
  else if a = Reg.DRUNAS_STATUS then d.drunasStatus
  else if a = Reg.CADENCE_STATUS then d.cadenceStatus
  else if a = Reg.TIME_STATUS then d.timeStatus
  else if a = Reg.TIME_NOW_LO then low32 d.nowNs
  else if a = Reg.TIME_NOW_HI then low32 (d.nowNs / 4294967296)
  else if a = Reg.TIME_NOW_FRAC then low32 d.time.now
  else if a = Reg.TIME_INC_LO then low32 d.time.inc
  else if a = Reg.TIME_INC_HI then low32 (d.time.inc / 4294967296)
  else if a = Reg.TIME_HOLD_AGE then d.holdAge
  else if Reg.TIME_TSQ_E0 ≤ a ∧ a ≤ Reg.TIME_TSQ_E3 then d.tsqWord ((a - Reg.TIME_TSQ_E0) / 4)
  else if a = Reg.TIME_TSQ_STAT then (d.rd a).put 4 0 d.time.tsq.length
  else if Reg.TIME_SCHED_CTRL 0 ≤ a ∧ a < 0x20400 ∧ a % 16 = 0 then d.slotCtrl ((a - Reg.TIME_SCHED_CTRL 0) / 16)
  else if a = Reg.SUMP_STATUS then d.sumpStatus
  else if a = Reg.SUMP_FAULTN then d.faultnWord
  else if Reg.SUMP_RETIRED 0 ≤ a ∧ a ≤ Reg.SUMP_RETIRED 7 then d.retiredWord ((a - Reg.SUMP_RETIRED 0) / 4)
  else if a = Reg.SUMP_LOG_HEAD then d.logHead
  else if a = Reg.SUMP_LOG_DATA then d.logWord m
  else if 0x30100 ≤ a ∧ a < 0x30160 then
    let i : Fin 6 := ⟨(a - 0x30100) / 16 % 6, by omega⟩
    match a % 16 with
    | 4 => d.thermStatus i
    | 8 => d.thermTemp i
    | 12 => d.thermModel i
    | _ => d.rd a
  else if Reg.SUMP_SRC_CFG 0 ≤ a ∧ a < 0x31800 ∧ a % 8 = 4 then d.srcStatus (toSrc ((a - Reg.SUMP_SRC_CFG 0) / 8))
  else if a = Reg.POWER_STATUS then d.powerStatus
  else if a = Reg.SEC_STATUS then d.secStatus
  else if a = Reg.SEC_BOOTCNT then d.sec.bootCount
  else if a = Reg.SEC_RXSEQ_LINK then low32 d.sec.rxLink
  else if a = Reg.SEC_RXSEQ_SPI then low32 d.sec.rxSpi
  else if a = Reg.DERRICK_STATUS then d.derrickStatus
  else if 0x60100 ≤ a ∧ a < 0x60200 then d.channelWord ⟨(a - 0x60100) / 32 % 8, by omega⟩ (a % 32)
  else if a = Reg.CHECK_STATUS then (d.rd a).put 31 31 (b2n d.check.busy)
  else d.rd a

/-- A register of the blocks from 0x0008_0000 up to 0x000F_FFFF as read (DEDUCED, log entry 54). -/
def Dev.viewMid (d : Dev) (a : Nat) : Word :=
  if a = Reg.SKX_PHY_STATUS then d.phyStatus
  else if 0x80100 ≤ a ∧ a < 0x80300 ∧ a % 0x40 = 0 then d.laneStateWord (laneNo ((a - 0x80100) / 0x40))
  else if a = Reg.SKX_CELL_STATUS then d.cellStatus
  else if a = Reg.SKX_CELL_CAP then d.cellCap
  else if a = Reg.SKX_CELL_DEMAND then d.cellDemand
  else if 0x91000 ≤ a ∧ a < 0x93000 ∧ a % 8 = 4 then d.flowStat ((a - 0x91000) / 8)
  else if a = Reg.BEAM_STATUS then d.beamStatus
  else if a = Reg.BEAM_RETIRED_LO then low32 d.retiredMask
  else if a = Reg.BEAM_RETIRED_HI then low32 (d.retiredMask / 4294967296)
  else if Reg.BEAM_SLOTBASE 0 ≤ a ∧ a ≤ Reg.BEAM_SLOTBASE 3 then d.slotBase ((a - Reg.BEAM_SLOTBASE 0) / 4)
  else if a = Reg.BEAM_SOLVER_STATUS then d.solverStatus
  else if a = Reg.DPD_ORX_RETIRED then d.orxRetired
  else if Reg.DPD_PATH_CFG 0 ≤ a ∧ a < 0xB1800 ∧ a % 0x20 = 0xC then d.dpdStatus (toPath ((a - 0xB1000) / 0x20))
  else if Reg.DPD_PATH_CFG 0 ≤ a ∧ a < 0xB1800 ∧ a % 0x20 = 0x10 then d.dpdQ (toPath ((a - 0xB1000) / 0x20))
  else if a = Reg.CAL_STATUS then d.calStatus
  else if 0xC1000 ≤ a ∧ a < 0xC1800 ∧ a % 0x20 = 0x10 then d.convq (toPath ((a - 0xC1000) / 0x20))
  else if 0xC1000 ≤ a ∧ a < 0xC1800 ∧ a % 0x20 = 0x14 then d.pflag (toPath ((a - 0xC1000) / 0x20))
  else if a = Reg.CHISEL_STATUS then d.chiselStatus
  else if a = Reg.CHISEL_CAP then low32 (d.capAt d.opAdm)
  else if 0xD0100 ≤ a ∧ a < 0xD0140 then d.coreLoad ((a - 0xD0100) / 4)
  else if 0xD0200 ≤ a ∧ a < 0xD0300 then
    let k := (a - 0xD0200) / 16
    if a % 16 = 0 then d.slotStatus k else d.slotValue k (a % 16 / 4)
  else if 0xE0000 ≤ a ∧ a < 0xE0080 ∧ a % 16 = 0 then d.eventStat ((a - 0xE0000) / 16)
  else if a = Reg.EVENT_PEND then d.eventPend
  else d.rd a

/-- A register of a tile as read. -/
def Dev.viewTile (d : Dev) (a : Nat) : Word :=
  let t := toTile ((a - 0x100000) / 0x10000)
  let o := a % 0x10000
  if o = 0x4 then d.tileStatus t
  else if o = 0x10 then d.pathState t false
  else if o = 0x14 then d.pathState t true
  else if o = 0x54 then d.synStatus t
  else if o = 0x404 then d.reliefStatus t
  else if 0x1000 ≤ o ∧ o < 0x2000 then d.pstepEntry t ((o - 0x1000) / 4)
  else if 0x2000 ≤ o ∧ o < 0x2800 ∧ o % 0x80 = 0x24 then d.chStatusWord (toPath (16 * t.val + (o - 0x2000) / 0x80))
  else d.rd a

/-- A register of the Coruf die as read: monitor readings and conversions are free values (R359, R361, log entry 2)
(DESIGN CHOICE, log entry 29). -/
def Dev.viewBias (d : Dev) (a : Nat) : Word × Dev :=
  if a = Reg.BIAS_STATUS then (d.biasStatus, d)
  else if a = Reg.BIAS_TEST then (d.testView, d)
  else if 0x180100 ≤ a ∧ a < 0x180700 ∧ a % 16 = 8 then
    let n := toOut ((a - 0x180100) / 16)
    let r := d.freeField (d.outStatus n) 11 0
    r.2.freeField r.1 28 28
  else if 0x181000 ≤ a ∧ a < 0x181400 ∧ a % 16 = 12 then d.freeField (d.rd a) 13 0
  else (d.rd a, d)

/-- A register as read, with the device after the read: read side effects act (R372). DPD_LUT_DATA stands apart (R168). -/
def Dev.readReg (d : Dev) (m : Mem) (a : Nat) : Word × Dev :=
  if a = Reg.DRUNAS_REPLY then d.replyWord
  else if a = Reg.TIME_TSQ_E3 then (d.tsqWord 3, d.tsqPop)
  else if a = Reg.SUMP_LOG_DATA then (d.logWord m, d.logNext)
  else if a < 0x80000 then (d.viewLow m a, d)
  else if a < 0x100000 then (d.viewMid a, d)
  else if a < 0x140000 then (d.viewTile a, d)
  else d.viewBias a

end Sys2Proof.Machine
end

