-- ==== Sys2Proof/Machine/Bus.lean ====
section
/-!
DEFINITION. Register access (chapter 14): what each access to a register block or memory window does and answers (R369 to
R381), the effect of a write on every register, and the control of Derrick channels and the check-value unit.
-/

namespace Sys2Proof.Machine

/-! ### Effects of register writes -/

/-- The word that a register holds after a write, each field by its type (R9, Table 14.2). -/
def fieldWrite (fs : List FieldRow) (old w : Word) : Word :=
  fs.foldl (fun v f =>
    match f.type with
    | .rw => v.put f.hi f.lo (w.get f.hi f.lo)
    | .cnt => v.put f.hi f.lo (w.get f.hi f.lo)
    | .w1c => v.put f.hi f.lo ((v &&& ~~~w).get f.hi f.lo)
    | _ => v) old

/-- The fields of the register at an address. -/
def fieldsOf (a : Nat) : List FieldRow :=
  match regRow a with
  | some r => r.fields
  | none => []

/-- The word after a write as this cycle leaves it (R13, R43): a field that a later initiator has written keeps that value, an event
that hardware has set in this cycle stands, and what a counter has counted in it is added to the value written. -/
def Dev.fieldWrite (d : Dev) (rank a : Nat) (w : Word) : Word :=
  let fs := fieldsOf a
  let v := Machine.fieldWrite (if d.overtaken a rank then fs.filter (·.type == .w1c) else fs) (d.rd a) w ||| d.setNow a
  if d.overtaken a rank then v
  else
    fs.foldl (fun v f =>
      let n := d.countedNow a f.lo
      if f.type == .cnt && n != 0 then
        v.put f.hi f.lo (if a = Reg.CADENCE_TICK_COUNT then v.get f.hi f.lo + n else min (v.get f.hi f.lo + n) (2 ^ (f.hi + 1 - f.lo) - 1))
      else v) v

/-- A write that acts by the field types alone; tick-bound bits are committed (R9, R40). -/
def Dev.writeFields (d : Dev) (c : Committer) (a : Nat) (w : Word) : Dev :=
  let v := d.fieldWrite c.rank a w
  let d := d.wr a v
  let d := if tickMask a = 0 then d else d.commitWord c a (if d.overtaken a c.rank then Machine.fieldWrite (fieldsOf a) v w else v)
  d.noteWrite a c.rank

/-- A write of TILE_PATH_MODE_LO or _HI commits the mode of each of its eight paths (R60). -/
def Dev.writeModes (d : Dev) (c : Committer) (a : Nat) (w : Word) (which : Nat) : Dev :=
  let t := toTile ((a - 0x100000) / 0x10000)
  let base := if a % 0x10000 = 0xC then 8 else 0
  let bits := (List.range 8).foldl (fun v k => if which.testBit k then (v : Word).put (2 * k + 1) (2 * k) (w.get (2 * k + 1) (2 * k)) else v) (d.rd a)
  let d := d.swr c a bits
  (List.range 8).foldl (fun d k =>
    if which.testBit k then
      let mode := w.get (2 * k + 1) (2 * k)
      d.commit c (.pathMode (toPath (16 * t.val + base + k))) [(a, w, (0 : Word).put (2 * k + 1) (2 * k) 3)] (if mode = 3 then 0 else mode)
    else d) d

/-- A write of DPD_PATHp_CFG: a bank selection is an instance of its own (R165), AMODE acts at once (R174). -/
def Dev.writePathCfg (d : Dev) (c : Committer) (p : Fin 64) (w : Word) : Dev :=
  let a := Reg.DPD_PATH_CFG p
  let was := d.amode p
  let d := (d.wr a (d.fieldWrite c.rank a w)).noteWrite a c.rank
  let d := d.writeAmode p (d.amode p != was)
  (d.commit c (.dpdBank p) [(a, w, 0x30000000#32)] (w.get 29 28)).commit c (.word a) [(a, w, 0xC0000000#32)] 0

/-- A write of DPD_PATHp_CTRL (R164, R174). -/
def Dev.writePathCtrl (d : Dev) (c : Committer) (p : Fin 64) (w : Word) : Dev :=
  let d := if w.bit 31 then d.commit c (.dpdPage p) [] (w.get 29 28) else d
  if w.bit 15 then d.adaptRequest p (w.get 13 12) (w.get 7 0) else d

/-- A write of BIAS_OUTn_CFG: its span is a commit of its own (R356). -/
def Dev.writeOutCfg (d : Dev) (c : Committer) (n : Fin 96) (w : Word) : Dev :=
  let a := Reg.BIAS_OUT_CFG n
  let d := (d.wr a (d.fieldWrite c.rank a w)).noteWrite a c.rank
  (d.commit c (.biasSpan n) [(a, w, 0xC0000000#32)] (w.get 31 30)).commit c (.word a) [(a, w, 0x303F0000#32)] 0

/-- ON and OFF code of an output are committed as one (R355). -/
def Dev.commitCode (d : Dev) (c : Committer) (n : Fin 96) (w : Word) : Dev :=
  let a := Reg.BIAS_OUT_CODE n
  let v := w &&& 0x0FFF0FFF#32
  (d.swr c a v).commit c (.biasCode n) [(a, v, 0x0FFF0FFF#32)] 0

/-- A write of FRAC commits the frequency word with INT as it stands (R67). -/
def Dev.writeFrac (d : Dev) (c : Committer) (t : Fin 4) (b : Bool) (w : Word) : Dev :=
  let i := synIntReg t.val b
  let f := synFracReg t.val b
  let d := d.swr c f w
  d.commit c (.synWord t b) [(i, d.rd i, 0xFFFFFFFF#32), (f, w, 0xFFFFFFFF#32)] 0

/-- A write of TILE_SYN_CTRL: roles act at once, ACT is committed (R72, R73). -/
def Dev.writeSynCtrl (d : Dev) (c : Committer) (t : Fin 4) (w : Word) : Dev :=
  let a := Reg.TILE_SYN_CTRL t.val
  let d := (d.wr a (d.fieldWrite c.rank a w)).noteWrite a c.rank
  let x := d.tiles[t]
  let d := if (x.level = 2 ∧ x.goal.isNone) ∨ (x.goal = some 2 ∧ ¬ x.via) then d.roleStandby t else d
  d.commit c (.synAct t) [(a, w, 1)] (w.get 0 0)

/-- A write of CADENCE_CFG (R56, R57): while RUN is 0 it is applied as soon as it is made. -/
def Dev.writeCadence (d : Dev) (c : Committer) (w : Word) : Dev :=
  let a := Reg.CADENCE_CFG
  let words := [(a, w, tickMask a)]
  let was := d.ticking
  let d := (d.wr a ((d.fieldWrite c.rank a w).put 31 31 (d.fget a 31 31))).noteWrite a c.rank
  (if was then d.commitFrame c .cadenceCfg words else d.commitAt c .cadenceCfg words d.cad.tickIdx 0).writeRun (w.bit 31)

/-- `d` with a Derrick channel changed. -/
def Dev.modChannel (d : Dev) (c : Fin 8) (f : Channel → Channel) : Dev :=
  { d with derrick := { d.derrick with ch := d.derrick.ch.set c (f d.derrick.ch[c]) } }

/-- A change of ERRMODE takes effect once no channel runs (R402). -/
def Dev.errMode (d : Dev) : Dev :=
  if d.runningChannel.isSome then d
  else { d with derrick := { d.derrick with allStop := (d.rd Reg.DERRICK_CFG).bit 0 } }

/-- The engine starts the lowest-numbered READY channel when none runs and none is STOPPED (R394, R400). -/
def Dev.engineNext (d : Dev) : Dev :=
  let d := d.errMode
  if d.runningChannel.isSome || d.derrick.ch.toList.any (fun x => x.st == .stopped) then d
  else
    match (List.finRange 8).find? fun c => d.derrick.ch[c].st == .ready with
    | some c => d.modChannel c fun x => { x with st := .running }
    | none => d

/-- STOPPED_ALL holds while a channel is STOPPED (R400). -/
def Dev.stoppedAll (d : Dev) : Dev :=
  { d with derrick := { d.derrick with stoppedAll := d.derrick.ch.toList.any fun x => x.st == .stopped } }

/-- START on a channel (R393). -/
def Dev.channelStart (d : Dev) (c : Fin 8) : Dev :=
  match d.derrick.ch[c].st with
  | .ready => d.raise Reg.DERRICK_EVT 3
  | .running => d.raise Reg.DERRICK_EVT 3
  | .halted => d.raise Reg.DERRICK_EVT 3
  | .stopped => d.raise Reg.DERRICK_EVT 3
  | _ => (d.modChannel c fun x =>
      { Channel.reset with st := .ready, desc := (d.rd (Reg.DERRICK_CH_DESC c.val)).toNat, src := x.src, dst := x.dst, count := x.count }).engineNext

/-- RESUME on a HALTED or STOPPED channel (R399, R400): a channel that was not running returns to READY, and so does one that
was, with its place in the chain. -/
def Dev.channelResume (d : Dev) (c : Fin 8) : Dev :=
  match d.derrick.ch[c].st with
  | .halted => (d.modChannel c fun x => { x with st := .ready }).engineNext
  | .stopped => ((d.modChannel c fun x => { x with st := .ready, wasRunning := false }).stoppedAll).engineNext
  | _ => d

/-- ABORT on a HALTED or STOPPED channel. -/
def Dev.channelAbort (d : Dev) (c : Fin 8) : Dev :=
  match d.derrick.ch[c].st with
  | .halted => (d.modChannel c fun x => { x with st := .aborted }).engineNext
  | .stopped => ((d.modChannel c fun x => { x with st := .aborted, wasRunning := false }).stoppedAll).engineNext
  | _ => d

/-- A write of DERRICK_CHc_CTRL. -/
def Dev.writeChannelCtrl (d : Dev) (c : Fin 8) (w : Word) : Dev :=
  let d := if w.bit 31 then d.channelStart c else d
  let d := if w.bit 30 then d.channelResume c else d
  if w.bit 29 then d.channelAbort c else d

/-! ### The check-value unit (R403 to R406) -/

/-- ALG of CHECK_CFG; 3 acts as 0. -/
def Dev.checkAlg (d : Dev) : Nat := if d.fget Reg.CHECK_CFG 1 0 = 3 then 0 else d.fget Reg.CHECK_CFG 1 0

/-- One bit of a reflected CRC with a reversed polynomial. -/
def reflBit (poly : Word) (c : Word) : Word := if c.bit 0 then (c >>> 1) ^^^ poly else c >>> 1

/-- One bit of CRC-16/CCITT. -/
def ccittBit (c : Word) : Word := (if c.bit 15 then (c <<< 1) ^^^ 0x1021#32 else c <<< 1) &&& 0xFFFF#32

/-- One byte of an algorithm of Table 14.7. -/
def checkByte (alg : Nat) (c : Word) (b : Byte) : Word :=
  match alg with
  | 1 => (List.range 8).foldl (fun c _ => reflBit 0xEDB88320#32 c) (c ^^^ b.setWidth 32)
  | 2 => (List.range 8).foldl (fun c _ => ccittBit c) (c ^^^ (b.setWidth 32 <<< 8))
  | _ => crcByte c b

/-- The initial value of an algorithm. -/
def checkInit (alg : Nat) : Word := if alg = 2 then 0xFFFF#32 else 0xFFFFFFFF#32

/-- The value after XOR-out (R403). -/
def checkOut (alg : Nat) (c : Word) : Word := if alg = 2 then c else c ^^^ 0xFFFFFFFF#32

/-- The state that a start loads (R404): the initial value, or with CONT the state that the feed before left. -/
def Dev.checkStart (d : Dev) : Word := if (d.rd Reg.CHECK_CFG).bit 30 then d.check.crc else checkInit d.checkAlg

/-- The order in which a word's bytes enter: from bits [7:0] upwards, or with BSWAP most significant first (R404). -/
def Dev.checkOrder (d : Dev) (w : Word) : List Byte := if (d.rd Reg.CHECK_CFG).bit 31 then beBytes w else leBytes w

/-- A feed leaves the unit with a state, and RESULT with its value. -/
def Dev.checkResult (d : Dev) (c : Word) : Dev :=
  ({ d with check := { d.check with crc := c } }).wr Reg.CHECK_RESULT (checkOut d.checkAlg c)

/-- A write of CHECK_DATA (R404, R406). -/
def Dev.checkFeed (d : Dev) (w : Word) : Dev :=
  if d.check.busy then d.raise Reg.CHECK_EVT 2
  else d.checkResult ((d.checkOrder w).foldl (checkByte d.checkAlg) d.checkStart)

/-- The memory window that holds an address, as its first address and the one past its end (Table 14.1). -/
def windowOf (a : Nat) : Option (Nat × Nat) :=
  if 0x1000000 ≤ a ∧ a < 0x2400000 then some (0x1000000, 0x2400000)
  else if 0x3000000 ≤ a ∧ a < 0x3400000 then some (0x3000000, 0x3400000)
  else if 0x3400000 ≤ a ∧ a < 0x3C00000 then some (0x3400000, 0x3C00000)
  else none

/-- Whether a range of bytes lies inside memory windows: cluster memory and capture SRAM are neighbours. -/
def inWindows (a len : Nat) : Bool :=
  decide ((0x1000000 ≤ a ∧ a + len ≤ 0x2400000) ∨ (0x3000000 ≤ a ∧ a + len ≤ 0x3C00000))

/-- A scan that fails (R405, R406): its code, the address, and a result that is unpredictable. -/
def Dev.scanFails (d : Dev) (code : BusCode) (addr : Nat) : Dev :=
  let d := { d with check := { d.check with busy := false } }
  let d := (d.fset Reg.CHECK_STATUS 19 16 code.num).wr Reg.CHECK_ERR_ADDR (low32 addr)
  ((d.wr Reg.CHECK_RESULT (Config.freeWord d.freeCtr)).drew).raise Reg.CHECK_EVT 1

/-- The first address of a range outside the memory windows. -/
def firstOutside (a len : Nat) : Nat :=
  if windowOf a = none then a
  else if a < 0x2400000 then (if 0x2400000 < a + len then 0x2400000 else a) else 0x3C00000

/-- A write of START to CHECK_CTRL (R404 to R406). -/
def Dev.scanStart (d : Dev) : Dev :=
  if d.check.busy then d.raise Reg.CHECK_EVT 2
  else
    let a := (d.rd Reg.CHECK_ADDR).toNat
    let n := d.fget Reg.CHECK_LEN 24 0
    if inWindows a n then { d with check := { busy := true, crc := d.checkStart, addr := a, len := n } }
    else d.scanFails .refused (firstOutside a n)

/-! ### Writing a register -/

/-- A register of the blocks below 0x0008_0000 is written. -/
def Dev.writeLow (d : Dev) (i : Initiator) (a : Nat) (w : Word) : Dev :=
  let c := byInit i
  if a = Reg.DRUNAS_CTRL then
    let d := if w.bit 1 then d.modDrunas fun x => { x with replies := [] } else d
    if w.bit 0 then d.modDrunas fun x => { x with submit := [] } else d
  else if a = Reg.DRUNAS_SUBMIT then d.submitWord w
  else if a = Reg.CADENCE_CFG then d.writeCadence c w
  else if a = Reg.TIME_CFG then d.writeTimeCfg w
  else if a = Reg.TIME_INC_SET_HI then d.writeIncHi w
  else if a = Reg.TIME_PPS_CFG then d.writePpsCfg w
  else if Reg.TIME_SCHED_CTRL 0 ≤ a ∧ a < 0x20400 ∧ a % 16 = 0 then
    d.writeSlot ⟨(a - 0x20200) / 16 % 32, by omega⟩ w (i == .spi)
  else if a = Reg.POWER_REQ then (if 1 ≤ w.get 2 0 ∧ w.get 2 0 ≤ 4 then d.requestPower (w.get 2 0) none else d)
  else if a = Reg.POWER_CFG then d.writePowerCfg w
  else if a = Reg.SEC_CFG then d.writeSecCfg w
  else if a = Reg.DERRICK_CFG then (d.writeFields c a w).errMode
  else if 0x60100 ≤ a ∧ a < 0x60200 ∧ a % 32 = 4 then d.writeChannelCtrl ⟨(a - 0x60100) / 32 % 8, by omega⟩ w
  else if a = Reg.CHECK_CTRL then (if w.bit 31 then d.scanStart else d)
  else if a = Reg.CHECK_DATA then d.checkFeed w
  else d.writeFields c a w

/-- A write of CHISEL_KSLOTk_ACT, which the kernel's entry holds: an end of this cycle is counted on top of it (R9, R13). -/
def Dev.writeActs (d : Dev) (c : Committer) (a : Nat) (w : Word) : Dev :=
  if d.overtaken a c.rank then d.noteWrite a c.rank
  else (d.modKernel ((a - 0xD0200) / 16) fun k => { k with acts := min (w.toNat + d.countedNow a 0) (2 ^ 32 - 1) }).noteWrite a c.rank

/-- A register of the blocks from 0x0008_0000 up to 0x000F_FFFF is written. -/
def Dev.writeMid (d : Dev) (i : Initiator) (a : Nat) (w : Word) : Dev :=
  let c := byInit i
  if a = Reg.SKX_PHY_CFG then d.laneEnable w
  else if a = Reg.SKX_PHY_SLEEP then d.sleepRequest w
  else if 0x92800 ≤ a ∧ a < 0x93000 ∧ a % 8 = 0 then d.writeFields c a (w.put 2 0 7)
  else if a = Reg.BEAM_BANK then d.writeBank c w
  else if 0xB1000 ≤ a ∧ a < 0xB1800 ∧ a % 0x20 = 0 then d.writePathCfg c (toPath ((a - 0xB1000) / 0x20)) w
  else if 0xB1000 ≤ a ∧ a < 0xB1800 ∧ a % 0x20 = 8 then d.writePathCtrl c (toPath ((a - 0xB1000) / 0x20)) w
  else if a = Reg.CAL_QMAP_CFG then d.commitQuietMap c w
  else if Reg.CAL_QMAP 0 ≤ a ∧ a ≤ Reg.CAL_QMAP 69 then d.stage a w
  else if 0xD0200 ≤ a ∧ a < 0xD0300 ∧ a % 16 = 8 then d.writeActs c a w
  else if a = Reg.CHISEL_CFG then (d.writeFields c a w).opCheck false
  else d.writeFields c a w

/-- A register of a tile is written. -/
def Dev.writeTile (d : Dev) (i : Initiator) (a : Nat) (w : Word) : Dev :=
  let c := byInit i
  let t := toTile ((a - 0x100000) / 0x10000)
  let o := a % 0x10000
  if o = 0x8 ∨ o = 0xC then d.writeModes c a w 255
  else if o = 0x44 then d.writeFrac c t false w
  else if o = 0x4C then d.writeFrac c t true w
  else if o = 0x50 then d.writeSynCtrl c t w
  else if 0x1000 ≤ o ∧ o < 0x2000 then (d.writeFields c a w).writeEntry t ((o - 0x1000) / 4)
  else
    match iqOf a with
    | some (s, 0) => d.commitIq c s w
    | some (_, _) => d.stage a w
    | none => d.writeFields c a w

/-- A register of the Coruf die is written. -/
def Dev.writeBias (d : Dev) (i : Initiator) (a : Nat) (w : Word) : Dev :=
  let c := byInit i
  if a = Reg.BIAS_CFG then d.writeBiasCfg w
  else if Reg.BIAS_SC0 ≤ a ∧ a ≤ Reg.BIAS_SC2 then d.clearSc ((a - Reg.BIAS_SC0) / 4) w
  else if a = Reg.BIAS_TRIP_LO then d.tripClear false w
  else if a = Reg.BIAS_TRIP_HI then d.tripClear true w
  else if a = Reg.BIAS_TEST then d.testStart w
  else if 0x180100 ≤ a ∧ a < 0x180700 ∧ a % 16 = 0 then d.writeOutCfg c (toOut ((a - 0x180100) / 16)) w
  else if 0x180100 ≤ a ∧ a < 0x180700 ∧ a % 16 = 4 then d.commitCode c (toOut ((a - 0x180100) / 16)) w
  else d.writeFields c a w

/-- A 32-bit write of a register. DPD_LUT_DATA stands apart (R168). -/
def Dev.writeReg (d : Dev) (i : Initiator) (a : Nat) (w : Word) : Dev :=
  if a < 0x80000 then d.writeLow i a w
  else if a < 0x100000 then d.writeMid i a w
  else if a < 0x140000 then d.writeTile i a w
  else d.writeBias i a w

/-! ### Causes of bus errors (Table 14.3) -/

/-- Whether an address is mapped and implemented (R369, R372). -/
def mapped (a : Nat) : Bool := (regRow (a / 4 * 4)).isSome || (windowOf a).isSome

/-- Whether an address lies in a register block. -/
def inBlock (a : Nat) : Bool := (blockRows a).isSome

/-- Whether the lifecycle, debug or power state forbids an access (R221, R471, R473). -/
def Dev.forbidden (d : Dev) (i : Initiator) (write : Bool) (a : Nat) : Bool :=
  let firmware := decide (0x3000000 ≤ a ∧ a < 0x3300000)
  let open_ := [Reg.DRUNAS_SUBMIT, Reg.DRUNAS_CTRL, Reg.SEC_CFG].contains a
  let always := a == Reg.SEC_STATUS || a == Reg.SEC_BOOTCNT
  match i with
  | .cpu => false
  | .spi => (write && (d.rd Reg.SEC_CFG).bit 1 && !open_) || (firmware && decide (d.debugLevel < 2))
  | .debug => (decide (d.debugLevel < (if write then 2 else 1)) && !(always && !write)) || (firmware && decide (d.debugLevel < 2))
  | _ => firmware && decide (d.debugLevel < 2)

/-- Whether the block or window at an address answers (R380, R352). -/
def Dev.domainUp (d : Dev) (a : Nat) : Bool :=
  d.answers a && (a < 0x180000 || 0x190000 ≤ a || d.biasAnswers)

/-- The first cause of Table 14.3 that stops an access before it reaches its target. -/
def Dev.stops (d : Dev) (i : Initiator) (write : Bool) (width a : Nat) : Option BusCode :=
  if a % (width / 8) ≠ 0 then some .align
  else if write && decide (width < 32) && inBlock a then some .width
  else if !mapped a then some .decode
  else if d.forbidden i write a then some .security
  else if !d.domainUp a then some .domainOff
  else none

/-- The Ashlar writer that an initiator is. -/
def ashlarBy : Initiator → AshlarWriter
  | .derrick => .derrick
  | .link => .link
  | _ => .spi

/-- Whether an uncorrectable error stands in the word of the Ashlar store at an address (R136) (DEDUCED, log entry 55). -/
def Dev.eccBad (d : Dev) (a : Nat) : Bool := d.beam.eccZero.contains (a / 4 * 4)

/-! ### Accesses -/

/-- What an access answers: its data, or a code of Table 14.3. -/
inductive Answer where
  | data (w : Nat)
  | error (c : BusCode)
  deriving DecidableEq, Repr

/-- The bytes of a memory range as a little-endian number (R370). -/
def memRead (m : Mem) (a n : Nat) : Nat := (Mem.bytes m a n).foldr (fun b v => b.toNat + 256 * v) 0

/-- The low bytes of a number, in memory order. -/
def dataBytes (n v : Nat) : List Byte := (List.range n).map fun k => BitVec.ofNat 8 (v / 256 ^ k)

/-- DPD_LUT_DATA (R168, R169): a read or a write of the selected word moves the index on; a refused access changes nothing. -/
def lutAccess (d : Dev) (m : Mem) (i : Initiator) (write : Option Word) : Answer × Dev × Mem :=
  match d.lutWord with
  | none => (.error .refused, d, m)
  | some a =>
    match write with
    | none => (.data (Mem.word m a).toNat, d.lutNext, m)
    | some w => if d.lutRefuses i then (.error .refused, d.raise Reg.DPD_EVT 4, m) else (.data 0, d.lutNext, Mem.setWord m a w)

/-- An access of at most 32 bits that nothing of Table 14.3 has stopped before its target. -/
def reach (d : Dev) (m : Mem) (i : Initiator) (write : Bool) (width a data : Nat) : Answer × Dev × Mem :=
  if inBlock a then
    let r := a / 4 * 4
    if r = Reg.DPD_LUT_DATA then
      let (x, d, m) := lutAccess d m i (if write then some (low32 data) else none)
      match x with
      | .data v => (.data (v / 2 ^ (8 * (a % 4)) % 2 ^ width), d, m)
      | .error c => (.error c, d, m)
    else if write then (.data 0, d.writeReg i r (low32 data), m)
    else
      let (w, d) := d.readReg m r
      (.data (w.toNat / 2 ^ (8 * (a % 4)) % 2 ^ width), d, m)
  else
    let ashlar := decide (a < 0x2400000)
    if write then
      if ashlar && !d.ashlarAllows (ashlarBy i) a then (.error .refused, d.ashlarRefused, m)
      else if ashlar && decide (width < 32) && d.eccBad a then (.error .ecc, d, m)
      else if ashlar then
        let (d, m) := ashlarPut d m (ashlarBy i) a (dataBytes (width / 8) data)
        (.data 0, d, m)
      else (.data 0, d, Mem.setBytes m a (dataBytes (width / 8) data))
    else if ashlar && d.eccBad a then (.error .ecc, d, m)
    else
      let (d, m) := copySeen d m a
      (.data (memRead m a (width / 8)), d, m)

/-- One access of 8, 16 or 32 bits (R372, R373, R379): an error changes nothing but what R380 and R381 record
(DEDUCED, log entry 55) (DEDUCED, log entry 56). -/
def access32 (d : Dev) (m : Mem) (i : Initiator) (write : Bool) (width a data : Nat) : Answer × Dev × Mem :=
  match d.stops i write width a with
  | some c => (.error c, d.busError i write width a c, m)
  | none =>
    let (r, d, m) := reach d m i write width a data
    match r with
    | .data v => (.data v, d, m)
    | .error c => (.error c, d.busError i write width a c, m)

/-- What a write may have committed lands while no ticks run, and replies that are due go out. -/
def settleAccess (x : Answer × Dev × Mem) : Answer × Dev × Mem :=
  let y := settled x.2
  (x.1, y.1, y.2)

/-- One access of any width (R374): 64 bits are two accesses, low address first, and the second is not made when the first
fails. -/
def access (d : Dev) (m : Mem) (i : Initiator) (write : Bool) (width a data : Nat) : Answer × Dev × Mem :=
  if width = 64 then
    if a % 8 ≠ 0 then (.error .align, d.busError i write 32 a .align, m)
    else
      match settleAccess (access32 d m i write 32 a (data % 4294967296)) with
      | (.error c, d, m) => (.error c, d, m)
      | (.data lo, d, m) =>
        match settleAccess (access32 d m i write 32 (a + 4) (data / 4294967296)) with
        | (.error c, d, m) => (.error c, d, m)
        | (.data hi, d, m) => (.data (lo + 4294967296 * hi), d, m)
  else settleAccess (access32 d m i write width a data)

/-- A 32-bit write of a register as a command of its own: it meets the checks of every access. -/
def writeWord (d : Dev) (m : Mem) (i : Initiator) (a : Nat) (w : Word) : Dev × Mem := (access d m i true 32 a w.toNat).2

/-- A 32-bit read as a command of its own. -/
def readWord (d : Dev) (m : Mem) (i : Initiator) (a : Nat) : Dev × Mem := (access d m i false 32 a 0).2

end Sys2Proof.Machine
end

