-- ==== Sys2Proof/Machine/Access.lean ====
section
/-!
DEFINITION. The initiators of the register fabric beside the command processors: the management SPI (R382 to R388), register
access over the link (R389, R390, R470), Derrick (R391 to R402), the check-value scan (R404 to R406), and the meanings of
their commands.
-/

namespace Sys2Proof.Machine

/-! ### Plain accesses -/

/-- A software write through any initiator (R9, R372). A width that is no access width of R372 or R373 is ill-formed. -/
def execRegisterWrite (by_ : Initiator) (width addr : Nat) (data : BitVec 64) (s : State) : Out :=
  if width = 8 ∨ width = 16 ∨ width = 32 ∨ width = 64 then
    if addr < 4294967296 then onMem s fun d m => (access d m by_ true width addr data.toNat).2 else .refused .illFormed
  else .refused .illFormed

/-- A register access unanswered for 10 µs (R378): TIMEOUT, and an event of the register fabric's source. Whether a write has
had its effect is a free choice. -/
def execBusTimeout (by_ : Initiator) (write : Bool) (addr : Nat) (s : State) : Out :=
  onMem s fun d m =>
    if !inBlock addr || (d.stops by_ write 32 addr).isSome then (d, m)
    else
      let (d, m) :=
        if write then
          let hit := Config.freeNat d.freeCtr % 2 == 1
          let w := Config.freeWord (d.freeCtr + 1)
          let d := { d with freeCtr := d.freeCtr + 2 }
          if hit then settled (reach d m by_ true 32 addr w.toNat).2 else (d, m)
        else (d, m)
      ((d.busError by_ write 32 addr .timeout).report (toSrc 223), m)

/-! ### The management SPI -/

/-- `d` with the SPI's state changed. -/
def Dev.modSpi (d : Dev) (f : Spi → Spi) : Dev := { d with spi := f d.spi }

/-- An error enters the SPI status: CODE is that of the first since the last STATUS frame (R388). -/
def Dev.spiError (d : Dev) (code : Nat) : Dev :=
  d.modSpi fun x => { x with err := true, code := if x.err then x.code else code }

/-- A write word arrives (R386, R387): queued, discarded behind a failure of its frame, or refused by a full queue. -/
def Dev.spiWord (d : Dev) (addr : Nat) (w : Word) : Dev :=
  if d.spi.failed = some d.spi.frame then d
  else if 8 ≤ d.spi.queue.length then (d.spiError BusCode.overrun.num).busError .spi true 32 addr .overrun
  else d.modSpi fun x => { x with queue := x.queue ++ [(addr, w, x.frame)] }

/-- The address of word `k` of a frame or request. -/
def wordAddr (addr k : Nat) (fix : Bool) : Nat := if fix then addr else (addr + 4 * k) % 4294967296

/-- A write frame (R386). The device answers only while its register fabric is powered (R383). -/
def Dev.spiWriteFrame (d : Dev) (addr : Nat) (fix : Bool) (ws : List Word) : Dev :=
  if !d.power.fabric then d
  else
    let d := d.modSpi fun x => { x with frame := x.frame + 1 }
    ws.zipIdx.foldl (fun d (x : Word × Nat) => d.spiWord (wordAddr addr x.2 fix) x.1) d

/-- The oldest queued write is issued; a failure discards the later words of its frame (R387). -/
def spiIssue (d : Dev) (m : Mem) : Dev × Mem :=
  match d.spi.queue with
  | [] => (d, m)
  | (a, w, f) :: rest =>
    let d := d.modSpi fun x => { x with queue := rest }
    match access d m .spi true 32 a w.toNat with
    | (.data _, d, m) => (d, m)
    | (.error c, d, m) =>
      ((d.spiError c.num).modSpi fun x => { x with failed := some f, queue := x.queue.filter fun y => y.2.2 != f }, m)

/-- Every queued write is issued: a read of the same initiator comes after them (R377) (DEDUCED, log entry 53). -/
def spiDrain (d : Dev) (m : Mem) : Dev × Mem := d.spi.queue.foldl (fun (x : Dev × Mem) _ => spiIssue x.1 x.2) (d, m)

/-- The words of a read frame (R384, R385): sync byte 0xA5 and data, or the error byte and zeros from the first failure on. -/
def spiReadWords : Nat → Nat → Bool → Nat → Option Nat → Dev → Mem → Dev × Mem
  | 0, _, _, _, _, d, m => (d, m)
  | n + 1, addr, fix, k, failed, d, m =>
    match failed with
    | some e => spiReadWords n addr fix (k + 1) failed (d.modSpi fun x => { x with sync := x.sync ++ [e], sdo := x.sdo ++ [0] }) m
    | none =>
      match access d m .spi false 32 (wordAddr addr k fix) 0 with
      | (.data v, d, m) =>
        spiReadWords n addr fix (k + 1) none (d.modSpi fun x => { x with sync := x.sync ++ [0xA5], sdo := x.sdo ++ [low32 v] }) m
      | (.error c, d, m) =>
        let e := 0xE0 + c.num
        spiReadWords n addr fix (k + 1) (some e)
          ((d.spiError c.num).modSpi fun x => { x with sync := x.sync ++ [e], sdo := x.sdo ++ [0] }) m

/-- A read frame of `count` words (DEDUCED, log entry 53). -/
def spiReadFrame (d : Dev) (m : Mem) (addr : Nat) (fix : Bool) (count : Nat) : Dev × Mem :=
  if !d.power.fabric then (d, m)
  else
    let (d, m) := spiDrain d m
    spiReadWords count addr fix 0 none (d.modSpi fun x => { x with frame := x.frame + 1, sync := [], sdo := [] }) m

/-- A WRITE frame. -/
def execSpiWrite (addr : Word) (words : List Word) (s : State) : Out := onDev s fun d => d.spiWriteFrame addr.toNat false words

/-- A WRITE_FIX frame. -/
def execSpiWriteFix (addr : Word) (words : List Word) (s : State) : Out := onDev s fun d => d.spiWriteFrame addr.toNat true words

/-- A READ frame. -/
def execSpiRead (addr : Word) (count : Nat) (s : State) : Out := onMem s fun d m => spiReadFrame d m addr.toNat false count

/-- A READ_FIX frame. -/
def execSpiReadFix (addr : Word) (count : Nat) (s : State) : Out := onMem s fun d m => spiReadFrame d m addr.toNat true count

/-- A STATUS frame: the status byte, then ERR, PARTIAL and CODE clear (R388). -/
def execSpiStatus (s : State) : Out :=
  onDev s fun d =>
    if !d.power.fabric then d
    else d.modSpi fun x => { x with sync := [d.spiByte], sdo := [], err := false, part := false, code := 0 }

/-- The write queue drains by one word. -/
def execSpiQueuedWrite (s : State) : Out := onMem s spiIssue

/-- MSPI_CS_N rises: a partly received write word is discarded (R387). -/
def execSpiFrameEnd (partialWord : Bool) (s : State) : Out :=
  onDev s fun d => if partialWord && d.power.fabric then d.modSpi fun x => { x with part := true } else d

/-- The opcodes of Table 14.4. -/
def spiOpcodes : List Byte := [0x02, 0x06, 0x0B, 0x0F, 0x05]

/-- A frame with another opcode (R382). -/
def execSpiUnknownOpcode (opcode : Byte) (s : State) : Out :=
  onDev s fun d => if spiOpcodes.contains opcode || !d.power.fabric then d else d.spiError BusCode.decode.num

/-! ### Register access over the link -/

/-- The operation of a request. -/
def regOp (p : Packet) : Nat := (p.words.getD 0 0).get 31 28

/-- Accesses of a request: COUNT, 0 acting as 1. -/
def regCount (p : Packet) : Nat := max 1 ((p.words.getD 0 0).get 26 16)

/-- The response to a request (Table 14.5), sealed for a verified authenticated one (R470). -/
def Dev.regResponse (d : Dev) (p : Packet) (auth : Bool) (code done : Nat) (data : List Word) : Dev :=
  let head := [p.words.getD 0 0, ((0 : Word).put 31 28 code).put 26 16 done]
  let (ws, d) :=
    if auth then
      let (seq, d) := d.nextTxSeq false
      (head ++ beWords (d.seal false seq (head.flatMap beBytes) (data.flatMap beBytes)), d)
    else (head ++ data, d)
  if d.link.txSet = 0 then d.count32 Reg.DRUNAS_REPLY_LOST else d.send 0x310 ws

/-- A request that makes no access: a bus error of its code (R389). -/
def Dev.regFails (d : Dev) (p : Packet) (c : BusCode) : Dev :=
  let read := regOp p % 8 == 1
  (d.busError .link (regOp p % 8 == 2) 32 (p.words.getD 1 0).toNat c).regResponse p false c.num 0
    (if read then List.replicate (regCount p) 0 else [])

/-- The accesses of a request, in order, up to the first that fails: its code, how many were done, and the words read. -/
def regAccesses : Nat → Nat → Bool → Nat → Bool → List Word → List Word → Dev → Mem → Nat × Nat × List Word × Dev × Mem
  | 0, _, _, k, _, _, got, d, m => (0, k, got, d, m)
  | n + 1, addr, fix, k, write, data, got, d, m =>
    match access d m .link write 32 (wordAddr addr k fix) (data.getD k 0).toNat with
    | (.data v, d, m) => regAccesses n addr fix (k + 1) write data (got ++ [low32 v]) d m
    | (.error c, d, m) => (c.num, k, got ++ List.replicate (n + 1) 0, d, m)

/-- A request of an operation at the head of the ring executes (R389, R390, R470, R471). -/
def regRequest (d : Dev) (m : Mem) (op : Nat) : Dev × Mem :=
  match d.drunas.ring with
  | [] => (d, m)
  | p :: _ =>
    if !p.regAccess || regOp p != op || !d.power.fabric then (d, m)
    else
      let d := d.popRing
      let write := op % 8 == 2
      let n := regCount p
      let body := if write then (p.words.drop 2).take n else []
      if !p.crcOk then (d.regFails p .check, m)
      else
        let lo := (p.words.getD 0 0).get 11 0
        let (data, d) :=
          if op < 8 then (some body, d)
          else
            let (r, d) := d.authOpen false lo ((p.words.take 2).flatMap beBytes) (body.flatMap beBytes)
              (((p.words.drop (2 + body.length)).take 4).flatMap beBytes)
            (r.map beWords, d)
        match data with
        | none => (d.regFails p .check, m)
        | some data =>
          if write && decide (op < 8) && d.needsAuth false then (d.regFails p .security, m)
          else
            let (code, done, got, d, m) :=
              regAccesses n (p.words.getD 1 0).toNat ((p.words.getD 0 0).bit 27) 0 write data [] d m
            (d.regResponse p (decide (8 ≤ op)) code done (if write then [] else got), m)

/-- A read request. -/
def execRegAccessRead (s : State) : Out := onMem s fun d m => regRequest d m 1

/-- A write request. -/
def execRegAccessWrite (s : State) : Out := onMem s fun d m => regRequest d m 2

/-- An authenticated read request. -/
def execRegAccessAuthRead (s : State) : Out := onMem s fun d m => regRequest d m 9

/-- An authenticated write request. -/
def execRegAccessAuthWrite (s : State) : Out := onMem s fun d m => regRequest d m 10

/-- A request with a reserved OP at the head of the ring: DECODE, or CHECK where its CRC failed (R389). -/
def execRegAccessReservedOp (s : State) : Out :=
  onDev s fun d =>
    match d.drunas.ring with
    | [] => d
    | p :: _ =>
      if !p.regAccess || [1, 2, 9, 10].contains (regOp p) || !d.power.fabric then d
      else d.popRing.regFails p (if p.crcOk then .decode else .check)

/-! ### Derrick -/

/-- A write of START (R393). -/
def execDerrickStart (by_ : Initiator) (c : Fin 8) (s : State) : Out :=
  onMem s fun d m => writeWord d m by_ (Reg.DERRICK_CH_CTRL c.val) 0x80000000#32

/-- A write of RESUME (R399, R400). -/
def execDerrickResume (by_ : Initiator) (c : Fin 8) (s : State) : Out :=
  onMem s fun d m => writeWord d m by_ (Reg.DERRICK_CH_CTRL c.val) 0x40000000#32

/-- A write of ABORT (R399). -/
def execDerrickAbort (by_ : Initiator) (c : Fin 8) (s : State) : Out :=
  onMem s fun d m => writeWord d m by_ (Reg.DERRICK_CH_CTRL c.val) 0x20000000#32

/-- The error latch of Derrick (R399 to R401): direction 0 read, 1 write, 2 descriptor. -/
def Dev.derrickLatch (d : Dev) (c : Option (Fin 8)) (dir addr : Nat) (code : BusCode) : Dev :=
  let info := (((((0 : Word).put 31 31 1).put 30 28 (match c with | some c => c.val | none => 0)).put 27 27 (b2n c.isSome)).put 25 24
    dir).put 19 16 code.num
  ((d.wr Reg.DERRICK_ERR_INFO info).noteSet Reg.DERRICK_ERR_INFO 0x80000000#32).wr Reg.DERRICK_ERR_ADDR (low32 addr)

/-- Every RUNNING or READY channel stops (R400). -/
def Dev.allStop (d : Dev) : Dev :=
  let d := (List.finRange 8).foldl (fun d c =>
    match d.derrick.ch[c].st with
    | .running => d.modChannel c fun x => { x with st := .stopped, wasRunning := true }
    | .ready => d.modChannel c fun x => { x with st := .stopped, wasRunning := false }
    | _ => d) d
  (d.stoppedAll).raise Reg.DERRICK_EVT 2

/-- A bus error on an access of a channel: HALTED, or everything STOPPED (R399, R400). -/
def Dev.channelError (d : Dev) (c : Fin 8) (dir addr : Nat) (code : BusCode) : Dev :=
  let d := (d.derrickLatch (some c) dir addr code).fset (Reg.DERRICK_CH_STATUS c.val) 19 16 code.num
  if d.derrick.allStop then d.allStop
  else ((d.modChannel c fun x => { x with st := .halted }).raise Reg.DERRICK_EVT 1).engineNext

/-- A channel whose last beat was answered with an error after COUNT reached zero (R401). -/
def Dev.channelDoneErr (d : Dev) (c : Fin 8) (addr : Nat) (code : BusCode) : Dev :=
  let d := (d.derrickLatch (some c) 1 addr code).fset (Reg.DERRICK_CH_STATUS c.val) 19 16 code.num
  let d := (d.modChannel c fun x => { x with st := .doneErr, count := 0 }).raise Reg.DERRICK_EVT 1
  if d.derrick.allStop then d.allStop else d.engineNext

/-- Whether a descriptor may lie at an address (R392). -/
def descriptorAllowed (a : Nat) : Bool :=
  a % 16 == 0 && decide ((0x3800000 ≤ a ∧ a + 16 ≤ 0x3C00000) ∨ (0x3300000 ≤ a ∧ a + 16 ≤ 0x3400000))

/-- Derrick reads consecutive words up to the first that fails: the words, or the code and address of the failure. -/
def derrickWords : Nat → Nat → List Word → Dev → Mem → (List Word ⊕ BusCode × Nat) × Dev × Mem
  | 0, _, got, d, m => (.inl got, d, m)
  | n + 1, a, got, d, m =>
    match access d m .derrick false 32 a 0 with
    | (.data v, d, m) => derrickWords n (a + 4) (got ++ [low32 v]) d m
    | (.error c, d, m) => (.inr (c, a), d, m)

/-- The descriptor at an address, or why it cannot be fetched: a descriptor out of its areas is a bus error REFUSED (R379,
R392), one that breaks R396 is ALIGN (DEDUCED, log entry 58). -/
def fetchDescriptor (d : Dev) (m : Mem) (a : Nat) : (List Word ⊕ BusCode × Nat) × Dev × Mem :=
  if !descriptorAllowed a then (.inr (.refused, a), d.busError .derrick false 32 a .refused, m)
  else
    match derrickWords 4 a [] d m with
    | (.inr e, d, m) => (.inr e, d, m)
    | (.inl ws, d, m) =>
      let fix := (ws.getD 2 0).bit 29 || (ws.getD 2 0).bit 28
      let whole := (ws.getD 0 0).toNat % 4 == 0 && (ws.getD 1 0).toNat % 4 == 0 && (ws.getD 2 0).get 24 0 % 4 == 0
      if fix && !whole then (.inr (.align, a), d.busError .derrick false 32 a .align, m) else (.inl ws, d, m)

/-- A descriptor is completed: DERRICK_EVT.DONE with INT, and the next descriptor of the chain. -/
def Dev.descriptorDone (d : Dev) (c : Fin 8) : Dev :=
  let x := d.derrick.ch[c]
  let d := if x.ctl.bit 30 then d.raise Reg.DERRICK_EVT 0 else d
  if x.ctl.bit 31 then d else d.modChannel c fun x => { x with desc := x.next, loaded := false, funnel := none }

/-- Derrick fetches the descriptor of the running channel (R391, R392, R397). -/
def descriptorFetch (d : Dev) (m : Mem) : Dev × Mem :=
  match d.runningChannel with
  | none => (d, m)
  | some c =>
    let x := d.derrick.ch[c]
    if x.loaded then (d, m)
    else
      match fetchDescriptor d m x.desc with
      | (.inr (e, a), d, m) => (d.channelError c 2 a e, m)
      | (.inl ws, d, m) =>
        let src := (ws.getD 0 0).toNat
        let dst := (ws.getD 1 0).toNat
        let ctl := ws.getD 2 0
        let n := ctl.get 24 0
        let fixed := ctl.bit 29 || ctl.bit 28
        let d := d.modChannel c fun x => { x with
          src := src, dst := dst, count := n, ctl := ctl, next := (ws.getD 3 0).toNat, loaded := true, funnel := none
          down := !fixed && decide (src < dst ∧ dst < src + n) }
        (if n = 0 then d.descriptorDone c else d, m)

/-- A source word, from the funnel where it still holds it, and otherwise read. -/
def funnelRead (d : Dev) (m : Mem) (c : Fin 8) (a : Nat) : (Word ⊕ BusCode) × Dev × Mem :=
  let x := d.derrick.ch[c]
  let held : Option Word := match x.funnel with
    | some (b, w) => if b = a ∧ !x.ctl.bit 29 then some w else none
    | none => none
  match held with
  | some w => (.inl w, d, m)
  | none =>
    match access d m .derrick false 32 a 0 with
    | (.data v, d, m) => (.inl (low32 v), d.modChannel c fun x => { x with funnel := some (a, low32 v) }, m)
    | (.error e, d, m) => (.inr e, d, m)

/-- The `k` source bytes of a beat, from one or two aligned words: their value, or the code and address of a failure. The
engine takes them in the direction in which it moves. -/
def beatSource (d : Dev) (m : Mem) (c : Fin 8) (s k : Nat) : (Nat ⊕ BusCode × Nat) × Dev × Mem :=
  let lo := s / 4 * 4
  let hi := (s + k - 1) / 4 * 4
  let first := if d.derrick.ch[c].down then hi else lo
  let second := if d.derrick.ch[c].down then lo else hi
  match funnelRead d m c first with
  | (.inr e, d, m) => (.inr (e, first), d, m)
  | (.inl w, d, m) =>
    if lo = hi then (.inl (w.toNat / 2 ^ (8 * (s % 4)) % 256 ^ k), d, m)
    else
      match funnelRead d m c second with
      | (.inr e, d, m) => (.inr (e, second), d, m)
      | (.inl v, d, m) =>
        let (l, h) := if d.derrick.ch[c].down then (v, w) else (w, v)
        (.inl ((l.toNat + 4294967296 * h.toNat) / 2 ^ (8 * (s % 4)) % 256 ^ k), d, m)

/-- How a beat went. -/
inductive BeatEnd where
  | moved
  | readFails (c : BusCode) (a : Nat)
  | writeFails (c : BusCode) (a k : Nat)
  deriving DecidableEq, Repr

/-- One beat of the running channel (R395, R396). -/
def oneBeat (d : Dev) (m : Mem) (c : Fin 8) : BeatEnd × Dev × Mem :=
  let x := d.derrick.ch[c]
  let (k, o) := x.beat
  let s := (if x.ctl.bit 29 then x.src else x.src + o) % 4294967296
  let t := (if x.ctl.bit 28 then x.dst else x.dst + o) % 4294967296
  match beatSource d m c s k with
  | (.inr (e, a), d, m) => (.readFails e a, d, m)
  | (.inl v, d, m) =>
    match access d m .derrick true (8 * k) t v with
    | (.error e, d, m) => (.writeFails e t k, d, m)
    | (.data _, d, m) =>
      (.moved, d.modChannel c fun x => { x with
        src := if x.down || x.ctl.bit 29 then x.src else x.src + k
        dst := if x.down || x.ctl.bit 28 then x.dst else x.dst + k
        count := x.count - k }, m)

/-- Whether a burst goes on after a beat: a word to memory inside the same 64-byte line of the destination (R395). -/
def burstGoesOn (x y : Channel) : Bool :=
  let a := x.dst + x.beat.2
  let b := y.dst + y.beat.2
  decide (0 < y.count) && x.beat.1 == 4 && y.beat.1 == 4 && !inBlock a && (x.ctl.bit 28 || a / 64 == b / 64)

/-- Beats of one burst, at most sixteen; how the last of them went. -/
def burstBeats : Nat → Dev → Mem → Fin 8 → BeatEnd × Dev × Mem
  | 0, d, m, _ => (.moved, d, m)
  | n + 1, d, m, c =>
    let x := d.derrick.ch[c]
    match oneBeat d m c with
    | (.moved, d, m) => if burstGoesOn x d.derrick.ch[c] then burstBeats n d m c else (.moved, d, m)
    | r => r

/-- Under ALLSTOP the engine reads across the boundary to the next channel during the last burst of a chain: its first
descriptor and source burst, from memory windows only (R398). A failure stops everything with CH_KNOWN 0 (R400)
(DEDUCED, log entry 58). -/
def readAcross (d : Dev) (m : Mem) : Dev × Mem :=
  match (List.finRange 8).find? fun c => d.derrick.ch[c].st == .ready with
  | none => (d, m)
  | some c =>
    let x := d.derrick.ch[c]
    let stop := fun (d : Dev) (dir : Nat) (e : BusCode) (a : Nat) => (d.derrickLatch none dir a e).allStop
    let ahead := fun (d : Dev) (m : Mem) (src n : Nat) (fix : Bool) =>
      if fix || (windowOf src).isNone || n == 0 then (d, m)
      else
        match derrickWords (min 16 ((src % 4 + n + 3) / 4)) (src / 4 * 4) [] d m with
        | (.inl _, d, m) => (d, m)
        | (.inr (e, a), d, m) => (stop d 0 e a, m)
    if x.loaded then ahead d m x.src x.count (x.ctl.bit 29)
    else
      match fetchDescriptor d m x.desc with
      | (.inr (e, a), d, m) => (stop d 2 e a, m)
      | (.inl ws, d, m) => ahead d m (ws.getD 0 0).toNat ((ws.getD 2 0).get 24 0) ((ws.getD 2 0).bit 29)

/-- Derrick completes a burst of the running channel (R395 to R401) (DEDUCED, log entry 58). -/
def derrickBurst (d : Dev) (m : Mem) : Dev × Mem :=
  match d.runningChannel with
  | none => (d, m)
  | some c =>
    let x := d.derrick.ch[c]
    if !x.loaded || x.count == 0 then (d, m)
    else
      match burstBeats 16 d m c with
      | (.moved, d, m) =>
        if d.derrick.ch[c].count = 0 then
          let d := d.descriptorDone c
          if d.derrick.allStop && d.derrick.ch[c].loaded then readAcross d m else (d, m)
        else (d, m)
      | (.readFails e a, d, m) => (d.channelError c 0 a e, m)
      | (.writeFails e a k, d, m) =>
        if d.derrick.ch[c].count = k ∧ inBlock a = false then
          let (d, m) := if (windowOf a).isSome ∧ e ≠ .refused then
              ({ d with freeCtr := d.freeCtr + 1 }, Mem.setBytes m a (dataBytes k (Config.freeWord d.freeCtr).toNat))
            else (d, m)
          (d.channelDoneErr c a e, m)
        else (d.channelError c 1 a e, m)

/-- The chain of the running channel ends (R394). -/
def Dev.chainEnd (d : Dev) : Dev :=
  match d.runningChannel with
  | none => d
  | some c =>
    let x := d.derrick.ch[c]
    if x.loaded && x.count == 0 && x.ctl.bit 31 then (d.modChannel c fun x => { x with st := .done }).engineNext else d

/-- A descriptor fetch. -/
def execDerrickDescriptorFetch (s : State) : Out := onMem s descriptorFetch

/-- A burst. -/
def execDerrickBurst (s : State) : Out := onMem s derrickBurst

/-- The end of a chain. -/
def execDerrickChainEnd (s : State) : Out := onDev s Dev.chainEnd

/-! ### The check-value unit -/

/-- A write of START to CHECK_CTRL. -/
def execCheckScanStart (by_ : Initiator) (s : State) : Out := onMem s fun d m => writeWord d m by_ Reg.CHECK_CTRL 0x80000000#32

/-- The bytes of a scan in the order in which they enter: with BSWAP, each word's bytes most significant first (R404). -/
def scanOrder (swap : Bool) : List Byte → List Byte
  | a :: b :: c :: e :: rest => (if swap then [e, c, b, a] else [a, b, c, e]) ++ scanOrder swap rest
  | rest => if swap then rest.reverse else rest

/-- The first word of a range whose read fails: an uncorrectable error, or a window that does not answer. -/
def Dev.scanFault (d : Dev) (a len : Nat) : Option (Nat × BusCode) :=
  if len = 0 then none
  else if !d.answers a then some (a, .domainOff)
  else if a < 0x3400000 ∧ 0x3400000 < a + len ∧ !d.answers 0x3400000 then some (0x3400000, .domainOff)
  else (((d.beam.eccZero.filter fun w => decide (a < w + 4 ∧ w < a + len)).foldl (fun (x : Option Nat) w =>
    match x with | some y => some (min w y) | none => some w) none).map fun w => (w, BusCode.ecc))

/-- A scan completes, or stops at a read that fails (R405, R406). -/
def scanDone (d : Dev) (m : Mem) : Dev × Mem :=
  if !d.check.busy then (d, m)
  else
    match d.scanFault d.check.addr d.check.len with
    | some (a, c) => (d.scanFails c a, m)
    | none =>
      let (d, m) := copySeenIn d m d.check.addr d.check.len
      let bytes := scanOrder (d.rd Reg.CHECK_CFG |>.bit 31) (Mem.bytes m d.check.addr d.check.len)
      let d := d.checkResult (bytes.foldl (checkByte d.checkAlg) d.check.crc)
      (({ d with check := { d.check with busy := false, len := 0 } }).raise Reg.CHECK_EVT 0, m)

/-- The end of a scan. -/
def execCheckScanDone (s : State) : Out := onMem s scanDone

/-- A write of CHECK_DATA. -/
def execCheckDataFeed (by_ : Initiator) (w : Word) (s : State) : Out := onMem s fun d m => writeWord d m by_ Reg.CHECK_DATA w

end Sys2Proof.Machine
end

