-- ==== Sys2Proof/Machine/Signal.lean ====
section
/-!
DEFINITION. The stages of the sample datapath (Tables 1.3 and 1.4): what each computes from the settings of one side of a seam. A
component is a whole number of steps of which `f` make full scale. What the spec leaves open there, the widths, the filter taps and
the internal precision, stands in Config (DESIGN CHOICE, log entry 20).
-/

namespace Sys2Proof.Machine

/-- Steps of full scale in the datapath. -/
def stageFull : Nat := 2 ^ 30 * (Config.fineSteps + 1)

/-- The word in force on a side. -/
def Side.inf (s : Side) (a : Nat) : Word := (mapGet s.inforce a).getD (regReset a)

/-- A device with the settings of a side in force, by which its configuration is read. -/
def Side.dev (s : Side) : Dev := { Dev.reset with inforce := s.inforce }

/-- e^(2πjk/n), in steps of 2^-30. -/
def unitTurn (n : Nat) (k : Int) : Cpx := ⟨Config.cosine n (k % n).toNat, Config.cosine n ((k + 3 * n / 4) % n).toNat⟩

/-- A sample turned by k / n of a circle. -/
def turned (n : Nat) (k : Int) (x : Cpx) : Cpx := roundTo stageFull (2 ^ 30) ((unitTurn n k).times x)

/-- The raised-cosine blend at sample k of a seam of l samples: (1 − w(k)) a + w(k) b (R47). -/
def blend (l k : Nat) (a b : Cpx) : Cpx :=
  let c := Config.cosine (4 * l) (2 * k + 1)
  roundTo stageFull (2 ^ 31) (((a.scale (2 ^ 30 + c))).plus (b.scale (2 ^ 30 - c)))

/-- A linear-phase filter of `n` taps in steps of 2^-20 about its middle one. -/
def filtered (n : Nat) (tap : Nat → Int) (x : Int → Cpx) (k : Int) : Cpx :=
  cpxSum (List.range n) fun i => (x (k + (n / 2 : Nat) - i)).scale (tap i)

/-- Decimation by 2 (Table 4.2). -/
def downBy2 (n : Nat) (tap : Nat → Int) (x : Int → Cpx) (k : Int) : Cpx := roundTo stageFull (2 ^ 20) (filtered n tap x (2 * k))

/-- Interpolation by 2 (Table 4.2). -/
def upBy2 (n : Nat) (tap : Nat → Int) (x : Int → Cpx) (k : Int) : Cpx :=
  roundTo stageFull (2 ^ 19) (filtered n tap (fun i => if i % 2 = 0 then x (i / 2) else ⟨0, 0⟩) k)

/-- The half-bands between a carrier rate and 983.04 Msps, the lowest first: 61.44 Msps uses HB5 to HB2, 491.52 Msps HB2 alone. -/
def carrierBands (rate : Nat) : List Nat := (List.range (4 - rate)).map fun i => 5 - rate - i

/-- The fractional delay by `q` / 16384 samples (Table 4.2, R99). -/
def delayBy (q : Int) (x : Int → Cpx) (k : Int) : Cpx :=
  roundTo stageFull (2 ^ 20) (filtered 9 (Config.delayTap (q % 16384).toNat) x (k - q / 16384))

/-! ### Gains and corrections of a path (chapter 4) -/

/-- A gain word acts on a sample: GAIN / 16384, rounded and saturated (R97, R98). -/
def gainOut (f g : Nat) (x : Cpx) : Cpx := roundTo f 16384 (x.scale g)

/-- A gain word of a register whose TX or downlink half stands in [31:16]. -/
def gainHalf (w : Word) (tx : Bool) : Nat := if tx then w.get 31 16 else w.get 15 0

/-- The gains that the chain of a path applies for a carrier: the path's and that of (p, c) (R97)
(DESIGN CHOICE, log entry 20). -/
def Side.chainGain (s : Side) (tx : Bool) (p : Fin 64) (c : Nat) (x : Cpx) : Cpx :=
  let t := (tileOf p).val
  let k := p.val % 16
  gainOut stageFull (gainHalf (s.inf (Reg.TILE_CH_GAIN_CAR t c k)) tx) (gainOut stageFull (gainHalf (s.inf (Reg.TILE_CH_GAIN_PATH t k)) tx) x)

/-- The calibration trim of a path and carrier, Q1.14 (R208). -/
def Side.trimOut (s : Side) (tx : Bool) (p : Fin 64) (c : Nat) (x : Cpx) : Cpx :=
  roundTo stageFull 16384 ((coeff (s.inf (if tx then Reg.CAL_TRIM_TX p.val c else Reg.CAL_TRIM_RX p.val c))).times x)

/-- A DC or LO-leakage correction is subtracted, in quarters of the LSB of a converter of `n` bits. -/
def dcOut (f n : Nat) (w : Word) (x : Cpx) : Cpx := roundTo f (2 ^ (n + 1)) ((x.scale (2 ^ (n + 1))).minus ((coeff w).scale f))

/-- The IQ correction with seven taps in Q0.15: y[n] = x[n] + Σ w_j conj(x[n + 3 − j]) (R117). -/
def iqCorrect (f : Nat) (taps : Nat → Cpx) (x : Int → Cpx) (n : Int) : Cpx :=
  let s := cpxSum (List.range 7) fun j => (taps j).times (x (n + 3 - j)).conj
  roundTo f 32768 (((x n).scale 32768).plus s)

/-- The IQ correction of a set with the taps in force (DESIGN CHOICE, log entry 20). -/
def Side.iqOut (s : Side) (set : IqSet) (x : Int → Cpx) (n : Int) : Cpx := iqCorrect stageFull (fun j => coeff (s.inf (iqTap set j))) x n

/-- Attenuation in dB and digital gain of 2048 steps of the power-step entry in force (R81). -/
def Side.stepEntry (s : Side) (p : Fin 64) : Nat × Nat :=
  let w := s.pstep.getD p.val 0x800#32
  (min 40 (w.get 17 12), w.get 11 0)

/-- Attenuation in dB of a path's receive attenuator; nothing is added to it (R85). -/
def Side.rxEntry (s : Side) (p : Fin 64) : Nat × Nat := ((s.inf (Reg.TILE_RXATT (tileOf p).val (p.val % 16))).get 4 0, 2048)

/-- The digital gain at seam sample k of l: the blend of the old and new total gains over the analog gain in force, which steps at the
midpoint (R51, R85). -/
def rampGain (l k : Nat) (a b : Nat × Nat) (x : Cpx) : Cpx :=
  if a.1 = b.1 then blend l k (roundTo stageFull 2048 (x.scale a.2)) (roundTo stageFull 2048 (x.scale b.2))
  else
    let c := Config.cosine (4 * l) (2 * k + 1)
    let g := (2 ^ 30 + c) * (Config.atten a.1 * a.2 : Nat) + (2 ^ 30 - c) * (Config.atten b.1 * b.2 : Nat)
    roundTo stageFull (2 ^ 42 * Config.atten (if 2 * k < l then a.1 else b.1)) (x.scale g)

/-! ### The beamformer (chapter 5) -/

/-- The FFT size of a carrier rate at a numerology (Table 5.1). -/
def fftSize (mu rate : Nat) : Nat := 4096 * 2 ^ rate / 2 ^ mu

/-- The FFT bin of subcarrier `m` of a carrier (R121). -/
def fftBin (prbs n m : Nat) : Nat := (((m : Int) - 6 * prbs) % (n : Int)).toNat

/-- The frequency of subcarrier `m` of a carrier above f_LO, in 2^-32 of 983.04 MHz (R121): the mixer's and the subcarrier's own. -/
def subcarrierFreq (mu : Nat) (nco : Word) (prbs m : Nat) : Int :=
  signed 32 nco.toNat + ((m : Int) - 6 * prbs) * (2 ^ 16 * 2 ^ mu : Nat)

/-- The slot of subcarrier `m` of a carrier (R128, R130). -/
def Side.slotOf (s : Side) (c m : Nat) : Nat :=
  let g := groupSize (s.inf Reg.BEAM_CFG)
  ((s.dev.carsInf.take c).map fun x => carSlots g x.1).sum + m / 12 / g

/-- A weight in use: that of the active bank, zero for a retired antenna (R128, R148). -/
def Side.weight (s : Side) (d : Dev) (m : Mem) (ul : Bool) (slot layer : Nat) (a : Fin 64) : Cpx :=
  if s.healed.testBit a.val then ⟨0, 0⟩ else coeff (d.weight m (ashlarAddr (if ul then s.ulBank else s.dlBank) ul slot layer a.val))

/-- The rescaling factor of a layer and group, in steps of 2^-24, at most 2.0; 0 where no energy is kept (R150). -/
def Side.rescale (s : Side) (d : Dev) (m : Mem) (slot layer : Nat) : Nat :=
  let cfg := s.inf Reg.BEAM_CFG
  if s.healed = 0 || !cfg.bit 2 || cfg.bit 1 then 2 ^ 24
  else
    let e := d.columnEnergy m s.dlBank s.healed slot layer
    if e.2 = 0 then 0 else min (2 ^ 25) (Nat.sqrt (e.1 * 2 ^ 48 / e.2))

/-- The layers of a carrier that are active in a direction (R137). -/
def Side.activeLayers (s : Side) (ul : Bool) (c : Nat) : List Nat :=
  (List.range 32).filter fun l => (s.inf (if ul then Reg.BEAM_CAR_LUL c else Reg.BEAM_CAR_LDL c)).bit l

/-- The gain of a layer (R138): DL in [31:16]. -/
def Side.layerGain (s : Side) (ul : Bool) (c l : Nat) (x : Cpx) : Cpx := gainOut stageFull (gainHalf (s.inf (Reg.BEAM_LGAIN c l)) (!ul)) x

/-- A sum of the engine, rounded and saturated at the next stage (R124): `d` steps of the exact result make one of that stage. -/
def engineOut (d : Nat) (x : Unit → Cpx) : Cpx := Config.blockScaled fun _ => roundTo stageFull d (x ())

/-- Downlink: y_a[k] = Σ_l w[a, l] x_l[k] over the active layers, each after its gain (R128, R138, R150)
(DESIGN CHOICE, log entry 20). -/
def Side.precode (s : Side) (d : Dev) (m : Mem) (c k : Nat) (x : Nat → Cpx) (a : Fin 64) : Cpx :=
  engineOut (2 ^ 38) fun _ => cpxSum (s.activeLayers false c) fun l =>
    ((s.weight d m false (s.slotOf c k) l a).times (s.layerGain false c l (x l))).scale (s.rescale d m (s.slotOf c k) l)

/-- Uplink: z_l[k] = Σ_a w[a, l] y_a[k], then the layer's gain (R128, R138); an inactive layer gives nothing
(DESIGN CHOICE, log entry 20). -/
def Side.combine (s : Side) (d : Dev) (m : Mem) (c k : Nat) (y : Fin 64 → Cpx) (l : Nat) : Option Cpx :=
  if (s.activeLayers true c).contains l then
    some (s.layerGain true c l (engineOut 16384 fun _ => cpxSum (List.finRange 64) fun a =>
      (s.weight d m true (s.slotOf c k) l a).times (y a)))
  else none

/-! ### Predistortion (chapter 6) -/

/-- The argument of a LUT: 31 × r truncated to ten fractional bits, r clipped to 1.0 (R157 steps 1 and 2). -/
def lutArg (f : Nat) (x : Cpx) : Nat :=
  min 31744 (isqrt (31744 ^ 2 * (x.re.natAbs ^ 2 + x.im.natAbs ^ 2) / (max 1 f) ^ 2) 17 0)

/-- A LUT's value at an argument, in steps of 2^-23: E[i] + f (E[i+1] − E[i]) (R157 step 3). -/
def lutValue (e : Nat → Cpx) (u : Nat) : Cpx :=
  let i := min (u / 1024) 30
  let t : Int := (u - 1024 * i : Nat)
  ⟨1024 * (e i).re + t * ((e (i + 1)).re - (e i).re), 1024 * (e i).im + t * ((e (i + 1)).im - (e i).im)⟩

/-- The LUTs of the page of the bank in use (R158, R163): LUT `t`, entry `i`. -/
def Side.lutEntry (s : Side) (m : Mem) (p : Fin 64) (t i : Nat) : Cpx := coeff (Mem.word m (dpdAddr p.val (s.pages.getD p.val 0) (32 * t + i)))

/-- The neighbours of a path that contribute, each with its term: the map of `adj`, without those forced to zero on this side
(R160 to R162). -/
def Side.neighbourTerms (s : Side) (adj : Word) (p : Fin 64) : List (Nat × Fin 64) :=
  (List.range 4).filterMap fun j =>
    let (en, q) := adjTerm adj j
    if en && q != p.val && !s.healed.testBit q then some (j, toPath q) else none

/-- The DPD output of a path at sample `n` (R156 to R160): with EN at 0 its input (DESIGN CHOICE, log entry 20). -/
def Side.dpdOut (s : Side) (m : Mem) (adj : Word) (x : Fin 64 → Int → Cpx) (p : Fin 64) (n : Int) : Cpx :=
  if !(s.inf (Reg.DPD_PATH_CFG p.val)).bit 31 then x p n
  else
    let taps := cpxSum (List.range 40) fun t =>
      let lag : Int := (t / 5 : Nat)
      let k : Int := ((t % 5 : Nat) : Int) - 2
      (x p (n - lag)).times (lutValue (s.lutEntry m p t) (lutArg stageFull (x p (n - lag - k))))
    let near := cpxSum (s.neighbourTerms adj p) fun (j, q) =>
      (x q n).times (lutValue (s.lutEntry m p (40 + j)) (lutArg stageFull (x p n)))
    roundTo stageFull 8388608 (taps.plus near)

/-! ### Blocks of sample messages (chapter 10) -/

/-- A component's mantissa at exponent `e` and width `w`: its value in steps of 2^(e − 14 − w) of full scale (R285, R286). -/
def blockMantissa (w f e : Nat) (x : Int) : Int := roundEven (x * 2 ^ (14 + w - e)) f

/-- Whether a mantissa lies in the `w`-bit range. -/
def inWidth (w : Nat) (v : Int) : Bool := decide (-(2 ^ (w - 1) : Int) ≤ v ∧ v < 2 ^ (w - 1))

/-- The packer (R286): the smallest exponent for which every component fits, and its mantissas; where none does, exponent 15
with components saturated. The last number counts those (DESIGN CHOICE, log entry 20). -/
def packBlock (w f : Nat) (xs : List Int) : Nat × List Int × Nat :=
  match (List.range 16).find? fun e => xs.all fun x => inWidth w (blockMantissa w f e x) with
  | some e => (e, xs.map (blockMantissa w f e), 0)
  | none =>
    let vs := xs.map (blockMantissa w f 15)
    (15, vs.map fun v => max (-(2 ^ (w - 1) : Int)) (min (2 ^ (w - 1) - 1) v), vs.countP fun v => !inWidth w v)

/-- A block as bits: the exponent, then the components in order, as a number of 4 + 24 w bits (R285). -/
def blockBits (w : Nat) (b : Nat × List Int) : Nat := b.2.foldl (fun n v => n * 2 ^ w + unsigned w v) b.1

/-- UMODE of a message that the device transmits, and its mark map, first block in the most significant bit of the first byte
(R288): `beam` in beam mode, where a mark covers the whole message. -/
def markMode (beam : Bool) (marked : List Bool) : Nat × List Byte :=
  if marked.all (!·) then (0, [])
  else if beam || marked.all id then (1, [])
  else (2, (List.range ((marked.length + 7) / 8)).map fun b =>
    BitVec.ofNat 8 ((List.range 8).foldl (fun n i => 2 * n + b2n (marked.getD (8 * b + i) false)) 0))

/-! ### Symbols on the wire (chapter 9) -/

/-- The Gray value of a bit pair (Table 9.1). -/
def grayOf (b1 b0 : Bool) : Nat := match b1, b0 with | false, false => 0 | false, true => 1 | true, true => 2 | true, false => 3

/-- The PAM4 level of a Gray value (Table 9.1). -/
def pamLevel (g : Nat) : Int := 2 * (g : Int) - 3

/-- Precoding (R251): P(j) = (G(j) − P(j−1)) mod 4, from P = 0 (DESIGN CHOICE, log entry 82). -/
def precodeSymbols : Nat → List Nat → List Nat
  | _, [] => []
  | p, g :: gs => let q := (g + 4 - p % 4) % 4; q :: precodeSymbols q gs

/-- What a receiver recovers from precoded symbols (R251): G(j) = (P(j) + P(j−1)) mod 4. -/
def recoverSymbols : Nat → List Nat → List Nat
  | _, [] => []
  | p, q :: qs => (q + p) % 4 :: recoverSymbols q qs

/-- The seed of the scrambler of lane `k` at the start of a superframe (R253). -/
def scramblerSeed (k : Nat) : Nat := 0x7FFFFFF0 + k

/-- `n` bits of the scrambler x^31 + x^28 + 1 from a state of 31 bits: each is the sum of the bits 31 and 28 places back, and
enters the state from below (R253) (DESIGN CHOICE, log entry 82). -/
def scramblerBits : Nat → Nat → List Bool
  | 0, _ => []
  | n + 1, s => let b := s.testBit 30 != s.testBit 27; b :: scramblerBits n ((2 * s + b2n b) % 2 ^ 31)

/-- The place of a flow in the order in which the transmitter fills a slot (R298): LINK cells, time messages, commands and
replies, register access, event messages, then the others by priority from 7 down (DESIGN CHOICE, log entry 82). -/
def Dev.sendPlace (d : Dev) (flow : Nat) : Nat :=
  if flow = 0x3FF then 0
  else if flow = 0x320 then 1
  else if flow = 0x300 then 2
  else if flow = 0x310 then 3
  else if flow = 0x330 then 4
  else 5 + (7 - (d.inf (Reg.SKX_CELL_FLOW_CFG flow)).get 2 0)

/-- The flow whose cell takes the next slot among those with a cell available (R298): the first place; of equal ones the next
flow number after the one that sent last (DESIGN CHOICE, log entry 82). -/
def Dev.nextToSend (d : Dev) (last : Nat) (flows : List Nat) : Option Nat :=
  let best := flows.foldl (fun n f => min n (d.sendPlace f)) 13
  let firsts := flows.filter fun f => d.sendPlace f = best
  let pick := fun (l : List Nat) => l.foldl (fun (r : Option Nat) f => match r with | none => some f | some x => some (min x f)) none
  match pick (firsts.filter fun f => decide (last < f)) with
  | some f => some f
  | none => pick firsts

end Sys2Proof.Machine
end

