-- ==== Sys2Proof/Machine/Route.lean ====
section
/-!
DEFINITION. The routes of a symbol (R20 to R22): the stages of Table 1.3 from the accepted messages to the TX balls, and those of
Table 1.4 from the receive ADCs to the sample messages, with the seam of R47; and which settings and messages each symbol takes with
it. Times at a stage are sample numbers from the edge of the tick of the current symbol, with the fixed latency compensated (R95). The
rate of code `e` is 61.44 × 2^e Msps: 4 is 983.04, 5 is 1966.08 and 6 is 3932.16 (DESIGN CHOICE, log entry 20).
-/

namespace Sys2Proof.Machine

/-! ### Symbols and their settings -/

/-- The settings in force now, as a side of a seam (R47, R50). -/
def Dev.side (d : Dev) : Side :=
  { inforce := d.inforce, dlBank := d.beam.dlBank, ulBank := d.beam.ulBank, healed := d.retiredMask
    pages := (List.finRange 64).map fun p => d.dpd.path[p].pageOf d.dpd.path[p].bank
    pstep := (List.finRange 64).map fun p => d.paths[p].pstep
    dTx := (List.finRange 64).map fun p => d.paths[p].dTx
    dRx := (List.finRange 64).map fun p => d.paths[p].dRx
    rot := (List.finRange 4).map fun t => d.tiles[t].rot }

/-- Samples of a symbol at a rate. -/
def Symbol.count (s : Symbol) (e : Nat) : Nat := s.cycles * 2 ^ e / 8

/-- The cyclic prefix of a symbol at a carrier rate: Table 5.1, with a whole cycle that its tick absorbed (R35, R119). -/
def Symbol.cp (s : Symbol) (rate : Nat) : Nat := s.count rate - fftSize s.mu rate

/-- The symbol that a sample belongs to, with the symbol before it and the sample's number in it. -/
def Datapath.place (x : Datapath) (e : Nat) (n : Int) : Symbol × Symbol × Int :=
  if 0 ≤ n then (x.prev, x.cur, n)
  else if -(x.prev.count e : Int) ≤ n then (x.past, x.prev, n + x.prev.count e)
  else (Symbol.reset, x.past, n + x.prev.count e + x.past.count e)

/-- A blended setting acts: in the seam the outputs of both sides are joined by w(k), over the same input (R48, R50, R166). -/
def Datapath.joined (x : Datapath) (e : Nat) (n : Int) (g : Side → Cpx) : Cpx :=
  let (a, b, i) := x.place e n
  let l := b.seam * 2 ^ e / 8
  if a.cycles = 0 ∨ i < 0 ∨ (l : Int) ≤ i then g b.set else blend l i.toNat (g a.set) (g b.set)

/-- The side whose stepped settings act on a sample: they change at the seam midpoint (R51). -/
def Datapath.stepped (x : Datapath) (e : Nat) (n : Int) : Side :=
  let (a, b, i) := x.place e n
  if a.cycles = 0 ∨ (b.seam * 2 ^ e / 8 : Nat) ≤ 2 * i then b.set else a.set

/-- A gain with a digital ramp acts (R51). -/
def Datapath.ramped (x : Datapath) (e : Nat) (n : Int) (g : Side → Nat × Nat) (y : Cpx) : Cpx :=
  let (a, b, i) := x.place e n
  let l := b.seam * 2 ^ e / 8
  if a.cycles = 0 ∨ i < 0 ∨ (l : Int) ≤ i then roundTo stageFull 2048 (y.scale (g b.set).2) else rampGain l i.toNat (g a.set) (g b.set) y

/-- The rate code of a carrier on a side, none where it is disabled. -/
def Side.rate (s : Side) (c : Nat) : Option Nat :=
  let w := s.inf (Reg.BEAM_CAR_CFG c)
  if w.bit 31 then some (w.get 30 29) else none

/-- Whether a side is in antenna mode (R125). -/
def Side.antenna (s : Side) : Bool := (s.inf Reg.BEAM_CFG).bit 31

/-- A carrier's mixer: e^(2πj f n), `n` at 983.04 Msps from the edge of a tick at timebase cycle `edge` (R121). -/
def Side.mixed (s : Side) (c edge : Nat) (up : Bool) (n : Int) (x : Cpx) : Cpx :=
  let k := signed 32 (s.inf (Reg.BEAM_CAR_NCO c)).toNat * (n + 2 * edge) + Config.mixerStart c
  turned (2 ^ 32) (if up then k else -k) x

/-! ### Downlink (Table 1.3) -/

/-- Sample `i` of a flow's message of a symbol: zero where none was accepted (R285, R287, R291). -/
def Symbol.sample (s : Symbol) (flow i : Nat) : Cpx :=
  match s.dl.find? fun x => x.1 == flow with
  | some (_, w :: ws) => (blockSample (bitString ws) (32 * ws.length) (w.get 29 27) i).scale (Config.fineSteps + 1)
  | _ => ⟨0, 0⟩

/-- Subcarrier `k` of a path and carrier: precoding, then the path's trim; a slice that failed its check gives zero (R128, R153, R208). -/
def Symbol.dlBin (s : Symbol) (d : Dev) (m : Mem) (set : Side) (p : Fin 64) (c k : Nat) : Cpx :=
  if s.sliceErr.testBit (p.val / 8) then ⟨0, 0⟩
  else set.trimOut true p c (set.precode d m c k (fun l => s.sample (32 * c + l) k) p)

/-- Sample `i` of a symbol on a path and carrier, with its cyclic prefix and, past its end, its cyclic extension: x[n] = (1/√N) Σ X[k]
e^(j2πkn/N) in beam mode, the message's samples with the trim in antenna mode, where a retired path's are discarded (R22, R47, R122,
R126) (DESIGN CHOICE, log entry 20). -/
def Symbol.dlBody (s : Symbol) (d : Dev) (m : Mem) (set : Side) (p : Fin 64) (c : Nat) (i : Int) : Cpx :=
  match set.rate c with
  | none => ⟨0, 0⟩
  | some r =>
    let n := fftSize s.mu r
    let j := i - s.cp r
    if s.seam = 0 then ⟨0, 0⟩
    else if set.antenna then
      if set.healed.testBit p.val then ⟨0, 0⟩
      else set.trimOut true p c (s.sample (0x100 + 64 * c + p.val) (if 0 ≤ i ∧ i < s.count r then i.toNat else s.cp r + (j % n).toNat))
    else
      let prb := carPrb (set.inf (Reg.BEAM_CAR_CFG c))
      engineOut (2 ^ 10 * Nat.sqrt (n * 2 ^ 40)) fun _ => cpxSum (List.range (12 * prb)) fun k =>
        (unitTurn n (fftBin prb n k * j)).times (s.dlBin d m set p c k)

/-- A carrier of a path at a carrier rate: in the seam the cyclic extension of the symbol before and the head of the new one (R47, R122).
A side on which the carrier has another rate gives nothing (DESIGN CHOICE, log entry 20). -/
def Datapath.carrier (x : Datapath) (d : Dev) (m : Mem) (p : Fin 64) (c r : Nat) (n : Int) : Cpx :=
  let (a, b, i) := x.place r n
  let l := b.seam * 2 ^ r / 8
  let old := if a.cycles ≠ 0 ∧ a.set.rate c = some r then a.dlBody d m a.set p c (i + a.count r) else ⟨0, 0⟩
  let new := if b.set.rate c = some r then b.dlBody d m b.set p c i else ⟨0, 0⟩
  if i < 0 ∨ (l : Int) ≤ i then new else blend l i.toNat old new

/-- A carrier after the fractional delay and the path's gains (R97, R99). -/
def Datapath.delayed (x : Datapath) (tx : Bool) (p : Fin 64) (c r : Nat) (y : Int → Cpx) (n : Int) : Cpx :=
  x.joined r n fun s => s.chainGain tx p c (x.joined r n fun s => delayBy (((if tx then s.dTx else s.dRx).getD p.val 0) * 2 ^ r) y n)

/-- The DPD input of a path at 1966.08 Msps: the carriers interpolated, mixed and summed, and interpolated by 2 (Table 1.3). -/
def Datapath.dpdIn (x : Datapath) (d : Dev) (m : Mem) (p : Fin 64) : Int → Cpx :=
  upBy2 79 (Config.halfBand 1) fun n =>
    let conf := x.stepped 4 n
    roundTo stageFull 1 (cpxSum (List.range 4) fun c =>
      match conf.rate c with
      | none => ⟨0, 0⟩
      | some r => conf.mixed c x.cur.edge true n
          ((carrierBands r).foldl (fun y k => upBy2 47 (Config.halfBand k) y) (x.delayed true p c r (x.carrier d m p c r)) n))

/-- The DPD output of a path: both evaluations of a seam sample share the input (R156, R161, R166)
(DESIGN CHOICE, log entry 20). -/
def Datapath.dpdOut (x : Datapath) (d : Dev) (m : Mem) (p : Fin 64) (n : Int) : Cpx :=
  let adj := (x.stepped 5 n).inf (Reg.DPD_PATH_ADJ p.val)
  x.joined 5 n fun s => s.dpdOut m adj (fun q => x.dpdIn d m q) p n

/-- A path at the tile link: LO-leakage and IQ pre-correction, the rotation of the handovers, and the digital gain of the power step
(R51, R75, R117) (DESIGN CHOICE, log entry 20). -/
def Datapath.toTile (x : Datapath) (d : Dev) (m : Mem) (p : Fin 64) (n : Int) : Cpx :=
  let lol := fun (s : Side) => dcOut stageFull 16 (s.inf (Reg.TILE_CH_TX_LOL (tileOf p).val (p.val % 16)))
  let y := x.joined 5 n fun s => s.iqOut (.tx p) (fun k => lol s (x.dpdOut d m p k)) n
  x.ramped 5 n (fun s => s.stepEntry p) (turned 65536 ((x.stepped 5 n).rot.getD (tileOf p).val 0) y)

/-- The code of the DAC that serves a path, at 3932.16 MS/s from the edge of the current tick: zero but in Transmit (R64, R79, R95). -/
def Dev.txDac (d : Dev) (m : Mem) (p : Fin 64) (n : Int) : Cpx :=
  if d.paths[p].inTx && !d.tiles[tileOf p].txHeld then
    roundTo 32768 (stageFull / 32768) (upBy2 63 (Config.halfBand 0) (d.sig.toTile d m p) n)
  else ⟨0, 0⟩

/-! ### Uplink (Table 1.4) -/

/-- A path at 983.04 Msps: the ADC's samples with the ramp of the receive attenuator, DC and IQ correction and the rotation of the
handovers, decimated by 2 (R75, R85, R117) (DESIGN CHOICE, log entry 20). -/
def Datapath.fromTile (x : Datapath) (p : Fin 64) : Int → Cpx :=
  let dc := fun (s : Side) => dcOut stageFull 14 (s.inf (Reg.TILE_CH_RX_DC (tileOf p).val (p.val % 16)))
  let y := fun (n : Int) => x.ramped 5 n (fun s => s.rxEntry p) ((Config.adc p.val (4 * x.cur.edge + n)).scale (stageFull / 8192 : Nat))
  downBy2 79 (Config.halfBand 1) fun n =>
    turned 65536 ((x.stepped 5 n).rot.getD (tileOf p).val 0) (x.joined 5 n fun s => s.iqOut (.rx p) (fun k => dc s (y k)) n)

/-- A carrier of a path at its rate: mixed, decimated, delayed (R99). -/
def Datapath.received (x : Datapath) (p : Fin 64) (c r : Nat) (n : Int) : Cpx :=
  let base := fun (k : Int) => (x.stepped 4 k).mixed c x.cur.edge false k (x.fromTile p k)
  x.delayed false p c r ((carrierBands r).reverse.foldl (fun y k => downBy2 47 (Config.halfBand k) y) base) n

/-- The first sample of the FFT window of a symbol: FFT_ADV before the end of the cyclic prefix (R123). -/
def Symbol.fftStart (s : Symbol) (c r : Nat) : Int := (s.cp r : Int) - s.set.dev.fftAdvance c

/-- Subcarrier `k` of a path and carrier in the current symbol: X[k] = (1/√N) Σ x[n] e^(−j2πkn/N), turned for the window's advance, then
the path's trim (R122, R123) (DESIGN CHOICE, log entry 20). -/
def Datapath.ulBin (x : Datapath) (p : Fin 64) (c k : Nat) : Cpx :=
  let s := x.cur
  match s.set.rate c with
  | none => ⟨0, 0⟩
  | some r =>
    let n := fftSize s.mu r
    let b := fftBin (carPrb (s.set.inf (Reg.BEAM_CAR_CFG c))) n k
    s.set.trimOut false p c (engineOut (2 ^ 10 * Nat.sqrt (n * 2 ^ 40)) fun _ => cpxSum (List.range n) fun i =>
      (unitTurn n (b * ((s.set.dev.fftAdvance c : Int) - i))).times (x.received p c r (s.fftStart c r + i)))

/-- Subcarrier `k` of a layer: the slices' sums without those that failed a check (R128, R153). -/
def Datapath.ulLayer (x : Datapath) (d : Dev) (m : Mem) (c l k : Nat) : Cpx :=
  (x.cur.set.combine d m c k (fun a => if x.cur.sliceErr.testBit (a.val / 8) then ⟨0, 0⟩ else x.ulBin a c k) l).getD ⟨0, 0⟩

/-- Sample `i` of a path in antenna mode: the trim acts in the time domain, and a retired path gives zero (R22, R126). -/
def Datapath.ulAntenna (x : Datapath) (p : Fin 64) (c i : Nat) : Cpx :=
  match x.cur.set.rate c with
  | none => ⟨0, 0⟩
  | some r => if x.cur.set.healed.testBit p.val then ⟨0, 0⟩ else x.joined r i fun s => s.trimOut false p c (x.received p c r i)

/-- The blocks of an uplink message of the current symbol (R286, R287): one for each PRB, or of 12 consecutive samples, the last one
completed with zeros. -/
def Datapath.ulBlocks (x : Datapath) (d : Dev) (m : Mem) (f : Nat) : List (Nat × List Int × Nat) :=
  let s := x.cur
  let c := flowCar f
  let w := s.set.inf (Reg.SKX_CELL_FLOW_CFG f)
  let total := if isAntFlow f then s.count ((s.set.rate c).getD 0) else 12 * carPrb (s.set.inf (Reg.BEAM_CAR_CFG c))
  (List.range ((total + 11) / 12)).map fun b =>
    packBlock (mantissa (mwOf w)) stageFull ((List.range 12).flatMap fun i =>
      let y := if total ≤ 12 * b + i then ⟨0, 0⟩
        else if isAntFlow f then x.ulAntenna (toPath f) c (12 * b + i) else x.ulLayer d m c (f % 32) (12 * b + i)
      [y.re, y.im])

/-- The body of an uplink message of the symbol that has ended (R284 to R288), most significant byte first
(DESIGN CHOICE, log entry 20). -/
def Dev.ulBytes (d : Dev) (m : Mem) (u : UlMessage) : List Byte :=
  let x : Datapath := { d.sig with cur := d.sig.prev, prev := d.sig.past, past := Symbol.reset }
  let code := mwOf (x.cur.set.inf (Reg.SKX_CELL_FLOW_CFG u.flow))
  let bs := x.ulBlocks d m u.flow
  let bits := bs.length * (24 * mantissa code + 4)
  let pad := (8 - bits % 8) % 8
  let n := (bs.foldl (fun n b => n * 2 ^ (24 * mantissa code + 4) + blockBits (mantissa code) (b.1, b.2.1)) 0) * 2 ^ pad
  (List.range 4).map (fun i => BitVec.ofNat 8 (u.addr.toNat / 2 ^ (24 - 8 * i))) ++
    (List.range ((bits + pad) / 8)).map (fun i => BitVec.ofNat 8 (n / 2 ^ (bits + pad - 8 * i - 8))) ++ u.map

/-! ### Marks and messages of a symbol that ends -/

/-- Timebase cycle of a symbol at which the FFT window of a carrier opens (R103, R123). -/
def Symbol.windowOpen (s : Symbol) (c : Nat) : Int :=
  let r := (s.set.rate c).getD 0
  (s.cycles : Int) - (32768 / 2 ^ s.mu : Nat) - (s.set.dev.fftAdvance c * 8 / 2 ^ r : Nat)

/-- Which blocks of an uplink message are marked (R103, R126, R153): all in beam mode where a contributing path has an unsettled sample in
the FFT window or a slice failed a check, and in antenna mode those that hold an unsettled sample (DEDUCED, log entry 78). -/
def Symbol.marked (s : Symbol) (f : Nat) : List Bool :=
  let c := flowCar f
  let r := (s.set.rate c).getD 0
  if isAntFlow f then
    (List.range ((s.count r + 11) / 12)).map fun b =>
      s.set.healed.testBit (f % 64) || s.marks.any fun x => x.1 == f % 64 && decide (x.2.1 * 2 ^ r < 96 * (b + 1) ∧ 96 * b < x.2.2 * 2 ^ r)
  else
    List.replicate (carPrb (s.set.inf (Reg.BEAM_CAR_CFG c)))
      (s.sliceErr != 0 || s.marks.any fun x => !s.set.healed.testBit x.1 && decide (x.2.1 < x.2.2 ∧ s.windowOpen c < x.2.2))

/-- The uplink messages of a symbol that has ended: one for each flow that exists and is not shed, while the link carries cells
(R282, R284, R288, R302). -/
def Dev.ulMessages (d : Dev) (s : Symbol) : List UlMessage :=
  if s.seam = 0 ∨ d.link.txSet = 0 ∨ !(d.rd Reg.SKX_CELL_CFG).bit 31 then []
  else
    let set := s.set.dev
    (sampleFlows.filter fun f => set.flowExists true f && !d.link.shedTx.contains f).map fun f =>
      let k := markMode (isBeamFlow f) (s.marked f)
      let w := (addrOfNom s.mu s.nom).put 29 27 (mwOf (s.set.inf (Reg.SKX_CELL_FLOW_CFG f)))
      { flow := f, addr := w.put 31 30 k.1, map := k.2 }

/-- The spans in which a tile's LO was not qualified mark its receiving paths (R80), and the span that goes on begins anew. -/
def Dev.closeLo (d : Dev) : Dev :=
  (List.finRange 4).foldl (fun d t =>
    let x := d.tiles[t]
    let spans := x.loBad ++ (match x.loFrom with | some a => [(a, wholeSymbol)] | none => [])
    if spans.isEmpty then d
    else
      let d := (pathsOf t).foldl (fun d p => spans.foldl (fun d y => d.noteMark p y.1 y.2) d) d
      d.modTile t fun x => { x with loFrom := x.loFrom.map fun _ => 0, loBad := [] }) d

/-- The symbol in the datapath ends: its settings are those in force, its uplink messages are formed, and it goes with the sounding
estimates that were taken in it (R140, R284) (DESIGN CHOICE, log entry 20). -/
def Dev.closeSymbol (d : Dev) : Dev :=
  if d.sig.cur.cycles = 0 then d
  else
    let d := d.closeLo
    let c := { d.sig.cur with cycles := d.cad.since, sliceErr := d.beam.sliceErr }
    let x : Datapath := { d.sig with cur := c }
    { d with
      sig := { cur := Symbol.reset, prev := c, past := d.sig.prev, ul := d.ulMessages c }
      beam := { d.beam with sounded := d.beam.sounded.map fun (y : SoundSym) => if y.tick = d.cad.tickIdx ∧ y.cycle = c.edge then { y with sig := x } else y } }

/-- The symbol of the tick that takes place now enters the datapath with the settings that land at it and its accepted messages
(R47, R290). -/
def Dev.openSymbol (d : Dev) : Dev :=
  let addr := addrOfNom d.mu d.cad.nom
  let due := d.link.accepted.filter fun (x : Accepted) => x.addr == addr && decide (x.bound ≤ dlBound d.mu d.cad.nom)
  { d with sig := { d.sig with cur :=
      { nom := d.cad.nom, edge := d.time.cycle, cycles := d.symCycles, mu := d.mu, seam := d.seamL, set := d.side,
        dl := due.map fun x => (x.flow, x.words), sliceErr := 0, marks := [] } } }

/-- At the seam midpoint the stepped settings of the symbol stand (R51). -/
def Dev.settleSymbol (d : Dev) : Dev := { d with sig := { d.sig with cur := { d.sig.cur with set := d.side, mu := d.mu } } }

/-- A step gap stands in the datapath: no symbol is current (R37). -/
def Dev.gapSymbol (d : Dev) (cycles : Nat) : Dev :=
  { d with sig := { d.sig with cur := { Symbol.reset with edge := d.time.cycle, cycles := cycles, mu := d.mu, set := d.side } } }

end Sys2Proof.Machine
end

