-- ==== Sys2Proof/Machine/Solver.lean ====
section
/-!
DEFINITION. The weight solver (R141 to R146): channel estimates, noise, the factorisation of each group and the words it writes. All
arithmetic is FP32; sums run in the order of the indices (DESIGN CHOICE, log entry 86).
-/

namespace Sys2Proof.Machine

/-- A group of the solve: its carrier, its number there, its slot, and its first and past-last subcarrier (R128). -/
structure SolveGroup where
  car : Nat
  num : Nat
  slot : Nat
  lo : Nat
  hi : Nat

/-- The groups of the carriers in force, in slot order (R130). -/
def Dev.solveGroups (d : Dev) : List SolveGroup :=
  let g := groupSize (d.inf Reg.BEAM_CFG)
  let n := d.carsInf.map fun c => carSlots g c.1
  (List.range 4).flatMap fun c => (List.range (n.getD c 0)).map fun i =>
    ⟨c, i, (n.take c).sum + i, 12 * g * i, 12 * min (g * i + g) (carPrb (d.inf (Reg.BEAM_CAR_CFG c)))⟩

/-- The antennas of the cycle (R143, R149). -/
def Dev.solveAnts (d : Dev) : List Nat := (List.range 64).filter fun a => !d.beam.dropped.testBit a

/-- The layers of a carrier that the cycle solves (R142). -/
def Dev.solveLayers (d : Dev) (c : Nat) : List Nat :=
  (d.layersOn.filter fun x => x.1 == c && !d.beam.excluded.contains x).map Prod.snd

/-- The usable observations of a layer in a group: the symbol, the subcarrier and its reference (R141). -/
def Dev.observations (d : Dev) (g : SolveGroup) (l : Nat) : List (Datapath × Nat × Cpx) :=
  (d.beam.est.filter fun x => x.car == g.car && x.layer == l).flatMap fun x =>
    (x.refs.filter fun r => decide (g.lo ≤ r.1 ∧ r.1 < g.hi)).map fun r => (x.sig, r.1, r.2)

/-- Ĥ[a, l, k] = Y_a[k] conj(r) / |r|² (R141): Y is what Table 1.4 makes of the signals at the RX ball of the antenna. -/
def estH (car a : Nat) (o : Datapath × Nat × Cpx) : Cfp :=
  let r := cfOf 30 o.2.2
  let y := (cfOf 30 (o.1.ulBin (toPath a) car o.2.1)).divRe (fpOf (Config.fineSteps + 1) 0)
  (y.mul r.conj).divRe r.sq

/-- H_g[a, l]: the average over the observations; where a group has none the result is not stated (R141). -/
def Dev.channel (d : Dev) (g : SolveGroup) (a l : Nat) : Cfp :=
  let os := d.observations g l
  if os.isEmpty then cfOf 30 (Config.unsounded (d.beam.solvedAt.getD 0) g.slot a l)
  else
    let s := os.foldl (fun s o => s.add (estH g.car a o)) cfZero
    s.divRe (fpOf os.length 0)

/-- The noise estimate of a group, none where no layer has two observations (R141). -/
def Dev.noiseOf (d : Dev) (g : SolveGroup) : Option Word :=
  let ls := (d.solveLayers g.car).filter fun l => 2 ≤ (d.observations g l).length
  if ls.isEmpty then none
  else
    let num := fpSum (d.solveAnts.flatMap fun a => ls.flatMap fun l =>
      let h := d.channel g a l
      (d.observations g l).map fun o => (fpMul (cfOf 30 o.2.2).sq ((estH g.car a o).sub h).sq).val)
    let den := d.solveAnts.length * (ls.map fun l => (d.observations g l).length - 1).sum
    some (fpDiv num (fpOf den 0)).val

/-- σ̂² of a group: its own, or that of the nearest group of the carrier that has one, the lower of two, or 0 (R141)
(DESIGN CHOICE, log entry 86). -/
def Dev.noise (d : Dev) (g : SolveGroup) : Word :=
  let all := (d.solveGroups.filter fun x => x.car == g.car).filterMap fun x => (d.noiseOf x).map fun n => (x.num, n)
  let dist := fun (i : Nat) => max i g.num - min i g.num
  match all.foldl (fun (b : Option (Nat × Word)) x =>
      match b with
      | none => some x
      | some y => if dist x.1 < dist y.1 then some x else b) none with
  | some x => x.2
  | none => 0

/-- (G + λI)^-1 H^H of a group, one list over the layers for each antenna; none where a pivot fails twice (R143, R144). -/
def Dev.solveC (d : Dev) (g : SolveGroup) : Option (List (Nat × List Cfp × List Cfp)) :=
  let ls := d.solveLayers g.car
  let hs := d.solveAnts.map fun a => (a, ls.map fun l => d.channel g a l)
  let k := ls.length
  let gram := (List.range k).map fun i => (List.range k).map fun j =>
    cfDot (hs.map fun h => (h.2.getD i cfZero).conj) (hs.map fun h => h.2.getD j cfZero)
  let cfg := d.rd Reg.BEAM_SOLVER_CFG
  let reg := d.rd Reg.BEAM_SOLVER_REG
  let lam := if cfg.bit 30 then (fpMul reg (d.noise g)).val else reg
  let a := addDiag gram lam
  let mean := (fpDiv (traceOf gram) (fpOf k 0)).val
  let least := (fpMul (d.rd Reg.BEAM_SOLVER_PIVOT) mean).val
  let f := match cholesky least a with
    | some l => some l
    | none => cholesky least (addDiag a (fpMul mean (fpOf 1 10)).val)
  f.map fun l => hs.map fun h => (h.1, h.2, cholSolve l (h.2.map Cfp.conj))

/-- The weight of the i-th layer of the solve at an antenna, as a word, with the parts that saturate (R127, R143). -/
def Dev.solvedWord (d : Dev) (sol : List (Nat × List Cfp × List Cfp)) (ul : Bool) (l i : Nat) (c : List Cfp) : Word × Nat :=
  let x := c.getD i cfZero
  let y := if ul then
      if (d.rd Reg.BEAM_SOLVER_CFG).bit 29 then
        x.div (cfDot (sol.map fun h => h.2.2.getD i cfZero) (sol.map fun h => h.2.1.getD i cfZero))
      else x
    else
      let e := fpSum (sol.map fun h => (h.2.2.getD i cfZero).sq)
      x.mulRe (fpSqrt (fpDiv (fpOf (d.fget (Reg.BEAM_SOLVER_POW l) 15 0) 12) e).val).val
  (wordOf 14 y, wordClips 14 y)

/-- The words of a group in the inactive bank of a direction: those of the solve or, where the factorisation fails, the words of the
active bank (R143, R144). The answer says how many parts saturate. -/
def Dev.groupWords (d : Dev) (m : Mem) (g : SolveGroup) (sol : Option (List (Nat × List Cfp × List Cfp))) (ul : Bool) :
    List (Nat × Word) × Nat :=
  let active := if ul then d.beam.ulBank else d.beam.dlBank
  let ls := d.solveLayers g.car
  match sol with
  | none => ((List.range 32).flatMap fun l => (List.range 64).map fun a =>
      (ashlarAddr (!active) ul g.slot l a, d.weight m (ashlarAddr active ul g.slot l a)), 0)
  | some hs =>
    let ws := ls.zipIdx.flatMap fun (l, i) => hs.map fun h =>
      (ashlarAddr (!active) ul g.slot l h.1, d.solvedWord hs ul l i h.2.2)
    (ws.map fun x => (x.1, x.2.1), (ws.map fun x => x.2.2).sum)

/-- The places of the inactive bank of a direction that get zero weights: retired antennas, and layers left out (R142, R143). -/
def Dev.zeroWords (d : Dev) (g : SolveGroup) (ul : Bool) : List Nat :=
  let bank := !(if ul then d.beam.ulBank else d.beam.dlBank)
  (d.layersOn.filter fun x => x.1 == g.car).flatMap fun x =>
    ((List.range 64).filter fun a => d.beam.dropped.testBit a || d.beam.excluded.contains x).map fun a => ashlarAddr bank ul g.slot x.2 a

/-- The solver writes a word, unless one of its commands has brought it in this cycle; a running copy leaves it alone from now on, and an
uncorrectable word is mended (R133, R136). -/
def solverPut (x : Dev × Mem) (a : Nat) (w : Word) : Dev × Mem :=
  if x.1.beam.brought.contains a then x else (x.1.ashlarNote a, Mem.setWord x.2 a w)

/-- One group of a cycle is solved: the words that no command of the solver has brought are written (R142 to R144). -/
def solveGroup (d : Dev) (m : Mem) (g : SolveGroup) : Dev × Mem :=
  let own := [false, true].filter fun ul => (d.inf Reg.BEAM_CFG).bit (if ul then 0 else 1)
  let sol := if (d.solveLayers g.car).isEmpty then some [] else d.solveC g
  let out := own.map fun ul => d.groupWords m g sol ul
  let ws := out.flatMap Prod.fst ++ own.flatMap fun ul => (d.zeroWords g ul).map fun a => (a, 0)
  let (d, m) := ws.foldl (fun x y => solverPut x y.1 y.2) (d, m)
  let d := d.countBy Reg.BEAM_SAT 31 16 (out.map Prod.snd).sum
  (if sol.isNone then (d.count32 Reg.BEAM_SOLVER_ILL).raise Reg.BEAM_EVT 1 else d, m)

/-- The cutoff of the tick at which the cycle ends (R145 step 3, R146); another instant is none. Where every group is written, what no
command has brought stands as the solve gives it. -/
def solverDeadline (allWritten : Bool) (d : Dev) (m : Mem) : Dev × Mem :=
  if !d.beam.solving || d.cad.frozen || !d.cycleTick d.beam.pEff d.nextNom then (d, m)
  else
    let d := { d with beam := { d.beam with solving := false, lastMiss := !allWritten } }
    if allWritten then
      let (d, m) := d.solveGroups.foldl (fun (x : Dev × Mem) g => solveGroup x.1 x.2 g) (d, m)
      (((d.count32 Reg.BEAM_SOLVER_DONE).solverSwitch false).solverSwitch true, m)
    else ((d.count32 Reg.BEAM_SOLVER_MISS).raise Reg.BEAM_EVT 0, m)

end Sys2Proof.Machine
end

