-- ==== Sys2Proof/Machine/Opcodes.lean ====
section
/-!
DEFINITION. What each opcode of Table 11.4 does at its execution point (R317 to R322). The checks of Table 11.2, the ring,
and the replies stand in Ring; the rows that run a packet stand in Drunas.
-/

namespace Sys2Proof.Machine

/-- Parameter word `i` of a command. -/
def Cmd.p (c : Cmd) (i : Nat) : Word := c.params.getD i 0

/-- The paths of a mask pair, high word first, in ascending order. -/
def pairPaths (hi lo : Word) : List (Fin 64) :=
  (List.finRange 64).filter fun p => if p.val < 32 then lo.getLsbD p.val else hi.getLsbD (p.val - 32)

/-- The last entry for each unit of a list of entries, in the order of the list: of two entries for one unit, the later one is
committed (POWER_STEP). -/
def lastEntries (unit : Word → Nat) : List Word → List Word
  | [] => []
  | w :: ws => if ws.any fun x => unit x == unit w then lastEntries unit ws else w :: lastEntries unit ws

/-! ### System and power (0x0100 to 0x0201) -/

/-- SYS_PING. -/
def opPing : Meaning := fun d m c => (.done 0 c.params, d, m)

/-- SYS_INFO (DEDUCED, log entry 61). -/
def opInfo : Meaning := fun d m _ =>
  let id := Config.siliconId.toNat
  let r3 := ((((0 : Word).put 31 24 d.sec.lifecycle).put 23 16 d.debugLevel).put 15 15 (b2n d.sec.active)).put 8 0 (d.fget Reg.TIME_JOIN 8 0)
  let staged := match d.drunas.staged with | some b => b.version | none => 0
  (.done 0 [BitVec.ofNat 32 (id / 2 ^ 32), BitVec.ofNat 32 id, d.sec.fw, r3, BitVec.ofNat 32 d.sec.rollback, staged], d, m)

/-- SYS_CANCEL (R316): commands of the pending list, and calibrations queued under R203, that have the named TAG. -/
def opCancel : Meaning := fun d m c =>
  let tag := (c.p 0).get 15 0
  let queued := fun (x : Cmd) => d.cal.queue.any fun r => r.cmd == some x.id
  let ends := d.drunas.cmds.filter fun x => x.tag == tag && !x.silent && x.verdict.isNone && (x.stage == .pendList || queued x)
  let ids := ends.map (·.id)
  let mask := fun (x : Cmd) => d.cal.queue.filterMap fun r => if r.cmd = some x.id then some (BitVec.ofNat 32 r.mask : Word) else none
  let d1 := ends.foldl (fun (d : Dev) x =>
    (d.modCmd x.id fun y => { y with stage := .working, time := d.nowNs }).endCmd (some x.id) 0x31 (mask x)) d
  let keep := d1.cal.queue.filter fun r => match r.cmd with | some i => !ids.contains i | none => true
  (.done 0 [BitVec.ofNat 32 ends.length], { d1 with cal := { d1.cal with queue := keep } }, m)

/-- PWR_REQUEST (R453). A TARGET that is no state targets one that the spec leaves open (Table 11.7). -/
def opPwrRequest : Meaning := fun d m c =>
  let t := (c.p 0).get 2 0
  if 1 ≤ t ∧ t ≤ 4 then (.works [], d.requestPower t (some c.id), m)
  else (.works [], d.drew.requestPower (1 + Config.freeNat d.freeCtr % 4) (some c.id), m)

/-- PWR_STATUS. -/
def opPwrStatus : Meaning := fun d m _ =>
  let w := d.powerStatus
  let r0 := (((0 : Word).put 7 7 (w.get 24 24)).put 6 4 (w.get 27 25)).put 2 0 (w.get 31 29)
  (.done 0 [r0, d.rd Reg.POWER_REFUSED, d.rd Reg.POWER_ABORTED, (0 : Word).put 15 0 ((d.rd Reg.POWER_LAST).get 31 16)], d, m)

/-! ### Radio (0x0300 to 0x0320) -/

/-- RADIO_SET_STATE: levels and modes are committed; the tick judges the modes (R60, R451). -/
def opRadioSetState : Meaning := fun d m c =>
  let p0 := c.p 0
  let d := if p0.bit 12 then (List.finRange 4).foldl (fun d t =>
      if p0.bit t.val then
        let a := Reg.TILE_CFG t.val
        let w := (d.rd a).put 1 0 (p0.get 9 8)
        (d.wr a w).commitWord c.by_ a w
      else d) d
    else d
  let changed := fun (n : Nat) => if n < 32 then (c.p 2).get (n + 7) n else (c.p 1).get (n - 25) (n - 32)
  let d := (List.range 4).foldl (fun d t =>
    let w := c.p (3 + t)
    let d := if changed (16 * t) = 0 then d
      else d.writeModes c.by_ (Reg.TILE_PATH_MODE_LO t) (BitVec.ofNat 32 (w.get 15 0)) (changed (16 * t))
    if changed (16 * t + 8) = 0 then d
      else d.writeModes c.by_ (Reg.TILE_PATH_MODE_HI t) (BitVec.ofNat 32 (w.get 31 16)) (changed (16 * t + 8))) d
  (.commits [], d, m)

/-- CARRIER_CONFIG: judged with the rest of the configuration as most recently committed (R120). -/
def opCarrierConfig : Meaning := fun d m c =>
  let ks := (List.range 4).filter fun k => (c.p 0).bit k
  let n := fun (k : Nat) => 1 + 4 * (ks.findIdx fun x => x == k)
  let cars := (List.range 4).map fun k =>
    if ks.contains k then (c.p (n k), c.p (n k + 1)) else (d.rd (Reg.BEAM_CAR_CFG k), d.rd (Reg.BEAM_CAR_NCO k))
  if configValid ((d.rd Reg.CADENCE_CFG).get 1 0) (d.rd Reg.BEAM_CFG) cars then
    let d := ks.foldl (fun d k =>
      (((d.writeFields c.by_ (Reg.BEAM_CAR_CFG k) (c.p (n k))).writeFields c.by_ (Reg.BEAM_CAR_NCO k) (c.p (n k + 1))).writeFields
        c.by_ (Reg.BEAM_CAR_LDL k) (c.p (n k + 2))).writeFields c.by_ (Reg.BEAM_CAR_LUL k) (c.p (n k + 3))) d
    (.commits [], d, m)
  else (.done 0x11 [], d, m)

/-- POWER_STEP (R82). -/
def opPowerStep : Meaning := fun d m c =>
  let es := (c.params.drop 1).take ((c.p 0).get 6 0)
  let d := (lastEntries (fun w => w.get 29 24) es).foldl (fun (d : Dev) (e : Word) =>
    let p := e.get 29 24
    let a := Reg.TILE_PIDX (p / 16) (p % 16)
    let w := (d.rd a).put 9 0 (e.get 9 0)
    (d.wr a w).commitWord c.by_ a w) d
  (.commits [], d, m)

/-! ### Beamforming (0x0400 to 0x0410) -/

/-- BEAM_MODE writes the whole of BEAM_CFG. -/
def opBeamMode : Meaning := fun d m c => (.commits [], d.writeFields c.by_ Reg.BEAM_CFG (c.p 0), m)

/-- What follows the last word of a BEAM_LOAD (R139): the switch and the copy that it asks for, and its results. The mask is
that of the reply's time. -/
def loadEnds (d : Dev) (c : Cmd) (words : Nat) : Exec × Dev :=
  let ul := (c.p 0).bit 31
  let switch := (c.p 0).bit 30
  let bank := d.inactiveBank ul
  let bit := if ul then 0 else 1
  let rs := d.loadResult ul switch words
  let land := d.nextLanding
  let d := if switch then
      let w := (d.rd Reg.BEAM_BANK).put bit bit (b2n bank)
      (d.swr c.by_ Reg.BEAM_BANK w).commit c.by_ (.beamBank ul) [(Reg.BEAM_BANK, w, BitVec.twoPow 32 bit)] (b2n bank)
    else d
  let d := if (c.p 0).bit 29 then
      if switch then { d with beam := { d.beam with mirrorAt := some (if d.ticking then land else d.cad.tickIdx) } }
      else d.startMirror
    else d
  (if switch then .commits rs else .done 0 rs, d)

/-- The Ashlar addresses of an inline load. A slot, antenna or layer past its limit reaches words of the inactive bank that the
spec leaves open (Table 11.7). -/
def inlineAddrs (d : Dev) (ul : Bool) (w0 w1 : Word) (n : Nat) : List Nat × Dev :=
  let bank := d.inactiveBank ul
  let ants := w1.get 25 19
  if w0.get 14 5 < 640 ∧ w1.get 31 26 + ants ≤ 64 ∧ w0.get 4 0 + w1.get 18 13 ≤ 32 then
    ((List.range n).map fun i => ashlarAddr bank ul (w0.get 14 5) (w0.get 4 0 + i / ants) (w1.get 31 26 + i % ants), d)
  else
    ((List.range n).map fun i => ashlarAddr bank ul 0 0 0 + 4 * (Config.freeNat (d.freeCtr + i) % 1310720), { d with freeCtr := d.freeCtr + n })

/-- BEAM_LOAD (R139, R293): inline words are written at once; otherwise it awaits MSGS messages with its TAG, of which some may
have come since it entered the ring. -/
def opBeamLoad : Meaning := fun d m c =>
  let ul := (c.p 0).bit 31
  if (d.inf Reg.BEAM_CFG).bit (if ul then 0 else 1) then (.done 0x10 [], d, m)
  else if (c.p 0).bit 28 then
    let ws := c.params.drop 3
    let (as, d) := inlineAddrs d ul (c.p 1) (c.p 2) ws.length
    let (d, m) := (as.zip ws).foldl (fun (x : Dev × Mem) (y : Nat × Word) => ashlarPut x.1 x.2 .weightLoad y.1 (leBytes y.2)) (d, m)
    let (r, d) := loadEnds d c ws.length
    (r, d, m)
  else if c.aux.getD 2 0 = 1 then (.done 0x10 [], d, m)
  else if (c.p 0).get 9 0 ≤ c.aux.getD 0 0 then
    let (r, d) := loadEnds d c (c.aux.getD 1 0)
    (r, d, m)
  else (.works c.aux, d, m)

/-- Whether admission surely accepts the solve (R147): the cluster is at OP3 with nothing else admitted, and the cycle is no
shorter than what full load needs: 1 ms for groups of 8 PRBs or more, 2 ms for groups of 4 (DESIGN CHOICE, log entry 37). -/
def solverSure (d : Dev) (period : Nat) : Bool :=
  let g := groupSize (d.inf Reg.BEAM_CFG)
  d.opAdm == 3 && d.chisel.kernels.isEmpty && d.coresInService == 16 &&
    decide ((8 ≤ g ∧ 14 * 2 ^ d.mu ≤ period) ∨ (4 ≤ g ∧ 28 * 2 ^ d.mu ≤ period))

/-- SOLVER_CONFIG (R147). What the solve takes of the cluster is not given but for full load. An accepted one ends STOPPED
(DESIGN CHOICE, log entry 37). -/
def opSolverConfig : Meaning := fun d m c =>
  let new := ((d.writeFields c.by_ Reg.BEAM_SOLVER_CFG (c.p 0)).writeFields c.by_ Reg.BEAM_SOLVER_REG (c.p 1)).writeFields c.by_
    Reg.BEAM_SOLVER_PIVOT (c.p 2)
  let new := { new with beam := { new.beam with stopped := false } }
  if !solverSure d (max 1 ((c.p 0).get 27 16)) && new.solverOn && !new.solverFits then (.done 0x11 [], d, m)
  else
    let ls := (List.range 32).filter fun l => (c.p 3).getLsbD l
    (.done 0 [], (ls.zip (c.params.drop 4)).foldl (fun d (x : Nat × Word) => d.writeFields c.by_ (Reg.BEAM_SOLVER_POW x.1) x.2) new, m)

/-! ### Linearisation (0x0500 and 0x0501) -/

/-- The parts of a DPD_CONFIG: first index behind the global words, paths, their configuration words, their adjacency words. -/
def dpdParts (c : Cmd) : List (Fin 64 × Word) × List (Fin 64 × Word) :=
  let g := if (c.p 0).bit 31 then 3 else 1
  let ps := pairPaths (c.p g) (c.p (g + 1))
  let cfg := if (c.p 0).bit 30 then ps.zip (c.params.drop (g + 2)) else []
  let rest := if (c.p 0).bit 30 then ps.length else 0
  (cfg, if (c.p 0).bit 29 then ps.zip (c.params.drop (g + 2 + rest)) else [])

/-- The bits of DPD_PATHp_CFG that land at ticks. -/
def pathTickBits : Word := 0xF0000000#32

/-- The parts of a DPD_CONFIG that are not tick-bound: DPD_CFG and the adaptation modes. -/
def Dev.dpdRest (d : Dev) (c : Cmd) : Dev :=
  let d := if (c.p 0).bit 31 then d.writeFields c.by_ Reg.DPD_CFG (c.p 1) else d
  (dpdParts c).1.foldl (fun d (x : Fin 64 × Word) =>
    let a := Reg.DPD_PATH_CFG x.1.val
    let was := d.amode x.1
    let d := (d.wr a (d.fieldWrite c.by_.rank a ((d.rd a &&& pathTickBits) ||| (x.2 &&& ~~~pathTickBits)))).noteWrite a c.by_.rank
    d.writeAmode x.1 (d.amode x.1 != was)) d

/-- DPD_CONFIG. Its tick-bound parts are committed; the others act at the execution point, which for TIMING 1 and 2 is the
landing tick (R313). `aux` keeps that a rest is left, and its tick (DEDUCED, log entry 70). -/
def opDpdConfig : Meaning := fun d m c =>
  let d := if (c.p 0).bit 31 then d.writeFields c.by_ Reg.DPD_SEL_THR (c.p 2) else d
  let (cfg, adj) := dpdParts c
  let d := cfg.foldl (fun d (x : Fin 64 × Word) =>
    let a := Reg.DPD_PATH_CFG x.1.val
    let d := d.wr a ((d.rd a &&& ~~~pathTickBits) ||| (x.2 &&& pathTickBits))
    (d.commit c.by_ (.dpdBank x.1) [(a, x.2, 0x30000000#32)] (x.2.get 29 28)).commit c.by_ (.word a) [(a, x.2, 0xC0000000#32)] 0) d
  let d := adj.foldl (fun d (x : Fin 64 × Word) => d.writeFields c.by_ (Reg.DPD_PATH_ADJ x.1.val) x.2) d
  if c.timing = 0 ∨ !d.cad.running then (.commits [], d.dpdRest c, m)
  else (.commits [], d.modCmd c.id fun y => { y with aux := [1, d.nextLanding] }, m)

/-- DPD_BANK_SELECT (R165). -/
def opDpdBankSelect : Meaning := fun d m c =>
  let ps := pairPaths (c.p 0) (c.p 1)
  if ps.any fun p => (d.rd (Reg.DPD_PATH_CFG p.val)).bit 30 then (.done 0x10 [], d.raise Reg.DPD_EVT 5, m)
  else
    let b := (c.p 2).get 1 0
    let d := ps.foldl (fun d p =>
      let a := Reg.DPD_PATH_CFG p.val
      let w := (d.rd a).put 29 28 b
      (d.wr a w).commit c.by_ (.dpdBank p) [(a, w, 0x30000000#32)] b) d
    (.commits [], d, m)

/-! ### Capture SRAM in use (R318, Table 11.7) -/

/-- The part that two ranges share. -/
def overlap (a n b k : Nat) : Option (Nat × Nat) :=
  let lo := max a b
  let hi := min (a + n) (b + k)
  if lo < hi then some (lo, hi - lo) else none

/-- A command uses a range of capture SRAM; overlaps with ranges in use are noted for both users. -/
def Dev.useRange (d : Dev) (id lo n : Nat) : Dev :=
  d.modDrunas fun x => { x with
    ranges := x.ranges ++ [(id, lo, n)]
    clash := x.clash ++ x.ranges.flatMap fun (r : Nat × Nat × Nat) =>
      match overlap lo n r.2.1 r.2.2 with
      | some (a, k) => [(id, a, k), (r.1, a, k)]
      | none => [] }

/-- The contents of a command's overlaps become free values. -/
def spoilOverlaps (d : Dev) (m : Mem) (id : Nat) : Dev × Mem :=
  (d.drunas.clash.filter fun (r : Nat × Nat × Nat) => r.1 == id).foldl (fun (x : Dev × Mem) (r : Nat × Nat × Nat) =>
    ({ x.1 with freeCtr := x.1.freeCtr + r.2.2 },
     Mem.setBytes x.2 r.2.1 ((List.range r.2.2).map fun i => BitVec.ofNat 8 (Config.freeNat (x.1.freeCtr + i))))) (d, m)

/-- The first byte of capture SRAM, and the first one past the half that commands name (R318). -/
def captureBase : Nat := 0x03400000
def captureHalf : Nat := 0x03800000
def captureEnd : Nat := 0x03C00000

/-! ### Calibration (0x0600 to 0x0610) -/

/-- CAL_RUN (R203). A code outside Table 7.7 runs a calibration that the spec leaves open, if any (Table 11.7)
(DEDUCED, log entry 61). -/
def opCalRun : Meaning := fun d m c =>
  let code := (c.p 0).get 7 0
  let mask := (c.p 0).get 11 8
  let known := decide (1 ≤ code ∧ code ≤ 7)
  let pick := if known then code else Config.freeNat d.freeCtr % 8
  let d := if known then d else d.drew
  if mask = 0 ∨ pick = 0 then (.done 0 [0], d, m)
  else match d.requestCal pick mask (some c.id) with
    | some d => (.works [], d, m)
    | none => (.done 0x11 [], d, m)

/-- Whether a snapshot or a restore of a command runs (R315). -/
def Dev.snapBusy (d : Dev) : Bool := d.cal.snap.isSome || d.cal.restore.isSome

/-- CAL_SNAPSHOT (R212, R318) (DEDUCED, log entry 60). -/
def opCalSnapshot : Meaning := fun d m c =>
  let mram := !(c.p 0).bit 31
  let at_ := captureBase + (c.p 1).toNat
  let len := d.snapImage.length
  if d.snapBusy || (!mram && decide (captureHalf < at_ + len)) then (.done 0x11 [], d, m)
  else
    let d := if mram then d else d.useRange c.id at_ len
    let s : Snapshot := { cmd := some c.id, mram := mram, dest := if mram then (c.p 0).get 1 0 else at_, at_ := d.cad.tickIdx, image := none }
    (.works [], { d with cal := { d.cal with snap := some s } }, m)

/-- CAL_RESTORE (R213, R318) (DEDUCED, log entry 60). -/
def opCalRestore : Meaning := fun d m c =>
  let mram := !(c.p 0).bit 31
  let at_ := captureBase + (c.p 1).toNat
  if d.snapBusy || (!mram && decide (captureHalf ≤ at_)) then (.done 0x11 [], d, m)
  else
    let len := (Mem.word m (at_ + 8)).toNat
    let d := if mram then d else d.useRange c.id at_ (min len (captureHalf - at_))
    let (d, m) := spoilOverlaps d m c.id
    let img := if mram then slotImage m ((c.p 0).get 1 0) else Mem.bytes m at_ (captureHalf - at_)
    if imageAccepted img then (.works [], d.restoreImage (some c.id) img, m) else (.done 0x10 [], d, m)

/-- QUIET_MAP (R195): every word of the map is staged, those not sent as 0. -/
def opQuietMap : Meaning := fun d m c =>
  let d := (List.range 70).foldl (fun d i => d.stage (Reg.CAL_QMAP i) (c.p (1 + i))) d
  (.commits [], d.commitQuietMap c.by_ (c.p 0), m)

/-! ### Time (0x0700 to 0x0702) -/

/-- TIME_STEP (R334). -/
def opTimeStep : Meaning := fun d m c =>
  let abs := (c.p 0).bit 31
  let ns : Nat := (c.p 1).toNat * 2 ^ 32 + (c.p 2).toNat
  let whole : Int := if abs then (ns : Int) else signed 64 ns
  (.works [], d.requestStep abs (whole * (fracScale : Int) + ((c.p 3).toNat : Int)) (some c.id), m)

/-- TIME_SCHEDULE (R340 to R344). -/
def opTimeSchedule : Meaning := fun d m c =>
  let s : Fin 32 := ⟨(c.p 0).get 28 24 % 32, by omega⟩
  let d := ((d.wr (Reg.TIME_SCHED_HI s.val) ((0 : Word).put 15 0 ((c.p 1).get 15 0))).wr (Reg.TIME_SCHED_LO s.val) (c.p 2)).wr
    (Reg.TIME_SCHED_ARG s.val) (c.p 3)
  if (c.p 0).bit 31 then
    let (d, late) := d.armSlot s ((c.p 0).get 19 16) 0 c.spi
    (.done (if late then 2 else 0) [], d, m)
  else (.done 0 [], d.writeSlot s ((0 : Word).put 19 16 ((c.p 0).get 19 16)) c.spi, m)

/-- TIME_STATUS. -/
def opTimeStatus : Meaning := fun d m _ =>
  (.done 0 (timeWords d.nowNs ++ [BitVec.ofNat 32 (d.time.now % fracScale), d.rd Reg.TIME_EPOCH, d.timeStatus, d.holdAge]), d, m)

/-! ### Bias (0x0800 and 0x0801) -/

/-- The entries of a bias command: the later of two for one output, and no output past 95. -/
def biasEntries (c : Cmd) : List Word :=
  (lastEntries (fun w => w.get 30 24) ((c.params.drop 1).take ((c.p 0).get 6 0))).filter fun w => decide (w.get 30 24 < 96)

/-- BIAS_SET (R355, R524). -/
def opBiasSet : Meaning := fun d m c =>
  if !d.bias.linkUp then (.done 0x10 [], d, m)
  else (.commits [], (biasEntries c).foldl (fun d w =>
    d.commitCode c.by_ (toOut (w.get 30 24)) (((0 : Word).put 27 16 (w.get 23 12)).put 11 0 (w.get 11 0))) d, m)

/-- BIAS_SPAN (R356, R524). -/
def opBiasSpan : Meaning := fun d m c =>
  if !d.bias.linkUp then (.done 0x10 [], d, m)
  else (.commits [], (biasEntries c).foldl (fun d w =>
    let n := toOut (w.get 30 24)
    let a := Reg.BIAS_OUT_CFG n.val
    let v := (d.rd a).put 31 30 (w.get 1 0)
    (d.wr a v).commit c.by_ (.biasSpan n) [(a, v, 0xC0000000#32)] (w.get 1 0)) d, m)

/-! ### Faults (0x0900 to 0x0902, 0x0B20) -/

/-- FAULT_QUERY. Result words past source 255 are free values (Table 11.7). -/
def opFaultQuery : Meaning := fun d m c =>
  let first := (c.p 0).get 7 0
  let n := (c.p 0).get 15 8 + 1
  let ws := (List.range n).map fun i => if first + i < 256 then d.srcStatus (toSrc (first + i)) else Config.freeWord (d.freeCtr + i)
  (.done 0 (d.rd Reg.SUMP_FIRST_INFO :: ws), { d with freeCtr := d.freeCtr + n }, m)

/-- PATH_RETIRE (R416, R417): logged, its history cleared, and its retirement committed. -/
def opPathRetire : Meaning := fun d m c =>
  match d.unitNamed (c.p 0) with
  | (none, d) => (.done 0 [], d, m)
  | (some (kind, i), d) =>
    if kind = 8 ∧ d.lastLane i then (.done 0x11 [], d, m)
    else
      let ns := sourcesOfUnit kind i
      let d := ns.foldl (fun d n => d.modSrc n fun s => { s with times := [] }) (d.log 3 (ns.headD 0).val kind i 0 0)
      (.commits [], d.commandRetire c.by_ kind i, m)

/-- PATH_RESTORE (R417): its BIST begins, unless the unit is in service or Table 15.6 refuses. -/
def opPathRestore : Meaning := fun d m c =>
  match d.unitNamed (c.p 0) with
  | (none, d) => (.done 0 [0], d, m)
  | (some (kind, i), d) =>
    if !d.unitRetired kind i then (.done 0x10 [], d, m)
    else
      let r := d.bistRefusal m kind i
      if r ≠ 0 then (.done r [], d, m) else (.works [kind, i], d.bistBegin kind i, m)

/-- BIST_RUN (R434). -/
def opBistRun : Meaning := fun d m c =>
  match d.unitNamed (c.p 0) with
  | (none, d) => (.done 0 [0], d, m)
  | (some (kind, i), d) =>
    let r := d.bistRefusal m kind i
    if r ≠ 0 then (.done r [], d, m) else (.works [kind, i], d.bistBegin kind i, m)

/-! ### Firmware, security (0x0A00 to 0x0A20) -/

/-- Whether FW_ACTIVATE is pending. -/
def Dev.activatePending (d : Dev) : Bool := d.cad.changes.any fun x => x.key == .fwActivate

/-- FW_STAGE (R320). -/
def opFwStage : Meaning := fun d m c =>
  if d.activatePending || d.drunas.handover then (.done 0x10 [], d, m)
  else if d.drunas.cmds.any fun x => x.id != c.id && x.opcode == 0xA00 && x.stage == .working && x.verdict.isNone then (.done 0x11 [], d, m)
  else (.works [(c.p 0).toNat, (c.p 1).toNat], d.modDrunas fun x => { x with staged := none }, m)

/-- FW_ACTIVATE (R321). -/
def opFwActivate : Meaning := fun d m c =>
  if d.drunas.staged.isNone then (.done 0x10 [], d, m) else (.commits [], d.commit c.by_ .fwActivate [] 0, m)

/-- The challenge of DEBUG_UNLOCK (R474). -/
def opUnlockChallenge : Meaning := fun d m c =>
  match d.challenge ((c.p 0).get 1 0) true with
  | some (n, d) => (.done 0 (beWords n), d, m)
  | none => (.done 0x12 [], d, m)

/-- The response of DEBUG_UNLOCK (R474). -/
def opUnlockResponse : Meaning := fun d m c =>
  let (d, ok) := d.response ((c.p 0).get 1 0) c.params
  (.done (if ok then 0 else 0x12) [], d, m)

/-- The close of DEBUG_UNLOCK (R474). -/
def opUnlockClose : Meaning := fun d m _ => (.done 0 [], d.closeSession, m)

/-- DEBUG_UNLOCK with a step that R474 does not name: nothing happens, and the status is a free choice (DESIGN CHOICE, log entry 40). -/
def opUnlockOther : Meaning := fun d m _ => (.done ([0, 0x10, 0x12].getD (Config.freeNat d.freeCtr % 3) 0) [], d.drew, m)

/-- DEBUG_UNLOCK by its step. -/
def opUnlock : Meaning := fun d m c =>
  match (c.p 0).get 31 30 with
  | 0 => opUnlockChallenge d m c
  | 1 => opUnlockResponse d m c
  | 2 => opUnlockClose d m c
  | _ => opUnlockOther d m c

/-- Whether the authority of Table 17.2 for a transition verifies, with the challenge used up: none is needed from FACTORY to
OWNED. -/
def Dev.authority (d : Dev) (to_ : Nat) (ps : List Word) : Bool :=
  if d.sec.lifecycle = 0 ∧ to_ = 1 then ps.length == 21
  else
    let (pub, sig) := responseKey ps
    match d.sec.nonce with
    | some n => ps.length == 50 && d.keyVerifies pub && Config.sigVerify pub (d.unlockMessage n none (some to_)) sig
    | none => false

/-- LIFECYCLE (R463, R474): its challenge, or a transition of Table 17.2. The target's code is read from P0 [2:0] (log entry
41) (PRESUMED, log entry 41) (DEDUCED, log entry 63). -/
def opLifecycle : Meaning := fun d m c =>
  if (c.p 0).get 31 30 = 0 ∧ c.params.length = 1 then
    match d.challenge 0 false with
    | some (n, d) => (.done 0 (beWords n), d, m)
    | none => (.done 0x12 [], d, m)
  else
    let to_ := (c.p 0).get 2 0
    if !lcStep d.sec.lifecycle to_ then (.done 0x10 [], d, m)
    else if !d.authority to_ c.params then (.done 0x12 [], d.unlockFail, m)
    else
      let d := { d with sec := { d.sec with nonce := none } }
      if d.power.dev = 4 ∨ d.sec.lcNext.isSome then (.done 0x10 [], d, m)
      else (.done 0 [], d.burn to_ (some (((c.params.drop 1).take 12).flatMap beBytes)) (some (((c.params.drop 13).take 8).flatMap beBytes)), m)

/-! ### Capture and Chisel (0x0B00, 0x0B10) -/

/-- Captures of commands in progress (R315). -/
def Dev.capturesRunning (d : Dev) (id : Nat) : Nat :=
  d.drunas.cmds.countP fun x => x.id != id && x.opcode == 0xB00 && x.stage == .working && x.verdict.isNone && !x.silent

/-- CAPTURE begins (R318, R319): `aux` keeps source, destination, path, samples, first address, local time of the first sample
and whether the samples are zero because the path does not receive or transmit (DEDUCED, log entry 59). -/
def opCapture : Meaning := fun d m c =>
  let src := (c.p 0).get 31 28
  let p := toPath ((c.p 0).get 7 0)
  let n := (c.p 1).toNat
  let at_ := captureBase + (c.p 2).toNat
  let mode := d.paths[p].mode
  let zero := (src == 1 && mode != 1) || ((src == 2 || src == 3) && mode != 2)
  if (!c.silent && decide (2 ≤ d.capturesRunning c.id)) || decide (captureHalf ≤ at_ ∨ captureEnd < at_ + 4 * n) then (.done 0x11 [], d, m)
  else if n = 0 then (.done 0 [0], d, m)
  else
    let d := d.useRange c.id at_ (4 * n)
    let d := if src = 0 then { d with dpd := { d.dpd with wantHost := d.dpd.wantHost ++ [(p.val, c.id)] } } else d
    (.works [src, b2n ((c.p 0).bit 27), p.val, n, at_, d.time.now, b2n zero], d, m)

/-- CHISEL_LOAD of an image (R240, R246): it ends itself. -/
def opChiselLoad : Meaning := fun d m c =>
  let (d, m) := chiselLoadAt d m c.id (c.p 1).toNat false
  (.works [], d, m)

/-- CHISEL_LOAD with UNLOAD (R247). -/
def opChiselUnload : Meaning := fun d m c =>
  let h := (c.p 0).get 15 0
  if d.chisel.kernels.any fun (k : Kernel) => k.user && k.handle == h then (.commits [], d.commit c.by_ (.chiselUnload h) [] 0, m)
  else (.done 0x10 [], d, m)

/-- CHISEL_LOAD by its form. -/
def opChisel : Meaning := fun d m c => if (c.p 0).bit 31 then opChiselUnload d m c else opChiselLoad d m c

/-! ### The table -/

/-- The meaning of an opcode of Table 11.4. -/
def meaningOf (op : Nat) : Meaning :=
  match op with
  | 0x100 => opPing
  | 0x101 => opInfo
  | 0x102 => opCancel
  | 0x200 => opPwrRequest
  | 0x201 => opPwrStatus
  | 0x300 => opRadioSetState
  | 0x310 => opCarrierConfig
  | 0x320 => opPowerStep
  | 0x400 => opBeamMode
  | 0x401 => opBeamLoad
  | 0x410 => opSolverConfig
  | 0x500 => opDpdConfig
  | 0x501 => opDpdBankSelect
  | 0x600 => opCalRun
  | 0x601 => opCalSnapshot
  | 0x602 => opCalRestore
  | 0x610 => opQuietMap
  | 0x700 => opTimeStep
  | 0x701 => opTimeSchedule
  | 0x702 => opTimeStatus
  | 0x800 => opBiasSet
  | 0x801 => opBiasSpan
  | 0x900 => opFaultQuery
  | 0x901 => opPathRetire
  | 0x902 => opPathRestore
  | 0xA00 => opFwStage
  | 0xA01 => opFwActivate
  | 0xA10 => opUnlock
  | 0xA20 => opLifecycle
  | 0xB00 => opCapture
  | 0xB10 => opChisel
  | _ => opBistRun

/-- Whether a command commits tick-bound changes. -/
def tickBound (op : Nat) (ps : List Word) : Bool :=
  match op with
  | 0x300 => true
  | 0x310 => true
  | 0x320 => true
  | 0x400 => true
  | 0x401 => (ps.getD 0 0).bit 30
  | 0x500 => true
  | 0x501 => true
  | 0x610 => true
  | 0x800 => true
  | 0x801 => true
  | 0x901 => true
  | 0xA01 => true
  | 0xB10 => (ps.getD 0 0).bit 31
  | _ => false

end Sys2Proof.Machine
end

