-- ==== Sys2Proof/Machine/Drunas.lean ====
section
/-!
DEFINITION. The rows of the Drunas command set: each runs the packet at the head of the ring where it is of its opcode (R312,
R313), or ends work in progress (R315 to R323).
-/

namespace Sys2Proof.Machine

/-! ### Execution points (R313, R314) -/

/-- The first tick at or after the time of a TIMING 2 command: the most recent tick where that time has been reached by it
(DEDUCED, log entry 64). -/
def Dev.targetOf (d : Dev) (c : Cmd) : Nat :=
  let ns := ((d.nowNs : Int) + d.timeDiff c.execTime).toNat
  if ns * fracScale ≤ sampTime d.cad.nom then d.cad.tickIdx else d.tickAtNs ns

/-- Whether the time of a command has passed by less than 2^47 ns (R314) (DEDUCED, log entry 64). -/
def Dev.isPast (d : Dev) (c : Cmd) : Bool := decide (-140737488355328 < d.timeDiff c.execTime ∧ d.timeDiff c.execTime < 0)

/-- Whether a command targets a tick: it commits tick-bound changes, and ticks run (DEDUCED, log entry 42). -/
def Dev.onTick (d : Dev) (c : Cmd) : Bool := d.ticking && tickBound c.opcode c.params

/-- Timebase cycles until a pending command is due: 0.5 µs before the cutoff of its tick, or at its time; none where it is not
due before the cadence unit acts (DEDUCED, log entry 42). -/
def Dev.dueIn (d : Dev) (c : Cmd) : Option Nat :=
  if c.late then some 0
  else if d.onTick c then
    let t := d.targetOf c
    if t ≤ d.cad.tickIdx ∨ (t = d.cad.tickIdx + 1 ∧ d.cad.frozen) then some 0
    else
      let n := d.toEdge - (d.leadCycles + nsCycles 500)
      if t = d.cad.tickIdx + 1 ∧ d.canPass n then some n else none
  else if d.isPast c then some 0
  else if d.timeDiff c.execTime < 0 then none
  else
    match d.cyclesTo (d.timeDiff c.execTime).toNat with
    | some n => if d.canPass n then some n else none
    | none => none

/-- Commands of the pending list. -/
def Dev.pendList (d : Dev) : List Cmd := d.drunas.cmds.filter fun c => c.stage == .pendList

/-- The pending command that is due first, with the cycles until then. -/
def firstDue (d : Dev) : List Cmd → Option (Nat × Cmd)
  | [] => none
  | c :: cs =>
    match d.dueIn c, firstDue d cs with
    | some n, some (k, x) => if k < n then some (k, x) else some (n, c)
    | some n, none => some (n, c)
    | none, r => r

/-- Whether the cycle in which a pending command was due has gone by: the cycle before this one had reached its time. -/
def Dev.missed (d : Dev) (c : Cmd) : Bool :=
  d.isPast c && decide (d.time.inc ≤ (d.timeDiff c.execTime).natAbs * fracScale + d.time.now % fracScale)

/-- A TIMING 2 command executes. One without a tick whose cycle has gone by is late (R314, R321). -/
def executeTimed (f : Meaning) (d : Dev) (m : Mem) (id : Nat) : Dev × Mem :=
  match d.cmd? id with
  | none => (d, m)
  | some c =>
    if d.onTick c then runMeaning f d m id (some (d.targetOf c))
    else runMeaning f (if d.missed c then d.modCmd id fun x => { x with late := true } else d) m id none

/-- An accepted command goes to its execution point (R313): it executes now, at a seam midpoint, or from the pending list
(DEDUCED, log entry 48). -/
def startCommand (f : Meaning) (d : Dev) (m : Mem) (c : Cmd) : Dev × Mem :=
  if c.timing = 1 ∧ d.cad.running ∧ ¬ tickBound c.opcode c.params then
    ((d.openCmd { c with stage := .nextMid, execTime := d.nextLanding }).interim c.id (d.tickNs d.nextLanding), m)
  else if c.timing = 2 then
    if d.isPast c then executeTimed f (d.openCmd { c with late := true }) m c.id
    else if d.dueIn c = some 0 then executeTimed f (d.openCmd c) m c.id
    else if 64 ≤ d.pendList.length then (d.reply c.spi c.auth c.opcode c.tag 0x11 0 d.nowNs true [], m)
    else
      ((d.openCmd { c with stage := .pendList }).interim c.id (if d.onTick c then d.tickNs (d.targetOf c) else 0), m)
  else runMeaning f (d.openCmd c) m c.id none

/-- The command that a packet with good checks is. `aux` begins with the weight-load messages counted for it. -/
def commandOf (d : Dev) (p : Packet) (ps : List Word) (auth : Bool) : Cmd :=
  let w0 := p.words.getD 0 0
  let w1 := p.words.getD 1 0
  { id := d.drunas.nextId, opcode := p.opcode, tag := w0.get 15 0, spi := p.spi, auth := auth, finalOnly := w1.bit 2,
    timing := if w1.get 1 0 = 3 then 0 else w1.get 1 0,
    execTime := (p.words.getD 2 0).toNat * 2 ^ 32 + (p.words.getD 3 0).toNat, params := ps, stage := .working, total := 0,
    lost := 0, late := false, refused := false, results := [], time := d.nowNs, aux := [p.loads, p.loadWords, b2n p.loadRefused],
    silent := false, verdict := none }

/-- A core test that begins while no ticks run vacates its core at once. -/
def coreTestsNow (x : Dev × Mem) : Dev × Mem := if x.1.ticking then x else coreTestsTick x.1 x.2

/-- The packet at the head of the ring executes, where it has an opcode and parameters of the row's form. A packet that fails a
check of Table 11.2 executes nothing and has its failure as its reply. -/
def headCommand (op : Nat) (form : List Word → Bool) (f : Meaning) (d : Dev) (m : Mem) : Dev × Mem :=
  match d.drunas.ring with
  | [] => (d, m)
  | p :: _ =>
    if !d.processorRuns || p.regAccess || p.opcode != op then (d, m)
    else
      match d.checkPacket p with
      | (.fail status auth, d') => (d'.popRing.failReply p status auth, m)
      | (.pass ps auth, d') => if form ps then coreTestsNow (startCommand f d'.popRing m (commandOf d' p ps auth)) else (d, m)

/-- A row of an opcode with one form. -/
def opRow (op : Nat) (f : Meaning) (s : State) : Out := onSettled s (headCommand op (fun _ => true) f)

/-- 0x0100. -/
def execSysPing (s : State) : Out := opRow 0x100 opPing s
/-- 0x0101. -/
def execSysInfo (s : State) : Out := opRow 0x101 opInfo s
/-- 0x0102. -/
def execSysCancel (s : State) : Out := opRow 0x102 opCancel s
/-- 0x0200. -/
def execPwrRequest (s : State) : Out := opRow 0x200 opPwrRequest s
/-- 0x0201. -/
def execPwrStatus (s : State) : Out := opRow 0x201 opPwrStatus s
/-- 0x0300. -/
def execRadioSetState (s : State) : Out := opRow 0x300 opRadioSetState s
/-- 0x0310. -/
def execCarrierConfig (s : State) : Out := opRow 0x310 opCarrierConfig s
/-- 0x0320. -/
def execPowerStep (s : State) : Out := opRow 0x320 opPowerStep s
/-- 0x0400. -/
def execBeamMode (s : State) : Out := opRow 0x400 opBeamMode s
/-- 0x0401. -/
def execBeamLoad (s : State) : Out := opRow 0x401 opBeamLoad s
/-- 0x0410. -/
def execSolverConfig (s : State) : Out := opRow 0x410 opSolverConfig s
/-- 0x0500. -/
def execDpdConfig (s : State) : Out := opRow 0x500 opDpdConfig s
/-- 0x0501. -/
def execDpdBankSelect (s : State) : Out := opRow 0x501 opDpdBankSelect s
/-- 0x0600. -/
def execCalRun (s : State) : Out := opRow 0x600 opCalRun s
/-- 0x0601. -/
def execCalSnapshot (s : State) : Out := opRow 0x601 opCalSnapshot s
/-- 0x0602. -/
def execCalRestore (s : State) : Out := opRow 0x602 opCalRestore s
/-- 0x0610. -/
def execQuietMap (s : State) : Out := opRow 0x610 opQuietMap s
/-- 0x0700. -/
def execTimeStep (s : State) : Out := opRow 0x700 opTimeStep s
/-- 0x0701. -/
def execTimeSchedule (s : State) : Out := opRow 0x701 opTimeSchedule s
/-- 0x0702. -/
def execTimeStatus (s : State) : Out := opRow 0x702 opTimeStatus s
/-- 0x0800. -/
def execBiasSet (s : State) : Out := opRow 0x800 opBiasSet s
/-- 0x0801. -/
def execBiasSpan (s : State) : Out := opRow 0x801 opBiasSpan s
/-- 0x0900. -/
def execFaultQuery (s : State) : Out := opRow 0x900 opFaultQuery s
/-- 0x0901. -/
def execPathRetire (s : State) : Out := opRow 0x901 opPathRetire s
/-- 0x0902. -/
def execPathRestore (s : State) : Out := opRow 0x902 opPathRestore s
/-- 0x0A00. -/
def execFwStage (s : State) : Out := opRow 0xA00 opFwStage s
/-- 0x0A01. -/
def execFwActivate (s : State) : Out := opRow 0xA01 opFwActivate s
/-- 0x0A20. -/
def execLifecycle (s : State) : Out := opRow 0xA20 opLifecycle s
/-- 0x0B00. -/
def execCapture (s : State) : Out := opRow 0xB00 opCapture s
/-- 0x0B20. -/
def execBistRun (s : State) : Out := opRow 0xB20 opBistRun s

/-- Whether the first parameter names step `k` of DEBUG_UNLOCK. -/
def unlockStep (k : Nat) (ps : List Word) : Bool := (ps.getD 0 0).get 31 30 == k

/-- 0x0A10, the challenge; a step that R474 does not name is taken by this row too. -/
def execDebugUnlockChallenge (s : State) : Out :=
  onSettled s (headCommand 0xA10 (fun ps => unlockStep 0 ps || unlockStep 3 ps) opUnlock)

/-- 0x0A10, the response. -/
def execDebugUnlockResponse (s : State) : Out := onSettled s (headCommand 0xA10 (unlockStep 1) opUnlock)

/-- 0x0A10, the close. -/
def execDebugUnlockClose (s : State) : Out := onSettled s (headCommand 0xA10 (unlockStep 2) opUnlock)

/-- 0x0B10, a load. -/
def execChiselLoad (s : State) : Out := onSettled s (headCommand 0xB10 (fun ps => !(ps.getD 0 0).bit 31) opChisel)

/-- 0x0B10, an unload. -/
def execChiselUnload (s : State) : Out := onSettled s (headCommand 0xB10 (fun ps => (ps.getD 0 0).bit 31) opChisel)

/-- A packet whose opcode is not in Table 11.4 (R307). -/
def unknownCommand (d : Dev) : Dev :=
  match d.drunas.ring with
  | [] => d
  | p :: _ =>
    if !d.processorRuns || p.regAccess || opcodes.contains p.opcode then d
    else
      match d.checkPacket p with
      | (.fail status auth, d') => d'.popRing.failReply p status auth
      | (.pass _ _, _) => d

/-- A packet whose opcode is not in Table 11.4 reaches the head of the ring. -/
def execUnknownOpcodeCommand (s : State) : Out := onDev s unknownCommand

/-- The pending command that is due first executes (R313, R314); the clock goes on to its instant. -/
def timedCommandDue (d : Dev) (m : Mem) : Dev × Mem :=
  if !d.processorRuns then (d, m)
  else
    match firstDue d d.pendList with
    | none => (d, m)
    | some (n, c) => coreTestsNow (executeTimed (meaningOf c.opcode) (d.passCycles n) m c.id)

/-- A command of the pending list reaches its execution point. -/
def execTimedCommandDue (s : State) : Out := onSettled s timedCommandDue

/-! ### Arrival of packets -/

/-- A command or register-access message enters the ring. -/
def execCommandMessage (s : State) : Out := onDev s Dev.messageToRing

/-- A write of DRUNAS_SUBMIT. -/
def execDrunasSubmitWrite (by_ : Initiator) (w : Word) (s : State) : Out := onMem s fun d m => writeWord d m by_ Reg.DRUNAS_SUBMIT w

/-- A read of DRUNAS_REPLY. -/
def execDrunasReplyRead (by_ : Initiator) (s : State) : Out := onMem s fun d m => readWord d m by_ Reg.DRUNAS_REPLY

/-- A write of FLUSH_REPLY. -/
def execFlushReply (by_ : Initiator) (s : State) : Out := onMem s fun d m => writeWord d m by_ Reg.DRUNAS_CTRL 2

/-- A write of FLUSH_SUBMIT. -/
def execFlushSubmit (by_ : Initiator) (s : State) : Out := onMem s fun d m => writeWord d m by_ Reg.DRUNAS_CTRL 1

/-! ### Work that ends -/

/-- Work that ends by committing changes: its final reply waits for their landing tick (R311). -/
def Dev.workCommits (d : Dev) (c : Cmd) (results : List Word) : Dev :=
  let n := d.cad.changes.countP fun x => x.cmd == some c.id
  let d := d.modCmd c.id fun y => { y with results := results, total := n, stage := .committed }
  if c.timing = 2 ∧ d.onTick c then d.countLate c.id (d.targetOf c) else d

/-- A message for a BEAM_LOAD is counted, or its refusal noted, in the packets of the ring and the commands with its TAG. -/
def Dev.countLoad (d : Dev) (tag words : Nat) (written : Bool) : Dev :=
  let p := fun (x : Packet) =>
    if x.opcode = 0x401 ∧ !x.regAccess ∧ (x.words.getD 0 0).get 15 0 = tag then
      if written then { x with loads := x.loads + 1, loadWords := x.loadWords + words } else { x with loadRefused := true }
    else x
  let c := fun (x : Cmd) =>
    if x.opcode = 0x401 ∧ x.tag = tag ∧ x.verdict.isNone ∧ x.stage ≠ .committed then
      if written then { x with aux := [x.aux.getD 0 0 + 1, x.aux.getD 1 0 + words, x.aux.getD 2 0] }
      else { x with aux := [x.aux.getD 0 0, x.aux.getD 1 0, 1] }
    else x
  d.modDrunas fun x => { x with ring := x.ring.map p, cmds := x.cmds.map c }

/-- BEAM_LOAD commands in progress that a message has completed or refused end (R139, R293). -/
def Dev.loadsEnd (d : Dev) (tag : Nat) : Dev :=
  (d.drunas.cmds.filter fun c => c.opcode == 0x401 && c.tag == tag && c.stage == .working && c.verdict.isNone).foldl (fun d c =>
    if c.aux.getD 2 0 = 1 then d.endCmd (some c.id) 0x10 []
    else if (c.p 0).get 9 0 ≤ c.aux.getD 0 0 then
      match loadEnds d c (c.aux.getD 1 0) with
      | (.commits rs, d) => d.workCommits c rs
      | (.done status rs, d) => d.endCmd (some c.id) status rs
      | (.works _, d) => d
    else d) d

/-- A weight-load message (R293). -/
def weightMessage (d : Dev) (m : Mem) : Dev × Mem :=
  match d.take fun x => x.flow == 0x210 with
  | none => (d, m)
  | some (x, d) =>
    let (d, m, written) := weightLoad d m x.words
    let w1 := x.words.getD 1 0
    let tag := (x.words.getD 0 0).get 31 16
    ((d.countLoad tag (w1.get 25 19 * w1.get 18 13) written).loadsEnd tag, m)

/-- A weight-load message is written or refused. -/
def execWeightLoadMessage (s : State) : Out := onSettled s weightMessage

/-- A BEAM_LOAD still awaits messages 10 ms after its entry: ABORTED, with no switch, and the words that were written stay (R139). -/
def Dev.loadTimeout (d : Dev) (tag : Nat) : Dev :=
  match d.drunas.cmds.find? fun c => c.opcode == 0x401 && c.tag == tag && c.verdict.isNone && c.stage != .committed && !(c.p 0).bit 28 with
  | none => d
  | some c =>
    (d.modCmd c.id fun x => { x with stage := .working, time := d.nowNs }).endCmd (some c.id) 0x31 (d.loadResult ((c.p 0).bit 31) false (c.aux.getD 1 0))

/-- Whether the next weight-load message is the last one that a BEAM_LOAD with a TAG awaits. -/
def Dev.lastLoad (d : Dev) (tag : Nat) : Bool :=
  match d.link.inbox.find? fun x => x.flow == 0x210 with
  | none => false
  | some m => (m.words.getD 0 0).get 31 16 == tag &&
      d.drunas.cmds.any fun c => c.opcode == 0x401 && c.tag == tag && c.verdict.isNone && decide ((c.p 0).get 9 0 ≤ c.aux.getD 0 0 + 1)

/-- 10 ms since the entry of a BEAM_LOAD with a TAG. -/
def execBeamLoadTimeout (tag : BitVec 16) (s : State) : Out :=
  unlessNow s (fun c => c == .weightLoadMessage && s.dev.lastLoad tag.toNat) (onCommit s fun d => d.loadTimeout tag.toNat)

/-- The command of an opcode whose work is in progress, oldest first. -/
def Dev.workOf (d : Dev) (op : Nat) : Option Cmd :=
  d.drunas.cmds.find? fun c => c.opcode == op && c.stage == .working && c.verdict.isNone

/-- Staging ends (R320): the image is authenticated. Bytes outside the range that R318 allows are free values (Table 11.7)
(DESIGN CHOICE, log entry 62). -/
def Dev.stageDone (d : Dev) (m : Mem) : Dev :=
  match d.workOf 0xA00 with
  | none => d
  | some c =>
    let a := c.aux.getD 0 0
    let n := c.aux.getD 1 0
    let img := (List.range n).map fun i =>
      if captureBase ≤ a + i ∧ a + i < captureHalf then Mem.get m (a + i) else BitVec.ofNat 8 (Config.freeNat (d.freeCtr + i))
    let d := { d with freeCtr := d.freeCtr + n }
    let put := fun (b : FwBank) (d : Dev) =>
      { d with sec := { d.sec with banks := if d.sec.active then d.sec.banks.set 0 b else d.sec.banks.set 1 b } }
    match d.checkImage img with
    | some b => ((put b d).modDrunas fun x => { x with staged := some b }).endCmd (some c.id) 0 [b.version]
    | none => ((put ⟨false, 0, 0, false⟩ d).raise Reg.SEC_EVT 6).endCmd (some c.id) 0x12 []

/-- Staging of a firmware image ends. -/
def execFwStageDone (s : State) : Out := onSettled s fun d m => (d.stageDone m, m)

/-- The rollback counter follows the image that has passed its self-check (R466). -/
def Dev.raiseRollback (d : Dev) : Dev :=
  let b := if d.sec.active then d.sec.banks[1] else d.sec.banks[0]
  if d.sec.rollback < b.rollback then
    ({ d with sec := { d.sec with rollback := min 64 b.rollback } }).raise Reg.SEC_EVT 7
  else d

/-- A handover ends (R321): the new firmware answers, or the old one takes over again (DEDUCED, log entry 72). -/
def Dev.handoverDone (d : Dev) (passed : Bool) : Dev :=
  if !d.drunas.handover then d
  else
    let id := (d.workOf 0xA01).map (·.id)
    let old := d.drunas.oldFw
    let d := (d.modDrunas fun x => { x with handover := false }).raise Reg.DRUNAS_EVT 4
    if passed then
      ((d.modDrunas fun x => { x with staged := none }).raiseRollback).endCmd id 0 [d.sec.fw, old]
    else ({ d with sec := { d.sec with active := !d.sec.active, fw := old } }).endCmd id 0x31 []

/-- The new firmware answers its first packet, or fails its self-check. -/
def execFwHandoverDone (selfCheckPassed : Bool) (s : State) : Out := onCommit s fun d => d.handoverDone selfCheckPassed

/-- Local time of a number of capture samples at 1966.08 Msps, in 2^-32 ns. -/
def captureTime (n : Nat) : Nat := n * 3125 * fracScale / 6144

/-- The observation capture in progress for a CAPTURE command. -/
def Dev.hostCapture (d : Dev) (id : Nat) : Option OrxCapture :=
  (List.finRange 16).findSome? fun k => match d.dpd.orx[k].cap with
    | some c => if c.user = .host id then some c else none
    | none => none

/-- Whether a capture has begun. -/
def Dev.captureBegun (d : Dev) (c : Cmd) : Bool := c.aux.getD 0 1 != 0 || (d.hostCapture c.id).isSome

/-- The upload of a capture on flow 0x220, in parts of at most 7,600 words (R319, Table 10.6) (DEDUCED, log entry 59). -/
def Dev.upload (d : Dev) (m : Mem) (tag base n start : Nat) : Dev :=
  (List.range ((n + 7599) / 7600)).foldl (fun d k =>
    let len := min 7600 (n - 7600 * k)
    let t := start + captureTime (7600 * k)
    let head : List Word := [((0 : Word).put 31 16 tag).put 15 0 k] ++ timeWords (t / fracScale) ++
      [BitVec.ofNat 32 (t % fracScale), ((0 : Word).put 31 16 ((d.rd Reg.TIME_EPOCH).get 15 0)).put 15 0 len]
    d.send 0x220 (head ++ Mem.words m (base + 4 * (7600 * k)) len)) d

/-- A capture completes (R319): the first of the captures in progress with that many samples. A source-0 capture begins 0.375 µs
into its occupation of the receiver (R170) (DESIGN CHOICE, log entry 20) (DEDUCED, log entry 59). -/
def captureDone (d : Dev) (m : Mem) (samples : List Word) : Dev × Mem :=
  match d.drunas.cmds.find? fun c => c.opcode == 0xB00 && c.stage == .working && c.verdict.isNone && c.aux.getD 3 0 == samples.length &&
      d.captureBegun c with
  | none => (d, m)
  | some c =>
    let n := samples.length
    let base := c.aux.getD 4 0
    let start := match d.hostCapture c.id with | some x => x.at_ + 375 * fracScale | none => c.aux.getD 5 0
    let m := Mem.setWords m base (if c.aux.getD 6 0 = 1 then List.replicate n 0 else samples)
    let (d, m) := spoilOverlaps d m c.id
    let d := if c.aux.getD 1 0 = 0 then d.upload m c.tag base n start else d
    ((d.dropCapture c.id).endCmd (some c.id) 0 [BitVec.ofNat 32 n], m)

/-- A capture completes with its samples. -/
def execCaptureDone (samples : List Word) (s : State) : Out := onSettled s fun d m => captureDone d m samples

/-- A BIST ends (R417, R434): its result, a report of a failure, and for PATH_RESTORE the restoration or ABORTED. -/
def bistDone (d : Dev) (m : Mem) (kind i mask : Nat) : Dev × Mem :=
  match d.drunas.cmds.find? fun c => (c.opcode == 0xB20 || c.opcode == 0x902) && c.stage == .working && c.verdict.isNone && c.aux == [kind, i] with
  | none => (d, m)
  | some c =>
    if !d.bistRuns kind i then (d, m)
    else
      let d := (d.bistReport kind i mask).bistRelease kind i (mask == 0)
      let r : List Word := [BitVec.ofNat 32 mask]
      if c.opcode = 0xB20 then coreTestsNow (d.endCmd (some c.id) 0 r, m)
      else if mask = 0 then coreTestsNow ((d.commitRestore c.by_ kind i).workCommits c r, m)
      else coreTestsNow (d.endCmd (some c.id) 0x31 r, m)

/-- A BIST of a unit ends with a mask of failing checks. -/
def execBistDone (kind index failMask : Nat) (s : State) : Out := onSettled s fun d m => bistDone d m kind index failMask

end Sys2Proof.Machine
end

