-- ==== Sys2Proof/Machine/Cadence.lean ====
section
/-!
DEFINITION. The cadence unit (chapter 2): cutoffs, ticks, seam midpoints, the start and stop of ticks, and time steps
(R335 to R337); scheduled actions (R341 to R344).
-/

namespace Sys2Proof.Machine

/-! ### The cutoff (R40, R54) -/

/-- Whether a path is in Receive or Transmit, or on its way there, once what lands at the tick has landed: modes, tile levels, the
device state and retirements (R56) (DEDUCED, log entry 66). -/
def Dev.pathBusy (d : Dev) (ls : List Change) (p : Fin 64) : Bool :=
  let s := (landAll d [] ls).1.paths[p]
  s.transit.getD s.mode != 0

/-- A change of MU is judged at the cutoff of a frame boundary (R56): it lands there, or is held from there on while a path is in
Receive or Transmit (DEDUCED, log entry 74). -/
def Dev.judgeMu (d : Dev) (ls : List Change) : Dev × List Change :=
  let a := Reg.CADENCE_CFG
  let asks := ls.findSome? fun c => if c.key = .cadenceCfg then c.words.head?.map fun x => x.2.1.get 1 0 else none
  match asks, d.cad.muHeld with
  | none, none => (d, ls)
  | some mu, _ =>
    if mu != d.mu && (List.finRange 64).any fun p => d.pathBusy ls p then
      ({ d with cad := { d.cad with muNext := some (some mu) } }, ls.map fun c => if c.key = .cadenceCfg then
        { c with words := c.words.map fun (x : Nat × Word × Word) => (x.1, x.2.1, x.2.2 &&& ~~~(3 : Word)) } else c)
    else ({ d with cad := { d.cad with muNext := some none } }, ls)
  | none, some mu =>
    if (List.finRange 64).any fun p => d.pathBusy ls p then (d, ls)
    else ({ d with cad := { d.cad with muNext := some none } }, ls ++
      [{ key := .cadenceCfg, words := [(a, BitVec.ofNat 32 mu, 3)], land := d.cad.tickIdx + 1, atFrame := true, stamp := d.time.cycle,
         rank := 0, cmd := none, arg := 0, latch := none }])

/-- The cutoff latches the power-step entry that a landing index names (R83). -/
def Dev.latchEntry (d : Dev) (c : Change) : Change :=
  match c.key, c.words with
  | .word a, (_, w, _) :: _ =>
    if 0x100000 ≤ a ∧ a < 0x140000 ∧ 0x100 ≤ a % 0x10000 ∧ a % 0x10000 < 0x140 then
      { c with latch := some (d.pstepEntry (toTile ((a - 0x100000) / 0x10000)) (w.get 9 0)) }
    else c
  | _, _ => c

/-- The set of changes of the next tick is frozen: those that lose are dropped, refused commands are withdrawn, lanes' changes
are fixed, and event messages leave. -/
def Dev.freeze (d : Dev) : Dev :=
  let n := d.cad.tickIdx + 1
  let nom := d.nextNom
  let lands := fun (c : Change) => c.landsAt n nom
  let (ls, lost) := superseded (d.cad.changes.filter lands)
  let rest := d.cad.changes.filter fun c => !lands c
  let d := { d with cad := { d.cad with changes := rest } }
  let d := d.countLost54 lost
  let (d, ls) := d.refuseModes ls
  let (d, ls) := if isFrame nom then d.judgeMu ls else (d, ls)
  let d := { d with cad := { d.cad with changes := ls.map d.latchEntry ++ rest, frozen := true } }
  (d.fixSets n (d.time.cycle + d.toEdge)).eventMessages

/-- The clock goes on to the cutoff of the next tick, which freezes its changes. -/
def Dev.cutoffNow (d : Dev) : Dev := (d.passCycles d.toCutoff).freeze

/-! ### The seam midpoint (R51, R311) -/

/-- Commands that wait for this seam midpoint execute (R313); all of them where ticks have stopped. -/
def midCommands (d : Dev) (m : Mem) : Dev × Mem :=
  (d.drunas.cmds.filter fun c => c.stage == .nextMid && (!d.cad.running || decide (c.execTime ≤ d.cad.tickIdx))).foldl
    (fun (x : Dev × Mem) c => runMeaning (meaningOf c.opcode) x.1 x.2 c.id none) (d, m)

/-- What is left of DPD_CONFIG commands acts at their landing tick: TIMING 2 at the tick, TIMING 1 at its seam midpoint
(DEDUCED, log entry 70). -/
def Dev.dpdRests (d : Dev) (timing : Nat) : Dev :=
  (d.drunas.cmds.filter fun c => c.opcode == 0x500 && c.timing == timing &&
      match c.aux with | [1, t] => !d.cad.running || decide (t ≤ d.cad.tickIdx) | _ => false).foldl
    (fun d c => (d.dpdRest c).modCmd c.id fun x => { x with aux := [] }) d

/-- Ticks stop at the first tick after the write of RUN = 0 at which no path is in Receive or Transmit (R57): RUNNING falls at its
seam midpoint, when every change that lands there has taken effect. A held change of MU takes effect then, before any later write
of CADENCE_CFG that is pending (DEDUCED, log entry 67). -/
def Dev.stopTicks (d : Dev) (wasBusy : Bool) : Dev :=
  if d.cad.runHeld && d.cad.stopDue && !wasBusy && !(List.finRange 64).any (fun p => d.paths[p].onAir) then
    let d := { d with cad := { d.cad with running := false, runHeld := false, stopDue := false, frozen := false, lag := 0 } }
    match d.cad.muHeld with
    | some mu =>
      { d with cad := { d.cad with muHeld := none, changes :=
          { key := .cadenceCfg, words := [(Reg.CADENCE_CFG, BitVec.ofNat 32 mu, 3)], land := 0, atFrame := false, stamp := 0, rank := 0,
            cmd := none, arg := 0, latch := none } :: d.cad.changes } }
    | none => d
  else d

/-- The seam midpoint of the most recent tick: stepped settings change, and final replies follow. -/
def midpoint (d : Dev) (m : Mem) : Dev × Mem :=
  let d := d.passCycles (d.seamL / 2 - d.cad.since)
  let n := d.cad.tickIdx
  let lands := fun (c : Change) => c.landsAt n d.cad.nom
  let ls := d.cad.changes.filter lands
  let touched := (List.finRange 64).filter d.touched
  let wasBusy := (List.finRange 64).any fun p => d.paths[p].onAir
  let d := { d.windowTick true with cad := { d.cad with changes := d.cad.changes.filter (fun c => !lands c), midDone := true } }
  let (d, ls) := d.landConfig ls
  let (d, m) := landAll d m ls
  let d := d.jumpMarks.healed
  let d := d.flowShed.beginDeferred.muteAtMidpoint.tilesMidpoint.spareMidpoint.settleSymbol
  let d := ((d.capturesMidpoint touched).idleMidpoint).biasReturn
  let d := (d.windowTick false).stopTicks wasBusy
  let (d, m) := midCommands (d.dpdRests 1) m
  let d := if d.cad.running then d else d.dpdRests 2
  (d.finals true (d.tickNs n), m)

/-! ### The tick (R31 to R36, R50) -/

/-- A free amount is added to a counter field, which saturates: how many samples saturate depends on filter taps, on internal precision
and on the signals at the RX balls (DESIGN CHOICE, log entry 43). -/
def Dev.satAdd (d : Dev) (a hi lo : Nat) : Dev :=
  (d.fset a hi lo (min (2 ^ (hi - lo + 1) - 1) (d.fget a hi lo + Config.freeNat d.freeCtr))).drew

/-- Saturations of the symbol that has ended are counted where its samples passed: receive chains in Receive, transmit chains and
predistorters in Transmit with downlink data, the engine and the packer where they worked (R98, R124, R158, R286)
(DESIGN CHOICE, log entry 43). -/
def Dev.satTick (d : Dev) : Dev :=
  let s := d.sig.prev
  let rx := (List.finRange 64).filter fun p => d.paths[p].inRx
  let tx := if s.dl.isEmpty then [] else (List.finRange 64).filter fun p => d.paths[p].inTx
  let d := rx.foldl (fun d p => d.satAdd (Reg.TILE_CH_SAT (p.val / 16) (p.val % 16)) 15 0) d
  let d := tx.foldl (fun d p =>
    let d := d.satAdd (Reg.TILE_CH_SAT (p.val / 16) (p.val % 16)) 31 16
    if (s.set.inf (Reg.DPD_PATH_CFG p.val)).bit 31 then d.satAdd (Reg.DPD_PATH_SAT p.val) 31 0 else d) d
  let ul := !d.sig.ul.isEmpty && !rx.isEmpty
  let d := if !s.set.antenna && (ul || !s.dl.isEmpty) then d.satAdd Reg.BEAM_SAT 15 0 else d
  if ul then d.satAdd Reg.SKX_CELL_BFP_SAT 31 0 else d

/-- The tick's own registers (R34, R36): residual, address, time, count, events. -/
def Dev.publish (d : Dev) (resid : Nat) (wasLag : Int) : Dev :=
  let nom := d.cad.nom
  let ns := sampTime nom / fracScale
  let d := (((((d.wr Reg.CADENCE_PHASE (BitVec.ofNat 32 resid)).wr Reg.CADENCE_SYMADDR (symAddr d.mu nom)).wr Reg.CADENCE_TICK_TIME_LO
    (BitVec.ofNat 32 ns)).wr Reg.CADENCE_TICK_TIME_HI (BitVec.ofNat 32 (ns / 2 ^ 32))).wr Reg.CADENCE_TICK_COUNT
    (d.rd Reg.CADENCE_TICK_COUNT + 1)).noteCount Reg.CADENCE_TICK_COUNT 0 1
  let d := if isFrame nom then d.raise Reg.CADENCE_EVT 4 else d
  if d.cad.lag ≠ 0 ∧ wasLag = 0 then d.raise Reg.CADENCE_EVT 2 else d

/-- The first symbol after a step gap is unsettled (R37). -/
def Dev.unsettleSymbol (d : Dev) : Dev := (List.finRange 64).foldl Dev.unsettlePath d

/-- The tick at a nominal time takes place now: blended settings change, and each unit does what it does at a tick
(DEDUCED, log entry 65). -/
def tickAt (d : Dev) (m : Mem) (nom : Nat) : Dev × Mem :=
  let n := d.cad.tickIdx + 1
  let d := d.closeSymbol
  let gap := d.cad.gapTo.isSome
  let d := if gap then d.wr Reg.CADENCE_STEP_GAP (BitVec.ofNat 32 d.cad.since) else d
  let ended := symLen d.mu d.cad.nom
  let diff : Int := (sampTime nom : Int) - (d.time.now : Int)
  let inc : Int := (max 1 d.time.inc : Nat)
  let resid := (diff % inc * 512 / inc).toNat
  let wasLag := d.cad.lag
  let d := { d with
    cad := { d.cad with tickIdx := n, nom := nom, since := 0, lag := diff / inc, frozen := false, midDone := false, gapTo := none, stopDue := d.cad.runHeld,
                            muHeld := d.cad.muNext.getD d.cad.muHeld, muNext := none }
    beam := { d.beam with sliceErr := 0 } }
  let d := (List.finRange 64).foldl (fun d p => d.modPath p fun s => { s with settle := s.settle - ended }) d
  let cfg := fun (c : Change) => c.key == Setting.cadenceCfg && c.landsAt n nom
  let d := (d.cad.changes.filter cfg).foldl Dev.landCadence d
  let d := { d with cad := { d.cad with changes := d.cad.changes.filter fun c => !cfg c } }
  let d := d.publish resid wasLag
  let ls := d.cad.changes.filter fun (c : Change) => c.landsAt n nom
  let after := (landAll d m ls).1
  let d := ls.foldl Dev.landBlended d
  let d := if ls.any fun c => c.key.isUnit then d.healAtTick after else d
  let d := (d.formDelays resid).selectBanks.mirrorAtTick
  let d := ((d.rescaleAtTick m).reenter).openSymbol
  let d := if gap then d.unsettleSymbol else d.markCarried
  let d := ((d.calTick after).snapTick).biasTouched.senseAll
  let (d, m) := chiselTick d.askUpdates m (isFrame nom)
  let (d, m) := coreTestsTick d m
  let d := (d.soundTick.spendAccepted.satTick).dpdRests 2
  ({ d with cad := { d.cad with len := d.symCycles } }, m)

/-! ### Time steps (R335 to R337) -/

/-- Whether a path is in Transmit for the symbol of the next tick (R335): it transmits now, or lands in Transmit there
(DEDUCED, log entry 66). -/
def Dev.transmitsNext (d : Dev) (p : Fin 64) : Bool :=
  d.paths[p].mode == 2 || d.paths[p].transit == some 2 ||
    d.cad.changes.any fun c => c.key == .pathMode p && c.arg == 2 && c.landsAt (d.cad.tickIdx + 1) d.nextNom

/-- Whether a pending step can be applied at the next tick, as far as its request allows. -/
def Dev.stepRipe (d : Dev) : Bool :=
  match d.time.step with
  | some s => decide (s.ripe ≤ d.cad.tickIdx + 1)
  | none => false

/-- What precedes the edge of the next tick: a seam midpoint and a cutoff that have not come. The clock goes on to the edge. -/
def toNextEdge (d : Dev) (m : Mem) : Dev × Mem :=
  let (d, m) := if d.cad.midDone then (d, m) else midpoint d m
  if !d.cad.running then (d, m)
  else
    let d := if d.cad.frozen then d else d.cutoffNow
    (d.passCycles d.toEdge, m)

/-- The step is applied at the edge of a tick (R37): the next tick is the first nominal one at or after the stepped time, and
everything pending lands there. Where its cutoff has passed in stepped time, the set is frozen as it stands. -/
def stepAtEdge (d : Dev) (m : Mem) : Dev × Mem :=
  let d := d.closeSymbol.stepNow
  let nom := symStart d.mu (symIndex d.mu (timeSampUp d.time.now))
  let prev := symStart d.mu (symIndex d.mu nom - 1)
  let gap := (sampTime nom - d.time.now) / max 1 d.time.inc
  let n := d.cad.tickIdx + 1
  let d := { d with
    cad := { d.cad with gapTo := some nom, nom := prev, since := 0, len := gap, midDone := true, frozen := false,
                        muHeld := (match d.cad.muNext with | some (some mu) => some mu | _ => d.cad.muHeld), muNext := none,
                        changes := d.cad.changes.map fun (c : Change) => { c with land := n, atFrame := c.atFrame && c.key == .cadenceCfg } }
    link := { d.link with proposals := d.link.proposals.map fun (p : Proposal) => { p with land := n } } }
  let d := if gap = 0 then d else d.gapSymbol gap
  if d.leadCycles < gap then (d, m)
  else
    let d := d.freeze
    if gap = 0 then tickAt d m nom else (d, m)

/-- The paths in Transmit whose symbol a forced step mutes are counted (R335). -/
def Dev.forceMutes (d : Dev) : Dev :=
  let ps := (List.finRange 64).filter d.transmitsNext
  if ps.isEmpty then d else (ps.foldl (fun d _ => d.count32 Reg.TIME_STEP_MUTE) d).raise Reg.TIME_EVT 5

/-- A tick, or in its place the application of a step that qualifies there. -/
def tick (d : Dev) (m : Mem) : Dev × Mem :=
  if !d.cad.running then (d, m)
  else
    let (d, m) := toNextEdge d m
    if !d.cad.running then (d, m)
    else if d.stepRipe && !(List.finRange 64).any d.transmitsNext then stepAtEdge d m
    else tickAt d m d.nextNom

/-- A pending step is applied at the next tick, where it qualifies. -/
def stepApply (d : Dev) (m : Mem) : Dev × Mem :=
  if d.cad.running && d.stepRipe then
    if (List.finRange 64).any d.transmitsNext then (d, m)
    else
      let (d, m) := toNextEdge d m
      if d.cad.running && d.stepRipe then stepAtEdge d m else (d, m)
  else (d, m)

/-- A step that has waited for 10 ms is applied at the next tick whatever transmits there. -/
def stepForce (d : Dev) (m : Mem) : Dev × Mem :=
  if d.cad.running && d.stepRipe then
    let (d, m) := toNextEdge d m
    if d.cad.running && d.stepRipe then stepAtEdge d.forceMutes m else (d, m)
  else (d, m)

/-! ### Start of ticks (R57) -/

/-- Ticks start at the frame boundary that was asked for, once local time reaches it. -/
def ticksStart (d : Dev) (m : Mem) : Dev × Mem :=
  match d.cad.startAt with
  | none => (d, m)
  | some f =>
    if d.cad.running || !d.time.adv then (d, m)
    else
      let d := if d.cad.frozen then d else d.cutoffNow
      let d := d.passCycles d.toEdge
      tickAt { d with cad := { d.cad with running := true, startAt := none, gapTo := none, lag := 0 }, sig := Datapath.reset } m f

/-! ### The rows -/

/-- The tick. -/
def execTick (s : State) : Out := onSettled s tick

/-- The cutoff of the next tick, the first one among them; a seam midpoint that has not come precedes it. -/
def cutoff (d : Dev) (m : Mem) : Dev × Mem :=
  if !d.ticking || d.cad.frozen then (d, m)
  else if !d.cad.running then (if d.time.adv then d.cutoffNow else d, m)
  else
    let (d, m) := if d.cad.midDone then (d, m) else midpoint d m
    if d.cad.running then (d.cutoffNow, m) else (d, m)

/-- The cutoff. -/
def execCutoff (s : State) : Out := onSettled s cutoff

/-- The seam midpoint. -/
def execSeamMidpoint (s : State) : Out := onSettled s fun d m => if d.cad.running && !d.cad.midDone then midpoint d m else (d, m)

/-- The start of ticks. -/
def execTicksStart (s : State) : Out := onSettled s ticksStart

/-- A write of CADENCE_CFG with RUN = 1. -/
def execCadenceRunStart (by_ : Initiator) (w : Word) (s : State) : Out :=
  onMem s fun d m => writeWord d m by_ Reg.CADENCE_CFG (w.put 31 31 1)

/-- A write of CADENCE_CFG with RUN = 0. -/
def execCadenceRunStop (by_ : Initiator) (w : Word) (s : State) : Out :=
  onMem s fun d m => writeWord d m by_ Reg.CADENCE_CFG (w.put 31 31 0)

/-- A write of CADENCE_CFG. -/
def execCadenceCfgWrite (by_ : Initiator) (w : Word) (s : State) : Out := onMem s fun d m => writeWord d m by_ Reg.CADENCE_CFG w

/-- A pending step is applied. -/
def execStepApply (s : State) : Out := onSettled s stepApply

/-- A pending step is forced. -/
def execStepForceTimeout (s : State) : Out := unlessNow s (· == .stepApply) (onSettled s stepForce)

/-- A write of EN = 1 to a slot (R343). -/
def execSchedArm (by_ : Initiator) (s : Fin 32) (w : Word) (x : State) : Out :=
  onMem x fun d m => writeWord d m by_ (Reg.TIME_SCHED_CTRL s.val) (w.put 31 31 1)

/-- TILE_LEVEL. -/
def execSchedTileLevel (s : Fin 32) (x : State) : Out := onCommit x fun d => d.fireLevel s

/-- A slot fires CAPTURE: work without a command, which begins at the seam midpoint of its landing tick
(DESIGN CHOICE, log entry 71). -/
def slotCapture (d : Dev) (m : Mem) (s : Fin 32) : Dev × Mem :=
  match d.slotTick s 2 with
  | none => (d, m)
  | some (d, target) =>
    let arg := d.rd (Reg.TIME_SCHED_ARG s.val)
    let p0 := (((0 : Word).put 31 28 (arg.get 31 30)).put 27 27 1).put 7 0 (arg.get 29 24)
    let c : Cmd := { id := d.drunas.nextId, opcode := 0xB00, tag := 0, spi := false, auth := false, finalOnly := true, timing := 1,
                     execTime := d.nextLanding, params := [p0, BitVec.ofNat 32 (arg.get 20 0 + 1), 0], stage := .nextMid, total := 0,
                     lost := 0, late := false, refused := false, results := [], time := d.nowNs, aux := [], silent := true, verdict := none }
    let d := ((d.openCmd c).slotLate target 1).slotFired s
    if d.cad.running then (d, m) else runMeaning opCapture d m c.id none

/-- CAPTURE. -/
def execSchedCapture (s : Fin 32) (x : State) : Out := onSettled x fun d m => slotCapture d m s

/-- A slot fires COMMAND: the packet at its offset of capture SRAM enters the ring, with the path by which the slot was armed. -/
def slotCommand (d : Dev) (m : Mem) (s : Fin 32) : Dev :=
  match d.slotDue s 3 with
  | none => d
  | some d =>
    let a := captureBase + (d.rd (Reg.TIME_SCHED_ARG s.val)).toNat
    (d.enterRing (Mem.words m a (impliedWords (Mem.word m (a + 4)))) d.time.slotSpi[s] false true).slotFired s

/-- COMMAND. -/
def execSchedCommand (s : Fin 32) (x : State) : Out := onSettled x fun d m => (slotCommand d m s, m)

/-- PPS. -/
def execSchedPps (s : Fin 32) (x : State) : Out := onDev x fun d => d.firePps s

/-- A slot fires KERNEL: the user kernel with its handle is triggered (R242) (DESIGN CHOICE, log entry 88). -/
def Dev.slotKernel (d : Dev) (s : Fin 32) : Dev :=
  match d.slotDue s 5 with
  | none => d
  | some d =>
    let h := (d.rd (Reg.TIME_SCHED_ARG s.val)).get 15 0
    let d := match d.chisel.kernels.find? fun (k : Kernel) => k.user && k.handle == h with
      | some k => d.triggerKernel k.slot
      | none => d
    d.slotFired s

/-- KERNEL. -/
def execSchedKernel (s : Fin 32) (x : State) : Out := onDev x fun d => d.slotKernel s

/-- An unassigned action code. -/
def execSchedNoAction (s : Fin 32) (x : State) : Out := onDev x fun d => d.fireNone s

end Sys2Proof.Machine
end

