-- ==== Sys2Proof/Machine/TileRows.lean ====
section
/-!
DEFINITION. The rows of tiles, synthesizers, wake receivers, relief converters and IQ sets (chapters 3 and 4).
-/

namespace Sys2Proof.Machine

/-! ### Transitions (R61) -/

/-- What was deferred behind a transition that has ended begins at once while no ticks run (R57, R63). -/
def Dev.deferredNow (d : Dev) : Dev := if d.ticking then d else d.beginDeferred

/-- A tile reaches the level it was going to. A start ends with its active synthesizer qualified; a fall waits for the paths
(DESIGN CHOICE, log entry 11) (DEDUCED, log entry 69). -/
def Dev.levelReached (d : Dev) (t : Fin 4) : Dev :=
  let x := d.tiles[t]
  match x.goal with
  | none => d
  | some g =>
    let idle := (pathsOf t).all fun p => d.paths[p].mode == 0 && d.paths[p].transit.isNone
    if x.via then (d.modTile t fun x => { x with level := 1 }).raise (Reg.TILE_EVT t.val) 1 |>.beginSynthOn t
    else if (g < 2 ∧ ¬ idle) ∨ (g = 2 ∧ ¬ wordValid (x.syn x.act).int (x.syn x.act).frac) then d
    else
      let d := if g = 2 ∧ ¬ (x.syn x.act).qual then d.qualify t x.act else d
      let d := (d.modTile t fun x => { x with level := g, goal := none }).raise (Reg.TILE_EVT t.val) 1
      d.deferredNow

/-- A path reaches the state it was going to. The receive samples of a change out of Receive have been marked; one that enters Receive
begins to mark, and marks while its tile's LO is unqualified (R61, R80, R101). -/
def Dev.modeReached (d : Dev) (p : Fin 64) : Dev :=
  match d.paths[p].transit with
  | none => d
  | some m =>
    let d := (d.markTransition p).modPath p fun s => { s with mode := m, transit := none }
    let x := d.tiles[tileOf p]
    let d := if m = 1 then d.markUnsettled p else d
    let d := if m = 1 ∧ ¬ (x.syn x.act).qual then d.raise (chStatus p) 2 else d
    d.deferredNow

/-- A transition of Table 3.1 completes (DESIGN CHOICE, log entry 19). -/
def execStateTransitionDone (u : TransUnit) (s : State) : Out :=
  onCommit s fun d =>
    match u with
    | .tile t => d.levelReached t
    | .path p => d.modeReached p

/-! ### Lock qualification (R69, R70, R79, R80) -/

/-- The active synthesizer of a tile at SynthOn has lost its lock: the rest of the symbol is discarded, and receive and
observation samples are marked unsettled. -/
def Dev.loLost (d : Dev) (t : Fin 4) : Dev :=
  let held := d.tiles[t].heldSym
  let tx := (pathsOf t).any fun p => d.paths[p].inTx
  let d := d.modTile t fun x => { x with txHeld := true, heldSym := x.heldSym || tx }
  let d := if tx && !held then (d.count32 (Reg.TILE_LO_HELD t.val)).raise (Reg.TILE_EVT t.val) 0 else d
  ((pathsOf t).foldl Dev.spoil d).rxUnsettled t

/-- A synthesizer loses LO-qualified (R69): the criterion that fails is recorded, and its source reports
(DEDUCED, log entry 87). -/
def Dev.qualLost (d : Dev) (t : Fin 4) (b : Bool) (why : QualLoss) : Dev :=
  let x := d.tiles[t]
  let s := x.syn b
  if !s.run || !s.qual then d
  else
    let d := (d.unqualify t b).modTile t fun x => x.modSyn b fun s =>
      match why with
      | .phase => s
      | .slip _ => s
      | .vtune => { s with ld := true, vt := true }
      | .band => { s with ld := true, band := none, busy := .cold }
    let d := match why with
      | .slip n =>
        let hi := if b then 31 else 15
        d.fset (Reg.TILE_SYN_SLIPS t.val) hi (hi - 15) (min 65535 (d.fget (Reg.TILE_SYN_SLIPS t.val) hi (hi - 15) + n))
      | _ => d
    let d := if x.act = b ∧ x.level = 2 ∧ x.goal.isNone then d.loLost t else d
    d.report (toSrc (128 + 2 * t.val + b2n b))

/-- A synthesizer loses LO-qualified. -/
def execLoQualLost (t : Fin 4) (synB : Bool) (why : QualLoss) (s : State) : Out := onCommit s fun d => d.qualLost t synB why

/-- A synthesizer regains LO-qualified (R69). A standby that was re-banded to take over is handed over to (R70), and a handover
that waits goes on at once while no ticks run (R57, R73). -/
def Dev.requalified (d : Dev) (t : Fin 4) (b : Bool) : Dev :=
  let s := d.tiles[t].syn b
  if !s.run || s.qual || s.retired || !wordValid s.int s.frac then d
  else
    let d := d.qualify t b
    let x := d.tiles[t]
    let d :=
      if x.rebandHo ∧ x.act ≠ b then
        let a := Reg.TILE_SYN_CTRL t.val
        let w := (d.rd a).put 0 0 (b2n b)
        ((d.modTile t fun x => { x with rebandHo := false }).wr a w).commit byFirmware (.synAct t) [(a, w, 1)] 0
      else d
    if d.ticking || !x.hoWait then d else d.landAct t

/-- A synthesizer regains LO-qualified. -/
def execLoQualified (t : Fin 4) (synB : Bool) (s : State) : Out := onCommit s fun d => d.requalified t synB

/-- A tuning voltage leaves the track window (R70): the hot standby is re-banded to take over, or the active synthesizer itself
in the next idle window. -/
def Dev.trackExit (d : Dev) (t : Fin 4) (b : Bool) : Dev :=
  let x := d.tiles[t]
  if !(x.syn b).run || !(x.syn b).qual then d
  else
    let d := d.modTile t fun x => x.modSyn b fun s => { s with vt := true }
    if x.act ≠ b ∨ x.level ≠ 2 then d
    else if d.stbyRole t = 1 ∧ (x.syn !b).run then
      (d.reselect t (!b)).modTile t fun x => { x with rebandHo := true }
    else
      let d := d.modTile t fun x => { x with reband := true }
      if d.ticking then d else d.rebandIdle t

/-- A tuning voltage leaves the track window. -/
def execVtTrackExit (t : Fin 4) (synB : Bool) (s : State) : Out := onCommit s fun d => d.trackExit t synB

/-- A write of FRAC (R67). -/
def execSynFracWrite (by_ : Initiator) (t : Fin 4) (synB : Bool) (frac : Word) (s : State) : Out :=
  onMem s fun d m => writeWord d m by_ (synFracReg t.val synB) frac

/-! ### Wake receivers (R87 to R90, R457) -/

/-- The tile of a wake receiver. -/
def wakeTile (rx : Fin 2) : Nat := 2 * rx.val

/-- Whether a wake receiver works: it needs VAON and SLOWCLK. -/
def Dev.wakeWorks (d : Dev) : Bool := d.power.dev != 0 && d.power.slowclk

/-- Energy has been seen for the dwell (DEDUCED, log entry 68). -/
def Dev.energyWake (d : Dev) (rx : Fin 2) : Dev :=
  let t := wakeTile rx
  if d.wakeWorks && (d.rd (Reg.WAKE_CFG t)).bit 30 then
    let d := d.raise (Reg.WAKE_STATUS t) 10
    if d.dormant then d.wake (18 + 2 * rx.val) (d.fget Reg.POWER_AON_CFG 23 22) else d
  else d

/-- A wake receiver raises a wake by energy. -/
def execWakeEnergyDetect (rx : Fin 2) (s : State) : Out := onDev s fun d => d.energyWake rx

/-- Whether the correlator accepts 32 chips, the first in bit 31 (R88, R89). -/
def Dev.codeAccepted (d : Dev) (t : Nat) (chips : Word) : Bool :=
  let sync : Word := chips ^^^ 0x0D000000#32
  let inverse : Word := ~~~chips
  decide (7 ≤ ones 8 (sync.get 31 24)) && chips.get 11 0 == inverse.get 23 12 &&
    (chips.get 23 15 == d.fget Reg.TIME_JOIN 8 0 || (chips.bit 14 && (d.rd (Reg.WAKE_CFG t)).bit 29))

/-- A wake code is received (DEDUCED, log entry 68). -/
def Dev.codeWake (d : Dev) (rx : Fin 2) (chips : Word) : Dev :=
  let t := wakeTile rx
  if d.wakeWorks && (d.rd (Reg.WAKE_CFG t)).bit 31 && d.codeAccepted t chips then
    let action := chips.get 13 12
    let d := (d.fset (Reg.WAKE_STATUS t) 13 12 action).raise (Reg.WAKE_STATUS t) 11
    if d.dormant && action != 3 then d.wake (19 + 2 * rx.val) action else d
  else d

/-- A wake code is accepted. -/
def execWakeCodeAccept (rx : Fin 2) (chips : BitVec 32) (s : State) : Out := onDev s fun d => d.codeWake rx chips

/-! ### Relief converters (R105 to R112) and IQ sets (R116) -/

/-- A rotation slot starts. -/
def execReliefSlotStart (t : Fin 4) (s : State) : Out := onCommit s fun d => d.slotStart t

/-- A shadow or return window closes. -/
def execReliefWindowClose (t : Fin 4) (dac : Bool) (s : State) : Out := onCommit s fun d => d.windowClose t dac

/-- The comparator delivers. -/
def execReliefCompareDone (t : Fin 4) (dac : Bool) (ratio : Nat) (qualified : Bool) (s : State) : Out :=
  onCommit s fun d => d.compareDone t dac ratio qualified

/-- The out-of-service time of a native pair ends. -/
def execReliefCalEnd (t : Fin 4) (dac : Bool) (finished : Bool) (s : State) : Out := onCommit s fun d => d.reliefCalEnd t dac finished

/-- A write of tap 0 of an IQ set. -/
def execIqTap0Write (by_ : Initiator) (set : IqSet) (w : Word) (s : State) : Out :=
  onMem s fun d m => writeWord d m by_ (iqTap set 0) w

end Sys2Proof.Machine
end

