-- ==== Sys2Proof/Machine/BeamRows.lean ====
section
/-!
DEFINITION. The rows of the beamformer, the predistorters and calibration (chapters 5 to 7).
-/

namespace Sys2Proof.Machine

/-! ### The Ashlar store (R131 to R136) -/

/-- A write of MIRROR = 1 (R133). -/
def execBeamMirror (by_ : Initiator) (w : Word) (s : State) : Out :=
  onMem s fun d m => writeWord d m by_ Reg.BEAM_BANK (w ||| 4)

/-- A bank copy finishes. -/
def execMirrorCopyDone (s : State) : Out := onSettled s mirrorDone

/-- Whether an address is that of a word in the Ashlar window (R129). -/
def isAshlarWord (a : Nat) : Bool := decide (0x01000000 ≤ a ∧ a < 0x02400000 ∧ a % 4 = 0)

/-- A write by the solver or by the weight-load logic, which are no bus initiators (R131). -/
def ashlarDirect (by_ : AshlarWriter) (a : Nat) (w : Word) (d : Dev) (m : Mem) : Dev × Mem :=
  if !d.domainUp a then (d, m)
  else if d.ashlarAllows by_ a then
    let d := if by_ = .solver ∧ d.beam.solving then { d with beam := { d.beam with brought := a :: d.beam.brought } } else d
    ashlarPut d m by_ a (leBytes w)
  else (d.ashlarRefused, m)

/-- A write of a word of the Ashlar window. A bus initiator's write meets the checks of every access. An address that names
no word of the window is ill-formed. -/
def execAshlarWrite (by_ : AshlarWriter) (addr : Nat) (w : Word) (s : State) : Out :=
  if isAshlarWord addr then
    onMem s fun d m =>
      match ashlarInit by_ with
      | some i => writeWord d m i addr w
      | none => ashlarDirect by_ addr w d m
  else .refused .illFormed

/-- An ECC error is found in a word of the Ashlar store (R136). -/
def Dev.ashlarError (d : Dev) (a : Nat) (correctable : Bool) : Dev :=
  if !d.domainUp a then d
  else if correctable then d.count Reg.BEAM_ECC 31 16
  else
    let zero := if d.beam.eccZero.contains a then d.beam.eccZero else a :: d.beam.eccZero
    let d := { d with beam := { d.beam with eccZero := zero } }
    ((d.count Reg.BEAM_ECC 15 0).raise Reg.BEAM_EVT 6).report 219

/-- The scrubber or a read finds an ECC error. An address that names no word of the window is ill-formed. -/
def execAshlarEccError (addr : Nat) (correctable : Bool) (s : State) : Out :=
  if isAshlarWord addr then onCommit s fun d => d.ashlarError addr correctable else .refused .illFormed

/-! ### The solver (R145, R146) -/

/-- A solver cycle begins. -/
def execSolverCycleStart (s : State) : Out := onCommit s Dev.solverStart

/-- The cutoff of a solver cycle's end. -/
def execSolverCycleDeadline (allWritten : Bool) (s : State) : Out := onSettled s (solverDeadline allWritten)

/-! ### Slice checks (R152, R153) -/

/-- The spare's comparison with slice `s` has failed, and the following comparison has decided (R152). The cross-check runs
only while ticks run and the spare neither stands in nor is retired (DESIGN CHOICE, log entry 11). -/
def Dev.sliceMismatch (d : Dev) (s : Fin 8) (nextMatches : Bool) : Dev :=
  if !d.cad.running || d.beam.spareRetired || d.beam.spareFor.isSome || d.beam.spareNext.isSome then d
  else (d.raise Reg.BEAM_EVT 4).report (if nextMatches then toSrc (172 + s.val) else 180)

/-- A comparison with a slice has failed. -/
def execSliceMismatch (s : Fin 8) (nextMatches : Bool) (x : State) : Out := onCommit x fun d => d.sliceMismatch s nextMatches

/-- A slice's own check fails (R153): its outputs of the current symbol are zero or excluded (DEDUCED, log entry 78). -/
def Dev.sliceFails (d : Dev) (s : Fin 8) : Dev :=
  if !d.cad.running || d.beam.sliceRetired.testBit s.val then d
  else
    let d := { d with beam := { d.beam with sliceErr := d.beam.sliceErr ||| 2 ^ s.val } }
    (d.raise Reg.BEAM_EVT 5).report (toSrc (172 + s.val))

/-- A slice's residue or parity check fails. -/
def execSliceCheckFail (s : Fin 8) (x : State) : Out := onCommit x fun d => d.sliceFails s

/-! ### Predistortion (R164 to R184) -/

/-- An access to DPD_LUT_DATA. -/
def execDpdLutDataAccess (by_ : Initiator) (write : Option Word) (s : State) : Out :=
  onMem s fun d m =>
    match write with
    | some w => writeWord d m by_ Reg.DPD_LUT_DATA w
    | none => readWord d m by_ Reg.DPD_LUT_DATA

/-- A write of COMMIT to DPD_PATHp_CTRL. -/
def execDpdPageCommit (by_ : Initiator) (p : Fin 64) (bank : Fin 4) (s : State) : Out :=
  onMem s fun d m => writeWord d m by_ (Reg.DPD_PATH_CTRL p.val) (((0 : Word).put 31 31 1).put 29 28 bank.val)

/-- A write of ADAPT to DPD_PATHp_CTRL. -/
def execDpdAdaptRequest (by_ : Initiator) (p : Fin 64) (bank : Fin 4) (nupd : BitVec 8) (s : State) : Out :=
  onMem s fun d m =>
    writeWord d m by_ (Reg.DPD_PATH_CTRL p.val) ((((0 : Word).put 15 15 1).put 13 12 bank.val).put 7 0 nupd.toNat)

/-- An observation capture ends. -/
def execOrxCaptureDone (k : Fin 16) (q : CaptureQuality) (s : State) : Out := onCommit s fun d => d.captureDone k q

/-- The firmware picks the next update. -/
def execDpdUpdateStart (s : State) : Out := onCommit s Dev.updateStart

/-- An update finishes its solve, with the LUT words of its page. Another number of words than a page has is ill-formed. -/
def execDpdUpdateDone (p : Fin 64) (luts : List Word) (s : State) : Out :=
  if luts.length = 1408 then onSettled s fun d m => updateDone d m p luts else .refused .illFormed

/-- The captures of an update do not arrive within CAP_TIMEOUT. -/
def execDpdCapTimeout (p : Fin 64) (s : State) : Out :=
  unlessNow s (fun c => match c with | .orxCaptureDone k _ => s.dev.lastCapture p k | _ => false) (onCommit s fun d => d.capTimeout p)

/-- A path's quality figures become older than 1 s (R184). -/
def execDpdQStale (p : Fin 64) (s : State) : Out := onDev s fun d => d.modDpd p fun x => { x with stale := true }

/-! ### Calibration (R189 to R214) -/

/-- VREF_EXT is compared with the bandgap; the error is in parts per million. -/
def execVrefCheck (errPpm : Int) (s : State) : Out := onCommit s fun d => d.vrefCheck errPpm

/-- A calibration measurement completes. -/
def execCalMeasurementDone (m : CalMeasure) (s : State) : Out := onCommit s fun d => d.measured m

/-- A write of CAL_QMAP_CFG. -/
def execQmapCfgWrite (by_ : Initiator) (w : Word) (s : State) : Out :=
  onMem s fun d m => writeWord d m by_ Reg.CAL_QMAP_CFG w

/-- An on-request calibration completes on a tile; for code 0x07 with the arrival of the template that the tile has measured, in
femtoseconds against the local frame boundary. -/
def execCalRunDone (t : Fin 4) (terrFs : Int) (s : State) : Out := onCommit s fun d => d.calDone t terrFs

/-- An on-request calibration has not completed within TIMEOUT. -/
def execCalRunTimeout (t : Fin 4) (s : State) : Out :=
  unlessNow s (fun c => match c with | .calRunDone u _ => u == t | _ => false) (onCommit s fun d => d.calTimeout t)

/-- A snapshot finishes; where its range overlaps another command's, the bytes both touch are unpredictable (R318). -/
def snapshotEnds (d : Dev) (m : Mem) : Dev × Mem :=
  match d.cal.snap with
  | none => (d, m)
  | some s =>
    let d0 := d
    let (d, m) := snapshotDone d m
    match s.cmd with
    | some id => let x := spoilOverlaps d0 m id; ({ d with freeCtr := d.freeCtr + (x.1.freeCtr - d0.freeCtr) }, x.2)
    | none => (d, m)

/-- A calibration snapshot finishes writing its image. -/
def execSnapshotDone (s : State) : Out := onSettled s snapshotEnds

/-- Every restored value has entered. -/
def execRestoreDone (s : State) : Out := onCommit s Dev.restoreDone

/-- A path's RX_AGE or TX_AGE comes to exceed STALE_AGE. The flag itself is formed from the age when it is read. -/
def execCalPathStale (p : Fin 64) (tx : Bool) (s : State) : Out :=
  onDev s fun d => if d.estStale p tx then d.raise Reg.CAL_EVT 6 else d

end Sys2Proof.Machine
end

