-- ==== Sys2Proof/Machine/Cores.lean ====
section
/-!
DEFINITION. The meanings of the Chisel instructions (Table 8.4), each issued on one core, and of what the environment reports
about a core: transfers, overruns, ECC, releases, VDSP.
-/

namespace Sys2Proof.Machine

/-! ### Shared shapes -/

/-- A scalar instruction of two sources: result readable `lat` cycles after issue. -/
def Dev.scalar2 (v : Dev) (c : Fin 16) (d a b : Fin 32) (lat : Nat) (f : Word → Word → Fp) : Dev :=
  v.issue c (fun x => max x.readyS[sIx a] x.readyS[sIx b]) 1 fun x t =>
    let r := f x.s[sIx a] x.s[sIx b]
    (x.setS (sIx d) r.val (t + lat)).orFlags r.flags

/-- An integer operation raises no flag (R225). -/
def intOp (f : Word → Word → Word) (a b : Word) : Fp := ⟨f a b, 0⟩

/-- A vector instruction of two sources. -/
def Dev.vector2 (v : Dev) (c : Fin 16) (d a b : Fin 32) (cycles lat : Nat)
    (f : Vector Word 16 → Vector Word 16 → Vector Word 16 × Nat) : Dev :=
  v.issue c (fun x => max x.readyV[a] x.readyV[b]) cycles fun x t =>
    let r := f x.v[a] x.v[b]
    (x.setV d r.1 (t + lat)).orFlags r.2

/-- A vector instruction of one source. -/
def Dev.vector1 (v : Dev) (c : Fin 16) (d a : Fin 32) (cycles lat : Nat) (f : Vector Word 16 → Vector Word 16 × Nat) : Dev :=
  v.issue c (fun x => x.readyV[a]) cycles fun x t =>
    let r := f x.v[a]
    (x.setV d r.1 (t + lat)).orFlags r.2

/-- VMAC and VCMAC: an accumulator takes a combination of X at [P1] and Y at [P2]; the accumulator chain never stalls
(Table 8.4). -/
def macXY (v : Dev) (m : Mem) (c : Fin 16) (d : Fin 32) (m1 m2 : MemOp)
    (f : Vector Word 16 → Vector Word 16 → Vector Word 16 → Vector Word 16 × Nat) : Dev × Mem :=
  issueMem v m c (fun x => max x.readyS[ptrIx m1] x.readyS[ptrIx m2])
    (fun k x => k.reaches [.x] (x.addr m1) 64 && k.reaches [.y] (x.addr m2) 64)
    (fun x t =>
      let r := f (vecAt m c.val (x.addr m1)) (vecAt m c.val (x.addr m2)) x.a[aIx d]
      (((x.setA (aIx d) r.1 (t + 4)).orFlags r.2).bump m1 (t + 1)).bump m2 (t + 1))
    (fun _ => m)


/-! ### Integer and scalar FP32 (R224, R225, R228) -/

/-- ADD: S_D = S_A + S_B. -/
def execAdd (c : Fin 16) (d a b : Fin 32) (s : State) : Out :=
  onDev s fun v => v.scalar2 c d a b 1 (intOp ((· + ·)))

/-- SUB: S_D = S_A − S_B. -/
def execSub (c : Fin 16) (d a b : Fin 32) (s : State) : Out :=
  onDev s fun v => v.scalar2 c d a b 1 (intOp ((· - ·)))

/-- AND. -/
def execAnd (c : Fin 16) (d a b : Fin 32) (s : State) : Out :=
  onDev s fun v => v.scalar2 c d a b 1 (intOp ((· &&& ·)))

/-- OR. -/
def execOr (c : Fin 16) (d a b : Fin 32) (s : State) : Out :=
  onDev s fun v => v.scalar2 c d a b 1 (intOp ((· ||| ·)))

/-- XOR. -/
def execXor (c : Fin 16) (d a b : Fin 32) (s : State) : Out :=
  onDev s fun v => v.scalar2 c d a b 1 (intOp ((· ^^^ ·)))

/-- SHL: the count is bits [4:0] of S_B (R225). -/
def execShl (c : Fin 16) (d a b : Fin 32) (s : State) : Out :=
  onDev s fun v => v.scalar2 c d a b 1 (intOp (fun x y => x <<< (y.toNat % 32)))

/-- SHR: arithmetic; the count is bits [4:0] of S_B (R225). -/
def execShr (c : Fin 16) (d a b : Fin 32) (s : State) : Out :=
  onDev s fun v => v.scalar2 c d a b 1 (intOp (fun x y => x.sshiftRight (y.toNat % 32)))

/-- MUL: the low 32 bits. -/
def execMul (c : Fin 16) (d a b : Fin 32) (s : State) : Out :=
  onDev s fun v => v.scalar2 c d a b 1 (intOp ((· * ·)))

/-- LI: S_D = imm32. -/
def execLi (c : Fin 16) (d : Fin 32) (imm : Word) (s : State) : Out :=
  onDev s fun v => v.issue c (fun _ => 0) 1 fun x t => x.setS (sIx d) imm (t + 1)

/-- ADDI: S_D = S_A + signed imm16. -/
def execAddi (c : Fin 16) (d a : Fin 32) (imm : BitVec 16) (s : State) : Out :=
  onDev s fun v => v.issue c (fun x => x.readyS[sIx a]) 1 fun x t =>
    x.setS (sIx d) (x.s[sIx a] + imm.signExtend 32) (t + 1)

/-- FADD: S_D = S_A + S_B. -/
def execFadd (c : Fin 16) (d a b : Fin 32) (s : State) : Out :=
  onDev s fun v => v.scalar2 c d a b 4 fpAdd

/-- FMUL: S_D = S_A × S_B. -/
def execFmul (c : Fin 16) (d a b : Fin 32) (s : State) : Out :=
  onDev s fun v => v.scalar2 c d a b 4 fpMul

/-- FMA: S_D = S_A × S_B + S_D, rounded once. -/
def execFma (c : Fin 16) (d a b : Fin 32) (s : State) : Out :=
  onDev s fun v => v.issue c (fun x => max x.readyS[sIx d] (max x.readyS[sIx a] x.readyS[sIx b])) 1 fun x t =>
    let r := fpFma x.s[sIx a] x.s[sIx b] x.s[sIx d]
    (x.setS (sIx d) r.val (t + 4)).orFlags r.flags

/-! ### Loads and stores (R218, R219) -/

/-- LD: S_D = one element of X, Y or C at [P1] (DEDUCED, log entry 79). -/
def execLd (c : Fin 16) (d : Fin 32) (p : MemOp) (s : State) : Out :=
  onMem s fun v m => issueMem v m c (fun x => x.readyS[ptrIx p])
    (fun k x => k.reaches [.x, .y, .c] (x.addr p) 4)
    (fun x t => (x.bump p (t + 1)).setS (sIx d) (elemAt m c.val (x.addr p)) (t + 2)) (fun _ => m)

/-- ST: one element of X or Y at [P1] = S_D; the C bus does not write (Table 8.2, DEDUCED, log entry 17). -/
def execSt (c : Fin 16) (d : Fin 32) (p : MemOp) (s : State) : Out :=
  onMem s fun v m => issueMem v m c (fun x => max x.readyS[sIx d] x.readyS[ptrIx p])
    (fun k x => k.reaches [.x, .y] (x.addr p) 4)
    (fun x t => x.bump p (t + 1)) (fun x => Mem.setWord m (coreAddr c.val (x.addr p)) x.s[sIx d])

/-- VLD: V_D = 16 elements of X or Y at [P1]. -/
def execVld (c : Fin 16) (d : Fin 32) (p : MemOp) (s : State) : Out :=
  onMem s fun v m => issueMem v m c (fun x => x.readyS[ptrIx p])
    (fun k x => k.reaches [.x, .y] (x.addr p) 64)
    (fun x t => (x.setV d (vecAt m c.val (x.addr p)) (t + 2)).bump p (t + 1)) (fun _ => m)

/-- VLD2: V_D = X at [P1]; V_(D+1) = Y at [P2]. -/
def execVld2 (c : Fin 16) (d : Fin 32) (p1 p2 : MemOp) (s : State) : Out :=
  onMem s fun v m => issueMem v m c (fun x => max x.readyS[ptrIx p1] x.readyS[ptrIx p2])
    (fun k x => k.reaches [.x] (x.addr p1) 64 && k.reaches [.y] (x.addr p2) 64)
    (fun x t => (((x.setV d (vecAt m c.val (x.addr p1)) (t + 2)).setV (d + 1) (vecAt m c.val (x.addr p2)) (t + 2)).bump p1
      (t + 1)).bump p2 (t + 1)) (fun _ => m)

/-- VST: X or Y at [P1] = V_A. -/
def execVst (c : Fin 16) (a : Fin 32) (p : MemOp) (s : State) : Out :=
  onMem s fun v m => issueMem v m c (fun x => max x.readyV[a] x.readyS[ptrIx p])
    (fun k x => k.reaches [.x, .y] (x.addr p) 64)
    (fun x t => x.bump p (t + 1)) (fun x => Mem.setWords m (coreAddr c.val (x.addr p)) x.v[a].toList)

/-- VSTA: X or Y at [P1] = A_A, then A_A = +0.0. -/
def execVsta (c : Fin 16) (a : Fin 32) (p : MemOp) (s : State) : Out :=
  onMem s fun v m => issueMem v m c (fun x => max x.readyA[aIx a] x.readyS[ptrIx p])
    (fun k x => k.reaches [.x, .y] (x.addr p) 64)
    (fun x t => (x.setA (aIx a) (Vector.replicate 16 0) (t + 1)).bump p (t + 1))
    (fun x => Mem.setWords m (coreAddr c.val (x.addr p)) x.a[aIx a].toList)

/-! ### Vectors -/

/-- VADD, per lane. -/
def execVadd (c : Fin 16) (d a b : Fin 32) (s : State) : Out :=
  onDev s fun v => v.vector2 c d a b 1 4 (lanes2 fpAdd)

/-- VSUB, per lane. -/
def execVsub (c : Fin 16) (d a b : Fin 32) (s : State) : Out :=
  onDev s fun v => v.vector2 c d a b 1 4 (lanes2 fpSub)

/-- VMUL, per lane. -/
def execVmul (c : Fin 16) (d a b : Fin 32) (s : State) : Out :=
  onDev s fun v => v.vector2 c d a b 1 4 (lanes2 fpMul)

/-- VFMA: V_D = V_A × V_B + V_D, per lane. -/
def execVfma (c : Fin 16) (d a b : Fin 32) (s : State) : Out :=
  onDev s fun v => v.issue c (fun x => max x.readyV[d] (max x.readyV[a] x.readyV[b])) 1 fun x t =>
    let r := lanes3 fpFma x.v[a] x.v[b] x.v[d]
    (x.setV d r.1 (t + 4)).orFlags r.2

/-- VMAC: A_D += X at [P1] × Y at [P2], per lane. -/
def execVmac (c : Fin 16) (d : Fin 32) (p1 p2 : MemOp) (s : State) : Out :=
  onMem s fun v m => macXY v m c d p1 p2 (lanes3 fpFma)

/-- VMACC: A_D += V_A × one element of C at [P2]. -/
def execVmacc (c : Fin 16) (d a : Fin 32) (p2 : MemOp) (s : State) : Out :=
  onMem s fun v m => issueMem v m c (fun x => max x.readyV[a] x.readyS[ptrIx p2])
    (fun k x => k.reaches [.c] (x.addr p2) 4)
    (fun x t =>
      let r := lanes3 fpFma x.v[a] (Vector.replicate 16 (elemAt m c.val (x.addr p2))) x.a[aIx d]
      ((x.setA (aIx d) r.1 (t + 4)).orFlags r.2).bump p2 (t + 1)) (fun _ => m)

/-- TAPMV (R229): A_D += C at [P2] × V_A; V_A moves down one lane and takes X at [P1]. -/
def execTapmv (c : Fin 16) (d a : Fin 32) (p1 p2 : MemOp) (s : State) : Out :=
  onMem s fun v m => issueMem v m c (fun x => max x.readyV[a] (max x.readyS[ptrIx p1] x.readyS[ptrIx p2]))
    (fun k x => k.reaches [.x] (x.addr p1) 4 && k.reaches [.c] (x.addr p2) 4)
    (fun x t =>
      let w := x.v[a]
      let r := lanes3 fpFma (Vector.replicate 16 (elemAt m c.val (x.addr p2))) w x.a[aIx d]
      let w' : Vector Word 16 := Vector.ofFn fun i => if h : i.val < 15 then w[i.val + 1] else elemAt m c.val (x.addr p1)
      ((((x.setA (aIx d) r.1 (t + 4)).setV a w' (t + 1)).orFlags r.2).bump p1 (t + 1)).bump p2 (t + 1)) (fun _ => m)

/-- VCMUL: eight complex products. -/
def execVcmul (c : Fin 16) (d a b : Fin 32) (s : State) : Out :=
  onDev s fun v => v.vector2 c d a b 1 4 fun x y => laneVec (cmulLane x y)

/-- VCMAC: A_D += X at [P1] × Y at [P2], complex. -/
def execVcmac (c : Fin 16) (d : Fin 32) (p1 p2 : MemOp) (s : State) : Out :=
  onMem s fun v m => macXY v m c d p1 p2 fun x y z => laneVec (cmacLane x y z)

/-- VMAX, per lane. -/
def execVmax (c : Fin 16) (d a b : Fin 32) (s : State) : Out :=
  onDev s fun v => v.vector2 c d a b 1 2 (lanes2 (fpPick true))

/-- VMIN, per lane. -/
def execVmin (c : Fin 16) (d a b : Fin 32) (s : State) : Out :=
  onDev s fun v => v.vector2 c d a b 1 2 (lanes2 (fpPick false))

/-- VABS, per lane. -/
def execVabs (c : Fin 16) (d a : Fin 32) (s : State) : Out :=
  onDev s fun v => v.vector1 c d a 1 2 (lanes1 fpAbs)

/-- VSQRT, per lane. -/
def execVsqrt (c : Fin 16) (d a : Fin 32) (s : State) : Out :=
  onDev s fun v => v.vector1 c d a 8 12 (lanes1 fpSqrt)

/-- VDIV, per lane. -/
def execVdiv (c : Fin 16) (d a b : Fin 32) (s : State) : Out :=
  onDev s fun v => v.vector2 c d a b 8 12 (lanes2 fpDiv)

/-- VRED: S_D = the tree sum of A_A (R226). -/
def execVred (c : Fin 16) (d a : Fin 32) (s : State) : Out :=
  onDev s fun v => v.issue c (fun x => x.readyA[aIx a]) 1 fun x t =>
    let r := fpTree x.a[aIx a]
    (x.setS (sIx d) r.val (t + 6)).orFlags r.flags

/-- VPERM: V_D[i] = V_A[V_B[i] mod 16]. -/
def execVperm (c : Fin 16) (d a b : Fin 32) (s : State) : Out :=
  onDev s fun v => v.vector2 c d a b 1 2 fun x y =>
    (Vector.ofFn fun i : Fin 16 => x[(y[i]).toNat % 16]'(Nat.mod_lt _ (by decide)), 0)

/-- VBCAST: every lane of V_D = S_A. -/
def execVbcast (c : Fin 16) (d a : Fin 32) (s : State) : Out :=
  onDev s fun v => v.issue c (fun x => x.readyS[sIx a]) 1 fun x t => x.setV d (Vector.replicate 16 x.s[sIx a]) (t + 1)

/-- VMOVA: V_D = A_A, or A_D = V_A where D[4] is 1. -/
def execVmova (c : Fin 16) (d a : Fin 32) (s : State) : Out :=
  onDev s fun v =>
    if d.val < 16 then v.issue c (fun x => x.readyA[aIx a]) 1 fun x t => x.setV d x.a[aIx a] (t + 1)
    else v.issue c (fun x => x.readyV[a]) 1 fun x t => x.setA (aIx d) x.v[a] (t + 1)

/-! ### Control (R230) -/

/-- BR: jump to instruction index S_A. -/
def execBr (c : Fin 16) (a : Fin 32) (s : State) : Out :=
  onDev s fun v => v.issueJump c (fun x => x.readyS[sIx a]) fun x t => x.jump t (x.s[sIx a]).toNat

/-- BZ: jump to S_A when S_B is zero. -/
def execBz (c : Fin 16) (a b : Fin 32) (s : State) : Out :=
  onDev s fun v => v.issueJump c (fun x => max x.readyS[sIx a] x.readyS[sIx b]) fun x t =>
    if x.s[sIx b] = 0 then x.jump t (x.s[sIx a]).toNat else x.advance t 1

/-- BNZ: jump to S_A when S_B is not zero. -/
def execBnz (c : Fin 16) (a b : Fin 32) (s : State) : Out :=
  onDev s fun v => v.issueJump c (fun x => max x.readyS[sIx a] x.readyS[sIx b]) fun x t =>
    if x.s[sIx b] ≠ 0 then x.jump t (x.s[sIx a]).toNat else x.advance t 1

/-- LOOP: repeat the next `body` instructions `count` times. -/
def execLoop (c : Fin 16) (count body : BitVec 16) (s : State) : Out :=
  onDev s fun v => v.issueJump c (fun _ => 0) fun x t => x.enterLoop t count.toNat body.toNat

/-- XFER: a background block transfer (R222). -/
def execXfer (c : Fin 16) (a b : Fin 32) (toCluster : Bool) (bytes : BitVec 24) (s : State) : Out :=
  onMem s fun v m => issueXfer v m c a b toCluster bytes.toNat

/-- XWAIT: wait for outstanding transfers. -/
def execXwait (c : Fin 16) (s : State) : Out :=
  onDev s fun v => v.xwait c

/-- GETF: S_D[3:0] = the FP flags, which become 0. -/
def execGetf (c : Fin 16) (d : Fin 32) (s : State) : Out :=
  onDev s fun v => v.issue c (fun _ => 0) 1 fun x t =>
    { x.setS (sIx d) (BitVec.ofNat 32 x.flags) (t + 1) with flags := 0 }

/-- END: the activation ends. -/
def execEndAct (c : Fin 16) (s : State) : Out :=
  onDev s fun v => v.endActivation c

/-! ### What befalls a core -/

/-- A word whose OP has no row of Table 8.4 stops the activation (R227, R241). -/
def execIllegalInstruction (c : Fin 16) (s : State) : Out :=
  onMem s fun v m => if (v.running? c).isSome then stopActivation v m c .illegal else (v, m)

/-- The oldest outstanding transfer of a core completes (R222). -/
def execXferDone (c : Fin 16) (atCycle : Nat) (s : State) : Out :=
  onMem s fun v m => xferComplete v m c atCycle

/-- A periodic kernel is released at a tick whose index is a multiple of its period (R239). -/
def execKernelRelease (k : Nat) (s : State) : Out :=
  onDev s fun v => if v.releaseDue k then v.release k else v

/-- An activation reaches W cycles (R241). -/
def execActivationOverrun (c : Fin 16) (s : State) : Out :=
  unlessNow s (· == .endAct c) (onMem s fun v m => stopActivation v m c .overrun)

/-- An ECC error of a local RAM (R220): a corrected one is reported; an uncorrectable one that an activation reads ends it as an
access fault does. -/
def execChiselEccError (c : Fin 16) (_ram : CoreRam) (correctable : Bool) (s : State) : Out :=
  onMem s fun v m =>
    if correctable then (v.report (toSrc (181 + c.val)), m)
    else
      let x := stopActivation v m c .access
      (x.1.report (toSrc (181 + c.val)), x.2)

/-- VDSP has settled at its target (R442). -/
def execVdspSettled  (s : State) : Out :=
  onDev s fun v => v.vdspOk

/-- VDSP has not reached its target (R442). -/
def execVdspSettleTimeout  (s : State) : Out :=
  unlessNow s (· == .vdspSettled) (onMem s vdspTimeout)

end Sys2Proof.Machine
end

