-- ==== Sys2Proof/Machine/LinkRows.lean ====
section
/-!
DEFINITION. The rows of the lanes, of cells and messages, of the time unit and of the Coruf die (chapters 9, 10, 12 and 13).
-/

namespace Sys2Proof.Machine

/-! ### Lanes (R252 to R272)

A lane has events only while the SKX domain is up. -/

/-- A meaning on the lanes and cells, while their domain is up. -/
def onLink (s : State) (f : Dev → Dev) : Out := onCommit s fun d => if d.domainUp Reg.SKX_PHY_CFG then f d else d

/-- A training frame is received, with its control and status fields and the receiver's own figure. -/
def execTrainingFrameReceived (k : Fin 8) (control status : BitVec 64) (ownLqf : Nat) (s : State) : Out :=
  onLink s fun d => d.trainingFrame k control status ownLqf

/-- A codeword is decoded. RS(544,514) corrects at most 15 symbols: another number is ill-formed. -/
def execCodewordReceived (k : Fin 8) (corrected : Option Nat) (s : State) : Out :=
  if corrected.getD 0 ≤ 15 then onLink s fun d => d.codeword k corrected else .refused .illFormed

/-- A millisecond of a receiver ends, with its two SNRs in thousandths of a decibel. -/
def execLqfWindow (k : Fin 8) (snrS snrF : Nat) (s : State) : Out := onLink s fun d => d.lqfWindow k snrS snrF

/-- A receiver declares loss of lock. -/
def execLaneLockLost (k : Fin 8) (s : State) : Out := onLink s fun d => d.lockLost k

/-- A lane in QUALIFY has met LQF_JOIN for QUAL_TIME. -/
def execLaneQualifyDone (k : Fin 8) (s : State) : Out := onLink s fun d => d.qualifyDone k

/-- A training attempt reaches 20 ms. -/
def execLaneAttemptTimeout (k : Fin 8) (s : State) : Out :=
  unlessNow s (· == .laneQualifyDone k) (onLink s fun d => d.attemptTimeout k)

/-- The back-off of a lane in WAIT expires. -/
def execLaneBackoffExpire (k : Fin 8) (s : State) : Out := onLink s fun d => d.backoffExpire k

/-- A lane in DOWN starts its attempt of the second. -/
def execLaneProbe (k : Fin 8) (s : State) : Out := onLink s fun d => d.laneProbe k

/-- A lane has spent 4 µs in EI; whether the partner's burst answers. -/
def execLaneFastExit (k : Fin 8) (answered : Bool) (s : State) : Out := onLink s fun d => d.fastExit k answered

/-- Superframe S begins; an emptied receive set begins holdover (R337). -/
def execLaneSetSwitch (s : State) : Out := onLink s fun d => d.laneSetSwitch.receiveEmptied d.link.rxSet

/-- A write of SKX_PHY_SLEEP. -/
def execLaneSleepRequest (by_ : Initiator) (w : Word) (s : State) : Out :=
  onMem s fun d m => writeWord d m by_ Reg.SKX_PHY_SLEEP w

/-- A write of SKX_PHY_CFG. -/
def execLaneEnableWrite (by_ : Initiator) (w : Word) (s : State) : Out :=
  onMem s fun d m => writeWord d m by_ Reg.SKX_PHY_CFG w

/-! ### Cells and messages (R274 to R304) -/

/-- A cell arrives, where a lane of the receive set can bring it. A payload of other than 60 bytes is ill-formed. -/
def execCellReceived (header : Word) (payload : List Byte) (uncorrectable : Bool) (s : State) : Out :=
  if payload.length = 60 then
    onLink s fun d => if d.link.rxSet = 0 then d else d.cell header payload uncorrectable
  else .refused .illFormed

/-- A complete downlink sample message of a flow is judged. -/
def execSampleMessage (flow : Nat) (s : State) : Out := onLink s fun d => d.sampleMessage flow

/-- A sounding reference of a flow is judged. -/
def execSoundingMessage (flow : Nat) (s : State) : Out := onLink s fun d => d.soundingMessage flow

/-- A received LINK cell of a kind is taken. -/
def Dev.linkMessage (d : Dev) (kind : Nat) (f : Dev → List Word → Dev) : Dev :=
  match d.take (isLink kind) with
  | some (m, d) => f d m.words
  | none => d

/-- A received proposal. -/
def execLinkProposal (s : State) : Out := onLink s fun d => d.linkMessage 1 Dev.proposal

/-- A received notice. -/
def execLinkNotice (s : State) : Out := onLink s fun d => d.linkMessage 2 Dev.noticed

/-- A received shed report. -/
def execLinkShedReport (s : State) : Out := onLink s fun d => d.linkMessage 3 Dev.shedReport

/-- The downlink bound of a symbol passes for a flow. -/
def execDlBoundMissing (flow : Nat) (s : State) : Out := onLink s fun d => d.boundPasses flow

/-- A transmit sample message has not been sent in full by its end. -/
def execSampleMsgAbandon (flow : Nat) (s : State) : Out := onLink s fun d => d.abandonMsg flow

/-! ### The time unit (R326 to R347)

The time unit works from the cycle in which local time begins to advance. -/

/-- A meaning on the time unit, while local time advances. -/
def onTime (s : State) (f : Dev → Dev) : Out := onCommit s fun d => if d.time.adv then f d else d

/-- A SYNC is stamped; `t3` is the stamp of the DELAY_REQ that may answer it. -/
def execTimeSync (t3 : BitVec 96) (s : State) : Out := onTime s fun d => d.timeSync t3.toNat

/-- A DELAY_RESP completes an exchange. -/
def execTimeDelayResp (s : State) : Out := onTime s Dev.delayResp

/-- 1.0 ms has passed without a response. -/
def execDelayRespTimeout (s : State) : Out :=
  unlessNow s (fun c => c == .timeDelayResp && s.dev.respHere) (onTime s Dev.respTimeout)

/-- No valid exchange for HOLD_TIME. -/
def execHoldoverTimeout (s : State) : Out :=
  unlessNow s (fun c => c == .timeDelayResp && s.dev.delayResp.time.validAt == s.dev.time.cycle) (onTime s Dev.enterHoldover)

/-- No SYNC from the candidate for HOLD_TIME. -/
def execCandidateTimeout (s : State) : Out :=
  unlessNow s (fun c => match c with | .timeSync _ => s.dev.candSyncHere | _ => false) (onTime s Dev.candTimeout)

/-- A write of TIME_INC_SET_HI. -/
def execTimeIncSetWrite (by_ : Initiator) (hi : Word) (s : State) : Out :=
  onMem s fun d m => writeWord d m by_ Reg.TIME_INC_SET_HI hi

/-- A write of TIME_CFG. -/
def execTimeCfgWrite (by_ : Initiator) (w : Word) (s : State) : Out := onMem s fun d m => writeWord d m by_ Reg.TIME_CFG w

/-- A read of TIME_TSQ_E3. -/
def execTsqPop (by_ : Initiator) (s : State) : Out := onMem s fun d m => readWord d m by_ Reg.TIME_TSQ_E3

/-- A whole second of local time. -/
def execPpsSecond (s : State) : Out := onTime s Dev.ppsSecond

/-- WIDTH has passed since the whole second. -/
def execPpsWidthEnd (s : State) : Out := onTime s Dev.ppsWidthEnd

/-- A rising edge of PPS_IN, with its stamp. -/
def execPpsInEdge (stamp : BitVec 96) (s : State) : Out := onTime s fun d => d.ppsIn stamp.toNat

/-- A TSYNC instant, with the level sensed before it. -/
def execTsyncInstant (lineHigh : Bool) (s : State) : Out := onTime s fun d => d.tsyncInstant lineHigh

/-- A rising edge of TSYNC, with its stamp. -/
def execTsyncEdge (stamp : BitVec 96) (s : State) : Out := onTime s fun d => d.tsyncEdge stamp.toNat

/-- No edge within 1.0 µs of an instant. -/
def execTsyncEdgeTimeout (s : State) : Out :=
  unlessNow s (fun c => match c with | .tsyncEdge _ => true | _ => false) (onTime s Dev.tsyncTimeout)

/-! ### The Coruf die (R350 to R368) -/

/-- A bias-link frame reaches the die. -/
def execBiasFrameReceived (crcOk : Bool) (s : State) : Out := onCommit s fun d => d.biasFrame crcOk

/-- No good frame for 100 µs. -/
def execBiasLinkWatchdog (s : State) : Out := unlessNow s (· == .biasFrameReceived true) (onCommit s Dev.watchdog)

/-- A rail of the die falls below its good threshold. -/
def execCorufRailLoss (rail : CorufRail) (s : State) : Out := onCommit s fun d => d.railLoss rail

/-- The rails of the die have been good for 100 µs. -/
def execCorufRailGood (s : State) : Out := onCommit s Dev.railsGood

/-- A span change reaches its switch. -/
def execSpanSwitch (n : Fin 96) (s : State) : Out := onDev s fun d => d.spanSwitched n

/-- A span change ends. -/
def execSpanChangeDone (n : Fin 96) (s : State) : Out := onCommit s fun d => d.spanDone n

/-- The current limit of an output acts. -/
def execBiasCurrentLimit (n : Fin 96) (s : State) : Out := onDev s fun d => d.currentLimit n

/-- The current limit of an output has acted for 10 µs. -/
def execBiasScPersist (n : Fin 96) (s : State) : Out := onCommit s fun d => d.scPersist n

/-- A write of START = 1 to BIAS_TEST. -/
def execBiasTestStart (by_ : Initiator) (w : Word) (s : State) : Out :=
  onMem s fun d m => writeWord d m by_ Reg.BIAS_TEST (w.put 31 31 1)

/-- An output test ends, with its two readings and whether the current limit acted. -/
def execBiasTestDone (readSafe readOff : Nat) (limited : Bool) (s : State) : Out :=
  onCommit s fun d => d.testDone readSafe readOff limited

/-- A sense channel has exceeded OC_THR for 0.5 µs. -/
def execBiasOcTrip (p : Fin 64) (s : State) : Out := onCommit s fun d => d.ocTrip p

/-- A clear of trip bits, in BIAS_TRIP_LO or BIAS_TRIP_HI. -/
def execBiasTripClear (by_ : Initiator) (high : Bool) (w : Word) (s : State) : Out :=
  onMem s fun d m => writeWord d m by_ (if high then Reg.BIAS_TRIP_HI else Reg.BIAS_TRIP_LO) w

/-- A write of BIAS_CFG. -/
def execBiasCfgWrite (by_ : Initiator) (w : Word) (s : State) : Out := onMem s fun d m => writeWord d m by_ Reg.BIAS_CFG w

/-- PAOFF_N has been held low by another source for 0.5 µs. -/
def execPaoffExtKill (s : State) : Out := onDev s Dev.extKill

/-- PAOFF_N has read high for 10 µs. -/
def execPaoffHighTimer (s : State) : Out := onCommit s Dev.extHigh

end Sys2Proof.Machine
end

