-- ==== Sys2Proof/Machine/SysRows.lean ====
section
/-!
DEFINITION. The rows of the Sump, thermal supervision, supplies, reset, power states, start-up, security and debug (chapters 15
to 17).
-/

namespace Sys2Proof.Machine

/-! ### The Sump (R407 to R431)

The Sump works while the core die is clocked. -/

/-- A meaning on the Sump, while the core die is clocked. -/
def onSump (s : State) (f : Dev → Dev) : Out := onCommit s fun d => if d.power.fabric then f d else d

/-- A report on the pair of a source. -/
def execSumpReport (n : Fin 256) (s : State) : Out := onSump s fun d => d.pairReport n

/-- A report pair reads T = C for 4 cycles. -/
def execSumpWireFault (n : Fin 256) (s : State) : Out := onSump s fun d => d.wireFault n

/-- A faulty pair has read valid idle for 1 ms. -/
def execSumpWireRecover (n : Fin 256) (s : State) : Out := onSump s fun d => d.wireRecover n

/-- The hold of a source expires. -/
def execSumpHoldEnd (n : Fin 256) (s : State) : Out := onSump s fun d => d.holdEnd n

/-- 2.0 µs have passed since the last cause (R422). -/
def execFaultnPulseEnd (s : State) : Out := onSump s fun d => { d with sump := { d.sump with pulse := false } }

/-- FAULT_N falls, driven by another device. -/
def execFaultnExtFall (s : State) : Out := onSump s Dev.extFault

/-- The Sump writes the oldest queued record to MRAM. -/
def execLogRecordWrite (s : State) : Out := onMem s fun d m => if d.power.fabric then logWrite d m else (d, m)

/-- A read of SUMP_LOG_DATA. -/
def execLogDataRead (by_ : Initiator) (s : State) : Out := onMem s fun d m => readWord d m by_ Reg.SUMP_LOG_DATA

/-- A sample of a die sensor, in 0.125 degrees, with the power of the die in 10 mW. A reading beyond the sensor's 16 bits, or a
power beyond 16 bits, is ill-formed. -/
def execThermalSample (d : Fin 6) (reading : Int) (power : Nat) (s : State) : Out :=
  if -32768 ≤ reading ∧ reading < 32768 ∧ power < 65536 then onSump s fun x => x.thermal d reading power
  else .refused .illFormed

/-! ### Reset and supplies (R439 to R446) -/

/-- VAON rises through its threshold. -/
def execPowerOnReset (bootSel : Fin 4) (s : State) : Out := onDev s fun d => d.powerOn bootSel.val

/-- RESET_N has been low for 1 µs. -/
def execResetAssert (s : State) : Out := onDev s Dev.resetAssert

/-- RESET_N rises. -/
def execResetRelease (bootSel : Fin 4) (s : State) : Out := onDev s fun d => d.resetRelease bootSel.val

/-- PGOOD rises. -/
def execPgoodRise (s : State) : Out := onDev s Dev.pgoodRise

/-- PGOOD has been high for 1 ms. -/
def execRailSequenceStep (s : State) : Out := onDev s Dev.railStep

/-- PGOOD has not risen within 10 ms (DESIGN CHOICE, log entry 19). -/
def execPgoodTimeout (s : State) : Out := unlessNow s (· == .pgoodRise) (onDev s Dev.pgoodTimeout)

/-- PGOOD has read low for 2 µs after sequencing. -/
def execPgoodFault (s : State) : Out := onDev s Dev.emergency

/-- 100 ms have passed since an emergency entry. -/
def execAutoRestart (s : State) : Out := onDev s Dev.autoRestart

/-- The next enable falls. -/
def execRailRemoveStep (s : State) : Out := onDev s Dev.railRemove

/-- 100 µs with margin. -/
def execAvsStep (s : State) : Out := onSump s Dev.avsStep

/-- The path monitors lose margin. -/
def execAvsMarginLow (s : State) : Out := onSump s Dev.avsRaise

/-! ### Power states (R450 to R459) -/

/-- A write of POWER_REQ. -/
def execPowerReqWrite (by_ : Initiator) (w : Word) (s : State) : Out := onMem s fun d m => writeWord d m by_ Reg.POWER_REQ w

/-- A power-state step completes. -/
def execPowerTransitionDone (s : State) : Out := onCommit s Dev.transitionDone

/-- No tile has reached SynthOn within 5 ms. -/
def execPowerSynthTimeout (s : State) : Out :=
  unlessNow s (fun c => match c with | .stateTransitionDone (.tile t) => s.dev.tiles[t].goal == some 2 | _ => false)
    (onCommit s Dev.synthTimeout)

/-- The Coruf die has confirmed its safe values. -/
def execDormantSafeConfirmed (s : State) : Out := onCommit s Dev.safeConfirmed

/-- Step 4 and 5 of Table 16.8: the log queue is drained and the entry record written, then the point of no return. -/
def execDormantNoReturn (s : State) : Out :=
  onSettled s fun d m =>
    if d.power.dormantStep = 3 then
      let (d, m) := logDrain d m
      (d.entryEnds.finalise.noReturn, m)
    else (d, m)

/-- WAKE_N has been low for 10 µs. -/
def execWakeNWake (s : State) : Out := onDev s Dev.wakeN

/-- The wake timer expires. -/
def execWakeTimer (s : State) : Out := onDev s Dev.wakeTimer

/-- The island takes a latched wake. -/
def execWakeTaken (s : State) : Out := onDev s Dev.wakeTaken

/-- SLOWCLK as the AON island sees it; without VAON there is no island. -/
def Dev.setSlowclk (d : Dev) (on : Bool) : Dev := if d.power.dev = 0 then d else d.modPower fun p => { p with slowclk := on }

/-- SLOWCLK stops. -/
def execSlowclkLost (s : State) : Out := onDev s fun d => d.setSlowclk false

/-- SLOWCLK runs again. -/
def execSlowclkRestored (s : State) : Out := onDev s fun d => d.setSlowclk true

/-! ### Start-up (R460, R461, R526 to R528) -/

/-- A phase of a start ends. -/
def execStartPhaseDone (s : State) : Out := onSettled s startPhase

/-- Phase 7 or 8 reaches its bound. -/
def execStartPhaseTimeout (s : State) : Out :=
  unlessNow s (· == .startPhaseDone) (onSettled s fun d m => (d.phaseTimeout m, m))

/-- Temperatures have settled, or 3.0 s have passed since Ready. -/
def execThermalSettled (s : State) : Out := onSettled s fun d m => (d.settled m, m)

/-- The timebase PLL qualifies. -/
def execTimebaseQualified (s : State) : Out := onDev s Dev.timebaseUp

/-- The boot ROM checks the firmware images and boots one, or holds. -/
def execFirmwareBoot (s : State) : Out := onDev s Dev.bootPhase

/-- VAON is removed. -/
def execVaonRemoved (s : State) : Out := onDev s Dev.powerOff

/-! ### Security and debug (R471 to R474) -/

/-- A write of SEC_CFG. -/
def execSecCfgWrite (by_ : Initiator) (w : Word) (s : State) : Out := onMem s fun d m => writeWord d m by_ Reg.SEC_CFG w

/-- A session at FULL halts the command processor pair, where no path is in Transmit (R473) (DEDUCED, log entry 57). -/
def Dev.halt (d : Dev) : Dev := if 2 ≤ d.debugLevel ∧ ¬ d.anyTx then { d with sec := { d.sec with halted := true } } else d

/-- A FULL session halts the command processor pair. -/
def execDebugHalt (s : State) : Out := onDev s Dev.halt

/-- 60 s have passed since the challenge. -/
def execUnlockNonceExpire (s : State) : Out := onDev s fun d => { d with sec := { d.sec with nonce := none } }

/-- The refusal period after failures expires. -/
def execUnlockLockoutEnd (s : State) : Out := onDev s fun d => { d with sec := { d.sec with lockout := false } }

end Sys2Proof.Machine
end

