-- ==== Sys2Proof/Machine/Dispatch.lean ====
section
/-!
DEFINITION. The dispatcher: one arm per command, each a direct call of its meaning.
-/

namespace Sys2Proof.Machine

def exec (i : Instr) (s : State) : Host.Outcome State Fault Refusal :=
  match i with
  | .registerWrite by_ width addr data => Sys2Proof.Machine.execRegisterWrite by_ width addr data s
  | .tick => Sys2Proof.Machine.execTick s
  | .cutoff => Sys2Proof.Machine.execCutoff s
  | .seamMidpoint => Sys2Proof.Machine.execSeamMidpoint s
  | .ticksStart => Sys2Proof.Machine.execTicksStart s
  | .cadenceRunStart by_ w => Sys2Proof.Machine.execCadenceRunStart by_ w s
  | .cadenceRunStop by_ w => Sys2Proof.Machine.execCadenceRunStop by_ w s
  | .cadenceCfgWrite by_ w => Sys2Proof.Machine.execCadenceCfgWrite by_ w s
  | .stateTransitionDone u => Sys2Proof.Machine.execStateTransitionDone u s
  | .loQualLost t synB why => Sys2Proof.Machine.execLoQualLost t synB why s
  | .loQualified t synB => Sys2Proof.Machine.execLoQualified t synB s
  | .vtTrackExit t synB => Sys2Proof.Machine.execVtTrackExit t synB s
  | .synFracWrite by_ t synB frac => Sys2Proof.Machine.execSynFracWrite by_ t synB frac s
  | .wakeEnergyDetect rx => Sys2Proof.Machine.execWakeEnergyDetect rx s
  | .wakeCodeAccept rx chips => Sys2Proof.Machine.execWakeCodeAccept rx chips s
  | .reliefSlotStart t => Sys2Proof.Machine.execReliefSlotStart t s
  | .reliefWindowClose t dac => Sys2Proof.Machine.execReliefWindowClose t dac s
  | .reliefCompareDone t dac ratio qualified => Sys2Proof.Machine.execReliefCompareDone t dac ratio qualified s
  | .reliefCalEnd t dac finished => Sys2Proof.Machine.execReliefCalEnd t dac finished s
  | .iqTap0Write by_ set w => Sys2Proof.Machine.execIqTap0Write by_ set w s
  | .beamMirror by_ w => Sys2Proof.Machine.execBeamMirror by_ w s
  | .mirrorCopyDone => Sys2Proof.Machine.execMirrorCopyDone s
  | .ashlarWrite by_ addr w => Sys2Proof.Machine.execAshlarWrite by_ addr w s
  | .ashlarEccError addr correctable => Sys2Proof.Machine.execAshlarEccError addr correctable s
  | .solverCycleStart => Sys2Proof.Machine.execSolverCycleStart s
  | .solverCycleDeadline allWritten => Sys2Proof.Machine.execSolverCycleDeadline allWritten s
  | .sliceMismatch slot nextMatches => Sys2Proof.Machine.execSliceMismatch slot nextMatches s
  | .sliceCheckFail slot => Sys2Proof.Machine.execSliceCheckFail slot s
  | .dpdLutDataAccess by_ write => Sys2Proof.Machine.execDpdLutDataAccess by_ write s
  | .dpdPageCommit by_ p bank => Sys2Proof.Machine.execDpdPageCommit by_ p bank s
  | .dpdAdaptRequest by_ p bank nupd => Sys2Proof.Machine.execDpdAdaptRequest by_ p bank nupd s
  | .orxCaptureDone k q => Sys2Proof.Machine.execOrxCaptureDone k q s
  | .dpdUpdateStart => Sys2Proof.Machine.execDpdUpdateStart s
  | .dpdUpdateDone p luts => Sys2Proof.Machine.execDpdUpdateDone p luts s
  | .dpdCapTimeout p => Sys2Proof.Machine.execDpdCapTimeout p s
  | .dpdQStale p => Sys2Proof.Machine.execDpdQStale p s
  | .vrefCheck errPpm => Sys2Proof.Machine.execVrefCheck errPpm s
  | .calMeasurementDone m => Sys2Proof.Machine.execCalMeasurementDone m s
  | .qmapCfgWrite by_ w => Sys2Proof.Machine.execQmapCfgWrite by_ w s
  | .calRunDone t terrFs => Sys2Proof.Machine.execCalRunDone t terrFs s
  | .calRunTimeout t => Sys2Proof.Machine.execCalRunTimeout t s
  | .snapshotDone => Sys2Proof.Machine.execSnapshotDone s
  | .restoreDone => Sys2Proof.Machine.execRestoreDone s
  | .add c d a b => Sys2Proof.Machine.execAdd c d a b s
  | .sub c d a b => Sys2Proof.Machine.execSub c d a b s
  | .and c d a b => Sys2Proof.Machine.execAnd c d a b s
  | .or c d a b => Sys2Proof.Machine.execOr c d a b s
  | .xor c d a b => Sys2Proof.Machine.execXor c d a b s
  | .shl c d a b => Sys2Proof.Machine.execShl c d a b s
  | .shr c d a b => Sys2Proof.Machine.execShr c d a b s
  | .mul c d a b => Sys2Proof.Machine.execMul c d a b s
  | .li c d imm => Sys2Proof.Machine.execLi c d imm s
  | .addi c d a imm => Sys2Proof.Machine.execAddi c d a imm s
  | .fadd c d a b => Sys2Proof.Machine.execFadd c d a b s
  | .fmul c d a b => Sys2Proof.Machine.execFmul c d a b s
  | .fma c d a b => Sys2Proof.Machine.execFma c d a b s
  | .ld c d m => Sys2Proof.Machine.execLd c d m s
  | .st c d m => Sys2Proof.Machine.execSt c d m s
  | .vld c d m => Sys2Proof.Machine.execVld c d m s
  | .vld2 c d m1 m2 => Sys2Proof.Machine.execVld2 c d m1 m2 s
  | .vst c a m => Sys2Proof.Machine.execVst c a m s
  | .vsta c a m => Sys2Proof.Machine.execVsta c a m s
  | .vadd c d a b => Sys2Proof.Machine.execVadd c d a b s
  | .vsub c d a b => Sys2Proof.Machine.execVsub c d a b s
  | .vmul c d a b => Sys2Proof.Machine.execVmul c d a b s
  | .vfma c d a b => Sys2Proof.Machine.execVfma c d a b s
  | .vmac c d m1 m2 => Sys2Proof.Machine.execVmac c d m1 m2 s
  | .vmacc c d a m2 => Sys2Proof.Machine.execVmacc c d a m2 s
  | .tapmv c d a m1 m2 => Sys2Proof.Machine.execTapmv c d a m1 m2 s
  | .vcmul c d a b => Sys2Proof.Machine.execVcmul c d a b s
  | .vcmac c d m1 m2 => Sys2Proof.Machine.execVcmac c d m1 m2 s
  | .vmax c d a b => Sys2Proof.Machine.execVmax c d a b s
  | .vmin c d a b => Sys2Proof.Machine.execVmin c d a b s
  | .vabs c d a => Sys2Proof.Machine.execVabs c d a s
  | .vsqrt c d a => Sys2Proof.Machine.execVsqrt c d a s
  | .vdiv c d a b => Sys2Proof.Machine.execVdiv c d a b s
  | .vred c d a => Sys2Proof.Machine.execVred c d a s
  | .vperm c d a b => Sys2Proof.Machine.execVperm c d a b s
  | .vbcast c d a => Sys2Proof.Machine.execVbcast c d a s
  | .vmova c d a => Sys2Proof.Machine.execVmova c d a s
  | .br c a => Sys2Proof.Machine.execBr c a s
  | .bz c a b => Sys2Proof.Machine.execBz c a b s
  | .bnz c a b => Sys2Proof.Machine.execBnz c a b s
  | .loop c count body => Sys2Proof.Machine.execLoop c count body s
  | .xfer c a b toCluster bytes => Sys2Proof.Machine.execXfer c a b toCluster bytes s
  | .xwait c => Sys2Proof.Machine.execXwait c s
  | .getf c d => Sys2Proof.Machine.execGetf c d s
  | .endAct c => Sys2Proof.Machine.execEndAct c s
  | .illegalInstruction c => Sys2Proof.Machine.execIllegalInstruction c s
  | .xferDone c atCycle => Sys2Proof.Machine.execXferDone c atCycle s
  | .kernelRelease k => Sys2Proof.Machine.execKernelRelease k s
  | .activationOverrun c => Sys2Proof.Machine.execActivationOverrun c s
  | .chiselEccError c ram correctable => Sys2Proof.Machine.execChiselEccError c ram correctable s
  | .vdspSettled => Sys2Proof.Machine.execVdspSettled s
  | .vdspSettleTimeout => Sys2Proof.Machine.execVdspSettleTimeout s
  | .trainingFrameReceived k control status ownLqf => Sys2Proof.Machine.execTrainingFrameReceived k control status ownLqf s
  | .codewordReceived k corrected => Sys2Proof.Machine.execCodewordReceived k corrected s
  | .lqfWindow k snrS snrF => Sys2Proof.Machine.execLqfWindow k snrS snrF s
  | .laneLockLost k => Sys2Proof.Machine.execLaneLockLost k s
  | .laneQualifyDone k => Sys2Proof.Machine.execLaneQualifyDone k s
  | .laneAttemptTimeout k => Sys2Proof.Machine.execLaneAttemptTimeout k s
  | .laneBackoffExpire k => Sys2Proof.Machine.execLaneBackoffExpire k s
  | .laneProbe k => Sys2Proof.Machine.execLaneProbe k s
  | .laneFastExit k answered => Sys2Proof.Machine.execLaneFastExit k answered s
  | .laneSetSwitch => Sys2Proof.Machine.execLaneSetSwitch s
  | .laneSleepRequest by_ w => Sys2Proof.Machine.execLaneSleepRequest by_ w s
  | .laneEnableWrite by_ w => Sys2Proof.Machine.execLaneEnableWrite by_ w s
  | .cellReceived header payload uncorrectable => Sys2Proof.Machine.execCellReceived header payload uncorrectable s
  | .sampleMessage flow => Sys2Proof.Machine.execSampleMessage flow s
  | .soundingMessage flow => Sys2Proof.Machine.execSoundingMessage flow s
  | .weightLoadMessage => Sys2Proof.Machine.execWeightLoadMessage s
  | .commandMessage => Sys2Proof.Machine.execCommandMessage s
  | .linkProposal => Sys2Proof.Machine.execLinkProposal s
  | .linkNotice => Sys2Proof.Machine.execLinkNotice s
  | .linkShedReport => Sys2Proof.Machine.execLinkShedReport s
  | .dlBoundMissing flow => Sys2Proof.Machine.execDlBoundMissing flow s
  | .sampleMsgAbandon flow => Sys2Proof.Machine.execSampleMsgAbandon flow s
  | .timedCommandDue => Sys2Proof.Machine.execTimedCommandDue s
  | .sysPing => Sys2Proof.Machine.execSysPing s
  | .sysInfo => Sys2Proof.Machine.execSysInfo s
  | .sysCancel => Sys2Proof.Machine.execSysCancel s
  | .pwrRequest => Sys2Proof.Machine.execPwrRequest s
  | .pwrStatus => Sys2Proof.Machine.execPwrStatus s
  | .radioSetState => Sys2Proof.Machine.execRadioSetState s
  | .carrierConfig => Sys2Proof.Machine.execCarrierConfig s
  | .powerStep => Sys2Proof.Machine.execPowerStep s
  | .beamMode => Sys2Proof.Machine.execBeamMode s
  | .beamLoad => Sys2Proof.Machine.execBeamLoad s
  | .beamLoadTimeout tag => Sys2Proof.Machine.execBeamLoadTimeout tag s
  | .solverConfig => Sys2Proof.Machine.execSolverConfig s
  | .dpdConfig => Sys2Proof.Machine.execDpdConfig s
  | .dpdBankSelect => Sys2Proof.Machine.execDpdBankSelect s
  | .calRun => Sys2Proof.Machine.execCalRun s
  | .calSnapshot => Sys2Proof.Machine.execCalSnapshot s
  | .calRestore => Sys2Proof.Machine.execCalRestore s
  | .quietMap => Sys2Proof.Machine.execQuietMap s
  | .timeStep => Sys2Proof.Machine.execTimeStep s
  | .timeSchedule => Sys2Proof.Machine.execTimeSchedule s
  | .timeStatus => Sys2Proof.Machine.execTimeStatus s
  | .biasSet => Sys2Proof.Machine.execBiasSet s
  | .biasSpan => Sys2Proof.Machine.execBiasSpan s
  | .faultQuery => Sys2Proof.Machine.execFaultQuery s
  | .pathRetire => Sys2Proof.Machine.execPathRetire s
  | .pathRestore => Sys2Proof.Machine.execPathRestore s
  | .fwStage => Sys2Proof.Machine.execFwStage s
  | .fwStageDone => Sys2Proof.Machine.execFwStageDone s
  | .fwActivate => Sys2Proof.Machine.execFwActivate s
  | .fwHandoverDone selfCheckPassed => Sys2Proof.Machine.execFwHandoverDone selfCheckPassed s
  | .debugUnlockChallenge => Sys2Proof.Machine.execDebugUnlockChallenge s
  | .debugUnlockResponse => Sys2Proof.Machine.execDebugUnlockResponse s
  | .debugUnlockClose => Sys2Proof.Machine.execDebugUnlockClose s
  | .lifecycle => Sys2Proof.Machine.execLifecycle s
  | .capture => Sys2Proof.Machine.execCapture s
  | .captureDone samples => Sys2Proof.Machine.execCaptureDone samples s
  | .chiselLoad => Sys2Proof.Machine.execChiselLoad s
  | .chiselUnload => Sys2Proof.Machine.execChiselUnload s
  | .bistRun => Sys2Proof.Machine.execBistRun s
  | .bistDone kind index failMask => Sys2Proof.Machine.execBistDone kind index failMask s
  | .drunasSubmitWrite by_ w => Sys2Proof.Machine.execDrunasSubmitWrite by_ w s
  | .drunasReplyRead by_ => Sys2Proof.Machine.execDrunasReplyRead by_ s
  | .flushReply by_ => Sys2Proof.Machine.execFlushReply by_ s
  | .flushSubmit by_ => Sys2Proof.Machine.execFlushSubmit by_ s
  | .timeSync t3 => Sys2Proof.Machine.execTimeSync t3 s
  | .timeDelayResp => Sys2Proof.Machine.execTimeDelayResp s
  | .delayRespTimeout => Sys2Proof.Machine.execDelayRespTimeout s
  | .holdoverTimeout => Sys2Proof.Machine.execHoldoverTimeout s
  | .candidateTimeout => Sys2Proof.Machine.execCandidateTimeout s
  | .stepApply => Sys2Proof.Machine.execStepApply s
  | .stepForceTimeout => Sys2Proof.Machine.execStepForceTimeout s
  | .timeIncSetWrite by_ hi => Sys2Proof.Machine.execTimeIncSetWrite by_ hi s
  | .timeCfgWrite by_ w => Sys2Proof.Machine.execTimeCfgWrite by_ w s
  | .tsqPop by_ => Sys2Proof.Machine.execTsqPop by_ s
  | .schedArm by_ slot w => Sys2Proof.Machine.execSchedArm by_ slot w s
  | .schedTileLevel slot => Sys2Proof.Machine.execSchedTileLevel slot s
  | .schedCapture slot => Sys2Proof.Machine.execSchedCapture slot s
  | .schedCommand slot => Sys2Proof.Machine.execSchedCommand slot s
  | .schedPps slot => Sys2Proof.Machine.execSchedPps slot s
  | .schedKernel slot => Sys2Proof.Machine.execSchedKernel slot s
  | .schedNoAction slot => Sys2Proof.Machine.execSchedNoAction slot s
  | .ppsSecond => Sys2Proof.Machine.execPpsSecond s
  | .ppsWidthEnd => Sys2Proof.Machine.execPpsWidthEnd s
  | .ppsInEdge stamp => Sys2Proof.Machine.execPpsInEdge stamp s
  | .tsyncInstant lineHigh => Sys2Proof.Machine.execTsyncInstant lineHigh s
  | .tsyncEdge stamp => Sys2Proof.Machine.execTsyncEdge stamp s
  | .tsyncEdgeTimeout => Sys2Proof.Machine.execTsyncEdgeTimeout s
  | .biasFrameReceived crcOk => Sys2Proof.Machine.execBiasFrameReceived crcOk s
  | .biasLinkWatchdog => Sys2Proof.Machine.execBiasLinkWatchdog s
  | .corufRailLoss rail => Sys2Proof.Machine.execCorufRailLoss rail s
  | .corufRailGood => Sys2Proof.Machine.execCorufRailGood s
  | .spanSwitch n => Sys2Proof.Machine.execSpanSwitch n s
  | .spanChangeDone n => Sys2Proof.Machine.execSpanChangeDone n s
  | .biasCurrentLimit n => Sys2Proof.Machine.execBiasCurrentLimit n s
  | .biasScPersist n => Sys2Proof.Machine.execBiasScPersist n s
  | .biasTestStart by_ w => Sys2Proof.Machine.execBiasTestStart by_ w s
  | .biasTestDone readSafe readOff limited => Sys2Proof.Machine.execBiasTestDone readSafe readOff limited s
  | .biasOcTrip p => Sys2Proof.Machine.execBiasOcTrip p s
  | .biasTripClear by_ high w => Sys2Proof.Machine.execBiasTripClear by_ high w s
  | .biasCfgWrite by_ w => Sys2Proof.Machine.execBiasCfgWrite by_ w s
  | .paoffExtKill => Sys2Proof.Machine.execPaoffExtKill s
  | .paoffHighTimer => Sys2Proof.Machine.execPaoffHighTimer s
  | .regAccessRead => Sys2Proof.Machine.execRegAccessRead s
  | .regAccessWrite => Sys2Proof.Machine.execRegAccessWrite s
  | .regAccessAuthRead => Sys2Proof.Machine.execRegAccessAuthRead s
  | .regAccessAuthWrite => Sys2Proof.Machine.execRegAccessAuthWrite s
  | .busTimeout by_ write addr => Sys2Proof.Machine.execBusTimeout by_ write addr s
  | .spiWrite addr words => Sys2Proof.Machine.execSpiWrite addr words s
  | .spiWriteFix addr words => Sys2Proof.Machine.execSpiWriteFix addr words s
  | .spiRead addr count => Sys2Proof.Machine.execSpiRead addr count s
  | .spiReadFix addr count => Sys2Proof.Machine.execSpiReadFix addr count s
  | .spiStatus => Sys2Proof.Machine.execSpiStatus s
  | .spiQueuedWrite => Sys2Proof.Machine.execSpiQueuedWrite s
  | .spiFrameEnd partialWord => Sys2Proof.Machine.execSpiFrameEnd partialWord s
  | .derrickStart by_ c => Sys2Proof.Machine.execDerrickStart by_ c s
  | .derrickResume by_ c => Sys2Proof.Machine.execDerrickResume by_ c s
  | .derrickAbort by_ c => Sys2Proof.Machine.execDerrickAbort by_ c s
  | .derrickDescriptorFetch => Sys2Proof.Machine.execDerrickDescriptorFetch s
  | .derrickBurst => Sys2Proof.Machine.execDerrickBurst s
  | .derrickChainEnd => Sys2Proof.Machine.execDerrickChainEnd s
  | .checkScanStart by_ => Sys2Proof.Machine.execCheckScanStart by_ s
  | .checkScanDone => Sys2Proof.Machine.execCheckScanDone s
  | .checkDataFeed by_ w => Sys2Proof.Machine.execCheckDataFeed by_ w s
  | .sumpReport n => Sys2Proof.Machine.execSumpReport n s
  | .sumpWireFault n => Sys2Proof.Machine.execSumpWireFault n s
  | .sumpWireRecover n => Sys2Proof.Machine.execSumpWireRecover n s
  | .sumpHoldEnd n => Sys2Proof.Machine.execSumpHoldEnd n s
  | .faultnPulseEnd => Sys2Proof.Machine.execFaultnPulseEnd s
  | .faultnExtFall => Sys2Proof.Machine.execFaultnExtFall s
  | .logRecordWrite => Sys2Proof.Machine.execLogRecordWrite s
  | .logDataRead by_ => Sys2Proof.Machine.execLogDataRead by_ s
  | .thermalSample d reading power => Sys2Proof.Machine.execThermalSample d reading power s
  | .powerOnReset bootSel => Sys2Proof.Machine.execPowerOnReset bootSel s
  | .resetAssert => Sys2Proof.Machine.execResetAssert s
  | .resetRelease bootSel => Sys2Proof.Machine.execResetRelease bootSel s
  | .pgoodRise => Sys2Proof.Machine.execPgoodRise s
  | .railSequenceStep => Sys2Proof.Machine.execRailSequenceStep s
  | .pgoodTimeout => Sys2Proof.Machine.execPgoodTimeout s
  | .pgoodFault => Sys2Proof.Machine.execPgoodFault s
  | .autoRestart => Sys2Proof.Machine.execAutoRestart s
  | .railRemoveStep => Sys2Proof.Machine.execRailRemoveStep s
  | .avsStep => Sys2Proof.Machine.execAvsStep s
  | .avsMarginLow => Sys2Proof.Machine.execAvsMarginLow s
  | .powerReqWrite by_ w => Sys2Proof.Machine.execPowerReqWrite by_ w s
  | .powerTransitionDone => Sys2Proof.Machine.execPowerTransitionDone s
  | .powerSynthTimeout => Sys2Proof.Machine.execPowerSynthTimeout s
  | .dormantSafeConfirmed => Sys2Proof.Machine.execDormantSafeConfirmed s
  | .dormantNoReturn => Sys2Proof.Machine.execDormantNoReturn s
  | .wakeNWake => Sys2Proof.Machine.execWakeNWake s
  | .wakeTimer => Sys2Proof.Machine.execWakeTimer s
  | .wakeTaken => Sys2Proof.Machine.execWakeTaken s
  | .slowclkLost => Sys2Proof.Machine.execSlowclkLost s
  | .startPhaseDone => Sys2Proof.Machine.execStartPhaseDone s
  | .startPhaseTimeout => Sys2Proof.Machine.execStartPhaseTimeout s
  | .thermalSettled => Sys2Proof.Machine.execThermalSettled s
  | .timebaseQualified => Sys2Proof.Machine.execTimebaseQualified s
  | .firmwareBoot => Sys2Proof.Machine.execFirmwareBoot s
  | .secCfgWrite by_ w => Sys2Proof.Machine.execSecCfgWrite by_ w s
  | .debugHalt => Sys2Proof.Machine.execDebugHalt s
  | .unlockNonceExpire => Sys2Proof.Machine.execUnlockNonceExpire s
  | .unlockLockoutEnd => Sys2Proof.Machine.execUnlockLockoutEnd s
  | .spiUnknownOpcode opcode => Sys2Proof.Machine.execSpiUnknownOpcode opcode s
  | .regAccessReservedOp => Sys2Proof.Machine.execRegAccessReservedOp s
  | .unknownOpcodeCommand => Sys2Proof.Machine.execUnknownOpcodeCommand s
  | .vaonRemoved => Sys2Proof.Machine.execVaonRemoved s
  | .slowclkRestored => Sys2Proof.Machine.execSlowclkRestored s
  | .calPathStale p tx => Sys2Proof.Machine.execCalPathStale p tx s

end Sys2Proof.Machine
end

