-- ==== Sys2Proof/Machine/Step.lean ====
section
/-!
DEFINITION. One step: the command at the front of the queue runs on the device with the rest of the queue. On an empty queue
one timebase cycle passes, unless the cadence unit acts first (DESIGN CHOICE, log entry 1).
-/

namespace Sys2Proof.Machine

/-- A step with nothing commanded: the clock of 491.52 MHz goes on, up to the next instant at which
the cadence unit acts (R324, DESIGN CHOICE, log entry 1). -/
def idle (s : State) : Host.Outcome State Fault Refusal :=
  .next { s with dev := if s.dev.canPass 1 then s.dev.passCycles 1 else s.dev }

/-- One step (DESIGN CHOICE, log entry 1). -/
def step (s : State) : Host.Outcome State Fault Refusal :=
  match s.pending with
  | [] => idle s
  | c :: rest => exec c { s with pending := rest }

/-- The state with the command that a table word spells in front of its queue: unchanged, as no word spells one
(DESIGN CHOICE, log entry 9). -/
def State.withFetchWord (s : State) (nbits w : Nat) : State :=
  match decodeTableWord nbits w with
  | some c => { s with pending := c :: s.pending }
  | none => s

end Sys2Proof.Machine
end

