-- ==== Sys2Proof/WellFormed.lean ====
section
/-!
DEFINITION. Which commands are commands of the table at all. Most operands are typed so that every value is one; the rest
have a bound that the spec gives. A meaning refuses exactly the commands that are ill-formed here.
-/

namespace Sys2Proof

/-- The access widths of R372 and R373, in bits. -/
def accessWidths : List Nat := [8, 16, 32, 64]

/-- The first and the last byte of the Ashlar window (Table 14.1). -/
def ashlarFirst : Nat := 0x01000000
def ashlarLast : Nat := 0x023FFFFF

/-- Whether a command's operands lie in the bounds of the spec: access widths of R372 in the 32-bit address space of R369, word
addresses of the Ashlar window (R129), at most 15 corrected symbols of a codeword (R252), the 60 payload bytes of a cell (R274),
the 1,408 words of a DPD page (R163), and the 16 bits of a sensor reading and of a die's power (chapter 15). -/
def Instr.wf : Instr → Bool
  | .registerWrite _ width addr _ => accessWidths.contains width && decide (addr < 2 ^ 32)
  | .ashlarWrite _ addr _ => decide (ashlarFirst ≤ addr ∧ addr ≤ ashlarLast ∧ addr % 4 = 0)
  | .ashlarEccError addr _ => decide (ashlarFirst ≤ addr ∧ addr ≤ ashlarLast ∧ addr % 4 = 0)
  | .dpdUpdateDone _ luts => decide (luts.length = 1408)
  | .codewordReceived _ corrected => decide (corrected.getD 0 ≤ 15)
  | .cellReceived _ payload _ => decide (payload.length = 60)
  | .thermalSample _ reading power => decide (-32768 ≤ reading ∧ reading < 32768 ∧ power < 65536)
  | _ => true

end Sys2Proof
end

