-- ==== Sys2Proof/Certificates/Slice0/Obligations.lean ====
section
/-!
DEFINITION. The statements for the provers. Each is a proposition about the model; its docstring says which rule of spec/ it
formalises, or what it rests on. Where a meaning may commit changes or end commands, what follows it is said with `after`:
what no tick holds back lands, and final replies that are due leave.
-/

namespace Sys2Proof.Cert

open Sys2Proof.Machine

/-- `s` once its device and memory have become `x`, and what no tick holds back has landed and due replies have left. -/
def after (s : State) (x : Dev × Mem) : State := { s with dev := (settled x).1, mem := (settled x).2 }

/-- `s` with another device; memory and the queue stay. -/
def withDev (s : State) (d : Dev) : State := { s with dev := d }

/-- No change, proposal or command waits: nothing is left that could land or be answered. -/
def Quiet (d : Dev) : Prop := d.drunas.cmds = [] ∧ (d.cad.running = true ∨ (d.cad.changes = [] ∧ d.link.proposals = []))

/-- A command that `p` describes waits behind this one in the same timebase cycle (log entry 83): an arrival that comes in the very
cycle in which it would time out (R12). -/
def ArrivesNow (s : State) (p : Instr → Bool) : Prop := s.thisCycle.any p = true

/-- `c` is a timeout that an arrival in its own cycle overrules (R12): with one that `p` describes it changes nothing. -/
def YieldsTo (s : State) (c : Instr) (p : Instr → Bool) : Prop := ArrivesNow s p → exec c s = .next s

/-! ### Chisel cores -/

/-- The registers of core `c`. -/
def ctxOf (s : State) (c : Fin 16) : Ctx := (s.dev.chisel.cores[c]).ctx

/-- `s` with the registers of core `c` replaced: memory, the queue and everything else of the device stay. -/
def withCtx (s : State) (c : Fin 16) (x : Ctx) : State := withDev s (s.dev.modCore c fun k => { k with ctx := x })

/-- An activation of kernel `k` issues instructions on core `c`: it runs and no transfer stalls it. -/
def Issues (s : State) (c : Fin 16) (k : Kernel) : Prop := s.dev.running? c = some k

/-- `i`, issued on core `c`, writes `w` to scalar register `r`, leaves every other register of the core as it was, sets the flags
to `fl`, and changes nothing else of the machine but the core's position and clock. -/
def WritesScalar (s : State) (i : Instr) (c : Fin 16) (r : Fin 16) (w : Word) (fl : Nat) : Prop :=
  ∃ x : Ctx, exec i s = .next (withCtx s c x) ∧ x.s = (ctxOf s c).s.set r w ∧ x.v = (ctxOf s c).v ∧ x.a = (ctxOf s c).a ∧
    x.flags = fl

/-- The same for a vector register. -/
def WritesVector (s : State) (i : Instr) (c : Fin 16) (r : Fin 32) (w : Vector Word 16) (fl : Nat) : Prop :=
  ∃ x : Ctx, exec i s = .next (withCtx s c x) ∧ x.v = (ctxOf s c).v.set r w ∧ x.s = (ctxOf s c).s ∧ x.a = (ctxOf s c).a ∧
    x.flags = fl

/-- `i` moves the position to `pc` with loops `ls` and changes no register, flag or byte of memory. -/
def Moves (s : State) (i : Instr) (c : Fin 16) (pc : Nat) (ls : List LoopSt) : Prop :=
  ∃ x : Ctx, exec i s = .next (withCtx s c x) ∧ x.pc = pc ∧ x.loops = ls ∧ x.s = (ctxOf s c).s ∧ x.v = (ctxOf s c).v ∧
    x.a = (ctxOf s c).a ∧ x.flags = (ctxOf s c).flags

/-- A lane-wise result: each lane of `w` is the value, and `fl` gathers the flags, of what `f` gives for the lane. -/
def LaneWise (w : Vector Word 16) (fl old : Nat) (f : Fin 16 → Fp) : Prop :=
  (∀ i : Fin 16, w[i] = (f i).val) ∧ ∀ b : Nat, fl.testBit b = (old.testBit b || (List.finRange 16).any fun i => (f i).flags.testBit b)

/-- The scalar registers after the post-increment of a memory operand's pointer, counted in elements of four bytes (R219). -/
def bumped (v : Vector Word 16) (m : MemOp) : Vector Word 16 := v.set (ptrIx m) (v[ptrIx m] + m.inc.signExtend 32 * 4)

/-! ### Rows on the device -/

/-- `c` changes the device to `d` and nothing else: neither memory nor the queue. -/
def Makes (s : State) (c : Instr) (d : Dev) : Prop := exec c s = .next (withDev s d)

/-- `c` changes the device to `d`, and then what no tick holds back lands and due replies leave; memory has not been touched
before that. -/
def Leads (s : State) (c : Instr) (d : Dev) : Prop := exec c s = .next (after s (d, s.mem))

/-- Bit `b` of register `a` is set in `d`. -/
def Set (d : Dev) (a b : Nat) : Prop := (d.rd a).bit b = true

/-- `d` and `e` differ in software registers at the addresses `as` at most. -/
def SameRegsBut (as : List Nat) (d e : Dev) : Prop := ∀ b, b ∉ as → e.rd b = d.rd b

/-- A counter field of `e` shows one event more than that of `d`, or its limit (R10). -/
def Counted (d e : Dev) (a hi lo : Nat) : Prop :=
  (e.rd a).get hi lo = min ((d.rd a).get hi lo + 1) (2 ^ (hi + 1 - lo) - 1)


/-! ### Register access and commands -/

/-- Nothing of Table 14.3 stops a 32-bit access of initiator `i` to address `a` before its target. -/
def Open (s : State) (i : Initiator) (write : Bool) (a : Nat) : Prop := s.dev.stops i write 32 a = none

/-- `e` is `d` after a bus error (R380, R381): counted, and latched where no earlier one is; nothing else has changed. -/
def Stopped (d e : Dev) (i : Initiator) (write : Bool) (width a : Nat) (c : BusCode) : Prop :=
  e = { d with regs := e.regs, same := e.same } ∧ Counted d e Reg.SYS_BUS_ERR_CNT 31 0 ∧
  SameRegsBut [Reg.SYS_BUS_ERR_CNT, Reg.SYS_DOMAIN_OFF, Reg.SYS_BUS_ERR_INFO, Reg.SYS_BUS_ERR_ADDR] d e ∧
  (if c = .domainOff then Counted d e Reg.SYS_DOMAIN_OFF 31 0 else e.rd Reg.SYS_DOMAIN_OFF = d.rd Reg.SYS_DOMAIN_OFF) ∧
  (if (d.rd Reg.SYS_BUS_ERR_INFO).bit 31 then
    e.rd Reg.SYS_BUS_ERR_INFO = d.rd Reg.SYS_BUS_ERR_INFO ∧ e.rd Reg.SYS_BUS_ERR_ADDR = d.rd Reg.SYS_BUS_ERR_ADDR
  else
    (e.rd Reg.SYS_BUS_ERR_INFO).bit 31 = true ∧ (e.rd Reg.SYS_BUS_ERR_INFO).get 30 28 = initNum i ∧
    (e.rd Reg.SYS_BUS_ERR_INFO).bit 27 = write ∧ (e.rd Reg.SYS_BUS_ERR_INFO).get 26 24 = widthNum width ∧
    (e.rd Reg.SYS_BUS_ERR_INFO).get 19 16 = c.num ∧ e.rd Reg.SYS_BUS_ERR_ADDR = BitVec.ofNat 32 a)

/-- `d` holds one committed change more than `s`: of setting `k`, with register words `ws` and argument `n`, landing at the first
tick whose cutoff it meets (R40) or, with `frame`, at the first frame boundary from there on. -/
def Commits1 (s : State) (d : Dev) (i : Initiator) (k : Setting) (ws : List (Nat × Word × Word)) (n : Nat) (frame : Bool) : Prop :=
  d.cad.changes = s.dev.cad.changes ++
    [{ key := k, words := ws, land := s.dev.nextLanding, atFrame := frame, stamp := s.dev.time.cycle, rank := initRank i,
       cmd := none, arg := n, latch := none }]

/-- Nothing of this cycle contends for register `a` with a write by initiator `i`: no later initiator of R43 has written it, and hardware
has set and counted nothing in it (R13). -/
def Alone (s : State) (i : Initiator) (a : Nat) : Prop :=
  s.dev.overtaken a (initRank i) = false ∧ s.dev.setNow a = 0 ∧ ∀ lo, s.dev.countedNow a lo = 0

/-- The registers whose writes do more, or other, than their field types say: doors to a unit, commands, staged and grouped words. -/
def actsOnWrite (a : Nat) : Bool :=
  [Reg.DRUNAS_CTRL, Reg.DRUNAS_SUBMIT, Reg.CADENCE_CFG, Reg.TIME_CFG, Reg.TIME_INC_SET_HI, Reg.TIME_PPS_CFG, Reg.POWER_REQ,
    Reg.POWER_CFG, Reg.SEC_CFG, Reg.DERRICK_CFG, Reg.CHECK_CTRL, Reg.CHECK_DATA, Reg.SKX_PHY_CFG, Reg.SKX_PHY_SLEEP, Reg.BEAM_BANK,
    Reg.DPD_LUT_DATA, Reg.CAL_QMAP_CFG, Reg.CHISEL_CFG, Reg.BIAS_CFG, Reg.BIAS_SC0, Reg.BIAS_SC1, Reg.BIAS_SC2, Reg.BIAS_TRIP_LO,
    Reg.BIAS_TRIP_HI, Reg.BIAS_TEST].contains a ||
  (List.range 32).any (fun n => a == Reg.TIME_SCHED_CTRL n) || (List.range 8).any (fun n => a == Reg.DERRICK_CH_CTRL n) ||
  (List.range 64).any (fun p => a == Reg.DPD_PATH_CFG p || a == Reg.DPD_PATH_CTRL p) ||
  (List.range 70).any (fun j => a == Reg.CAL_QMAP j) || (List.range 16).any (fun k => a == Reg.CHISEL_KSLOT_ACT k) ||
  (List.range 96).any (fun n => a == Reg.BIAS_OUT_CFG n || a == Reg.BIAS_OUT_CODE n) ||
  decide (0x92800 ≤ a ∧ a < 0x93000) || (iqOf a).isSome ||
  (decide (0x100000 ≤ a ∧ a < 0x140000) && ([0x8, 0xC, 0x44, 0x4C, 0x50].contains (a % 0x10000) ||
    decide (0x1000 ≤ a % 0x10000 ∧ a % 0x10000 < 0x2000)))
end Sys2Proof.Cert

open Sys2Proof Sys2Proof.Machine Sys2Proof.Cert

/-! ### The block as a whole -/

/-- A step runs the command at the front of the queue on the state with the queue's rest. The queue is the model's form of "takes
commands from outside"; log entry 1. -/
def Obligations.StepRunsFrontCommand : Prop :=
  ∀ (c : Instr) (rest : List Instr) (s : State), s.pending = c :: rest → step s = exec c { s with pending := rest }

/-- With nothing commanded, one cycle of the timebase passes if the cadence unit does not act first: local time moves by the
increment in force while it advances, and everything but the clocks stays. The idle step is the model's choice, log entry 1. -/
def Obligations.IdleStepPassesOneCycle : Prop :=
  ∀ s : State, s.pending = [] →
    (s.dev.canPass 1 = true → ∃ t, step s = .next t ∧ t.mem = s.mem ∧ t.pending = [] ∧
      t.dev.time.cycle = s.dev.time.cycle + 1 ∧ t.dev.cad.since = s.dev.cad.since + 1 ∧
      t.dev.time.now = (if s.dev.time.adv then (s.dev.time.now + s.dev.time.inc) % 2 ^ 96 else s.dev.time.now) ∧
      t.dev = { s.dev with time := { s.dev.time with cycle := t.dev.time.cycle, now := t.dev.time.now },
                           cad := { s.dev.cad with since := t.dev.cad.since } }) ∧
    (s.dev.canPass 1 = false → step s = .next s)

namespace Sys2Proof.Cert

/-- No meaning touches the queue of waiting commands: only the step takes from it. -/
def MeaningsLeaveTheQueue : Prop :=
  ∀ (c : Instr) (s t : State), exec c s = .next t → t.pending = s.pending

/-- Every well-formed command runs in every state, and an ill-formed one is refused by name; nothing faults (log entry 6). -/
def WellFormedCommandsRun : Prop :=
  ∀ (c : Instr) (s : State), (c.wf = true → ∃ t, exec c s = .next t) ∧ (c.wf = false → exec c s = .refused .illFormed)

end Sys2Proof.Cert

/-- Every well-formed command is answered with a next state whose queue is as it was.
Choices of the model that it takes in: log entries 6 and 11. -/
def Obligations.MeaningsAnswer : Prop := MeaningsLeaveTheQueue ∧ WellFormedCommandsRun

/-- The canonical form of memory (addresses strictly rising, no entry equal to what an unlisted address reads as) is kept by every
step, whatever the command. -/
def Obligations.StepKeepsMemoryForm : Prop :=
  ∀ s t : State, Memory.wf s.mem = true → step s = .next t → Memory.wf t.mem = true

/-- Memory is in canonical form at reset.
Choices of the model that it takes in: log entry 8. -/
def Obligations.ResetMemoryForm : Prop := Memory.wf State.reset.mem = true

namespace Sys2Proof.Cert

/-- A byte of memory reads as last written, and every other byte as before. The word at `a` is little-endian: its byte at `a + i` holds
bits [8i + 7 : 8i]; words that the link or the SPI carries most significant bit first come to memory by value (R370). -/
def MemoryReadsAsWritten : Prop :=
  ∀ (m : Mem) (a : Nat), (∀ x : Byte, Mem.get (Mem.set m a x) a = x ∧ ∀ b, b ≠ a → Mem.get (Mem.set m a x) b = Mem.get m b) ∧
    (∀ w : Word, Mem.word (Mem.setWord m a w) a = w ∧ (∀ i, i < 4 → Mem.get (Mem.setWord m a w) (a + i) = w.extractLsb' (8 * i) 8) ∧
      (∀ i, i < 4 → (Mem.word m a).extractLsb' (8 * i) 8 = Mem.get m (a + i)) ∧
      (∀ b, (b < a ∨ a + 4 ≤ b) → Mem.get (Mem.setWord m a w) b = Mem.get m b) ∧ ∀ ws : List Word, beWords (ws.flatMap beBytes) = ws)

/-- A register reads as last written by `wr`, and every other register, every word in force and every other part of the device is
as before. -/
def RegistersReadAsWritten : Prop :=
  ∀ (d : Dev) (a : Nat) (w : Word), (d.wr a w).rd a = w ∧ (∀ b, b ≠ a → (d.wr a w).rd b = d.rd b) ∧
    ∃ m, d.wr a w = { d with regs := m }

end Sys2Proof.Cert

/-- Memory and registers read as last written, and a write leaves the others alone. -/
def Obligations.StoresReadAsWritten : Prop := MemoryReadsAsWritten ∧ RegistersReadAsWritten

/-- With no change, proposal or command waiting, what follows an event changes nothing (R57, R310: there is nothing to land and
nothing to answer).
Choices of the model that it takes in: log entries 35 and 48. -/
def Obligations.QuietStatesSettle : Prop := ∀ (d : Dev) (m : Mem), Quiet d → settled (d, m) = (d, m)
/-! ### The cadence unit (chapter 2) -/

/-- R43, R54: of several changes of one setting in a list exactly one takes effect, and none of the others was committed after it or,
in the same cycle, by an initiator that comes later in the order of R43; every other change is lost.
Choices of the model that it takes in: log entry 10. -/
def Obligations.LatestCommitWins : Prop :=
  ∀ ls : List Change,
    let kept := (superseded ls).1
    let lost := (superseded ls).2
    kept.Pairwise (fun a b => a.key ≠ b.key) ∧ (∀ x ∈ ls, ∃ c ∈ kept, c.key = x.key) ∧ kept.length + lost.length = ls.length ∧
      (∀ c ∈ kept, c ∈ ls) ∧
      ∀ c ∈ kept, ∀ x ∈ ls, x.key = c.key → x.stamp < c.stamp ∨ (x.stamp = c.stamp ∧ x.rank ≤ c.rank)

namespace Sys2Proof.Cert

/-- The cutoff of the next tick (R40): the clock has gone on to it, and a commit made from now on lands one tick later than one made
before it; where no change was pending and no numerology is held, none is pending now. -/
def CutoffFreezes : Prop :=
  ∀ s : State, s.dev.cad.running = true → s.dev.cad.frozen = false → s.dev.cad.midDone = true →
    ∃ d, Leads s .cutoff d ∧ d.cad.frozen = true ∧ d.cad.tickIdx = s.dev.cad.tickIdx ∧
      d.time.cycle = s.dev.time.cycle + s.dev.toCutoff ∧ d.cad.since = s.dev.cad.since + s.dev.toCutoff ∧
      s.dev.nextLanding = s.dev.cad.tickIdx + 1 ∧ d.nextLanding = s.dev.cad.tickIdx + 2 ∧
      (s.dev.cad.changes = [] → s.dev.cad.muHeld = none → d.cad.changes = [])

/-- The seam midpoint (R46, R51): half a seam length after the tick's edge a stepped register word that lands there is in force; here
one power-step index of a tile path, whose entry was latched at the cutoff (R83). Nothing that lands at this tick is left pending. -/
def SteppedWordLands : Prop :=
  ∀ (s : State) (t : Fin 4) (k : Fin 16) (w e : Word) (c : Change), s.dev.cad.running = true → s.dev.cad.midDone = false →
    s.dev.cad.changes = [c] → c.key = .word (Reg.TILE_PIDX t.val k.val) → c.words = [(Reg.TILE_PIDX t.val k.val, w, 0x3FF#32)] →
    c.latch = some e → c.land ≤ s.dev.cad.tickIdx → c.atFrame = false → s.dev.drunas.cmds = [] →
    ∃ d m, exec .seamMidpoint s = .next (after s (d, m)) ∧ d.cad.midDone = true ∧ d.cad.since = max s.dev.cad.since (s.dev.seamL / 2) ∧
      (d.inf (Reg.TILE_PIDX t.val k.val)).get 9 0 = w.get 9 0 ∧ (d.paths[pathOf t k]).pstep = e ∧ c ∉ d.cad.changes

/-- Ticks start (R57): at the frame boundary that was asked for, once local time has come to it, RUNNING is 1 and that boundary is the
nominal time of the first tick. -/
def TicksStartAtTheFrame : Prop :=
  ∀ (s : State) (f : Nat), s.dev.cad.startAt = some f → s.dev.cad.running = false → s.dev.time.adv = true →
    ∃ d m, exec .ticksStart s = .next (after s (d, m)) ∧ d.cad.running = true ∧ d.cad.startAt = none ∧ d.cad.nom = f ∧
      d.cad.tickIdx = s.dev.cad.tickIdx + 1 ∧ d.cad.since = 0 ∧ d.cad.midDone = false

end Sys2Proof.Cert

/-- The instants of the cadence unit beside the tick: cutoff, seam midpoint, start.
Choices of the model that it takes in: log entries 20, 65, 67, 76, 90 and 91. -/
def Obligations.CadenceInstants : Prop := CutoffFreezes ∧ SteppedWordLands ∧ TicksStartAtTheFrame

/-- A tick (R31 to R34) with its cutoff past and no time step ripe takes place whatever changes land there and whatever commands are
open: the next symbol begins at its nominal time, CADENCE_TICK_TIME shows that time and CADENCE_TICK_COUNT one tick more, wrapping;
at a frame boundary the event is raised; the queue stays. The symbol in the datapath makes room for the one that begins, which takes the
messages accepted for it (R290). CADENCE_SYMADDR shows the symbol's address; where no change of CADENCE_CFG
is pending, that is in the numerology in force before. While no ticks run there is none.
Choices of the model that it takes in: log entry 65. -/
def Obligations.TickBeginsTheSymbol : Prop :=
  (∀ s : State, s.dev.cad.running = true → s.dev.cad.midDone = true → s.dev.cad.frozen = true → s.dev.stepRipe = false →
    ∃ t, exec .tick s = .next t ∧ t.pending = s.pending ∧ t.dev.cad.tickIdx = s.dev.cad.tickIdx + 1 ∧
      t.dev.cad.nom = s.dev.nextNom ∧ t.dev.cad.since = 0 ∧ t.dev.cad.frozen = false ∧ t.dev.cad.midDone = false ∧
      t.dev.cad.running = true ∧ t.dev.rd Reg.CADENCE_TICK_COUNT = s.dev.rd Reg.CADENCE_TICK_COUNT + 1 ∧
      t.dev.rd Reg.CADENCE_TICK_TIME_LO = BitVec.ofNat 32 (sampTime s.dev.nextNom / fracScale) ∧
      (isFrame s.dev.nextNom = true → Set t.dev Reg.CADENCE_EVT 4) ∧
      t.dev.sig.cur.nom = s.dev.nextNom ∧ (s.dev.sig.cur.cycles ≠ 0 → t.dev.sig.prev.nom = s.dev.sig.cur.nom ∧
        t.dev.sig.prev.dl = s.dev.sig.cur.dl ∧ t.dev.sig.past = s.dev.sig.prev) ∧
      ((∀ c ∈ s.dev.cad.changes, c.key ≠ .cadenceCfg) → t.dev.rd Reg.CADENCE_SYMADDR = symAddr s.dev.mu s.dev.nextNom ∧
        ∀ x ∈ s.dev.link.accepted, x.addr = addrOfNom s.dev.mu s.dev.nextNom → x.bound ≤ dlBound s.dev.mu s.dev.nextNom →
          (x.flow, x.words) ∈ t.dev.sig.cur.dl)) ∧
  ∀ s : State, s.dev.cad.running = false → Leads s .tick s.dev

/-- The symbol grid (R32, R33): the lengths of Table 2.1 in samples at 491.52 Msps, for a normal symbol, its cyclic prefix, a long-CP
symbol, its cyclic prefix and the largest seam; the n-th symbol begins where the one before it ends; symbol l of slot s of a subframe is
a long-CP symbol exactly when (14 × s + l) mod (7 × 2^µ) = 0, and every other symbol has the normal cyclic prefix; the symbols of half
a millisecond fill it. -/
def Obligations.SymbolGrid : Prop :=
  (normalSym 0, cpLen 0 1, longSym 0, cpLen 0 0, seamMax 0) = (35072, 2304, 35328, 2560, 512) ∧
  (normalSym 1, cpLen 1 1, longSym 1, cpLen 1 0, seamMax 1) = (17536, 1152, 17792, 1408, 512) ∧
  (normalSym 2, cpLen 2 1, longSym 2, cpLen 2 0, seamMax 2) = (8768, 576, 9024, 832, 288) ∧
  (normalSym 3, cpLen 3 1, longSym 3, cpLen 3 0, seamMax 3) = (4384, 288, 4640, 544, 144) ∧
  ∀ mu n : Nat, mu < 4 →
    symStart mu (n + 1) = symStart mu n + symLen mu (symStart mu n) ∧ symIndex mu (symStart mu n) = n ∧
    symStart mu (n + 7 * 2 ^ mu) = symStart mu n + 245760 ∧
    ∀ s l : Nat, s < 2 ^ mu → l < 14 →
      let t := symStart mu (14 * 2 ^ mu * n + (14 * s + l))
      (isLong t = true ↔ (14 * s + l) % (7 * 2 ^ mu) = 0) ∧ symLen mu t = (if isLong t then longSym mu else normalSym mu) ∧
        cpLen mu t = (if isLong t then cpLen mu 0 else cpLen mu 1)
/-! ### Chisel instructions (chapter 8) -/

/-- R225: the integer instructions work on 32-bit values that wrap; SHR shifts arithmetically; a count uses bits [4:0]. They write
S_D, raise no flag, and change no other register, no byte of memory and no other core. LI and ADDI take their immediate. -/
def Obligations.ChiselIntegerResults : Prop :=
  ∀ (s : State) (c : Fin 16) (k : Kernel) (d a b : Fin 32) (imm : Word) (h : BitVec 16), Issues s c k →
    let x := ctxOf s c
    let A := x.s[sIx a]
    let B := x.s[sIx b]
    WritesScalar s (.add c d a b) c (sIx d) (A + B) x.flags ∧
    WritesScalar s (.sub c d a b) c (sIx d) (A - B) x.flags ∧
    WritesScalar s (.and c d a b) c (sIx d) (A &&& B) x.flags ∧
    WritesScalar s (.or c d a b) c (sIx d) (A ||| B) x.flags ∧
    WritesScalar s (.xor c d a b) c (sIx d) (A ^^^ B) x.flags ∧
    WritesScalar s (.shl c d a b) c (sIx d) (A <<< (B.extractLsb' 0 5).toNat) x.flags ∧
    WritesScalar s (.shr c d a b) c (sIx d) (A.sshiftRight (B.extractLsb' 0 5).toNat) x.flags ∧
    WritesScalar s (.mul c d a b) c (sIx d) (BitVec.ofNat 32 (A.toNat * B.toNat)) x.flags ∧
    WritesScalar s (.li c d imm) c (sIx d) imm x.flags ∧
    WritesScalar s (.addi c d a h) c (sIx d) (BitVec.ofInt 32 (A.toInt + h.toInt)) x.flags

namespace Sys2Proof.Cert

/-- FADD, FMUL and FMA write S_D with the rounded value and gather its flags (R224, R228); FMA adds the old S_D. GETF takes the
flags into S_D and clears them; VRED sums the accumulator's lanes as the tree of R226. -/
def ChiselScalarFloat : Prop :=
  ∀ (s : State) (c : Fin 16) (k : Kernel) (d a b : Fin 32), Issues s c k →
    let x := ctxOf s c
    let A := x.s[sIx a]
    let B := x.s[sIx b]
    let D := x.s[sIx d]
    WritesScalar s (.fadd c d a b) c (sIx d) (fpAdd A B).val (x.flags ||| (fpAdd A B).flags) ∧
    WritesScalar s (.fmul c d a b) c (sIx d) (fpMul A B).val (x.flags ||| (fpMul A B).flags) ∧
    WritesScalar s (.fma c d a b) c (sIx d) (fpFma A B D).val (x.flags ||| (fpFma A B D).flags) ∧
    WritesScalar s (.getf c d) c (sIx d) (BitVec.ofNat 32 x.flags) 0 ∧
    WritesScalar s (.vred c d a) c (sIx d) (fpTree x.a[aIx a]).val (x.flags ||| (fpTree x.a[aIx a]).flags)

/-- The vector instructions act lane by lane and gather the flags of all lanes (R224, R228); the complex product pairs lanes 2i
(real) and 2i + 1 (imaginary). Every other register and all of memory stay. -/
def ChiselVectorLanes : Prop :=
  ∀ (s : State) (c : Fin 16) (k : Kernel) (d a b : Fin 32), Issues s c k →
    let x := ctxOf s c
    let A := x.v[a]
    let B := x.v[b]
    let D := x.v[d]
    let lanes := fun (i : Instr) (f : Fin 16 → Fp) =>
      ∃ (w : Vector Word 16) (fl : Nat), WritesVector s i c d w fl ∧ LaneWise w fl x.flags f
    lanes (.vadd c d a b) (fun i => fpAdd A[i] B[i]) ∧ lanes (.vsub c d a b) (fun i => fpSub A[i] B[i]) ∧
    lanes (.vmul c d a b) (fun i => fpMul A[i] B[i]) ∧ lanes (.vfma c d a b) (fun i => fpFma A[i] B[i] D[i]) ∧
    lanes (.vmax c d a b) (fun i => fpPick true A[i] B[i]) ∧ lanes (.vmin c d a b) (fun i => fpPick false A[i] B[i]) ∧
    lanes (.vabs c d a) (fun i => fpAbs A[i]) ∧ lanes (.vsqrt c d a) (fun i => fpSqrt A[i]) ∧
    lanes (.vdiv c d a b) (fun i => fpDiv A[i] B[i]) ∧ lanes (.vcmul c d a b) (fun i => cmulLane A B i)

/-- VPERM picks lanes of V_A by V_B modulo 16; VBCAST copies S_A to every lane; VMOVA copies A_A to V_D, or V_A to A_D where bit 4
of D is 1 (R228). No flag changes. -/
def ChiselVectorMoves : Prop :=
  ∀ (s : State) (c : Fin 16) (k : Kernel) (d a b : Fin 32), Issues s c k →
    let x := ctxOf s c
    (∃ w, WritesVector s (.vperm c d a b) c d w x.flags ∧
      ∀ i j : Fin 16, j.val = ((x.v[b])[i]).toNat % 16 → w[i] = (x.v[a])[j]) ∧
    (∃ w, WritesVector s (.vbcast c d a) c d w x.flags ∧ ∀ i : Fin 16, w[i] = x.s[sIx a]) ∧
    (d.val < 16 → WritesVector s (.vmova c d a) c d x.a[aIx a] x.flags) ∧
    (16 ≤ d.val → ∃ y, exec (.vmova c d a) s = .next (withCtx s c y) ∧ y.a = x.a.set (aIx d) x.v[a] ∧ y.s = x.s ∧ y.v = x.v ∧
      y.flags = x.flags)

end Sys2Proof.Cert

/-- The floating-point instructions, scalar and by lanes, and the moves of vectors.
Choices of the model that it takes in: log entries 14 and 16. -/
def Obligations.ChiselFloatAndVectors : Prop := ChiselScalarFloat ∧ ChiselVectorLanes ∧ ChiselVectorMoves

namespace Sys2Proof.Cert

/-- Loads inside the kernel's allocation: LD and VLD bring one or sixteen elements, VLD2 two vectors from X and Y, and each pointer
moves on by its increment (R218, R219). No flag changes and no byte of memory. -/
def ChiselLoads : Prop :=
  ∀ (s : State) (c : Fin 16) (k : Kernel) (d : Fin 32) (p q : MemOp), Issues s c k →
    let x := ctxOf s c
    (k.reaches [.x, .y, .c] (x.addr p) 4 = true → ∃ y, exec (.ld c d p) s = .next (withCtx s c y) ∧
      y.s = (bumped x.s p).set (sIx d) (elemAt s.mem c.val (x.addr p)) ∧ y.v = x.v ∧ y.a = x.a ∧ y.flags = x.flags) ∧
    (k.reaches [.x, .y] (x.addr p) 64 = true → ∃ y, exec (.vld c d p) s = .next (withCtx s c y) ∧
      y.v = x.v.set d (vecAt s.mem c.val (x.addr p)) ∧ y.s = bumped x.s p ∧ y.a = x.a ∧ y.flags = x.flags) ∧
    (k.reaches [.x] (x.addr p) 64 = true → k.reaches [.y] (x.addr q) 64 = true →
      ∃ y, exec (.vld2 c d p q) s = .next (withCtx s c y) ∧
        y.v = (x.v.set d (vecAt s.mem c.val (x.addr p))).set (d + 1 : Fin 32) (vecAt s.mem c.val (x.addr q)) ∧
        y.s = bumped (bumped x.s p) q ∧ y.a = x.a ∧ y.flags = x.flags)

/-- Stores inside the kernel's allocation: ST writes one element, VST and VSTA sixteen, at the pointer's address; the pointer moves
on; VSTA clears its accumulator. Every byte outside the stored elements stays, and no flag changes (R218, R219). -/
def ChiselStores : Prop :=
  ∀ (s : State) (c : Fin 16) (k : Kernel) (d : Fin 32) (p : MemOp), Issues s c k →
    let x := ctxOf s c
    let at_ := coreAddr c.val (x.addr p)
    (k.reaches [.x, .y] (x.addr p) 4 = true → ∃ y m, exec (.st c d p) s = .next { withCtx s c y with mem := m } ∧
      y.s = bumped x.s p ∧ y.v = x.v ∧ y.a = x.a ∧ y.flags = x.flags ∧ Mem.word m at_ = x.s[sIx d] ∧
      ∀ b, (b < at_ ∨ at_ + 4 ≤ b) → Mem.get m b = Mem.get s.mem b) ∧
    (k.reaches [.x, .y] (x.addr p) 64 = true →
      (∃ y m, exec (.vst c d p) s = .next { withCtx s c y with mem := m } ∧ y.s = bumped x.s p ∧ y.v = x.v ∧ y.a = x.a ∧
        y.flags = x.flags ∧ (∀ i : Fin 16, Mem.word m (at_ + 4 * i.val) = (x.v[d])[i]) ∧
        ∀ b, (b < at_ ∨ at_ + 64 ≤ b) → Mem.get m b = Mem.get s.mem b) ∧
      (∃ y m, exec (.vsta c d p) s = .next { withCtx s c y with mem := m } ∧ y.s = bumped x.s p ∧ y.v = x.v ∧
        y.a = x.a.set (aIx d) (Vector.replicate 16 0) ∧ y.flags = x.flags ∧
        (∀ i : Fin 16, Mem.word m (at_ + 4 * i.val) = (x.a[aIx d])[i]) ∧
        ∀ b, (b < at_ ∨ at_ + 64 ≤ b) → Mem.get m b = Mem.get s.mem b))

end Sys2Proof.Cert

/-- Loads and stores inside the allocation of a kernel.
Choices of the model that it takes in: log entries 17 and 79. -/
def Obligations.ChiselLoadsAndStores : Prop := ChiselLoads ∧ ChiselStores

/-- The multiply-accumulate instructions add to A_D, lane by lane: VMAC X times Y, VCMAC their complex product, VMACC V_A times one
element of C, TAPMV one element of C times V_A as it stood, after which V_A moves down one lane and takes an element of X (R229).
Pointers move on, and no byte of memory changes. -/
def Obligations.ChiselAccumulate : Prop :=
  ∀ (s : State) (c : Fin 16) (k : Kernel) (d a : Fin 32) (p q : MemOp), Issues s c k →
    let x := ctxOf s c
    let X := vecAt s.mem c.val (x.addr p)
    let Y := vecAt s.mem c.val (x.addr q)
    let e := elemAt s.mem c.val (x.addr q)
    let A := x.v[a]
    let D := x.a[aIx d]
    let acc := fun (i : Instr) (v' : Vector (Vector Word 16) 32) (s' : Vector Word 16) (f : Fin 16 → Fp) =>
      ∃ (y : Ctx) (w : Vector Word 16), exec i s = .next (withCtx s c y) ∧ y.a = x.a.set (aIx d) w ∧ y.v = v' ∧ y.s = s' ∧
        LaneWise w y.flags x.flags f
    (k.reaches [.x] (x.addr p) 64 = true → k.reaches [.y] (x.addr q) 64 = true →
      acc (.vmac c d p q) x.v (bumped (bumped x.s p) q) (fun i => fpFma X[i] Y[i] D[i]) ∧
      acc (.vcmac c d p q) x.v (bumped (bumped x.s p) q) (fun i => cmacLane X Y D i)) ∧
    (k.reaches [.c] (x.addr q) 4 = true → acc (.vmacc c d a q) x.v (bumped x.s q) (fun i => fpFma A[i] e D[i])) ∧
    (k.reaches [.x] (x.addr p) 4 = true → k.reaches [.c] (x.addr q) 4 = true →
      ∃ v : Vector Word 16, acc (.tapmv c d a p q) (x.v.set a v) (bumped (bumped x.s p) q) (fun i => fpFma e A[i] D[i]) ∧
        (∀ i j : Fin 16, j.val = i.val + 1 → v[i] = A[j]) ∧ v[(15 : Fin 16)] = elemAt s.mem c.val (x.addr p))

/-- An access that the kernel's allocation does not take stops the activation: CHISEL_FAULT counts it, CHISEL_EVT bit 3 is set, no
activation of the kernel is left, and no register of it has changed (R218, R241).
Choices of the model that it takes in: log entry 17. -/
def Obligations.ChiselAccessFault : Prop :=
  ∀ (s : State) (c : Fin 16) (k : Kernel) (d a : Fin 32) (p q : MemOp), Issues s c k → k.user = true →
    let x := ctxOf s c
    ∀ i : Instr,
      (i = .ld c d p ∧ k.reaches [.x, .y, .c] (x.addr p) 4 = false) ∨ (i = .st c d p ∧ k.reaches [.x, .y] (x.addr p) 4 = false) ∨
      (i = .vld c d p ∧ k.reaches [.x, .y] (x.addr p) 64 = false) ∨ (i = .vst c d p ∧ k.reaches [.x, .y] (x.addr p) 64 = false) ∨
      (i = .vsta c d p ∧ k.reaches [.x, .y] (x.addr p) 64 = false) ∨
      ((i = .vld2 c d p q ∨ i = .vmac c d p q ∨ i = .vcmac c d p q) ∧
        (k.reaches [.x] (x.addr p) 64 && k.reaches [.y] (x.addr q) 64) = false) ∨
      (i = .vmacc c d a q ∧ k.reaches [.c] (x.addr q) 4 = false) ∨
      (i = .tapmv c d a p q ∧ (k.reaches [.x] (x.addr p) 4 && k.reaches [.c] (x.addr q) 4) = false) →
    ∃ t, exec i s = .next t ∧ t.dev.rd Reg.CHISEL_FAULT = (s.dev.count32 Reg.CHISEL_FAULT).rd Reg.CHISEL_FAULT ∧
      (t.dev.rd Reg.CHISEL_EVT).bit 3 = true ∧ t.pending = s.pending ∧ t.dev.freeCtr = s.dev.freeCtr + k.x.2 / 4 + k.y.2 / 4 + k.win.2 / 4 ∧
      ∀ b, (∀ u ∈ [(coreAddr c.val k.x.1, k.x.2), (coreAddr c.val k.y.1, k.y.2), (k.win.1, k.win.2)], b < u.1 ∨ u.1 + u.2 ≤ b) →
        Mem.get t.mem b = Mem.get s.mem b

/-- Branches and loops (R230): BR always jumps to S_A, BZ and BNZ where S_B is or is not zero, and a jump ends every loop whose
body it leaves; LOOP starts a loop of its body, and a count of 0 skips it. No register, flag or byte of memory changes.
Choices of the model that it takes in: log entry 15. -/
def Obligations.ChiselControl : Prop :=
  ∀ (s : State) (c : Fin 16) (k : Kernel) (a b : Fin 32) (n body : BitVec 16), Issues s c k →
    let x := ctxOf s c
    let target := (x.s[sIx a]).toNat
    let kept := x.loops.filter fun l => decide (l.start ≤ target ∧ target < l.stop)
    let on := loopBack (x.pc + 1) x.loops
    Moves s (.br c a) c target kept ∧
    (x.s[sIx b] = 0 → Moves s (.bz c a b) c target kept ∧ Moves s (.bnz c a b) c on.1 on.2.1) ∧
    (x.s[sIx b] ≠ 0 → Moves s (.bnz c a b) c target kept ∧ Moves s (.bz c a b) c on.1 on.2.1) ∧
    (n = 0 → Moves s (.loop c n body) c (x.pc + 1 + body.toNat) x.loops) ∧
    (n ≠ 0 → body ≠ 0 → x.loops.length < 3 →
      Moves s (.loop c n body) c (x.pc + 1) (⟨x.pc + 1, x.pc + 1 + body.toNat, n.toNat, false⟩ :: x.loops))

namespace Sys2Proof.Cert

/-- XFER starts a background transfer of a block inside the kernel's allocation and window: the third outstanding one stalls the
core. XWAIT makes the core wait while one is outstanding. A transfer that completes moves its block and no other byte (R222). -/
def ChiselTransfers : Prop :=
  ∀ (s : State) (c : Fin 16) (k : Kernel) (a b : Fin 32) (up : Bool) (n : BitVec 24), Issues s c k →
    let x := ctxOf s c
    let la := (x.s[sIx a]).toNat
    let cl := (x.s[sIx b]).toNat
    let y := s.dev.chisel.cores[c]
    (n.toNat % 4 = 0 → k.reaches [.x, .y, .c, .i] la n.toNat = true → cl % 4 = 0 → k.win.1 ≤ cl → cl + n.toNat ≤ k.win.1 + k.win.2 →
      ∃ t, exec (.xfer c a b up n) s = .next t ∧ t.mem = s.mem ∧ t.pending = s.pending ∧
        t.dev = { s.dev with chisel := { s.dev.chisel with cores := t.dev.chisel.cores } } ∧
        (∀ j : Fin 16, j ≠ c → t.dev.chisel.cores[j] = s.dev.chisel.cores[j]) ∧
        (y.xfers.length < 2 → (t.dev.chisel.cores[c]).xfers = y.xfers ++ [⟨la, cl, n.toNat, up⟩] ∧ (t.dev.chisel.cores[c]).held = none) ∧
        (2 ≤ y.xfers.length → (t.dev.chisel.cores[c]).xfers = y.xfers ∧ (t.dev.chisel.cores[c]).held = some ⟨la, cl, n.toNat, up⟩)) ∧
    (∃ t, exec (.xwait c) s = .next t ∧ t.mem = s.mem ∧ t.pending = s.pending ∧
        t.dev = { s.dev with chisel := { s.dev.chisel with cores := t.dev.chisel.cores } } ∧
        (∀ j : Fin 16, j ≠ c → t.dev.chisel.cores[j] = s.dev.chisel.cores[j]) ∧ (t.dev.chisel.cores[c]).waiting = !y.xfers.isEmpty)

/-- The oldest outstanding transfer of a core completes: exactly its block has been copied, and a held third transfer takes its
place (R222). -/
def ChiselTransferDone : Prop :=
  ∀ (s : State) (c : Fin 16) (n : Nat) (x : Xfer) (xs : List Xfer), (s.dev.chisel.cores[c]).xfers = x :: xs →
    ∃ t, exec (.xferDone c n) s = .next t ∧ t.pending = s.pending ∧
      (t.dev.chisel.cores[c]).xfers = xs ++ (s.dev.chisel.cores[c]).held.toList ∧ (t.dev.chisel.cores[c]).held = none ∧
      t.dev.regs = s.dev.regs ∧ t.dev.cad = s.dev.cad ∧ t.dev.time = s.dev.time ∧
      (x.toCluster = true → (∀ i, i < x.bytes → Mem.get t.mem (x.cluster + i) = Mem.get s.mem (coreAddr c.val (x.local_ + i))) ∧
        ∀ b, (b < x.cluster ∨ x.cluster + x.bytes ≤ b) → Mem.get t.mem b = Mem.get s.mem b) ∧
      (x.toCluster = false → (∀ i, i < x.bytes → Mem.get t.mem (coreAddr c.val (x.local_ + i)) = Mem.get s.mem (x.cluster + i)) ∧
        ∀ b, (b < coreAddr c.val x.local_ ∨ coreAddr c.val x.local_ + x.bytes ≤ b) → Mem.get t.mem b = Mem.get s.mem b)

end Sys2Proof.Cert

/-- Background transfers: begun, waited for, completed. -/
def Obligations.ChiselBackgroundTransfers : Prop := ChiselTransfers ∧ ChiselTransferDone

namespace Sys2Proof.Cert

/-- The ends of an activation (R228, R239, R241): END counts it and keeps the flags of the activation with the kernel; an illegal
word or reaching W stops it, counted in CHISEL_FAULT or CHISEL_OVERRUN; an END in the very cycle in which W is reached prevails
(R12). -/
def ChiselActivations : Prop :=
  ∀ (s : State) (c : Fin 16) (k : Kernel), Issues s c k → k.user = true → (s.dev.chisel.cores[c]).testing = false →
    s.dev.kernel? k.slot = some k → (∀ o ∈ s.dev.chisel.kernels, o.active.isSome = true → o.slot = k.slot) →
    (∃ t, exec (.endAct c) s = .next t ∧ t.mem = s.mem ∧ t.pending = s.pending ∧ (t.dev.chisel.cores[c]).run = none ∧
      t.dev.regs = s.dev.regs ∧
      (k.unload = false → ∃ k', t.dev.kernel? k.slot = some k' ∧ k'.active = none ∧ k'.fpf = (ctxOf s c).flags ∧
        k'.last = (ctxOf s c).now + 1 ∧ k'.acts = min (k.acts + 1) (2 ^ 32 - 1))) ∧
    (∃ t, exec (.illegalInstruction c) s = .next t ∧ (t.dev.chisel.cores[c]).run = none ∧ (t.dev.rd Reg.CHISEL_EVT).bit 2 = true ∧
      t.dev.rd Reg.CHISEL_FAULT = (s.dev.count32 Reg.CHISEL_FAULT).rd Reg.CHISEL_FAULT) ∧
    YieldsTo s (.activationOverrun c) (fun i => i == .endAct c) ∧
    (¬ ArrivesNow s (fun i => i == .endAct c) → ∃ t, exec (.activationOverrun c) s = .next t ∧
      (t.dev.chisel.cores[c]).run = none ∧ (t.dev.rd Reg.CHISEL_EVT).bit 1 = true ∧
      t.dev.rd Reg.CHISEL_OVERRUN = (s.dev.count32 Reg.CHISEL_OVERRUN).rd Reg.CHISEL_OVERRUN)

/-- A kernel that is due is released at its tick (R217, R239, R246): its count is one more, it has the deadline of its span, and where
its core is free its activation runs with the count in S0, its window in S1 and its X, Y and C allocations in S8 to S10. -/
def ChiselRelease : Prop :=
  ∀ (s : State) (n : Nat) (k : Kernel), s.dev.kernel? n = some k → s.dev.releaseDue n = true →
    ∃ t, exec (.kernelRelease n) s = .next t ∧ t.mem = s.mem ∧ t.pending = s.pending ∧ t.dev.regs = s.dev.regs ∧
      (∃ k', t.dev.kernel? n = some k' ∧ k'.count = k.count + 1 ∧ k'.active = some (s.dev.cad.tickIdx + k.span - 1) ∧
        k'.released = true ∧ k'.trigger = false) ∧
      (let y := s.dev.chisel.cores[toCore k.core]
       y.run = none → y.retired = false → y.testing = false → y.waiting = false → y.held = none → k.core < 16 →
        (∀ o ∈ s.dev.chisel.kernels, o.active = none) →
        let x := ctxOf t (toCore k.core)
        (t.dev.chisel.cores[toCore k.core]).run = some n ∧ x.pc = k.entry ∧ x.loops = [] ∧ x.now = 0 ∧
          x.s[0] = BitVec.ofNat 32 (k.count + 1) ∧ x.s[1] = BitVec.ofNat 32 k.win.1 ∧ x.s[8] = BitVec.ofNat 32 k.x.1 ∧
          x.s[9] = BitVec.ofNat 32 k.y.1 ∧ x.s[10] = BitVec.ofNat 32 k.c.1 ∧ x.v = k.ctx.v ∧ x.a = k.ctx.a ∧ x.flags = k.ctx.flags)

end Sys2Proof.Cert

/-- Activations: how they begin and how they end.
Choices of the model that it takes in: log entries 17, 34 and 83. -/
def Obligations.ChiselActivationLife : Prop := ChiselActivations ∧ ChiselRelease

namespace Sys2Proof.Cert

/-- VDSP reaching its target lets a change of operating point take effect at the next tick; where it does not within its bound, the
cluster stays at the operating point it has, with POWER_EVT bit 7 and VDSP's target back at that point's voltage (R234, R442). -/
def ChiselSupply : Prop :=
  ∀ (s : State) (op : Nat), s.dev.chisel.opTgt = some op → s.dev.chisel.op < op → s.dev.chisel.settled = false →
    s.dev.chisel.waitLoads = [] →
    exec .vdspSettled s = .next (withDev s { s.dev with chisel := { s.dev.chisel with settled := true } }) ∧
    YieldsTo s .vdspSettleTimeout (fun i => i == .vdspSettled) ∧
    (¬ ArrivesNow s (fun i => i == .vdspSettled) → ∃ t, exec .vdspSettleTimeout s = .next t ∧
      t.mem = s.mem ∧ t.pending = s.pending ∧ t.dev.chisel.op = s.dev.chisel.op ∧
      t.dev.chisel.opTgt = none ∧ t.dev.chisel.opHeld = true ∧ (t.dev.rd Reg.POWER_EVT).bit 7 = true ∧
      (t.dev.rd Reg.POWER_VOLT).get 15 0 = opVolt s.dev.chisel.op)

/-- An ECC error of a local RAM (R220): a corrected one reports to the core's source and touches no activation; one that cannot be
corrected ends the core's activation as an access fault does, and reports. -/
def ChiselEccReport : Prop :=
  ∀ (s : State) (c : Fin 16) (r : CoreRam),
    exec (.chiselEccError c r true) s = .next (withDev s (s.dev.report (toSrc (181 + c.val)))) ∧
    ∀ (k : Kernel) (n : Nat), (s.dev.chisel.cores[c]).run = some n → s.dev.kernel? n = some k → k.user = true →
      (∀ o ∈ s.dev.chisel.kernels, o.active.isSome = true → o.slot = n) →
      ∃ t, exec (.chiselEccError c r false) s = .next t ∧ t.pending = s.pending ∧ (t.dev.rd Reg.CHISEL_EVT).bit 3 = true ∧
        t.dev.rd Reg.CHISEL_FAULT = (s.dev.count32 Reg.CHISEL_FAULT).rd Reg.CHISEL_FAULT

end Sys2Proof.Cert

/-- The supply of the cluster and the ECC of its RAMs.
Choices of the model that it takes in: log entry 83. -/
def Obligations.ChiselClusterEvents : Prop := ChiselSupply ∧ ChiselEccReport
/-! ### RF tiles and converters (chapters 3 and 4) -/

/-- While ticks run, a path reaches the mode of its transition (R61): one that enters Receive marks its samples for the settling
length, and marks while its tile's LO is unqualified (R80, R101); away from Receive nothing else changes. A tile reaches SynthOn with
its active synthesizer qualified, or a lower level once no path is on air, and TILE_EVT bit 1 is set; one that goes from Sleep to
SynthOn passes Standby.
Choices of the model that it takes in: log entries 19, 69, 73 and 87. -/
def Obligations.TransitionsReachTheirState : Prop :=
  ∀ s : State, s.dev.cad.running = true →
    (∀ (p : Fin 64) (m : Nat), (s.dev.paths[p]).transit = some m →
      ∃ d, Leads s (.stateTransitionDone (.path p)) d ∧ (d.paths[p]).mode = m ∧ (d.paths[p]).transit = none ∧
        (∀ q : Fin 64, q ≠ p → d.paths[q] = s.dev.paths[q]) ∧ d.tiles = s.dev.tiles ∧ d.cad = s.dev.cad ∧
        SameRegsBut [chStatus p] s.dev d ∧
        (m = 1 → s.dev.settleLen ≠ 0 → s.dev.cad.since + s.dev.settleLen ≤ (d.paths[p]).settle) ∧
        (m = 1 → ((s.dev.tiles[tileOf p]).syn (s.dev.tiles[tileOf p]).act).qual = false → Set d (chStatus p) 2) ∧
        (m ≠ 1 → (s.dev.paths[p]).mode ≠ 1 → d = s.dev.modPath p fun x => { x with mode := m, transit := none })) ∧
    (∀ (t : Fin 4) (g : Nat), (s.dev.tiles[t]).goal = some g → (s.dev.tiles[t]).via = false →
      (g < 2 → ∀ p ∈ pathsOf t, (s.dev.paths[p]).mode = 0 ∧ (s.dev.paths[p]).transit = none) →
      (g = 2 → ((s.dev.tiles[t]).syn (s.dev.tiles[t]).act).qual = true ∧
        wordValid ((s.dev.tiles[t]).syn (s.dev.tiles[t]).act).int ((s.dev.tiles[t]).syn (s.dev.tiles[t]).act).frac = true) →
      ∃ d, Leads s (.stateTransitionDone (.tile t)) d ∧ (d.tiles[t]) = { s.dev.tiles[t] with level := g, goal := none } ∧
        (∀ u : Fin 4, u ≠ t → d.tiles[u] = s.dev.tiles[u]) ∧ Set d (Reg.TILE_EVT t.val) 1 ∧
        SameRegsBut [Reg.TILE_EVT t.val] s.dev d ∧ d.paths = s.dev.paths) ∧
    (∀ t : Fin 4, (s.dev.tiles[t]).goal = some 2 → (s.dev.tiles[t]).via = true →
      ∃ d, Leads s (.stateTransitionDone (.tile t)) d ∧ (d.tiles[t]).level = 1 ∧ (d.tiles[t]).goal = some 2 ∧
        (d.tiles[t]).via = false ∧ Set d (Reg.TILE_EVT t.val) 1 ∧ d.paths = s.dev.paths)

namespace Sys2Proof.Cert

/-- R69: a running synthesizer that loses its qualification is no longer LO-qualified and TILE_EVT bit 2 (A) or 3 (B) is set; a
number of slips is added to its count. On the active synthesizer at SynthOn the tile's output is held, while on the other nothing of
the paths changes. -/
def LoQualificationLost : Prop :=
  ∀ (s : State) (t : Fin 4) (b : Bool) (n : Nat), ((s.dev.tiles[t]).syn b).run = true → ((s.dev.tiles[t]).syn b).qual = true →
    ∃ d, Leads s (.loQualLost t b (.slip n)) d ∧ ((d.tiles[t]).syn b).qual = false ∧ ((d.tiles[t]).syn b).run = true ∧
      Set d (Reg.TILE_EVT t.val) (if b then 3 else 2) ∧
      (d.rd (Reg.TILE_SYN_SLIPS t.val)).get (if b then 31 else 15) (if b then 16 else 0) =
        min 65535 ((s.dev.rd (Reg.TILE_SYN_SLIPS t.val)).get (if b then 31 else 15) (if b then 16 else 0) + n) ∧
      ((s.dev.tiles[t]).act = b → (s.dev.tiles[t]).level = 2 → (s.dev.tiles[t]).goal = none → (d.tiles[t]).txHeld = true) ∧
      ((s.dev.tiles[t]).act ≠ b → d.paths = s.dev.paths ∧ (d.tiles[t]).txHeld = (s.dev.tiles[t]).txHeld)

/-- R69, R522: a running synthesizer with a valid word and a stored band, relocked in that band, is LO-qualified again with the band
it had; while ticks run and no re-banding was to hand over, nothing else changes, but that a span of unsettled receive samples ends
with it where it is the active one (R80). -/
def LoQualificationRegained : Prop :=
  ∀ (s : State) (t : Fin 4) (b : Bool), s.dev.cad.running = true →
    let y := (s.dev.tiles[t]).syn b
    y.run = true → y.qual = false → y.retired = false → wordValid y.int y.frac = true → y.busy ≠ .cold → y.band.isSome = true →
    (s.dev.tiles[t]).rebandHo = false →
    ∃ d, Leads s (.loQualified t b) d ∧ (d.tiles[t]).syn b = { y with qual := true, ld := true, busy := .none } ∧
      (d.tiles[t]).syn (!b) = (s.dev.tiles[t]).syn (!b) ∧ d = { s.dev with tiles := d.tiles } ∧
      (∀ u : Fin 4, u ≠ t → d.tiles[u] = s.dev.tiles[u]) ∧ ((s.dev.tiles[t]).act = b → (d.tiles[t]).loFrom = none) ∧
      ((s.dev.tiles[t]).loFrom = none →
        d = s.dev.modTile t fun x => x.modSyn b fun y => { y with qual := true, ld := true, busy := .none })

/-- R70: a tuning voltage that leaves its track window marks its synthesizer; on the active one at SynthOn the hot standby, where it
runs, is re-banded to take over, and otherwise the active one waits to be re-banded in the next idle window. -/
def TrackWindowExit : Prop :=
  ∀ (s : State) (t : Fin 4), s.dev.cad.running = true →
    let x := s.dev.tiles[t]
    (x.syn x.act).run = true → (x.syn x.act).qual = true → x.level = 2 →
    (∃ d, Leads s (.vtTrackExit t x.act) d ∧ ((d.tiles[t]).syn x.act).vt = true ∧ ((d.tiles[t]).syn x.act).qual = true ∧
      (s.dev.stbyRole t = 1 → (x.syn !x.act).run = true →
        (d.tiles[t]).rebandHo = true ∧ ((d.tiles[t]).syn !x.act).qual = false ∧ ((d.tiles[t]).syn !x.act).busy = .cold) ∧
      (s.dev.stbyRole t ≠ 1 → (d.tiles[t]).reband = true ∧ d.regs = s.dev.regs)) ∧
    ((x.syn !x.act).run = true → (x.syn !x.act).qual = true →
      Leads s (.vtTrackExit t (!x.act)) (s.dev.modTile t fun x => x.modSyn (!x.act) fun y => { y with vt := true }))

end Sys2Proof.Cert

/-- LO qualification: lost, regained, and the exit from the track window.
Choices of the model that it takes in: log entries 75 and 87. -/
def Obligations.LoQualification : Prop := LoQualificationLost ∧ LoQualificationRegained ∧ TrackWindowExit

namespace Sys2Proof.Cert

/-- The relief rotation (R105 to R111) while ticks run: a slot that starts makes the free relief pairs shadow the slot's path; a
window that closes lets the comparator judge; a ratio within CMP_LIMIT commits the handover, which lands at a tick, and so does a
window without a comparison, which is recorded; a ratio beyond the limit is counted and frees the pair of a failed takeover. While no
ticks run the rotation pauses. -/
def ReliefRotation : Prop :=
  ∀ (s : State) (t : Fin 4) (dac : Bool),
    let x := (s.dev.relief[t]).pair dac
    let handsOver := fun (d : Dev) => ((d.relief[t]).pair dac).closed = false ∧
      ∃ c, d.cad.changes = s.dev.cad.changes ++ [c] ∧ c.key = .relief t dac ∧ c.arg = (if x.phase = 1 then 1 else 0) ∧
        c.land = s.dev.nextLanding
    (s.dev.cad.running = true → (s.dev.relief[t]).stops = false → (s.dev.relief[t]).started = true →
      (s.dev.relief[t]).adc.failedReturn = false → (s.dev.relief[t]).dac.failedReturn = false →
      let k := s.dev.slotAfter t (s.dev.relief[t]).slot
      ∃ d, Leads s (.reliefSlotStart t) d ∧ (d.relief[t]).slot = k ∧
        (x.retired = false → x.testing = false → s.dev.reliefRuns t.val dac = true → x.phase = 0 → x.forRetired = false →
          (k < 16 → ((d.relief[t]).pair dac).phase = 1 ∧ ((d.relief[t]).pair dac).path = k) ∧
          (k = 16 → ((d.relief[t]).pair dac).calibrating = true)) ∧
        d = { s.dev with relief := d.relief } ∧ ∀ u : Fin 4, u ≠ t → d.relief[u] = s.dev.relief[u]) ∧
    (s.dev.cad.running = true → x.phase = 1 ∨ x.phase = 3 →
      Leads s (.reliefWindowClose t dac) (s.dev.modRelief t fun r => r.modPair dac fun x => { x with closed := true })) ∧
    (s.dev.cad.running = true → x.closed = true → 0 < x.whole → ∀ ratio : Nat,
      ratio ≤ (s.dev.rd (Reg.TILE_RELIEF_CFG t.val)).get 7 0 →
      ∃ d, Leads s (.reliefCompareDone t dac ratio true) d ∧ handsOver d ∧ (d.relief[t]).nocmp = false ∧
        (d.rd (Reg.TILE_RELIEF_METRIC t.val)).get (if dac then 15 else 7) (if dac then 8 else 0) = ratio ∧
        SameRegsBut [Reg.TILE_RELIEF_METRIC t.val] s.dev d) ∧
    (s.dev.cad.running = true → x.closed = true → ∀ (ratio : Nat) (qualified : Bool), qualified = false ∨ x.whole = 0 →
      ∃ d, Leads s (.reliefCompareDone t dac ratio qualified) d ∧ handsOver d ∧ (d.relief[t]).nocmp = true ∧ d.regs = s.dev.regs) ∧
    (s.dev.cad.running = true → x.closed = true → x.phase = 1 → 0 < x.whole → ∀ ratio : Nat,
      (s.dev.rd (Reg.TILE_RELIEF_CFG t.val)).get 7 0 < ratio →
      ∃ d, Leads s (.reliefCompareDone t dac ratio true) d ∧ ((d.relief[t]).pair dac).phase = 0 ∧
        Counted s.dev d (Reg.TILE_RELIEF_FAIL t.val) 31 0 ∧ Set d (Reg.TILE_RELIEF_EVT t.val) 0 ∧
        (d.relief[t]).nocmp = (s.dev.relief[t]).nocmp) ∧
    (s.dev.cad.running = false → ∀ (ratio : Nat) (q : Bool), Leads s (.reliefSlotStart t) s.dev ∧
      Leads s (.reliefWindowClose t dac) s.dev ∧ Leads s (.reliefCompareDone t dac ratio q) s.dev)

/-- A native pair's time out of service ends while ticks run (R108, R112): finished, it begins its return and new trims stand in its
registers, whose values the spec does not give (log entry 2: any values), unless the rotation is stopped or the voltage reference is
bad (R26, R189); unfinished, TILE_RELIEF_EVT bit 1 is set and no register of a trim changes. CAL_ABANDON stands as long as the last
slot of either kind ended so. -/
def ReliefCalibrationEnds : Prop :=
  ∀ (s : State) (t : Fin 4) (dac fin : Bool),
    let x := (s.dev.relief[t]).pair dac
    s.dev.cad.running = true → x.calibrating = true →
    ∃ d, Leads s (.reliefCalEnd t dac fin) d ∧ ((d.relief[t]).pair dac).calibrating = false ∧
      ((d.relief[t]).pair dac).phase = (if x.phase = 2 then 3 else x.phase) ∧ ((d.relief[t]).pair dac).abandoned = !fin ∧
      (d.relief[t]).calAbandoned = (!fin || ((s.dev.relief[t]).pair !dac).abandoned) ∧
      (fin = false → Set d (Reg.TILE_RELIEF_EVT t.val) 1 ∧ SameRegsBut [Reg.TILE_RELIEF_EVT t.val] s.dev d) ∧
      (fin = true → SameRegsBut [Reg.TILE_CONV_TRIM_A t.val (trimIndex dac x.path), Reg.TILE_CONV_TRIM_B t.val (trimIndex dac x.path),
        Reg.CAL_CONVQ (16 * t.val + x.path)] s.dev d ∧
        ((s.dev.relief[t]).stops = true ∨ s.dev.vrefGood = false → d.regs = s.dev.regs))

end Sys2Proof.Cert

/-- The relief converters.
Choices of the model that it takes in: log entries 2, 27 and 89. -/
def Obligations.Relief : Prop := ReliefRotation ∧ ReliefCalibrationEnds
/-! ### Time (chapter 12) -/

/-- The step of local time that a pending request asks for is applied at the edge of the next tick, where no path transmits for the
next symbol (R335 to R337): local time has moved by exactly the amount, TIME_EPOCH counts it, TIME_EVT bit 4 is set, LOCKED is 0.
An application in the cycle in which the wait runs out leaves the forced one nothing to do (R12).
Choices of the model that it takes in: log entries 65, 66 and 83. -/
def Obligations.TimeStepApplies : Prop :=
  ∀ (s : State) (x : Step), s.dev.cad.running = true → s.dev.cad.midDone = true → s.dev.cad.frozen = true →
    s.dev.time.step = some x → x.abs = false → x.cmd = none → x.ripe ≤ s.dev.cad.tickIdx + 1 →
    s.dev.drunas.cmds = [] → s.dev.cad.changes = [] →
    let edge := (s.dev.passCycles s.dev.toEdge).time.now
    let holds := fun (d : Dev) => d.time.now = ((edge : Int) + x.amount).toNat % 2 ^ 96 ∧ d.time.step = none ∧ d.time.locked = false ∧
      d.rd Reg.TIME_EPOCH = s.dev.rd Reg.TIME_EPOCH + 1 ∧ Set d Reg.TIME_EVT 4 ∧ d.cad.running = true
    ((∀ p : Fin 64, s.dev.transmitsNext p = false) → ∃ d m, exec .stepApply s = .next (after s (d, m)) ∧ holds d) ∧
    ((∃ p : Fin 64, s.dev.transmitsNext p = true) →
      (exec .stepApply s = .next (after s (s.dev, s.mem))) ∧ YieldsTo s .stepForceTimeout (fun i => i == .stepApply) ∧
      (¬ ArrivesNow s (fun i => i == .stepApply) → ∃ d m, exec .stepForceTimeout s = .next (after s (d, m)) ∧ holds d ∧ Set d Reg.TIME_EVT 5))

namespace Sys2Proof.Cert

/-- The instant `d` at which an armed slot that no tick binds acts (R342): now where it is due, and otherwise when the clock has gone on
to its time, as long as no instant of the cadence unit comes first. -/
def SlotInstant (s : State) (n : Fin 32) (d : Dev) : Prop :=
  s.dev.slotArmed n.val = true ∧ ((s.dev.slotD n.val ≤ 0 ∧ d = s.dev) ∨
    (0 < s.dev.slotD n.val ∧ ∃ k, s.dev.cyclesTo (s.dev.slotD n.val).toNat = some k ∧ s.dev.canPass k = true ∧ d = s.dev.passCycles k))

/-- `d` shows that slot `n` of `s` has fired (R343): its FIRED bit is set, a one-shot slot is disarmed and a periodic one stays armed. -/
def Fired (s : State) (n : Fin 32) (d : Dev) : Prop :=
  Set d Reg.TIME_SCHED_FIRED n.val ∧
    (d.rd (Reg.TIME_SCHED_CTRL n.val)).bit 31 = decide ((s.dev.rd (Reg.TIME_SCHED_CTRL n.val)).get 15 0 ≠ 0)

/-- A scheduled-action slot that no tick binds fires at its time (R342, R343, Table 12.2). A PPS action drives the output in MODE 2;
COMMAND puts a packet into the ring; KERNEL triggers a kernel; an unassigned action does nothing else. -/
def SlotsFire : Prop :=
  ∀ (s : State) (n : Fin 32) (e : Dev), SlotInstant s n e →
    let own := [Reg.TIME_SCHED_FIRED, Reg.TIME_SCHED_CTRL n.val, Reg.TIME_SCHED_LO n.val, Reg.TIME_SCHED_HI n.val]
    (s.dev.slotAction n.val = 4 → ∃ d, Makes s (.schedPps n) d ∧ Fired s n d ∧ SameRegsBut own s.dev d ∧
      ((s.dev.rd Reg.TIME_PPS_CFG).get 31 30 = 2 → (s.dev.rd (Reg.TIME_SCHED_ARG n.val)).get 1 0 = 1 → d.time.ppsOut = true) ∧
      ((s.dev.rd Reg.TIME_PPS_CFG).get 31 30 = 2 → (s.dev.rd (Reg.TIME_SCHED_ARG n.val)).get 1 0 = 2 → d.time.ppsOut = false) ∧
      ((s.dev.rd Reg.TIME_PPS_CFG).get 31 30 = 2 → (s.dev.rd (Reg.TIME_SCHED_ARG n.val)).get 1 0 = 3 → d.time.ppsOut = !s.dev.time.ppsOut) ∧
      ((s.dev.rd Reg.TIME_PPS_CFG).get 31 30 ≠ 2 → d.time = e.time)) ∧
    (s.dev.slotAction n.val = 0 ∨ 5 < s.dev.slotAction n.val → ∃ d, Makes s (.schedNoAction n) d ∧ Fired s n d ∧
      d.time = e.time ∧ d.cad = e.cad ∧ SameRegsBut own s.dev d) ∧
    (s.dev.slotAction n.val = 5 → ∃ d, Makes s (.schedKernel n) d ∧ Fired s n d ∧
      (∀ k : Kernel, s.dev.chisel.kernels.find? (fun (k : Kernel) =>
          k.user && k.handle == (s.dev.rd (Reg.TIME_SCHED_ARG n.val)).get 15 0) = some k →
        s.dev.kernel? k.slot = some k → k.trig = true → k.evicted = false → k.unload = false →
        (k.active = none → ∃ k', d.kernel? k.slot = some k' ∧ k' = { k with trigger := true }) ∧
        (k.active.isSome = true → Counted s.dev d Reg.CHISEL_TRIG_DROP 31 0 ∧ Set d Reg.CHISEL_EVT 4))) ∧
    (s.dev.slotAction n.val = 3 → ∃ d, Leads s (.schedCommand n) d ∧ Fired s n d ∧
      (s.dev.drunas.ring.length < 64 →
        let a := captureBase + (s.dev.rd (Reg.TIME_SCHED_ARG n.val)).toNat
        let ws := Mem.words s.mem a (impliedWords (Mem.word s.mem (a + 4)))
        ringBytes s.dev.drunas.ring + 4 * ws.length ≤ 65536 →
        d.drunas.ring = s.dev.drunas.ring ++ [⟨ws, s.dev.time.slotSpi[n], false, true, 0, 0, false⟩]))

/-- The instant `d` at which an armed slot with a tick-bound action commits, and the tick `target` that it is for (R341, R342, R344):
0.5 µs before the cutoff of the tick that comes next, where that instant can still be reached; at once where its tick has gone by or
that tick's cutoff has passed; and with no ticks running, when it is due. -/
def SlotCommits (s : State) (n : Fin 32) (d : Dev) (target : Nat) : Prop :=
  let k := s.dev.toEdge - (s.dev.leadCycles + nsCycles 500)
  (s.dev.cad.running = true ∧ s.dev.slotArmed n.val = true ∧
    ((s.dev.slotTarget n = s.dev.cad.tickIdx + 1 ∧ s.dev.cad.frozen = false ∧
        (s.dev.rd (Reg.TIME_SCHED_CTRL n.val)).bit 30 = false ∧ s.dev.canPass k = true ∧ d = s.dev.passCycles k ∧
        target = s.dev.cad.tickIdx + 1) ∨
      ((s.dev.slotTarget n ≤ s.dev.cad.tickIdx ∨ (s.dev.slotTarget n = s.dev.cad.tickIdx + 1 ∧ s.dev.cad.frozen = true)) ∧ d = s.dev ∧
        target = s.dev.slotTarget n))) ∨
  (s.dev.ticking = false ∧ SlotInstant s n d ∧ target = d.nextLanding)

/-- The two tick-bound actions (R342, R344): TILE_LEVEL commits LEVEL for every tile of its argument, and the changes land at the tick
that the slot is for where its cutoff is still to come; CAPTURE opens a capture, work of its own that has no reply, for that tick.
A commit that lands later is counted in CADENCE_LATE (R42). -/
def TickBoundSlotsFire : Prop :=
  ∀ (s : State) (n : Fin 32) (e : Dev) (target : Nat), SlotCommits s n e target →
    let arg := s.dev.rd (Reg.TIME_SCHED_ARG n.val)
    let late := fun (d : Dev) => e.nextLanding ≤ target → d.rd Reg.CADENCE_LATE = s.dev.rd Reg.CADENCE_LATE
    (s.dev.slotAction n.val = 1 → ∃ d, Leads s (.schedTileLevel n) d ∧ Fired s n d ∧ late d ∧
      (∃ cs : List Change, d.cad.changes = s.dev.cad.changes ++ cs ∧ (∀ c ∈ cs, c.land = e.nextLanding ∧ c.atFrame = false) ∧
        cs.map (·.key) = ((List.finRange 4).filter fun t => arg.bit t.val).map fun t => Setting.word (Reg.TILE_CFG t.val)) ∧
      ∀ t : Fin 4, arg.bit t.val = true → (d.rd (Reg.TILE_CFG t.val)).get 1 0 = arg.get 9 8) ∧
    (s.dev.slotAction n.val = 2 → s.dev.cad.running = true → ∃ d, Leads s (.schedCapture n) d ∧ Fired s n d ∧ late d ∧
      (target < e.nextLanding → Counted s.dev d Reg.CADENCE_LATE 31 0) ∧
      ∃ c, d.drunas.cmds = s.dev.drunas.cmds ++ [c] ∧ c.opcode = 0xB00 ∧ c.silent = true ∧ c.execTime = e.nextLanding ∧
        c.params.getD 1 0 = BitVec.ofNat 32 (arg.get 20 0 + 1)) ∧
    (s.dev.slotAction n.val = 2 → s.dev.ticking = false → ∃ t, exec (.schedCapture n) s = .next t ∧ t.pending = s.pending ∧
      Fired s n t.dev)

end Sys2Proof.Cert

/-- Scheduled actions: the slots that fire at their time and those that fire for a tick.
Choices of the model that it takes in: log entries 42, 52, 64, 71 and 88. -/
def Obligations.ScheduledActions : Prop := SlotsFire ∧ TickBoundSlotsFire

/-- PPS_OUT, PPS_IN and TSYNC (R345 to R347): in MODE 1 a whole second raises the output and its width ends it; an edge is stamped;
a driving device that senses the line high stops driving; three instants without an edge end the use of TSYNC; an edge in the cycle in
which an instant is given up counts (R12).
Choices of the model that it takes in: log entries 30 and 83. -/
def Obligations.PulsesAndTsync : Prop :=
  ∀ (s : State) (st : BitVec 96), s.dev.time.adv = true →
    let edge := fun (i : Instr) => match i with | .tsyncEdge _ => true | _ => false
    ((s.dev.rd Reg.TIME_PPS_CFG).get 31 30 = 1 →
      Leads s .ppsSecond { s.dev with time := { s.dev.time with ppsOut := true } } ∧
      Leads s .ppsWidthEnd { s.dev with time := { s.dev.time with ppsOut := false } }) ∧
    (∃ d, Leads s (.ppsInEdge st) d ∧ d.rd Reg.TIME_PPS_IN_LO = st.extractLsb' 32 32 ∧
      d.rd Reg.TIME_PPS_IN_HI = st.extractLsb' 64 32 ∧
      (s.dev.timeSrc ≠ 2 → d = { s.dev with regs := d.regs } ∧ SameRegsBut [Reg.TIME_PPS_IN_LO, Reg.TIME_PPS_IN_HI] s.dev d)) ∧
    (s.dev.tsyncDrives = true → ∃ d, Leads s (.tsyncInstant true) d ∧ d.time = { s.dev.time with tsyncOff := true } ∧
      Set d Reg.TIME_EVT 9 ∧ SameRegsBut [Reg.TIME_EVT] s.dev d) ∧
    YieldsTo s .tsyncEdgeTimeout edge ∧
    (¬ ArrivesNow s edge → s.dev.tsyncListens = true → s.dev.time.tsyncMiss < 2 →
      Leads s .tsyncEdgeTimeout { s.dev with time := { s.dev.time with tsyncMiss := s.dev.time.tsyncMiss + 1 } }) ∧
    (¬ ArrivesNow s edge → s.dev.tsyncListens = true → 2 ≤ s.dev.time.tsyncMiss → s.dev.time.tsyncDrop = false →
      ∃ d, Leads s .tsyncEdgeTimeout d ∧ d.time.fine = false ∧ d.time.tsyncDrop = true ∧ Set d Reg.TIME_EVT 8) ∧
    (s.dev.tsyncListens = true → ∃ d, Leads s (.tsyncEdge st) d ∧
      d.rd Reg.TIME_TSYNC_ERR = BitVec.ofNat 32 (unsigned 32 (toPs (fromNearest st.toNat s.dev.tsyncPeriod -
        ofPs (signed 32 (s.dev.rd Reg.TIME_TSYNC_DLY).toNat)))))

namespace Sys2Proof.Cert

/-- Exchanges of time messages (R330, R331): the DREQ_DIV-th SYNC of the current master sends a DELAY_REQ and queues its stamp; the
response gives offset and delay as half the difference and half the sum; one that does not come within 1.0 ms is counted lost, but
one that comes in the very cycle in which that time is over is not (R12). -/
def TimeExchanges : Prop :=
  ∀ s : State, s.dev.time.adv = true →
    (∀ (m : Inbox) (d1 : Dev) (t3 : BitVec 96), s.dev.take (isTimeMsg 1) = some (m, d1) →
      s.dev.time.master = some ((m.words.getD 0 0).get 15 0) → s.dev.dreqDiv ≤ s.dev.time.syncCnt + 1 → s.dev.link.txSet ≠ 0 →
      s.dev.time.tsq.length < 16 →
      ∃ d, Leads s (.timeSync t3) d ∧ d.time.syncCnt = 0 ∧
        (∃ x, d.time.exch = s.dev.time.exch ++ [x] ∧ x.seq = (m.words.getD 0 0).get 27 20 ∧ x.master = (m.words.getD 0 0).get 15 0 ∧
          x.t1 = (msgTime m.words : Int) ∧ x.t3 = s.dev.outboundStamp t3.toNat ∧ x.expired = false) ∧
        d.time.tsq.length = s.dev.time.tsq.length + 1) ∧
    (∀ x xs, s.dev.time.exch = x :: xs → x.expired = false →
      let here := fun (i : Instr) => i == .timeDelayResp && s.dev.respHere
      YieldsTo s .delayRespTimeout here ∧ (¬ ArrivesNow s here →
      ∃ d, Leads s .delayRespTimeout d ∧ Counted s.dev d Reg.TIME_RESP_LOST 31 0 ∧
        d.time.exch.map (fun (y : Exchange) => y.expired) = true :: xs.map (fun (y : Exchange) => y.expired || decide (y = x)))) ∧
    (∀ (m : Inbox) (d1 : Dev) (x : Exchange), s.dev.take (isTimeMsg 3) = some (m, d1) → s.dev.time.exch = [x] →
      x.seq = (m.words.getD 0 0).get 27 20 → x.master = (m.words.getD 0 0).get 15 0 → x.expired = false →
      x.rxLane = refLane s.dev.link.rxSet → x.txLane = refLane s.dev.link.txSet → s.dev.time.master ≠ some x.master →
      s.dev.time.cand ≠ some x.master →
      let ab := x.t2 - x.t1
      let cd := (msgTime m.words : Int) - x.t3
      let asym := ofPs (signed 32 (s.dev.rd (Reg.TIME_ASYM (refLane s.dev.link.rxSet))).toNat)
      0 ≤ (ab + cd) / 2 → (ab + cd) / 2 ≤ 100 * (fracScale : Int) →
      ∃ d, Leads s .timeDelayResp d ∧ d.time.exch = [] ∧
        d.rd Reg.TIME_OFS = BitVec.ofNat 32 (unsigned 32 (toPs ((ab - cd - asym) / 2))) ∧
        d.rd Reg.TIME_DELAY = BitVec.ofNat 32 (unsigned 32 (toPs ((ab + cd) / 2))))

/-- Entry to holdover and the end of a candidate (R337, R338): holdover sets TIME_EVT bit 2 and clears LOCKED; a candidate that falls
silent is forgotten. A valid exchange, or a SYNC of the candidate, in the very cycle in which the time is over prevails (R12). -/
def HoldoverAndCandidate : Prop :=
  ∀ s : State, s.dev.time.adv = true →
    let valid := fun (i : Instr) => i == .timeDelayResp && s.dev.delayResp.time.validAt == s.dev.time.cycle
    let sync := fun (i : Instr) => match i with | .timeSync _ => s.dev.candSyncHere | _ => false
    YieldsTo s .holdoverTimeout valid ∧ YieldsTo s .candidateTimeout sync ∧
    (¬ ArrivesNow s valid → s.dev.time.master.isSome = true → s.dev.time.holdover = false →
      ∃ d, Leads s .holdoverTimeout d ∧ d.time.holdover = true ∧ d.time.locked = false ∧ Set d Reg.TIME_EVT 2 ∧
        (s.dev.time.locked = true → Set d Reg.TIME_EVT 1) ∧ d.time.now = s.dev.time.now ∧ d.time.master = s.dev.time.master ∧
        (s.dev.servoHw = false → d.time.inc = s.dev.time.inc)) ∧
    (¬ ArrivesNow s sync → Leads s .candidateTimeout { s.dev with time := { s.dev.time with cand := none, candOfs := [], candSync := 0 } })

end Sys2Proof.Cert

/-- Time messages, holdover, candidates.
Choices of the model that it takes in: log entries 31, 80 and 83. -/
def Obligations.TimeTransfer : Prop := TimeExchanges ∧ HoldoverAndCandidate

/-! ### The Coruf bias die (chapter 13) -/

namespace Sys2Proof.Cert

/-- What R368 leaves after a watchdog hold, a rail loss or Dormant: no span change runs, every span stays, every code is the safe code
of its span, every output waits for a code, and PAOFF_SW is set. -/
def Forced368 (s : State) (d : Dev) : Prop :=
  (d.rd Reg.BIAS_CFG).bit 0 = true ∧
  ∀ n : Fin 96, (d.bias.out[n]).seq = 0 ∧ (d.bias.out[n]).pendCode = none ∧ (d.bias.out[n]).pendSpan = none ∧
    (d.bias.out[n]).wait = true ∧ (d.bias.out[n]).span = (s.dev.bias.out[n]).span ∧ d.isSafe n = true ∧
    (d.inf (Reg.BIAS_OUT_CODE n.val)).get 27 16 = safeCode (s.dev.bias.out[n]).span ∧
    (d.inf (Reg.BIAS_OUT_CODE n.val)).get 11 0 = safeCode (s.dev.bias.out[n]).span

/-- The bias link (R350, R367, R368, R524): a good frame brings it up and ends a watchdog hold; a discarded one is counted and
reported; without power on VBIO nothing is received; 100 µs without a good frame bring the link down and force every output; a good
frame in the very cycle in which they are over prevails (R12). -/
def BiasLink : Prop :=
  ∀ s : State,
    (s.dev.bias.vbio = true →
      Leads s (.biasFrameReceived true) { s.dev with bias := { s.dev.bias with linkUp := true, wdHold := false } } ∧
      ∃ d, Leads s (.biasFrameReceived false) d ∧ Counted s.dev d Reg.BIAS_LINK_ERR 31 0 ∧ d.bias = s.dev.bias ∧
        ((s.dev.sump.src[toSrc 215]).wireIgnored = false → Counted s.dev d (Reg.SUMP_SRC_STATUS 215) 15 0)) ∧
    (s.dev.bias.vbio = false → ∀ b, Leads s (.biasFrameReceived b) s.dev) ∧
    YieldsTo s .biasLinkWatchdog (fun i => i == .biasFrameReceived true) ∧
    (¬ ArrivesNow s (fun i => i == .biasFrameReceived true) → s.dev.bias.linkUp = false → Leads s .biasLinkWatchdog s.dev) ∧
    (¬ ArrivesNow s (fun i => i == .biasFrameReceived true) → s.dev.bias.linkUp = true →
      ∃ d, Leads s .biasLinkWatchdog d ∧ d.bias.linkUp = false ∧ d.bias.wdHold = true ∧
      Counted s.dev d Reg.BIAS_WD_COUNT 31 0 ∧ Set d Reg.BIAS_EVT 7 ∧ d.paoffOut = true ∧ Forced368 s d)

/-- The rails (R364, R367, R368): the loss of one forces every output, drives PAOFF_N low and is reported; the loss of VBIO
also takes the link. When all have been good, the rail hold ends. -/
def BiasRails : Prop :=
  ∀ (s : State) (r : CorufRail),
    (∃ d, Leads s (.corufRailLoss r) d ∧ d.bias.railHold = true ∧ d.paoffOut = true ∧ Forced368 s d ∧
      d.bias.vbp = (if r = .vbp then false else s.dev.bias.vbp) ∧ d.bias.vbn = (if r = .vbn then false else s.dev.bias.vbn) ∧
      d.bias.vbio = (if r = .vbio then false else s.dev.bias.vbio) ∧ d.bias.linkUp = (if r = .vbio then false else s.dev.bias.linkUp) ∧
      ((s.dev.sump.src[toSrc 216]).wireIgnored = false → Counted s.dev d (Reg.SUMP_SRC_STATUS 216) 15 0)) ∧
    Leads s .corufRailGood { s.dev with bias := { s.dev.bias with vbp := true, vbn := true, vbio := true, railHold := false } }

/-- A span change (Table 13.2): at its switch the output takes the new span and drives its safe code; at its end the code that waited
applies, or the safe code until one is sent, and BIAS_EVT bit 0 is set. -/
def SpanChanges : Prop :=
  ∀ (s : State) (n : Fin 96),
    let o := s.dev.bias.out[n]
    (o.seq = 1 → ∃ d, Makes s (.spanSwitch n) d ∧ d = s.dev.modOut n (fun x => { x with seq := 2, span := x.seqTo }) ∧
      d.driven n = safeCode o.seqTo) ∧
    (o.seq ≠ 1 → Makes s (.spanSwitch n) s.dev) ∧
    (o.seq = 2 → o.pendSpan = none → ∃ d, Leads s (.spanChangeDone n) d ∧ (d.bias.out[n]).seq = 0 ∧ (d.bias.out[n]).span = o.span ∧
      (d.bias.out[n]).pendCode = none ∧ (d.bias.out[n]).wait = o.pendCode.isNone ∧ Set d Reg.BIAS_EVT 0 ∧
      d.inf (Reg.BIAS_OUT_CODE n.val) = o.pendCode.getD (safeWord o.span) ∧ ∀ j : Fin 96, j ≠ n → d.bias.out[j] = s.dev.bias.out[j]) ∧
    (o.seq ≠ 2 → Leads s (.spanChangeDone n) s.dev)

/-- The current limit (R358): it sets the output's bit; after 10 µs it raises BIAS_EVT bit 4 and reports the output's group. -/
def CurrentLimits : Prop :=
  ∀ (s : State) (n : Fin 96),
    (∃ d, Makes s (.biasCurrentLimit n) d ∧ Set d (scReg n.val) (n.val % 32) ∧ SameRegsBut [scReg n.val] s.dev d ∧
      d = { s.dev.modOut n (fun o => { o with limiting := true }) with regs := d.regs, same := d.same }) ∧
    ((s.dev.bias.out[n]).limiting = true → ∃ d, Leads s (.biasScPersist n) d ∧ Set d Reg.BIAS_EVT 4 ∧ d.bias = s.dev.bias ∧
      ((s.dev.sump.src[toSrc (197 + n.val / 8)]).wireIgnored = false → Counted s.dev d (Reg.SUMP_SRC_STATUS (197 + n.val / 8)) 15 0)) ∧
    ((s.dev.bias.out[n]).limiting = false → Leads s (.biasScPersist n) s.dev)

/-- The output test (R360): DONE with PASS where both readings lie within 8 codes and the limit did not act; otherwise DONE without
PASS, BIAS_EVT bit 2 and a report. A request that can never begin is DONE without PASS. -/
def OutputTests : Prop :=
  ∀ (s : State) (k x y : Nat) (lim : Bool),
    let code := (s.dev.inf (Reg.BIAS_OUT_CODE k)).get 11 0
    let safe := safeCode (s.dev.bias.out[toOut k]).span
    let pass := x ≤ safe + 8 ∧ safe ≤ x + 8 ∧ y ≤ code + 8 ∧ code ≤ y + 8 ∧ lim = false
    (s.dev.bias.test = some k → ∃ d, Leads s (.biasTestDone x y lim) d ∧ d.bias = { s.dev.bias with test := none } ∧
      Set d Reg.BIAS_TEST 29 ∧ ((d.rd Reg.BIAS_TEST).bit 28 = true ↔ pass) ∧ (¬ pass → Set d Reg.BIAS_EVT 2) ∧
      (pass → SameRegsBut [Reg.BIAS_TEST] s.dev d)) ∧
    (s.dev.bias.test = none → s.dev.bias.testWait = some k → 96 ≤ k ∨ s.dev.outFollow (toOut k) = 0 →
      ∃ d, Leads s (.biasTestDone x y lim) d ∧ d.bias = { s.dev.bias with testWait := none } ∧ Set d Reg.BIAS_TEST 29 ∧
        (d.rd Reg.BIAS_TEST).bit 28 = false ∧ SameRegsBut [Reg.BIAS_TEST] s.dev d) ∧
    (s.dev.bias.test = none → s.dev.bias.testWait = none → Leads s (.biasTestDone x y lim) s.dev)

/-- Over-current (R363): the trip bit is set, outputs that follow the path and are enabled to trip are held, BIAS_EVT bit 5 is set and
the path's source reports; with BIAS_CFG bit 1 PAOFF_N goes low. -/
def OverCurrent : Prop :=
  ∀ (s : State) (p : Fin 64),
    ∃ d, Leads s (.biasOcTrip p) d ∧ d.tripBit p.val = true ∧ Set d Reg.BIAS_EVT 5 ∧
      (∀ n : Fin 96, d.bias.out[n] = (if s.dev.outPath n = p ∧ (s.dev.rd (Reg.BIAS_OUT_CFG n.val)).bit 26 = true then
        { s.dev.bias.out[n] with trip := some p.val } else s.dev.bias.out[n])) ∧
      ((s.dev.rd Reg.BIAS_CFG).bit 1 = true → d.paoffOut = true) ∧
      ((s.dev.sump.src[toSrc (64 + p.val)]).wireIgnored = false → Counted s.dev d (Reg.SUMP_SRC_STATUS (64 + p.val)) 15 0)

/-- PAOFF_N held by another source (R366): with EXT_KILL every output enabled for it is held and BIAS_EVT bit 6 is set; once the pin has
been high for 10 µs the outputs may return at a seam midpoint. While the die itself drives the pin it sees neither. -/
def ExternalKill : Prop :=
  ∀ s : State,
    (s.dev.paoffOut = true → Makes s .paoffExtKill s.dev ∧ Leads s .paoffHighTimer s.dev) ∧
    (s.dev.paoffOut = false →
      ((s.dev.rd Reg.BIAS_CFG).bit 2 = true → ∃ d, Makes s .paoffExtKill d ∧ Set d Reg.BIAS_EVT 6 ∧ SameRegsBut [Reg.BIAS_EVT] s.dev d ∧
        d.bias.extLow = true ∧ d.bias.extReturn = false ∧ ∀ n : Fin 96, d.bias.out[n] =
          (if (s.dev.rd (Reg.BIAS_OUT_CFG n.val)).bit 27 = true then { s.dev.bias.out[n] with ext := true } else s.dev.bias.out[n])) ∧
      ((s.dev.rd Reg.BIAS_CFG).bit 2 = false →
        Makes s .paoffExtKill { s.dev with bias := { s.dev.bias with extLow := true, extReturn := false } }) ∧
      Leads s .paoffHighTimer { s.dev with bias := { s.dev.bias with extLow := false, extReturn := true } })

/-- The level of an output (R353, R523): where the rail of its span's safe value is present, the voltage of the code that it drives
(Table 13.1); otherwise an open level between the safe value and 0 V (SPAN_N), within the span (SPAN_B), or between 0 V and the
voltage it drove before (SPAN_P). Log entry 85 frees it. -/
def BiasLevels : Prop :=
  ∀ (d : Dev) (n : Fin 96),
    let o := d.bias.out[n]
    let code : Int := d.driven n
    (o.span = 0 → (d.bias.vbn = true → d.level n = -8192 + 2 * code) ∧ (d.bias.vbn = false → -8192 ≤ d.level n ∧ d.level n ≤ 0)) ∧
    (o.span = 1 → (d.bias.vbp = true → d.level n = code) ∧
      (d.bias.vbp = false → min 0 o.before ≤ d.level n ∧ d.level n ≤ max 0 o.before)) ∧
    (o.span = 2 → (d.bias.vbn = true → d.level n = -4096 + 2 * code) ∧ (d.bias.vbn = false → -4096 ≤ d.level n ∧ d.level n ≤ 4094))

end Sys2Proof.Cert

/-- The bias die's link, rails, levels, span changes, limits, tests, trips and PAOFF_N.
Choices of the model that it takes in: log entries 29, 83 and 85. -/
def Obligations.BiasDie : Prop :=
  BiasLink ∧ BiasRails ∧ BiasLevels ∧ SpanChanges ∧ CurrentLimits ∧ OutputTests ∧ OverCurrent ∧ ExternalKill
/-! ### Faults and thermal supervision (chapter 15) -/

namespace Sys2Proof.Cert

/-- A report of a source in service that is not held and stays below its threshold (R411, R418): its TOTAL counts it, its time is
kept, every dependent of Table 15.1 is held, and no severity, log record or change follows. -/
def SumpTransientReport : Prop :=
  ∀ (s : State) (n : Fin 256), s.dev.power.fabric = true → n.val < 230 →
    (s.dev.sump.src[n]).wireIgnored = false → (s.dev.sump.src[n]).retired = false → (s.dev.sump.src[n]).held = false →
    n.val ∉ dependents s.dev n.val → (s.dev.sump.src[n]).times.length + 1 < s.dev.srcN n.val →
    ∃ d, Leads s (.sumpReport n) d ∧ Counted s.dev d (Reg.SUMP_SRC_STATUS n.val) 15 0 ∧
      SameRegsBut [Reg.SUMP_SRC_STATUS n.val] s.dev d ∧
      d = { s.dev with regs := d.regs, same := d.same, sump := { s.dev.sump with src := d.sump.src } } ∧
      (d.sump.src[n]).times = (s.dev.time.cycle :: (s.dev.sump.src[n]).times).take 255 ∧
      ∀ m : Fin 256, m ≠ n → (d.sump.src[m]) = { s.dev.sump.src[m] with
        held := (s.dev.sump.src[m]).held || decide (m.val ∈ dependents s.dev n.val) }

/-- A report of a held source is masked (R419): TOTAL and SUMP_MASKED count it, and it counts nothing toward severity; the source still
holds its own dependents of Table 15.1. -/
def SumpMaskedReport : Prop :=
  ∀ (s : State) (n : Fin 256), s.dev.power.fabric = true → n.val < 230 →
    (s.dev.sump.src[n]).wireIgnored = false → (s.dev.sump.src[n]).retired = false → (s.dev.sump.src[n]).held = true →
    ∃ d, Leads s (.sumpReport n) d ∧ Counted s.dev d (Reg.SUMP_SRC_STATUS n.val) 15 0 ∧ Counted s.dev d Reg.SUMP_MASKED 31 0 ∧
      (d.sump.src[n]).times = (s.dev.sump.src[n]).times ∧ (d.sump.src[n]).severe = (s.dev.sump.src[n]).severe ∧
      d.sump.pulse = s.dev.sump.pulse ∧ d.sump.logQueue = s.dev.sump.logQueue ∧ d.cad = s.dev.cad ∧
      ∀ m ∈ dependents s.dev n.val, (d.sump.src[toSrc m]).held = true

end Sys2Proof.Cert

/-- Reports that are no severity: transient and masked ones. -/
def Obligations.SumpReports : Prop := SumpTransientReport ∧ SumpMaskedReport

/-- A report that makes N events inside W is a severity (R411, R414, R422): SUMP_EVT bit 0 is set, FAULT_N is pulled low, the window
starts afresh, and for a lane the retirement of that lane is committed unless it is the last one awake.
Choices of the model that it takes in: log entry 45. -/
def Obligations.SumpSeverity : Prop :=
  ∀ (s : State) (k : Fin 8), s.dev.power.fabric = true →
    let n := toSrc (164 + k.val)
    (s.dev.sump.src[n]).wireIgnored = false → (s.dev.sump.src[n]).retired = false → (s.dev.sump.src[n]).held = false →
    (∃ t, (s.dev.time.cycle :: (s.dev.sump.src[n]).times)[s.dev.srcN n.val - 1]? = some t ∧
      inWindow s.dev.time.cycle t (s.dev.srcW n.val) = true) → s.dev.sump.logQueue.length < 16 →
    ∃ d, Leads s (.sumpReport n) d ∧ Set d Reg.SUMP_EVT 0 ∧ d.sump.pulse = true ∧ (d.sump.src[n]).severe = true ∧
      (d.sump.src[n]).times = [] ∧ d.sump.logQueue.length = s.dev.sump.logQueue.length + 1 ∧
      (s.dev.lastLane k.val = false → ∃ c, d.cad.changes = s.dev.cad.changes ++ [c] ∧ c.key = .unit 8 k.val ∧ c.arg = 0 ∧
        c.land = s.dev.nextLanding) ∧
      (s.dev.lastLane k.val = true → d.cad.changes = s.dev.cad.changes ∧ (d.sump.src[n]).limit = true)

namespace Sys2Proof.Cert

/-- A wire fault is declared once, taken as a severity, and its source's reports are ignored until the pair has recovered (R408); the
end of a hold frees a source (R418); a pulse of FAULT_N ends (R422). -/
def SumpWireAndTimers : Prop :=
  ∀ (s : State) (n : Fin 256), s.dev.power.fabric = true →
    ((s.dev.sump.src[n]).wireIgnored = false → ∃ d, Leads s (.sumpWireFault n) d ∧ (d.sump.src[n]).wire = true ∧
      (d.sump.src[n]).wireIgnored = true ∧ (d.sump.src[n]).severe = true ∧ Set d Reg.SUMP_EVT 2 ∧ Set d Reg.SUMP_EVT 0 ∧
      d.sump.pulse = true) ∧
    ((s.dev.sump.src[n]).wireIgnored = true → Leads s (.sumpWireFault n) s.dev ∧ Leads s (.sumpReport n) s.dev) ∧
    Leads s (.sumpWireRecover n) (s.dev.modSrc n fun x => { x with wireIgnored := false }) ∧
    Leads s (.sumpHoldEnd n) (s.dev.modSrc n fun x => { x with held := false }) ∧
    Leads s .faultnPulseEnd { s.dev with sump := { s.dev.sump with pulse := false } }

/-- FAULT_N pulled low by another device (R421): with SUMP_CFG bit 16 every source with bit 31 of its configuration is held, and
SUMP_EVT bit 3 is set; otherwise nothing is held. How long the line is taken to stay low is log entry 12. -/
def SumpExternalFault : Prop :=
  ∀ s : State, s.dev.power.fabric = true → s.dev.faultnHigh = true →
    ((s.dev.rd Reg.SUMP_CFG).bit 16 = true → ∃ d, Leads s .faultnExtFall d ∧ Set d Reg.SUMP_EVT 3 ∧
      SameRegsBut [Reg.SUMP_EVT] s.dev d ∧ d.sump.extFall = some s.dev.time.cycle ∧
      ∀ n : Fin 256, (d.sump.src[n]) = { s.dev.sump.src[n] with
        held := (s.dev.sump.src[n]).held || (s.dev.rd (Reg.SUMP_SRC_CFG n.val)).bit 31 }) ∧
    ((s.dev.rd Reg.SUMP_CFG).bit 16 = false →
      Leads s .faultnExtFall { s.dev with sump := { s.dev.sump with extFall := some s.dev.time.cycle } })

end Sys2Proof.Cert

/-- Wire faults, holds, and the FAULT_N line.
Choices of the model that it takes in: log entry 12. -/
def Obligations.SumpWireAndLine : Prop := SumpWireAndTimers ∧ SumpExternalFault

/-- The oldest queued record goes to its slot of the fault log in MRAM with the next SEQ and a CRC-32C over its first 28 bytes, and
every other byte stays (R425, R426).
Choices of the model that it takes in: log entry 7. -/
def Obligations.LogRecordReachesMram : Prop :=
  ∀ (s : State) (r : LogRec) (rest : List LogRec), s.dev.power.fabric = true → s.dev.sump.logQueue = r :: rest →
    ∃ m, exec .logRecordWrite s = .next { s with mem := m, dev := { s.dev with sump := { s.dev.sump with
        logQueue := rest, logSeq := s.dev.sump.logSeq + 1, logSlot := (s.dev.sump.logSlot + 1) % 2048 } } } ∧
      Mem.word m (logAddr (32 * s.dev.sump.logSlot)) = BitVec.ofNat 32 s.dev.sump.logSeq ∧
      Mem.word m (logAddr (32 * s.dev.sump.logSlot) + 28) = crc32c (Mem.bytes m (logAddr (32 * s.dev.sump.logSlot)) 28) ∧
      ∀ b, (b < logAddr (32 * s.dev.sump.logSlot) ∨ logAddr (32 * s.dev.sump.logSlot) + 32 ≤ b) → Mem.get m b = Mem.get s.mem b

/-- A sample of a working sensor that agrees with its estimate (R429 to R431): the reading and power are kept, WARN and CRIT follow
the reading with their hysteresis, and entry to CRIT sets SUMP_EVT bit 5 and pulls FAULT_N low.
Choices of the model that it takes in: log entries 39 and 81. -/
def Obligations.ThermalSampleCrit : Prop :=
  ∀ (s : State) (i : Fin 6) (reading : Int) (power : Nat), s.dev.power.fabric = true → (Instr.thermalSample i reading power).wf = true →
    (s.dev.sump.sensors[i]).broken = false → (s.dev.sump.sensors[i]).mismatch = 0 →
    let c := s.dev.rd (Reg.SUMP_THERM_CFG i.val)
    let crit := 8 * signed 8 (c.get 31 24)
    let hyst : Int := 8 * c.get 11 8
    let x := s.dev.sump.sensors[i]
    ∃ d, Leads s (.thermalSample i reading power) d ∧ (d.sump.sensors[i]).meas = reading ∧ (d.sump.sensors[i]).power = power ∧
      (d.sump.sensors[i]).broken = false ∧
      ((d.sump.sensors[i]).atCrit = true ↔ crit ≤ reading ∨ (x.atCrit = true ∧ crit - hyst < reading)) ∧
      (x.atCrit = false → crit ≤ reading → Set d Reg.SUMP_EVT 5 ∧ d.sump.pulse = true) ∧
      (crit ≤ reading → x.atCrit = false → ∀ t : Fin 4, i.val = t.val + 1 → (d.tiles[t]).critMute = true)
/-! ### Supplies, reset and power states (chapter 16) -/

/-- Right after power-on reset the device is in Dormant with phase 1 of a start, every switched domain is OFF, no tick runs, local
time stands still, every tile is in Sleep and every path Idle, and every register holds the reset value of its description (R444,
R460). The values that the spec does not give are those of log entry 5; the synthesizers' words and the OTP contents (log entry 21)
are not part of this statement. -/
def Obligations.ResetState : Prop :=
  State.reset.pending = [] ∧ State.reset.mem = [] ∧
    (let d := State.reset.dev
     d.power.dev = 1 ∧ d.power.phase = 1 ∧ d.power.rails = 0 ∧ d.power.ctrl = .off ∧ d.power.skx = .off ∧ d.power.dsp = .off ∧
      d.power.chisel = .off ∧ (∀ t : Fin 4, d.power.tile[t] = .off) ∧ d.cad.running = false ∧ d.cad.changes = [] ∧
      d.time.adv = false ∧ d.time.now = 0 ∧ (∀ a, d.rd a = regReset a) ∧ (∀ a, d.inf a = regReset a) ∧
      (∀ t : Fin 4, (d.tiles[t]).level = 0 ∧ (d.tiles[t]).goal = none) ∧ (∀ p : Fin 64, (d.paths[p]).mode = 0) ∧
      d.drunas.ring = [] ∧ d.drunas.cmds = [] ∧ d.drunas.replies = [] ∧ d.link.txSet = 0 ∧ d.link.rxSet = 0)

namespace Sys2Proof.Cert

/-- Power-on reset and the removal of VAON (R444, R450, R463): every register but the Coruf die's returns to its reset value, the
session closes, keys are gone, a burned lifecycle state takes effect at power-on; OTP and MRAM contents and memory stay. -/
def PowerOnAndOff : Prop :=
  ∀ (s : State) (b : Fin 4),
    (∃ d, Makes s (.powerOnReset b) d ∧ d.power = { Power.reset with bootSel := b.val } ∧
      (∀ a, (a < 0x180000 ∨ 0x190000 ≤ a) → d.rd a = regReset a ∧ d.inf a = regReset a) ∧
      d.sec.lifecycle = s.dev.sec.lcNext.getD s.dev.sec.lifecycle ∧ d.sec.lcNext = none ∧ d.sec.level = 0 ∧ d.sec.kFlow = none ∧
      d.sec.fails = 0 ∧ d.sec.lockout = false ∧ d.sec.rollback = s.dev.sec.rollback ∧ d.sec.banks = s.dev.sec.banks ∧
      d.sec.bootCount = s.dev.sec.bootCount ∧ d.cad = Cadence.reset ∧ d.bias = s.dev.bias) ∧
    (∃ d, Makes s .vaonRemoved d ∧ d.power = { Power.reset with dev := 0, phase := 0 } ∧
      (∀ a, (a < 0x180000 ∨ 0x190000 ≤ a) → d.rd a = regReset a ∧ d.inf a = regReset a) ∧ d.sec.level = 0 ∧ d.sec.kFlow = none ∧
      d.sec.rollback = s.dev.sec.rollback ∧ d.sec.banks = s.dev.sec.banks ∧ d.cad = Cadence.reset ∧ d.bias = s.dev.bias)

/-- RESET_N (R445): low, every domain but the AON island resets while its registers stay; high, the boot goes on from phase 3 when
the rails are up. -/
def ResetPin : Prop :=
  ∀ (s : State) (b : Fin 4),
    (s.dev.power.dev ≠ 0 → ∃ d, Makes s .resetAssert d ∧ d.power.inReset = true ∧ d.power.fabric = false ∧ d.power.booted = false ∧
      (∀ a, survivesReset a = false → d.rd a = regReset a) ∧ (∀ a, domainOf a = .aon → d.rd a = s.dev.rd a) ∧ d.cad = Cadence.reset ∧
      d.sec.level = 0 ∧ d.sec.halted = false ∧ d.sec.lifecycle = s.dev.sec.lifecycle ∧ d.sec.fails = s.dev.sec.fails) ∧
    (s.dev.power.inReset = true → s.dev.power.dev = 2 → s.dev.power.removing = false → s.dev.power.sequencing = false →
      ∃ d, Makes s (.resetRelease b) d ∧ d.power.inReset = false ∧ d.power.bootSel = b.val ∧ d.power.phase = 3 ∧ d.power.ctrl = .on ∧
        d.power.startTgt = s.dev.bootTgt ∧ Set d Reg.POWER_AON_CAUSE 1 ∧ d.sec.lifecycle = s.dev.sec.lcNext.getD s.dev.sec.lifecycle)

end Sys2Proof.Cert

/-- Power-on reset, the removal of VAON, and RESET_N.
Choices of the model that it takes in: log entries 5 and 24. -/
def Obligations.Resets : Prop := PowerOnAndOff ∧ ResetPin

namespace Sys2Proof.Cert

/-- Rail sequencing (R439, R440): PGOOD rising lets the next of six enables rise; after the sixth the sequence is complete and the
CTRL domain is on; PGOOD staying low ends it in Dormant with cause bit 3, unless it rises in the very cycle in which the wait is
over (R12). Removal lowers one enable at a time, and the last leaves
the device in Dormant. -/
def RailSequence : Prop :=
  ∀ s : State,
    (s.dev.power.sequencing = true →
      Makes s .pgoodRise { s.dev with power := { s.dev.power with pgood := true } } ∧
      (s.dev.power.pgood = true → s.dev.power.rails < 6 →
        Makes s .railSequenceStep { s.dev with power := { s.dev.power with rails := s.dev.power.rails + 1, pgood := false } }) ∧
      (s.dev.power.pgood = true → 6 ≤ s.dev.power.rails →
        Makes s .railSequenceStep { s.dev with power := { s.dev.power with sequencing := false, ctrl := .on } }) ∧
      YieldsTo s .pgoodTimeout (fun i => i == .pgoodRise) ∧
      (¬ ArrivesNow s (fun i => i == .pgoodRise) → s.dev.power.pgood = false → ∃ d, Makes s .pgoodTimeout d ∧ Set d Reg.POWER_AON_CAUSE 3 ∧
        SameRegsBut [Reg.POWER_AON_CAUSE] s.dev d ∧
        d.power = { s.dev.power with sequencing := false, rails := 0, phase := 0, dev := 1 })) ∧
    (s.dev.power.dormantStep = 5 → 1 < s.dev.power.rails →
      Makes s .railRemoveStep { s.dev with power := { s.dev.power with rails := s.dev.power.rails - 1, removing := true } }) ∧
    (s.dev.power.dormantStep = 5 → s.dev.power.rails ≤ 1 →
      ∃ d, Makes s .railRemoveStep d ∧ d.power.dev = 1 ∧ d.power.rails = 0 ∧ d.power.fabric = false ∧ d.power.ctrl = .off ∧
        Counted s.dev d Reg.POWER_AON_CNT 31 16)

/-- A supply fault with the rails up is an emergency entry to Dormant with cause bit 2; the third within ten seconds also sets bit 4
and bars the automatic restart, which otherwise may follow (R441). -/
def SupplyFault : Prop :=
  ∀ s : State,
    (s.dev.power.rails = 6 → s.dev.power.sequencing = false → s.dev.power.removing = false →
      ∃ d, Makes s .pgoodFault d ∧ d.power.dev = 1 ∧ d.power.rails = 0 ∧ d.power.fabric = false ∧ d.sec.kFlow = none ∧
        Set d Reg.POWER_AON_CAUSE 2 ∧ d.power.pgFault = true ∧ d.power.autoDue = !d.power.restartLimit ∧
        (d.power.restartLimit = true → Set d Reg.POWER_AON_CAUSE 4) ∧
        (d.power.restartLimit = true ↔
          2 ≤ (s.dev.power.emergencies.filter fun c => decide (s.dev.time.cycle ≤ c + 4915200000)).length)) ∧
    (s.dev.power.dev = 1 → s.dev.power.phase = 0 → s.dev.power.autoDue = true → s.dev.power.inReset = false →
      (s.dev.rd Reg.POWER_AON_CFG).bit 29 = true →
      ∃ d, Makes s .autoRestart d ∧ d.power.phase = 2 ∧ d.power.rails = 1 ∧ d.power.sequencing = true ∧ d.power.autoDue = false ∧
        d.power.startTgt = s.dev.bootTgt ∧ d.regs = s.dev.regs)

/-- AVS (R443): with AVS_EN and margin the VCORE set point falls by 2 mV down to 0.65 V; a loss of margin raises it, at most to
0.85 V. How far one report of a loss raises it is the model's choice, log entry 18. -/
def AvsSetPoint : Prop :=
  ∀ s : State, s.dev.power.fabric = true → (s.dev.rd Reg.POWER_CFG).bit 31 = true →
    let v := (s.dev.rd Reg.POWER_VOLT).get 31 16
    (∃ d, Leads s .avsStep d ∧ (d.rd Reg.POWER_VOLT).get 31 16 = max 650 (v - 2) ∧ SameRegsBut [Reg.POWER_VOLT] s.dev d ∧
      d = { s.dev with regs := d.regs }) ∧
    (∃ d, Leads s .avsMarginLow d ∧ (d.rd Reg.POWER_VOLT).get 31 16 = min 850 (v + 10) ∧ SameRegsBut [Reg.POWER_VOLT] s.dev d ∧
      d = { s.dev with regs := d.regs })

end Sys2Proof.Cert

/-- The rails: their sequence, their faults, the core voltage.
Choices of the model that it takes in: log entries 18 and 83. -/
def Obligations.Rails : Prop := RailSequence ∧ SupplyFault ∧ AvsSetPoint

/-- Transitions between Standby and Ready complete (R450, R453): Ready once a tile is at SynthOn, Standby with DSP and CHISEL
retained; where that is the target of the request and no other waits, the request ends and POWER_EVT bit 0 is set. With no tile at
SynthOn after 5 ms the request to Ready is aborted with code 0x102 (R452), unless a tile arrives there in that very cycle (R12).
Choices of the model that it takes in: log entries 32 and 83. -/
def Obligations.PowerTransitions : Prop :=
  ∀ s : State,
    (s.dev.power.dev = 2 → s.dev.power.stepTo = some 3 → s.dev.someSynthOn = true →
      ∃ d, Leads s .powerTransitionDone d ∧ d.power.dev = 3) ∧
    (s.dev.power.dev = 3 → s.dev.power.stepTo = some 2 → ∃ d, Leads s .powerTransitionDone d ∧ d.power.dev = 2) ∧
    ∀ r : PowerReq, s.dev.power.cur = some r → s.dev.power.slot = none → r.cmd = none →
      let rises := fun (i : Instr) => match i with | .stateTransitionDone (.tile t) => (s.dev.tiles[t]).goal == some 2 | _ => false
      (s.dev.power.dev = 2 → s.dev.power.stepTo = some 3 → r.target = 3 → s.dev.someSynthOn = true →
        ∃ d, Leads s .powerTransitionDone d ∧ d.power = { s.dev.power with dev := 3, stepTo := none, cur := none } ∧
          Set d Reg.POWER_EVT 0 ∧ SameRegsBut [Reg.POWER_EVT] s.dev d) ∧
      (s.dev.power.dev = 3 → s.dev.power.stepTo = some 2 → r.target = 2 →
        ∃ d, Leads s .powerTransitionDone d ∧ d.power.dev = 2 ∧ d.power.cur = none ∧ d.power.stepTo = none ∧ d.power.dsp = .retain ∧
          d.power.chisel = .retain ∧ Set d Reg.POWER_EVT 0 ∧ SameRegsBut [Reg.POWER_EVT] s.dev d) ∧
      YieldsTo s .powerSynthTimeout rises ∧
      (¬ ArrivesNow s rises → s.dev.power.dev = 2 → s.dev.power.stepTo = some 3 → s.dev.someSynthOn = false →
        ∃ d, Leads s .powerSynthTimeout d ∧ d.power.dev = 2 ∧ d.power.cur = none ∧ d.power.stepTo = none ∧ d.power.dsp = .retain ∧
          (d.rd Reg.POWER_LAST).get 15 0 = 0x102 ∧ Set d Reg.POWER_EVT 4 ∧ Counted s.dev d Reg.POWER_ABORTED 31 0)

/-- Entry to Dormant (R455, Table 16.8): once every tile sleeps and the Coruf die has confirmed, keys and session are cleared; at the
point of no return the log queue is drained to MRAM, the lanes enter electrical idle, and the entry record is written.
Choices of the model that it takes in: log entry 13. -/
def Obligations.DormantEntry : Prop :=
  ∀ s : State,
    (s.dev.power.dormantStep = 1 → s.dev.tilesAsleep = true →
      ∃ d, Leads s .dormantSafeConfirmed d ∧ d.power.dormantStep = 3 ∧ d.sec.kFlow = none ∧ d.sec.level = 0 ∧ d.sec.halted = false ∧
        d.power.dev = s.dev.power.dev) ∧
    (s.dev.power.dormantStep = 3 →
      ∃ d m, exec .dormantNoReturn s = .next (after s (d, m)) ∧ d.power.dormantStep = 5 ∧
        d.power.entryRecs = s.dev.power.entryRecs + 1 ∧ d.link.txSet = 0 ∧ d.link.rxSet = 0 ∧ d.sump.logQueue = [] ∧
        (∀ k : Fin 8, (d.lanes[k]).retired = false → (d.lanes[k]).st = .ei) ∧ (s.dev.sump.logQueue = [] → m = s.mem) ∧
        (s.dev.drunas.cmds = [] → d.regs = s.dev.regs))

namespace Sys2Proof.Cert

/-- Wakes (R456, R457): in Dormant an enabled wake is latched with its target and its cause recorded; the island then takes it, which
starts the rails and counts in POWER_AON_CNT. -/
def WakesFromDormant : Prop :=
  ∀ s : State, s.dev.power.dev = 1 → s.dev.power.phase = 0 → s.dev.power.dormantStep = 0 → s.dev.power.wakeLatch = none →
    let target := fun n : Nat => if n = 3 then 0 else n
    ((s.dev.rd Reg.POWER_AON_CFG).bit 31 = true →
      ∃ d, Makes s .wakeNWake d ∧ Set d Reg.POWER_AON_CAUSE 16 ∧ SameRegsBut [Reg.POWER_AON_CAUSE] s.dev d ∧
        d.power = { s.dev.power with wakeLatch := some (target ((s.dev.rd Reg.POWER_AON_CFG).get 27 26)) }) ∧
    ((s.dev.rd Reg.POWER_AON_CFG).bit 30 = true → s.dev.power.slowclk = true →
      ∃ d, Makes s .wakeTimer d ∧ Set d Reg.POWER_AON_CAUSE 17 ∧ SameRegsBut [Reg.POWER_AON_CAUSE] s.dev d ∧
        d.power = { s.dev.power with wakeLatch := some (target ((s.dev.rd Reg.POWER_AON_CFG).get 25 24)) }) ∧
    (s.dev.power.slowclk = true → ∀ rx : Fin 2, (s.dev.rd (Reg.WAKE_CFG (2 * rx.val))).bit 30 = true →
      ∃ d, Makes s (.wakeEnergyDetect rx) d ∧ Set d Reg.POWER_AON_CAUSE (18 + 2 * rx.val) ∧ Set d (Reg.WAKE_STATUS (2 * rx.val)) 10 ∧
        d.power = { s.dev.power with wakeLatch := some (target ((s.dev.rd Reg.POWER_AON_CFG).get 23 22)) }) ∧
    (s.dev.power.slowclk = true → ∀ (rx : Fin 2) (chips : BitVec 32), (s.dev.rd (Reg.WAKE_CFG (2 * rx.val))).bit 31 = true →
      s.dev.codeAccepted (2 * rx.val) chips = true → chips.extractLsb' 12 2 ≠ 3#2 →
      ∃ d, Makes s (.wakeCodeAccept rx chips) d ∧ Set d Reg.POWER_AON_CAUSE (19 + 2 * rx.val) ∧
        Set d (Reg.WAKE_STATUS (2 * rx.val)) 11 ∧ (d.rd (Reg.WAKE_STATUS (2 * rx.val))).get 13 12 = (chips.extractLsb' 12 2).toNat ∧
        d.power = { s.dev.power with wakeLatch := some (chips.extractLsb' 12 2).toNat })

/-- The island takes a latched wake in Dormant (R456): rail sequencing starts towards the wake's target. SLOWCLK is seen as it is. -/
def WakeTakenStarts : Prop :=
  ∀ (s : State) (t : Nat),
    (s.dev.power.dev = 1 → s.dev.power.phase = 0 → s.dev.power.inReset = false → s.dev.power.wakeLatch = some t →
      ∃ d, Makes s .wakeTaken d ∧ Counted s.dev d Reg.POWER_AON_CNT 15 0 ∧ SameRegsBut [Reg.POWER_AON_CNT] s.dev d ∧
        d.power = { s.dev.power with wakeLatch := none, wokeOwed := true, autoDue := false, phase := 2, startTgt := t,
                                     sequencing := true, rails := 1, pgood := false, removing := false }) ∧
    (s.dev.power.dev ≠ 0 → Makes s .slowclkLost { s.dev with power := { s.dev.power with slowclk := false } } ∧
      Makes s .slowclkRestored { s.dev with power := { s.dev.power with slowclk := true } })

end Sys2Proof.Cert

/-- Wakes: latched and taken.
Choices of the model that it takes in: log entry 68. -/
def Obligations.Wakes : Prop := WakesFromDormant ∧ WakeTakenStarts

namespace Sys2Proof.Cert

/-- A start goes phase by phase (R460, R526, R528): the PLL qualifying in phase 3 lets local time advance and the fabric answer; a
firmware bank that is good boots in phase 4 and loads the nominal power-step tables (R84); each phase ends where its condition
holds, and phases 7 and 8 also at their bound, unless it comes to hold in the very cycle of the bound (R12). -/
def StartPhases : Prop :=
  ∀ s : State, s.dev.power.inReset = false →
    (s.dev.power.phase = 1 → s.dev.power.bootSel ≠ 1 →
      Leads s .startPhaseDone { s.dev with power := { s.dev.power with
        phase := 2, startTgt := s.dev.bootTgt, sequencing := true, rails := 1, pgood := false, removing := false } }) ∧
    (s.dev.power.phase = 2 → s.dev.power.rails = 6 → s.dev.power.sequencing = false →
      Leads s .startPhaseDone { s.dev with power := { s.dev.power with phase := 3 } }) ∧
    (s.dev.power.phase = 3 →
      Makes s .timebaseQualified { s.dev with time := { s.dev.time with adv := true }, power := { s.dev.power with fabric := true } } ∧
      (s.dev.time.adv = true → Leads s .startPhaseDone { s.dev with power := { s.dev.power with phase := 4 } })) ∧
    (s.dev.power.phase = 4 → s.dev.power.booted = false → s.dev.power.bootSel < 2 → s.dev.sec.active = false →
      s.dev.bankGood s.dev.sec.banks[0] = true →
      Makes s .firmwareBoot ({ s.dev with sec := { s.dev.sec with fw := (s.dev.sec.banks[0]).version },
                                          power := { s.dev.power with booted := true } } : Dev).loadGerr) ∧
    (s.dev.power.phase = 7 → s.dev.link.txSet ≠ 0 → s.dev.link.rxSet ≠ 0 →
      Leads s .startPhaseDone { s.dev with power := { s.dev.power with phase := 8 } }) ∧
    YieldsTo s .startPhaseTimeout (fun i => i == .startPhaseDone) ∧
    (¬ ArrivesNow s (fun i => i == .startPhaseDone) → s.dev.power.phase = 7 →
      Leads s .startPhaseTimeout { s.dev with power := { s.dev.power with phase := 8 } }) ∧
    (¬ ArrivesNow s (fun i => i == .startPhaseDone) → s.dev.power.phase = 8 → s.dev.power.startTgt = 0 →
      Leads s .startPhaseTimeout { s.dev with power := { s.dev.power with phase := 0 } })

/-- After a start to Ready, settled temperatures begin phase 11: with a warm start and an image in WARM_SLOT its restore, otherwise
the start-up calibrations with codes 1 to 7 in this order (R202, R461). -/
def ThermalSettledBeginsCalibration : Prop :=
  ∀ s : State, s.dev.power.phase = 10 → s.dev.power.warm = false → s.dev.cal.runs = [] → s.dev.cal.queue = [] →
    ∃ d, Leads s .thermalSettled d ∧ d.power.phase = 11 ∧ (d.cal.runs ++ d.cal.queue).map (·.code) = [1, 2, 3, 4, 5, 6, 7] ∧
      SameRegsBut [Reg.CAL_EVT] s.dev d

end Sys2Proof.Cert

/-- The phases of a start.
Choices of the model that it takes in: log entries 9, 32 and 83. -/
def Obligations.Starts : Prop := StartPhases ∧ ThermalSettledBeginsCalibration

/-- Security rows: a FULL session halts the processor pair where no path is in Transmit (R473); a challenge ends after its time and
a lockout after its period (R474).
Choices of the model that it takes in: log entry 57. -/
def Obligations.DebugTimers : Prop :=
  ∀ s : State,
    (2 ≤ s.dev.debugLevel → s.dev.anyTx = false →
      Makes s .debugHalt { s.dev with sec := { s.dev.sec with halted := true } }) ∧
    (s.dev.anyTx = true → Makes s .debugHalt s.dev) ∧ (s.dev.debugLevel < 2 → Makes s .debugHalt s.dev) ∧
    Makes s .unlockNonceExpire { s.dev with sec := { s.dev.sec with nonce := none } } ∧
    Makes s .unlockLockoutEnd { s.dev with sec := { s.dev.sec with lockout := false } }

/-! ### Register access (chapters 0 and 14) -/

namespace Sys2Proof.Cert

/-- A register row's access that Table 14.3 stops is a bus error and nothing else. -/
def RowsStop : Prop :=
  ∀ (s : State) (i : Initiator) (w : Word) (hi b : Bool) (t : Fin 4) (p : Fin 64) (c : Fin 8) (n : Fin 32) (k : Fin 4) (u : BitVec 8)
    (iq : IqSet), ∀ x ∈ ([
      (.cadenceRunStart i w, true, Reg.CADENCE_CFG), (.cadenceRunStop i w, true, Reg.CADENCE_CFG),
      (.cadenceCfgWrite i w, true, Reg.CADENCE_CFG), (.synFracWrite i t b w, true, synFracReg t.val b),
      (.iqTap0Write i iq w, true, iqTap iq 0), (.beamMirror i w, true, Reg.BEAM_BANK),
      (.dpdLutDataAccess i (some w), true, Reg.DPD_LUT_DATA), (.dpdLutDataAccess i none, false, Reg.DPD_LUT_DATA),
      (.dpdPageCommit i p k, true, Reg.DPD_PATH_CTRL p.val), (.dpdAdaptRequest i p k u, true, Reg.DPD_PATH_CTRL p.val),
      (.qmapCfgWrite i w, true, Reg.CAL_QMAP_CFG), (.laneSleepRequest i w, true, Reg.SKX_PHY_SLEEP),
      (.laneEnableWrite i w, true, Reg.SKX_PHY_CFG), (.drunasSubmitWrite i w, true, Reg.DRUNAS_SUBMIT),
      (.drunasReplyRead i, false, Reg.DRUNAS_REPLY), (.flushReply i, true, Reg.DRUNAS_CTRL), (.flushSubmit i, true, Reg.DRUNAS_CTRL),
      (.timeIncSetWrite i w, true, Reg.TIME_INC_SET_HI), (.timeCfgWrite i w, true, Reg.TIME_CFG), (.tsqPop i, false, Reg.TIME_TSQ_E3),
      (.schedArm i n w, true, Reg.TIME_SCHED_CTRL n.val), (.biasTestStart i w, true, Reg.BIAS_TEST),
      (.biasTripClear i hi w, true, if hi then Reg.BIAS_TRIP_HI else Reg.BIAS_TRIP_LO), (.biasCfgWrite i w, true, Reg.BIAS_CFG),
      (.derrickStart i c, true, Reg.DERRICK_CH_CTRL c.val), (.derrickResume i c, true, Reg.DERRICK_CH_CTRL c.val),
      (.derrickAbort i c, true, Reg.DERRICK_CH_CTRL c.val), (.checkScanStart i, true, Reg.CHECK_CTRL),
      (.checkDataFeed i w, true, Reg.CHECK_DATA), (.logDataRead i, false, Reg.SUMP_LOG_DATA), (.powerReqWrite i w, true, Reg.POWER_REQ),
      (.secCfgWrite i w, true, Reg.SEC_CFG)] : List (Instr × Bool × Nat)),
    ∀ code, s.dev.stops i x.2.1 32 x.2.2 = some code → ∃ d, Leads s x.1 d ∧ Stopped s.dev d i x.2.1 32 x.2.2 code

/-- A plain write that Table 14.3 stops is a bus error and nothing else; 64 bits are two accesses, and the second is not made when
the first fails (R374). -/
def WritesStop : Prop :=
  ∀ (s : State) (i : Initiator) (a : Nat) (x : BitVec 64) (c : BusCode), a < 4294967296 →
    (∀ width, width = 8 ∨ width = 16 ∨ width = 32 → s.dev.stops i true width a = some c →
      ∃ d, Leads s (.registerWrite i width a x) d ∧ Stopped s.dev d i true width a c) ∧
    (a % 8 ≠ 0 → ∃ d, Makes s (.registerWrite i 64 a x) d ∧ Stopped s.dev d i true 32 a .align) ∧
    (a % 8 = 0 → s.dev.stops i true 32 a = some c → ∃ d, Leads s (.registerWrite i 64 a x) d ∧ Stopped s.dev d i true 32 a c)

/-- The causes in the order of Table 14.3, for an access of 8, 16 or 32 bits. -/
def CausesInOrder : Prop :=
  ∀ (d : Dev) (i : Initiator) (write : Bool) (width a : Nat),
    let align := a % (width / 8) ≠ 0
    let width' := write = true ∧ width < 32 ∧ inBlock a = true
    let decode := mapped a = false
    let security := d.forbidden i write a = true
    let off := d.domainUp a = false
    (d.stops i write width a = some .align ↔ align) ∧ (d.stops i write width a = some .width ↔ ¬ align ∧ width') ∧
    (d.stops i write width a = some .decode ↔ ¬ align ∧ ¬ width' ∧ decode) ∧
    (d.stops i write width a = some .security ↔ ¬ align ∧ ¬ width' ∧ ¬ decode ∧ security) ∧
    (d.stops i write width a = some .domainOff ↔ ¬ align ∧ ¬ width' ∧ ¬ decode ∧ ¬ security ∧ off)

/-- An access without an answer (R378): TIMEOUT and an event of the fabric's source; a write may or may not have had its effect,
a free choice (log entry 2). -/
def TimeoutAnswers : Prop :=
  ∀ (s : State) (i : Initiator) (a : Nat), inBlock a = true →
    (Open s i false a → ∃ d, Stopped s.dev d i false 32 a .timeout ∧ Makes s (.busTimeout i false a) (d.report (toSrc 223))) ∧
    (Open s i true a →
      let s2 := { s.dev with freeCtr := s.dev.freeCtr + 2 }
      ∃ x : Dev × Mem, (x = (s2, s.mem) ∨ ∃ w : Word, x = settled (reach s2 s.mem i true 32 a w.toNat).2) ∧
        ∃ d, Stopped x.1 d i true 32 a .timeout ∧
          exec (.busTimeout i true a) s = .next { s with dev := d.report (toSrc 223), mem := x.2 })

end Sys2Proof.Cert

/-- R379 to R381 with Table 14.3: an access meets its causes of failure in their order, and one that fails changes nothing but what
a bus error records; so for every row that is an access. An access that goes unanswered is recorded too (R378).
Choices of the model that it takes in: log entry 55. -/
def Obligations.FailedAccessesChangeNothing : Prop := RowsStop ∧ WritesStop ∧ CausesInOrder ∧ TimeoutAnswers

namespace Sys2Proof.Cert

/-- R9: a write sets RW and counter fields to what it carries, clears the bits of W1C fields that it carries as 1, and leaves every
other bit. -/
def FieldsByType : Prop :=
  ∀ (fs : List FieldRow) (old w : Word), (∀ f ∈ fs, f.lo ≤ f.hi ∧ f.hi < 32) →
    fs.Pairwise (fun f g => f.hi < g.lo ∨ g.hi < f.lo) →
    (∀ f ∈ fs, ∀ b, f.lo ≤ b → b ≤ f.hi → (fieldWrite fs old w).bit b = match f.type with
      | .rw => w.bit b
      | .cnt => w.bit b
      | .w1c => old.bit b && !w.bit b
      | _ => old.bit b) ∧
    (∀ b, b < 32 → (∀ f ∈ fs, b < f.lo ∨ f.hi < b) → (fieldWrite fs old w).bit b = old.bit b)

/-- R13 and R43, for a write of rank `rank` to register `a` whose fields `fs` do not overlap: an event that hardware has set in the same
cycle stands; what a counter has counted in it is added to the value written, up to the counter's limit (R10); an RW field that an
initiator later in the order of R43 has written in it keeps that value. With nothing of these the write is that of R9. -/
def FieldsOfOneCycle : Prop :=
  ∀ (d : Dev) (rank a : Nat) (w : Word), (∀ f ∈ fieldsOf a, f.lo ≤ f.hi ∧ f.hi < 32) →
    (fieldsOf a).Pairwise (fun f g => f.hi < g.lo ∨ g.hi < f.lo) →
    (d.overtaken a rank = false → d.setNow a = 0 → (∀ lo, d.countedNow a lo = 0) →
      d.fieldWrite rank a w = fieldWrite (fieldsOf a) (d.rd a) w) ∧
    ∀ f ∈ fieldsOf a,
      (f.type = .w1c → ∀ b, f.lo ≤ b → b ≤ f.hi →
        (d.fieldWrite rank a w).bit b = ((d.rd a).bit b && !w.bit b || (d.setNow a).bit b)) ∧
      (f.type = .rw → (d.setNow a).get f.hi f.lo = 0 → (d.fieldWrite rank a w).get f.hi f.lo =
        (if d.overtaken a rank then d.rd a else w).get f.hi f.lo) ∧
      (f.type = .cnt → d.overtaken a rank = false → a ≠ Reg.CADENCE_TICK_COUNT → (d.setNow a).get f.hi f.lo = 0 →
        (d.fieldWrite rank a w).get f.hi f.lo = min (w.get f.hi f.lo + d.countedNow a f.lo) (2 ^ (f.hi + 1 - f.lo) - 1))

/-- A 32-bit write of a register whose write has no other meaning sets it by its field types (R9, R13), and commits its tick-bound bits
to the tick (R40); nothing else changes. Of an event register it clears the bits that it carries as 1, but for those that the same cycle
sets; a power-step index it commits, ten bits wide (R82). 64 bits are two such writes, low address first (R374). -/
def PlainWrites : Prop :=
  ∀ (s : State) (i : Initiator) (t : Fin 4) (k : Fin 16) (a : Nat) (x : BitVec 64),
    let w : Word := x.setWidth 32
    (inBlock a = true → actsOnWrite a = false → a < 4294967296 → Open s i true a → ∃ d, Leads s (.registerWrite i 32 a x) d ∧
      d.rd a = s.dev.fieldWrite (initRank i) a w ∧ SameRegsBut [a] s.dev d ∧ d = { s.dev with regs := d.regs, same := d.same, cad := d.cad } ∧
      d.overtaken a (initRank i) = s.dev.overtaken a (initRank i) ∧ d.writtenNow a = true ∧ (tickMask a = 0 → d.cad = s.dev.cad) ∧
      (tickMask a ≠ 0 → s.dev.overtaken a (initRank i) = false → Commits1 s d i (.word a) [(a, d.rd a, tickMask a)] 0 false)) ∧
    (∀ e ∈ [(Reg.TILE_EVT t.val, 8), (Reg.TILE_RELIEF_EVT t.val, 3), (Reg.TIME_EVT, 10), (Reg.POWER_EVT, 8), (Reg.CADENCE_EVT, 5),
        (Reg.DRUNAS_EVT, 5), (Reg.DERRICK_EVT, 4), (Reg.CHECK_EVT, 3), (Reg.BEAM_EVT, 11), (Reg.DPD_EVT, 8), (Reg.CAL_EVT, 10),
        (Reg.CHISEL_EVT, 8), (Reg.SKX_PHY_EVT, 9), (Reg.SKX_CELL_EVT, 8), (Reg.BIAS_EVT, 8), (Reg.SUMP_EVT, 8)],
      Open s i true e.1 → ∃ d, Leads s (.registerWrite i 32 e.1 x) d ∧ d = { s.dev with regs := d.regs, same := d.same } ∧
        SameRegsBut [e.1] s.dev d ∧ ∀ b, b < 32 →
          (d.rd e.1).bit b = ((s.dev.rd e.1).bit b && !(decide (b < e.2) && w.bit b) || (s.dev.setNow e.1).bit b)) ∧
    (Open s i true (Reg.TILE_PIDX t.val k.val) → Alone s i (Reg.TILE_PIDX t.val k.val) →
      ∃ d v, Leads s (.registerWrite i 32 (Reg.TILE_PIDX t.val k.val) x) d ∧
        Commits1 s d i (.word (Reg.TILE_PIDX t.val k.val)) [(Reg.TILE_PIDX t.val k.val, v, 0x3FF#32)] 0 false ∧
        d.rd (Reg.TILE_PIDX t.val k.val) = v ∧ (v : Word).get 9 0 = w.get 9 0 ∧ d.inforce = s.dev.inforce ∧
        SameRegsBut [Reg.TILE_PIDX t.val k.val] s.dev d) ∧
    (inBlock a = true → a % 8 = 0 → a < 4294967296 → Open s i true a → a ≠ Reg.DPD_LUT_DATA →
      ∃ u, exec (.registerWrite i 32 a x) s = .next u ∧
        exec (.registerWrite i 64 a x) s = exec (.registerWrite i 32 (a + 4) (x >>> 32)) u)

/-- A write of cluster memory or capture SRAM of 8 to 64 bits changes exactly its bytes, the first of which is the least
significant (R370, R372 to R374). -/
def WindowWrites : Prop :=
  ∀ (s : State) (i : Initiator) (n a : Nat) (x : BitVec 64), n = 1 ∨ n = 2 ∨ n = 4 ∨ n = 8 → a % n = 0 → 0x3000000 ≤ a →
    a + n ≤ 0x3C00000 → (∀ b, a ≤ b → b < a + n → s.dev.forbidden i true b = false ∧ s.dev.domainUp b = true) → (n < 8 ∨ Quiet s.dev) →
    ∃ m, exec (.registerWrite i (8 * n) a x) s = .next (after s (s.dev, m)) ∧
      (∀ k, k < n → Mem.get m (a + k) = x.extractLsb' (8 * k) 8) ∧ ∀ b, (b < a ∨ a + n ≤ b) → Mem.get m b = Mem.get s.mem b

/-- A word of the Ashlar store (R131, R133, R135, R136): written where its bank is not active in its direction and the direction is not
the solver's; a byte that a writer later in the order of R135 has written in the same cycle stays as that one left it. Otherwise the
write is refused with BEAM_EVT bit 7 and, to a bus initiator, a bus error. -/
def AshlarWrites : Prop :=
  ∀ (s : State) (by_ : AshlarWriter) (a : Nat) (w : Word), isAshlarWord a = true → s.dev.domainUp a = true →
    (∀ i, ashlarInit by_ = some i → Open s i true a) →
    let ends := fun (d : Dev) (m : Mem) => (ashlarInit by_ = none → exec (.ashlarWrite by_ a w) s = .next { s with dev := d, mem := m }) ∧
      ((ashlarInit by_).isSome = true → exec (.ashlarWrite by_ a w) s = .next (after s (d, m)))
    let later := fun (b : Nat) => s.dev.sameNow.ashlar.any fun x => decide (ashlarPlace by_ < x.2.2 ∧ x.1 ≤ b ∧ b < x.1 + x.2.1)
    (s.dev.ashlarAllows by_ a = true → ∃ d m, ends d m ∧ d = { s.dev with beam := d.beam, same := d.same } ∧
      (∀ k, k < 4 → Mem.get m (a + k) = if later (a + k) then Mem.get s.mem (a + k) else w.extractLsb' (8 * k) 8) ∧
      (∀ b, (b < a ∨ a + 4 ≤ b) → Mem.get m b = Mem.get s.mem b) ∧ d.eccBad a = false ∧
      (s.dev.beam.mirrorBusy = true → a ∈ d.beam.written) ∧
      d.beam = { (s.dev.ashlarNote a).beam with brought := d.beam.brought } ∧ (a, 4, ashlarPlace by_) ∈ d.sameNow.ashlar) ∧
    (s.dev.ashlarAllows by_ a = false → ∃ d, d = { s.dev with regs := d.regs, rises := d.rises, same := d.same } ∧ Set d Reg.BEAM_EVT 7 ∧
      SameRegsBut [Reg.BEAM_EVT] s.dev d ∧ (ashlarInit by_ = none → ends d s.mem) ∧
      ∀ i, ashlarInit by_ = some i → ∃ e, ends e s.mem ∧ Stopped d e i true 32 a .refused) ∧
    (s.dev.ashlarAllows by_ a = true ↔
      ((ashlarHalf a).1 ≠ (if (ashlarHalf a).2 then s.dev.beam.ulBank else s.dev.beam.dlBank) ∧
        ((s.dev.inf Reg.BEAM_CFG).bit (if (ashlarHalf a).2 then 0 else 1) = true → by_ = .solver)))

/-- The data port of the DPD pages (R168, R169): a read or a write moves the index on; a write changes exactly the selected word, or
is refused with DPD_EVT bit 4 where it may not be written; an index or a bank that names no word is refused, read or written. -/
def LutPort : Prop :=
  ∀ (s : State) (i : Initiator) (w : Word),
    let next := fun (d : Dev) => (d.rd Reg.DPD_LUT_ADDR).get 10 0 = ((s.dev.rd Reg.DPD_LUT_ADDR).get 10 0 + 1) % 2048 ∧
      SameRegsBut [Reg.DPD_LUT_ADDR] s.dev d ∧ d = { s.dev with regs := d.regs }
    (∀ at_, s.dev.lutWord = some at_ →
      (Open s i false Reg.DPD_LUT_DATA → ∃ d, Leads s (.dpdLutDataAccess i none) d ∧ next d) ∧
      (Open s i true Reg.DPD_LUT_DATA → s.dev.lutRefuses i = false → ∃ d m, exec (.dpdLutDataAccess i (some w)) s =
          .next (after s (d, m)) ∧ next d ∧ Mem.word m at_ = w ∧
          ∀ b, (b < at_ ∨ at_ + 4 ≤ b) → Mem.get m b = Mem.get s.mem b) ∧
      (Open s i true Reg.DPD_LUT_DATA → s.dev.lutRefuses i = true → ∃ d e, Leads s (.dpdLutDataAccess i (some w)) e ∧
          Set d Reg.DPD_EVT 4 ∧ SameRegsBut [Reg.DPD_EVT] s.dev d ∧ d = { s.dev with regs := d.regs, rises := d.rises, same := d.same } ∧
          Stopped d e i true 32 Reg.DPD_LUT_DATA .refused)) ∧
    (s.dev.lutWord = none →
      (Open s i false Reg.DPD_LUT_DATA → ∃ e, Leads s (.dpdLutDataAccess i none) e ∧ Stopped s.dev e i false 32 Reg.DPD_LUT_DATA .refused) ∧
      (Open s i true Reg.DPD_LUT_DATA → ∃ e, Leads s (.dpdLutDataAccess i (some w)) e ∧
        Stopped s.dev e i true 32 Reg.DPD_LUT_DATA .refused))

end Sys2Proof.Cert

/-- What an access that reaches its target does: registers by their field types, memory windows, the Ashlar store and the data port
of the DPD pages.
Choices of the model that it takes in: log entries 55 and 56. -/
def Obligations.AccessesAct : Prop := FieldsByType ∧ FieldsOfOneCycle ∧ PlainWrites ∧ WindowWrites ∧ AshlarWrites ∧ LutPort

namespace Sys2Proof.Cert

/-- CADENCE_CFG: MU, LEAD and SEAM are committed to a frame boundary, or take effect as soon as they are written while RUN is 0; RUN acts
at once (R56, R57). -/
def CadenceWrite : Prop :=
  ∀ (s : State) (i : Initiator) (w : Word), Open s i true Reg.CADENCE_CFG →
    let ok := fun (c : Instr) (v : Word) => ∃ d, Leads s c d ∧
      (s.dev.ticking = true → Commits1 s d i .cadenceCfg [(Reg.CADENCE_CFG, v, tickMask Reg.CADENCE_CFG)] 0 true) ∧
      (s.dev.ticking = false → d.cad.changes = s.dev.cad.changes ++
        [{ key := .cadenceCfg, words := [(Reg.CADENCE_CFG, v, tickMask Reg.CADENCE_CFG)], land := s.dev.cad.tickIdx, atFrame := false,
           stamp := s.dev.time.cycle, rank := initRank i, cmd := none, arg := 0, latch := none }]) ∧
      (Alone s i Reg.CADENCE_CFG →
        d.rd Reg.CADENCE_CFG = (fieldWrite (fieldsOf Reg.CADENCE_CFG) (s.dev.rd Reg.CADENCE_CFG) v).put 31 31 (v.get 31 31)) ∧
      (d.rd Reg.CADENCE_CFG).bit 31 = v.bit 31 ∧ SameRegsBut [Reg.CADENCE_CFG] s.dev d ∧ d.inforce = s.dev.inforce ∧
      d.cad.running = s.dev.cad.running ∧ (s.dev.cad.running = true → d.cad.runHeld = !v.bit 31) ∧
      (s.dev.cad.running = false →
        d.cad.startAt = if v.bit 31 then some (s.dev.cad.startAt.getD s.dev.nextFrame) else none)
    ok (.cadenceCfgWrite i w) w ∧ ok (.cadenceRunStart i w) (w.put 31 31 1) ∧ ok (.cadenceRunStop i w) (w.put 31 31 0)

/-- A frequency word, an IQ set, a bank change with its copy, a page and the quiet map are committed by the write that ends them
(R67, R116, R132, R133, R164, R195); an adaptation request waits in On-request mode only (R174). -/
def WordsCommitted : Prop :=
  ∀ (s : State) (i : Initiator) (w : Word) (t : Fin 4) (b : Bool) (p : Fin 64) (k : Fin 4) (u : BitVec 8) (iq : IqSet),
    (Open s i true (synFracReg t.val b) → ∃ d, Leads s (.synFracWrite i t b w) d ∧
      Commits1 s d i (.synWord t b) [(synIntReg t.val b, s.dev.rd (synIntReg t.val b), 0xFFFFFFFF#32),
        (synFracReg t.val b, w, 0xFFFFFFFF#32)] 0 false ∧
      (s.dev.overtaken (synFracReg t.val b) (initRank i) = false → d.rd (synFracReg t.val b) = w) ∧ SameRegsBut [synFracReg t.val b] s.dev d ∧
      d.inforce = s.dev.inforce) ∧
    (Open s i true (iqTap iq 0) → ∃ d ws, Leads s (.iqTap0Write i iq w) d ∧ Commits1 s d i (.iqSet iq) ws 0 false ∧ ws.length = 7 ∧
      (∀ j, j < 7 → ws[j]? = some (iqTap iq j, if j = 0 then w else (mapGet s.dev.staged (iqTap iq j)).getD (s.dev.rd (iqTap iq j)),
        0xFFFFFFFF#32)) ∧ SameRegsBut ((List.range 7).map (iqTap iq)) s.dev d ∧ d.inforce = s.dev.inforce) ∧
    (Open s i true Reg.BEAM_BANK → ∃ d, Leads s (.beamMirror i w) d ∧
      d.cad.changes.map (fun c => (c.key, c.arg)) = s.dev.cad.changes.map (fun c => (c.key, c.arg)) ++
        [(.beamBank false, w.get 1 1), (.beamBank true, w.get 0 0)] ∧ SameRegsBut [Reg.BEAM_BANK] s.dev d ∧
      (w.get 1 0 = (s.dev.rd Reg.BEAM_BANK).get 1 0 → s.dev.beam.mirrorBusy = false →
        d.beam = { s.dev.beam with mirrorBusy := true, written := [] }) ∧
      (w.get 1 0 = (s.dev.rd Reg.BEAM_BANK).get 1 0 → s.dev.beam.mirrorBusy = true → d.beam = { s.dev.beam with mirrorWait := true }) ∧
      (w.get 1 0 ≠ (s.dev.rd Reg.BEAM_BANK).get 1 0 → s.dev.cad.running = true →
        d.beam = { s.dev.beam with mirrorAt := some s.dev.nextLanding })) ∧
    (Open s i true (Reg.DPD_PATH_CTRL p.val) →
      (∃ d, Leads s (.dpdPageCommit i p k) d ∧ Commits1 s d i (.dpdPage p) [] k.val false ∧ d = { s.dev with cad := d.cad }) ∧
      (s.dev.amode p = 1 → ∃ d, Leads s (.dpdAdaptRequest i p k u) d ∧
        d = { s.dev with dpd := { s.dev.dpd with queue := s.dev.dpd.queue ++ List.replicate (max 1 u.toNat) (p.val, k.val) } }) ∧
      (s.dev.amode p ≠ 1 → Leads s (.dpdAdaptRequest i p k u) s.dev)) ∧
    (Open s i true Reg.CAL_QMAP_CFG → ∃ d ws, Leads s (.qmapCfgWrite i w) d ∧
      Commits1 s d i .quietMap ((Reg.CAL_QMAP_CFG, w &&& tickMask Reg.CAL_QMAP_CFG, 0xFFFFFFFF#32) :: ws) 0 true ∧
      (∀ j, j < 70 → mapGet d.staged (Reg.CAL_QMAP j) = none ∧
        ∀ v, mapGet s.dev.staged (Reg.CAL_QMAP j) = some v → (Reg.CAL_QMAP j, v, 0xFFFFFFFF#32) ∈ ws ∧ d.rd (Reg.CAL_QMAP j) = v) ∧
      (∀ c ∈ s.dev.cad.changes, c.key = .quietMap → ∀ y ∈ c.words, ∀ j, j < 70 → y.1 = Reg.CAL_QMAP j →
        ∃ v, (Reg.CAL_QMAP j, v, 0xFFFFFFFF#32) ∈ ws) ∧
      ∀ x ∈ ws, ∃ j, j < 70 ∧ x.1 = Reg.CAL_QMAP j ∧ (mapGet s.dev.staged (Reg.CAL_QMAP j) = some x.2.1 ∨
        ∃ c ∈ s.dev.cad.changes, c.key = .quietMap ∧ ∃ m, (Reg.CAL_QMAP j, x.2.1, m) ∈ c.words))

end Sys2Proof.Cert

/-- The register rows that commit a change. -/
def Obligations.RegisterRowsCommit : Prop := CadenceWrite ∧ WordsCommitted

namespace Sys2Proof.Cert

/-- The time unit's registers (R332, R339, R343): TIME_CFG, the increment pair, the stamp queue, the arming of a slot. -/
def TimeRegisters : Prop :=
  ∀ (s : State) (i : Initiator) (w : Word) (n : Fin 32),
    (Open s i true Reg.TIME_CFG → ∃ d, Leads s (.timeCfgWrite i w) d ∧ d.rd Reg.TIME_CFG = w ∧ SameRegsBut [Reg.TIME_CFG] s.dev d ∧
      d.time.tsyncOff = false ∧ d.time.now = s.dev.time.now ∧
      (s.dev.servoHw = true → w.bit 31 = false → d.time.inc = max (incOf (-ppm250)) (min (incOf ppm250) s.dev.hostInc)) ∧
      (s.dev.servoHw = w.bit 31 → d.time.inc = s.dev.time.inc)) ∧
    (Open s i true Reg.TIME_INC_SET_HI → ∃ d, Leads s (.timeIncSetWrite i w) d ∧ d.rd Reg.TIME_INC_SET_HI = w ∧
      SameRegsBut [Reg.TIME_INC_SET_HI] s.dev d ∧ (s.dev.servoHw = true → d.time = s.dev.time) ∧
      (s.dev.servoHw = false → d.time = { s.dev.time with
        inc := max (incOf (-ppm250)) (min (incOf ppm250) (w.toNat * 2 ^ 32 + (s.dev.rd Reg.TIME_INC_SET_LO).toNat)), incClamp := d.time.incClamp })) ∧
    (Open s i false Reg.TIME_TSQ_E3 → Leads s (.tsqPop i) { s.dev with time := { s.dev.time with tsq := s.dev.time.tsq.tail } }) ∧
    (Open s i true (Reg.TIME_SCHED_CTRL n.val) → ∃ d, Leads s (.schedArm i n w) d ∧ d.slotArmed n.val = true ∧
      d.slotAction n.val = w.get 19 16 ∧ (d.rd (Reg.TIME_SCHED_CTRL n.val)).get 15 0 = w.get 15 0 ∧
      (d.rd Reg.TIME_SCHED_FIRED).bit n.val = false ∧ (d.time.slotSpi)[n] = (i == .spi) ∧
      SameRegsBut [Reg.TIME_SCHED_CTRL n.val, Reg.TIME_SCHED_FIRED, Reg.TIME_EVT] s.dev d)

/-- The registers of the Coruf die (R360, R363, R364). -/
def BiasRegisters : Prop :=
  ∀ (s : State) (i : Initiator) (w : Word) (hi : Bool),
    (Open s i true Reg.BIAS_TEST →
      (s.dev.bias.test = none → ∃ d, Leads s (.biasTestStart i w) d ∧ d.bias = { s.dev.bias with testWait := some (w.get 6 0) } ∧
        (d.rd Reg.BIAS_TEST).get 6 0 = w.get 6 0 ∧ SameRegsBut [Reg.BIAS_TEST] s.dev d) ∧
      (s.dev.bias.test.isSome = true → Leads s (.biasTestStart i w) s.dev)) ∧
    (let a := if hi then Reg.BIAS_TRIP_HI else Reg.BIAS_TRIP_LO
     Open s i true a → ∃ d, Leads s (.biasTripClear i hi w) d ∧ d.rd a = (s.dev.rd a &&& ~~~w ||| s.dev.setNow a) ∧
      SameRegsBut [a] s.dev d ∧ d = { s.dev with regs := d.regs }) ∧
    (Open s i true Reg.BIAS_CFG → ∃ d, Leads s (.biasCfgWrite i w) d ∧ SameRegsBut [Reg.BIAS_CFG] s.dev d ∧
      (d.rd Reg.BIAS_CFG).bit 1 = w.bit 1 ∧ (d.rd Reg.BIAS_CFG).bit 2 = w.bit 2 ∧
      (d.rd Reg.BIAS_CFG).bit 0 = (w.bit 0 || s.dev.corufCrit) ∧
      d.bias = { s.dev.bias with critHold := s.dev.bias.critHold && (w.bit 0 || s.dev.corufCrit) })

/-- SEC_CFG bits are set and never cleared (R471); a read of the fault log moves its address on; a request for a device state is
queued behind the one in progress, and one that
Table 16.7 refuses is counted (R452, R453). -/
def SystemRegisters : Prop :=
  ∀ (s : State) (i : Initiator) (w : Word),
    (Open s i true Reg.SEC_CFG → ∃ d, Leads s (.secCfgWrite i w) d ∧ d.rd Reg.SEC_CFG = (s.dev.rd Reg.SEC_CFG ||| (w &&& 3)) ∧
      SameRegsBut [Reg.SEC_CFG] s.dev d ∧ d = { s.dev with regs := d.regs }) ∧
    (Open s i false Reg.SUMP_LOG_DATA → ∃ d, Leads s (.logDataRead i) d ∧
      (d.rd Reg.SUMP_LOG_ADDR).get 13 0 = ((s.dev.rd Reg.SUMP_LOG_ADDR).get 13 0 + 1) % 16384 ∧
      SameRegsBut [Reg.SUMP_LOG_ADDR] s.dev d ∧ d = { s.dev with regs := d.regs }) ∧
    (Open s i true Reg.POWER_REQ →
      ((w.get 2 0 < 1 ∨ 4 < w.get 2 0) → Leads s (.powerReqWrite i w) s.dev) ∧
      (1 ≤ w.get 2 0 → w.get 2 0 ≤ 4 →
        (s.dev.power.cur = none → w.get 2 0 = s.dev.power.dev → Leads s (.powerReqWrite i w) s.dev) ∧
        (∀ r, s.dev.power.cur = some r → r.target = w.get 2 0 → Leads s (.powerReqWrite i w) s.dev) ∧
        (∀ r, s.dev.power.cur = some r → r.target ≠ w.get 2 0 → s.dev.power.slot = none →
          Leads s (.powerReqWrite i w) { s.dev with power := { s.dev.power with slot := some ⟨w.get 2 0, none⟩ } }) ∧
        (∀ r x, s.dev.power.cur = some r → r.target ≠ w.get 2 0 → s.dev.power.slot = some x → x.cmd = none →
          ∃ d, Leads s (.powerReqWrite i w) d ∧ Set d Reg.POWER_EVT 2 ∧ SameRegsBut [Reg.POWER_EVT] s.dev d ∧
            d.power = { s.dev.power with slot := some ⟨w.get 2 0, none⟩ }) ∧
        (s.dev.power.cur = none → w.get 2 0 ≠ s.dev.power.dev → ∀ d ok,
          ({ s.dev with power := { s.dev.power with cur := some ⟨w.get 2 0, none⟩ } } : Dev).stepPower = (d, ok) →
          Leads s (.powerReqWrite i w) (if ok then d else d.nextRequest))) ∧
      (w.get 2 0 = 4 → s.dev.power.cur = none → s.dev.power.slot = none → s.dev.power.dev = 3 →
        (s.dev.cad.running = true → s.dev.sump.sensors.toList.any Sensor.atCrit = false → ∃ d, Leads s (.powerReqWrite i w) d ∧
          d = { s.dev with power := { s.dev.power with cur := some ⟨4, none⟩, stepTo := some 4 }, cad := d.cad } ∧
          d.cad.changes.map (fun c => (c.key, c.arg)) = s.dev.cad.changes.map (fun c => (c.key, c.arg)) ++ [(.power, 4)]) ∧
        (s.dev.cad.running = false → ∃ d, Leads s (.powerReqWrite i w) d ∧ Counted s.dev d Reg.POWER_REFUSED 31 0 ∧
          (d.rd Reg.POWER_LAST).get 31 16 = 0xA ∧ Set d Reg.POWER_EVT 3 ∧ d.power = { s.dev.power with stepTo := none } ∧
          SameRegsBut [Reg.POWER_REFUSED, Reg.POWER_LAST, Reg.POWER_EVT] s.dev d)))

/-- Lanes put to sleep or taken out of service (R266, R267): a request that would leave a direction with no lane awake is refused in
full; the last lane stays. While no lane is in service only the register changes. -/
def LaneRegisters : Prop :=
  ∀ (s : State) (i : Initiator) (w : Word),
    (Open s i true Reg.SKX_PHY_SLEEP →
      ((w.get 15 8 = 255 ∨ w.get 7 0 = 255) → ∃ d, Leads s (.laneSleepRequest i w) d ∧ Set d Reg.SKX_PHY_EVT 8 ∧
        SameRegsBut [Reg.SKX_PHY_EVT] s.dev d ∧ d.link = s.dev.link ∧ d.lanes = s.dev.lanes) ∧
      (w.get 15 8 ≠ 255 → w.get 7 0 ≠ 255 → (∀ k : Fin 8, (s.dev.lanes[k]).st ≠ .active) →
        ∃ d, Leads s (.laneSleepRequest i w) d ∧ d.rd Reg.SKX_PHY_SLEEP = (w &&& 0xFFFF#32) ∧ SameRegsBut [Reg.SKX_PHY_SLEEP] s.dev d ∧
          d = { s.dev with regs := d.regs })) ∧
    (Open s i true Reg.SKX_PHY_CFG → s.dev.link.txSet = 0 → s.dev.link.rxSet = 0 →
      ∃ d, Leads s (.laneEnableWrite i w) d ∧ (d.rd Reg.SKX_PHY_CFG).get 31 24 = w.get 31 24 ∧
        ∀ k : Fin 8,
          (w.bit (24 + k.val) = true → (s.dev.lanes[k]).st = .ei → (s.dev.lanes[k]).retired = false → (s.dev.lanes[k]).fastExit = false →
            (d.lanes[k]).st = .detect ∧ (d.lanes[k]).attempt = 1 ∧ Counted s.dev d (Reg.LANE_RETRAIN k.val) 15 0) ∧
          (w.bit (24 + k.val) = false → (s.dev.lanes[k]).st ≠ .active → (s.dev.lanes[k]).st ≠ .retired → (s.dev.lanes[k]).st ≠ .bist →
            (d.lanes[k]).st = .ei))

end Sys2Proof.Cert

/-- The register rows that act at once. -/
def Obligations.RegisterRowsAct : Prop := TimeRegisters ∧ BiasRegisters ∧ SystemRegisters ∧ LaneRegisters

/-! ### Management SPI, register access over the link, Derrick, the check-value unit (chapter 14) -/

namespace Sys2Proof.Cert

/-- `s` with the SPI's state replaced. -/
def withSpi (s : State) (x : Spi) : Dev := { s.dev with spi := x }

/-- Write frames (R384, R386, R387): words queue in order, at rising addresses or, with WRITE_FIX, at one; every word that finds eight
waiting is lost with OVERRUN, a bus error of its own. -/
def SpiWrites : Prop :=
  ∀ (s : State) (a w : Word) (ws : List Word), s.dev.power.fabric = true → s.dev.spi.failed ≠ some (s.dev.spi.frame + 1) →
    let x := s.dev.spi
    let f := x.frame + 1
    (x.queue.length + ws.length ≤ 8 →
      let up := ws.zipIdx.map fun (y : Word × Nat) => ((a.toNat + 4 * y.2) % 4294967296, y.1, f)
      let fix := ws.zipIdx.map fun (y : Word × Nat) => (a.toNat, y.1, f)
      Makes s (.spiWrite a ws) (withSpi s { x with frame := f, queue := x.queue ++ up }) ∧
      Makes s (.spiWriteFix a ws) (withSpi s { x with frame := f, queue := x.queue ++ fix })) ∧
    (8 ≤ x.queue.length → ∀ c, c = .spiWrite a [w] ∨ c = .spiWriteFix a [w] →
      ∃ d, Makes s c d ∧ d.spi = { x with frame := f, err := true, code := if x.err then x.code else BusCode.overrun.num } ∧
        Stopped (withSpi s d.spi) d .spi true 32 a.toNat .overrun) ∧
    (x.queue.length ≤ 8 → ∀ y ∈ [(Instr.spiWrite a ws, 4), (Instr.spiWriteFix a ws, 0)],
      let lost := x.queue.length + ws.length - 8
      ∃ d, Makes s y.1 d ∧ d = { s.dev with spi := d.spi, regs := d.regs, same := d.same } ∧
        d.spi = { x with
          frame := f, err := x.err || decide (0 < lost), code := if 0 < lost ∧ x.err = false then BusCode.overrun.num else x.code
          queue := (x.queue ++ ws.zipIdx.map fun (z : Word × Nat) => ((a.toNat + y.2 * z.2) % 4294967296, z.1, f)).take 8 } ∧
        SameRegsBut [Reg.SYS_BUS_ERR_CNT, Reg.SYS_BUS_ERR_INFO, Reg.SYS_BUS_ERR_ADDR] s.dev d ∧
        (d.rd Reg.SYS_BUS_ERR_CNT).toNat = min ((s.dev.rd Reg.SYS_BUS_ERR_CNT).toNat + lost) (2 ^ 32 - 1))

/-- The write queue drains (R386, R387): the oldest word is an access of the SPI; one that fails ends its frame's other words. -/
def SpiDrains : Prop :=
  ∀ (s : State) (a f : Nat) (w : Word) (rest : List (Nat × Word × Nat)), s.dev.spi.queue = (a, w, f) :: rest →
    let s1 : State := { s with dev := withSpi s { s.dev.spi with queue := rest } }
    (Open s1 .spi true a → inBlock a = true → a ≠ Reg.DPD_LUT_DATA →
      exec .spiQueuedWrite s = .next (after s (s1.dev.writeReg .spi a w, s.mem))) ∧
    (∀ c, s1.dev.stops .spi true 32 a = some c → ∃ e, Stopped s1.dev e .spi true 32 a c ∧
      let x := settled (e, s.mem)
      exec .spiQueuedWrite s = .next { s with
        mem := x.2
        dev := { x.1 with spi := { x.1.spi with
          queue := x.1.spi.queue.filter (fun y => y.2.2 != f), failed := some f, err := true,
          code := if x.1.spi.err then x.1.spi.code else c.num } } })

/-- Read frames (R384, R385): sync byte 0xA5 and each word read; from the first failure on, the error byte and zeros. A read comes
after the writes that wait (R377), which are drained first. What a read lets land, lands before the word after it. -/
def SpiReads : Prop :=
  ∀ (s : State) (a : Word) (n : Nat), s.dev.power.fabric = true →
    let s1 : State := { s with dev := withSpi s { s.dev.spi with frame := s.dev.spi.frame + 1, sync := [], sdo := [] } }
    let ends := fun (c : Instr) (x : Dev × Mem) (sync : List Nat) (sdo : List Word) (failed : Option Nat) =>
      exec c s = .next { s with
        mem := x.2
        dev := { x.1 with spi := { x.1.spi with
          sync := x.1.spi.sync ++ sync, sdo := x.1.spi.sdo ++ sdo, err := x.1.spi.err || failed.isSome
          code := if x.1.spi.err then x.1.spi.code else failed.getD x.1.spi.code } } }
    (let y := spiDrain s.dev s.mem
     y.1.spi.queue = [] → y.1.power.fabric = true → ∀ c ∈ [Instr.spiRead a n, Instr.spiReadFix a n],
      exec c s = exec c { s with dev := y.1, mem := y.2 }) ∧
    (s.dev.spi.queue = [] →
      (Open s1 .spi false a.toNat → inBlock a.toNat = true → a.toNat ≠ Reg.DPD_LUT_DATA →
        ∀ c ∈ [Instr.spiRead a 1, Instr.spiReadFix a 1],
          ends c (settled ((s1.dev.readReg s.mem a.toNat).2, s.mem)) [0xA5] [(s1.dev.readReg s.mem a.toNat).1] none) ∧
      (∀ e, s1.dev.stops .spi false 32 a.toNat = some e → 0 < n → ∀ c ∈ [Instr.spiRead a n, Instr.spiReadFix a n],
        ∃ d, Stopped s1.dev d .spi false 32 a.toNat e ∧
          ends c (settled (d, s.mem)) (List.replicate n (0xE0 + e.num)) (List.replicate n 0) (some e.num)) ∧
      (∀ (v : Nat → Word) (step : Nat), Quiet s.dev →
        (∀ k, k < n → let b := (a.toNat + step * k) % 4294967296
          Open s1 .spi false b ∧ inBlock b = true ∧ b ≠ Reg.DPD_LUT_DATA ∧ 
            ∀ (x : Spi), ({ s.dev with spi := x } : Dev).readReg s.mem b = (v k, { s.dev with spi := x })) →
        ∀ c, (c = .spiRead a n ∧ step = 4) ∨ (c = .spiReadFix a n ∧ step = 0) →
          Makes s c (withSpi s { s.dev.spi with
            frame := s.dev.spi.frame + 1, sync := List.replicate n 0xA5, sdo := (List.range n).map v })))

/-- STATUS returns the status byte and clears its flags; a part word is noted; an unknown opcode is DECODE (R382, R387, R388). With
the register fabric down the device does not answer (R383). -/
def SpiStatusAndEnds : Prop :=
  ∀ (s : State) (o : Byte),
    let x := s.dev.spi
    (s.dev.power.fabric = true →
      Makes s .spiStatus (withSpi s { x with
        sync := [128 * b2n (x.queue != []) + 64 * b2n x.err + 32 * b2n x.part + x.code], sdo := [], err := false, part := false, code := 0 }) ∧
      Makes s (.spiFrameEnd true) (withSpi s { x with part := true }) ∧ Makes s (.spiFrameEnd false) s.dev ∧
      (o ∉ spiOpcodes → Makes s (.spiUnknownOpcode o) (withSpi s { x with
        err := true, code := if x.err then x.code else BusCode.decode.num }))) ∧
    (s.dev.power.fabric = false → ∀ (a : Word) (ws : List Word) (n : Nat), ∀ c ∈ ([.spiWrite a ws, .spiWriteFix a ws, .spiRead a n,
      .spiReadFix a n, .spiStatus, .spiFrameEnd true, .spiUnknownOpcode o] : List Instr), Makes s c s.dev)

end Sys2Proof.Cert

/-- The management SPI.
Choices of the model that it takes in: log entry 53. -/
def Obligations.ManagementSpi : Prop := SpiWrites ∧ SpiDrains ∧ SpiReads ∧ SpiStatusAndEnds

namespace Sys2Proof.Cert

/-- A request of flow 0x310 with operation `op` stands at the head of the ring, and the register fabric runs. -/
def Requests (s : State) (p : Packet) (op : Nat) : Prop :=
  s.dev.power.fabric = true ∧ s.dev.drunas.ring.head? = some p ∧ p.regAccess = true ∧ regOp p = op

/-- The row that executes requests of an operation. -/
def requestRow (op : Nat) : Instr :=
  match op with
  | 1 => .regAccessRead
  | 2 => .regAccessWrite
  | 9 => .regAccessAuthRead
  | 10 => .regAccessAuthWrite
  | _ => .regAccessReservedOp

/-- A request that fails has made no access: a bus error, and a response of zeros with its code (R389, Table 14.5). -/
def Fails (s : State) (p : Packet) (d : Dev) (c : BusCode) : Prop :=
  ∃ e, Stopped d e .link (regOp p % 8 == 2) 32 (p.words.getD 1 0).toNat c ∧
    Makes s (requestRow (regOp p)) (e.regResponse p false c.num 0 (if regOp p % 8 = 1 then List.replicate (regCount p) 0 else []))

end Sys2Proof.Cert

/-- Register access over the link (R389, R390, R470, R471): a request leaves the ring and is answered in the form of Table 14.5; a bad
CRC, a reserved operation, missing authentication and a tag that does not verify make no access.
Choices of the model that it takes in: log entries 46 and 47. -/
def Obligations.LinkRegisterAccess : Prop :=
  ∀ (s : State) (p : Packet) (op : Nat), Requests s p op → op < 16 →
    let d0 := s.dev.popRing
    let a := (p.words.getD 1 0).toNat
    let s0 : State := { s with dev := d0 }
    (p.crcOk = false → Fails s p d0 .check) ∧
    (p.crcOk = true → op ∉ [1, 2, 9, 10] → Fails s p d0 .decode) ∧
    (p.crcOk = true → op = 2 → d0.needsAuth false = true → Fails s p d0 .security) ∧
    (p.crcOk = true → op = 9 ∨ op = 10 → s.dev.sec.kFlow = none → ∃ d, Counted d0 d Reg.SEC_AUTH_FAIL 31 0 ∧ Set d Reg.SEC_EVT 3 ∧
      SameRegsBut [Reg.SEC_AUTH_FAIL, Reg.SEC_EVT] d0 d ∧ Fails s p d .check) ∧
    (p.crcOk = true → op = 1 → regCount p = 1 → inBlock a = true → a ≠ Reg.DPD_LUT_DATA → Open s0 .link false a →
      let r := d0.readReg s.mem a
      let x := settled (r.2, s.mem)
      exec .regAccessRead s = .next { s with dev := x.1.regResponse p false 0 1 [r.1], mem := x.2 }) ∧
    (p.crcOk = true → op = 1 → Quiet s.dev → ∀ v : Nat → Word,
      (∀ k, k < regCount p → let b := if (p.words.getD 0 0).bit 27 then a else (a + 4 * k) % 4294967296
        Open s0 .link false b ∧ inBlock b = true ∧ b ≠ Reg.DPD_LUT_DATA ∧ d0.readReg s.mem b = (v k, d0)) →
      Makes s .regAccessRead (d0.regResponse p false 0 (regCount p) ((List.range (regCount p)).map v))) ∧
    (p.crcOk = true → op = 1 ∨ (op = 2 ∧ d0.needsAuth false = false) → ∀ c, d0.stops .link (op == 2) 32 a = some c →
      ∃ e, Stopped d0 e .link (op == 2) 32 a c ∧
        let x := settled (e, s.mem)
        exec (requestRow op) s = .next { s with
          dev := x.1.regResponse p false c.num 0 (if op = 1 then List.replicate (regCount p) 0 else []), mem := x.2 }) ∧
    (p.crcOk = true → op = 2 → d0.needsAuth false = false → regCount p = 1 → inBlock a = true → a ≠ Reg.DPD_LUT_DATA →
      Open s0 .link true a → 2 < p.words.length →
      let x := settled (d0.writeReg .link a (p.words.getD 2 0), s.mem)
      exec .regAccessWrite s = .next { s with dev := x.1.regResponse p false 0 1 [], mem := x.2 }) ∧
    (p.crcOk = true → regCount p = 1 → inBlock a = true → a ≠ Reg.DPD_LUT_DATA →
      ∀ (d1 : Dev) (bytes : List Byte), d0.authOpen false ((p.words.getD 0 0).get 11 0) ((p.words.take 2).flatMap beBytes)
          ((if op = 10 then (p.words.drop 2).take 1 else []).flatMap beBytes)
          (((p.words.drop (2 + (if op = 10 then (p.words.drop 2).take 1 else []).length)).take 4).flatMap beBytes) = (some bytes, d1) →
        (op = 9 → d1.stops .link false 32 a = none →
          let r := d1.readReg s.mem a
          let x := settled (r.2, s.mem)
          exec .regAccessAuthRead s = .next { s with dev := x.1.regResponse p true 0 1 [r.1], mem := x.2 }) ∧
        (op = 10 → d1.stops .link true 32 a = none →
          let x := settled (d1.writeReg .link a ((beWords bytes).getD 0 0), s.mem)
          exec .regAccessAuthWrite s = .next { s with dev := x.1.regResponse p true 0 1 [], mem := x.2 }))

namespace Sys2Proof.Cert

/-- No channel but `c` runs, is READY or STOPPED, so that the engine is free for `c`. -/
def EngineFree (s : State) (c : Fin 8) : Prop :=
  ∀ j : Fin 8, j ≠ c → (s.dev.derrick.ch[j]).st ≠ .running ∧ (s.dev.derrick.ch[j]).st ≠ .ready ∧ (s.dev.derrick.ch[j]).st ≠ .stopped

/-- Another channel than `c` runs or is STOPPED, so that `c` has to wait for the engine. -/
def EngineBusy (s : State) (c : Fin 8) : Prop :=
  ∃ j : Fin 8, j ≠ c ∧ ((s.dev.derrick.ch[j]).st = .running ∨ (s.dev.derrick.ch[j]).st = .stopped)

/-- `d` differs from `s` in Derrick and its registers only, and there in channel `c` only, which is `x`. -/
def OnlyChannel (s : State) (d : Dev) (c : Fin 8) (x : Channel) : Prop :=
  d.derrick.ch = s.dev.derrick.ch.set c x ∧
    d = { s.dev with derrick := d.derrick, regs := d.regs, rises := d.rises, same := d.same }

/-- START, RESUME and ABORT (R393, R394, R399, R400): each acts in its states; a channel made READY runs where the engine is free and
waits where it is not; START on a channel in work is refused with an event. -/
def DerrickControl : Prop :=
  ∀ (s : State) (i : Initiator) (c : Fin 8) (st : ChState), Open s i true (Reg.DERRICK_CH_CTRL c.val) →
    (EngineFree s c ∧ st = .running) ∨ (EngineBusy s c ∧ st = .ready) →
    let x := s.dev.derrick.ch[c]
    (x.st = .idle ∨ x.st = .done ∨ x.st = .doneErr ∨ x.st = .aborted → ∃ d, Leads s (.derrickStart i c) d ∧
      OnlyChannel s d c { Channel.reset with st := st, desc := (s.dev.rd (Reg.DERRICK_CH_DESC c.val)).toNat, src := x.src,
                                             dst := x.dst, count := x.count } ∧ d.regs = s.dev.regs) ∧
    (x.st = .ready ∨ x.st = .running ∨ x.st = .halted ∨ x.st = .stopped → ∃ d, Leads s (.derrickStart i c) d ∧
      Set d Reg.DERRICK_EVT 3 ∧ SameRegsBut [Reg.DERRICK_EVT] s.dev d ∧ d.derrick = s.dev.derrick) ∧
    (x.st = .halted → (∃ d, Leads s (.derrickResume i c) d ∧ OnlyChannel s d c { x with st := st } ∧ d.regs = s.dev.regs) ∧
      ∃ d, Leads s (.derrickAbort i c) d ∧ OnlyChannel s d c { x with st := .aborted } ∧ d.regs = s.dev.regs) ∧
    (x.st = .stopped → (∃ d, Leads s (.derrickResume i c) d ∧ OnlyChannel s d c { x with st := st, wasRunning := false }) ∧
      ∃ d, Leads s (.derrickAbort i c) d ∧ OnlyChannel s d c { x with st := .aborted, wasRunning := false }) ∧
    (x.st ≠ .halted → x.st ≠ .stopped → Leads s (.derrickResume i c) s.dev ∧ Leads s (.derrickAbort i c) s.dev)

/-- The running channel's descriptor (R392, R396, R397, R399): its four words are taken up; one outside its areas is refused, which
halts the channel. -/
def DerrickDescriptor : Prop :=
  ∀ (s : State) (c : Fin 8), s.dev.runningChannel = some c → (s.dev.derrick.ch[c]).loaded = false →
    let x := s.dev.derrick.ch[c]
    (∀ ws d m, fetchDescriptor s.dev s.mem x.desc = (.inl ws, d, m) → ((ws.getD 2 0).get 24 0 ≠ 0 →
      exec .derrickDescriptorFetch s = .next { s with
        mem := m
        dev := d.modChannel c fun x => { x with
          src := (ws.getD 0 0).toNat, dst := (ws.getD 1 0).toNat, count := (ws.getD 2 0).get 24 0, ctl := ws.getD 2 0,
          next := (ws.getD 3 0).toNat, loaded := true, funnel := none,
          down := !(ws.getD 2 0).bit 29 && !(ws.getD 2 0).bit 28 &&
            decide ((ws.getD 0 0).toNat < (ws.getD 1 0).toNat ∧ (ws.getD 1 0).toNat < (ws.getD 0 0).toNat + (ws.getD 2 0).get 24 0) } })) ∧
    (∀ e b d m, fetchDescriptor s.dev s.mem x.desc = (.inr (e, b), d, m) →
      exec .derrickDescriptorFetch s = .next { s with dev := d.channelError c 2 b e, mem := m }) ∧
    let w := fun (k : Nat) => Mem.word s.mem (x.desc + 4 * k)
    let n := (w 2).get 24 0
    let fixed := (w 2).bit 29 || (w 2).bit 28
    (descriptorAllowed x.desc = true → Quiet s.dev → (∀ k, k < 4 → Open s .derrick false (x.desc + 4 * k)) → 0 < n →
      (fixed = true → (w 0).toNat % 4 = 0 ∧ (w 1).toNat % 4 = 0 ∧ n % 4 = 0) →
      Makes s .derrickDescriptorFetch (s.dev.modChannel c fun x => { x with
        src := (w 0).toNat, dst := (w 1).toNat, count := n, ctl := w 2, next := (w 3).toNat, loaded := true, funnel := none,
        down := !fixed && decide ((w 0).toNat < (w 1).toNat ∧ (w 1).toNat < (w 0).toNat + n) })) ∧
    (descriptorAllowed x.desc = false → s.dev.derrick.allStop = false → EngineFree s c →
      ∃ d, Makes s .derrickDescriptorFetch d ∧ OnlyChannel s d c { x with st := .halted } ∧ Set d Reg.DERRICK_EVT 1 ∧
        Counted s.dev d Reg.SYS_BUS_ERR_CNT 31 0 ∧ (d.rd (Reg.DERRICK_CH_STATUS c.val)).get 19 16 = BusCode.refused.num ∧
        (d.rd Reg.DERRICK_ERR_INFO).bit 31 = true ∧ (d.rd Reg.DERRICK_ERR_INFO).get 30 28 = c.val ∧
        d.rd Reg.DERRICK_ERR_ADDR = BitVec.ofNat 32 x.desc)

/-- The last word of a descriptor moves (R395, R398), and no other byte; the chain then ends and its channel is DONE (R394). -/
def DerrickMoves : Prop :=
  ∀ (s : State) (c : Fin 8), s.dev.runningChannel = some c → (s.dev.derrick.ch[c]).loaded = true →
    let x := s.dev.derrick.ch[c]
    (∀ d m, x.count ≠ 0 → burstBeats 16 s.dev s.mem c = (.moved, d, m) → (d.derrick.ch[c]).count ≠ 0 →
      exec .derrickBurst s = .next { s with dev := d, mem := m }) ∧
    (∀ e b d m, x.count ≠ 0 → burstBeats 16 s.dev s.mem c = (.readFails e b, d, m) →
      exec .derrickBurst s = .next { s with dev := d.channelError c 0 b e, mem := m }) ∧
    (x.count = 4 → x.src % 4 = 0 → x.dst % 4 = 0 → 0x3000000 ≤ x.src → x.src + 4 ≤ 0x3C00000 → 0x3000000 ≤ x.dst →
      x.dst + 4 ≤ 0x3C00000 → x.ctl.bit 31 = true → x.ctl.bit 29 = false → x.ctl.bit 28 = false → x.down = false → x.funnel = none →
      s.dev.derrick.allStop = false → Quiet s.dev → Open s .derrick false x.src → Open s .derrick true x.dst →
      ∃ d m, exec .derrickBurst s = .next { s with dev := d, mem := m } ∧ Mem.word m x.dst = Mem.word s.mem x.src ∧
        (∀ b, (b < x.dst ∨ x.dst + 4 ≤ b) → Mem.get m b = Mem.get s.mem b) ∧
        (d.derrick.ch[c]).count = 0 ∧ (d.derrick.ch[c]).src = x.src + 4 ∧ (d.derrick.ch[c]).dst = x.dst + 4 ∧
        (d.derrick.ch[c]).st = .running ∧ (x.ctl.bit 30 = true → Set d Reg.DERRICK_EVT 0) ∧ SameRegsBut [Reg.DERRICK_EVT] s.dev d) ∧
    (x.count = 0 → x.ctl.bit 31 = true → EngineFree s c → ∃ d, Makes s .derrickChainEnd d ∧ OnlyChannel s d c { x with st := .done } ∧
      d.regs = s.dev.regs)

end Sys2Proof.Cert

/-- Derrick.
Choices of the model that it takes in: log entry 58. -/
def Obligations.DerrickChannels : Prop := DerrickControl ∧ DerrickDescriptor ∧ DerrickMoves

/-- The check-value unit (R403 to R406): a start scans a range inside the memory windows, or fails with REFUSED; a scan that ends
leaves the value in CHECK_RESULT, for CRC-32C the one of the bytes; a fed word enters by its bytes; a unit that scans takes neither. -/
def Obligations.CheckValueUnit : Prop :=
  ∀ (s : State) (i : Initiator) (w : Word),
    let a := (s.dev.rd Reg.CHECK_ADDR).toNat
    let n := (s.dev.rd Reg.CHECK_LEN).get 24 0
    (Open s i true Reg.CHECK_CTRL →
      (s.dev.check.busy = false → inWindows a n = true →
        Leads s (.checkScanStart i) { s.dev with check := { busy := true, crc := s.dev.checkStart, addr := a, len := n } }) ∧
      (s.dev.check.busy = false → inWindows a n = false → ∃ d, Leads s (.checkScanStart i) d ∧ Set d Reg.CHECK_EVT 1 ∧
        (d.rd Reg.CHECK_STATUS).get 19 16 = BusCode.refused.num ∧ d.check = s.dev.check ∧
        SameRegsBut [Reg.CHECK_EVT, Reg.CHECK_STATUS, Reg.CHECK_ERR_ADDR, Reg.CHECK_RESULT] s.dev d) ∧
      (s.dev.check.busy = true → ∃ d, Leads s (.checkScanStart i) d ∧ Set d Reg.CHECK_EVT 2 ∧ SameRegsBut [Reg.CHECK_EVT] s.dev d ∧
        d.check = s.dev.check)) ∧
    (Open s i true Reg.CHECK_DATA →
      (s.dev.check.busy = false → ∃ d, Leads s (.checkDataFeed i w) d ∧ SameRegsBut [Reg.CHECK_RESULT] s.dev d ∧
        d.check.crc = (s.dev.checkOrder w).foldl (checkByte s.dev.checkAlg) s.dev.checkStart ∧
        d.rd Reg.CHECK_RESULT = checkOut s.dev.checkAlg d.check.crc ∧ d.check.busy = false) ∧
      (s.dev.check.busy = true → ∃ d, Leads s (.checkDataFeed i w) d ∧ Set d Reg.CHECK_EVT 2 ∧ SameRegsBut [Reg.CHECK_EVT] s.dev d ∧
        d.check = s.dev.check)) ∧
    (s.dev.check.busy = true → s.dev.scanFault s.dev.check.addr s.dev.check.len = none →
      ∃ d m, exec .checkScanDone s = .next { s with dev := d, mem := m } ∧ Set d Reg.CHECK_EVT 0 ∧
        SameRegsBut [Reg.CHECK_EVT, Reg.CHECK_RESULT] s.dev d ∧ d.check.busy = false ∧
        (s.dev.beam.mirrorBusy = false ∨ s.dev.check.addr < 0x1000000 ∨ 0x2400000 ≤ s.dev.check.addr → m = s.mem) ∧
        (s.dev.checkAlg = 0 → (s.dev.rd Reg.CHECK_CFG).bit 31 = false → s.dev.check.crc = 0xFFFFFFFF#32 →
          d.rd Reg.CHECK_RESULT = crc32c (Mem.bytes m s.dev.check.addr s.dev.check.len))) ∧
    (s.dev.check.busy = true → ∀ x, s.dev.scanFault s.dev.check.addr s.dev.check.len = some x →
      ∃ d, Makes s .checkScanDone d ∧ Set d Reg.CHECK_EVT 1 ∧ d.check.busy = false ∧
        (d.rd Reg.CHECK_STATUS).get 19 16 = x.2.num ∧ d.rd Reg.CHECK_ERR_ADDR = BitVec.ofNat 32 x.1) ∧
    (checkByte 0 = crcByte ∧ ∀ bs : List Byte, checkOut 0 (bs.foldl (checkByte 0) (checkInit 0)) = crc32c bs)

/-- The windows of the command processor (R312, R323): words gather to a packet, which enters the ring when it is complete; replies
are read word by word, the last word removing its reply; a reply that finds sixteen waiting is discarded and counted; both can be
flushed; a message of the link enters the ring; a full ring counts what it loses. -/
def Obligations.CommandWindows : Prop :=
  ∀ (s : State) (i : Initiator) (w : Word),
    let x := s.dev.drunas
    let ws := x.submit ++ [w]
    (Open s i true Reg.DRUNAS_SUBMIT →
      (ws.length < 2 ∨ ws.length < impliedWords (ws.getD 1 0) →
        Leads s (.drunasSubmitWrite i w) { s.dev with drunas := { x with submit := ws } }) ∧
      (2 ≤ ws.length → impliedWords (ws.getD 1 0) ≤ ws.length → x.ring.length < 64 → ringBytes x.ring + 4 * ws.length ≤ 65536 →
        Leads s (.drunasSubmitWrite i w) { s.dev with drunas := { x with submit := [], ring := x.ring ++ [⟨ws, true, false, true, 0, 0, false⟩] } }) ∧
      (2 ≤ ws.length → impliedWords (ws.getD 1 0) ≤ ws.length → 64 ≤ x.ring.length → ∃ d, Leads s (.drunasSubmitWrite i w) d ∧
        Counted s.dev d Reg.DRUNAS_RING_FULL 31 0 ∧ Set d Reg.DRUNAS_EVT 2 ∧ d.drunas.ring = x.ring ∧ d.drunas.submit = [])) ∧
    (Open s i false Reg.DRUNAS_REPLY →
      (x.replies = [] → Leads s (.drunasReplyRead i) s.dev) ∧
      (∀ v vs rest, x.replies = (v :: vs) :: rest →
        Leads s (.drunasReplyRead i) { s.dev with drunas := { x with replies := if vs = [] then rest else vs :: rest } } ∧
          s.dev.replyWord.1 = v)) ∧
    (Open s i true Reg.DRUNAS_CTRL → Leads s (.flushReply i) { s.dev with drunas := { x with replies := [] } } ∧
      Leads s (.flushSubmit i) { s.dev with drunas := { x with submit := [] } }) ∧
    (∀ m rest, s.dev.link.inbox = m :: rest → m.flow = 0x300 ∨ m.flow = 0x310 →
      (x.ring.length < 64 → ringBytes x.ring + 4 * m.words.length ≤ 65536 →
        Makes s .commandMessage { s.dev with link := { s.dev.link with inbox := rest }, drunas := { x with
          ring := x.ring ++ [⟨m.words, false, m.flow == 0x310, m.crcOk, 0, 0, false⟩] } }) ∧
      (64 ≤ x.ring.length → ∃ d, Makes s .commandMessage d ∧ Counted s.dev d Reg.DRUNAS_RING_FULL 31 0 ∧ Set d Reg.DRUNAS_EVT 2 ∧
        d.drunas.ring = x.ring ∧ d.link.inbox = rest)) ∧
    (∀ ws : List Word, (x.replies.length < 16 → (s.dev.deliver true ws).1.drunas = { x with replies := x.replies ++ [ws] }) ∧
      (16 ≤ x.replies.length → ∃ d, (s.dev.deliver true ws).1 = d ∧ Counted s.dev d Reg.DRUNAS_REPLY_LOST 31 0 ∧ Set d Reg.DRUNAS_EVT 3 ∧
        SameRegsBut [Reg.DRUNAS_REPLY_LOST, Reg.DRUNAS_EVT] s.dev d ∧ d.drunas = x))

/-! ### Beamforming, predistortion, calibration (chapters 5 to 7) -/

/-- The Ashlar store and the slices (R133, R134, R136, R152, R153): a copy that ends leaves the inactive halves equal to the active
ones, and the bank changes that waited for it are due; an uncorrectable word acts as zero from now on; a failing check marks its
slice and reports it.
Choices of the model that it takes in: log entries 55, 78, 83 and 91. -/
def Obligations.BeamStoreAndSlices : Prop :=
  ∀ s : State,
    let b := s.dev.beam
    let active := fun (ul : Bool) => if ul then b.ulBank else b.dlBank
    let src := fun (ul : Bool) => ashlarAddr (active ul) ul 0 0 0
    let dst := fun (ul : Bool) => ashlarAddr (!active ul) ul 0 0 0
    (Memory.wf s.mem = true → b.mirrorBusy = true → b.written = [] → b.eccZero = [] →
      ∃ d m, exec .mirrorCopyDone s = .next (after s (d, m)) ∧
        (∀ ul n, n < 0x500000 → Mem.get m (dst ul + n) = Mem.get s.mem (src ul + n)) ∧
        (∀ x, (∀ ul, x < dst ul ∨ dst ul + 0x500000 ≤ x) → Mem.get m x = Mem.get s.mem x) ∧
        (b.mirrorWait = true → d = { s.dev with beam := { b with mirrorWait := false } }) ∧
        (b.mirrorWait = false → d.beam = { b with mirrorBusy := false, dlWait := none, ulWait := none } ∧
          d.cad.changes.map (fun c => (c.key, c.arg)) = s.dev.cad.changes.map (fun c => (c.key, c.arg)) ++
            b.dlWait.toList.map (fun x => (.beamBank false, b2n x)) ++ b.ulWait.toList.map (fun x => (.beamBank true, b2n x)))) ∧
    (∀ a, isAshlarWord a = true → s.dev.domainUp a = true →
      (∃ d, Leads s (.ashlarEccError a true) d ∧ Counted s.dev d Reg.BEAM_ECC 31 16 ∧ SameRegsBut [Reg.BEAM_ECC] s.dev d ∧
        d = { s.dev with regs := d.regs, same := d.same }) ∧
      (∃ d, Leads s (.ashlarEccError a false) (d.report 219) ∧ d.eccBad a = true ∧ Counted s.dev d Reg.BEAM_ECC 15 0 ∧
        Set d Reg.BEAM_EVT 6 ∧ SameRegsBut [Reg.BEAM_ECC, Reg.BEAM_EVT] s.dev d)) ∧
    (∀ k : Fin 8, s.dev.cad.running = true →
      (b.spareRetired = false → b.spareFor = none → b.spareNext = none → ∃ d, Set d Reg.BEAM_EVT 4 ∧
        SameRegsBut [Reg.BEAM_EVT] s.dev d ∧ Leads s (.sliceMismatch k true) (d.report (toSrc (172 + k.val))) ∧
        Leads s (.sliceMismatch k false) (d.report 180)) ∧
      (b.sliceRetired.testBit k.val = false → ∃ d, Leads s (.sliceCheckFail k) (d.report (toSrc (172 + k.val))) ∧
        Set d Reg.BEAM_EVT 5 ∧ d.beam = { b with sliceErr := b.sliceErr ||| 2 ^ k.val } ∧ SameRegsBut [Reg.BEAM_EVT] s.dev d))

namespace Sys2Proof.Cert

/-- A solver cycle begins at a tick whose index is a multiple of its period (R141, R142, R145, R149): the symbols sounded before that tick
are the newest estimates of their layers, layers whose estimate is too old or absent are left out and shown, and so are retired paths. -/
def SolverCycleStarts : Prop :=
  ∀ s : State,
    let b := s.dev.beam
    let due := s.dev.solverRuns = true ∧ s.dev.cycleTick s.dev.solverPeriod s.dev.cad.nom = true ∧ b.solvedAt ≠ some s.dev.cad.tickIdx
    (due → ∃ d, Leads s .solverCycleStart d ∧ d = { s.dev with regs := d.regs, beam := d.beam, rises := d.rises, same := d.same } ∧
      SameRegsBut [Reg.BEAM_SOLVER_AGED, Reg.BEAM_EVT] s.dev d ∧
      d.beam = { b with solving := true, solvedAt := some s.dev.cad.tickIdx, pEff := s.dev.solverPeriod, dropped := s.dev.retiredMask,
                        brought := [], est := d.beam.est, sounded := d.beam.sounded, excluded := d.beam.excluded } ∧
      (∀ x, x ∈ d.beam.sounded ↔ x ∈ b.sounded ∧ s.dev.cad.tickIdx ≤ x.tick) ∧
      (∀ x, x ∈ d.beam.est ↔ (x ∈ b.sounded ∧ x.tick < s.dev.cad.tickIdx) ∨
        (x ∈ b.est ∧ ∀ y ∈ b.sounded, y.tick < s.dev.cad.tickIdx → y.car ≠ x.car ∨ y.layer ≠ x.layer)) ∧
      (∀ c l, (c, l) ∈ d.beam.excluded ↔ (c, l) ∈ s.dev.layersOn ∧ ∀ x ∈ d.beam.est, x.car = c → x.layer = l →
        x.cycle + max 1 ((s.dev.rd Reg.BEAM_SOLVER_CFG).get 7 0) * 245760 < s.dev.time.cycle) ∧
      (∀ l, l < 32 → ((d.rd Reg.BEAM_SOLVER_AGED).bit l = true ↔ ∃ c, (c, l) ∈ d.beam.excluded)) ∧
      (d.beam.excluded ≠ [] → Set d Reg.BEAM_EVT 2)) ∧
    (¬ due → Leads s .solverCycleStart s.dev)

/-- A solver cycle ends at the cutoff of the tick that closes its period (R145, R146): with every group written it switches the banks
of the directions that the solver owns; otherwise it counts a miss and switches none. Nothing but the inactive banks of those
directions is written, and there no word that the solver itself has brought. -/
def SolverCycleEnds : Prop :=
  ∀ s : State,
    let b := s.dev.beam
    let due := b.solving = true ∧ s.dev.cad.frozen = false ∧ s.dev.cycleTick b.pEff s.dev.nextNom = true
    let owns := fun (ul : Bool) => (s.dev.inf Reg.BEAM_CFG).bit (if ul then 0 else 1)
    let bank := fun (ul : Bool) => !(if ul then b.ulBank else b.dlBank)
    (due → s.dev.slotsInForce ≤ 640 → ∃ d m, exec (.solverCycleDeadline true) s = .next (after s (d, m)) ∧
      Counted s.dev d Reg.BEAM_SOLVER_DONE 31 0 ∧
      SameRegsBut [Reg.BEAM_SOLVER_DONE, Reg.BEAM_SOLVER_ILL, Reg.BEAM_SAT, Reg.BEAM_BANK, Reg.BEAM_EVT] s.dev d ∧
      d.beam = { b with solving := false, lastMiss := false, eccZero := d.beam.eccZero, written := d.beam.written } ∧
      d.cad.changes.map (fun c => (c.key, c.arg)) = s.dev.cad.changes.map (fun c => (c.key, c.arg)) ++
        (if owns false then [(.beamBank false, b2n (bank false))] else []) ++ (if owns true then [(.beamBank true, b2n (bank true))] else []) ∧
      (∀ a, (∀ ul, owns ul = true → a < ashlarAddr (bank ul) ul 0 0 0 ∨ ashlarAddr (bank ul) ul 0 0 0 + 0x500000 ≤ a) →
        Mem.get m a = Mem.get s.mem a) ∧
      (∀ a ∈ b.brought, a % 4 = 0 → Mem.word m a = Mem.word s.mem a)) ∧
    (due → ∃ d, Leads s (.solverCycleDeadline false) d ∧ Counted s.dev d Reg.BEAM_SOLVER_MISS 31 0 ∧
      Set d Reg.BEAM_EVT 0 ∧ SameRegsBut [Reg.BEAM_SOLVER_MISS, Reg.BEAM_EVT] s.dev d ∧
      d.beam = { b with solving := false, lastMiss := true } ∧ d.cad = s.dev.cad) ∧
    (¬ due → ∀ all, Leads s (.solverCycleDeadline all) s.dev)

/-- What the solve writes for one group (R142 to R144, R149), but for the words that the solver itself has brought: zero for antennas
and layers that the cycle leaves out; the solved word of every other layer and antenna; and where the factorisation fails twice the
words of the active bank, counted and raised as ill-conditioned. -/
def SolverWritesGroups : Prop :=
  ∀ (d : Dev) (m : Mem) (g : SolveGroup) (ul : Bool) (l a : Nat), (d.inf Reg.BEAM_CFG).bit (if ul then 0 else 1) = true → l < 32 → a < 64 →
    g.slot < 640 →
    let bank := if ul then d.beam.ulBank else d.beam.dlBank
    let x := ashlarAddr (!bank) ul g.slot l a
    let left := d.beam.dropped.testBit a = true ∨ (g.car, l) ∈ d.beam.excluded
    (x ∈ d.beam.brought → Mem.word (solveGroup d m g).2 x = Mem.word m x) ∧
    (x ∉ d.beam.brought → (g.car, l) ∈ d.layersOn → left → Mem.word (solveGroup d m g).2 x = 0) ∧
    (∀ hs i h, x ∉ d.beam.brought → ¬ left → d.solveC g = some hs → (l, i) ∈ (d.solveLayers g.car).zipIdx → h ∈ hs → h.1 = a →
      Mem.word (solveGroup d m g).2 x = (d.solvedWord hs ul l i h.2.2).1) ∧
    (d.solveC g = none → d.solveLayers g.car ≠ [] → Counted d (solveGroup d m g).1 Reg.BEAM_SOLVER_ILL 31 0 ∧
      Set (solveGroup d m g).1 Reg.BEAM_EVT 1 ∧
      (x ∉ d.beam.brought → ¬ left → Mem.word (solveGroup d m g).2 x = d.weight m (ashlarAddr bank ul g.slot l a)))

end Sys2Proof.Cert

/-- The weight solver: when its cycles begin and end, and what one writes.
Choices of the model that it takes in: log entries 34, 37 and 86. -/
def Obligations.SolverCycle : Prop := SolverCycleStarts ∧ SolverCycleEnds ∧ SolverWritesGroups

namespace Sys2Proof.Cert

/-- Observation captures (R171, R172, R179, R183): an invalid one is dropped and counted; a valid one gives the path its figures and
its samples to the update that awaits it; the first one of a bank that began after its page landed reverts an update that made the
figures worse by more than the limit. A capture for array calibration feeds none of this. -/
def DpdCaptures : Prop :=
  ∀ (s : State) (k : Fin 16) (q : CaptureQuality) (c : OrxCapture), (s.dev.dpd.orx[k]).cap = some c →
    let x := s.dev.dpd.path[c.input]
    let fig := captureFigures s.dev.mu s.dev.carsInf q
    let good := c.valid = true ∧ q.overrange = false
    ((∃ n, c.user = .host n) → Leads s (.orxCaptureDone k q) s.dev) ∧
    ((∀ n, c.user ≠ .host n) → ¬ good → ∃ d, Counted s.dev d Reg.DPD_CAP_DROP 31 0 ∧ SameRegsBut [Reg.DPD_CAP_DROP] s.dev d ∧
      (d.dpd.orx[k]).cap = none ∧ d.dpd.path = s.dev.dpd.path ∧
      Leads s (.orxCaptureDone k q) (if q.overrange then d.report (toSrc (136 + k.val)) else d)) ∧
    (c.user = .cal → good → ∃ d, Leads s (.orxCaptureDone k q) d ∧ (d.dpd.orx[k]).cap = none ∧ d = { s.dev with dpd := d.dpd } ∧
      d.dpd.path = s.dev.dpd.path) ∧
    (c.user = .dpd ∨ c.user = .track → good →
      (x.verify = none → ∃ d, Leads s (.orxCaptureDone k q) d ∧ (d.dpd.orx[k]).cap = none ∧ SameRegsBut [Reg.POWER_VOLT] s.dev d ∧
        d.cad = s.dev.cad ∧ (d.dpd.path[c.input]) = { x with
          aclr := fig.1, evm := fig.2, qbank := c.bank, stale := false
          upd := if c.user = .dpd then x.upd.map fun (w : DpdUpdate) => if w.bank = c.bank ∧ 0 < w.need then
              { w with need := w.need - 1, caps := if q.samples = [] then w.caps else w.caps ++ [capSetOf q.samples] } else w
            else x.upd } ∧
        ∀ p : Fin 64, p ≠ c.input → d.dpd.path[p] = s.dev.dpd.path[p]) ∧
      (∀ (b : Fin 4) (before land : Nat), x.verify = some (b.val, before, land) → c.bank ≠ b.val ∨ c.tick < land →
        ∃ d, Leads s (.orxCaptureDone k q) d ∧ (d.dpd.path[c.input]).verify = x.verify ∧ d.cad = s.dev.cad) ∧
      (∀ (b : Fin 4) (before land : Nat), x.verify = some (b.val, before, land) → c.bank = b.val → land ≤ c.tick →
        (¬ (fig.1 < 255 ∧ before < 255 ∧ fig.1 + (s.dev.rd Reg.DPD_CFG).get 23 16 < before) → ∃ d, Leads s (.orxCaptureDone k q) d ∧
          (d.dpd.path[c.input]).verify = none ∧ (d.dpd.path[c.input]).reverts[b] = 0 ∧ d.cad = s.dev.cad ∧
          SameRegsBut [Reg.POWER_VOLT] s.dev d) ∧
        (x.reverts[b] ≠ 2 → fig.1 < 255 → before < 255 → fig.1 + (s.dev.rd Reg.DPD_CFG).get 23 16 < before →
          ∃ d, Leads s (.orxCaptureDone k q) d ∧ Counted s.dev d Reg.DPD_REVERT 31 0 ∧ Set d Reg.DPD_EVT 1 ∧
            (d.dpd.path[c.input]).verify = none ∧ (d.dpd.path[c.input]).reverts[b] = x.reverts[b] + 1 ∧
            ∃ y, d.cad.changes = s.dev.cad.changes ++ [y] ∧ y.key = .dpdPage c.input ∧ y.arg = b.val ∧ y.land = s.dev.nextLanding)))

/-- Updates (R174 to R178): the next one is chosen by class; once the cluster has admitted its work its words go to the spare page, which
is committed to the bank; one whose captures do not come is abandoned and stands last in its class. -/
def DpdUpdates : Prop :=
  ∀ (s : State) (p : Fin 64),
    let x := s.dev.dpd.path[p]
    (∀ b cls, (s.dev.rd Reg.DPD_CFG).bit 31 = true → s.dev.nextUpdate = some (p, b, cls) → ∃ d, Leads s .dpdUpdateStart d ∧
      (d.dpd.path[p]).upd = some { caps := [], bank := b, need := max 1 ((s.dev.rd Reg.DPD_CFG).get 7 4), before := x.aclr, cls := cls } ∧
      d.regs = s.dev.regs ∧ d.cad = s.dev.cad ∧ (∀ r : Fin 64, r ≠ p → d.dpd.path[r] = s.dev.dpd.path[r]) ∧
      d.dpd.queue = (if cls = 2 then s.dev.dpd.queue.erase (p.val, b) else s.dev.dpd.queue) ∧
      d.dpd.round = (if cls = 3 then p.val else s.dev.dpd.round)) ∧
    ((s.dev.rd Reg.DPD_CFG).bit 31 = false ∨ s.dev.nextUpdate = none → Leads s .dpdUpdateStart s.dev) ∧
    (s.dev.continuous p = true → x.needs.testBit x.bank = true → ∃ r b, s.dev.nextUpdate = some (r, b, 1) ∧
      (s.dev.dpd.path[r]).needs.testBit b = true ∧ (p.val ∉ s.dev.dpd.last → r ≤ p)) ∧
    (∀ (u : DpdUpdate) (luts : List Word), luts.length = 1408 → x.upd = some u → u.need = 0 → s.dev.updateAdmitted p = true → ∃ d m,
      exec (.dpdUpdateDone p luts) s = .next (after s (d, m)) ∧
      (u.caps = [] → ∀ i, i < 1280 → Mem.word m (dpdAddr p.val x.spare i) = luts.getD i 0) ∧
      (u.caps ≠ [] → ∀ i, i < 1408 → Mem.word m (dpdAddr p.val x.spare i) =
        (updateWords ((s.dev.rd Reg.DPD_CFG).get 15 8) ((s.dev.rd Reg.DPD_CFG).get 3 0) (s.dev.updTerms p) u.caps
          fun i => Mem.word s.mem (dpdAddr p.val (x.pageOf u.bank) i)).getD i 0) ∧
      (∀ i, 1280 ≤ i → i < 1408 → i / 32 - 40 ∉ s.dev.updTerms p → Mem.word m (dpdAddr p.val x.spare i) = 0) ∧
      (∀ a, (a < dpdAddr p.val x.spare 0 ∨ dpdAddr p.val x.spare 1408 ≤ a) → Mem.get m a = Mem.get s.mem a) ∧
      (d.dpd.path[p]).upd = none ∧ (d.dpd.path[p]).page = x.page ∧ d.updateAdmitted p = false ∧
      (d.dpd.path[p]).verify = some (u.bank, u.before, if s.dev.ticking then s.dev.nextLanding else s.dev.cad.tickIdx) ∧
      Counted s.dev d Reg.DPD_UPD_DONE 31 0 ∧ Counted s.dev d (Reg.DPD_PATH_UPD p.val) 31 0 ∧ Set d Reg.DPD_EVT 6 ∧
      ∃ y, d.cad.changes = s.dev.cad.changes ++ [y] ∧ y.key = .dpdPage p ∧ y.arg = u.bank ∧ y.land = s.dev.nextLanding) ∧
    (∀ luts : List Word, luts.length = 1408 →
      (x.upd = none ∨ (∃ u, x.upd = some u ∧ 0 < u.need) ∨ s.dev.updateAdmitted p = false) → Leads s (.dpdUpdateDone p luts) s.dev) ∧
    (∀ u : DpdUpdate, x.upd = some u → 0 < u.need →
      let last := fun c => match c with | .orxCaptureDone k _ => s.dev.lastCapture p k | _ => false
      YieldsTo s (.dpdCapTimeout p) last ∧ (¬ ArrivesNow s last → ∃ d, Leads s (.dpdCapTimeout p) d ∧
        (d.dpd.path[p]) = { x with upd := none } ∧ Counted s.dev d Reg.DPD_CAP_TIMEOUT 31 0 ∧ Set d Reg.DPD_EVT 0 ∧
        SameRegsBut [Reg.DPD_CAP_TIMEOUT, Reg.DPD_EVT] s.dev d ∧ d.cad = s.dev.cad ∧
        (u.cls = 1 → d.dpd.last = s.dev.dpd.last.filter (· != p.val) ++ [p.val]) ∧ (u.cls = 3 → d.dpd.round = p.val) ∧
        d.dpd.queue = (if u.cls = 2 then s.dev.dpd.queue.filter (fun y => y.1 != p.val) ++
          (p.val, u.bank) :: s.dev.dpd.queue.filter (fun y => y.1 == p.val) else s.dev.dpd.queue))) ∧
    (∃ d, Makes s (.dpdQStale p) d ∧ (d.dpd.path[p]) = { x with stale := true } ∧ d = { s.dev with dpd := d.dpd } ∧
      ∀ r : Fin 64, r ≠ p → d.dpd.path[r] = s.dev.dpd.path[r])

end Sys2Proof.Cert

/-- The adaptation of the predistorters.
Choices of the model that it takes in: log entries 2, 33, 44, 83 and 86. -/
def Obligations.PredistortionAdapts : Prop := DpdCaptures ∧ DpdUpdates

namespace Sys2Proof.Cert

/-- Measurements (R189, R198, R201, R210): one of a route that measures nothing, or was not open, counts for nothing, and so does an
outlier; an estimate enters its exponential average, and the path is owed its correction unless the host holds the corrections (R207);
a weak reference is flagged; the reference voltage is judged. -/
def CalMeasures : Prop :=
  ∀ (s : State) (m : CalMeasure),
    let c := (s.dev.cal.path[m.path]).rx
    let w := (s.dev.rd Reg.CAL_CFG).get 3 0
    let avg := fun (a x : Int) => if c.hist = [] then x * 1048576 else a + (x * 1048576 - a) / 2 ^ w
    let counts := s.dev.measures (tileOf m.path) m.route = true ∧ s.dev.measurable m = true
    (¬ counts → Leads s (.calMeasurementDone m) s.dev) ∧
    (counts → m.route = 0 → c.discards (estOf m) true = true → Leads s (.calMeasurementDone m) s.dev) ∧
    (counts → m.route = 0 → c.discards (estOf m) true = false → s.dev.calHeld = true ∨ s.dev.ticking = true →
      ∃ d, Leads s (.calMeasurementDone m) d ∧
        let r := (d.cal.path[m.path]).rx
        r.gain = avg c.gain m.gain ∧ r.phase = avg c.phase m.phase ∧ r.delay = avg c.delay m.delay ∧
        r.hist = (estOf m :: c.hist).take 64 ∧ r.at_ = s.dev.time.cycle ∧ (d.cal.path[m.path]).tx = (s.dev.cal.path[m.path]).tx ∧
        (s.dev.calHeld = true → r.owedGain = c.owedGain ∧ r.owedPhase = c.owedPhase ∧ r.owedDelay = c.owedDelay) ∧
        (s.dev.calHeld = false → r.owedGain = -(rounded r.gain) ∧ r.owedPhase = -(rounded r.phase) ∧
          r.owedDelay = -(dlyUnits (rounded r.delay)))) ∧
    (counts → m.route = 1 → m.refLevelLow = true →
      ∃ d, Leads s (.calMeasurementDone m) d ∧ Set d (Reg.CAL_TQ (tileOf m.path).val) 7 ∧ Set d Reg.CAL_EVT 4 ∧
        SameRegsBut [Reg.CAL_TQ (tileOf m.path).val, Reg.CAL_EVT] s.dev d ∧ d.cal.path = s.dev.cal.path ∧ d.cad = s.dev.cad) ∧
    (∀ e : Int, -32768 ≤ e → e ≤ 32767 →
      (e.natAbs ≤ 5000 → ∃ d, Leads s (.vrefCheck e) d ∧ (d.rd Reg.CAL_VREF).bit 31 = false ∧
        signed 16 ((d.rd Reg.CAL_VREF).get 15 0) = e ∧ SameRegsBut [Reg.CAL_VREF] s.dev d ∧ d = { s.dev with regs := d.regs }) ∧
      (5000 < e.natAbs → ∃ d, Leads s (.vrefCheck e) (d.report 217) ∧ (d.rd Reg.CAL_VREF).bit 31 = true ∧ Set d Reg.CAL_EVT 5 ∧
        signed 16 ((d.rd Reg.CAL_VREF).get 15 0) = e ∧ SameRegsBut [Reg.CAL_VREF, Reg.CAL_EVT] s.dev d)) ∧
    (∀ (p : Fin 64) (tx : Bool),
      (s.dev.estStale p tx = true → ∃ d, Makes s (.calPathStale p tx) d ∧ Set d Reg.CAL_EVT 6 ∧ SameRegsBut [Reg.CAL_EVT] s.dev d) ∧
      (s.dev.estStale p tx = false → Makes s (.calPathStale p tx) s.dev))

/-- On-request calibrations, snapshots and restores (R202, R203, R212, R213). The codes of a filter calibration, which the spec does not
give, are free values that wait for their paths to be idle (log entry 2). -/
def CalWorkEnds : Prop :=
  ∀ (s : State) (t : Fin 4) (r : CalReq) (e : Int), s.dev.cal.restore = none →
    (s.dev.cal.runs = [r] → s.dev.cal.queue = [] → r.code = 2 → r.deferred.testBit t.val = false → r.left.testBit t.val = true →
      ∃ d, Leads s (.calRunDone t e) d ∧
        d.cal.idle.map (fun x => (x.kind, x.index, x.restore)) = s.dev.cal.idle.map (fun x => (x.kind, x.index, x.restore)) ++
          (pathsOf t).map (fun p => (1, p.val, false)) ∧ d.freeCtr = s.dev.freeCtr + 16 ∧
        (r.left ≠ 2 ^ t.val → d.cal.runs =
            [{ r with left := r.left - 2 ^ t.val, terr := r.terr + (e - signed 32 (s.dev.rd (Reg.CAL_REFOFS_B t.val)).toNat) }] ∧ d.regs = s.dev.regs ∧
          d.drunas = s.dev.drunas) ∧
        (r.left = 2 ^ t.val → d.cal.runs = [] ∧ Set d Reg.CAL_EVT 0 ∧ SameRegsBut [Reg.CAL_EVT] s.dev d ∧
          ∀ c ∈ s.dev.drunas.cmds, r.cmd = some c.id → c.verdict = none → { c with verdict := some 0, results := [0] } ∈ d.drunas.cmds)) ∧
    (s.dev.cal.runs = [r] → s.dev.cal.queue = [] → 5 ≤ r.code → r.deferred.testBit t.val = false → r.left.testBit t.val = true →
      r.left < 16 →
      let ends := fun c => match c with | .calRunDone u _ => u == t | _ => false
      let limit := r.at_ + 49152000 * max 1 ((s.dev.rd Reg.CAL_CFG).get 23 16)
      YieldsTo s (.calRunTimeout t) ends ∧ (s.dev.time.cycle < limit → Leads s (.calRunTimeout t) s.dev ∨ ArrivesNow s ends) ∧
      (¬ ArrivesNow s ends → limit ≤ s.dev.time.cycle → ∃ d, Leads s (.calRunTimeout t) d ∧ d.cal.runs = [] ∧ Set d Reg.CAL_EVT 1 ∧
        (d.rd Reg.CAL_STATUS).get 19 16 = r.left ∧ SameRegsBut [Reg.CAL_STATUS, Reg.CAL_EVT] s.dev d ∧
        ∀ c ∈ s.dev.drunas.cmds, r.cmd = some c.id → c.verdict = none →
          { c with verdict := some 0x31, results := [BitVec.ofNat 32 r.left] } ∈ d.drunas.cmds)) ∧
    (∀ (x : Snapshot) (img : List Byte), s.dev.cal.snap = some x → x.image = some img → s.dev.drunas.clash = [] →
      ∃ d m, exec .snapshotDone s = .next (after s (d, m)) ∧ d.cal.snap = none ∧ Set d Reg.CAL_EVT 8 ∧ SameRegsBut [Reg.CAL_EVT] s.dev d ∧
        (∀ i, i < img.length → Mem.get m (x.base + i) = img.getD i 0) ∧
        ∀ b, (b < x.base ∨ x.base + img.length ≤ b) → Mem.get m b = Mem.get s.mem b)

/-- The end of a restore (R213): once every restored value has entered. -/
def CalRestoreEnds : Prop :=
  ∀ (s : State) (c : Option Nat), s.dev.cal.restore = some c → s.dev.cal.mixed = [] → s.dev.cal.idle.all (fun x => !x.restore) = true →
    (s.dev.cad.running = true → s.dev.cal.restoreLand ≤ s.dev.cad.tickIdx) →
    ∃ d, Leads s .restoreDone d ∧ d.cal = { s.dev.cal with restore := none } ∧ d.regs = s.dev.regs ∧
      ∀ x ∈ s.dev.drunas.cmds, c = some x.id → x.verdict = none →
        { x with verdict := some 0, results := [BitVec.ofNat 32 s.dev.cal.restoreN] } ∈ d.drunas.cmds

end Sys2Proof.Cert

/-- Calibration.
Choices of the model that it takes in: log entries 25, 26, 27, 31 and 84. -/
def Obligations.CalibrationActs : Prop := CalMeasures ∧ CalWorkEnds ∧ CalRestoreEnds

/-! ### Lanes, cells and messages (chapters 9 and 10) -/

namespace Sys2Proof.Cert

/-- The SKX domain answers: lanes have events. -/
def LinkUp (s : State) : Prop := s.dev.domainUp Reg.SKX_PHY_CFG = true

/-- `d` has lane `k` as `x` and every other lane as `s` has it. -/
def LaneBecomes (s : State) (d : Dev) (k : Fin 8) (x : Lane) : Prop := d.lanes = s.dev.lanes.set k x

/-- A failed training attempt (R261): back-off, or DOWN with its event after the eighth. -/
def AttemptFails (s : State) (d : Dev) (k : Fin 8) : Prop :=
  ((s.dev.lanes[k]).attempt < 8 → (d.lanes[k]).st = .wait) ∧
  (8 ≤ (s.dev.lanes[k]).attempt → (d.lanes[k]).st = .down ∧ Set d Reg.SKX_PHY_EVT 1) ∧
  ∀ j : Fin 8, j ≠ k → d.lanes[j] = s.dev.lanes[j]

/-- Training frames (R259, R260): eight good frames of the lane's own number bring DETECT to EQ, eight of another number fail the
attempt; in EQ a frame that says ready, with the receiver's own figure at LQF_JOIN and the FEC choice granted, brings ALIGN. -/
def LaneTraining : Prop :=
  ∀ (s : State) (k : Fin 8) (control status : BitVec 64) (q : Nat), LinkUp s →
    let l := s.dev.lanes[k]
    let row := Instr.trainingFrameReceived k control status q
    (l.st = .detect → fieldGood control = false → ∃ d, Leads s row d ∧ LaneBecomes s d k { l with good := 0 } ∧ d.regs = s.dev.regs) ∧
    (l.st = .detect → fieldGood control = true → bits64 control 59 57 = k.val → l.good ≠ 7 →
      ∃ d, Leads s row d ∧ LaneBecomes s d k { l with good := l.good + 1, other := 0 } ∧ d.regs = s.dev.regs) ∧
    (l.st = .detect → fieldGood control = true → bits64 control 59 57 = k.val → l.good = 7 →
      ∃ d, Leads s row d ∧ LaneBecomes s d k { l with st := .eq, good := 0, other := 0, req := 0 } ∧
        SameRegsBut [Reg.LANE_STATE k.val] s.dev d) ∧
    (l.st = .detect → fieldGood control = true → bits64 control 59 57 ≠ k.val → l.other = 7 →
      ∃ d, Leads s row d ∧ Set d Reg.SKX_PHY_EVT 7 ∧ AttemptFails s d k) ∧
    (l.st = .eq → fieldGood control = true → bits64 control 40 40 = 1 → s.dev.lqfJoin ≤ q →
      ((s.dev.rd Reg.SKX_PHY_CFG).bit 23 = true ∨ bits64 control 41 41 = 0) →
      ∃ d, Leads s row d ∧ (d.lanes[k]).st = .align ∧ (d.lanes[k]).good = 0 ∧
        SameRegsBut [Reg.LANE_STATE k.val, Reg.LANE_EQ k.val] s.dev d ∧ ∀ j : Fin 8, j ≠ k → d.lanes[j] = s.dev.lanes[j]) ∧
    (l.st = .eq → fieldGood control = true → (bits64 control 40 40 = 0 ∨ q < s.dev.lqfJoin) →
      ∃ d, Leads s row d ∧ (d.lanes[k]).st = .eq ∧ ∀ j : Fin 8, j ≠ k → d.lanes[j] = s.dev.lanes[j]) ∧
    (l.st ≠ .detect → l.st ≠ .eq → Leads s row s.dev)

/-- Codewords (R252, R260): corrected symbols and uncorrectable codewords are counted; 64 good ones in a row in ALIGN are codeword
lock. -/
def LaneCodewords : Prop :=
  ∀ (s : State) (k : Fin 8) (n : Nat), LinkUp s → n ≤ 15 →
    let l := s.dev.lanes[k]
    let a := Reg.LANE_FEC_CORR k.val
    (∃ d, Leads s (.codewordReceived k (some n)) d ∧ (d.rd a).toNat = min ((s.dev.rd a).toNat + n) (2 ^ 32 - 1) ∧ SameRegsBut [a] s.dev d ∧
      (l.st = .align → l.good = 63 → LaneBecomes s d k { l with st := .qualify, good := 0 }) ∧
      (l.st = .align → l.good ≠ 63 → LaneBecomes s d k { l with good := l.good + 1 }) ∧ (l.st ≠ .align → d.lanes = s.dev.lanes)) ∧
    (∃ d, Leads s (.codewordReceived k none) d ∧ Counted s.dev d (Reg.LANE_FEC_UNCORR k.val) 31 0 ∧
      SameRegsBut [Reg.LANE_FEC_UNCORR k.val] s.dev d ∧ LaneBecomes s d k { l with good := 0 })

/-- The states of an attempt (R260, R261): the 20 ms bound fails it, the back-off and the probe begin another, and a fast exit ends in
ALIGN or in a new attempt (R269). -/
def LaneAttempts : Prop :=
  ∀ (s : State) (k : Fin 8), LinkUp s →
    let l := s.dev.lanes[k]
    ((l.st = .detect ∨ l.st = .eq ∨ l.st = .align ∨ l.st = .qualify) →
      YieldsTo s (.laneAttemptTimeout k) (· == .laneQualifyDone k) ∧ (¬ ArrivesNow s (· == .laneQualifyDone k) →
        ∃ d, Leads s (.laneAttemptTimeout k) d ∧ AttemptFails s d k ∧
          ((s.dev.sump.src[laneSource k]).wireIgnored = false → Counted s.dev d (Reg.SUMP_SRC_STATUS (164 + k.val)) 15 0))) ∧
    (l.st ≠ .detect → l.st ≠ .eq → l.st ≠ .align → l.st ≠ .qualify → ¬ ArrivesNow s (· == .laneQualifyDone k) →
      Leads s (.laneAttemptTimeout k) s.dev) ∧
    (l.st = .wait → ∃ d, Leads s (.laneBackoffExpire k) d ∧ Counted s.dev d (Reg.LANE_RETRAIN k.val) 15 0 ∧
      SameRegsBut [Reg.LANE_RETRAIN k.val] s.dev d ∧
      LaneBecomes s d k { l with st := .detect, attempt := l.attempt + 1, good := 0, other := 0, fastExit := false }) ∧
    (l.st ≠ .wait → Leads s (.laneBackoffExpire k) s.dev) ∧
    (l.st = .down → (s.dev.rd Reg.SKX_PHY_CFG).bit (24 + k.val) = true → ∃ d, Leads s (.laneProbe k) d ∧
      Counted s.dev d (Reg.LANE_RETRAIN k.val) 15 0 ∧ SameRegsBut [Reg.LANE_RETRAIN k.val] s.dev d ∧
      LaneBecomes s d k { l with st := .detect, attempt := 8, good := 0, other := 0, fastExit := false }) ∧
    (l.st ≠ .down → Leads s (.laneProbe k) s.dev) ∧
    (l.st = .ei → l.fastExit = true →
      (∃ d, Leads s (.laneFastExit k true) d ∧ (d.lanes[k]).st = .align ∧ (d.lanes[k]).fastExit = false ∧
        Counted s.dev d (Reg.LANE_RETRAIN k.val) 15 0 ∧ SameRegsBut [Reg.LANE_RETRAIN k.val] s.dev d) ∧
      ∃ d, Leads s (.laneFastExit k false) d ∧ (d.lanes[k]).st = .detect ∧ (d.lanes[k]).attempt = 1 ∧ (d.lanes[k]).fastExit = false) ∧
    (l.st ≠ .ei ∨ l.fastExit = false → ∀ b, Leads s (.laneFastExit k b) s.dev)

/-- A millisecond of quality (R257, R258): the figure and its minimum are kept; a lane of the receive set that falls below the leave
threshold for the third window in a row is proposed to leave. -/
def LaneQuality : Prop :=
  ∀ (s : State) (k : Fin 8) (x y : Nat), LinkUp s →
    let l := s.dev.lanes[k]
    let q := lqfOf x y
    let serves := l.st = .active ∧ s.dev.link.rxSet.testBit k.val = true
    ∃ d, Leads s (.lqfWindow k x y) d ∧ (d.rd (Reg.LANE_LQF k.val)).get 31 24 = q ∧
      (d.rd (Reg.LANE_LQF k.val)).get 23 16 = min ((s.dev.rd (Reg.LANE_LQF k.val)).get 23 16) q ∧
      (¬ serves → d = { s.dev with regs := d.regs } ∧ SameRegsBut [Reg.LANE_LQF k.val] s.dev d) ∧
      (serves → (s.dev.rd Reg.SKX_PHY_THR).get 7 0 ≤ q → (l.firstWindow = false ∨ s.dev.lqfJoin ≤ q) →
        LaneBecomes s d k { l with low := 0, firstWindow := false } ∧ d.link = s.dev.link) ∧
      (serves → q < (s.dev.rd Reg.SKX_PHY_THR).get 7 0 → 2 ≤ l.low →
        (d.lanes[k]).leaveTo = some (.ei, true) ∧ d.finalTx.testBit k.val = false ∧ d.finalRx.testBit k.val = false) ∧
      (serves → q < (s.dev.rd Reg.SKX_PHY_THR).get 15 8 → Set d Reg.SKX_PHY_EVT 5)

/-- Lanes that qualify join, lanes that lose lock leave (R255, R264, R268, R270): the event, the state, and both sets as they will be
once what is proposed has landed. A direction that either end has put to sleep is not joined (R266). -/
def LaneService : Prop :=
  ∀ (s : State) (k : Fin 8), LinkUp s →
    let l := s.dev.lanes[k]
    let i := k.val
    let asleep := fun (o : Nat) (peer : Nat) => (s.dev.rd Reg.SKX_PHY_SLEEP).bit (o + i) || peer.testBit i
    (l.st = .qualify → ∃ d, Leads s (.laneQualifyDone k) d ∧ Set d Reg.SKX_PHY_EVT 0 ∧
      (d.lanes[k]).st = .ready ∧ (d.lanes[k]).attempt = 0 ∧ (∀ j : Fin 8, j ≠ k → d.lanes[j] = s.dev.lanes[j]) ∧
      d.finalTx.testBit i = !(asleep 8 s.dev.link.peerTx) ∧ d.finalRx.testBit i = !(asleep 0 s.dev.link.peerRx) ∧
      d.link.txSet = s.dev.link.txSet ∧ d.link.rxSet = s.dev.link.rxSet) ∧
    (l.st ≠ .qualify → Leads s (.laneQualifyDone k) s.dev) ∧
    (l.st = .active → s.dev.link.txSet.testBit i = true → ∃ d, Leads s (.laneLockLost k) d ∧ Set d Reg.SKX_PHY_EVT 2 ∧
      Counted s.dev d (Reg.LANE_RETRAIN i) 31 16 ∧ (d.lanes[k]).st = .ei ∧ d.finalTx.testBit i = false ∧ d.finalRx.testBit i = false ∧
      d.link.txSet = s.dev.link.txSet ∧ (∀ j : Fin 8, j ≠ k → d.lanes[j] = s.dev.lanes[j])) ∧
    (l.st = .ready → ∃ d, Leads s (.laneLockLost k) d ∧ Set d Reg.SKX_PHY_EVT 2 ∧ Counted s.dev d (Reg.LANE_RETRAIN i) 31 16 ∧
      (d.lanes[k]).st = (if (s.dev.rd Reg.SKX_PHY_CFG).bit (24 + i) = true ∧ l.retired = false then .detect else .ei) ∧
      (∀ p ∈ d.link.proposals, p.lane ≠ k) ∧ (∀ j : Fin 8, j ≠ k → d.lanes[j] = s.dev.lanes[j])) ∧
    (l.st ≠ .active → l.st ≠ .ready → Leads s (.laneLockLost k) s.dev)

/-- Superframe S begins (R265, R337): both directions switch to the sets that the changes and the partner's notice give, lanes that
join from READY are in service, and the set change is counted. -/
def LaneSets : Prop :=
  ∀ s : State, LinkUp s →
    (s.dev.link.switching = [] → Leads s .laneSetSwitch s.dev) ∧
    (s.dev.link.switching ≠ [] → ∃ d, Leads s .laneSetSwitch d ∧
      let tx := afterTx s.dev.link.txSet s.dev.link.switching
      let rx := (s.dev.link.notice.map Prod.snd).getD (afterRx s.dev.link.rxSet s.dev.link.switching)
      d.link = { s.dev.link with txSet := tx, rxSet := rx, switching := [], notice := none } ∧
      (∀ k : Fin 8, (s.dev.lanes[k]).st = .ready → s.dev.link.txSet.testBit k.val = false → s.dev.link.rxSet.testBit k.val = false →
        (tx.testBit k.val || rx.testBit k.val) = true → (d.lanes[k]).st = .active) ∧
      (tx ≠ s.dev.link.txSet ∨ rx ≠ s.dev.link.rxSet → Counted s.dev d Reg.SKX_PHY_SETCHG 31 0) ∧
      ((∃ k : Fin 8, s.dev.link.txSet.testBit k.val = false ∧ tx.testBit k.val = true) → Set d Reg.SKX_PHY_EVT 4) ∧
      ((∃ k : Fin 8, s.dev.link.txSet.testBit k.val = true ∧ tx.testBit k.val = false) → Set d Reg.SKX_PHY_EVT 3) ∧
      (s.dev.link.rxSet ≠ 0 → rx = 0 → s.dev.time.master.isSome = true → s.dev.time.holdover = false →
        d.time.holdover = true ∧ Set d Reg.TIME_EVT 2))

end Sys2Proof.Cert

/-- Lanes: training, quality, service, sets.
Choices of the model that it takes in: log entries 35 and 36. -/
def Obligations.Lanes : Prop := LaneTraining ∧ LaneCodewords ∧ LaneAttempts ∧ LaneQuality ∧ LaneService ∧ LaneSets

namespace Sys2Proof.Cert

/-- A cell with a good header, that the FEC has delivered and a lane of the receive set has brought. -/
def Received (s : State) (h : Word) (p : List Byte) : Prop :=
  LinkUp s ∧ p.length = 60 ∧ s.dev.link.rxSet ≠ 0 ∧ hchk h = h.get 5 0

/-- An error of R279 to R281: counted in register `a`, and MSG_ERR set; nothing else of the device has changed. -/
def MessageError (s d : Dev) (a : Nat) : Prop :=
  Counted s d a 31 0 ∧ Set d Reg.SKX_CELL_EVT 3 ∧ SameRegsBut [a, Reg.SKX_CELL_EVT] s d ∧
  d = { s with regs := d.regs, rises := d.rises, same := d.same }

/-- Reception of cells (R274 to R281): a header that fails its check is dropped and counted; a reserved type is a format error; IDLE
is dropped; a LINK cell with a good CRC waits for its row; a command that fits one cell waits with the result of its CRC. -/
def CellsReceived : Prop :=
  ∀ (s : State) (h : Word) (p : List Byte), LinkUp s → p.length = 60 →
    (s.dev.link.rxSet = 0 → ∀ u, Leads s (.cellReceived h p u) s.dev) ∧
    (s.dev.link.rxSet ≠ 0 → ∀ u, (u = true ∨ hchk h ≠ h.get 5 0) → ∃ d, Leads s (.cellReceived h p u) d ∧
      Counted s.dev d Reg.SKX_CELL_HCHK_ERR 31 0 ∧ Set d Reg.SKX_CELL_EVT 2 ∧
      SameRegsBut [Reg.SKX_CELL_HCHK_ERR, Reg.SKX_CELL_EVT] s.dev d ∧
      d = { s.dev with regs := d.regs, rises := d.rises, same := d.same }) ∧
    (Received s h p →
      (6 ≤ h.get 21 18 → ∃ d, Leads s (.cellReceived h p false) d ∧ MessageError s.dev d Reg.SKX_CELL_FMT_ERR) ∧
      (h.get 21 18 = 0 → Leads s (.cellReceived h p false) s.dev) ∧
      (h.get 21 18 = 5 → h.get 31 22 ≠ 0x3FF → ∃ d, Leads s (.cellReceived h p false) d ∧ MessageError s.dev d Reg.SKX_CELL_FMT_ERR) ∧
      (h.get 21 18 = 5 → h.get 31 22 = 0x3FF → (beWords p).getD 14 0 ≠ crc32c (p.take 56) →
        ∃ d, Leads s (.cellReceived h p false) d ∧ MessageError s.dev d Reg.SKX_CELL_MSG_BAD) ∧
      (h.get 21 18 = 5 → h.get 31 22 = 0x3FF → (beWords p).getD 14 0 = crc32c (p.take 56) →
        1 ≤ ((beWords p).getD 0 0).get 31 28 → ((beWords p).getD 0 0).get 31 28 ≤ 3 →
        Leads s (.cellReceived h p false) { s.dev with link := { s.dev.link with inbox := s.dev.link.inbox ++
          [{ flow := 0x3FF, words := beWords p, crcOk := true, time := s.dev.time.now, first := s.dev.time.now }] } }) ∧
      (h.get 21 18 = 1 → h.get 31 22 = 0x300 → (∀ o ∈ s.dev.link.openMsgs, o.flow ≠ 0x300) →
        ∃ d, Leads s (.cellReceived h p false) d ∧ d = { s.dev with link := { s.dev.link with rxSeq := d.link.rxSeq, inbox := s.dev.link.inbox ++
          [{ flow := 0x300, words := beWords (p.take 56), crcOk := (beWords (p.drop 56)).headD 0 == crc32c (p.take 56),
             time := s.dev.time.now, first := s.dev.time.now }] } }) ∧
      (h.get 21 18 = 3 ∨ h.get 21 18 = 4 → rxMeaning (h.get 31 22) = true → ∀ o, s.dev.link.openMsgs = [o] → o.flow = h.get 31 22 →
        h.get 17 6 ≠ ((s.dev.link.rxSeq.find? fun (x : Nat × Nat) => x.1 == h.get 31 22).map Prod.snd).getD 0 →
        ∃ d, Leads s (.cellReceived h p false) d ∧ Counted s.dev d Reg.SKX_CELL_SEQ_GAP 31 0 ∧ Set d Reg.SKX_CELL_EVT 3 ∧
          d.link.openMsgs = [] ∧ d.link.inbox = s.dev.link.inbox) ∧
      (rxMeaning (h.get 31 22) = false → 1 ≤ h.get 21 18 → h.get 21 18 ≤ 4 →
        ∃ d, Leads s (.cellReceived h p false) d ∧ MessageError s.dev d Reg.SKX_CELL_FMT_ERR))

/-- The first message waiting is `m`, of flow `f`; `rest` wait behind it. -/
def Waits (s : State) (f : Nat) (m : Inbox) (rest : List Inbox) : Prop :=
  LinkUp s ∧ s.dev.link.inbox = m :: rest ∧ m.flow = f

/-- `s` without the message that has been taken. -/
def taken (s : State) (rest : List Inbox) : Dev := { s.dev with link := { s.dev.link with inbox := rest } }

/-- A downlink sample message (R284 to R291): judged by its address, its width and its arrival; held for its symbol, a repetition in
place of the one before it and counted; late or malformed ones are dropped and counted. -/
def SampleMessages : Prop :=
  ∀ (s : State) (f : Nat) (m : Inbox) (rest : List Inbox), Waits s f m rest → isSampleFlow f = true →
    let w := m.words.getD 0 0
    let nom := nearestNom s.dev.mu w m.first
    let right := addrValid s.dev.mu w = true ∧ w.get 29 27 = s.dev.mwAt f (s.dev.tickOfNom nom)
    let timely := s.dev.inArrival nom m.first = true ∧ m.time ≤ dlBound s.dev.mu nom
    let x : Accepted := { flow := f, addr := addrFields w, bound := dlBound s.dev.mu nom, words := m.words }
    let other := fun (y : Accepted) => y.flow ≠ x.flow ∨ y.addr ≠ x.addr ∨ y.bound ≠ x.bound
    let d0 := taken s rest
    (¬ right → ∃ d, Leads s (.sampleMessage f) d ∧ MessageError d0 d Reg.SKX_CELL_FMT_ERR) ∧
    (right → ¬ timely → ∃ d, Leads s (.sampleMessage f) d ∧ Counted d0 d Reg.SKX_CELL_LATE 31 0 ∧ Set d Reg.SKX_CELL_EVT 4 ∧
      SameRegsBut [Reg.SKX_CELL_LATE, Reg.SKX_CELL_EVT] d0 d ∧ d = { d0 with regs := d.regs, rises := d.rises, same := d.same }) ∧
    (right → timely → (∀ y ∈ s.dev.link.accepted, other y) →
      Leads s (.sampleMessage f) { d0 with link := { d0.link with accepted := s.dev.link.accepted ++ [x] } }) ∧
    (right → timely → (∃ y ∈ s.dev.link.accepted, ¬ other y) → ∃ d, Leads s (.sampleMessage f) d ∧ Counted d0 d Reg.SKX_CELL_DUP 31 0 ∧
      SameRegsBut [Reg.SKX_CELL_DUP] d0 d ∧ d = { d0 with regs := d.regs, same := d.same, link := d.link } ∧
      d.link = { d0.link with accepted := d.link.accepted } ∧ x ∈ d.link.accepted ∧
      ∀ y, y ∈ d.link.accepted ↔ y = x ∨ (y ∈ s.dev.link.accepted ∧ other y))

/-- A sounding reference (R140, R292): kept for its carrier, layer and symbol, in place of an earlier one for the same. -/
def SoundingMessages : Prop :=
  ∀ (s : State) (f : Nat) (m : Inbox) (rest : List Inbox), Waits s f m rest → isSoundFlow f = true →
    let w := m.words.getD 0 0
    let w1 := m.words.getD 1 0
    let nom := nearestNom s.dev.mu w m.first
    let right := addrValid s.dev.mu w = true ∧ w.get 29 27 = s.dev.mwAt f (s.dev.tickOfNom nom)
    let d0 := taken s rest
    (¬ right → ∃ d, Leads s (.soundingMessage f) d ∧ MessageError d0 d Reg.SKX_CELL_FMT_ERR) ∧
    (right → s.dev.inArrival nom m.first = false → ∃ d, Leads s (.soundingMessage f) d ∧ Counted d0 d Reg.SKX_CELL_LATE 31 0 ∧
      Set d Reg.SKX_CELL_EVT 4 ∧ d.beam = s.dev.beam) ∧
    (right → s.dev.inArrival nom m.first = true → m.time ≤ sampTime nom →
      ∃ d x, Leads s (.soundingMessage f) d ∧ x.car = f - 0x200 ∧ x.layer = w1.get 31 27 ∧ x.addr = addrFields w ∧
        x.vals = refVals (m.words.drop 2) (w1.get 26 18) (w1.get 17 9) (w.get 29 27) ∧ x.mask = carrierMask x.vals ∧
        x ∈ d.beam.refs ∧ (∀ y ∈ d.beam.refs, y.car = x.car → y.layer = x.layer → y.addr = x.addr → y = x) ∧
        (∀ y ∈ s.dev.beam.refs, ¬ (y.car = x.car ∧ y.layer = x.layer ∧ y.addr = x.addr) → y ∈ d.beam.refs) ∧
        SameRegsBut [Reg.SKX_CELL_DUP] s.dev d)

/-- A weight-load message (R293, R131): its words go to the inactive bank of its direction and nowhere else, or it is refused whole
where a direction belongs to the solver or to the active bank. Here no writer that comes later in the order of R135 has written the
store in the same cycle. -/
def WeightMessages : Prop :=
  ∀ (s : State) (m : Inbox) (rest : List Inbox), s.dev.link.inbox = m :: rest → m.flow = 0x210 →
    (∀ x ∈ s.dev.sameNow.ashlar, x.2.2 ≤ 1) →
    let w0 := m.words.getD 0 0
    let w1 := m.words.getD 1 0
    let ul := w0.bit 15
    let bank := !(if ul then s.dev.beam.ulBank else s.dev.beam.dlBank)
    let ants := w1.get 25 19
    let at_ := fun (i : Nat) => ashlarAddr bank ul (w0.get 14 5) (w0.get 4 0 + i / ants) (w1.get 31 26 + i % ants)
    let n := ants * w1.get 18 13
    w0.get 14 5 < 640 → w1.get 31 26 + ants ≤ 64 → w0.get 4 0 + w1.get 18 13 ≤ 32 →
    ((s.dev.inf Reg.BEAM_CFG).bit (if ul then 0 else 1) = false → 0 < ants → ∃ d mem, exec .weightLoadMessage s = .next (after s (d, mem)) ∧
      (∀ i, i < n → Mem.word mem (at_ i) = m.words.getD (2 + i) 0) ∧
      (∀ b, (∀ i, i < n → b < at_ i ∨ at_ i + 4 ≤ b) → Mem.get mem b = Mem.get s.mem b) ∧
      d.link = { s.dev.link with inbox := rest } ∧ SameRegsBut [Reg.BEAM_BANK] s.dev d) ∧
    ((s.dev.inf Reg.BEAM_CFG).bit (if ul then 0 else 1) = true → ∃ d, Leads s .weightLoadMessage d ∧ Set d Reg.BEAM_EVT 7 ∧
      Set d Reg.SKX_CELL_EVT 7 ∧ d.link = { s.dev.link with inbox := rest } ∧ SameRegsBut [Reg.BEAM_EVT, Reg.SKX_CELL_EVT] s.dev d)

/-- LINK cells of the partner (R264 to R266, R304): a notice is kept for its superframe; a shed report marks its flow or frees it; a
proposal to leave takes the lane from both sets as they will be, a proposal to join brings it, but for a direction that sleeps here;
the partner's transmit directions that sleep or wake are receive directions here. -/
def LinkCells : Prop :=
  ∀ (s : State) (m : Inbox) (rest : List Inbox), LinkUp s → s.dev.link.inbox = m :: rest → m.flow = 0x3FF →
    let w0 := m.words.getD 0 0
    let w1 := m.words.getD 1 0
    (w0.get 31 28 = 2 → Leads s .linkNotice { s.dev with link := { s.dev.link with inbox := rest, notice := some (w1.toNat, w0.get 7 0) } }) ∧
    (w0.get 31 28 = 3 → ∃ d, Leads s .linkShedReport d ∧ d = { s.dev with link := { s.dev.link with inbox := rest, shedRx := d.link.shedRx } } ∧
      ∀ f, f ∈ d.link.shedRx ↔ (if f = w0.get 9 0 then w0.bit 10 = true else f ∈ s.dev.link.shedRx)) ∧
    (w0.get 31 28 = 1 → ∃ d, Leads s .linkProposal d ∧
      d.link.inbox = rest ∧ d.link.txSet = s.dev.link.txSet ∧ d.link.rxSet = s.dev.link.rxSet ∧ d.regs = s.dev.regs ∧
      ∀ k : Fin 8,
        let leaves := w0.bit (8 + k.val)
        let joins := w0.bit k.val
        let asleep := fun (o wake : Nat) => (s.dev.rd Reg.SKX_PHY_SLEEP).bit (o + k.val) && !w1.bit (wake + k.val)
        d.finalTx.testBit k.val = (if leaves || w1.bit (16 + k.val) then false else if joins then !asleep 8 0
          else if w1.bit k.val then true else s.dev.finalTx.testBit k.val) ∧
        d.finalRx.testBit k.val = (if leaves || w1.bit (24 + k.val) then false else if joins then !asleep 0 8
          else if w1.bit (8 + k.val) then true else s.dev.finalRx.testBit k.val) ∧
        (leaves = true → (d.lanes[k]).leaveTo.isSome = true) ∧ (leaves = false → d.lanes[k] = s.dev.lanes[k]) ∧
        (leaves = true ∨ joins = true → ∃ p ∈ d.link.proposals, p.lane = k ∧
          s.dev.tickAtNs ((m.words.getD 2 0).toNat * 2 ^ 32 + (m.words.getD 3 0).toNat) ≤ p.land))

/-- What never came and what was not sent (R291, R299): a flow that exists and is not shed misses the message of a symbol whose bound
passes with nothing accepted; a transmit message cut off by its end is counted. -/
def MissingAndAbandoned : Prop :=
  ∀ (s : State) (f : Nat), LinkUp s →
    (s.dev.cad.running = true → s.dev.flowExists false f = true → (∀ x ∈ s.dev.link.accepted, x.flow ≠ f) → f ∉ s.dev.link.shedRx →
      ∃ d, Leads s (.dlBoundMissing f) d ∧ Counted s.dev d Reg.SKX_CELL_MISSING 31 0 ∧ Set d Reg.SKX_CELL_EVT 5 ∧
        SameRegsBut [Reg.SKX_CELL_MISSING, Reg.SKX_CELL_EVT] s.dev d) ∧
    ((s.dev.cad.running = false ∨ s.dev.flowExists false f = false ∨ f ∈ s.dev.link.shedRx) → Leads s (.dlBoundMissing f) s.dev) ∧
    (isSampleFlow f = true → ∃ d, Leads s (.sampleMsgAbandon f) d ∧ Counted s.dev d Reg.SKX_CELL_ABANDON 31 0 ∧ Set d Reg.SKX_CELL_EVT 6 ∧
      SameRegsBut [Reg.SKX_CELL_ABANDON, Reg.SKX_CELL_EVT] s.dev d) ∧
    (isSampleFlow f = false → Leads s (.sampleMsgAbandon f) s.dev)

end Sys2Proof.Cert

/-- Cells and the messages that they carry.
Choices of the model that it takes in: log entries 24, 38 and 77. -/
def Obligations.CellsAndMessages : Prop :=
  CellsReceived ∧ SampleMessages ∧ SoundingMessages ∧ WeightMessages ∧ LinkCells ∧ MissingAndAbandoned

/-! ### The Drunas command set (chapter 11) -/

namespace Sys2Proof.Cert

/-- The rows of Table 11.4 with the opcodes that they execute. -/
def opcodeRows : List (Nat × Instr) :=
  [(0x100, .sysPing), (0x101, .sysInfo), (0x102, .sysCancel), (0x200, .pwrRequest), (0x201, .pwrStatus), (0x300, .radioSetState),
   (0x310, .carrierConfig), (0x320, .powerStep), (0x400, .beamMode), (0x401, .beamLoad), (0x410, .solverConfig), (0x500, .dpdConfig),
   (0x501, .dpdBankSelect), (0x600, .calRun), (0x601, .calSnapshot), (0x602, .calRestore), (0x610, .quietMap), (0x700, .timeStep),
   (0x701, .timeSchedule), (0x702, .timeStatus), (0x800, .biasSet), (0x801, .biasSpan), (0x900, .faultQuery), (0x901, .pathRetire),
   (0x902, .pathRestore), (0xA00, .fwStage), (0xA01, .fwActivate), (0xA10, .debugUnlockChallenge), (0xA10, .debugUnlockResponse),
   (0xA10, .debugUnlockClose), (0xA20, .lifecycle), (0xB00, .capture), (0xB10, .chiselLoad), (0xB10, .chiselUnload), (0xB20, .bistRun)]

/-- Packet `p` stands at the head of the ring, `rest` behind it, and the command processors work. -/
def AtHead (s : State) (p : Packet) (rest : List Packet) : Prop :=
  s.dev.processorRuns = true ∧ s.dev.drunas.ring = p :: rest ∧ p.regAccess = false

/-- TAG, FINAL_ONLY of a packet; a TIMING of 0, or of 3 which acts as 0 (Table 11.1). -/
def tagOf (p : Packet) : Nat := (p.words.getD 0 0).get 15 0
def finalOnly (p : Packet) : Bool := (p.words.getD 1 0).bit 2
def AtOnce (p : Packet) : Prop := (p.words.getD 1 0).get 1 0 = 0 ∨ (p.words.getD 1 0).get 1 0 = 3

/-- Packet `p` at the head is an unauthenticated command of opcode `op` with parameters `ps` and good checks, to be executed at once. -/
def Heads (s : State) (p : Packet) (rest : List Packet) (op : Nat) (ps : List Word) : Prop :=
  AtHead s p rest ∧ AtOnce p ∧ p.opcode = op ∧ s.dev.checkPacket p = (.pass ps false, s.dev)

/-- No command is open, and no change or calibration belongs to one. -/
def NoneOpen (s : State) : Prop :=
  s.dev.drunas.cmds = [] ∧ s.dev.drunas.ranges = [] ∧ s.dev.drunas.clash = [] ∧ (∀ c ∈ s.dev.cad.changes, c.cmd = none) ∧ s.dev.cal.queue = []

/-- Ticks run, or nothing waits for one. -/
def Calm (s : State) : Prop :=
  s.dev.cad.running = true ∨ (s.dev.cad.changes = [] ∧ s.dev.link.proposals = [] ∧ ∀ c : Fin 16, (s.dev.chisel.cores[c]).testing = false)

/-- The device once the packet has left the ring and its command has its identity. -/
def begun (s : State) (rest : List Packet) : Dev :=
  { s.dev with drunas := { s.dev.drunas with ring := rest, nextId := s.dev.drunas.nextId + 1 } }

/-- The command is answered at once: the device becomes `d` and sends the final reply with a status and results (R309, R310). -/
def Answers (s : State) (c : Instr) (p : Packet) (d : Dev) (status : Nat) (results : List Word) : Prop :=
  exec c s = .next (withDev s (d.reply p.spi false p.opcode (tagOf p) status 0 s.dev.nowNs true results))

/-- The command has become the open command `x` of device `d`, and an interim reply with the time `t` went out unless FINAL_ONLY asked
for none (R310, R315). -/
def Opens (s : State) (c : Instr) (p : Packet) (d : Dev) (x : Cmd) (t : Nat) : Prop :=
  let e := { d with drunas := { d.drunas with cmds := [x] } }
  exec c s = .next (withDev s (if finalOnly p then e else e.reply p.spi false p.opcode (tagOf p) 1 0 t false [])) ∧
  x.id = s.dev.drunas.nextId ∧ x.opcode = p.opcode ∧ x.tag = tagOf p ∧ x.verdict = none

/-- The command commits the settings `ks` with their arguments, in this order, all landing at the first tick whose cutoff they meet
(R311), and leaves the device `d` otherwise; with nothing to commit it is answered at once. -/
def Commits (s : State) (c : Instr) (p : Packet) (d : Dev) (ks : List (Setting × Nat)) : Prop :=
  d.cad.changes.map (fun x => (x.key, x.arg, x.land, x.cmd, x.rank)) =
    s.dev.cad.changes.map (fun x => (x.key, x.arg, x.land, x.cmd, x.rank)) ++
      ks.map (fun k => (k.1, k.2, s.dev.nextLanding, some s.dev.drunas.nextId, 1)) ∧
  (ks = [] → Answers s c p d 0 []) ∧
  (ks ≠ [] → ∃ x, Opens s c p d x (s.dev.tickNs s.dev.nextLanding) ∧ x.stage = .committed ∧ x.total = ks.length)

/-- The command is work in progress that notes `aux`, and leaves the device `d` otherwise. -/
def Works (s : State) (c : Instr) (p : Packet) (d : Dev) (aux : List Nat) : Prop :=
  ∃ x, Opens s c p d x 0 ∧ x.stage = .working ∧ x.aux = aux

/-- The checks of Table 11.2 in their order (R306, R307, R471): a packet that fails one leaves the ring with its failure as its reply
and executes nothing, whatever its row; one that fails the first is counted. A packet of no row is answered UNKNOWN_OPCODE. -/
def PacketChecks : Prop :=
  ∀ (s : State) (p : Packet) (rest : List Packet) (n : Nat), AtHead s p rest → ∀ c : Instr, (p.opcode, c) ∈ opcodeRows →
    let ps := (p.words.take (n - 1)).drop 4
    let w1 := p.words.getD 1 0
    (p.crcOk = false ∨ packetEnd p.words = none →
      ∃ d, Counted s.dev d Reg.DRUNAS_BAD_CHECK 31 0 ∧ Set d Reg.DRUNAS_EVT 1 ∧
        SameRegsBut [Reg.DRUNAS_BAD_CHECK, Reg.DRUNAS_EVT] s.dev d ∧ Leads s c (d.popRing.failReply p 0x22 false)) ∧
    (p.crcOk = true → packetEnd p.words = some n → w1.bit 3 = false →
      (n ≠ impliedWords w1 ∨ w1.get 31 16 % 4 ≠ 0 ∨ lengthOk p.opcode ps = false → Leads s c (s.dev.popRing.failReply p 0x21 false)) ∧
      (n = impliedWords w1 → w1.get 31 16 % 4 = 0 → lengthOk p.opcode ps = true → s.dev.securityAllows p.opcode ps p.spi false = false →
        Leads s c (s.dev.popRing.failReply p 0x12 false)))

/-- A packet whose opcode Table 11.4 does not list (R307). -/
def UnknownOpcodes : Prop :=
  ∀ (s : State) (p : Packet) (rest : List Packet) (n : Nat), AtHead s p rest →
    (opcodes.contains p.opcode = false → p.crcOk = true → packetEnd p.words = some n → (p.words.getD 1 0).bit 3 = false →
      Makes s .unknownOpcodeCommand (s.dev.popRing.failReply p 0x20 false)) ∧
    (opcodes.contains p.opcode = true → Makes s .unknownOpcodeCommand s.dev)

/-- A command of the pending list executes when its time has come (R313, R314): the clock goes on to that instant; for SYS_PING the
reply follows, LATE where the instant had gone by. -/
def PendingCommandRuns : Prop :=
  ∀ (s : State) (c : Cmd) (n : Nat), s.dev.processorRuns = true → Calm s → s.dev.drunas.cmds = [c] → s.dev.drunas.ranges = [] →
    s.dev.drunas.clash = [] → c.stage = .pendList → c.opcode = 0x100 → c.verdict = none → c.silent = false →
    s.dev.dueIn c = some n →
    let d := s.dev.passCycles n
    exec .timedCommandDue s = .next (withDev s (({ d with drunas := { d.drunas with cmds := [] } }).reply c.spi c.auth 0x100 c.tag
      (if c.late || d.missed c then 2 else 0) c.lost d.nowNs true c.params))

end Sys2Proof.Cert

/-- How packets are checked and when commands execute.
Choices of the model that it takes in: log entries 23, 46, 48 and 64. -/
def Obligations.PacketChecksAndTiming : Prop := PacketChecks ∧ UnknownOpcodes ∧ PendingCommandRuns

namespace Sys2Proof.Cert

/-- Queries (Table 11.4): each is answered at once, with what it asks for, and changes nothing else. -/
def Queries : Prop :=
  ∀ (s : State) (p : Packet) (rest : List Packet) (ps : List Word), NoneOpen s → Calm s →
    let d := begun s rest
    (Heads s p rest 0x100 ps → Answers s .sysPing p d 0 ps) ∧
    (Heads s p rest 0x101 ps → ∃ w, Answers s .sysInfo p d 0 [BitVec.ofNat 32 (Config.siliconId.toNat / 2 ^ 32),
        BitVec.ofNat 32 Config.siliconId.toNat, s.dev.sec.fw, w, BitVec.ofNat 32 s.dev.sec.rollback,
        match s.dev.drunas.staged with | some b => b.version | none => 0] ∧
      w.get 31 24 = s.dev.sec.lifecycle % 256 ∧ w.get 23 16 = s.dev.debugLevel % 256 ∧ w.bit 15 = s.dev.sec.active ∧
      w.get 8 0 = (s.dev.rd Reg.TIME_JOIN).get 8 0) ∧
    (Heads s p rest 0x201 ps → ∃ w v, Answers s .pwrStatus p d 0 [w, s.dev.rd Reg.POWER_REFUSED, s.dev.rd Reg.POWER_ABORTED, v] ∧
      w.get 2 0 = s.dev.power.dev % 8 ∧ w.bit 7 = s.dev.power.slot.isSome ∧
      w.get 6 4 = (match s.dev.power.cur with | some r => r.target | none => s.dev.power.dev) % 8 ∧
      v.get 15 0 = (s.dev.rd Reg.POWER_LAST).get 31 16) ∧
    (Heads s p rest 0x702 ps → Answers s .timeStatus p d 0 (timeWords s.dev.nowNs ++
      [BitVec.ofNat 32 (s.dev.time.now % 2 ^ 32), s.dev.rd Reg.TIME_EPOCH, s.dev.timeStatus, s.dev.holdAge])) ∧
    (Heads s p rest 0x900 ps → (ps.getD 0 0).get 7 0 + (ps.getD 0 0).get 15 8 < 256 →
      Answers s .faultQuery p { d with freeCtr := s.dev.freeCtr + (ps.getD 0 0).get 15 8 + 1 } 0 (s.dev.rd Reg.SUMP_FIRST_INFO ::
        (List.range ((ps.getD 0 0).get 15 8 + 1)).map fun i => s.dev.srcStatus (toSrc ((ps.getD 0 0).get 7 0 + i))))

/-- SYS_CANCEL (R316): with nothing of its TAG to cancel it answers 0; a command of the pending list with the TAG is answered ABORTED
first, and the count is 1. -/
def Cancels : Prop :=
  ∀ (s : State) (p : Packet) (rest : List Packet) (ps : List Word), Heads s p rest 0x102 ps → Calm s →
    (NoneOpen s → Answers s .sysCancel p (begun s rest) 0 [0]) ∧
    (∀ x : Cmd, s.dev.drunas.cmds = [x] → s.dev.drunas.ranges = [] → s.dev.drunas.clash = [] → s.dev.cal.queue = [] →
      x.stage = .pendList → x.silent = false → x.verdict = none → x.tag = (ps.getD 0 0).get 15 0 → x.id ≠ s.dev.drunas.nextId →
      let d := begun s rest
      Answers s .sysCancel p (({ d with drunas := { d.drunas with cmds := [] } }).reply x.spi x.auth x.opcode x.tag 0x31 x.lost
        s.dev.nowNs true []) 0 [1])

/-- TIME_SCHEDULE and SOLVER_CONFIG (R340, R343, R147): the slot takes its time, argument and action, and is armed where P0 says so;
a configuration whose solve the cluster has no room for is refused, unless R147 promises it; another is written and ends STOPPED. -/
def Configures : Prop :=
  ∀ (s : State) (p : Packet) (rest : List Packet) (ps : List Word), NoneOpen s → Calm s →
    let p0 := ps.getD 0 0
    let n := p0.get 28 24
    (Heads s p rest 0x701 ps → ∃ d late, Answers s .timeSchedule p d (if late then 2 else 0) [] ∧ d.slotArmed n = p0.bit 31 ∧
      d.slotAction n = p0.get 19 16 ∧ (d.rd (Reg.TIME_SCHED_HI n)).get 15 0 = (ps.getD 1 0).get 15 0 ∧
      d.rd (Reg.TIME_SCHED_LO n) = ps.getD 2 0 ∧ d.rd (Reg.TIME_SCHED_ARG n) = ps.getD 3 0 ∧ (late = true → p0.bit 31 = true ∧ Set d Reg.TIME_EVT 7) ∧
      (p0.bit 31 = true → (d.rd Reg.TIME_SCHED_FIRED).bit n = false) ∧
      SameRegsBut [Reg.TIME_SCHED_HI n, Reg.TIME_SCHED_LO n, Reg.TIME_SCHED_ARG n, Reg.TIME_SCHED_CTRL n, Reg.TIME_SCHED_FIRED, Reg.TIME_EVT]
        s.dev d ∧ d.cad = s.dev.cad) ∧
    (Heads s p rest 0x410 ps →
      let by_ : Committer := ⟨1, some s.dev.drunas.nextId⟩
      let new := (((begun s rest).writeFields by_ Reg.BEAM_SOLVER_CFG p0).writeFields by_ Reg.BEAM_SOLVER_REG (ps.getD 1 0)).writeFields
        by_ Reg.BEAM_SOLVER_PIVOT (ps.getD 2 0)
      let fits := { new with beam := { new.beam with stopped := false } }
      let refused := solverSure s.dev (max 1 (p0.get 27 16)) = false ∧ fits.solverOn = true ∧ fits.solverFits = false
      (refused → Answers s .solverConfig p (begun s rest) 0x11 []) ∧
      (¬ refused → ∃ d, Answers s .solverConfig p d 0 [] ∧ d.beam = { s.dev.beam with stopped := false } ∧
        (∀ x ∈ [(Reg.BEAM_SOLVER_CFG, p0), (Reg.BEAM_SOLVER_REG, ps.getD 1 0), (Reg.BEAM_SOLVER_PIVOT, ps.getD 2 0)],
          Alone s .cpu x.1 → d.rd x.1 = fieldWrite (fieldsOf x.1) (s.dev.rd x.1) x.2) ∧
        SameRegsBut ([Reg.BEAM_SOLVER_CFG, Reg.BEAM_SOLVER_REG, Reg.BEAM_SOLVER_PIVOT] ++ (List.range 32).map Reg.BEAM_SOLVER_POW) s.dev d ∧
        d.cad = s.dev.cad))

/-- Unlocking and lifecycle (R463, R473, R474, R476, Table 17.2): a challenge gives a fresh nonce of 32 bytes where the level may be
open and no lockout runs; a response that verifies opens its level; one that does not is refused, counted and locks out; the close
ends the session; a transition is burned, or refused where Table 17.2 has none. -/
def Security : Prop :=
  ∀ (s : State) (p : Packet) (rest : List Packet) (ps : List Word), NoneOpen s → Calm s →
    let p0 := ps.getD 0 0
    let d := begun s rest
    (Heads s p rest 0xA10 ps → p0.get 31 30 = 0 →
      (s.dev.sec.lockout = true ∨ s.dev.maxLevel < p0.get 1 0 → Answers s .debugUnlockChallenge p d 0x12 []) ∧
      (s.dev.sec.lockout = false → p0.get 1 0 ≤ s.dev.maxLevel → ∃ x : List Byte, x.length = 32 ∧
        Answers s .debugUnlockChallenge p { d with freeCtr := s.dev.freeCtr + 32, sec := { s.dev.sec with nonce := some x } } 0 (beWords x))) ∧
    (Heads s p rest 0xA10 ps → p0.get 31 30 = 1 →
      (∀ x, s.dev.sec.nonce = some x → p0.get 1 0 ≤ s.dev.maxLevel → s.dev.keyVerifies (responseKey ps).1 = true →
        Config.sigVerify (responseKey ps).1 (s.dev.unlockMessage x (some (p0.get 1 0)) none) (responseKey ps).2 = true →
        ∃ e, Answers s .debugUnlockResponse p e 0 [] ∧ e.sec = { s.dev.sec with nonce := none, fails := 0, level := p0.get 1 0 } ∧
          Set e Reg.SEC_EVT 0 ∧ SameRegsBut [Reg.SEC_EVT] s.dev e) ∧
      (s.dev.sec.nonce = none → ∃ e, Answers s .debugUnlockResponse p e 0x12 [] ∧ e.sec = { s.dev.sec with
          fails := min 255 (s.dev.sec.fails + 1), lockout := true } ∧ Set e Reg.SEC_EVT 1 ∧ SameRegsBut [Reg.SEC_EVT] s.dev e)) ∧
    (Heads s p rest 0xA10 ps → p0.get 31 30 = 2 → ∃ e, Answers s .debugUnlockClose p e 0 [] ∧ e.sec = { s.dev.sec with level := 0, halted := false } ∧
      (s.dev.sec.level ≠ 0 → Set e Reg.SEC_EVT 2) ∧ SameRegsBut [Reg.SEC_EVT] s.dev e) ∧
    (Heads s p rest 0xA20 ps → 1 < ps.length →
      (lcStep s.dev.sec.lifecycle (p0.get 2 0) = false → Answers s .lifecycle p d 0x10 []) ∧
      (s.dev.sec.lifecycle = 0 → p0.get 2 0 = 1 → ps.length = 21 → s.dev.power.dev ≠ 4 → s.dev.sec.lcNext = none →
        ∃ e, Answers s .lifecycle p e 0 [] ∧ e.sec = { s.dev.sec with
          nonce := none, lcNext := some 1, ownerHash := some (((ps.drop 1).take 12).flatMap beBytes), flowSecret := some (((ps.drop 13).take 8).flatMap beBytes) } ∧
          Set e Reg.SEC_EVT 5 ∧ SameRegsBut [Reg.SEC_EVT] s.dev e))

end Sys2Proof.Cert

/-- The commands that are answered at once.
Choices of the model that it takes in: log entries 3, 40, 41, 61 and 63. -/
def Obligations.CommandsAnswered : Prop := Queries ∧ Cancels ∧ Configures ∧ Security

namespace Sys2Proof.Cert

/-- The last entry for each output of a bias command, in order (R355, R524). -/
def biasEntriesOf (ps : List Word) : List Word :=
  (lastEntries (fun w => w.get 30 24) ((ps.drop 1).take ((ps.getD 0 0).get 6 0))).filter fun w => decide (w.get 30 24 < 96)

/-- Commands of the radio, the carriers and the beams that commit (R60, R82, R120, R139): tile levels and path modes, the words of
carriers, power-step indices, the beamforming mode, a bank switch. -/
def RadioCommits : Prop :=
  ∀ (s : State) (p : Packet) (rest : List Packet) (ps : List Word), NoneOpen s → s.dev.cad.running = true →
    let p0 := ps.getD 0 0
    let frame := fun (as : List Nat) (d : Dev) => SameRegsBut as s.dev d ∧ d.inforce = s.dev.inforce
    (Heads s p rest 0x300 ps → ∃ d, Commits s .radioSetState p d
        ((if p0.bit 12 then ((List.finRange 4).filter fun t => p0.bit t.val).map fun t => (Setting.word (Reg.TILE_CFG t.val), 0) else []) ++
          ((List.finRange 64).filter fun k => if k.val < 32 then (ps.getD 2 0).bit k.val else (ps.getD 1 0).bit (k.val - 32)).map fun k =>
            let m := (ps.getD (3 + k.val / 16) 0).get (2 * (k.val % 16) + 1) (2 * (k.val % 16))
            (Setting.pathMode k, if m = 3 then 0 else m)) ∧
      frame ((List.range 4).flatMap fun t => [Reg.TILE_CFG t, Reg.TILE_PATH_MODE_LO t, Reg.TILE_PATH_MODE_HI t]) d ∧
      ∀ t : Fin 4, p0.bit 12 = true → p0.bit t.val = true → Alone s .cpu (Reg.TILE_CFG t.val) →
        (d.rd (Reg.TILE_CFG t.val)).get 1 0 = p0.get 9 8) ∧
    (Heads s p rest 0x310 ps →
      let ks := (List.range 4).filter fun k => p0.bit k
      let at_ := fun (k : Nat) => 1 + 4 * (ks.findIdx fun x => x == k)
      let cars := (List.range 4).map fun k => if ks.contains k then (ps.getD (at_ k) 0, ps.getD (at_ k + 1) 0)
        else (s.dev.rd (Reg.BEAM_CAR_CFG k), s.dev.rd (Reg.BEAM_CAR_NCO k))
      (configValid ((s.dev.rd Reg.CADENCE_CFG).get 1 0) (s.dev.rd Reg.BEAM_CFG) cars = false →
        Answers s .carrierConfig p (begun s rest) 0x11 []) ∧
      (configValid ((s.dev.rd Reg.CADENCE_CFG).get 1 0) (s.dev.rd Reg.BEAM_CFG) cars = true →
        ∃ d, Commits s .carrierConfig p d (ks.flatMap fun k => [(.word (Reg.BEAM_CAR_CFG k), 0), (.word (Reg.BEAM_CAR_NCO k), 0),
            (.word (Reg.BEAM_CAR_LDL k), 0), (.word (Reg.BEAM_CAR_LUL k), 0)]) ∧ d.inforce = s.dev.inforce ∧
          ∀ k ∈ ks, Alone s .cpu (Reg.BEAM_CAR_CFG k) → d.rd (Reg.BEAM_CAR_CFG k) =
            fieldWrite (fieldsOf (Reg.BEAM_CAR_CFG k)) (s.dev.rd (Reg.BEAM_CAR_CFG k)) (ps.getD (at_ k) 0))) ∧
    (Heads s p rest 0x320 ps →
      let es := lastEntries (fun w => w.get 29 24) ((ps.drop 1).take (p0.get 6 0))
      let a := fun (w : Word) => Reg.TILE_PIDX (w.get 29 24 / 16) (w.get 29 24 % 16)
      ∃ d, Commits s .powerStep p d (es.map fun w => (.word (a w), 0)) ∧ frame (es.map a) d ∧
        ∀ w ∈ es, Alone s .cpu (a w) → (d.rd (a w)).get 9 0 = w.get 9 0) ∧
    (Heads s p rest 0x400 ps → ∃ d, Commits s .beamMode p d [(.word Reg.BEAM_CFG, 0)] ∧ frame [Reg.BEAM_CFG] d ∧
      (Alone s .cpu Reg.BEAM_CFG → d.rd Reg.BEAM_CFG = fieldWrite (fieldsOf Reg.BEAM_CFG) (s.dev.rd Reg.BEAM_CFG) p0))

/-- Commands of linearisation, calibration, bias, retirement, firmware and the cores that commit (R165, R195, R321, R355, R356, R416,
R417, R247), and where they are refused. -/
def OtherCommits : Prop :=
  ∀ (s : State) (p : Packet) (rest : List Packet) (ps : List Word), NoneOpen s → s.dev.cad.running = true →
    let p0 := ps.getD 0 0
    let frame := fun (as : List Nat) (d : Dev) => SameRegsBut as s.dev d ∧ d.inforce = s.dev.inforce
    (Heads s p rest 0x500 ps →
      let g := if p0.bit 31 then 3 else 1
      let us := pairPaths (ps.getD g 0) (ps.getD (g + 1) 0)
      let cfg := if p0.bit 30 then us.zip (ps.drop (g + 2)) else []
      let adj := if p0.bit 29 then us.zip (ps.drop (g + 2 + (if p0.bit 30 then us.length else 0))) else []
      ∃ d, Commits s .dpdConfig p d ((if p0.bit 31 then [(.word Reg.DPD_SEL_THR, 0)] else []) ++
        (cfg.flatMap fun x => [(.dpdBank x.1, x.2.get 29 28), (.word (Reg.DPD_PATH_CFG x.1.val), 0)]) ++
        adj.map fun x => (.word (Reg.DPD_PATH_ADJ x.1.val), 0)) ∧ d.inforce = s.dev.inforce) ∧
    (Heads s p rest 0x501 ps →
      let us := pairPaths p0 (ps.getD 1 0)
      ((∃ u ∈ us, (s.dev.rd (Reg.DPD_PATH_CFG u.val)).bit 30 = true) → ∃ d, Answers s .dpdBankSelect p d 0x10 [] ∧ Set d Reg.DPD_EVT 5 ∧
        frame [Reg.DPD_EVT] d) ∧
      ((∀ u ∈ us, (s.dev.rd (Reg.DPD_PATH_CFG u.val)).bit 30 = false) → ∃ d, Commits s .dpdBankSelect p d
        (us.map fun u => (.dpdBank u, (ps.getD 2 0).get 1 0)) ∧ frame (us.map fun u => Reg.DPD_PATH_CFG u.val) d)) ∧
    (Heads s p rest 0x610 ps → ∃ d, Commits s .quietMap p d [(.quietMap, 0)] ∧
      frame (Reg.CAL_QMAP_CFG :: (List.range 70).map Reg.CAL_QMAP) d ∧ ∀ j, j < 70 → d.rd (Reg.CAL_QMAP j) = ps.getD (1 + j) 0) ∧
    (s.dev.bias.linkUp = false → ∀ c op, (c, op) ∈ [(Instr.biasSet, 0x800), (.biasSpan, 0x801)] → Heads s p rest op ps →
      Answers s c p (begun s rest) 0x10 []) ∧
    (s.dev.bias.linkUp = true → Heads s p rest 0x800 ps →
      ∃ d, Commits s .biasSet p d ((biasEntriesOf ps).map fun w => (.biasCode (toOut (w.get 30 24)), 0)) ∧
        frame ((biasEntriesOf ps).map fun w => Reg.BIAS_OUT_CODE (w.get 30 24)) d ∧ ∀ w ∈ biasEntriesOf ps,
          Alone s .cpu (Reg.BIAS_OUT_CODE (w.get 30 24)) → (d.rd (Reg.BIAS_OUT_CODE (w.get 30 24))).get 27 16 = w.get 23 12 ∧ (d.rd (Reg.BIAS_OUT_CODE (w.get 30 24))).get 11 0 = w.get 11 0) ∧
    (s.dev.bias.linkUp = true → Heads s p rest 0x801 ps →
      ∃ d, Commits s .biasSpan p d ((biasEntriesOf ps).map fun w => (.biasSpan (toOut (w.get 30 24)), w.get 1 0)) ∧
        frame ((biasEntriesOf ps).map fun w => Reg.BIAS_OUT_CFG (w.get 30 24)) d ∧ ∀ w ∈ biasEntriesOf ps,
          Alone s .cpu (Reg.BIAS_OUT_CFG (w.get 30 24)) → (d.rd (Reg.BIAS_OUT_CFG (w.get 30 24))).get 31 30 = w.get 1 0) ∧
    (Heads s p rest 0x901 ps → p0.get 7 0 < unitCount (p0.get 27 24) →
      (p0.get 27 24 = 8 → s.dev.lastLane (p0.get 7 0) = true → Answers s .pathRetire p (begun s rest) 0x11 []) ∧
      (¬ (p0.get 27 24 = 8 ∧ s.dev.lastLane (p0.get 7 0) = true) → ∃ d, Commits s .pathRetire p d [(.unit (p0.get 27 24) (p0.get 7 0), 2)] ∧
        frame [Reg.SUMP_LOG_DROP, Reg.SUMP_EVT] d ∧ ∀ n ∈ sourcesOfUnit (p0.get 27 24) (p0.get 7 0), (d.sump.src[n]).times = [])) ∧
    (Heads s p rest 0xA01 ps →
      (s.dev.drunas.staged = none → Answers s .fwActivate p (begun s rest) 0x10 []) ∧
      (s.dev.drunas.staged.isSome = true → ∃ d, Commits s .fwActivate p d [(.fwActivate, 0)] ∧ frame [] d ∧ d.sec = s.dev.sec)) ∧
    (Heads s p rest 0xB10 ps → p0.bit 31 = true →
      ((∀ k ∈ s.dev.chisel.kernels, ¬ (k.user = true ∧ k.handle = p0.get 15 0)) → Answers s .chiselUnload p (begun s rest) 0x10 []) ∧
      ((∃ k ∈ s.dev.chisel.kernels, k.user = true ∧ k.handle = p0.get 15 0) →
        ∃ d, Commits s .chiselUnload p d [(.chiselUnload (p0.get 15 0), 0)] ∧ frame [] d ∧ d.chisel = s.dev.chisel))

end Sys2Proof.Cert

/-- The commands that commit changes.
Choices of the model that it takes in: log entries 51 and 70. -/
def Obligations.CommandsCommit : Prop := RadioCommits ∧ OtherCommits

namespace Sys2Proof.Cert

/-- Commands that become work in progress (R139, R203, R212, R213, R315, R318 to R321, R334, R417, R434, R453). -/
def WorkBegins : Prop :=
  ∀ (s : State) (p : Packet) (rest : List Packet) (ps : List Word), NoneOpen s → s.dev.cad.running = true →
    let p0 := ps.getD 0 0
    let d := begun s rest
    let id := s.dev.drunas.nextId
    (Heads s p rest 0x200 ps → 1 ≤ p0.get 2 0 → p0.get 2 0 ≤ 4 →
      (s.dev.power.cur = none → p0.get 2 0 = s.dev.power.dev → Answers s .pwrRequest p d 0 [pwrResult 0 s.dev.power.dev]) ∧
      (∀ r, s.dev.power.cur = some r → r.target ≠ p0.get 2 0 → s.dev.power.slot = none →
        Works s .pwrRequest p { d with power := { s.dev.power with slot := some ⟨p0.get 2 0, some id⟩ } } [])) ∧
    (Heads s p rest 0x600 ps →
      (p0.get 11 8 = 0 → 1 ≤ p0.get 7 0 → p0.get 7 0 ≤ 7 → Answers s .calRun p d 0 [0]) ∧
      (p0.get 11 8 ≠ 0 → 2 ≤ p0.get 7 0 → p0.get 7 0 ≤ 7 → s.dev.calBusy &&& p0.get 11 8 = 0 →
        ∃ e, Works s .calRun p e [] ∧ e = { d with cal := e.cal } ∧ (p0.get 7 0 ≠ 7 → e.cal.tile = s.dev.cal.tile) ∧
          e.cal = { s.dev.cal with
            tile := e.cal.tile
            runs := s.dev.cal.runs ++ [{ code := p0.get 7 0, mask := p0.get 11 8, left := p0.get 11 8, deferred := 0, cmd := some id,
                                         terr := 0, at_ := s.dev.time.cycle }] }) ∧
      (p0.get 11 8 ≠ 0 → 1 ≤ p0.get 7 0 → p0.get 7 0 ≤ 7 → s.dev.calBusy &&& p0.get 11 8 ≠ 0 →
        Works s .calRun p { d with cal := { s.dev.cal with queue :=
          [{ code := p0.get 7 0, mask := p0.get 11 8, left := p0.get 11 8, deferred := 0, cmd := some id, terr := 0,
             at_ := 0 }] } } [])) ∧
    (Heads s p rest 0x601 ps → p0.bit 31 = false →
      (s.dev.snapBusy = true → Answers s .calSnapshot p d 0x11 []) ∧
      (s.dev.snapBusy = false → Works s .calSnapshot p { d with cal := { s.dev.cal with
        snap := some { cmd := some id, mram := true, dest := p0.get 1 0, at_ := s.dev.cad.tickIdx, image := none } } } [])) ∧
    (Heads s p rest 0x602 ps → p0.bit 31 = false →
      (s.dev.snapBusy = true → Answers s .calRestore p d 0x11 []) ∧
      (s.dev.snapBusy = false → imageAccepted (slotImage s.mem (p0.get 1 0)) = false → Answers s .calRestore p d 0x10 []) ∧
      (s.dev.snapBusy = false → imageAccepted (slotImage s.mem (p0.get 1 0)) = true → ∃ e, Works s .calRestore p e [] ∧
        e.cal.restore = some (some id) ∧ e.cal.restoreLand = s.dev.nextLanding)) ∧
    (Heads s p rest 0x700 ps → s.dev.time.step = none → ∃ e, Works s .timeStep p e [] ∧ e = { d with time := e.time } ∧
      ∃ x, e.time = { s.dev.time with step := some x } ∧ x.abs = p0.bit 31 ∧ x.cmd = some id ∧ x.ripe = s.dev.nextLanding ∧
        (p0.bit 31 = true → x.amount = (((ps.getD 1 0).toNat * 2 ^ 64 + (ps.getD 2 0).toNat * 2 ^ 32 + (ps.getD 3 0).toNat : Nat) : Int))) ∧
    (Heads s p rest 0x902 ps → p0.get 7 0 < unitCount (p0.get 27 24) →
      (s.dev.unitRetired (p0.get 27 24) (p0.get 7 0) = false → Answers s .pathRestore p d 0x10 []) ∧
      (s.dev.unitRetired (p0.get 27 24) (p0.get 7 0) = true → s.dev.bistRefusal s.mem (p0.get 27 24) (p0.get 7 0) = 0 →
        Works s .pathRestore p (d.bistBegin (p0.get 27 24) (p0.get 7 0)) [p0.get 27 24, p0.get 7 0])) ∧
    (Heads s p rest 0xB20 ps → p0.get 7 0 < unitCount (p0.get 27 24) →
      (s.dev.bistRefusal s.mem (p0.get 27 24) (p0.get 7 0) ≠ 0 →
        Answers s .bistRun p d (s.dev.bistRefusal s.mem (p0.get 27 24) (p0.get 7 0)) []) ∧
      (s.dev.bistRefusal s.mem (p0.get 27 24) (p0.get 7 0) = 0 →
        Works s .bistRun p (d.bistBegin (p0.get 27 24) (p0.get 7 0)) [p0.get 27 24, p0.get 7 0])) ∧
    (Heads s p rest 0xA00 ps →
      (s.dev.activatePending = true ∨ s.dev.drunas.handover = true → Answers s .fwStage p d 0x10 []) ∧
      (s.dev.activatePending = false → s.dev.drunas.handover = false → Works s .fwStage p
        { d with drunas := { d.drunas with staged := none } } [p0.toNat, (ps.getD 1 0).toNat])) ∧
    (Heads s p rest 0xB00 ps →
      let n := (ps.getD 1 0).toNat
      let a := captureBase + (ps.getD 2 0).toNat
      let mode := (s.dev.paths[toPath (p0.get 7 0)]).mode
      (captureHalf ≤ a ∨ captureEnd < a + 4 * n → Answers s .capture p d 0x11 []) ∧
      (a < captureHalf → a + 4 * n ≤ captureEnd → n = 0 → Answers s .capture p d 0 [0]) ∧
      (a < captureHalf → a + 4 * n ≤ captureEnd → n ≠ 0 → Works s .capture p
        { d with
          drunas := { d.drunas with ranges := [(id, a, 4 * n)] }
          dpd := { d.dpd with wantHost := d.dpd.wantHost ++ if p0.get 31 28 = 0 then [((toPath (p0.get 7 0)).val, id)] else [] } } [p0.get 31 28, b2n (p0.bit 27), (toPath (p0.get 7 0)).val, n, a,
          s.dev.time.now, b2n ((p0.get 31 28 == 1 && mode != 1) || ((p0.get 31 28 == 2 || p0.get 31 28 == 3) && mode != 2))])) ∧
    (Heads s p rest 0xB10 ps → p0.bit 31 = false →
      let a := (ps.getD 1 0).toNat
      (imageGood s.dev s.mem a = false → Answers s .chiselLoad p d 0x10 []) ∧
      (imageGood s.dev s.mem a = true → s.dev.freeSlot = none → ∃ e, Answers s .chiselLoad p e 0x11 [] ∧
        Counted s.dev e Reg.CHISEL_REFUSED 31 0 ∧ e.chisel = s.dev.chisel) ∧
      (imageGood s.dev s.mem a = true → ∀ sl k, s.dev.freeSlot = some sl →
        let h := s.dev.chisel.handle % 65535 + 1
        s.dev.place (kernelOf s.mem a sl h s.dev.chisel.order s.dev.nextLanding) s.dev.opAdm = some k →
        let e := ({ d with chisel := { s.dev.chisel with handle := s.dev.chisel.handle + 1 } }).addKernel k
        exec .chiselLoad s = .next { withDev s (e.reply p.spi false p.opcode (tagOf p) 0 0 s.dev.nowNs true
          [BitVec.ofNat 32 (sl * 65536 + h)]) with mem := loadImage s.mem a k })) ∧
    (Heads s p rest 0x401 ps → p0.bit 28 = false →
      let solver := (s.dev.inf Reg.BEAM_CFG).bit (if p0.bit 31 then 0 else 1)
      (solver = true ∨ p.loadRefused = true → Answers s .beamLoad p d 0x10 []) ∧
      (solver = false → p.loadRefused = false → p.loads < p0.get 9 0 → Works s .beamLoad p d [p.loads, p.loadWords, 0]) ∧
      (solver = false → p.loadRefused = false → p0.get 9 0 ≤ p.loads → p0.bit 30 = false → p0.bit 29 = false → ∃ w,
        Answers s .beamLoad p d 0 (w :: maskWords s.dev.retiredMask) ∧ w.bit 31 = s.dev.inactiveBank (p0.bit 31) ∧ w.bit 30 = false ∧
          w.get 23 0 = p.loadWords % 2 ^ 24))

/-- The work of the only open command `c` ends: its final reply, with its own status and results, leaves from the device `d` (R310). -/
def Ends (s : State) (row : Instr) (c : Cmd) (d : Dev) (status : Nat) (results : List Word) : Prop :=
  let e := { d with drunas := { d.drunas with
    cmds := [], ranges := d.drunas.ranges.filter fun (r : Nat × Nat × Nat) => r.1 != c.id, clash := d.drunas.clash.filter fun (r : Nat × Nat × Nat) => r.1 != c.id } }
  exec row s = .next (withDev s (e.reply c.spi c.auth c.opcode c.tag (lateStatus c.late status) c.lost c.time true results))

/-- `c` is the only open command and works. -/
def Working (s : State) (c : Cmd) : Prop :=
  s.dev.drunas.cmds = [c] ∧ c.stage = .working ∧ c.verdict = none ∧ c.silent = false

/-- Work that ends (R139, R293, R319, R320, R321, R417, R434): staging, a handover, a capture, a test, a load that has waited too
long. -/
def WorkEnds : Prop :=
  ∀ (s : State) (c : Cmd), Working s c → s.dev.cad.running = true →
    (c.opcode = 0xA00 → ∀ a n, c.aux = [a, n] → captureBase ≤ a → a + n ≤ captureHalf →
      let img := Mem.bytes s.mem a n
      let d := { s.dev with freeCtr := s.dev.freeCtr + n }
      (∀ b, s.dev.checkImage img = some b → Ends s .fwStageDone c { d with
        sec := { s.dev.sec with banks := if s.dev.sec.active then s.dev.sec.banks.set 0 b else s.dev.sec.banks.set 1 b },
        drunas := { s.dev.drunas with staged := some b } } 0 [b.version]) ∧
      (s.dev.checkImage img = none → ∃ e, Ends s .fwStageDone c e 0x12 [] ∧ Set e Reg.SEC_EVT 6 ∧ SameRegsBut [Reg.SEC_EVT] s.dev e ∧
        (e.sec.banks[if s.dev.sec.active then (0 : Fin 2) else 1]).valid = false)) ∧
    (c.opcode = 0xA01 → s.dev.drunas.handover = true →
      (∃ e, Ends s (.fwHandoverDone true) c e 0 [s.dev.sec.fw, s.dev.drunas.oldFw] ∧ e.drunas.handover = false ∧ e.drunas.staged = none ∧
        Set e Reg.DRUNAS_EVT 4 ∧ e.sec.active = s.dev.sec.active ∧
        e.sec.rollback = (let r := (s.dev.sec.banks[if s.dev.sec.active then (1 : Fin 2) else 0]).rollback
          if s.dev.sec.rollback < r then min 64 r else s.dev.sec.rollback)) ∧
      (∃ e, Ends s (.fwHandoverDone false) c e 0x31 [] ∧ e.drunas.handover = false ∧ Set e Reg.DRUNAS_EVT 4 ∧
        e.sec = { s.dev.sec with active := !s.dev.sec.active, fw := s.dev.drunas.oldFw })) ∧
    (c.opcode = 0xB00 → s.dev.drunas.clash = [] → ∀ src u a t z, ∀ ws : List Word, c.aux = [src + 1, 1, u, ws.length, a, t, z] →
      ∃ d mem, exec (.captureDone ws) s = .next { withDev s d with mem := mem } ∧ d.drunas.cmds = [] ∧
        (∀ b, (b < a ∨ a + 4 * ws.length ≤ b) → Mem.get mem b = Mem.get s.mem b) ∧
        (∀ i, i < ws.length → Mem.word mem (a + 4 * i) = (if z = 1 then 0 else ws.getD i 0))) ∧
    (c.opcode = 0xB20 → ∀ kind i mask, c.aux = [kind, i] → s.dev.bistRuns kind i = true →
      Ends s (.bistDone kind i mask) c ((s.dev.bistReport kind i mask).bistRelease kind i (mask == 0)) 0 [BitVec.ofNat 32 mask]) ∧
    (c.opcode = 0x902 → ∀ kind i mask, c.aux = [kind, i] → s.dev.bistRuns kind i = true → mask ≠ 0 →
      Ends s (.bistDone kind i mask) c ((s.dev.bistReport kind i mask).bistRelease kind i false) 0x31 [BitVec.ofNat 32 mask]) ∧
    (c.opcode = 0x401 → (c.p 0).bit 28 = false → ∀ tag : BitVec 16, c.tag = tag.toNat →
      let last := fun (x : Instr) => x == .weightLoadMessage && s.dev.lastLoad tag.toNat
      YieldsTo s (.beamLoadTimeout tag) last ∧
        (¬ ArrivesNow s last → ∃ w, Ends s (.beamLoadTimeout tag) { c with time := s.dev.nowNs } s.dev 0x31 (w :: maskWords s.dev.retiredMask) ∧
          w.bit 31 = s.dev.inactiveBank ((c.p 0).bit 31) ∧ w.bit 30 = false ∧ w.get 23 0 = c.aux.getD 1 0 % 2 ^ 24))

end Sys2Proof.Cert

/-- The commands that begin work, and the events that end it.
Choices of the model that it takes in: log entries 49, 59, 60, 62 and 72. -/
def Obligations.CommandsWork : Prop := WorkBegins ∧ WorkEnds
end

