-- ==== Sys2Proof/Laws/Memory.lean ====
section
/-!
SUPPORT. Memory: a byte reads as last written, and every operation keeps the canonical form.
-/

namespace Sys2Proof.Machine

/-! ### Reading -/

theorem cellGet_cellDel_same (m : List Host.Cell) (a : Nat) : cellGet (cellDel m a) a = none := by
  induction m with
  | nil => rfl
  | cons x m ih =>
    obtain ⟨b, v⟩ := x
    by_cases e : b = a
    · simp [cellDel, e, ih]
    · simp [cellDel, e, cellGet, ih]

theorem cellGet_cellDel_ne (m : List Host.Cell) {a b : Nat} (h : b ≠ a) : cellGet (cellDel m a) b = cellGet m b := by
  induction m with
  | nil => rfl
  | cons x m ih =>
    obtain ⟨c, v⟩ := x
    by_cases e : c = a
    · subst e
      simp [cellDel, cellGet, ih, Ne.symm h]
    · simp only [cellDel, e, if_false, cellGet, ih]

theorem cellGet_cellSet_same (m : List Host.Cell) (a : Nat) (x : Byte) : cellGet (cellSet m a x) a = some x := by
  induction m with
  | nil => simp [cellSet, cellGet]
  | cons y m ih =>
    obtain ⟨b, v⟩ := y
    by_cases h : a < b
    · simp [cellSet, h, cellGet]
    · by_cases e : a = b
      · simp [cellSet, e, cellGet]
      · simp [cellSet, h, e, cellGet, Ne.symm e, ih]

theorem cellGet_cellSet_ne (m : List Host.Cell) {a b : Nat} (x : Byte) (h : b ≠ a) : cellGet (cellSet m a x) b = cellGet m b := by
  induction m with
  | nil => simp [cellSet, cellGet, Ne.symm h]
  | cons y m ih =>
    obtain ⟨c, v⟩ := y
    by_cases h1 : a < c
    · simp [cellSet, h1, cellGet, Ne.symm h]
    · by_cases e : a = c
      · subst e
        simp [cellSet, cellGet, Ne.symm h]
      · simp only [cellSet, h1, e, cellGet, if_false, ih]

theorem Mem.get_set (m : Mem) (a b : Nat) (x : Byte) : Mem.get (Mem.set m a x) b = if b = a then x else Mem.get m b := by
  unfold Mem.get Mem.set
  by_cases h : b = a
  · subst h
    split
    · simp [cellGet_cellDel_same, *]
    · simp [cellGet_cellSet_same]
  · split
    · simp [cellGet_cellDel_ne _ h]
    · simp [cellGet_cellSet_ne _ _ h]

/-! ### The canonical form -/

theorem Memory.wfFrom_mono {lo hi : Nat} {m : Mem} (h : lo ≤ hi) (w : Memory.wfFrom hi m = true) : Memory.wfFrom lo m = true := by
  cases m with
  | nil => rfl
  | cons y m =>
    obtain ⟨b, v⟩ := y
    simp only [Memory.wfFrom, Bool.and_eq_true, decide_eq_true_eq] at w ⊢
    exact ⟨⟨by omega, w.1.2⟩, w.2⟩

theorem Memory.wfFrom_del {lo : Nat} {m : Mem} (a : Nat) (w : Memory.wfFrom lo m = true) : Memory.wfFrom lo (cellDel m a) = true := by
  induction m generalizing lo with
  | nil => rfl
  | cons y m ih =>
    obtain ⟨b, v⟩ := y
    simp only [Memory.wfFrom, Bool.and_eq_true, decide_eq_true_eq] at w
    by_cases e : b = a
    · simpa [cellDel, e] using ih (Memory.wfFrom_mono (by omega) w.2)
    · simp only [cellDel, e, if_false, Memory.wfFrom, Bool.and_eq_true, decide_eq_true_eq]
      exact ⟨w.1, ih w.2⟩

theorem Memory.wfFrom_set {lo : Nat} {m : Mem} {a : Nat} {x : Byte} (h : lo ≤ a) (hx : x ≠ memDefault a)
    (w : Memory.wfFrom lo m = true) : Memory.wfFrom lo (cellSet m a x) = true := by
  induction m generalizing lo with
  | nil => simp [cellSet, Memory.wfFrom, h, hx]
  | cons y m ih =>
    obtain ⟨b, v⟩ := y
    simp only [Memory.wfFrom, Bool.and_eq_true, decide_eq_true_eq] at w
    by_cases h1 : a < b
    · simp only [cellSet, h1, if_true, Memory.wfFrom, Bool.and_eq_true, decide_eq_true_eq]
      exact ⟨⟨h, hx⟩, ⟨⟨by omega, w.1.2⟩, w.2⟩⟩
    · by_cases e : a = b
      · subst e
        simp only [cellSet, h1, if_false, if_true, Memory.wfFrom, Bool.and_eq_true, decide_eq_true_eq]
        exact ⟨⟨h, hx⟩, w.2⟩
      · simp only [cellSet, h1, e, if_false, Memory.wfFrom, Bool.and_eq_true, decide_eq_true_eq]
        exact ⟨w.1, ih (by omega) w.2⟩

/-- A written byte keeps the canonical form. -/
theorem Memory.wf_set {m : Mem} (a : Nat) (x : Byte) (w : Memory.wf m = true) : Memory.wf (Mem.set m a x) = true := by
  unfold Mem.set
  split
  · exact Memory.wfFrom_del a w
  · exact Memory.wfFrom_set (Nat.zero_le a) (by assumption) w

/-- A written word keeps it. -/
theorem Memory.wf_setWord {m : Mem} (a : Nat) (x : Word) (w : Memory.wf m = true) : Memory.wf (Mem.setWord m a x) = true :=
  Memory.wf_set _ _ (Memory.wf_set _ _ (Memory.wf_set _ _ (Memory.wf_set _ _ w)))

/-- Written words keep it. -/
theorem Memory.wf_setWords {m : Mem} (a : Nat) (xs : List Word) (w : Memory.wf m = true) : Memory.wf (Mem.setWords m a xs) = true := by
  induction xs generalizing m a with
  | nil => exact w
  | cons x xs ih => exact ih _ (Memory.wf_setWord a x w)

/-- Written bytes keep it. -/
theorem Memory.wf_setBytes {m : Mem} (a : Nat) (xs : List Byte) (w : Memory.wf m = true) : Memory.wf (Mem.setBytes m a xs) = true := by
  induction xs generalizing m a with
  | nil => exact w
  | cons x xs ih => exact ih _ (Memory.wf_set a x w)

theorem Memory.wfFrom_filter {lo : Nat} {m : Mem} (p : Host.Cell → Bool) (w : Memory.wfFrom lo m = true) :
    Memory.wfFrom lo (m.filter p) = true := by
  induction m generalizing lo with
  | nil => rfl
  | cons y m ih =>
    obtain ⟨b, v⟩ := y
    simp only [Memory.wfFrom, Bool.and_eq_true, decide_eq_true_eq] at w
    by_cases e : p (b, v) = true
    · simp only [List.filter_cons, e, if_true, Memory.wfFrom, Bool.and_eq_true, decide_eq_true_eq]
      exact ⟨w.1, ih w.2⟩
    · simpa [List.filter_cons, e] using Memory.wfFrom_mono (by omega) (ih w.2)

/-- Lost contents keep it. -/
theorem Memory.wf_clear {m : Mem} (lo hi : Nat) (w : Memory.wf m = true) : Memory.wf (Mem.clear m lo hi) = true :=
  Memory.wfFrom_filter _ w

/-- A byte below or above written bytes reads as before. -/
theorem Mem.get_setBytes_out (m : Mem) (a b : Nat) (xs : List Byte) (h : b < a ∨ a + xs.length ≤ b) :
    Mem.get (Mem.setBytes m a xs) b = Mem.get m b := by
  induction xs generalizing m a with
  | nil => rfl
  | cons x xs ih =>
    simp only [List.length_cons] at h
    rw [show Mem.setBytes m a (x :: xs) = Mem.setBytes (Mem.set m a x) (a + 1) xs from rfl, ih _ _ (by omega), Mem.get_set]
    simp only [show b ≠ a by omega, if_false]

/-- Written bytes read as written. -/
theorem Mem.get_setBytes_in (m : Mem) (a i : Nat) (xs : List Byte) (h : i < xs.length) :
    Mem.get (Mem.setBytes m a xs) (a + i) = xs[i] := by
  induction xs generalizing m a i with
  | nil => exact absurd h (Nat.not_lt_zero i)
  | cons x xs ih =>
    rw [show Mem.setBytes m a (x :: xs) = Mem.setBytes (Mem.set m a x) (a + 1) xs from rfl]
    cases i with
    | zero => rw [Mem.get_setBytes_out _ _ _ _ (.inl (by omega)), Mem.get_set]; simp
    | succ i => rw [show a + (i + 1) = a + 1 + i by omega, ih _ _ _ (by simpa using h)]; rfl

@[simp] theorem Mem.length_bytes (m : Mem) (a n : Nat) : (Mem.bytes m a n).length = n := by
  induction n generalizing a with
  | zero => rfl
  | succ n ih => simp [Mem.bytes, ih]

theorem Mem.getElem_bytes (m : Mem) (a n i : Nat) (h : i < (Mem.bytes m a n).length) : (Mem.bytes m a n)[i] = Mem.get m (a + i) := by
  induction n generalizing a i with
  | zero => exact absurd h (Nat.not_lt_zero i)
  | succ n ih =>
    cases i with
    | zero => rfl
    | succ i =>
      have := ih (a + 1) i (by simpa [Mem.bytes] using h)
      rw [show a + (i + 1) = a + 1 + i by omega, ← this]; rfl

/-- Reading back more than was written begins with what was written. -/
theorem Mem.bytes_setBytes (m : Mem) (a n : Nat) (xs : List Byte) (h : xs.length ≤ n) :
    Mem.bytes (Mem.setBytes m a xs) a n = xs ++ Mem.bytes (Mem.setBytes m a xs) (a + xs.length) (n - xs.length) := by
  refine List.ext_getElem (by simp; omega) fun i h1 h2 => ?_
  rw [Mem.getElem_bytes]
  by_cases hi : i < xs.length
  · rw [Mem.get_setBytes_in _ _ _ _ hi, List.getElem_append_left hi]
  · rw [List.getElem_append_right (by omega), Mem.getElem_bytes]
    congr 1; omega

end Sys2Proof.Machine
end

