-- ==== Sys2Proof/Laws/State.lean ====
section
/-!
SUPPORT. What each update of the device leaves alone: one lemma for each field that an update does not write, so that no later
proof unfolds a record update. What an update writes stands at its definition.
-/

namespace Sys2Proof.Machine

variable (d : Dev)

/-! ### wr -/

@[simp] theorem Dev.wr_inforce (a : Nat) (w : Word) : (d.wr a w).inforce = d.inforce := rfl
@[simp] theorem Dev.wr_staged (a : Nat) (w : Word) : (d.wr a w).staged = d.staged := rfl
@[simp] theorem Dev.wr_cad (a : Nat) (w : Word) : (d.wr a w).cad = d.cad := rfl
@[simp] theorem Dev.wr_tiles (a : Nat) (w : Word) : (d.wr a w).tiles = d.tiles := rfl
@[simp] theorem Dev.wr_paths (a : Nat) (w : Word) : (d.wr a w).paths = d.paths := rfl
@[simp] theorem Dev.wr_relief (a : Nat) (w : Word) : (d.wr a w).relief = d.relief := rfl
@[simp] theorem Dev.wr_sump (a : Nat) (w : Word) : (d.wr a w).sump = d.sump := rfl
@[simp] theorem Dev.wr_spi (a : Nat) (w : Word) : (d.wr a w).spi = d.spi := rfl
@[simp] theorem Dev.wr_derrick (a : Nat) (w : Word) : (d.wr a w).derrick = d.derrick := rfl
@[simp] theorem Dev.wr_check (a : Nat) (w : Word) : (d.wr a w).check = d.check := rfl
@[simp] theorem Dev.wr_power (a : Nat) (w : Word) : (d.wr a w).power = d.power := rfl
@[simp] theorem Dev.wr_sec (a : Nat) (w : Word) : (d.wr a w).sec = d.sec := rfl
@[simp] theorem Dev.wr_drunas (a : Nat) (w : Word) : (d.wr a w).drunas = d.drunas := rfl
@[simp] theorem Dev.wr_time (a : Nat) (w : Word) : (d.wr a w).time = d.time := rfl
@[simp] theorem Dev.wr_lanes (a : Nat) (w : Word) : (d.wr a w).lanes = d.lanes := rfl
@[simp] theorem Dev.wr_link (a : Nat) (w : Word) : (d.wr a w).link = d.link := rfl
@[simp] theorem Dev.wr_chisel (a : Nat) (w : Word) : (d.wr a w).chisel = d.chisel := rfl
@[simp] theorem Dev.wr_beam (a : Nat) (w : Word) : (d.wr a w).beam = d.beam := rfl
@[simp] theorem Dev.wr_dpd (a : Nat) (w : Word) : (d.wr a w).dpd = d.dpd := rfl
@[simp] theorem Dev.wr_cal (a : Nat) (w : Word) : (d.wr a w).cal = d.cal := rfl
@[simp] theorem Dev.wr_bias (a : Nat) (w : Word) : (d.wr a w).bias = d.bias := rfl
@[simp] theorem Dev.wr_sig (a : Nat) (w : Word) : (d.wr a w).sig = d.sig := rfl
@[simp] theorem Dev.wr_rises (a : Nat) (w : Word) : (d.wr a w).rises = d.rises := rfl
@[simp] theorem Dev.wr_same (a : Nat) (w : Word) : (d.wr a w).same = d.same := rfl
@[simp] theorem Dev.wr_freeCtr (a : Nat) (w : Word) : (d.wr a w).freeCtr = d.freeCtr := rfl

/-! ### fset -/

@[simp] theorem Dev.fset_inforce (a hi lo n : Nat) : (d.fset a hi lo n).inforce = d.inforce := Dev.wr_inforce d a _
@[simp] theorem Dev.fset_staged (a hi lo n : Nat) : (d.fset a hi lo n).staged = d.staged := Dev.wr_staged d a _
@[simp] theorem Dev.fset_cad (a hi lo n : Nat) : (d.fset a hi lo n).cad = d.cad := Dev.wr_cad d a _
@[simp] theorem Dev.fset_tiles (a hi lo n : Nat) : (d.fset a hi lo n).tiles = d.tiles := Dev.wr_tiles d a _
@[simp] theorem Dev.fset_paths (a hi lo n : Nat) : (d.fset a hi lo n).paths = d.paths := Dev.wr_paths d a _
@[simp] theorem Dev.fset_relief (a hi lo n : Nat) : (d.fset a hi lo n).relief = d.relief := Dev.wr_relief d a _
@[simp] theorem Dev.fset_sump (a hi lo n : Nat) : (d.fset a hi lo n).sump = d.sump := Dev.wr_sump d a _
@[simp] theorem Dev.fset_spi (a hi lo n : Nat) : (d.fset a hi lo n).spi = d.spi := Dev.wr_spi d a _
@[simp] theorem Dev.fset_derrick (a hi lo n : Nat) : (d.fset a hi lo n).derrick = d.derrick := Dev.wr_derrick d a _
@[simp] theorem Dev.fset_check (a hi lo n : Nat) : (d.fset a hi lo n).check = d.check := Dev.wr_check d a _
@[simp] theorem Dev.fset_power (a hi lo n : Nat) : (d.fset a hi lo n).power = d.power := Dev.wr_power d a _
@[simp] theorem Dev.fset_sec (a hi lo n : Nat) : (d.fset a hi lo n).sec = d.sec := Dev.wr_sec d a _
@[simp] theorem Dev.fset_drunas (a hi lo n : Nat) : (d.fset a hi lo n).drunas = d.drunas := Dev.wr_drunas d a _
@[simp] theorem Dev.fset_time (a hi lo n : Nat) : (d.fset a hi lo n).time = d.time := Dev.wr_time d a _
@[simp] theorem Dev.fset_lanes (a hi lo n : Nat) : (d.fset a hi lo n).lanes = d.lanes := Dev.wr_lanes d a _
@[simp] theorem Dev.fset_link (a hi lo n : Nat) : (d.fset a hi lo n).link = d.link := Dev.wr_link d a _
@[simp] theorem Dev.fset_chisel (a hi lo n : Nat) : (d.fset a hi lo n).chisel = d.chisel := Dev.wr_chisel d a _
@[simp] theorem Dev.fset_beam (a hi lo n : Nat) : (d.fset a hi lo n).beam = d.beam := Dev.wr_beam d a _
@[simp] theorem Dev.fset_dpd (a hi lo n : Nat) : (d.fset a hi lo n).dpd = d.dpd := Dev.wr_dpd d a _
@[simp] theorem Dev.fset_cal (a hi lo n : Nat) : (d.fset a hi lo n).cal = d.cal := Dev.wr_cal d a _
@[simp] theorem Dev.fset_bias (a hi lo n : Nat) : (d.fset a hi lo n).bias = d.bias := Dev.wr_bias d a _
@[simp] theorem Dev.fset_sig (a hi lo n : Nat) : (d.fset a hi lo n).sig = d.sig := Dev.wr_sig d a _
@[simp] theorem Dev.fset_rises (a hi lo n : Nat) : (d.fset a hi lo n).rises = d.rises := Dev.wr_rises d a _
@[simp] theorem Dev.fset_same (a hi lo n : Nat) : (d.fset a hi lo n).same = d.same := Dev.wr_same d a _
@[simp] theorem Dev.fset_freeCtr (a hi lo n : Nat) : (d.fset a hi lo n).freeCtr = d.freeCtr := Dev.wr_freeCtr d a _

/-! ### countBy -/

@[simp] theorem Dev.countBy_inforce (a hi lo n : Nat) : (d.countBy a hi lo n).inforce = d.inforce := rfl
@[simp] theorem Dev.countBy_staged (a hi lo n : Nat) : (d.countBy a hi lo n).staged = d.staged := rfl
@[simp] theorem Dev.countBy_cad (a hi lo n : Nat) : (d.countBy a hi lo n).cad = d.cad := rfl
@[simp] theorem Dev.countBy_tiles (a hi lo n : Nat) : (d.countBy a hi lo n).tiles = d.tiles := rfl
@[simp] theorem Dev.countBy_paths (a hi lo n : Nat) : (d.countBy a hi lo n).paths = d.paths := rfl
@[simp] theorem Dev.countBy_relief (a hi lo n : Nat) : (d.countBy a hi lo n).relief = d.relief := rfl
@[simp] theorem Dev.countBy_sump (a hi lo n : Nat) : (d.countBy a hi lo n).sump = d.sump := rfl
@[simp] theorem Dev.countBy_spi (a hi lo n : Nat) : (d.countBy a hi lo n).spi = d.spi := rfl
@[simp] theorem Dev.countBy_derrick (a hi lo n : Nat) : (d.countBy a hi lo n).derrick = d.derrick := rfl
@[simp] theorem Dev.countBy_check (a hi lo n : Nat) : (d.countBy a hi lo n).check = d.check := rfl
@[simp] theorem Dev.countBy_power (a hi lo n : Nat) : (d.countBy a hi lo n).power = d.power := rfl
@[simp] theorem Dev.countBy_sec (a hi lo n : Nat) : (d.countBy a hi lo n).sec = d.sec := rfl
@[simp] theorem Dev.countBy_drunas (a hi lo n : Nat) : (d.countBy a hi lo n).drunas = d.drunas := rfl
@[simp] theorem Dev.countBy_time (a hi lo n : Nat) : (d.countBy a hi lo n).time = d.time := rfl
@[simp] theorem Dev.countBy_lanes (a hi lo n : Nat) : (d.countBy a hi lo n).lanes = d.lanes := rfl
@[simp] theorem Dev.countBy_link (a hi lo n : Nat) : (d.countBy a hi lo n).link = d.link := rfl
@[simp] theorem Dev.countBy_chisel (a hi lo n : Nat) : (d.countBy a hi lo n).chisel = d.chisel := rfl
@[simp] theorem Dev.countBy_beam (a hi lo n : Nat) : (d.countBy a hi lo n).beam = d.beam := rfl
@[simp] theorem Dev.countBy_dpd (a hi lo n : Nat) : (d.countBy a hi lo n).dpd = d.dpd := rfl
@[simp] theorem Dev.countBy_cal (a hi lo n : Nat) : (d.countBy a hi lo n).cal = d.cal := rfl
@[simp] theorem Dev.countBy_bias (a hi lo n : Nat) : (d.countBy a hi lo n).bias = d.bias := rfl
@[simp] theorem Dev.countBy_sig (a hi lo n : Nat) : (d.countBy a hi lo n).sig = d.sig := rfl
@[simp] theorem Dev.countBy_rises (a hi lo n : Nat) : (d.countBy a hi lo n).rises = d.rises := rfl
@[simp] theorem Dev.countBy_freeCtr (a hi lo n : Nat) : (d.countBy a hi lo n).freeCtr = d.freeCtr := rfl

/-! ### count -/

@[simp] theorem Dev.count_inforce (a hi lo : Nat) : (d.count a hi lo).inforce = d.inforce := rfl
@[simp] theorem Dev.count_staged (a hi lo : Nat) : (d.count a hi lo).staged = d.staged := rfl
@[simp] theorem Dev.count_cad (a hi lo : Nat) : (d.count a hi lo).cad = d.cad := rfl
@[simp] theorem Dev.count_tiles (a hi lo : Nat) : (d.count a hi lo).tiles = d.tiles := rfl
@[simp] theorem Dev.count_paths (a hi lo : Nat) : (d.count a hi lo).paths = d.paths := rfl
@[simp] theorem Dev.count_relief (a hi lo : Nat) : (d.count a hi lo).relief = d.relief := rfl
@[simp] theorem Dev.count_sump (a hi lo : Nat) : (d.count a hi lo).sump = d.sump := rfl
@[simp] theorem Dev.count_spi (a hi lo : Nat) : (d.count a hi lo).spi = d.spi := rfl
@[simp] theorem Dev.count_derrick (a hi lo : Nat) : (d.count a hi lo).derrick = d.derrick := rfl
@[simp] theorem Dev.count_check (a hi lo : Nat) : (d.count a hi lo).check = d.check := rfl
@[simp] theorem Dev.count_power (a hi lo : Nat) : (d.count a hi lo).power = d.power := rfl
@[simp] theorem Dev.count_sec (a hi lo : Nat) : (d.count a hi lo).sec = d.sec := rfl
@[simp] theorem Dev.count_drunas (a hi lo : Nat) : (d.count a hi lo).drunas = d.drunas := rfl
@[simp] theorem Dev.count_time (a hi lo : Nat) : (d.count a hi lo).time = d.time := rfl
@[simp] theorem Dev.count_lanes (a hi lo : Nat) : (d.count a hi lo).lanes = d.lanes := rfl
@[simp] theorem Dev.count_link (a hi lo : Nat) : (d.count a hi lo).link = d.link := rfl
@[simp] theorem Dev.count_chisel (a hi lo : Nat) : (d.count a hi lo).chisel = d.chisel := rfl
@[simp] theorem Dev.count_beam (a hi lo : Nat) : (d.count a hi lo).beam = d.beam := rfl
@[simp] theorem Dev.count_dpd (a hi lo : Nat) : (d.count a hi lo).dpd = d.dpd := rfl
@[simp] theorem Dev.count_cal (a hi lo : Nat) : (d.count a hi lo).cal = d.cal := rfl
@[simp] theorem Dev.count_bias (a hi lo : Nat) : (d.count a hi lo).bias = d.bias := rfl
@[simp] theorem Dev.count_sig (a hi lo : Nat) : (d.count a hi lo).sig = d.sig := rfl
@[simp] theorem Dev.count_rises (a hi lo : Nat) : (d.count a hi lo).rises = d.rises := rfl
@[simp] theorem Dev.count_freeCtr (a hi lo : Nat) : (d.count a hi lo).freeCtr = d.freeCtr := rfl

/-! ### count32 -/

@[simp] theorem Dev.count32_inforce (a : Nat) : (d.count32 a).inforce = d.inforce := Dev.count_inforce d a 31 0
@[simp] theorem Dev.count32_staged (a : Nat) : (d.count32 a).staged = d.staged := Dev.count_staged d a 31 0
@[simp] theorem Dev.count32_cad (a : Nat) : (d.count32 a).cad = d.cad := Dev.count_cad d a 31 0
@[simp] theorem Dev.count32_tiles (a : Nat) : (d.count32 a).tiles = d.tiles := Dev.count_tiles d a 31 0
@[simp] theorem Dev.count32_paths (a : Nat) : (d.count32 a).paths = d.paths := Dev.count_paths d a 31 0
@[simp] theorem Dev.count32_relief (a : Nat) : (d.count32 a).relief = d.relief := Dev.count_relief d a 31 0
@[simp] theorem Dev.count32_sump (a : Nat) : (d.count32 a).sump = d.sump := Dev.count_sump d a 31 0
@[simp] theorem Dev.count32_spi (a : Nat) : (d.count32 a).spi = d.spi := Dev.count_spi d a 31 0
@[simp] theorem Dev.count32_derrick (a : Nat) : (d.count32 a).derrick = d.derrick := Dev.count_derrick d a 31 0
@[simp] theorem Dev.count32_check (a : Nat) : (d.count32 a).check = d.check := Dev.count_check d a 31 0
@[simp] theorem Dev.count32_power (a : Nat) : (d.count32 a).power = d.power := Dev.count_power d a 31 0
@[simp] theorem Dev.count32_sec (a : Nat) : (d.count32 a).sec = d.sec := Dev.count_sec d a 31 0
@[simp] theorem Dev.count32_drunas (a : Nat) : (d.count32 a).drunas = d.drunas := Dev.count_drunas d a 31 0
@[simp] theorem Dev.count32_time (a : Nat) : (d.count32 a).time = d.time := Dev.count_time d a 31 0
@[simp] theorem Dev.count32_lanes (a : Nat) : (d.count32 a).lanes = d.lanes := Dev.count_lanes d a 31 0
@[simp] theorem Dev.count32_link (a : Nat) : (d.count32 a).link = d.link := Dev.count_link d a 31 0
@[simp] theorem Dev.count32_chisel (a : Nat) : (d.count32 a).chisel = d.chisel := Dev.count_chisel d a 31 0
@[simp] theorem Dev.count32_beam (a : Nat) : (d.count32 a).beam = d.beam := Dev.count_beam d a 31 0
@[simp] theorem Dev.count32_dpd (a : Nat) : (d.count32 a).dpd = d.dpd := Dev.count_dpd d a 31 0
@[simp] theorem Dev.count32_cal (a : Nat) : (d.count32 a).cal = d.cal := Dev.count_cal d a 31 0
@[simp] theorem Dev.count32_bias (a : Nat) : (d.count32 a).bias = d.bias := Dev.count_bias d a 31 0
@[simp] theorem Dev.count32_sig (a : Nat) : (d.count32 a).sig = d.sig := Dev.count_sig d a 31 0
@[simp] theorem Dev.count32_rises (a : Nat) : (d.count32 a).rises = d.rises := Dev.count_rises d a 31 0
@[simp] theorem Dev.count32_freeCtr (a : Nat) : (d.count32 a).freeCtr = d.freeCtr := Dev.count_freeCtr d a 31 0

/-! ### noteSet -/

@[simp] theorem Dev.noteSet_regs (a : Nat) (m : Word) : (d.noteSet a m).regs = d.regs := rfl
@[simp] theorem Dev.noteSet_inforce (a : Nat) (m : Word) : (d.noteSet a m).inforce = d.inforce := rfl
@[simp] theorem Dev.noteSet_staged (a : Nat) (m : Word) : (d.noteSet a m).staged = d.staged := rfl
@[simp] theorem Dev.noteSet_cad (a : Nat) (m : Word) : (d.noteSet a m).cad = d.cad := rfl
@[simp] theorem Dev.noteSet_tiles (a : Nat) (m : Word) : (d.noteSet a m).tiles = d.tiles := rfl
@[simp] theorem Dev.noteSet_paths (a : Nat) (m : Word) : (d.noteSet a m).paths = d.paths := rfl
@[simp] theorem Dev.noteSet_relief (a : Nat) (m : Word) : (d.noteSet a m).relief = d.relief := rfl
@[simp] theorem Dev.noteSet_sump (a : Nat) (m : Word) : (d.noteSet a m).sump = d.sump := rfl
@[simp] theorem Dev.noteSet_spi (a : Nat) (m : Word) : (d.noteSet a m).spi = d.spi := rfl
@[simp] theorem Dev.noteSet_derrick (a : Nat) (m : Word) : (d.noteSet a m).derrick = d.derrick := rfl
@[simp] theorem Dev.noteSet_check (a : Nat) (m : Word) : (d.noteSet a m).check = d.check := rfl
@[simp] theorem Dev.noteSet_power (a : Nat) (m : Word) : (d.noteSet a m).power = d.power := rfl
@[simp] theorem Dev.noteSet_sec (a : Nat) (m : Word) : (d.noteSet a m).sec = d.sec := rfl
@[simp] theorem Dev.noteSet_drunas (a : Nat) (m : Word) : (d.noteSet a m).drunas = d.drunas := rfl
@[simp] theorem Dev.noteSet_time (a : Nat) (m : Word) : (d.noteSet a m).time = d.time := rfl
@[simp] theorem Dev.noteSet_lanes (a : Nat) (m : Word) : (d.noteSet a m).lanes = d.lanes := rfl
@[simp] theorem Dev.noteSet_link (a : Nat) (m : Word) : (d.noteSet a m).link = d.link := rfl
@[simp] theorem Dev.noteSet_chisel (a : Nat) (m : Word) : (d.noteSet a m).chisel = d.chisel := rfl
@[simp] theorem Dev.noteSet_beam (a : Nat) (m : Word) : (d.noteSet a m).beam = d.beam := rfl
@[simp] theorem Dev.noteSet_dpd (a : Nat) (m : Word) : (d.noteSet a m).dpd = d.dpd := rfl
@[simp] theorem Dev.noteSet_cal (a : Nat) (m : Word) : (d.noteSet a m).cal = d.cal := rfl
@[simp] theorem Dev.noteSet_bias (a : Nat) (m : Word) : (d.noteSet a m).bias = d.bias := rfl
@[simp] theorem Dev.noteSet_sig (a : Nat) (m : Word) : (d.noteSet a m).sig = d.sig := rfl
@[simp] theorem Dev.noteSet_rises (a : Nat) (m : Word) : (d.noteSet a m).rises = d.rises := rfl
@[simp] theorem Dev.noteSet_freeCtr (a : Nat) (m : Word) : (d.noteSet a m).freeCtr = d.freeCtr := rfl

/-! ### noteCount -/

@[simp] theorem Dev.noteCount_regs (a lo n : Nat) : (d.noteCount a lo n).regs = d.regs := rfl
@[simp] theorem Dev.noteCount_inforce (a lo n : Nat) : (d.noteCount a lo n).inforce = d.inforce := rfl
@[simp] theorem Dev.noteCount_staged (a lo n : Nat) : (d.noteCount a lo n).staged = d.staged := rfl
@[simp] theorem Dev.noteCount_cad (a lo n : Nat) : (d.noteCount a lo n).cad = d.cad := rfl
@[simp] theorem Dev.noteCount_tiles (a lo n : Nat) : (d.noteCount a lo n).tiles = d.tiles := rfl
@[simp] theorem Dev.noteCount_paths (a lo n : Nat) : (d.noteCount a lo n).paths = d.paths := rfl
@[simp] theorem Dev.noteCount_relief (a lo n : Nat) : (d.noteCount a lo n).relief = d.relief := rfl
@[simp] theorem Dev.noteCount_sump (a lo n : Nat) : (d.noteCount a lo n).sump = d.sump := rfl
@[simp] theorem Dev.noteCount_spi (a lo n : Nat) : (d.noteCount a lo n).spi = d.spi := rfl
@[simp] theorem Dev.noteCount_derrick (a lo n : Nat) : (d.noteCount a lo n).derrick = d.derrick := rfl
@[simp] theorem Dev.noteCount_check (a lo n : Nat) : (d.noteCount a lo n).check = d.check := rfl
@[simp] theorem Dev.noteCount_power (a lo n : Nat) : (d.noteCount a lo n).power = d.power := rfl
@[simp] theorem Dev.noteCount_sec (a lo n : Nat) : (d.noteCount a lo n).sec = d.sec := rfl
@[simp] theorem Dev.noteCount_drunas (a lo n : Nat) : (d.noteCount a lo n).drunas = d.drunas := rfl
@[simp] theorem Dev.noteCount_time (a lo n : Nat) : (d.noteCount a lo n).time = d.time := rfl
@[simp] theorem Dev.noteCount_lanes (a lo n : Nat) : (d.noteCount a lo n).lanes = d.lanes := rfl
@[simp] theorem Dev.noteCount_link (a lo n : Nat) : (d.noteCount a lo n).link = d.link := rfl
@[simp] theorem Dev.noteCount_chisel (a lo n : Nat) : (d.noteCount a lo n).chisel = d.chisel := rfl
@[simp] theorem Dev.noteCount_beam (a lo n : Nat) : (d.noteCount a lo n).beam = d.beam := rfl
@[simp] theorem Dev.noteCount_dpd (a lo n : Nat) : (d.noteCount a lo n).dpd = d.dpd := rfl
@[simp] theorem Dev.noteCount_cal (a lo n : Nat) : (d.noteCount a lo n).cal = d.cal := rfl
@[simp] theorem Dev.noteCount_bias (a lo n : Nat) : (d.noteCount a lo n).bias = d.bias := rfl
@[simp] theorem Dev.noteCount_sig (a lo n : Nat) : (d.noteCount a lo n).sig = d.sig := rfl
@[simp] theorem Dev.noteCount_rises (a lo n : Nat) : (d.noteCount a lo n).rises = d.rises := rfl
@[simp] theorem Dev.noteCount_freeCtr (a lo n : Nat) : (d.noteCount a lo n).freeCtr = d.freeCtr := rfl

/-! ### noteWrite -/

@[simp] theorem Dev.noteWrite_regs (a rank : Nat) : (d.noteWrite a rank).regs = d.regs := rfl
@[simp] theorem Dev.noteWrite_inforce (a rank : Nat) : (d.noteWrite a rank).inforce = d.inforce := rfl
@[simp] theorem Dev.noteWrite_staged (a rank : Nat) : (d.noteWrite a rank).staged = d.staged := rfl
@[simp] theorem Dev.noteWrite_cad (a rank : Nat) : (d.noteWrite a rank).cad = d.cad := rfl
@[simp] theorem Dev.noteWrite_tiles (a rank : Nat) : (d.noteWrite a rank).tiles = d.tiles := rfl
@[simp] theorem Dev.noteWrite_paths (a rank : Nat) : (d.noteWrite a rank).paths = d.paths := rfl
@[simp] theorem Dev.noteWrite_relief (a rank : Nat) : (d.noteWrite a rank).relief = d.relief := rfl
@[simp] theorem Dev.noteWrite_sump (a rank : Nat) : (d.noteWrite a rank).sump = d.sump := rfl
@[simp] theorem Dev.noteWrite_spi (a rank : Nat) : (d.noteWrite a rank).spi = d.spi := rfl
@[simp] theorem Dev.noteWrite_derrick (a rank : Nat) : (d.noteWrite a rank).derrick = d.derrick := rfl
@[simp] theorem Dev.noteWrite_check (a rank : Nat) : (d.noteWrite a rank).check = d.check := rfl
@[simp] theorem Dev.noteWrite_power (a rank : Nat) : (d.noteWrite a rank).power = d.power := rfl
@[simp] theorem Dev.noteWrite_sec (a rank : Nat) : (d.noteWrite a rank).sec = d.sec := rfl
@[simp] theorem Dev.noteWrite_drunas (a rank : Nat) : (d.noteWrite a rank).drunas = d.drunas := rfl
@[simp] theorem Dev.noteWrite_time (a rank : Nat) : (d.noteWrite a rank).time = d.time := rfl
@[simp] theorem Dev.noteWrite_lanes (a rank : Nat) : (d.noteWrite a rank).lanes = d.lanes := rfl
@[simp] theorem Dev.noteWrite_link (a rank : Nat) : (d.noteWrite a rank).link = d.link := rfl
@[simp] theorem Dev.noteWrite_chisel (a rank : Nat) : (d.noteWrite a rank).chisel = d.chisel := rfl
@[simp] theorem Dev.noteWrite_beam (a rank : Nat) : (d.noteWrite a rank).beam = d.beam := rfl
@[simp] theorem Dev.noteWrite_dpd (a rank : Nat) : (d.noteWrite a rank).dpd = d.dpd := rfl
@[simp] theorem Dev.noteWrite_cal (a rank : Nat) : (d.noteWrite a rank).cal = d.cal := rfl
@[simp] theorem Dev.noteWrite_bias (a rank : Nat) : (d.noteWrite a rank).bias = d.bias := rfl
@[simp] theorem Dev.noteWrite_sig (a rank : Nat) : (d.noteWrite a rank).sig = d.sig := rfl
@[simp] theorem Dev.noteWrite_rises (a rank : Nat) : (d.noteWrite a rank).rises = d.rises := rfl
@[simp] theorem Dev.noteWrite_freeCtr (a rank : Nat) : (d.noteWrite a rank).freeCtr = d.freeCtr := rfl

/-! ### setInf -/

@[simp] theorem Dev.setInf_regs (a : Nat) (w m : Word) : (d.setInf a w m).regs = d.regs := rfl
@[simp] theorem Dev.setInf_staged (a : Nat) (w m : Word) : (d.setInf a w m).staged = d.staged := rfl
@[simp] theorem Dev.setInf_cad (a : Nat) (w m : Word) : (d.setInf a w m).cad = d.cad := rfl
@[simp] theorem Dev.setInf_tiles (a : Nat) (w m : Word) : (d.setInf a w m).tiles = d.tiles := rfl
@[simp] theorem Dev.setInf_paths (a : Nat) (w m : Word) : (d.setInf a w m).paths = d.paths := rfl
@[simp] theorem Dev.setInf_relief (a : Nat) (w m : Word) : (d.setInf a w m).relief = d.relief := rfl
@[simp] theorem Dev.setInf_sump (a : Nat) (w m : Word) : (d.setInf a w m).sump = d.sump := rfl
@[simp] theorem Dev.setInf_spi (a : Nat) (w m : Word) : (d.setInf a w m).spi = d.spi := rfl
@[simp] theorem Dev.setInf_derrick (a : Nat) (w m : Word) : (d.setInf a w m).derrick = d.derrick := rfl
@[simp] theorem Dev.setInf_check (a : Nat) (w m : Word) : (d.setInf a w m).check = d.check := rfl
@[simp] theorem Dev.setInf_power (a : Nat) (w m : Word) : (d.setInf a w m).power = d.power := rfl
@[simp] theorem Dev.setInf_sec (a : Nat) (w m : Word) : (d.setInf a w m).sec = d.sec := rfl
@[simp] theorem Dev.setInf_drunas (a : Nat) (w m : Word) : (d.setInf a w m).drunas = d.drunas := rfl
@[simp] theorem Dev.setInf_time (a : Nat) (w m : Word) : (d.setInf a w m).time = d.time := rfl
@[simp] theorem Dev.setInf_lanes (a : Nat) (w m : Word) : (d.setInf a w m).lanes = d.lanes := rfl
@[simp] theorem Dev.setInf_link (a : Nat) (w m : Word) : (d.setInf a w m).link = d.link := rfl
@[simp] theorem Dev.setInf_chisel (a : Nat) (w m : Word) : (d.setInf a w m).chisel = d.chisel := rfl
@[simp] theorem Dev.setInf_beam (a : Nat) (w m : Word) : (d.setInf a w m).beam = d.beam := rfl
@[simp] theorem Dev.setInf_dpd (a : Nat) (w m : Word) : (d.setInf a w m).dpd = d.dpd := rfl
@[simp] theorem Dev.setInf_cal (a : Nat) (w m : Word) : (d.setInf a w m).cal = d.cal := rfl
@[simp] theorem Dev.setInf_bias (a : Nat) (w m : Word) : (d.setInf a w m).bias = d.bias := rfl
@[simp] theorem Dev.setInf_sig (a : Nat) (w m : Word) : (d.setInf a w m).sig = d.sig := rfl
@[simp] theorem Dev.setInf_rises (a : Nat) (w m : Word) : (d.setInf a w m).rises = d.rises := rfl
@[simp] theorem Dev.setInf_same (a : Nat) (w m : Word) : (d.setInf a w m).same = d.same := rfl
@[simp] theorem Dev.setInf_freeCtr (a : Nat) (w m : Word) : (d.setInf a w m).freeCtr = d.freeCtr := rfl

/-! ### stage -/

@[simp] theorem Dev.stage_regs (a : Nat) (w : Word) : (d.stage a w).regs = d.regs := rfl
@[simp] theorem Dev.stage_inforce (a : Nat) (w : Word) : (d.stage a w).inforce = d.inforce := rfl
@[simp] theorem Dev.stage_cad (a : Nat) (w : Word) : (d.stage a w).cad = d.cad := rfl
@[simp] theorem Dev.stage_tiles (a : Nat) (w : Word) : (d.stage a w).tiles = d.tiles := rfl
@[simp] theorem Dev.stage_paths (a : Nat) (w : Word) : (d.stage a w).paths = d.paths := rfl
@[simp] theorem Dev.stage_relief (a : Nat) (w : Word) : (d.stage a w).relief = d.relief := rfl
@[simp] theorem Dev.stage_sump (a : Nat) (w : Word) : (d.stage a w).sump = d.sump := rfl
@[simp] theorem Dev.stage_spi (a : Nat) (w : Word) : (d.stage a w).spi = d.spi := rfl
@[simp] theorem Dev.stage_derrick (a : Nat) (w : Word) : (d.stage a w).derrick = d.derrick := rfl
@[simp] theorem Dev.stage_check (a : Nat) (w : Word) : (d.stage a w).check = d.check := rfl
@[simp] theorem Dev.stage_power (a : Nat) (w : Word) : (d.stage a w).power = d.power := rfl
@[simp] theorem Dev.stage_sec (a : Nat) (w : Word) : (d.stage a w).sec = d.sec := rfl
@[simp] theorem Dev.stage_drunas (a : Nat) (w : Word) : (d.stage a w).drunas = d.drunas := rfl
@[simp] theorem Dev.stage_time (a : Nat) (w : Word) : (d.stage a w).time = d.time := rfl
@[simp] theorem Dev.stage_lanes (a : Nat) (w : Word) : (d.stage a w).lanes = d.lanes := rfl
@[simp] theorem Dev.stage_link (a : Nat) (w : Word) : (d.stage a w).link = d.link := rfl
@[simp] theorem Dev.stage_chisel (a : Nat) (w : Word) : (d.stage a w).chisel = d.chisel := rfl
@[simp] theorem Dev.stage_beam (a : Nat) (w : Word) : (d.stage a w).beam = d.beam := rfl
@[simp] theorem Dev.stage_dpd (a : Nat) (w : Word) : (d.stage a w).dpd = d.dpd := rfl
@[simp] theorem Dev.stage_cal (a : Nat) (w : Word) : (d.stage a w).cal = d.cal := rfl
@[simp] theorem Dev.stage_bias (a : Nat) (w : Word) : (d.stage a w).bias = d.bias := rfl
@[simp] theorem Dev.stage_sig (a : Nat) (w : Word) : (d.stage a w).sig = d.sig := rfl
@[simp] theorem Dev.stage_rises (a : Nat) (w : Word) : (d.stage a w).rises = d.rises := rfl
@[simp] theorem Dev.stage_same (a : Nat) (w : Word) : (d.stage a w).same = d.same := rfl
@[simp] theorem Dev.stage_freeCtr (a : Nat) (w : Word) : (d.stage a w).freeCtr = d.freeCtr := rfl

/-! ### drew -/

@[simp] theorem Dev.drew_regs : (d.drew ).regs = d.regs := rfl
@[simp] theorem Dev.drew_inforce : (d.drew ).inforce = d.inforce := rfl
@[simp] theorem Dev.drew_staged : (d.drew ).staged = d.staged := rfl
@[simp] theorem Dev.drew_cad : (d.drew ).cad = d.cad := rfl
@[simp] theorem Dev.drew_tiles : (d.drew ).tiles = d.tiles := rfl
@[simp] theorem Dev.drew_paths : (d.drew ).paths = d.paths := rfl
@[simp] theorem Dev.drew_relief : (d.drew ).relief = d.relief := rfl
@[simp] theorem Dev.drew_sump : (d.drew ).sump = d.sump := rfl
@[simp] theorem Dev.drew_spi : (d.drew ).spi = d.spi := rfl
@[simp] theorem Dev.drew_derrick : (d.drew ).derrick = d.derrick := rfl
@[simp] theorem Dev.drew_check : (d.drew ).check = d.check := rfl
@[simp] theorem Dev.drew_power : (d.drew ).power = d.power := rfl
@[simp] theorem Dev.drew_sec : (d.drew ).sec = d.sec := rfl
@[simp] theorem Dev.drew_drunas : (d.drew ).drunas = d.drunas := rfl
@[simp] theorem Dev.drew_time : (d.drew ).time = d.time := rfl
@[simp] theorem Dev.drew_lanes : (d.drew ).lanes = d.lanes := rfl
@[simp] theorem Dev.drew_link : (d.drew ).link = d.link := rfl
@[simp] theorem Dev.drew_chisel : (d.drew ).chisel = d.chisel := rfl
@[simp] theorem Dev.drew_beam : (d.drew ).beam = d.beam := rfl
@[simp] theorem Dev.drew_dpd : (d.drew ).dpd = d.dpd := rfl
@[simp] theorem Dev.drew_cal : (d.drew ).cal = d.cal := rfl
@[simp] theorem Dev.drew_bias : (d.drew ).bias = d.bias := rfl
@[simp] theorem Dev.drew_sig : (d.drew ).sig = d.sig := rfl
@[simp] theorem Dev.drew_rises : (d.drew ).rises = d.rises := rfl
@[simp] theorem Dev.drew_same : (d.drew ).same = d.same := rfl

/-! ### passCycles -/

@[simp] theorem Dev.passCycles_regs (n : Nat) : (d.passCycles n).regs = d.regs := rfl
@[simp] theorem Dev.passCycles_inforce (n : Nat) : (d.passCycles n).inforce = d.inforce := rfl
@[simp] theorem Dev.passCycles_staged (n : Nat) : (d.passCycles n).staged = d.staged := rfl
@[simp] theorem Dev.passCycles_tiles (n : Nat) : (d.passCycles n).tiles = d.tiles := rfl
@[simp] theorem Dev.passCycles_paths (n : Nat) : (d.passCycles n).paths = d.paths := rfl
@[simp] theorem Dev.passCycles_relief (n : Nat) : (d.passCycles n).relief = d.relief := rfl
@[simp] theorem Dev.passCycles_sump (n : Nat) : (d.passCycles n).sump = d.sump := rfl
@[simp] theorem Dev.passCycles_spi (n : Nat) : (d.passCycles n).spi = d.spi := rfl
@[simp] theorem Dev.passCycles_derrick (n : Nat) : (d.passCycles n).derrick = d.derrick := rfl
@[simp] theorem Dev.passCycles_check (n : Nat) : (d.passCycles n).check = d.check := rfl
@[simp] theorem Dev.passCycles_power (n : Nat) : (d.passCycles n).power = d.power := rfl
@[simp] theorem Dev.passCycles_sec (n : Nat) : (d.passCycles n).sec = d.sec := rfl
@[simp] theorem Dev.passCycles_drunas (n : Nat) : (d.passCycles n).drunas = d.drunas := rfl
@[simp] theorem Dev.passCycles_lanes (n : Nat) : (d.passCycles n).lanes = d.lanes := rfl
@[simp] theorem Dev.passCycles_link (n : Nat) : (d.passCycles n).link = d.link := rfl
@[simp] theorem Dev.passCycles_chisel (n : Nat) : (d.passCycles n).chisel = d.chisel := rfl
@[simp] theorem Dev.passCycles_beam (n : Nat) : (d.passCycles n).beam = d.beam := rfl
@[simp] theorem Dev.passCycles_dpd (n : Nat) : (d.passCycles n).dpd = d.dpd := rfl
@[simp] theorem Dev.passCycles_cal (n : Nat) : (d.passCycles n).cal = d.cal := rfl
@[simp] theorem Dev.passCycles_bias (n : Nat) : (d.passCycles n).bias = d.bias := rfl
@[simp] theorem Dev.passCycles_sig (n : Nat) : (d.passCycles n).sig = d.sig := rfl
@[simp] theorem Dev.passCycles_rises (n : Nat) : (d.passCycles n).rises = d.rises := rfl
@[simp] theorem Dev.passCycles_same (n : Nat) : (d.passCycles n).same = d.same := rfl
@[simp] theorem Dev.passCycles_freeCtr (n : Nat) : (d.passCycles n).freeCtr = d.freeCtr := rfl

/-! ### commitAt -/

@[simp] theorem Dev.commitAt_regs (c : Committer) (k : Setting) (ws : List (Nat × Word × Word)) (l n : Nat) : (d.commitAt c k ws l n).regs = d.regs := rfl
@[simp] theorem Dev.commitAt_inforce (c : Committer) (k : Setting) (ws : List (Nat × Word × Word)) (l n : Nat) : (d.commitAt c k ws l n).inforce = d.inforce := rfl
@[simp] theorem Dev.commitAt_staged (c : Committer) (k : Setting) (ws : List (Nat × Word × Word)) (l n : Nat) : (d.commitAt c k ws l n).staged = d.staged := rfl
@[simp] theorem Dev.commitAt_tiles (c : Committer) (k : Setting) (ws : List (Nat × Word × Word)) (l n : Nat) : (d.commitAt c k ws l n).tiles = d.tiles := rfl
@[simp] theorem Dev.commitAt_paths (c : Committer) (k : Setting) (ws : List (Nat × Word × Word)) (l n : Nat) : (d.commitAt c k ws l n).paths = d.paths := rfl
@[simp] theorem Dev.commitAt_relief (c : Committer) (k : Setting) (ws : List (Nat × Word × Word)) (l n : Nat) : (d.commitAt c k ws l n).relief = d.relief := rfl
@[simp] theorem Dev.commitAt_sump (c : Committer) (k : Setting) (ws : List (Nat × Word × Word)) (l n : Nat) : (d.commitAt c k ws l n).sump = d.sump := rfl
@[simp] theorem Dev.commitAt_spi (c : Committer) (k : Setting) (ws : List (Nat × Word × Word)) (l n : Nat) : (d.commitAt c k ws l n).spi = d.spi := rfl
@[simp] theorem Dev.commitAt_derrick (c : Committer) (k : Setting) (ws : List (Nat × Word × Word)) (l n : Nat) : (d.commitAt c k ws l n).derrick = d.derrick := rfl
@[simp] theorem Dev.commitAt_check (c : Committer) (k : Setting) (ws : List (Nat × Word × Word)) (l n : Nat) : (d.commitAt c k ws l n).check = d.check := rfl
@[simp] theorem Dev.commitAt_power (c : Committer) (k : Setting) (ws : List (Nat × Word × Word)) (l n : Nat) : (d.commitAt c k ws l n).power = d.power := rfl
@[simp] theorem Dev.commitAt_sec (c : Committer) (k : Setting) (ws : List (Nat × Word × Word)) (l n : Nat) : (d.commitAt c k ws l n).sec = d.sec := rfl
@[simp] theorem Dev.commitAt_drunas (c : Committer) (k : Setting) (ws : List (Nat × Word × Word)) (l n : Nat) : (d.commitAt c k ws l n).drunas = d.drunas := rfl
@[simp] theorem Dev.commitAt_time (c : Committer) (k : Setting) (ws : List (Nat × Word × Word)) (l n : Nat) : (d.commitAt c k ws l n).time = d.time := rfl
@[simp] theorem Dev.commitAt_lanes (c : Committer) (k : Setting) (ws : List (Nat × Word × Word)) (l n : Nat) : (d.commitAt c k ws l n).lanes = d.lanes := rfl
@[simp] theorem Dev.commitAt_link (c : Committer) (k : Setting) (ws : List (Nat × Word × Word)) (l n : Nat) : (d.commitAt c k ws l n).link = d.link := rfl
@[simp] theorem Dev.commitAt_chisel (c : Committer) (k : Setting) (ws : List (Nat × Word × Word)) (l n : Nat) : (d.commitAt c k ws l n).chisel = d.chisel := rfl
@[simp] theorem Dev.commitAt_beam (c : Committer) (k : Setting) (ws : List (Nat × Word × Word)) (l n : Nat) : (d.commitAt c k ws l n).beam = d.beam := rfl
@[simp] theorem Dev.commitAt_dpd (c : Committer) (k : Setting) (ws : List (Nat × Word × Word)) (l n : Nat) : (d.commitAt c k ws l n).dpd = d.dpd := rfl
@[simp] theorem Dev.commitAt_cal (c : Committer) (k : Setting) (ws : List (Nat × Word × Word)) (l n : Nat) : (d.commitAt c k ws l n).cal = d.cal := rfl
@[simp] theorem Dev.commitAt_bias (c : Committer) (k : Setting) (ws : List (Nat × Word × Word)) (l n : Nat) : (d.commitAt c k ws l n).bias = d.bias := rfl
@[simp] theorem Dev.commitAt_sig (c : Committer) (k : Setting) (ws : List (Nat × Word × Word)) (l n : Nat) : (d.commitAt c k ws l n).sig = d.sig := rfl
@[simp] theorem Dev.commitAt_rises (c : Committer) (k : Setting) (ws : List (Nat × Word × Word)) (l n : Nat) : (d.commitAt c k ws l n).rises = d.rises := rfl
@[simp] theorem Dev.commitAt_same (c : Committer) (k : Setting) (ws : List (Nat × Word × Word)) (l n : Nat) : (d.commitAt c k ws l n).same = d.same := rfl
@[simp] theorem Dev.commitAt_freeCtr (c : Committer) (k : Setting) (ws : List (Nat × Word × Word)) (l n : Nat) : (d.commitAt c k ws l n).freeCtr = d.freeCtr := rfl

/-! ### commit -/

@[simp] theorem Dev.commit_regs (c : Committer) (k : Setting) (ws : List (Nat × Word × Word)) (n : Nat) : (d.commit c k ws n).regs = d.regs := rfl
@[simp] theorem Dev.commit_inforce (c : Committer) (k : Setting) (ws : List (Nat × Word × Word)) (n : Nat) : (d.commit c k ws n).inforce = d.inforce := rfl
@[simp] theorem Dev.commit_staged (c : Committer) (k : Setting) (ws : List (Nat × Word × Word)) (n : Nat) : (d.commit c k ws n).staged = d.staged := rfl
@[simp] theorem Dev.commit_tiles (c : Committer) (k : Setting) (ws : List (Nat × Word × Word)) (n : Nat) : (d.commit c k ws n).tiles = d.tiles := rfl
@[simp] theorem Dev.commit_paths (c : Committer) (k : Setting) (ws : List (Nat × Word × Word)) (n : Nat) : (d.commit c k ws n).paths = d.paths := rfl
@[simp] theorem Dev.commit_relief (c : Committer) (k : Setting) (ws : List (Nat × Word × Word)) (n : Nat) : (d.commit c k ws n).relief = d.relief := rfl
@[simp] theorem Dev.commit_sump (c : Committer) (k : Setting) (ws : List (Nat × Word × Word)) (n : Nat) : (d.commit c k ws n).sump = d.sump := rfl
@[simp] theorem Dev.commit_spi (c : Committer) (k : Setting) (ws : List (Nat × Word × Word)) (n : Nat) : (d.commit c k ws n).spi = d.spi := rfl
@[simp] theorem Dev.commit_derrick (c : Committer) (k : Setting) (ws : List (Nat × Word × Word)) (n : Nat) : (d.commit c k ws n).derrick = d.derrick := rfl
@[simp] theorem Dev.commit_check (c : Committer) (k : Setting) (ws : List (Nat × Word × Word)) (n : Nat) : (d.commit c k ws n).check = d.check := rfl
@[simp] theorem Dev.commit_power (c : Committer) (k : Setting) (ws : List (Nat × Word × Word)) (n : Nat) : (d.commit c k ws n).power = d.power := rfl
@[simp] theorem Dev.commit_sec (c : Committer) (k : Setting) (ws : List (Nat × Word × Word)) (n : Nat) : (d.commit c k ws n).sec = d.sec := rfl
@[simp] theorem Dev.commit_drunas (c : Committer) (k : Setting) (ws : List (Nat × Word × Word)) (n : Nat) : (d.commit c k ws n).drunas = d.drunas := rfl
@[simp] theorem Dev.commit_time (c : Committer) (k : Setting) (ws : List (Nat × Word × Word)) (n : Nat) : (d.commit c k ws n).time = d.time := rfl
@[simp] theorem Dev.commit_lanes (c : Committer) (k : Setting) (ws : List (Nat × Word × Word)) (n : Nat) : (d.commit c k ws n).lanes = d.lanes := rfl
@[simp] theorem Dev.commit_link (c : Committer) (k : Setting) (ws : List (Nat × Word × Word)) (n : Nat) : (d.commit c k ws n).link = d.link := rfl
@[simp] theorem Dev.commit_chisel (c : Committer) (k : Setting) (ws : List (Nat × Word × Word)) (n : Nat) : (d.commit c k ws n).chisel = d.chisel := rfl
@[simp] theorem Dev.commit_beam (c : Committer) (k : Setting) (ws : List (Nat × Word × Word)) (n : Nat) : (d.commit c k ws n).beam = d.beam := rfl
@[simp] theorem Dev.commit_dpd (c : Committer) (k : Setting) (ws : List (Nat × Word × Word)) (n : Nat) : (d.commit c k ws n).dpd = d.dpd := rfl
@[simp] theorem Dev.commit_cal (c : Committer) (k : Setting) (ws : List (Nat × Word × Word)) (n : Nat) : (d.commit c k ws n).cal = d.cal := rfl
@[simp] theorem Dev.commit_bias (c : Committer) (k : Setting) (ws : List (Nat × Word × Word)) (n : Nat) : (d.commit c k ws n).bias = d.bias := rfl
@[simp] theorem Dev.commit_sig (c : Committer) (k : Setting) (ws : List (Nat × Word × Word)) (n : Nat) : (d.commit c k ws n).sig = d.sig := rfl
@[simp] theorem Dev.commit_rises (c : Committer) (k : Setting) (ws : List (Nat × Word × Word)) (n : Nat) : (d.commit c k ws n).rises = d.rises := rfl
@[simp] theorem Dev.commit_same (c : Committer) (k : Setting) (ws : List (Nat × Word × Word)) (n : Nat) : (d.commit c k ws n).same = d.same := rfl
@[simp] theorem Dev.commit_freeCtr (c : Committer) (k : Setting) (ws : List (Nat × Word × Word)) (n : Nat) : (d.commit c k ws n).freeCtr = d.freeCtr := rfl

/-! ### commitFrame -/

@[simp] theorem Dev.commitFrame_regs (c : Committer) (k : Setting) (ws : List (Nat × Word × Word)) : (d.commitFrame c k ws).regs = d.regs := rfl
@[simp] theorem Dev.commitFrame_inforce (c : Committer) (k : Setting) (ws : List (Nat × Word × Word)) : (d.commitFrame c k ws).inforce = d.inforce := rfl
@[simp] theorem Dev.commitFrame_staged (c : Committer) (k : Setting) (ws : List (Nat × Word × Word)) : (d.commitFrame c k ws).staged = d.staged := rfl
@[simp] theorem Dev.commitFrame_tiles (c : Committer) (k : Setting) (ws : List (Nat × Word × Word)) : (d.commitFrame c k ws).tiles = d.tiles := rfl
@[simp] theorem Dev.commitFrame_paths (c : Committer) (k : Setting) (ws : List (Nat × Word × Word)) : (d.commitFrame c k ws).paths = d.paths := rfl
@[simp] theorem Dev.commitFrame_relief (c : Committer) (k : Setting) (ws : List (Nat × Word × Word)) : (d.commitFrame c k ws).relief = d.relief := rfl
@[simp] theorem Dev.commitFrame_sump (c : Committer) (k : Setting) (ws : List (Nat × Word × Word)) : (d.commitFrame c k ws).sump = d.sump := rfl
@[simp] theorem Dev.commitFrame_spi (c : Committer) (k : Setting) (ws : List (Nat × Word × Word)) : (d.commitFrame c k ws).spi = d.spi := rfl
@[simp] theorem Dev.commitFrame_derrick (c : Committer) (k : Setting) (ws : List (Nat × Word × Word)) : (d.commitFrame c k ws).derrick = d.derrick := rfl
@[simp] theorem Dev.commitFrame_check (c : Committer) (k : Setting) (ws : List (Nat × Word × Word)) : (d.commitFrame c k ws).check = d.check := rfl
@[simp] theorem Dev.commitFrame_power (c : Committer) (k : Setting) (ws : List (Nat × Word × Word)) : (d.commitFrame c k ws).power = d.power := rfl
@[simp] theorem Dev.commitFrame_sec (c : Committer) (k : Setting) (ws : List (Nat × Word × Word)) : (d.commitFrame c k ws).sec = d.sec := rfl
@[simp] theorem Dev.commitFrame_drunas (c : Committer) (k : Setting) (ws : List (Nat × Word × Word)) : (d.commitFrame c k ws).drunas = d.drunas := rfl
@[simp] theorem Dev.commitFrame_time (c : Committer) (k : Setting) (ws : List (Nat × Word × Word)) : (d.commitFrame c k ws).time = d.time := rfl
@[simp] theorem Dev.commitFrame_lanes (c : Committer) (k : Setting) (ws : List (Nat × Word × Word)) : (d.commitFrame c k ws).lanes = d.lanes := rfl
@[simp] theorem Dev.commitFrame_link (c : Committer) (k : Setting) (ws : List (Nat × Word × Word)) : (d.commitFrame c k ws).link = d.link := rfl
@[simp] theorem Dev.commitFrame_chisel (c : Committer) (k : Setting) (ws : List (Nat × Word × Word)) : (d.commitFrame c k ws).chisel = d.chisel := rfl
@[simp] theorem Dev.commitFrame_beam (c : Committer) (k : Setting) (ws : List (Nat × Word × Word)) : (d.commitFrame c k ws).beam = d.beam := rfl
@[simp] theorem Dev.commitFrame_dpd (c : Committer) (k : Setting) (ws : List (Nat × Word × Word)) : (d.commitFrame c k ws).dpd = d.dpd := rfl
@[simp] theorem Dev.commitFrame_cal (c : Committer) (k : Setting) (ws : List (Nat × Word × Word)) : (d.commitFrame c k ws).cal = d.cal := rfl
@[simp] theorem Dev.commitFrame_bias (c : Committer) (k : Setting) (ws : List (Nat × Word × Word)) : (d.commitFrame c k ws).bias = d.bias := rfl
@[simp] theorem Dev.commitFrame_sig (c : Committer) (k : Setting) (ws : List (Nat × Word × Word)) : (d.commitFrame c k ws).sig = d.sig := rfl
@[simp] theorem Dev.commitFrame_rises (c : Committer) (k : Setting) (ws : List (Nat × Word × Word)) : (d.commitFrame c k ws).rises = d.rises := rfl
@[simp] theorem Dev.commitFrame_same (c : Committer) (k : Setting) (ws : List (Nat × Word × Word)) : (d.commitFrame c k ws).same = d.same := rfl
@[simp] theorem Dev.commitFrame_freeCtr (c : Committer) (k : Setting) (ws : List (Nat × Word × Word)) : (d.commitFrame c k ws).freeCtr = d.freeCtr := rfl

/-! ### commitWord -/

@[simp] theorem Dev.commitWord_regs (c : Committer) (a : Nat) (w : Word) : (d.commitWord c a w).regs = d.regs := rfl
@[simp] theorem Dev.commitWord_inforce (c : Committer) (a : Nat) (w : Word) : (d.commitWord c a w).inforce = d.inforce := rfl
@[simp] theorem Dev.commitWord_staged (c : Committer) (a : Nat) (w : Word) : (d.commitWord c a w).staged = d.staged := rfl
@[simp] theorem Dev.commitWord_tiles (c : Committer) (a : Nat) (w : Word) : (d.commitWord c a w).tiles = d.tiles := rfl
@[simp] theorem Dev.commitWord_paths (c : Committer) (a : Nat) (w : Word) : (d.commitWord c a w).paths = d.paths := rfl
@[simp] theorem Dev.commitWord_relief (c : Committer) (a : Nat) (w : Word) : (d.commitWord c a w).relief = d.relief := rfl
@[simp] theorem Dev.commitWord_sump (c : Committer) (a : Nat) (w : Word) : (d.commitWord c a w).sump = d.sump := rfl
@[simp] theorem Dev.commitWord_spi (c : Committer) (a : Nat) (w : Word) : (d.commitWord c a w).spi = d.spi := rfl
@[simp] theorem Dev.commitWord_derrick (c : Committer) (a : Nat) (w : Word) : (d.commitWord c a w).derrick = d.derrick := rfl
@[simp] theorem Dev.commitWord_check (c : Committer) (a : Nat) (w : Word) : (d.commitWord c a w).check = d.check := rfl
@[simp] theorem Dev.commitWord_power (c : Committer) (a : Nat) (w : Word) : (d.commitWord c a w).power = d.power := rfl
@[simp] theorem Dev.commitWord_sec (c : Committer) (a : Nat) (w : Word) : (d.commitWord c a w).sec = d.sec := rfl
@[simp] theorem Dev.commitWord_drunas (c : Committer) (a : Nat) (w : Word) : (d.commitWord c a w).drunas = d.drunas := rfl
@[simp] theorem Dev.commitWord_time (c : Committer) (a : Nat) (w : Word) : (d.commitWord c a w).time = d.time := rfl
@[simp] theorem Dev.commitWord_lanes (c : Committer) (a : Nat) (w : Word) : (d.commitWord c a w).lanes = d.lanes := rfl
@[simp] theorem Dev.commitWord_link (c : Committer) (a : Nat) (w : Word) : (d.commitWord c a w).link = d.link := rfl
@[simp] theorem Dev.commitWord_chisel (c : Committer) (a : Nat) (w : Word) : (d.commitWord c a w).chisel = d.chisel := rfl
@[simp] theorem Dev.commitWord_beam (c : Committer) (a : Nat) (w : Word) : (d.commitWord c a w).beam = d.beam := rfl
@[simp] theorem Dev.commitWord_dpd (c : Committer) (a : Nat) (w : Word) : (d.commitWord c a w).dpd = d.dpd := rfl
@[simp] theorem Dev.commitWord_cal (c : Committer) (a : Nat) (w : Word) : (d.commitWord c a w).cal = d.cal := rfl
@[simp] theorem Dev.commitWord_bias (c : Committer) (a : Nat) (w : Word) : (d.commitWord c a w).bias = d.bias := rfl
@[simp] theorem Dev.commitWord_sig (c : Committer) (a : Nat) (w : Word) : (d.commitWord c a w).sig = d.sig := rfl
@[simp] theorem Dev.commitWord_rises (c : Committer) (a : Nat) (w : Word) : (d.commitWord c a w).rises = d.rises := rfl
@[simp] theorem Dev.commitWord_same (c : Committer) (a : Nat) (w : Word) : (d.commitWord c a w).same = d.same := rfl
@[simp] theorem Dev.commitWord_freeCtr (c : Committer) (a : Nat) (w : Word) : (d.commitWord c a w).freeCtr = d.freeCtr := rfl

/-! ### modTile -/

@[simp] theorem Dev.modTile_regs (t : Fin 4) (f : Tile → Tile) : (d.modTile t f).regs = d.regs := rfl
@[simp] theorem Dev.modTile_inforce (t : Fin 4) (f : Tile → Tile) : (d.modTile t f).inforce = d.inforce := rfl
@[simp] theorem Dev.modTile_staged (t : Fin 4) (f : Tile → Tile) : (d.modTile t f).staged = d.staged := rfl
@[simp] theorem Dev.modTile_cad (t : Fin 4) (f : Tile → Tile) : (d.modTile t f).cad = d.cad := rfl
@[simp] theorem Dev.modTile_paths (t : Fin 4) (f : Tile → Tile) : (d.modTile t f).paths = d.paths := rfl
@[simp] theorem Dev.modTile_relief (t : Fin 4) (f : Tile → Tile) : (d.modTile t f).relief = d.relief := rfl
@[simp] theorem Dev.modTile_sump (t : Fin 4) (f : Tile → Tile) : (d.modTile t f).sump = d.sump := rfl
@[simp] theorem Dev.modTile_spi (t : Fin 4) (f : Tile → Tile) : (d.modTile t f).spi = d.spi := rfl
@[simp] theorem Dev.modTile_derrick (t : Fin 4) (f : Tile → Tile) : (d.modTile t f).derrick = d.derrick := rfl
@[simp] theorem Dev.modTile_check (t : Fin 4) (f : Tile → Tile) : (d.modTile t f).check = d.check := rfl
@[simp] theorem Dev.modTile_power (t : Fin 4) (f : Tile → Tile) : (d.modTile t f).power = d.power := rfl
@[simp] theorem Dev.modTile_sec (t : Fin 4) (f : Tile → Tile) : (d.modTile t f).sec = d.sec := rfl
@[simp] theorem Dev.modTile_drunas (t : Fin 4) (f : Tile → Tile) : (d.modTile t f).drunas = d.drunas := rfl
@[simp] theorem Dev.modTile_time (t : Fin 4) (f : Tile → Tile) : (d.modTile t f).time = d.time := rfl
@[simp] theorem Dev.modTile_lanes (t : Fin 4) (f : Tile → Tile) : (d.modTile t f).lanes = d.lanes := rfl
@[simp] theorem Dev.modTile_link (t : Fin 4) (f : Tile → Tile) : (d.modTile t f).link = d.link := rfl
@[simp] theorem Dev.modTile_chisel (t : Fin 4) (f : Tile → Tile) : (d.modTile t f).chisel = d.chisel := rfl
@[simp] theorem Dev.modTile_beam (t : Fin 4) (f : Tile → Tile) : (d.modTile t f).beam = d.beam := rfl
@[simp] theorem Dev.modTile_dpd (t : Fin 4) (f : Tile → Tile) : (d.modTile t f).dpd = d.dpd := rfl
@[simp] theorem Dev.modTile_cal (t : Fin 4) (f : Tile → Tile) : (d.modTile t f).cal = d.cal := rfl
@[simp] theorem Dev.modTile_bias (t : Fin 4) (f : Tile → Tile) : (d.modTile t f).bias = d.bias := rfl
@[simp] theorem Dev.modTile_sig (t : Fin 4) (f : Tile → Tile) : (d.modTile t f).sig = d.sig := rfl
@[simp] theorem Dev.modTile_rises (t : Fin 4) (f : Tile → Tile) : (d.modTile t f).rises = d.rises := rfl
@[simp] theorem Dev.modTile_same (t : Fin 4) (f : Tile → Tile) : (d.modTile t f).same = d.same := rfl
@[simp] theorem Dev.modTile_freeCtr (t : Fin 4) (f : Tile → Tile) : (d.modTile t f).freeCtr = d.freeCtr := rfl

/-! ### modPath -/

@[simp] theorem Dev.modPath_regs (p : Fin 64) (f : PathSt → PathSt) : (d.modPath p f).regs = d.regs := rfl
@[simp] theorem Dev.modPath_inforce (p : Fin 64) (f : PathSt → PathSt) : (d.modPath p f).inforce = d.inforce := rfl
@[simp] theorem Dev.modPath_staged (p : Fin 64) (f : PathSt → PathSt) : (d.modPath p f).staged = d.staged := rfl
@[simp] theorem Dev.modPath_cad (p : Fin 64) (f : PathSt → PathSt) : (d.modPath p f).cad = d.cad := rfl
@[simp] theorem Dev.modPath_tiles (p : Fin 64) (f : PathSt → PathSt) : (d.modPath p f).tiles = d.tiles := rfl
@[simp] theorem Dev.modPath_relief (p : Fin 64) (f : PathSt → PathSt) : (d.modPath p f).relief = d.relief := rfl
@[simp] theorem Dev.modPath_sump (p : Fin 64) (f : PathSt → PathSt) : (d.modPath p f).sump = d.sump := rfl
@[simp] theorem Dev.modPath_spi (p : Fin 64) (f : PathSt → PathSt) : (d.modPath p f).spi = d.spi := rfl
@[simp] theorem Dev.modPath_derrick (p : Fin 64) (f : PathSt → PathSt) : (d.modPath p f).derrick = d.derrick := rfl
@[simp] theorem Dev.modPath_check (p : Fin 64) (f : PathSt → PathSt) : (d.modPath p f).check = d.check := rfl
@[simp] theorem Dev.modPath_power (p : Fin 64) (f : PathSt → PathSt) : (d.modPath p f).power = d.power := rfl
@[simp] theorem Dev.modPath_sec (p : Fin 64) (f : PathSt → PathSt) : (d.modPath p f).sec = d.sec := rfl
@[simp] theorem Dev.modPath_drunas (p : Fin 64) (f : PathSt → PathSt) : (d.modPath p f).drunas = d.drunas := rfl
@[simp] theorem Dev.modPath_time (p : Fin 64) (f : PathSt → PathSt) : (d.modPath p f).time = d.time := rfl
@[simp] theorem Dev.modPath_lanes (p : Fin 64) (f : PathSt → PathSt) : (d.modPath p f).lanes = d.lanes := rfl
@[simp] theorem Dev.modPath_link (p : Fin 64) (f : PathSt → PathSt) : (d.modPath p f).link = d.link := rfl
@[simp] theorem Dev.modPath_chisel (p : Fin 64) (f : PathSt → PathSt) : (d.modPath p f).chisel = d.chisel := rfl
@[simp] theorem Dev.modPath_beam (p : Fin 64) (f : PathSt → PathSt) : (d.modPath p f).beam = d.beam := rfl
@[simp] theorem Dev.modPath_dpd (p : Fin 64) (f : PathSt → PathSt) : (d.modPath p f).dpd = d.dpd := rfl
@[simp] theorem Dev.modPath_cal (p : Fin 64) (f : PathSt → PathSt) : (d.modPath p f).cal = d.cal := rfl
@[simp] theorem Dev.modPath_bias (p : Fin 64) (f : PathSt → PathSt) : (d.modPath p f).bias = d.bias := rfl
@[simp] theorem Dev.modPath_sig (p : Fin 64) (f : PathSt → PathSt) : (d.modPath p f).sig = d.sig := rfl
@[simp] theorem Dev.modPath_rises (p : Fin 64) (f : PathSt → PathSt) : (d.modPath p f).rises = d.rises := rfl
@[simp] theorem Dev.modPath_same (p : Fin 64) (f : PathSt → PathSt) : (d.modPath p f).same = d.same := rfl
@[simp] theorem Dev.modPath_freeCtr (p : Fin 64) (f : PathSt → PathSt) : (d.modPath p f).freeCtr = d.freeCtr := rfl

/-! ### modRelief -/

@[simp] theorem Dev.modRelief_regs (t : Fin 4) (f : ReliefTile → ReliefTile) : (d.modRelief t f).regs = d.regs := rfl
@[simp] theorem Dev.modRelief_inforce (t : Fin 4) (f : ReliefTile → ReliefTile) : (d.modRelief t f).inforce = d.inforce := rfl
@[simp] theorem Dev.modRelief_staged (t : Fin 4) (f : ReliefTile → ReliefTile) : (d.modRelief t f).staged = d.staged := rfl
@[simp] theorem Dev.modRelief_cad (t : Fin 4) (f : ReliefTile → ReliefTile) : (d.modRelief t f).cad = d.cad := rfl
@[simp] theorem Dev.modRelief_tiles (t : Fin 4) (f : ReliefTile → ReliefTile) : (d.modRelief t f).tiles = d.tiles := rfl
@[simp] theorem Dev.modRelief_paths (t : Fin 4) (f : ReliefTile → ReliefTile) : (d.modRelief t f).paths = d.paths := rfl
@[simp] theorem Dev.modRelief_sump (t : Fin 4) (f : ReliefTile → ReliefTile) : (d.modRelief t f).sump = d.sump := rfl
@[simp] theorem Dev.modRelief_spi (t : Fin 4) (f : ReliefTile → ReliefTile) : (d.modRelief t f).spi = d.spi := rfl
@[simp] theorem Dev.modRelief_derrick (t : Fin 4) (f : ReliefTile → ReliefTile) : (d.modRelief t f).derrick = d.derrick := rfl
@[simp] theorem Dev.modRelief_check (t : Fin 4) (f : ReliefTile → ReliefTile) : (d.modRelief t f).check = d.check := rfl
@[simp] theorem Dev.modRelief_power (t : Fin 4) (f : ReliefTile → ReliefTile) : (d.modRelief t f).power = d.power := rfl
@[simp] theorem Dev.modRelief_sec (t : Fin 4) (f : ReliefTile → ReliefTile) : (d.modRelief t f).sec = d.sec := rfl
@[simp] theorem Dev.modRelief_drunas (t : Fin 4) (f : ReliefTile → ReliefTile) : (d.modRelief t f).drunas = d.drunas := rfl
@[simp] theorem Dev.modRelief_time (t : Fin 4) (f : ReliefTile → ReliefTile) : (d.modRelief t f).time = d.time := rfl
@[simp] theorem Dev.modRelief_lanes (t : Fin 4) (f : ReliefTile → ReliefTile) : (d.modRelief t f).lanes = d.lanes := rfl
@[simp] theorem Dev.modRelief_link (t : Fin 4) (f : ReliefTile → ReliefTile) : (d.modRelief t f).link = d.link := rfl
@[simp] theorem Dev.modRelief_chisel (t : Fin 4) (f : ReliefTile → ReliefTile) : (d.modRelief t f).chisel = d.chisel := rfl
@[simp] theorem Dev.modRelief_beam (t : Fin 4) (f : ReliefTile → ReliefTile) : (d.modRelief t f).beam = d.beam := rfl
@[simp] theorem Dev.modRelief_dpd (t : Fin 4) (f : ReliefTile → ReliefTile) : (d.modRelief t f).dpd = d.dpd := rfl
@[simp] theorem Dev.modRelief_cal (t : Fin 4) (f : ReliefTile → ReliefTile) : (d.modRelief t f).cal = d.cal := rfl
@[simp] theorem Dev.modRelief_bias (t : Fin 4) (f : ReliefTile → ReliefTile) : (d.modRelief t f).bias = d.bias := rfl
@[simp] theorem Dev.modRelief_sig (t : Fin 4) (f : ReliefTile → ReliefTile) : (d.modRelief t f).sig = d.sig := rfl
@[simp] theorem Dev.modRelief_rises (t : Fin 4) (f : ReliefTile → ReliefTile) : (d.modRelief t f).rises = d.rises := rfl
@[simp] theorem Dev.modRelief_same (t : Fin 4) (f : ReliefTile → ReliefTile) : (d.modRelief t f).same = d.same := rfl
@[simp] theorem Dev.modRelief_freeCtr (t : Fin 4) (f : ReliefTile → ReliefTile) : (d.modRelief t f).freeCtr = d.freeCtr := rfl

/-! ### modSrc -/

@[simp] theorem Dev.modSrc_regs (n : Fin 256) (f : Source → Source) : (d.modSrc n f).regs = d.regs := rfl
@[simp] theorem Dev.modSrc_inforce (n : Fin 256) (f : Source → Source) : (d.modSrc n f).inforce = d.inforce := rfl
@[simp] theorem Dev.modSrc_staged (n : Fin 256) (f : Source → Source) : (d.modSrc n f).staged = d.staged := rfl
@[simp] theorem Dev.modSrc_cad (n : Fin 256) (f : Source → Source) : (d.modSrc n f).cad = d.cad := rfl
@[simp] theorem Dev.modSrc_tiles (n : Fin 256) (f : Source → Source) : (d.modSrc n f).tiles = d.tiles := rfl
@[simp] theorem Dev.modSrc_paths (n : Fin 256) (f : Source → Source) : (d.modSrc n f).paths = d.paths := rfl
@[simp] theorem Dev.modSrc_relief (n : Fin 256) (f : Source → Source) : (d.modSrc n f).relief = d.relief := rfl
@[simp] theorem Dev.modSrc_spi (n : Fin 256) (f : Source → Source) : (d.modSrc n f).spi = d.spi := rfl
@[simp] theorem Dev.modSrc_derrick (n : Fin 256) (f : Source → Source) : (d.modSrc n f).derrick = d.derrick := rfl
@[simp] theorem Dev.modSrc_check (n : Fin 256) (f : Source → Source) : (d.modSrc n f).check = d.check := rfl
@[simp] theorem Dev.modSrc_power (n : Fin 256) (f : Source → Source) : (d.modSrc n f).power = d.power := rfl
@[simp] theorem Dev.modSrc_sec (n : Fin 256) (f : Source → Source) : (d.modSrc n f).sec = d.sec := rfl
@[simp] theorem Dev.modSrc_drunas (n : Fin 256) (f : Source → Source) : (d.modSrc n f).drunas = d.drunas := rfl
@[simp] theorem Dev.modSrc_time (n : Fin 256) (f : Source → Source) : (d.modSrc n f).time = d.time := rfl
@[simp] theorem Dev.modSrc_lanes (n : Fin 256) (f : Source → Source) : (d.modSrc n f).lanes = d.lanes := rfl
@[simp] theorem Dev.modSrc_link (n : Fin 256) (f : Source → Source) : (d.modSrc n f).link = d.link := rfl
@[simp] theorem Dev.modSrc_chisel (n : Fin 256) (f : Source → Source) : (d.modSrc n f).chisel = d.chisel := rfl
@[simp] theorem Dev.modSrc_beam (n : Fin 256) (f : Source → Source) : (d.modSrc n f).beam = d.beam := rfl
@[simp] theorem Dev.modSrc_dpd (n : Fin 256) (f : Source → Source) : (d.modSrc n f).dpd = d.dpd := rfl
@[simp] theorem Dev.modSrc_cal (n : Fin 256) (f : Source → Source) : (d.modSrc n f).cal = d.cal := rfl
@[simp] theorem Dev.modSrc_bias (n : Fin 256) (f : Source → Source) : (d.modSrc n f).bias = d.bias := rfl
@[simp] theorem Dev.modSrc_sig (n : Fin 256) (f : Source → Source) : (d.modSrc n f).sig = d.sig := rfl
@[simp] theorem Dev.modSrc_rises (n : Fin 256) (f : Source → Source) : (d.modSrc n f).rises = d.rises := rfl
@[simp] theorem Dev.modSrc_same (n : Fin 256) (f : Source → Source) : (d.modSrc n f).same = d.same := rfl
@[simp] theorem Dev.modSrc_freeCtr (n : Fin 256) (f : Source → Source) : (d.modSrc n f).freeCtr = d.freeCtr := rfl

/-! ### modSensor -/

@[simp] theorem Dev.modSensor_regs (i : Fin 6) (f : Sensor → Sensor) : (d.modSensor i f).regs = d.regs := rfl
@[simp] theorem Dev.modSensor_inforce (i : Fin 6) (f : Sensor → Sensor) : (d.modSensor i f).inforce = d.inforce := rfl
@[simp] theorem Dev.modSensor_staged (i : Fin 6) (f : Sensor → Sensor) : (d.modSensor i f).staged = d.staged := rfl
@[simp] theorem Dev.modSensor_cad (i : Fin 6) (f : Sensor → Sensor) : (d.modSensor i f).cad = d.cad := rfl
@[simp] theorem Dev.modSensor_tiles (i : Fin 6) (f : Sensor → Sensor) : (d.modSensor i f).tiles = d.tiles := rfl
@[simp] theorem Dev.modSensor_paths (i : Fin 6) (f : Sensor → Sensor) : (d.modSensor i f).paths = d.paths := rfl
@[simp] theorem Dev.modSensor_relief (i : Fin 6) (f : Sensor → Sensor) : (d.modSensor i f).relief = d.relief := rfl
@[simp] theorem Dev.modSensor_spi (i : Fin 6) (f : Sensor → Sensor) : (d.modSensor i f).spi = d.spi := rfl
@[simp] theorem Dev.modSensor_derrick (i : Fin 6) (f : Sensor → Sensor) : (d.modSensor i f).derrick = d.derrick := rfl
@[simp] theorem Dev.modSensor_check (i : Fin 6) (f : Sensor → Sensor) : (d.modSensor i f).check = d.check := rfl
@[simp] theorem Dev.modSensor_power (i : Fin 6) (f : Sensor → Sensor) : (d.modSensor i f).power = d.power := rfl
@[simp] theorem Dev.modSensor_sec (i : Fin 6) (f : Sensor → Sensor) : (d.modSensor i f).sec = d.sec := rfl
@[simp] theorem Dev.modSensor_drunas (i : Fin 6) (f : Sensor → Sensor) : (d.modSensor i f).drunas = d.drunas := rfl
@[simp] theorem Dev.modSensor_time (i : Fin 6) (f : Sensor → Sensor) : (d.modSensor i f).time = d.time := rfl
@[simp] theorem Dev.modSensor_lanes (i : Fin 6) (f : Sensor → Sensor) : (d.modSensor i f).lanes = d.lanes := rfl
@[simp] theorem Dev.modSensor_link (i : Fin 6) (f : Sensor → Sensor) : (d.modSensor i f).link = d.link := rfl
@[simp] theorem Dev.modSensor_chisel (i : Fin 6) (f : Sensor → Sensor) : (d.modSensor i f).chisel = d.chisel := rfl
@[simp] theorem Dev.modSensor_beam (i : Fin 6) (f : Sensor → Sensor) : (d.modSensor i f).beam = d.beam := rfl
@[simp] theorem Dev.modSensor_dpd (i : Fin 6) (f : Sensor → Sensor) : (d.modSensor i f).dpd = d.dpd := rfl
@[simp] theorem Dev.modSensor_cal (i : Fin 6) (f : Sensor → Sensor) : (d.modSensor i f).cal = d.cal := rfl
@[simp] theorem Dev.modSensor_bias (i : Fin 6) (f : Sensor → Sensor) : (d.modSensor i f).bias = d.bias := rfl
@[simp] theorem Dev.modSensor_sig (i : Fin 6) (f : Sensor → Sensor) : (d.modSensor i f).sig = d.sig := rfl
@[simp] theorem Dev.modSensor_rises (i : Fin 6) (f : Sensor → Sensor) : (d.modSensor i f).rises = d.rises := rfl
@[simp] theorem Dev.modSensor_same (i : Fin 6) (f : Sensor → Sensor) : (d.modSensor i f).same = d.same := rfl
@[simp] theorem Dev.modSensor_freeCtr (i : Fin 6) (f : Sensor → Sensor) : (d.modSensor i f).freeCtr = d.freeCtr := rfl

/-! ### modSpi -/

@[simp] theorem Dev.modSpi_regs (f : Spi → Spi) : (d.modSpi f).regs = d.regs := rfl
@[simp] theorem Dev.modSpi_inforce (f : Spi → Spi) : (d.modSpi f).inforce = d.inforce := rfl
@[simp] theorem Dev.modSpi_staged (f : Spi → Spi) : (d.modSpi f).staged = d.staged := rfl
@[simp] theorem Dev.modSpi_cad (f : Spi → Spi) : (d.modSpi f).cad = d.cad := rfl
@[simp] theorem Dev.modSpi_tiles (f : Spi → Spi) : (d.modSpi f).tiles = d.tiles := rfl
@[simp] theorem Dev.modSpi_paths (f : Spi → Spi) : (d.modSpi f).paths = d.paths := rfl
@[simp] theorem Dev.modSpi_relief (f : Spi → Spi) : (d.modSpi f).relief = d.relief := rfl
@[simp] theorem Dev.modSpi_sump (f : Spi → Spi) : (d.modSpi f).sump = d.sump := rfl
@[simp] theorem Dev.modSpi_derrick (f : Spi → Spi) : (d.modSpi f).derrick = d.derrick := rfl
@[simp] theorem Dev.modSpi_check (f : Spi → Spi) : (d.modSpi f).check = d.check := rfl
@[simp] theorem Dev.modSpi_power (f : Spi → Spi) : (d.modSpi f).power = d.power := rfl
@[simp] theorem Dev.modSpi_sec (f : Spi → Spi) : (d.modSpi f).sec = d.sec := rfl
@[simp] theorem Dev.modSpi_drunas (f : Spi → Spi) : (d.modSpi f).drunas = d.drunas := rfl
@[simp] theorem Dev.modSpi_time (f : Spi → Spi) : (d.modSpi f).time = d.time := rfl
@[simp] theorem Dev.modSpi_lanes (f : Spi → Spi) : (d.modSpi f).lanes = d.lanes := rfl
@[simp] theorem Dev.modSpi_link (f : Spi → Spi) : (d.modSpi f).link = d.link := rfl
@[simp] theorem Dev.modSpi_chisel (f : Spi → Spi) : (d.modSpi f).chisel = d.chisel := rfl
@[simp] theorem Dev.modSpi_beam (f : Spi → Spi) : (d.modSpi f).beam = d.beam := rfl
@[simp] theorem Dev.modSpi_dpd (f : Spi → Spi) : (d.modSpi f).dpd = d.dpd := rfl
@[simp] theorem Dev.modSpi_cal (f : Spi → Spi) : (d.modSpi f).cal = d.cal := rfl
@[simp] theorem Dev.modSpi_bias (f : Spi → Spi) : (d.modSpi f).bias = d.bias := rfl
@[simp] theorem Dev.modSpi_sig (f : Spi → Spi) : (d.modSpi f).sig = d.sig := rfl
@[simp] theorem Dev.modSpi_rises (f : Spi → Spi) : (d.modSpi f).rises = d.rises := rfl
@[simp] theorem Dev.modSpi_same (f : Spi → Spi) : (d.modSpi f).same = d.same := rfl
@[simp] theorem Dev.modSpi_freeCtr (f : Spi → Spi) : (d.modSpi f).freeCtr = d.freeCtr := rfl

/-! ### modChannel -/

@[simp] theorem Dev.modChannel_regs (c : Fin 8) (f : Channel → Channel) : (d.modChannel c f).regs = d.regs := rfl
@[simp] theorem Dev.modChannel_inforce (c : Fin 8) (f : Channel → Channel) : (d.modChannel c f).inforce = d.inforce := rfl
@[simp] theorem Dev.modChannel_staged (c : Fin 8) (f : Channel → Channel) : (d.modChannel c f).staged = d.staged := rfl
@[simp] theorem Dev.modChannel_cad (c : Fin 8) (f : Channel → Channel) : (d.modChannel c f).cad = d.cad := rfl
@[simp] theorem Dev.modChannel_tiles (c : Fin 8) (f : Channel → Channel) : (d.modChannel c f).tiles = d.tiles := rfl
@[simp] theorem Dev.modChannel_paths (c : Fin 8) (f : Channel → Channel) : (d.modChannel c f).paths = d.paths := rfl
@[simp] theorem Dev.modChannel_relief (c : Fin 8) (f : Channel → Channel) : (d.modChannel c f).relief = d.relief := rfl
@[simp] theorem Dev.modChannel_sump (c : Fin 8) (f : Channel → Channel) : (d.modChannel c f).sump = d.sump := rfl
@[simp] theorem Dev.modChannel_spi (c : Fin 8) (f : Channel → Channel) : (d.modChannel c f).spi = d.spi := rfl
@[simp] theorem Dev.modChannel_check (c : Fin 8) (f : Channel → Channel) : (d.modChannel c f).check = d.check := rfl
@[simp] theorem Dev.modChannel_power (c : Fin 8) (f : Channel → Channel) : (d.modChannel c f).power = d.power := rfl
@[simp] theorem Dev.modChannel_sec (c : Fin 8) (f : Channel → Channel) : (d.modChannel c f).sec = d.sec := rfl
@[simp] theorem Dev.modChannel_drunas (c : Fin 8) (f : Channel → Channel) : (d.modChannel c f).drunas = d.drunas := rfl
@[simp] theorem Dev.modChannel_time (c : Fin 8) (f : Channel → Channel) : (d.modChannel c f).time = d.time := rfl
@[simp] theorem Dev.modChannel_lanes (c : Fin 8) (f : Channel → Channel) : (d.modChannel c f).lanes = d.lanes := rfl
@[simp] theorem Dev.modChannel_link (c : Fin 8) (f : Channel → Channel) : (d.modChannel c f).link = d.link := rfl
@[simp] theorem Dev.modChannel_chisel (c : Fin 8) (f : Channel → Channel) : (d.modChannel c f).chisel = d.chisel := rfl
@[simp] theorem Dev.modChannel_beam (c : Fin 8) (f : Channel → Channel) : (d.modChannel c f).beam = d.beam := rfl
@[simp] theorem Dev.modChannel_dpd (c : Fin 8) (f : Channel → Channel) : (d.modChannel c f).dpd = d.dpd := rfl
@[simp] theorem Dev.modChannel_cal (c : Fin 8) (f : Channel → Channel) : (d.modChannel c f).cal = d.cal := rfl
@[simp] theorem Dev.modChannel_bias (c : Fin 8) (f : Channel → Channel) : (d.modChannel c f).bias = d.bias := rfl
@[simp] theorem Dev.modChannel_sig (c : Fin 8) (f : Channel → Channel) : (d.modChannel c f).sig = d.sig := rfl
@[simp] theorem Dev.modChannel_rises (c : Fin 8) (f : Channel → Channel) : (d.modChannel c f).rises = d.rises := rfl
@[simp] theorem Dev.modChannel_same (c : Fin 8) (f : Channel → Channel) : (d.modChannel c f).same = d.same := rfl
@[simp] theorem Dev.modChannel_freeCtr (c : Fin 8) (f : Channel → Channel) : (d.modChannel c f).freeCtr = d.freeCtr := rfl

/-! ### modPower -/

@[simp] theorem Dev.modPower_regs (f : Power → Power) : (d.modPower f).regs = d.regs := rfl
@[simp] theorem Dev.modPower_inforce (f : Power → Power) : (d.modPower f).inforce = d.inforce := rfl
@[simp] theorem Dev.modPower_staged (f : Power → Power) : (d.modPower f).staged = d.staged := rfl
@[simp] theorem Dev.modPower_cad (f : Power → Power) : (d.modPower f).cad = d.cad := rfl
@[simp] theorem Dev.modPower_tiles (f : Power → Power) : (d.modPower f).tiles = d.tiles := rfl
@[simp] theorem Dev.modPower_paths (f : Power → Power) : (d.modPower f).paths = d.paths := rfl
@[simp] theorem Dev.modPower_relief (f : Power → Power) : (d.modPower f).relief = d.relief := rfl
@[simp] theorem Dev.modPower_sump (f : Power → Power) : (d.modPower f).sump = d.sump := rfl
@[simp] theorem Dev.modPower_spi (f : Power → Power) : (d.modPower f).spi = d.spi := rfl
@[simp] theorem Dev.modPower_derrick (f : Power → Power) : (d.modPower f).derrick = d.derrick := rfl
@[simp] theorem Dev.modPower_check (f : Power → Power) : (d.modPower f).check = d.check := rfl
@[simp] theorem Dev.modPower_sec (f : Power → Power) : (d.modPower f).sec = d.sec := rfl
@[simp] theorem Dev.modPower_drunas (f : Power → Power) : (d.modPower f).drunas = d.drunas := rfl
@[simp] theorem Dev.modPower_time (f : Power → Power) : (d.modPower f).time = d.time := rfl
@[simp] theorem Dev.modPower_lanes (f : Power → Power) : (d.modPower f).lanes = d.lanes := rfl
@[simp] theorem Dev.modPower_link (f : Power → Power) : (d.modPower f).link = d.link := rfl
@[simp] theorem Dev.modPower_chisel (f : Power → Power) : (d.modPower f).chisel = d.chisel := rfl
@[simp] theorem Dev.modPower_beam (f : Power → Power) : (d.modPower f).beam = d.beam := rfl
@[simp] theorem Dev.modPower_dpd (f : Power → Power) : (d.modPower f).dpd = d.dpd := rfl
@[simp] theorem Dev.modPower_cal (f : Power → Power) : (d.modPower f).cal = d.cal := rfl
@[simp] theorem Dev.modPower_bias (f : Power → Power) : (d.modPower f).bias = d.bias := rfl
@[simp] theorem Dev.modPower_sig (f : Power → Power) : (d.modPower f).sig = d.sig := rfl
@[simp] theorem Dev.modPower_rises (f : Power → Power) : (d.modPower f).rises = d.rises := rfl
@[simp] theorem Dev.modPower_same (f : Power → Power) : (d.modPower f).same = d.same := rfl
@[simp] theorem Dev.modPower_freeCtr (f : Power → Power) : (d.modPower f).freeCtr = d.freeCtr := rfl

/-! ### modDrunas -/

@[simp] theorem Dev.modDrunas_regs (f : Drunas → Drunas) : (d.modDrunas f).regs = d.regs := rfl
@[simp] theorem Dev.modDrunas_inforce (f : Drunas → Drunas) : (d.modDrunas f).inforce = d.inforce := rfl
@[simp] theorem Dev.modDrunas_staged (f : Drunas → Drunas) : (d.modDrunas f).staged = d.staged := rfl
@[simp] theorem Dev.modDrunas_cad (f : Drunas → Drunas) : (d.modDrunas f).cad = d.cad := rfl
@[simp] theorem Dev.modDrunas_tiles (f : Drunas → Drunas) : (d.modDrunas f).tiles = d.tiles := rfl
@[simp] theorem Dev.modDrunas_paths (f : Drunas → Drunas) : (d.modDrunas f).paths = d.paths := rfl
@[simp] theorem Dev.modDrunas_relief (f : Drunas → Drunas) : (d.modDrunas f).relief = d.relief := rfl
@[simp] theorem Dev.modDrunas_sump (f : Drunas → Drunas) : (d.modDrunas f).sump = d.sump := rfl
@[simp] theorem Dev.modDrunas_spi (f : Drunas → Drunas) : (d.modDrunas f).spi = d.spi := rfl
@[simp] theorem Dev.modDrunas_derrick (f : Drunas → Drunas) : (d.modDrunas f).derrick = d.derrick := rfl
@[simp] theorem Dev.modDrunas_check (f : Drunas → Drunas) : (d.modDrunas f).check = d.check := rfl
@[simp] theorem Dev.modDrunas_power (f : Drunas → Drunas) : (d.modDrunas f).power = d.power := rfl
@[simp] theorem Dev.modDrunas_sec (f : Drunas → Drunas) : (d.modDrunas f).sec = d.sec := rfl
@[simp] theorem Dev.modDrunas_time (f : Drunas → Drunas) : (d.modDrunas f).time = d.time := rfl
@[simp] theorem Dev.modDrunas_lanes (f : Drunas → Drunas) : (d.modDrunas f).lanes = d.lanes := rfl
@[simp] theorem Dev.modDrunas_link (f : Drunas → Drunas) : (d.modDrunas f).link = d.link := rfl
@[simp] theorem Dev.modDrunas_chisel (f : Drunas → Drunas) : (d.modDrunas f).chisel = d.chisel := rfl
@[simp] theorem Dev.modDrunas_beam (f : Drunas → Drunas) : (d.modDrunas f).beam = d.beam := rfl
@[simp] theorem Dev.modDrunas_dpd (f : Drunas → Drunas) : (d.modDrunas f).dpd = d.dpd := rfl
@[simp] theorem Dev.modDrunas_cal (f : Drunas → Drunas) : (d.modDrunas f).cal = d.cal := rfl
@[simp] theorem Dev.modDrunas_bias (f : Drunas → Drunas) : (d.modDrunas f).bias = d.bias := rfl
@[simp] theorem Dev.modDrunas_sig (f : Drunas → Drunas) : (d.modDrunas f).sig = d.sig := rfl
@[simp] theorem Dev.modDrunas_rises (f : Drunas → Drunas) : (d.modDrunas f).rises = d.rises := rfl
@[simp] theorem Dev.modDrunas_same (f : Drunas → Drunas) : (d.modDrunas f).same = d.same := rfl
@[simp] theorem Dev.modDrunas_freeCtr (f : Drunas → Drunas) : (d.modDrunas f).freeCtr = d.freeCtr := rfl

/-! ### modCmd -/

@[simp] theorem Dev.modCmd_regs (i : Nat) (f : Cmd → Cmd) : (d.modCmd i f).regs = d.regs := rfl
@[simp] theorem Dev.modCmd_inforce (i : Nat) (f : Cmd → Cmd) : (d.modCmd i f).inforce = d.inforce := rfl
@[simp] theorem Dev.modCmd_staged (i : Nat) (f : Cmd → Cmd) : (d.modCmd i f).staged = d.staged := rfl
@[simp] theorem Dev.modCmd_cad (i : Nat) (f : Cmd → Cmd) : (d.modCmd i f).cad = d.cad := rfl
@[simp] theorem Dev.modCmd_tiles (i : Nat) (f : Cmd → Cmd) : (d.modCmd i f).tiles = d.tiles := rfl
@[simp] theorem Dev.modCmd_paths (i : Nat) (f : Cmd → Cmd) : (d.modCmd i f).paths = d.paths := rfl
@[simp] theorem Dev.modCmd_relief (i : Nat) (f : Cmd → Cmd) : (d.modCmd i f).relief = d.relief := rfl
@[simp] theorem Dev.modCmd_sump (i : Nat) (f : Cmd → Cmd) : (d.modCmd i f).sump = d.sump := rfl
@[simp] theorem Dev.modCmd_spi (i : Nat) (f : Cmd → Cmd) : (d.modCmd i f).spi = d.spi := rfl
@[simp] theorem Dev.modCmd_derrick (i : Nat) (f : Cmd → Cmd) : (d.modCmd i f).derrick = d.derrick := rfl
@[simp] theorem Dev.modCmd_check (i : Nat) (f : Cmd → Cmd) : (d.modCmd i f).check = d.check := rfl
@[simp] theorem Dev.modCmd_power (i : Nat) (f : Cmd → Cmd) : (d.modCmd i f).power = d.power := rfl
@[simp] theorem Dev.modCmd_sec (i : Nat) (f : Cmd → Cmd) : (d.modCmd i f).sec = d.sec := rfl
@[simp] theorem Dev.modCmd_time (i : Nat) (f : Cmd → Cmd) : (d.modCmd i f).time = d.time := rfl
@[simp] theorem Dev.modCmd_lanes (i : Nat) (f : Cmd → Cmd) : (d.modCmd i f).lanes = d.lanes := rfl
@[simp] theorem Dev.modCmd_link (i : Nat) (f : Cmd → Cmd) : (d.modCmd i f).link = d.link := rfl
@[simp] theorem Dev.modCmd_chisel (i : Nat) (f : Cmd → Cmd) : (d.modCmd i f).chisel = d.chisel := rfl
@[simp] theorem Dev.modCmd_beam (i : Nat) (f : Cmd → Cmd) : (d.modCmd i f).beam = d.beam := rfl
@[simp] theorem Dev.modCmd_dpd (i : Nat) (f : Cmd → Cmd) : (d.modCmd i f).dpd = d.dpd := rfl
@[simp] theorem Dev.modCmd_cal (i : Nat) (f : Cmd → Cmd) : (d.modCmd i f).cal = d.cal := rfl
@[simp] theorem Dev.modCmd_bias (i : Nat) (f : Cmd → Cmd) : (d.modCmd i f).bias = d.bias := rfl
@[simp] theorem Dev.modCmd_sig (i : Nat) (f : Cmd → Cmd) : (d.modCmd i f).sig = d.sig := rfl
@[simp] theorem Dev.modCmd_rises (i : Nat) (f : Cmd → Cmd) : (d.modCmd i f).rises = d.rises := rfl
@[simp] theorem Dev.modCmd_same (i : Nat) (f : Cmd → Cmd) : (d.modCmd i f).same = d.same := rfl
@[simp] theorem Dev.modCmd_freeCtr (i : Nat) (f : Cmd → Cmd) : (d.modCmd i f).freeCtr = d.freeCtr := rfl

/-! ### openCmd -/

@[simp] theorem Dev.openCmd_regs (c : Cmd) : (d.openCmd c).regs = d.regs := rfl
@[simp] theorem Dev.openCmd_inforce (c : Cmd) : (d.openCmd c).inforce = d.inforce := rfl
@[simp] theorem Dev.openCmd_staged (c : Cmd) : (d.openCmd c).staged = d.staged := rfl
@[simp] theorem Dev.openCmd_cad (c : Cmd) : (d.openCmd c).cad = d.cad := rfl
@[simp] theorem Dev.openCmd_tiles (c : Cmd) : (d.openCmd c).tiles = d.tiles := rfl
@[simp] theorem Dev.openCmd_paths (c : Cmd) : (d.openCmd c).paths = d.paths := rfl
@[simp] theorem Dev.openCmd_relief (c : Cmd) : (d.openCmd c).relief = d.relief := rfl
@[simp] theorem Dev.openCmd_sump (c : Cmd) : (d.openCmd c).sump = d.sump := rfl
@[simp] theorem Dev.openCmd_spi (c : Cmd) : (d.openCmd c).spi = d.spi := rfl
@[simp] theorem Dev.openCmd_derrick (c : Cmd) : (d.openCmd c).derrick = d.derrick := rfl
@[simp] theorem Dev.openCmd_check (c : Cmd) : (d.openCmd c).check = d.check := rfl
@[simp] theorem Dev.openCmd_power (c : Cmd) : (d.openCmd c).power = d.power := rfl
@[simp] theorem Dev.openCmd_sec (c : Cmd) : (d.openCmd c).sec = d.sec := rfl
@[simp] theorem Dev.openCmd_time (c : Cmd) : (d.openCmd c).time = d.time := rfl
@[simp] theorem Dev.openCmd_lanes (c : Cmd) : (d.openCmd c).lanes = d.lanes := rfl
@[simp] theorem Dev.openCmd_link (c : Cmd) : (d.openCmd c).link = d.link := rfl
@[simp] theorem Dev.openCmd_chisel (c : Cmd) : (d.openCmd c).chisel = d.chisel := rfl
@[simp] theorem Dev.openCmd_beam (c : Cmd) : (d.openCmd c).beam = d.beam := rfl
@[simp] theorem Dev.openCmd_dpd (c : Cmd) : (d.openCmd c).dpd = d.dpd := rfl
@[simp] theorem Dev.openCmd_cal (c : Cmd) : (d.openCmd c).cal = d.cal := rfl
@[simp] theorem Dev.openCmd_bias (c : Cmd) : (d.openCmd c).bias = d.bias := rfl
@[simp] theorem Dev.openCmd_sig (c : Cmd) : (d.openCmd c).sig = d.sig := rfl
@[simp] theorem Dev.openCmd_rises (c : Cmd) : (d.openCmd c).rises = d.rises := rfl
@[simp] theorem Dev.openCmd_same (c : Cmd) : (d.openCmd c).same = d.same := rfl
@[simp] theorem Dev.openCmd_freeCtr (c : Cmd) : (d.openCmd c).freeCtr = d.freeCtr := rfl

/-! ### popRing -/

@[simp] theorem Dev.popRing_regs : (d.popRing ).regs = d.regs := rfl
@[simp] theorem Dev.popRing_inforce : (d.popRing ).inforce = d.inforce := rfl
@[simp] theorem Dev.popRing_staged : (d.popRing ).staged = d.staged := rfl
@[simp] theorem Dev.popRing_cad : (d.popRing ).cad = d.cad := rfl
@[simp] theorem Dev.popRing_tiles : (d.popRing ).tiles = d.tiles := rfl
@[simp] theorem Dev.popRing_paths : (d.popRing ).paths = d.paths := rfl
@[simp] theorem Dev.popRing_relief : (d.popRing ).relief = d.relief := rfl
@[simp] theorem Dev.popRing_sump : (d.popRing ).sump = d.sump := rfl
@[simp] theorem Dev.popRing_spi : (d.popRing ).spi = d.spi := rfl
@[simp] theorem Dev.popRing_derrick : (d.popRing ).derrick = d.derrick := rfl
@[simp] theorem Dev.popRing_check : (d.popRing ).check = d.check := rfl
@[simp] theorem Dev.popRing_power : (d.popRing ).power = d.power := rfl
@[simp] theorem Dev.popRing_sec : (d.popRing ).sec = d.sec := rfl
@[simp] theorem Dev.popRing_time : (d.popRing ).time = d.time := rfl
@[simp] theorem Dev.popRing_lanes : (d.popRing ).lanes = d.lanes := rfl
@[simp] theorem Dev.popRing_link : (d.popRing ).link = d.link := rfl
@[simp] theorem Dev.popRing_chisel : (d.popRing ).chisel = d.chisel := rfl
@[simp] theorem Dev.popRing_beam : (d.popRing ).beam = d.beam := rfl
@[simp] theorem Dev.popRing_dpd : (d.popRing ).dpd = d.dpd := rfl
@[simp] theorem Dev.popRing_cal : (d.popRing ).cal = d.cal := rfl
@[simp] theorem Dev.popRing_bias : (d.popRing ).bias = d.bias := rfl
@[simp] theorem Dev.popRing_sig : (d.popRing ).sig = d.sig := rfl
@[simp] theorem Dev.popRing_rises : (d.popRing ).rises = d.rises := rfl
@[simp] theorem Dev.popRing_same : (d.popRing ).same = d.same := rfl
@[simp] theorem Dev.popRing_freeCtr : (d.popRing ).freeCtr = d.freeCtr := rfl

/-! ### modTime -/

@[simp] theorem Dev.modTime_regs (f : TimeUnit → TimeUnit) : (d.modTime f).regs = d.regs := rfl
@[simp] theorem Dev.modTime_inforce (f : TimeUnit → TimeUnit) : (d.modTime f).inforce = d.inforce := rfl
@[simp] theorem Dev.modTime_staged (f : TimeUnit → TimeUnit) : (d.modTime f).staged = d.staged := rfl
@[simp] theorem Dev.modTime_cad (f : TimeUnit → TimeUnit) : (d.modTime f).cad = d.cad := rfl
@[simp] theorem Dev.modTime_tiles (f : TimeUnit → TimeUnit) : (d.modTime f).tiles = d.tiles := rfl
@[simp] theorem Dev.modTime_paths (f : TimeUnit → TimeUnit) : (d.modTime f).paths = d.paths := rfl
@[simp] theorem Dev.modTime_relief (f : TimeUnit → TimeUnit) : (d.modTime f).relief = d.relief := rfl
@[simp] theorem Dev.modTime_sump (f : TimeUnit → TimeUnit) : (d.modTime f).sump = d.sump := rfl
@[simp] theorem Dev.modTime_spi (f : TimeUnit → TimeUnit) : (d.modTime f).spi = d.spi := rfl
@[simp] theorem Dev.modTime_derrick (f : TimeUnit → TimeUnit) : (d.modTime f).derrick = d.derrick := rfl
@[simp] theorem Dev.modTime_check (f : TimeUnit → TimeUnit) : (d.modTime f).check = d.check := rfl
@[simp] theorem Dev.modTime_power (f : TimeUnit → TimeUnit) : (d.modTime f).power = d.power := rfl
@[simp] theorem Dev.modTime_sec (f : TimeUnit → TimeUnit) : (d.modTime f).sec = d.sec := rfl
@[simp] theorem Dev.modTime_drunas (f : TimeUnit → TimeUnit) : (d.modTime f).drunas = d.drunas := rfl
@[simp] theorem Dev.modTime_lanes (f : TimeUnit → TimeUnit) : (d.modTime f).lanes = d.lanes := rfl
@[simp] theorem Dev.modTime_link (f : TimeUnit → TimeUnit) : (d.modTime f).link = d.link := rfl
@[simp] theorem Dev.modTime_chisel (f : TimeUnit → TimeUnit) : (d.modTime f).chisel = d.chisel := rfl
@[simp] theorem Dev.modTime_beam (f : TimeUnit → TimeUnit) : (d.modTime f).beam = d.beam := rfl
@[simp] theorem Dev.modTime_dpd (f : TimeUnit → TimeUnit) : (d.modTime f).dpd = d.dpd := rfl
@[simp] theorem Dev.modTime_cal (f : TimeUnit → TimeUnit) : (d.modTime f).cal = d.cal := rfl
@[simp] theorem Dev.modTime_bias (f : TimeUnit → TimeUnit) : (d.modTime f).bias = d.bias := rfl
@[simp] theorem Dev.modTime_sig (f : TimeUnit → TimeUnit) : (d.modTime f).sig = d.sig := rfl
@[simp] theorem Dev.modTime_rises (f : TimeUnit → TimeUnit) : (d.modTime f).rises = d.rises := rfl
@[simp] theorem Dev.modTime_same (f : TimeUnit → TimeUnit) : (d.modTime f).same = d.same := rfl
@[simp] theorem Dev.modTime_freeCtr (f : TimeUnit → TimeUnit) : (d.modTime f).freeCtr = d.freeCtr := rfl

/-! ### modLane -/

@[simp] theorem Dev.modLane_regs (k : Fin 8) (f : Lane → Lane) : (d.modLane k f).regs = d.regs := rfl
@[simp] theorem Dev.modLane_inforce (k : Fin 8) (f : Lane → Lane) : (d.modLane k f).inforce = d.inforce := rfl
@[simp] theorem Dev.modLane_staged (k : Fin 8) (f : Lane → Lane) : (d.modLane k f).staged = d.staged := rfl
@[simp] theorem Dev.modLane_cad (k : Fin 8) (f : Lane → Lane) : (d.modLane k f).cad = d.cad := rfl
@[simp] theorem Dev.modLane_tiles (k : Fin 8) (f : Lane → Lane) : (d.modLane k f).tiles = d.tiles := rfl
@[simp] theorem Dev.modLane_paths (k : Fin 8) (f : Lane → Lane) : (d.modLane k f).paths = d.paths := rfl
@[simp] theorem Dev.modLane_relief (k : Fin 8) (f : Lane → Lane) : (d.modLane k f).relief = d.relief := rfl
@[simp] theorem Dev.modLane_sump (k : Fin 8) (f : Lane → Lane) : (d.modLane k f).sump = d.sump := rfl
@[simp] theorem Dev.modLane_spi (k : Fin 8) (f : Lane → Lane) : (d.modLane k f).spi = d.spi := rfl
@[simp] theorem Dev.modLane_derrick (k : Fin 8) (f : Lane → Lane) : (d.modLane k f).derrick = d.derrick := rfl
@[simp] theorem Dev.modLane_check (k : Fin 8) (f : Lane → Lane) : (d.modLane k f).check = d.check := rfl
@[simp] theorem Dev.modLane_power (k : Fin 8) (f : Lane → Lane) : (d.modLane k f).power = d.power := rfl
@[simp] theorem Dev.modLane_sec (k : Fin 8) (f : Lane → Lane) : (d.modLane k f).sec = d.sec := rfl
@[simp] theorem Dev.modLane_drunas (k : Fin 8) (f : Lane → Lane) : (d.modLane k f).drunas = d.drunas := rfl
@[simp] theorem Dev.modLane_time (k : Fin 8) (f : Lane → Lane) : (d.modLane k f).time = d.time := rfl
@[simp] theorem Dev.modLane_link (k : Fin 8) (f : Lane → Lane) : (d.modLane k f).link = d.link := rfl
@[simp] theorem Dev.modLane_chisel (k : Fin 8) (f : Lane → Lane) : (d.modLane k f).chisel = d.chisel := rfl
@[simp] theorem Dev.modLane_beam (k : Fin 8) (f : Lane → Lane) : (d.modLane k f).beam = d.beam := rfl
@[simp] theorem Dev.modLane_dpd (k : Fin 8) (f : Lane → Lane) : (d.modLane k f).dpd = d.dpd := rfl
@[simp] theorem Dev.modLane_cal (k : Fin 8) (f : Lane → Lane) : (d.modLane k f).cal = d.cal := rfl
@[simp] theorem Dev.modLane_bias (k : Fin 8) (f : Lane → Lane) : (d.modLane k f).bias = d.bias := rfl
@[simp] theorem Dev.modLane_sig (k : Fin 8) (f : Lane → Lane) : (d.modLane k f).sig = d.sig := rfl
@[simp] theorem Dev.modLane_rises (k : Fin 8) (f : Lane → Lane) : (d.modLane k f).rises = d.rises := rfl
@[simp] theorem Dev.modLane_same (k : Fin 8) (f : Lane → Lane) : (d.modLane k f).same = d.same := rfl
@[simp] theorem Dev.modLane_freeCtr (k : Fin 8) (f : Lane → Lane) : (d.modLane k f).freeCtr = d.freeCtr := rfl

/-! ### modLink -/

@[simp] theorem Dev.modLink_regs (f : Link → Link) : (d.modLink f).regs = d.regs := rfl
@[simp] theorem Dev.modLink_inforce (f : Link → Link) : (d.modLink f).inforce = d.inforce := rfl
@[simp] theorem Dev.modLink_staged (f : Link → Link) : (d.modLink f).staged = d.staged := rfl
@[simp] theorem Dev.modLink_cad (f : Link → Link) : (d.modLink f).cad = d.cad := rfl
@[simp] theorem Dev.modLink_tiles (f : Link → Link) : (d.modLink f).tiles = d.tiles := rfl
@[simp] theorem Dev.modLink_paths (f : Link → Link) : (d.modLink f).paths = d.paths := rfl
@[simp] theorem Dev.modLink_relief (f : Link → Link) : (d.modLink f).relief = d.relief := rfl
@[simp] theorem Dev.modLink_sump (f : Link → Link) : (d.modLink f).sump = d.sump := rfl
@[simp] theorem Dev.modLink_spi (f : Link → Link) : (d.modLink f).spi = d.spi := rfl
@[simp] theorem Dev.modLink_derrick (f : Link → Link) : (d.modLink f).derrick = d.derrick := rfl
@[simp] theorem Dev.modLink_check (f : Link → Link) : (d.modLink f).check = d.check := rfl
@[simp] theorem Dev.modLink_power (f : Link → Link) : (d.modLink f).power = d.power := rfl
@[simp] theorem Dev.modLink_sec (f : Link → Link) : (d.modLink f).sec = d.sec := rfl
@[simp] theorem Dev.modLink_drunas (f : Link → Link) : (d.modLink f).drunas = d.drunas := rfl
@[simp] theorem Dev.modLink_time (f : Link → Link) : (d.modLink f).time = d.time := rfl
@[simp] theorem Dev.modLink_lanes (f : Link → Link) : (d.modLink f).lanes = d.lanes := rfl
@[simp] theorem Dev.modLink_chisel (f : Link → Link) : (d.modLink f).chisel = d.chisel := rfl
@[simp] theorem Dev.modLink_beam (f : Link → Link) : (d.modLink f).beam = d.beam := rfl
@[simp] theorem Dev.modLink_dpd (f : Link → Link) : (d.modLink f).dpd = d.dpd := rfl
@[simp] theorem Dev.modLink_cal (f : Link → Link) : (d.modLink f).cal = d.cal := rfl
@[simp] theorem Dev.modLink_bias (f : Link → Link) : (d.modLink f).bias = d.bias := rfl
@[simp] theorem Dev.modLink_sig (f : Link → Link) : (d.modLink f).sig = d.sig := rfl
@[simp] theorem Dev.modLink_rises (f : Link → Link) : (d.modLink f).rises = d.rises := rfl
@[simp] theorem Dev.modLink_same (f : Link → Link) : (d.modLink f).same = d.same := rfl
@[simp] theorem Dev.modLink_freeCtr (f : Link → Link) : (d.modLink f).freeCtr = d.freeCtr := rfl

/-! ### modCore -/

@[simp] theorem Dev.modCore_regs (c : Fin 16) (f : Core → Core) : (d.modCore c f).regs = d.regs := rfl
@[simp] theorem Dev.modCore_inforce (c : Fin 16) (f : Core → Core) : (d.modCore c f).inforce = d.inforce := rfl
@[simp] theorem Dev.modCore_staged (c : Fin 16) (f : Core → Core) : (d.modCore c f).staged = d.staged := rfl
@[simp] theorem Dev.modCore_cad (c : Fin 16) (f : Core → Core) : (d.modCore c f).cad = d.cad := rfl
@[simp] theorem Dev.modCore_tiles (c : Fin 16) (f : Core → Core) : (d.modCore c f).tiles = d.tiles := rfl
@[simp] theorem Dev.modCore_paths (c : Fin 16) (f : Core → Core) : (d.modCore c f).paths = d.paths := rfl
@[simp] theorem Dev.modCore_relief (c : Fin 16) (f : Core → Core) : (d.modCore c f).relief = d.relief := rfl
@[simp] theorem Dev.modCore_sump (c : Fin 16) (f : Core → Core) : (d.modCore c f).sump = d.sump := rfl
@[simp] theorem Dev.modCore_spi (c : Fin 16) (f : Core → Core) : (d.modCore c f).spi = d.spi := rfl
@[simp] theorem Dev.modCore_derrick (c : Fin 16) (f : Core → Core) : (d.modCore c f).derrick = d.derrick := rfl
@[simp] theorem Dev.modCore_check (c : Fin 16) (f : Core → Core) : (d.modCore c f).check = d.check := rfl
@[simp] theorem Dev.modCore_power (c : Fin 16) (f : Core → Core) : (d.modCore c f).power = d.power := rfl
@[simp] theorem Dev.modCore_sec (c : Fin 16) (f : Core → Core) : (d.modCore c f).sec = d.sec := rfl
@[simp] theorem Dev.modCore_drunas (c : Fin 16) (f : Core → Core) : (d.modCore c f).drunas = d.drunas := rfl
@[simp] theorem Dev.modCore_time (c : Fin 16) (f : Core → Core) : (d.modCore c f).time = d.time := rfl
@[simp] theorem Dev.modCore_lanes (c : Fin 16) (f : Core → Core) : (d.modCore c f).lanes = d.lanes := rfl
@[simp] theorem Dev.modCore_link (c : Fin 16) (f : Core → Core) : (d.modCore c f).link = d.link := rfl
@[simp] theorem Dev.modCore_beam (c : Fin 16) (f : Core → Core) : (d.modCore c f).beam = d.beam := rfl
@[simp] theorem Dev.modCore_dpd (c : Fin 16) (f : Core → Core) : (d.modCore c f).dpd = d.dpd := rfl
@[simp] theorem Dev.modCore_cal (c : Fin 16) (f : Core → Core) : (d.modCore c f).cal = d.cal := rfl
@[simp] theorem Dev.modCore_bias (c : Fin 16) (f : Core → Core) : (d.modCore c f).bias = d.bias := rfl
@[simp] theorem Dev.modCore_sig (c : Fin 16) (f : Core → Core) : (d.modCore c f).sig = d.sig := rfl
@[simp] theorem Dev.modCore_rises (c : Fin 16) (f : Core → Core) : (d.modCore c f).rises = d.rises := rfl
@[simp] theorem Dev.modCore_same (c : Fin 16) (f : Core → Core) : (d.modCore c f).same = d.same := rfl
@[simp] theorem Dev.modCore_freeCtr (c : Fin 16) (f : Core → Core) : (d.modCore c f).freeCtr = d.freeCtr := rfl

/-! ### modKernel -/

@[simp] theorem Dev.modKernel_regs (n : Nat) (f : Kernel → Kernel) : (d.modKernel n f).regs = d.regs := rfl
@[simp] theorem Dev.modKernel_inforce (n : Nat) (f : Kernel → Kernel) : (d.modKernel n f).inforce = d.inforce := rfl
@[simp] theorem Dev.modKernel_staged (n : Nat) (f : Kernel → Kernel) : (d.modKernel n f).staged = d.staged := rfl
@[simp] theorem Dev.modKernel_cad (n : Nat) (f : Kernel → Kernel) : (d.modKernel n f).cad = d.cad := rfl
@[simp] theorem Dev.modKernel_tiles (n : Nat) (f : Kernel → Kernel) : (d.modKernel n f).tiles = d.tiles := rfl
@[simp] theorem Dev.modKernel_paths (n : Nat) (f : Kernel → Kernel) : (d.modKernel n f).paths = d.paths := rfl
@[simp] theorem Dev.modKernel_relief (n : Nat) (f : Kernel → Kernel) : (d.modKernel n f).relief = d.relief := rfl
@[simp] theorem Dev.modKernel_sump (n : Nat) (f : Kernel → Kernel) : (d.modKernel n f).sump = d.sump := rfl
@[simp] theorem Dev.modKernel_spi (n : Nat) (f : Kernel → Kernel) : (d.modKernel n f).spi = d.spi := rfl
@[simp] theorem Dev.modKernel_derrick (n : Nat) (f : Kernel → Kernel) : (d.modKernel n f).derrick = d.derrick := rfl
@[simp] theorem Dev.modKernel_check (n : Nat) (f : Kernel → Kernel) : (d.modKernel n f).check = d.check := rfl
@[simp] theorem Dev.modKernel_power (n : Nat) (f : Kernel → Kernel) : (d.modKernel n f).power = d.power := rfl
@[simp] theorem Dev.modKernel_sec (n : Nat) (f : Kernel → Kernel) : (d.modKernel n f).sec = d.sec := rfl
@[simp] theorem Dev.modKernel_drunas (n : Nat) (f : Kernel → Kernel) : (d.modKernel n f).drunas = d.drunas := rfl
@[simp] theorem Dev.modKernel_time (n : Nat) (f : Kernel → Kernel) : (d.modKernel n f).time = d.time := rfl
@[simp] theorem Dev.modKernel_lanes (n : Nat) (f : Kernel → Kernel) : (d.modKernel n f).lanes = d.lanes := rfl
@[simp] theorem Dev.modKernel_link (n : Nat) (f : Kernel → Kernel) : (d.modKernel n f).link = d.link := rfl
@[simp] theorem Dev.modKernel_beam (n : Nat) (f : Kernel → Kernel) : (d.modKernel n f).beam = d.beam := rfl
@[simp] theorem Dev.modKernel_dpd (n : Nat) (f : Kernel → Kernel) : (d.modKernel n f).dpd = d.dpd := rfl
@[simp] theorem Dev.modKernel_cal (n : Nat) (f : Kernel → Kernel) : (d.modKernel n f).cal = d.cal := rfl
@[simp] theorem Dev.modKernel_bias (n : Nat) (f : Kernel → Kernel) : (d.modKernel n f).bias = d.bias := rfl
@[simp] theorem Dev.modKernel_sig (n : Nat) (f : Kernel → Kernel) : (d.modKernel n f).sig = d.sig := rfl
@[simp] theorem Dev.modKernel_rises (n : Nat) (f : Kernel → Kernel) : (d.modKernel n f).rises = d.rises := rfl
@[simp] theorem Dev.modKernel_same (n : Nat) (f : Kernel → Kernel) : (d.modKernel n f).same = d.same := rfl
@[simp] theorem Dev.modKernel_freeCtr (n : Nat) (f : Kernel → Kernel) : (d.modKernel n f).freeCtr = d.freeCtr := rfl

/-! ### modDpd -/

@[simp] theorem Dev.modDpd_regs (p : Fin 64) (f : DpdPath → DpdPath) : (d.modDpd p f).regs = d.regs := rfl
@[simp] theorem Dev.modDpd_inforce (p : Fin 64) (f : DpdPath → DpdPath) : (d.modDpd p f).inforce = d.inforce := rfl
@[simp] theorem Dev.modDpd_staged (p : Fin 64) (f : DpdPath → DpdPath) : (d.modDpd p f).staged = d.staged := rfl
@[simp] theorem Dev.modDpd_cad (p : Fin 64) (f : DpdPath → DpdPath) : (d.modDpd p f).cad = d.cad := rfl
@[simp] theorem Dev.modDpd_tiles (p : Fin 64) (f : DpdPath → DpdPath) : (d.modDpd p f).tiles = d.tiles := rfl
@[simp] theorem Dev.modDpd_paths (p : Fin 64) (f : DpdPath → DpdPath) : (d.modDpd p f).paths = d.paths := rfl
@[simp] theorem Dev.modDpd_relief (p : Fin 64) (f : DpdPath → DpdPath) : (d.modDpd p f).relief = d.relief := rfl
@[simp] theorem Dev.modDpd_sump (p : Fin 64) (f : DpdPath → DpdPath) : (d.modDpd p f).sump = d.sump := rfl
@[simp] theorem Dev.modDpd_spi (p : Fin 64) (f : DpdPath → DpdPath) : (d.modDpd p f).spi = d.spi := rfl
@[simp] theorem Dev.modDpd_derrick (p : Fin 64) (f : DpdPath → DpdPath) : (d.modDpd p f).derrick = d.derrick := rfl
@[simp] theorem Dev.modDpd_check (p : Fin 64) (f : DpdPath → DpdPath) : (d.modDpd p f).check = d.check := rfl
@[simp] theorem Dev.modDpd_power (p : Fin 64) (f : DpdPath → DpdPath) : (d.modDpd p f).power = d.power := rfl
@[simp] theorem Dev.modDpd_sec (p : Fin 64) (f : DpdPath → DpdPath) : (d.modDpd p f).sec = d.sec := rfl
@[simp] theorem Dev.modDpd_drunas (p : Fin 64) (f : DpdPath → DpdPath) : (d.modDpd p f).drunas = d.drunas := rfl
@[simp] theorem Dev.modDpd_time (p : Fin 64) (f : DpdPath → DpdPath) : (d.modDpd p f).time = d.time := rfl
@[simp] theorem Dev.modDpd_lanes (p : Fin 64) (f : DpdPath → DpdPath) : (d.modDpd p f).lanes = d.lanes := rfl
@[simp] theorem Dev.modDpd_link (p : Fin 64) (f : DpdPath → DpdPath) : (d.modDpd p f).link = d.link := rfl
@[simp] theorem Dev.modDpd_chisel (p : Fin 64) (f : DpdPath → DpdPath) : (d.modDpd p f).chisel = d.chisel := rfl
@[simp] theorem Dev.modDpd_beam (p : Fin 64) (f : DpdPath → DpdPath) : (d.modDpd p f).beam = d.beam := rfl
@[simp] theorem Dev.modDpd_cal (p : Fin 64) (f : DpdPath → DpdPath) : (d.modDpd p f).cal = d.cal := rfl
@[simp] theorem Dev.modDpd_bias (p : Fin 64) (f : DpdPath → DpdPath) : (d.modDpd p f).bias = d.bias := rfl
@[simp] theorem Dev.modDpd_sig (p : Fin 64) (f : DpdPath → DpdPath) : (d.modDpd p f).sig = d.sig := rfl
@[simp] theorem Dev.modDpd_rises (p : Fin 64) (f : DpdPath → DpdPath) : (d.modDpd p f).rises = d.rises := rfl
@[simp] theorem Dev.modDpd_same (p : Fin 64) (f : DpdPath → DpdPath) : (d.modDpd p f).same = d.same := rfl
@[simp] theorem Dev.modDpd_freeCtr (p : Fin 64) (f : DpdPath → DpdPath) : (d.modDpd p f).freeCtr = d.freeCtr := rfl

/-! ### modOrx -/

@[simp] theorem Dev.modOrx_regs (k : Fin 16) (f : Orx → Orx) : (d.modOrx k f).regs = d.regs := rfl
@[simp] theorem Dev.modOrx_inforce (k : Fin 16) (f : Orx → Orx) : (d.modOrx k f).inforce = d.inforce := rfl
@[simp] theorem Dev.modOrx_staged (k : Fin 16) (f : Orx → Orx) : (d.modOrx k f).staged = d.staged := rfl
@[simp] theorem Dev.modOrx_cad (k : Fin 16) (f : Orx → Orx) : (d.modOrx k f).cad = d.cad := rfl
@[simp] theorem Dev.modOrx_tiles (k : Fin 16) (f : Orx → Orx) : (d.modOrx k f).tiles = d.tiles := rfl
@[simp] theorem Dev.modOrx_paths (k : Fin 16) (f : Orx → Orx) : (d.modOrx k f).paths = d.paths := rfl
@[simp] theorem Dev.modOrx_relief (k : Fin 16) (f : Orx → Orx) : (d.modOrx k f).relief = d.relief := rfl
@[simp] theorem Dev.modOrx_sump (k : Fin 16) (f : Orx → Orx) : (d.modOrx k f).sump = d.sump := rfl
@[simp] theorem Dev.modOrx_spi (k : Fin 16) (f : Orx → Orx) : (d.modOrx k f).spi = d.spi := rfl
@[simp] theorem Dev.modOrx_derrick (k : Fin 16) (f : Orx → Orx) : (d.modOrx k f).derrick = d.derrick := rfl
@[simp] theorem Dev.modOrx_check (k : Fin 16) (f : Orx → Orx) : (d.modOrx k f).check = d.check := rfl
@[simp] theorem Dev.modOrx_power (k : Fin 16) (f : Orx → Orx) : (d.modOrx k f).power = d.power := rfl
@[simp] theorem Dev.modOrx_sec (k : Fin 16) (f : Orx → Orx) : (d.modOrx k f).sec = d.sec := rfl
@[simp] theorem Dev.modOrx_drunas (k : Fin 16) (f : Orx → Orx) : (d.modOrx k f).drunas = d.drunas := rfl
@[simp] theorem Dev.modOrx_time (k : Fin 16) (f : Orx → Orx) : (d.modOrx k f).time = d.time := rfl
@[simp] theorem Dev.modOrx_lanes (k : Fin 16) (f : Orx → Orx) : (d.modOrx k f).lanes = d.lanes := rfl
@[simp] theorem Dev.modOrx_link (k : Fin 16) (f : Orx → Orx) : (d.modOrx k f).link = d.link := rfl
@[simp] theorem Dev.modOrx_chisel (k : Fin 16) (f : Orx → Orx) : (d.modOrx k f).chisel = d.chisel := rfl
@[simp] theorem Dev.modOrx_beam (k : Fin 16) (f : Orx → Orx) : (d.modOrx k f).beam = d.beam := rfl
@[simp] theorem Dev.modOrx_cal (k : Fin 16) (f : Orx → Orx) : (d.modOrx k f).cal = d.cal := rfl
@[simp] theorem Dev.modOrx_bias (k : Fin 16) (f : Orx → Orx) : (d.modOrx k f).bias = d.bias := rfl
@[simp] theorem Dev.modOrx_sig (k : Fin 16) (f : Orx → Orx) : (d.modOrx k f).sig = d.sig := rfl
@[simp] theorem Dev.modOrx_rises (k : Fin 16) (f : Orx → Orx) : (d.modOrx k f).rises = d.rises := rfl
@[simp] theorem Dev.modOrx_same (k : Fin 16) (f : Orx → Orx) : (d.modOrx k f).same = d.same := rfl
@[simp] theorem Dev.modOrx_freeCtr (k : Fin 16) (f : Orx → Orx) : (d.modOrx k f).freeCtr = d.freeCtr := rfl

/-! ### modCal -/

@[simp] theorem Dev.modCal_regs (p : Fin 64) (f : CalPath → CalPath) : (d.modCal p f).regs = d.regs := rfl
@[simp] theorem Dev.modCal_inforce (p : Fin 64) (f : CalPath → CalPath) : (d.modCal p f).inforce = d.inforce := rfl
@[simp] theorem Dev.modCal_staged (p : Fin 64) (f : CalPath → CalPath) : (d.modCal p f).staged = d.staged := rfl
@[simp] theorem Dev.modCal_cad (p : Fin 64) (f : CalPath → CalPath) : (d.modCal p f).cad = d.cad := rfl
@[simp] theorem Dev.modCal_tiles (p : Fin 64) (f : CalPath → CalPath) : (d.modCal p f).tiles = d.tiles := rfl
@[simp] theorem Dev.modCal_paths (p : Fin 64) (f : CalPath → CalPath) : (d.modCal p f).paths = d.paths := rfl
@[simp] theorem Dev.modCal_relief (p : Fin 64) (f : CalPath → CalPath) : (d.modCal p f).relief = d.relief := rfl
@[simp] theorem Dev.modCal_sump (p : Fin 64) (f : CalPath → CalPath) : (d.modCal p f).sump = d.sump := rfl
@[simp] theorem Dev.modCal_spi (p : Fin 64) (f : CalPath → CalPath) : (d.modCal p f).spi = d.spi := rfl
@[simp] theorem Dev.modCal_derrick (p : Fin 64) (f : CalPath → CalPath) : (d.modCal p f).derrick = d.derrick := rfl
@[simp] theorem Dev.modCal_check (p : Fin 64) (f : CalPath → CalPath) : (d.modCal p f).check = d.check := rfl
@[simp] theorem Dev.modCal_power (p : Fin 64) (f : CalPath → CalPath) : (d.modCal p f).power = d.power := rfl
@[simp] theorem Dev.modCal_sec (p : Fin 64) (f : CalPath → CalPath) : (d.modCal p f).sec = d.sec := rfl
@[simp] theorem Dev.modCal_drunas (p : Fin 64) (f : CalPath → CalPath) : (d.modCal p f).drunas = d.drunas := rfl
@[simp] theorem Dev.modCal_time (p : Fin 64) (f : CalPath → CalPath) : (d.modCal p f).time = d.time := rfl
@[simp] theorem Dev.modCal_lanes (p : Fin 64) (f : CalPath → CalPath) : (d.modCal p f).lanes = d.lanes := rfl
@[simp] theorem Dev.modCal_link (p : Fin 64) (f : CalPath → CalPath) : (d.modCal p f).link = d.link := rfl
@[simp] theorem Dev.modCal_chisel (p : Fin 64) (f : CalPath → CalPath) : (d.modCal p f).chisel = d.chisel := rfl
@[simp] theorem Dev.modCal_beam (p : Fin 64) (f : CalPath → CalPath) : (d.modCal p f).beam = d.beam := rfl
@[simp] theorem Dev.modCal_dpd (p : Fin 64) (f : CalPath → CalPath) : (d.modCal p f).dpd = d.dpd := rfl
@[simp] theorem Dev.modCal_bias (p : Fin 64) (f : CalPath → CalPath) : (d.modCal p f).bias = d.bias := rfl
@[simp] theorem Dev.modCal_sig (p : Fin 64) (f : CalPath → CalPath) : (d.modCal p f).sig = d.sig := rfl
@[simp] theorem Dev.modCal_rises (p : Fin 64) (f : CalPath → CalPath) : (d.modCal p f).rises = d.rises := rfl
@[simp] theorem Dev.modCal_same (p : Fin 64) (f : CalPath → CalPath) : (d.modCal p f).same = d.same := rfl
@[simp] theorem Dev.modCal_freeCtr (p : Fin 64) (f : CalPath → CalPath) : (d.modCal p f).freeCtr = d.freeCtr := rfl

/-! ### modCalTile -/

@[simp] theorem Dev.modCalTile_regs (t : Fin 4) (f : CalTile → CalTile) : (d.modCalTile t f).regs = d.regs := rfl
@[simp] theorem Dev.modCalTile_inforce (t : Fin 4) (f : CalTile → CalTile) : (d.modCalTile t f).inforce = d.inforce := rfl
@[simp] theorem Dev.modCalTile_staged (t : Fin 4) (f : CalTile → CalTile) : (d.modCalTile t f).staged = d.staged := rfl
@[simp] theorem Dev.modCalTile_cad (t : Fin 4) (f : CalTile → CalTile) : (d.modCalTile t f).cad = d.cad := rfl
@[simp] theorem Dev.modCalTile_tiles (t : Fin 4) (f : CalTile → CalTile) : (d.modCalTile t f).tiles = d.tiles := rfl
@[simp] theorem Dev.modCalTile_paths (t : Fin 4) (f : CalTile → CalTile) : (d.modCalTile t f).paths = d.paths := rfl
@[simp] theorem Dev.modCalTile_relief (t : Fin 4) (f : CalTile → CalTile) : (d.modCalTile t f).relief = d.relief := rfl
@[simp] theorem Dev.modCalTile_sump (t : Fin 4) (f : CalTile → CalTile) : (d.modCalTile t f).sump = d.sump := rfl
@[simp] theorem Dev.modCalTile_spi (t : Fin 4) (f : CalTile → CalTile) : (d.modCalTile t f).spi = d.spi := rfl
@[simp] theorem Dev.modCalTile_derrick (t : Fin 4) (f : CalTile → CalTile) : (d.modCalTile t f).derrick = d.derrick := rfl
@[simp] theorem Dev.modCalTile_check (t : Fin 4) (f : CalTile → CalTile) : (d.modCalTile t f).check = d.check := rfl
@[simp] theorem Dev.modCalTile_power (t : Fin 4) (f : CalTile → CalTile) : (d.modCalTile t f).power = d.power := rfl
@[simp] theorem Dev.modCalTile_sec (t : Fin 4) (f : CalTile → CalTile) : (d.modCalTile t f).sec = d.sec := rfl
@[simp] theorem Dev.modCalTile_drunas (t : Fin 4) (f : CalTile → CalTile) : (d.modCalTile t f).drunas = d.drunas := rfl
@[simp] theorem Dev.modCalTile_time (t : Fin 4) (f : CalTile → CalTile) : (d.modCalTile t f).time = d.time := rfl
@[simp] theorem Dev.modCalTile_lanes (t : Fin 4) (f : CalTile → CalTile) : (d.modCalTile t f).lanes = d.lanes := rfl
@[simp] theorem Dev.modCalTile_link (t : Fin 4) (f : CalTile → CalTile) : (d.modCalTile t f).link = d.link := rfl
@[simp] theorem Dev.modCalTile_chisel (t : Fin 4) (f : CalTile → CalTile) : (d.modCalTile t f).chisel = d.chisel := rfl
@[simp] theorem Dev.modCalTile_beam (t : Fin 4) (f : CalTile → CalTile) : (d.modCalTile t f).beam = d.beam := rfl
@[simp] theorem Dev.modCalTile_dpd (t : Fin 4) (f : CalTile → CalTile) : (d.modCalTile t f).dpd = d.dpd := rfl
@[simp] theorem Dev.modCalTile_bias (t : Fin 4) (f : CalTile → CalTile) : (d.modCalTile t f).bias = d.bias := rfl
@[simp] theorem Dev.modCalTile_sig (t : Fin 4) (f : CalTile → CalTile) : (d.modCalTile t f).sig = d.sig := rfl
@[simp] theorem Dev.modCalTile_rises (t : Fin 4) (f : CalTile → CalTile) : (d.modCalTile t f).rises = d.rises := rfl
@[simp] theorem Dev.modCalTile_same (t : Fin 4) (f : CalTile → CalTile) : (d.modCalTile t f).same = d.same := rfl
@[simp] theorem Dev.modCalTile_freeCtr (t : Fin 4) (f : CalTile → CalTile) : (d.modCalTile t f).freeCtr = d.freeCtr := rfl

/-! ### modOut -/

@[simp] theorem Dev.modOut_regs (n : Fin 96) (f : BiasOut → BiasOut) : (d.modOut n f).regs = d.regs := rfl
@[simp] theorem Dev.modOut_inforce (n : Fin 96) (f : BiasOut → BiasOut) : (d.modOut n f).inforce = d.inforce := rfl
@[simp] theorem Dev.modOut_staged (n : Fin 96) (f : BiasOut → BiasOut) : (d.modOut n f).staged = d.staged := rfl
@[simp] theorem Dev.modOut_cad (n : Fin 96) (f : BiasOut → BiasOut) : (d.modOut n f).cad = d.cad := rfl
@[simp] theorem Dev.modOut_tiles (n : Fin 96) (f : BiasOut → BiasOut) : (d.modOut n f).tiles = d.tiles := rfl
@[simp] theorem Dev.modOut_paths (n : Fin 96) (f : BiasOut → BiasOut) : (d.modOut n f).paths = d.paths := rfl
@[simp] theorem Dev.modOut_relief (n : Fin 96) (f : BiasOut → BiasOut) : (d.modOut n f).relief = d.relief := rfl
@[simp] theorem Dev.modOut_sump (n : Fin 96) (f : BiasOut → BiasOut) : (d.modOut n f).sump = d.sump := rfl
@[simp] theorem Dev.modOut_spi (n : Fin 96) (f : BiasOut → BiasOut) : (d.modOut n f).spi = d.spi := rfl
@[simp] theorem Dev.modOut_derrick (n : Fin 96) (f : BiasOut → BiasOut) : (d.modOut n f).derrick = d.derrick := rfl
@[simp] theorem Dev.modOut_check (n : Fin 96) (f : BiasOut → BiasOut) : (d.modOut n f).check = d.check := rfl
@[simp] theorem Dev.modOut_power (n : Fin 96) (f : BiasOut → BiasOut) : (d.modOut n f).power = d.power := rfl
@[simp] theorem Dev.modOut_sec (n : Fin 96) (f : BiasOut → BiasOut) : (d.modOut n f).sec = d.sec := rfl
@[simp] theorem Dev.modOut_drunas (n : Fin 96) (f : BiasOut → BiasOut) : (d.modOut n f).drunas = d.drunas := rfl
@[simp] theorem Dev.modOut_time (n : Fin 96) (f : BiasOut → BiasOut) : (d.modOut n f).time = d.time := rfl
@[simp] theorem Dev.modOut_lanes (n : Fin 96) (f : BiasOut → BiasOut) : (d.modOut n f).lanes = d.lanes := rfl
@[simp] theorem Dev.modOut_link (n : Fin 96) (f : BiasOut → BiasOut) : (d.modOut n f).link = d.link := rfl
@[simp] theorem Dev.modOut_chisel (n : Fin 96) (f : BiasOut → BiasOut) : (d.modOut n f).chisel = d.chisel := rfl
@[simp] theorem Dev.modOut_beam (n : Fin 96) (f : BiasOut → BiasOut) : (d.modOut n f).beam = d.beam := rfl
@[simp] theorem Dev.modOut_dpd (n : Fin 96) (f : BiasOut → BiasOut) : (d.modOut n f).dpd = d.dpd := rfl
@[simp] theorem Dev.modOut_cal (n : Fin 96) (f : BiasOut → BiasOut) : (d.modOut n f).cal = d.cal := rfl
@[simp] theorem Dev.modOut_sig (n : Fin 96) (f : BiasOut → BiasOut) : (d.modOut n f).sig = d.sig := rfl
@[simp] theorem Dev.modOut_rises (n : Fin 96) (f : BiasOut → BiasOut) : (d.modOut n f).rises = d.rises := rfl
@[simp] theorem Dev.modOut_same (n : Fin 96) (f : BiasOut → BiasOut) : (d.modOut n f).same = d.same := rfl
@[simp] theorem Dev.modOut_freeCtr (n : Fin 96) (f : BiasOut → BiasOut) : (d.modOut n f).freeCtr = d.freeCtr := rfl

/-! ### Reading through an update that writes no register -/

@[simp] theorem Dev.rd_noteSet (a : Nat) (m : Word) (x : Nat) : (d.noteSet a m).rd x = d.rd x := by simp only [Dev.rd, Dev.noteSet_regs]
@[simp] theorem Dev.rd_noteCount (a lo n : Nat) (x : Nat) : (d.noteCount a lo n).rd x = d.rd x := by simp only [Dev.rd, Dev.noteCount_regs]
@[simp] theorem Dev.rd_noteWrite (a rank : Nat) (x : Nat) : (d.noteWrite a rank).rd x = d.rd x := by simp only [Dev.rd, Dev.noteWrite_regs]
@[simp] theorem Dev.rd_setInf (a : Nat) (w m : Word) (x : Nat) : (d.setInf a w m).rd x = d.rd x := by simp only [Dev.rd, Dev.setInf_regs]
@[simp] theorem Dev.rd_stage (a : Nat) (w : Word) (x : Nat) : (d.stage a w).rd x = d.rd x := by simp only [Dev.rd, Dev.stage_regs]
@[simp] theorem Dev.rd_drew (x : Nat) : (d.drew ).rd x = d.rd x := by simp only [Dev.rd, Dev.drew_regs]
@[simp] theorem Dev.rd_passCycles (n : Nat) (x : Nat) : (d.passCycles n).rd x = d.rd x := by simp only [Dev.rd, Dev.passCycles_regs]
@[simp] theorem Dev.rd_commitAt (c : Committer) (k : Setting) (ws : List (Nat × Word × Word)) (l n : Nat) (x : Nat) : (d.commitAt c k ws l n).rd x = d.rd x := by simp only [Dev.rd, Dev.commitAt_regs]
@[simp] theorem Dev.rd_commit (c : Committer) (k : Setting) (ws : List (Nat × Word × Word)) (n : Nat) (x : Nat) : (d.commit c k ws n).rd x = d.rd x := by simp only [Dev.rd, Dev.commit_regs]
@[simp] theorem Dev.rd_commitFrame (c : Committer) (k : Setting) (ws : List (Nat × Word × Word)) (x : Nat) : (d.commitFrame c k ws).rd x = d.rd x := by simp only [Dev.rd, Dev.commitFrame_regs]
@[simp] theorem Dev.rd_commitWord (c : Committer) (a : Nat) (w : Word) (x : Nat) : (d.commitWord c a w).rd x = d.rd x := by simp only [Dev.rd, Dev.commitWord_regs]
@[simp] theorem Dev.rd_modTile (t : Fin 4) (f : Tile → Tile) (x : Nat) : (d.modTile t f).rd x = d.rd x := by simp only [Dev.rd, Dev.modTile_regs]
@[simp] theorem Dev.rd_modPath (p : Fin 64) (f : PathSt → PathSt) (x : Nat) : (d.modPath p f).rd x = d.rd x := by simp only [Dev.rd, Dev.modPath_regs]
@[simp] theorem Dev.rd_modRelief (t : Fin 4) (f : ReliefTile → ReliefTile) (x : Nat) : (d.modRelief t f).rd x = d.rd x := by simp only [Dev.rd, Dev.modRelief_regs]
@[simp] theorem Dev.rd_modSrc (n : Fin 256) (f : Source → Source) (x : Nat) : (d.modSrc n f).rd x = d.rd x := by simp only [Dev.rd, Dev.modSrc_regs]
@[simp] theorem Dev.rd_modSensor (i : Fin 6) (f : Sensor → Sensor) (x : Nat) : (d.modSensor i f).rd x = d.rd x := by simp only [Dev.rd, Dev.modSensor_regs]
@[simp] theorem Dev.rd_modSpi (f : Spi → Spi) (x : Nat) : (d.modSpi f).rd x = d.rd x := by simp only [Dev.rd, Dev.modSpi_regs]
@[simp] theorem Dev.rd_modChannel (c : Fin 8) (f : Channel → Channel) (x : Nat) : (d.modChannel c f).rd x = d.rd x := by simp only [Dev.rd, Dev.modChannel_regs]
@[simp] theorem Dev.rd_modPower (f : Power → Power) (x : Nat) : (d.modPower f).rd x = d.rd x := by simp only [Dev.rd, Dev.modPower_regs]
@[simp] theorem Dev.rd_modDrunas (f : Drunas → Drunas) (x : Nat) : (d.modDrunas f).rd x = d.rd x := by simp only [Dev.rd, Dev.modDrunas_regs]
@[simp] theorem Dev.rd_modCmd (i : Nat) (f : Cmd → Cmd) (x : Nat) : (d.modCmd i f).rd x = d.rd x := by simp only [Dev.rd, Dev.modCmd_regs]
@[simp] theorem Dev.rd_openCmd (c : Cmd) (x : Nat) : (d.openCmd c).rd x = d.rd x := by simp only [Dev.rd, Dev.openCmd_regs]
@[simp] theorem Dev.rd_popRing (x : Nat) : (d.popRing ).rd x = d.rd x := by simp only [Dev.rd, Dev.popRing_regs]
@[simp] theorem Dev.rd_modTime (f : TimeUnit → TimeUnit) (x : Nat) : (d.modTime f).rd x = d.rd x := by simp only [Dev.rd, Dev.modTime_regs]
@[simp] theorem Dev.rd_modLane (k : Fin 8) (f : Lane → Lane) (x : Nat) : (d.modLane k f).rd x = d.rd x := by simp only [Dev.rd, Dev.modLane_regs]
@[simp] theorem Dev.rd_modLink (f : Link → Link) (x : Nat) : (d.modLink f).rd x = d.rd x := by simp only [Dev.rd, Dev.modLink_regs]
@[simp] theorem Dev.rd_modCore (c : Fin 16) (f : Core → Core) (x : Nat) : (d.modCore c f).rd x = d.rd x := by simp only [Dev.rd, Dev.modCore_regs]
@[simp] theorem Dev.rd_modKernel (n : Nat) (f : Kernel → Kernel) (x : Nat) : (d.modKernel n f).rd x = d.rd x := by simp only [Dev.rd, Dev.modKernel_regs]
@[simp] theorem Dev.rd_modDpd (p : Fin 64) (f : DpdPath → DpdPath) (x : Nat) : (d.modDpd p f).rd x = d.rd x := by simp only [Dev.rd, Dev.modDpd_regs]
@[simp] theorem Dev.rd_modOrx (k : Fin 16) (f : Orx → Orx) (x : Nat) : (d.modOrx k f).rd x = d.rd x := by simp only [Dev.rd, Dev.modOrx_regs]
@[simp] theorem Dev.rd_modCal (p : Fin 64) (f : CalPath → CalPath) (x : Nat) : (d.modCal p f).rd x = d.rd x := by simp only [Dev.rd, Dev.modCal_regs]
@[simp] theorem Dev.rd_modCalTile (t : Fin 4) (f : CalTile → CalTile) (x : Nat) : (d.modCalTile t f).rd x = d.rd x := by simp only [Dev.rd, Dev.modCalTile_regs]
@[simp] theorem Dev.rd_modOut (n : Fin 96) (f : BiasOut → BiasOut) (x : Nat) : (d.modOut n f).rd x = d.rd x := by simp only [Dev.rd, Dev.modOut_regs]

@[simp] theorem Dev.inf_wr (a : Nat) (w : Word) (x : Nat) : (d.wr a w).inf x = d.inf x := by simp only [Dev.inf, Dev.wr_inforce]
@[simp] theorem Dev.inf_fset (a hi lo n : Nat) (x : Nat) : (d.fset a hi lo n).inf x = d.inf x := by simp only [Dev.inf, Dev.fset_inforce]
@[simp] theorem Dev.inf_countBy (a hi lo n : Nat) (x : Nat) : (d.countBy a hi lo n).inf x = d.inf x := by simp only [Dev.inf, Dev.countBy_inforce]
@[simp] theorem Dev.inf_count (a hi lo : Nat) (x : Nat) : (d.count a hi lo).inf x = d.inf x := by simp only [Dev.inf, Dev.count_inforce]
@[simp] theorem Dev.inf_count32 (a : Nat) (x : Nat) : (d.count32 a).inf x = d.inf x := by simp only [Dev.inf, Dev.count32_inforce]
@[simp] theorem Dev.inf_noteSet (a : Nat) (m : Word) (x : Nat) : (d.noteSet a m).inf x = d.inf x := by simp only [Dev.inf, Dev.noteSet_inforce]
@[simp] theorem Dev.inf_noteCount (a lo n : Nat) (x : Nat) : (d.noteCount a lo n).inf x = d.inf x := by simp only [Dev.inf, Dev.noteCount_inforce]
@[simp] theorem Dev.inf_noteWrite (a rank : Nat) (x : Nat) : (d.noteWrite a rank).inf x = d.inf x := by simp only [Dev.inf, Dev.noteWrite_inforce]
@[simp] theorem Dev.inf_stage (a : Nat) (w : Word) (x : Nat) : (d.stage a w).inf x = d.inf x := by simp only [Dev.inf, Dev.stage_inforce]
@[simp] theorem Dev.inf_drew (x : Nat) : (d.drew ).inf x = d.inf x := by simp only [Dev.inf, Dev.drew_inforce]
@[simp] theorem Dev.inf_passCycles (n : Nat) (x : Nat) : (d.passCycles n).inf x = d.inf x := by simp only [Dev.inf, Dev.passCycles_inforce]
@[simp] theorem Dev.inf_commitAt (c : Committer) (k : Setting) (ws : List (Nat × Word × Word)) (l n : Nat) (x : Nat) : (d.commitAt c k ws l n).inf x = d.inf x := by simp only [Dev.inf, Dev.commitAt_inforce]
@[simp] theorem Dev.inf_commit (c : Committer) (k : Setting) (ws : List (Nat × Word × Word)) (n : Nat) (x : Nat) : (d.commit c k ws n).inf x = d.inf x := by simp only [Dev.inf, Dev.commit_inforce]
@[simp] theorem Dev.inf_commitFrame (c : Committer) (k : Setting) (ws : List (Nat × Word × Word)) (x : Nat) : (d.commitFrame c k ws).inf x = d.inf x := by simp only [Dev.inf, Dev.commitFrame_inforce]
@[simp] theorem Dev.inf_commitWord (c : Committer) (a : Nat) (w : Word) (x : Nat) : (d.commitWord c a w).inf x = d.inf x := by simp only [Dev.inf, Dev.commitWord_inforce]
@[simp] theorem Dev.inf_modTile (t : Fin 4) (f : Tile → Tile) (x : Nat) : (d.modTile t f).inf x = d.inf x := by simp only [Dev.inf, Dev.modTile_inforce]
@[simp] theorem Dev.inf_modPath (p : Fin 64) (f : PathSt → PathSt) (x : Nat) : (d.modPath p f).inf x = d.inf x := by simp only [Dev.inf, Dev.modPath_inforce]
@[simp] theorem Dev.inf_modRelief (t : Fin 4) (f : ReliefTile → ReliefTile) (x : Nat) : (d.modRelief t f).inf x = d.inf x := by simp only [Dev.inf, Dev.modRelief_inforce]
@[simp] theorem Dev.inf_modSrc (n : Fin 256) (f : Source → Source) (x : Nat) : (d.modSrc n f).inf x = d.inf x := by simp only [Dev.inf, Dev.modSrc_inforce]
@[simp] theorem Dev.inf_modSensor (i : Fin 6) (f : Sensor → Sensor) (x : Nat) : (d.modSensor i f).inf x = d.inf x := by simp only [Dev.inf, Dev.modSensor_inforce]
@[simp] theorem Dev.inf_modSpi (f : Spi → Spi) (x : Nat) : (d.modSpi f).inf x = d.inf x := by simp only [Dev.inf, Dev.modSpi_inforce]
@[simp] theorem Dev.inf_modChannel (c : Fin 8) (f : Channel → Channel) (x : Nat) : (d.modChannel c f).inf x = d.inf x := by simp only [Dev.inf, Dev.modChannel_inforce]
@[simp] theorem Dev.inf_modPower (f : Power → Power) (x : Nat) : (d.modPower f).inf x = d.inf x := by simp only [Dev.inf, Dev.modPower_inforce]
@[simp] theorem Dev.inf_modDrunas (f : Drunas → Drunas) (x : Nat) : (d.modDrunas f).inf x = d.inf x := by simp only [Dev.inf, Dev.modDrunas_inforce]
@[simp] theorem Dev.inf_modCmd (i : Nat) (f : Cmd → Cmd) (x : Nat) : (d.modCmd i f).inf x = d.inf x := by simp only [Dev.inf, Dev.modCmd_inforce]
@[simp] theorem Dev.inf_openCmd (c : Cmd) (x : Nat) : (d.openCmd c).inf x = d.inf x := by simp only [Dev.inf, Dev.openCmd_inforce]
@[simp] theorem Dev.inf_popRing (x : Nat) : (d.popRing ).inf x = d.inf x := by simp only [Dev.inf, Dev.popRing_inforce]
@[simp] theorem Dev.inf_modTime (f : TimeUnit → TimeUnit) (x : Nat) : (d.modTime f).inf x = d.inf x := by simp only [Dev.inf, Dev.modTime_inforce]
@[simp] theorem Dev.inf_modLane (k : Fin 8) (f : Lane → Lane) (x : Nat) : (d.modLane k f).inf x = d.inf x := by simp only [Dev.inf, Dev.modLane_inforce]
@[simp] theorem Dev.inf_modLink (f : Link → Link) (x : Nat) : (d.modLink f).inf x = d.inf x := by simp only [Dev.inf, Dev.modLink_inforce]
@[simp] theorem Dev.inf_modCore (c : Fin 16) (f : Core → Core) (x : Nat) : (d.modCore c f).inf x = d.inf x := by simp only [Dev.inf, Dev.modCore_inforce]
@[simp] theorem Dev.inf_modKernel (n : Nat) (f : Kernel → Kernel) (x : Nat) : (d.modKernel n f).inf x = d.inf x := by simp only [Dev.inf, Dev.modKernel_inforce]
@[simp] theorem Dev.inf_modDpd (p : Fin 64) (f : DpdPath → DpdPath) (x : Nat) : (d.modDpd p f).inf x = d.inf x := by simp only [Dev.inf, Dev.modDpd_inforce]
@[simp] theorem Dev.inf_modOrx (k : Fin 16) (f : Orx → Orx) (x : Nat) : (d.modOrx k f).inf x = d.inf x := by simp only [Dev.inf, Dev.modOrx_inforce]
@[simp] theorem Dev.inf_modCal (p : Fin 64) (f : CalPath → CalPath) (x : Nat) : (d.modCal p f).inf x = d.inf x := by simp only [Dev.inf, Dev.modCal_inforce]
@[simp] theorem Dev.inf_modCalTile (t : Fin 4) (f : CalTile → CalTile) (x : Nat) : (d.modCalTile t f).inf x = d.inf x := by simp only [Dev.inf, Dev.modCalTile_inforce]
@[simp] theorem Dev.inf_modOut (n : Fin 96) (f : BiasOut → BiasOut) (x : Nat) : (d.modOut n f).inf x = d.inf x := by simp only [Dev.inf, Dev.modOut_inforce]

/-! ### Ends of commands -/

@[simp] theorem Dev.endCmd_regs (i : Option Nat) (n : Nat) (rs : List Word) : (d.endCmd i n rs).regs = d.regs := by cases i <;> rfl
@[simp] theorem Dev.endCmd_inforce (i : Option Nat) (n : Nat) (rs : List Word) : (d.endCmd i n rs).inforce = d.inforce := by cases i <;> rfl
@[simp] theorem Dev.endCmd_staged (i : Option Nat) (n : Nat) (rs : List Word) : (d.endCmd i n rs).staged = d.staged := by cases i <;> rfl
@[simp] theorem Dev.endCmd_cad (i : Option Nat) (n : Nat) (rs : List Word) : (d.endCmd i n rs).cad = d.cad := by cases i <;> rfl
@[simp] theorem Dev.endCmd_tiles (i : Option Nat) (n : Nat) (rs : List Word) : (d.endCmd i n rs).tiles = d.tiles := by cases i <;> rfl
@[simp] theorem Dev.endCmd_paths (i : Option Nat) (n : Nat) (rs : List Word) : (d.endCmd i n rs).paths = d.paths := by cases i <;> rfl
@[simp] theorem Dev.endCmd_relief (i : Option Nat) (n : Nat) (rs : List Word) : (d.endCmd i n rs).relief = d.relief := by cases i <;> rfl
@[simp] theorem Dev.endCmd_sump (i : Option Nat) (n : Nat) (rs : List Word) : (d.endCmd i n rs).sump = d.sump := by cases i <;> rfl
@[simp] theorem Dev.endCmd_spi (i : Option Nat) (n : Nat) (rs : List Word) : (d.endCmd i n rs).spi = d.spi := by cases i <;> rfl
@[simp] theorem Dev.endCmd_derrick (i : Option Nat) (n : Nat) (rs : List Word) : (d.endCmd i n rs).derrick = d.derrick := by cases i <;> rfl
@[simp] theorem Dev.endCmd_check (i : Option Nat) (n : Nat) (rs : List Word) : (d.endCmd i n rs).check = d.check := by cases i <;> rfl
@[simp] theorem Dev.endCmd_power (i : Option Nat) (n : Nat) (rs : List Word) : (d.endCmd i n rs).power = d.power := by cases i <;> rfl
@[simp] theorem Dev.endCmd_sec (i : Option Nat) (n : Nat) (rs : List Word) : (d.endCmd i n rs).sec = d.sec := by cases i <;> rfl
@[simp] theorem Dev.endCmd_time (i : Option Nat) (n : Nat) (rs : List Word) : (d.endCmd i n rs).time = d.time := by cases i <;> rfl
@[simp] theorem Dev.endCmd_lanes (i : Option Nat) (n : Nat) (rs : List Word) : (d.endCmd i n rs).lanes = d.lanes := by cases i <;> rfl
@[simp] theorem Dev.endCmd_link (i : Option Nat) (n : Nat) (rs : List Word) : (d.endCmd i n rs).link = d.link := by cases i <;> rfl
@[simp] theorem Dev.endCmd_chisel (i : Option Nat) (n : Nat) (rs : List Word) : (d.endCmd i n rs).chisel = d.chisel := by cases i <;> rfl
@[simp] theorem Dev.endCmd_beam (i : Option Nat) (n : Nat) (rs : List Word) : (d.endCmd i n rs).beam = d.beam := by cases i <;> rfl
@[simp] theorem Dev.endCmd_dpd (i : Option Nat) (n : Nat) (rs : List Word) : (d.endCmd i n rs).dpd = d.dpd := by cases i <;> rfl
@[simp] theorem Dev.endCmd_cal (i : Option Nat) (n : Nat) (rs : List Word) : (d.endCmd i n rs).cal = d.cal := by cases i <;> rfl
@[simp] theorem Dev.endCmd_bias (i : Option Nat) (n : Nat) (rs : List Word) : (d.endCmd i n rs).bias = d.bias := by cases i <;> rfl
@[simp] theorem Dev.endCmd_sig (i : Option Nat) (n : Nat) (rs : List Word) : (d.endCmd i n rs).sig = d.sig := by cases i <;> rfl
@[simp] theorem Dev.endCmd_rises (i : Option Nat) (n : Nat) (rs : List Word) : (d.endCmd i n rs).rises = d.rises := by cases i <;> rfl
@[simp] theorem Dev.endCmd_same (i : Option Nat) (n : Nat) (rs : List Word) : (d.endCmd i n rs).same = d.same := by cases i <;> rfl
@[simp] theorem Dev.endCmd_freeCtr (i : Option Nat) (n : Nat) (rs : List Word) : (d.endCmd i n rs).freeCtr = d.freeCtr := by cases i <;> rfl

end Sys2Proof.Machine
end

