-- ==== Sys2Proof/Laws/Registers.lean ====
section
/-!
SUPPORT. Registers: reading after writing, for the words that software sees and for the words in force; what raising an event,
and a bus error, can do.
-/

namespace Sys2Proof.Machine

/-! ### The maps of words -/

theorem mapGet_mapSet_same (m : List (Nat × Word)) (a : Nat) (w : Word) : mapGet (mapSet m a w) a = some w := by
  induction m with
  | nil => simp [mapSet, mapGet]
  | cons x m ih =>
    obtain ⟨b, v⟩ := x
    by_cases h : a < b
    · simp [mapSet, h, mapGet]
    · by_cases e : a = b
      · simp [mapSet, e, mapGet]
      · simp [mapSet, h, e, mapGet, Ne.symm e, ih]

theorem mapGet_mapSet_ne (m : List (Nat × Word)) {a b : Nat} (w : Word) (h : b ≠ a) : mapGet (mapSet m a w) b = mapGet m b := by
  induction m with
  | nil => simp [mapSet, mapGet, Ne.symm h]
  | cons x m ih =>
    obtain ⟨c, v⟩ := x
    by_cases h1 : a < c
    · simp [mapSet, h1, mapGet, Ne.symm h]
    · by_cases e : a = c
      · subst e
        simp [mapSet, mapGet, Ne.symm h]
      · simp only [mapSet, h1, e, mapGet, if_false, ih]

theorem mapGet_mapDel_same (m : List (Nat × Word)) (a : Nat) : mapGet (mapDel m a) a = none := by
  induction m with
  | nil => rfl
  | cons x m ih =>
    obtain ⟨b, v⟩ := x
    by_cases e : b = a
    · simp [mapDel, e, ih]
    · simp [mapDel, e, mapGet, ih]

theorem mapGet_mapDel_ne (m : List (Nat × Word)) {a b : Nat} (h : b ≠ a) : mapGet (mapDel m a) b = mapGet m b := by
  induction m with
  | nil => rfl
  | cons x m ih =>
    obtain ⟨c, v⟩ := x
    by_cases e : c = a
    · subst e
      simp [mapDel, mapGet, ih, Ne.symm h]
    · simp only [mapDel, e, if_false, mapGet, ih]

/-! ### Words that software sees -/

@[simp] theorem Dev.rd_wr_same (d : Dev) (a : Nat) (w : Word) : (d.wr a w).rd a = w := by
  unfold Dev.rd Dev.wr
  by_cases h : w = regReset a
  · simp [h, mapGet_mapDel_same]
  · simp [h, mapGet_mapSet_same]

theorem Dev.rd_wr_ne (d : Dev) {a b : Nat} (w : Word) (h : b ≠ a) : (d.wr a w).rd b = d.rd b := by
  unfold Dev.rd Dev.wr
  by_cases e : w = regReset a
  · simp [e, mapGet_mapDel_ne _ h]
  · simp [e, mapGet_mapSet_ne _ _ h]

theorem Dev.rd_wr (d : Dev) (a b : Nat) (w : Word) : (d.wr a w).rd b = if b = a then w else d.rd b := by
  by_cases h : b = a
  · subst h
    simp
  · simp [h, Dev.rd_wr_ne]

@[simp] theorem Dev.rd_fset_same (d : Dev) (a hi lo n : Nat) : (d.fset a hi lo n).rd a = (d.rd a).put hi lo n := Dev.rd_wr_same d a _

theorem Dev.rd_fset_ne (d : Dev) {a b : Nat} (hi lo n : Nat) (h : b ≠ a) : (d.fset a hi lo n).rd b = d.rd b := Dev.rd_wr_ne d _ h

theorem Dev.rd_count_same (d : Dev) (a hi lo : Nat) :
    (d.count a hi lo).rd a = (d.rd a).put hi lo (min ((d.rd a).get hi lo + 1) (2 ^ (hi + 1 - lo) - 1)) := Dev.rd_wr_same d a _

theorem Dev.rd_count_ne (d : Dev) {a b : Nat} (hi lo : Nat) (h : b ≠ a) : (d.count a hi lo).rd b = d.rd b := Dev.rd_wr_ne d _ h

theorem Dev.rd_count32_ne (d : Dev) {a b : Nat} (h : b ≠ a) : (d.count32 a).rd b = d.rd b := Dev.rd_count_ne d 31 0 h

/-! ### Words in force -/

@[simp] theorem Dev.inf_setInf_same (d : Dev) (a : Nat) (w m : Word) : (d.setInf a w m).inf a = (d.inf a &&& ~~~m) ||| (w &&& m) := by
  by_cases h : (d.inf a &&& ~~~m) ||| (w &&& m) = regReset a
  · have e : d.setInf a w m = { d with inforce := mapDel d.inforce a } := by simp only [Dev.setInf, h, if_true]
    rw [e, h]
    simp [Dev.inf, mapGet_mapDel_same]
  · have e : d.setInf a w m = { d with inforce := mapSet d.inforce a ((d.inf a &&& ~~~m) ||| (w &&& m)) } := by
      simp only [Dev.setInf, h, if_false]
    rw [e]
    simp [Dev.inf, mapGet_mapSet_same]

theorem Dev.inf_setInf_ne (d : Dev) {a b : Nat} (w m : Word) (h : b ≠ a) : (d.setInf a w m).inf b = d.inf b := by
  by_cases e : (d.inf a &&& ~~~m) ||| (w &&& m) = regReset a
  · have q : d.setInf a w m = { d with inforce := mapDel d.inforce a } := by simp only [Dev.setInf, e, if_true]
    rw [q]
    simp [Dev.inf, mapGet_mapDel_ne _ h]
  · have q : d.setInf a w m = { d with inforce := mapSet d.inforce a ((d.inf a &&& ~~~m) ||| (w &&& m)) } := by
      simp only [Dev.setInf, e, if_false]
    rw [q]
    simp [Dev.inf, mapGet_mapSet_ne _ _ h]

/-! ### Events -/

/-- Raising an event sets its bit, is noted in the record of the cycle (R13) and may note a rise; that is everything. -/
theorem Dev.raise_eq (d : Dev) (a b : Nat) : ∃ rs sc, d.raise a b =
    { (if (d.rd a).bit b then d else d.wr a (d.rd a ||| BitVec.twoPow 32 b)) with rises := rs, same := sc } := by
  unfold Dev.raise
  dsimp only
  rw [Dev.rd_noteSet]
  by_cases h : (d.rd a).bit b = true
  · exact ⟨d.rises, (d.noteSet a (BitVec.twoPow 32 b)).same, by simp only [h, if_true]; rfl⟩
  · simp only [h, Bool.false_eq_true, if_false]
    split
    · split
      · exact ⟨_, _, rfl⟩
      · exact ⟨(d.wr a (d.rd a ||| BitVec.twoPow 32 b)).rises, _, rfl⟩
    · exact ⟨(d.wr a (d.rd a ||| BitVec.twoPow 32 b)).rises, _, rfl⟩

/-- Raising an event changes the register words, the rises and the record of the cycle, and nothing else. -/
theorem Dev.raise_frame (d : Dev) (a b : Nat) : ∃ m rs sc, d.raise a b = { d with regs := m, rises := rs, same := sc } := by
  obtain ⟨rs, sc, h⟩ := d.raise_eq a b
  rw [h]
  split
  · exact ⟨d.regs, rs, sc, rfl⟩
  · exact ⟨_, rs, sc, rfl⟩

theorem Dev.rd_raise_ne (d : Dev) {a x : Nat} (b : Nat) (h : x ≠ a) : (d.raise a b).rd x = d.rd x := by
  obtain ⟨rs, sc, e⟩ := d.raise_eq a b
  have : (d.raise a b).rd x = (if (d.rd a).bit b then d else d.wr a (d.rd a ||| BitVec.twoPow 32 b)).rd x := by rw [e]; rfl
  rw [this]
  split
  · rfl
  · exact d.rd_wr_ne _ h

theorem Dev.rd_raise_same (d : Dev) (a b : Nat) :
    (d.raise a b).rd a = if (d.rd a).bit b then d.rd a else d.rd a ||| BitVec.twoPow 32 b := by
  obtain ⟨rs, sc, e⟩ := d.raise_eq a b
  have : (d.raise a b).rd a = (if (d.rd a).bit b then d else d.wr a (d.rd a ||| BitVec.twoPow 32 b)).rd a := by rw [e]; rfl
  rw [this]
  split
  · rfl
  · exact d.rd_wr_same _ _

end Sys2Proof.Machine
end

