-- ==== Sys2Proof/Laws/Beam.lean ====
section
/-!
SUPPORT. What writes to the Ashlar store can do, each said once: a note of a word, a word of the solver, and a group of a cycle.
-/

namespace Sys2Proof.Machine

/-- A note of an Ashlar word changes nothing but what running copies and the scrubber know of it. -/
theorem Dev.ashlarNote_frame (d : Dev) (a : Nat) :
    ∃ e w, d.ashlarNote a = { d with beam := { d.beam with eccZero := e, written := w } } := ⟨_, _, rfl⟩

/-- A word of the solver: nothing where a command has brought it, and otherwise that word and no other. -/
theorem solverPut_spec (x : Dev × Mem) (a : Nat) (w : Word) :
    (x.1.beam.brought.contains a = true ∧ solverPut x a w = x) ∨
    (x.1.beam.brought.contains a = false ∧
      ∃ e v, solverPut x a w = ({ x.1 with beam := { x.1.beam with eccZero := e, written := v } }, Mem.setWord x.2 a w)) := by
  unfold solverPut
  cases h : x.1.beam.brought.contains a
  · exact .inr ⟨rfl, _, _, rfl⟩
  · exact .inl ⟨rfl, rfl⟩

/-- Words of the solver keep the canonical form of memory. -/
theorem solverPut_wf (x : Dev × Mem) (a : Nat) (w : Word) (h : Memory.wf x.2 = true) : Memory.wf (solverPut x a w).2 = true := by
  unfold solverPut
  split
  · exact h
  · exact Memory.wf_setWord a w h

/-- A list of words of the solver touches nothing of the device but what copies and the scrubber know of the store. -/
theorem solverPuts_frame (ws : List (Nat × Word)) (x : Dev × Mem) :
    ∃ e v, (ws.foldl (fun x y => solverPut x y.1 y.2) x).1 = { x.1 with beam := { x.1.beam with eccZero := e, written := v } } := by
  induction ws generalizing x with
  | nil => exact ⟨_, _, rfl⟩
  | cons y ws ih =>
    obtain ⟨e, v, h⟩ := ih (solverPut x y.1 y.2)
    rw [List.foldl_cons, h]
    rcases solverPut_spec x y.1 y.2 with ⟨_, k⟩ | ⟨_, e', v', k⟩
    · rw [k]; exact ⟨e, v, rfl⟩
    · rw [k]; exact ⟨e, v, rfl⟩

/-- A list of words of the solver keeps the canonical form of memory. -/
theorem solverPuts_wf (ws : List (Nat × Word)) (x : Dev × Mem) (h : Memory.wf x.2 = true) :
    Memory.wf (ws.foldl (fun x y => solverPut x y.1 y.2) x).2 = true := by
  induction ws generalizing x with
  | nil => exact h
  | cons y ws ih => exact ih _ (solverPut_wf x y.1 y.2 h)

/-- A count by a number changes its register and the record of the cycle. -/
theorem Dev.countBy_frame (d : Dev) (a hi lo n : Nat) : ∃ m sc, d.countBy a hi lo n = { d with regs := m, same := sc } := ⟨_, _, rfl⟩

/-- A group that is solved changes registers, their rises, the record of the cycle, and what copies and the scrubber know of the store. -/
theorem solveGroup_frame (d : Dev) (m : Mem) (g : SolveGroup) : ∃ rg rs sc e v, (solveGroup d m g).1 =
    { d with regs := rg, rises := rs, same := sc, beam := { d.beam with eccZero := e, written := v } } := by
  unfold solveGroup
  extract_lets own sol out ws
  obtain ⟨e, v, h⟩ := solverPuts_frame ws (d, m)
  dsimp only
  rw [h]
  generalize Reg.BEAM_SAT = sat
  generalize Reg.BEAM_SOLVER_ILL = ill
  generalize Reg.BEAM_EVT = evt
  generalize (out.map Prod.snd).sum = n
  obtain ⟨rg, sc, k⟩ := Dev.countBy_frame { d with beam := { d.beam with eccZero := e, written := v } } sat 31 16 n
  rw [k]
  split
  · obtain ⟨rg', rs, sc', k'⟩ := Dev.raise_frame (Dev.count32 { d with regs := rg, same := sc, beam := { d.beam with eccZero := e, written := v } } ill) evt 1
    obtain ⟨rg2, sc2, k2⟩ := Dev.countBy_frame { d with regs := rg, same := sc, beam := { d.beam with eccZero := e, written := v } } ill 31 0 1
    rw [k']
    unfold Dev.count32 Dev.count
    rw [k2]
    exact ⟨_, _, _, e, v, rfl⟩
  · exact ⟨_, _, _, e, v, rfl⟩

/-- A group that is solved keeps the canonical form of memory. -/
theorem solveGroup_wf (d : Dev) (m : Mem) (g : SolveGroup) (h : Memory.wf m = true) : Memory.wf (solveGroup d m g).2 = true :=
  solverPuts_wf _ (d, m) h

end Sys2Proof.Machine
end

