-- ==== Sys2Proof/Laws/Meanings.lean ====
section
/-!
SUPPORT. The forms of a meaning, each said once: what it answers in terms of the device function that it is given.
-/

namespace Sys2Proof.Machine

/-- A meaning on the device answers the device that its function makes. -/
theorem onDev_eq (s : State) (f : Dev → Dev) : onDev s f = .next { s with dev := f s.dev } := rfl

/-- A meaning on the device and its memories answers both. -/
theorem onMem_eq (s : State) (f : Dev → Mem → Dev × Mem) :
    onMem s f = .next { s with dev := (f s.dev s.mem).1, mem := (f s.dev s.mem).2 } := rfl

/-- A meaning whose effect may land or end something answers it settled. -/
theorem onSettled_eq (s : State) (f : Dev → Mem → Dev × Mem) :
    onSettled s f = .next { s with dev := (settled (f s.dev s.mem)).1, mem := (settled (f s.dev s.mem)).2 } := rfl

/-- The same, of a function on the device alone. -/
theorem onCommit_eq (s : State) (f : Dev → Dev) :
    onCommit s f = .next { s with dev := (settled (f s.dev, s.mem)).1, mem := (settled (f s.dev, s.mem)).2 } := rfl

/-- A row of the link while its domain answers. -/
theorem onLink_eq (s : State) (f : Dev → Dev) (h : s.dev.domainUp Reg.SKX_PHY_CFG = true) :
    onLink s f = .next { s with dev := (settled (f s.dev, s.mem)).1, mem := (settled (f s.dev, s.mem)).2 } := by
  simp [onLink, onCommit_eq, h]

/-- A row of the time unit while local time advances. -/
theorem onTime_eq (s : State) (f : Dev → Dev) (h : s.dev.time.adv = true) :
    onTime s f = .next { s with dev := (settled (f s.dev, s.mem)).1, mem := (settled (f s.dev, s.mem)).2 } := by
  simp [onTime, onCommit_eq, h]

/-- A timeout in whose own cycle the awaited arrival comes changes nothing (R12). -/
theorem unlessNow_arrives (s : State) (p : Instr → Bool) (o : Out) (h : s.thisCycle.any p = true) : unlessNow s p o = .next s := if_pos h

/-- A timeout whose arrival is not in its cycle has its effect. -/
theorem unlessNow_else (s : State) (p : Instr → Bool) (o : Out) (h : ¬ s.thisCycle.any p = true) : unlessNow s p o = o := if_neg h

/-! ### What settling does while ticks run -/

/-- While ticks run nothing lands outside a tick. -/
theorem settle_running (d : Dev) (m : Mem) (h : d.cad.running = true) : settle d m = (d, m) := by simp [settle, h]

/-- With no open command there is no final reply to send. -/
theorem Dev.finals_nil (d : Dev) (landed : Bool) (t : Nat) (h : d.drunas.cmds = []) : d.finals landed t = d := by simp [Dev.finals, h]

/-- While ticks run and no command is open, what follows an event changes nothing. -/
theorem settled_running (d : Dev) (m : Mem) (h : d.cad.running = true) (c : d.drunas.cmds = []) : settled (d, m) = (d, m) := by
  simp [settled, settle_running d m h, Dev.finalise, Dev.finals_nil _ _ _ c]

end Sys2Proof.Machine
end

