-- ==== Sys2Proof/Laws/Operations.lean ====
section
/-!
SUPPORT. What the shared operations can do, each said once: a report to the Sump, a commit, a message sent, a reply, an
instruction of a core. A proof about a meaning cites these and unfolds none of them.
-/

namespace Sys2Proof.Machine

/-! ### Reports -/

/-- What a report may have done to a device: registers, their rises and the record of the cycle, the Sump, and changes committed
behind those that wait. -/
def Reported (d e : Dev) : Prop :=
  ∃ m rs sc s cs, e = { d with regs := m, rises := rs, same := sc, sump := s, cad := { d.cad with changes := d.cad.changes ++ cs } }

theorem Reported.refl (d : Dev) : Reported d d := ⟨d.regs, d.rises, d.same, d.sump, [], by simp⟩

theorem Reported.of_regs (d : Dev) (m : List (Nat × Word)) (sc : SameCycle) : Reported d { d with regs := m, same := sc } :=
  ⟨m, d.rises, sc, d.sump, [], by simp⟩

theorem Reported.of_sump (d : Dev) (s : Sump) : Reported d { d with sump := s } := ⟨d.regs, d.rises, d.same, s, [], by simp⟩

theorem Reported.trans {d e f : Dev} (h : Reported d e) (k : Reported e f) : Reported d f := by
  obtain ⟨m, rs, sc, s, cs, rfl⟩ := h
  obtain ⟨m', rs', sc', s', cs', rfl⟩ := k
  exact ⟨m', rs', sc', s', cs ++ cs', by simp⟩

theorem Dev.wr_reported (d : Dev) (a : Nat) (w : Word) : Reported d (d.wr a w) := Reported.of_regs d _ d.same

theorem Dev.noteSet_reported (d : Dev) (a : Nat) (m : Word) : Reported d (d.noteSet a m) := Reported.of_regs d d.regs _

theorem Dev.count_reported (d : Dev) (a hi lo : Nat) : Reported d (d.count a hi lo) := Reported.of_regs d _ _

theorem Dev.raise_reported (d : Dev) (a b : Nat) : Reported d (d.raise a b) := by
  obtain ⟨m, rs, sc, h⟩ := d.raise_frame a b
  exact ⟨m, rs, sc, d.sump, [], by rw [h]; simp⟩

theorem Dev.modSrc_reported (d : Dev) (n : Fin 256) (f : Source → Source) : Reported d (d.modSrc n f) := Reported.of_sump d _

theorem Dev.commitRetire_reported (d : Dev) (c : Committer) (kind i : Nat) : Reported d (d.commitRetire c kind i) :=
  ⟨d.regs, d.rises, d.same, d.sump, _, rfl⟩

theorem reported_foldl {α : Type} (f : Dev → α → Dev) (h : ∀ d a, Reported d (f d a)) (l : List α) (d : Dev) :
    Reported d (l.foldl f d) := by
  induction l generalizing d with
  | nil => exact .refl d
  | cons a l ih => exact (h d a).trans (ih _)

theorem Dev.holdDependents_reported (d : Dev) (n : Nat) : Reported d (d.holdDependents n) :=
  reported_foldl _ (fun d _ => d.modSrc_reported _ _) _ d

theorem Dev.log_reported (d : Dev) (type n kind i count : Nat) (temp : Int) : Reported d (d.log type n kind i count temp) := by
  unfold Dev.log
  split
  · exact Reported.of_sump d _
  · exact (d.count_reported _ _ _).trans (Dev.raise_reported _ _ _)

theorem Dev.pulseFault_reported (d : Dev) (cause n : Nat) : Reported d (d.pulseFault cause n) := by
  have h : Reported d { d with sump := { d.sump with pulse := true } } := Reported.of_sump d _
  unfold Dev.pulseFault
  extract_lets
  split
  · exact h
  · exact ((((h.trans (Dev.wr_reported _ _ _)).trans (Dev.noteSet_reported _ _ _)).trans (Dev.wr_reported _ _ _)).trans
      (Dev.wr_reported _ _ _)).trans (Dev.wr_reported _ _ _)

theorem Dev.remedy_reported (d : Dev) (n : Fin 256) : Reported d (d.remedy n).1 := by
  unfold Dev.remedy
  split
  · split
    · exact .refl d
    split
    · dsimp only
      exact Dev.modSrc_reported d n _
    split
    · split
      · exact Dev.commitRetire_reported d _ _ _
      · dsimp only
        exact (Dev.commitRetire_reported d byFirmware _ _).trans (Dev.modSrc_reported _ n _)
    · exact Dev.commitRetire_reported d _ _ _
  · split
    · dsimp only
      exact reported_foldl (fun (d : Dev) p => d.commitRetire byFirmware 0 p) (fun d p => d.commitRetire_reported byFirmware 0 p) _ d
    · exact .refl d

theorem Dev.severe_reported (d : Dev) (n : Fin 256) (wire : Bool) : Reported d (d.severe n wire) := by
  unfold Dev.severe
  dsimp only
  refine Reported.trans ?_ (Dev.modSrc_reported _ n _)
  refine Reported.trans ?_ (Dev.log_reported _ _ _ _ _ _ _)
  refine Reported.trans ?_ (Dev.remedy_reported _ n)
  refine Reported.trans ?_ (Dev.pulseFault_reported _ _ _)
  exact (Dev.modSrc_reported d n _).trans (Dev.raise_reported _ _ _)

/-- A report changes registers, rises, the record of the cycle, the Sump, and commits changes behind those that wait; nothing else. -/
theorem Dev.report_reported (d : Dev) (n : Fin 256) : Reported d (d.report n) := by
  have h := d.count_reported (Reg.SUMP_SRC_STATUS n.val) 15 0
  have k := h.trans (Dev.holdDependents_reported _ n.val)
  unfold Dev.report
  dsimp only
  split
  · exact .refl d
  split
  · exact h
  split
  · exact k.trans (Dev.count_reported _ _ 31 0)
  split
  · split
    · exact Reported.trans (k.trans (Dev.modSrc_reported _ n _)) (Dev.severe_reported _ n false)
    · exact k.trans (Dev.modSrc_reported _ n _)
  · exact k.trans (Dev.modSrc_reported _ n _)

/-! ### Accesses that fail -/

/-- A count changes registers and the record of the cycle alone. -/
theorem Dev.count_frame (d : Dev) (a hi lo : Nat) : ∃ m sc, d.count a hi lo = { d with regs := m, same := sc } := ⟨_, _, rfl⟩

/-- A bus error changes registers and the record of the cycle alone. -/
theorem Dev.busError_regs (d : Dev) (i : Initiator) (write : Bool) (width addr : Nat) (c : BusCode) :
    ∃ m sc, d.busError i write width addr c = { d with regs := m, same := sc } := by
  have two : ∀ (e : Dev) (a b : Nat) (v w x : Word), (∃ m sc, e = { d with regs := m, same := sc }) →
      ∃ m sc, ((e.wr a v).noteSet a x).wr b w = { d with regs := m, same := sc } := by
    rintro _ a b v w x ⟨m, sc, rfl⟩
    exact ⟨_, _, rfl⟩
  have one : ∀ (e : Dev) (a : Nat), (∃ m sc, e = { d with regs := m, same := sc }) →
      ∃ m sc, e.count32 a = { d with regs := m, same := sc } := by
    rintro _ a ⟨m, sc, rfl⟩
    exact Dev.count_frame _ a 31 0
  have h := one d Reg.SYS_BUS_ERR_CNT ⟨d.regs, d.same, rfl⟩
  unfold Dev.busError
  dsimp only
  split
  · split
    · exact one _ _ h
    · exact two _ _ _ _ _ _ (one _ _ h)
  · split
    · exact h
    · exact two _ _ _ _ _ _ h

/-- An access that is stopped before its target answers the cause and does what a bus error does; memory stays. -/
theorem access32_stopped (d : Dev) (m : Mem) (i : Initiator) (write : Bool) (width a data : Nat) (c : BusCode)
    (h : d.stops i write width a = some c) :
    access32 d m i write width a data = (.error c, d.busError i write width a c, m) := by
  simp only [access32, h]

/-! ### Commits -/

/-- A commit appends one change and touches nothing else (R40). -/
theorem Dev.commit_eq (d : Dev) (c : Committer) (key : Setting) (ws : List (Nat × Word × Word)) (arg : Nat) :
    ∃ x : Change, x.key = key ∧ x.words = ws ∧ x.land = d.nextLanding ∧ x.arg = arg ∧ x.cmd = c.cmd ∧ x.atFrame = false ∧
      d.commit c key ws arg = { d with cad := { d.cad with changes := d.cad.changes ++ [x] } } :=
  ⟨_, rfl, rfl, rfl, rfl, rfl, rfl, rfl⟩

/-! ### Messages and replies -/

/-- A message sent changes the link alone; with no lane in the transmit set, nothing. -/
theorem Dev.send_link (d : Dev) (f : Nat) (ws : List Word) : ∃ l, d.send f ws = { d with link := l } := by
  unfold Dev.send
  split
  · exact ⟨d.link, rfl⟩
  · exact ⟨_, rfl⟩

/-- What a reply may have done to a device. -/
def Replied (d e : Dev) : Prop :=
  ∃ m rs sc l x s, e = { d with regs := m, rises := rs, same := sc, link := l, drunas := x, sec := s }

theorem Replied.trans {d e f : Dev} (h : Replied d e) (k : Replied e f) : Replied d f := by
  obtain ⟨m, rs, sc, l, x, s, rfl⟩ := h
  obtain ⟨m', rs', sc', l', x', s', rfl⟩ := k
  exact ⟨m', rs', sc', l', x', s', rfl⟩

theorem Replied.refl (d : Dev) : Replied d d := ⟨d.regs, d.rises, d.same, d.link, d.drunas, d.sec, rfl⟩

theorem Dev.count32_replied (d : Dev) (a : Nat) : Replied d (d.count32 a) := by
  obtain ⟨m, sc, h⟩ := d.count_frame a 31 0
  exact ⟨m, d.rises, sc, d.link, d.drunas, d.sec, h⟩

theorem Dev.raise_replied (d : Dev) (a b : Nat) : Replied d (d.raise a b) := by
  obtain ⟨m, rs, sc, h⟩ := d.raise_frame a b
  exact ⟨m, rs, sc, d.link, d.drunas, d.sec, h⟩

theorem Dev.send_replied (d : Dev) (f : Nat) (ws : List Word) : Replied d (d.send f ws) := by
  obtain ⟨l, h⟩ := d.send_link f ws
  exact ⟨d.regs, d.rises, d.same, l, d.drunas, d.sec, h⟩

theorem Dev.modDrunas_replied (d : Dev) (f : Drunas → Drunas) : Replied d (d.modDrunas f) :=
  ⟨d.regs, d.rises, d.same, d.link, f d.drunas, d.sec, rfl⟩

theorem Dev.nextTxSeq_replied (d : Dev) (spi : Bool) : Replied d (d.nextTxSeq spi).2 :=
  ⟨d.regs, d.rises, d.same, d.link, d.drunas, _, rfl⟩

/-- A delivered reply changes registers, rises, the link and the command processor alone. -/
theorem Dev.deliver_replied (d : Dev) (spi : Bool) (ws : List Word) : Replied d (d.deliver spi ws).1 := by
  unfold Dev.deliver
  split
  · split
    · exact (Dev.count32_replied _ _).trans (Dev.raise_replied _ _ _)
    · exact (Dev.modDrunas_replied _ _).trans (Dev.raise_replied _ _ _)
  · split
    · exact Dev.count32_replied _ _
    · exact Dev.send_replied _ _ _

/-- A reply changes what its delivery changes, and the outbound sequence numbers; nothing else. -/
theorem Dev.reply_replied (d : Dev) (spi auth : Bool) (op tag status supn time : Nat) (final : Bool) (results : List Word) :
    Replied d (d.reply spi auth op tag status supn time final results) := by
  have tail : ∀ (e : Dev) (ws : List Word), Replied d e → Replied d
      (let r := e.deliver spi ws
        let f := if (final && r.2) = true then r.1.count32 Reg.DRUNAS_DONE else r.1
        if (final && status == 2) = true then f.count32 Reg.DRUNAS_LATE else f) := by
    intro e ws h
    have k := h.trans (e.deliver_replied spi ws)
    dsimp only
    split <;> split
    · exact (k.trans (Dev.count32_replied _ _)).trans (Dev.count32_replied _ _)
    · exact k.trans (Dev.count32_replied _ _)
    · exact k.trans (Dev.count32_replied _ _)
    · exact k
  unfold Dev.reply
  cases auth
  · exact tail d _ (.refl d)
  · exact tail _ _ (d.nextTxSeq_replied spi)

/-! ### Instructions of a core -/

/-- An instruction without memory changes the cluster alone: on a core that runs an activation, that core's registers. -/
theorem Dev.issue_eq (d : Dev) (c : Fin 16) (need : Ctx → Nat) (cycles : Nat) (f : Ctx → Nat → Ctx) :
    d.issue c need cycles f = match d.running? c with
      | none => d
      | some _ => d.modCore c fun k => { k with ctx := (f k.ctx (max k.ctx.now (need k.ctx))).advance (max k.ctx.now (need k.ctx)) cycles } := rfl

/-- An instruction without memory touches nothing but the cluster. -/
theorem Dev.issue_chisel (d : Dev) (c : Fin 16) (need : Ctx → Nat) (cycles : Nat) (f : Ctx → Nat → Ctx) :
    ∃ x, d.issue c need cycles f = { d with chisel := x } := by
  rw [Dev.issue_eq]
  split
  · exact ⟨d.chisel, rfl⟩
  · exact ⟨_, rfl⟩

end Sys2Proof.Machine
end

