-- ==== Sys2Proof/Laws/Signal.lean ====
section
/-!
SUPPORT. The sample datapath: what rounding and saturation guarantee, and that precoding is undone by the receiver.
-/

namespace Sys2Proof.Machine

/-- A saturated component lies within full scale. -/
theorem satFull_range (f : Nat) (x : Int) (h : 0 < f) : -(f : Int) ≤ satFull f x ∧ satFull f x < f := by
  unfold satFull
  omega

/-- A component within full scale is left alone. -/
theorem satFull_id (f : Nat) (x : Int) (l : -(f : Int) ≤ x) (u : x < f) : satFull f x = x := by
  unfold satFull
  omega

/-- A whole number of steps is not rounded. -/
theorem roundEven_mul (q : Int) (d : Nat) (h : 0 < d) : roundEven (q * d) d = q := by
  have e : max 1 d = d := Nat.max_eq_right h
  unfold roundEven
  simp only [e, Int.mul_emod_left, Int.mul_ediv_cancel q (by omega : (d : Int) ≠ 0)]
  simp [h]

/-- A gain word of 16384 passes every sample within full scale (R97). -/
theorem gainOut_unity (f : Nat) (x : Cpx) (hr : -(f : Int) ≤ x.re ∧ x.re < f) (hi : -(f : Int) ≤ x.im ∧ x.im < f) :
    gainOut f 16384 x = x := by
  have r := roundEven_mul x.re 16384 (by decide)
  have i := roundEven_mul x.im 16384 (by decide)
  unfold gainOut roundTo Cpx.scale
  simp only [Nat.cast_ofNat, Int.mul_comm (16384 : Int)] at r i ⊢
  rw [r, i, satFull_id _ _ hr.1 hr.2, satFull_id _ _ hi.1 hi.2]

/-- A receiver that expects precoding recovers the Gray values (R251). -/
theorem recover_precode (gs : List Nat) (p : Nat) (h : ∀ g ∈ gs, g < 4) : recoverSymbols p (precodeSymbols p gs) = gs := by
  induction gs generalizing p with
  | nil => rfl
  | cons g gs ih =>
    have hg := h g (List.mem_cons_self ..)
    simp only [precodeSymbols, recoverSymbols]
    rw [ih _ fun x hx => h x (List.mem_cons_of_mem _ hx)]
    congr 1
    omega

end Sys2Proof.Machine
end

