-- ==== Sys2Proof/Safety.lean ====
section
/-!
DEFINITION. What a safe step and a safe run are. The block has no fault of its own (log entry 6): what goes wrong in it is recorded in
registers, held, retired or reported, which are next states. A step is safe where it answers a next state.
-/

namespace Sys2Proof.Machine

/-- A step is safe: it answers a next state. -/
def SafeStep (s : State) : Prop := ∃ t, step s = .next t

/-- The queue holds well-formed commands only. -/
def WellFormedQueue (s : State) : Prop := ∀ c ∈ s.pending, c.wf = true

/-- What `n` steps answer: the state they lead to, or the first fault or refusal. -/
def run : Nat → State → Host.Outcome State Fault Refusal
  | 0, s => .next s
  | n + 1, s =>
    match step s with
    | .next t => run n t
    | .fault f => .fault f
    | .refused r => .refused r

/-- A run of `n` steps is safe: it answers a next state. -/
def SafeRun (n : Nat) (s : State) : Prop := ∃ t, run n s = .next t

end Sys2Proof.Machine
end

