-- ==== Sys2Proof/Tests/Slice0.lean ====
section
/-!
SUPPORT. Tests: a smoke test of the operand checks, single steps whose results the spec's tables give, and, for the statements of
Certificates/Slice0, states and operands that meet their hypotheses (the theorems named witness_…).
-/

namespace Sys2Proof.Tests

open Sys2Proof Sys2Proof.Machine Sys2Proof.Cert

/-! ### States to test on -/

/-- A part in Ready with every domain on and ticks running, some way into symbol 7. -/
def base : State :=
  let s := State.reset
  { s with dev := { s.dev with
      power := { s.dev.power with dev := 3, phase := 0, rails := 6, booted := true, fabric := true, ctrl := .on, dsp := .on,
                                  chisel := .on, skx := .on, tile := Vector.replicate 4 .on },
      time := { s.dev.time with adv := true },
      cad := { s.dev.cad with running := true, tickIdx := 7, len := 4000 },
      bias := { s.dev.bias with linkUp := true, vbp := true, vbn := true, vbio := true, wdHold := false, railHold := false } } }

/-- `base` with its device changed. -/
def baseWith (f : Dev → Dev) : State := withDev base (f base.dev)

/-- `base` with its cadence unit changed. -/
def cadWith (f : Cadence → Cadence) : State := baseWith fun d => { d with cad := f d.cad }

/-- `base` with its power controller changed. -/
def powWith (f : Power → Power) : State := baseWith fun d => { d with power := f d.power }

/-- The next state of a command, or the state it started from where there is none. -/
def nextOf (c : Instr) (s : State) : State :=
  match exec c s with
  | .next t => t
  | _ => s

/-- The next state of the step, likewise. -/
def stepOf (s : State) : State :=
  match step s with
  | .next t => t
  | _ => s

/-! ### Operand checks: an ill-formed command for each, which is refused -/

theorem test_wf_width : (Instr.registerWrite .spi 24 0x100 0).wf = false ∧
    exec (.registerWrite .spi 24 0x100 0) base = .refused .illFormed := ⟨by decide, by rfl⟩
theorem test_wf_address : (Instr.registerWrite .spi 32 0x100000000 0).wf = false ∧
    exec (.registerWrite .spi 32 0x100000000 0) base = .refused .illFormed := ⟨by decide, by rfl⟩
theorem test_wf_ashlar : (Instr.ashlarWrite .spi 0xFFFFFC 0).wf = false ∧ (Instr.ashlarWrite .spi 0x1000002 0).wf = false ∧
    (Instr.ashlarWrite .spi 0x2400000 0).wf = false ∧ (Instr.ashlarWrite .spi 0x23FFFFC 0).wf = true ∧
    exec (.ashlarWrite .spi 0x1000002 0) base = .refused .illFormed := ⟨by decide, by decide, by decide, by decide, by rfl⟩
theorem test_wf_ashlar_ecc : (Instr.ashlarEccError 0x2400000 true).wf = false ∧
    exec (.ashlarEccError 0x2400000 true) base = .refused .illFormed := ⟨by decide, by rfl⟩
theorem test_wf_luts : (Instr.dpdUpdateDone 0 [1, 2]).wf = false ∧ exec (.dpdUpdateDone 0 [1, 2]) base = .refused .illFormed :=
  ⟨by decide, by rfl⟩
theorem test_wf_codeword : (Instr.codewordReceived 0 (some 16)).wf = false ∧ (Instr.codewordReceived 0 (some 15)).wf = true ∧
    exec (.codewordReceived 0 (some 16)) base = .refused .illFormed := ⟨by decide, by decide, by rfl⟩
theorem test_wf_cell : (Instr.cellReceived 0 [1] false).wf = false ∧ exec (.cellReceived 0 [1] false) base = .refused .illFormed :=
  ⟨by decide, by rfl⟩
theorem test_wf_sensor : (Instr.thermalSample 0 32768 0).wf = false ∧ (Instr.thermalSample 0 0 65536).wf = false ∧
    (Instr.thermalSample 0 (-32768) 65535).wf = true ∧ exec (.thermalSample 0 32768 0) base = .refused .illFormed :=
  ⟨by decide, by decide, by decide, by rfl⟩

/-! ### Hypotheses that are met: the block and its cadence -/

theorem witness_StepRunsFrontCommand : ({ base with pending := [.cutoff, .tick] } : State).pending = .cutoff :: [.tick] := rfl
theorem witness_IdleStep_passes : base.pending = [] ∧ base.dev.canPass 1 = true := by decide
theorem witness_IdleStep_waits : (cadWith fun c => { c with since := 4000, frozen := true }).pending = [] ∧
    (cadWith fun c => { c with since := 4000, frozen := true }).dev.canPass 1 = false := by decide
theorem witness_MeaningsAnswer : (∃ t, exec .faultnPulseEnd base = .next t) ∧ Instr.cutoff.wf = true ∧
    (Instr.ashlarWrite .spi 2 0).wf = false := ⟨⟨_, rfl⟩, by decide, by decide⟩
theorem witness_StepKeepsMemoryForm : Memory.wf ({ base with mem := [(0x3000000, 1)] } : State).mem = true ∧
    ∃ t, step { base with mem := [(0x3000000, 1)] } = .next t := ⟨by decide, ⟨_, rfl⟩⟩
theorem witness_QuietStatesSettle : Quiet base.dev := ⟨rfl, .inl rfl⟩
theorem witness_QuietStates_stopped : Quiet State.reset.dev := ⟨rfl, .inr ⟨rfl, rfl⟩⟩

/-- Three commits of a setting and one of another: the second of the setting wins, in the same cycle as the first, from a later
initiator. -/
def threeCommits : List Change :=
  [⟨.word 0x40000, [], 8, false, 5, 1, none, 0, none⟩, ⟨.word 0x40000, [], 8, false, 5, 4, none, 1, none⟩,
   ⟨.word 0x40004, [], 8, false, 4, 0, none, 2, none⟩, ⟨.word 0x40000, [], 8, false, 4, 5, none, 3, none⟩]
theorem test_latest_commit_wins : (superseded threeCommits).1.map (·.arg) = [1, 2] ∨ (superseded threeCommits).1.map (·.arg) = [2, 1] := by
  decide

theorem witness_CutoffFreezes : base.dev.cad.running = true ∧ base.dev.cad.frozen = false ∧ base.dev.cad.midDone = true ∧
    base.dev.cad.changes = [] ∧ base.dev.cad.muHeld = none := by decide

/-- A power-step index of path 5 of tile 2 that lands at the most recent tick. -/
def stepChange : Change :=
  { key := .word (Reg.TILE_PIDX 2 5), words := [(Reg.TILE_PIDX 2 5, 3, 0x3FF#32)], land := 7, atFrame := false, stamp := 0, rank := 4,
    cmd := none, arg := 0, latch := some 0x801#32 }
def landing : State := cadWith fun c => { c with midDone := false, changes := [stepChange] }
theorem witness_SteppedWordLands : landing.dev.cad.running = true ∧ landing.dev.cad.midDone = false ∧
    landing.dev.cad.changes = [stepChange] ∧ stepChange.key = .word (Reg.TILE_PIDX 2 5) ∧
    stepChange.words = [(Reg.TILE_PIDX 2 5, 3, 0x3FF#32)] ∧ stepChange.latch = some 0x801#32 ∧
    stepChange.land ≤ landing.dev.cad.tickIdx ∧ stepChange.atFrame = false ∧ landing.dev.drunas.cmds = [] := by decide

theorem witness_TicksStartAtTheFrame : (cadWith fun c => { c with running := false, startAt := some 4915200 }).dev.cad.startAt =
      some 4915200 ∧ (cadWith fun c => { c with running := false, startAt := some 4915200 }).dev.cad.running = false ∧
    (cadWith fun c => { c with running := false, startAt := some 4915200 }).dev.time.adv = true := by decide

def frozen : State := cadWith fun c => { c with frozen := true }
theorem witness_TickBeginsTheSymbol : frozen.dev.cad.running = true ∧ frozen.dev.cad.midDone = true ∧ frozen.dev.cad.frozen = true ∧
    frozen.dev.stepRipe = false ∧ frozen.dev.cad.changes = [] ∧ frozen.dev.drunas.cmds = [] := by decide
theorem witness_TickAtAFrame : isFrame (cadWith fun c => { c with nom := 4915200 - 35072 }).dev.nextNom = true ∧
    isFrame base.dev.nextNom = false := by decide
theorem witness_SymbolGrid : (3 < 4) ∧ 7 < 2 ^ 3 ∧ 13 < 14 ∧ (14 * 4 + 0) % (7 * 2 ^ 3) = 0 ∧ (14 * 7 + 13) % (7 * 2 ^ 3) ≠ 0 := by decide

/-! ### Chisel -/

/-- A user kernel of slot 0 on core 3: 4 KiB of X from 0, of Y from 0x10000 and of C from 0x20000, and a cluster window. -/
def kern : Kernel :=
  { slot := 0, user := true, handle := 1, evicted := false, released := true, stateLost := false, pinned := false, core := 3,
    home := none, trig := false, w := 1000, span := 1, every := 1, entry := 0, x := (0, 0x1000), y := (0x10000, 0x1000),
    c := (0x20000, 0x1000), i := (0x30000, 0x100), win := (0x3000000, 0x10000), order := 0, from_ := 0, trigger := false,
    active := some 8, count := 4, ctx := Ctx.reset, unload := false, fpf := 0, max := 0, last := 0, acts := 4 }

/-- The registers of its activation: S8 to S10 at its areas, S2 = 5, S3 = 0xFFFFFFFE, S4 at its window, S5 at the end of X. -/
def ctx0 : Ctx :=
  { Ctx.reset with s := #v[4, 0x3000000, 5, 0xFFFFFFFE, 0x3000000, 0xFFC, 0x40, 0, 0, 0x10000, 0x20000, 0xFFC, 0, 0, 0, 0], pc := 9 }

/-- `base` with that activation on core 3. -/
def running : State :=
  baseWith fun d => { d with chisel := { d.chisel with
    kernels := [kern], cores := d.chisel.cores.set 3 { Core.reset with run := some 0, ctx := ctx0 } } }

/-- Pointers S8 + p with an increment. -/
def px : MemOp := ⟨0, 1⟩
def py : MemOp := ⟨1, 2⟩
def pc : MemOp := ⟨2, -1⟩
/-- The last word of X, and a pointer that leaves every area. -/
def pl : MemOp := ⟨3, 0⟩

theorem witness_Issues : Issues running 3 kern := by unfold Issues; decide
theorem witness_ChiselVectorMoves : (15 : Fin 32).val < 16 ∧ 16 ≤ (16 : Fin 32).val := by decide
theorem witness_ChiselLoads : kern.reaches [.x, .y, .c] ((ctxOf running 3).addr pl) 4 = true ∧
    kern.reaches [.x, .y] ((ctxOf running 3).addr px) 64 = true ∧ kern.reaches [.x] ((ctxOf running 3).addr px) 64 = true ∧
    kern.reaches [.y] ((ctxOf running 3).addr py) 64 = true ∧ kern.reaches [.c] ((ctxOf running 3).addr pc) 4 = true ∧
    kern.reaches [.x] ((ctxOf running 3).addr pl) 4 = true := by decide
theorem witness_ChiselAccessFault : Issues running 3 kern ∧ kern.user = true ∧
    kern.reaches [.x, .y] ((ctxOf running 3).addr pl) 64 = false ∧ kern.reaches [.x, .y] ((ctxOf running 3).addr pc) 4 = false ∧
    kern.reaches [.c] ((ctxOf running 3).addr px) 4 = false ∧ kern.reaches [.x, .y, .c] ((ctxOf running 3).addr ⟨7, 0⟩) 4 = true := by
  unfold Issues; decide
theorem witness_ChiselAccessFault_load : (withCtx running 3 { ctx0 with s := ctx0.s.set 8 2 }).dev.running? 3 = some kern ∧
    kern.reaches [.x, .y, .c] ((ctxOf (withCtx running 3 { ctx0 with s := ctx0.s.set 8 2 }) 3).addr px) 4 = false := by decide
theorem witness_ChiselControl : (ctxOf running 3).s[sIx 7] = 0 ∧ (ctxOf running 3).s[sIx 2] ≠ 0 ∧ (0 : BitVec 16) = 0 ∧
    (3 : BitVec 16) ≠ 0 ∧ (ctxOf running 3).loops.length < 3 := by decide
theorem witness_ChiselTransfers : (0x40 : BitVec 24).toNat % 4 = 0 ∧
    kern.reaches [.x, .y, .c, .i] ((ctxOf running 3).s[sIx 6]).toNat 0x40 = true ∧ ((ctxOf running 3).s[sIx 4]).toNat % 4 = 0 ∧
    kern.win.1 ≤ ((ctxOf running 3).s[sIx 4]).toNat ∧ ((ctxOf running 3).s[sIx 4]).toNat + 0x40 ≤ kern.win.1 + kern.win.2 ∧
    (running.dev.chisel.cores[(3 : Fin 16)]).xfers.length < 2 := by decide

/-- Two transfers are outstanding on core 3. -/
def moving : State := withDev running (running.dev.modCore 3 fun k => { k with xfers := [⟨0x40, 0x3000000, 8, true⟩, ⟨0, 0x3000000, 8, false⟩] })
theorem witness_ChiselTransfers_third : Issues moving 3 kern ∧ 2 ≤ (moving.dev.chisel.cores[(3 : Fin 16)]).xfers.length := by
  unfold Issues; decide
theorem witness_ChiselTransferDone : (moving.dev.chisel.cores[(3 : Fin 16)]).xfers =
    ⟨0x40, 0x3000000, 8, true⟩ :: [⟨0, 0x3000000, 8, false⟩] := by decide
theorem witness_ChiselActivations : Issues running 3 kern ∧ kern.user = true ∧ (running.dev.chisel.cores[(3 : Fin 16)]).testing = false ∧
    running.dev.kernel? kern.slot = some kern ∧ (∀ o ∈ running.dev.chisel.kernels, o.active.isSome = true → o.slot = kern.slot) ∧
    kern.unload = false := by unfold Issues; decide

/-- `running` with the kernel between two activations, at the start of a tick. -/
def due : Kernel := { kern with active := none }
def releasing : State := baseWith fun d => { d with chisel := { d.chisel with kernels := [due] } }
theorem witness_ChiselRelease : releasing.dev.kernel? 0 = some due ∧ releasing.dev.releaseDue 0 = true ∧
    (releasing.dev.chisel.cores[toCore due.core]).run = none ∧ (releasing.dev.chisel.cores[toCore due.core]).retired = false ∧
    (releasing.dev.chisel.cores[toCore due.core]).testing = false ∧ (releasing.dev.chisel.cores[toCore due.core]).waiting = false ∧
    (releasing.dev.chisel.cores[toCore due.core]).held = none ∧ due.core < 16 ∧ ∀ o ∈ releasing.dev.chisel.kernels, o.active = none := by
  decide

def settling : State := baseWith fun d => { d with chisel := { d.chisel with op := 0, opTgt := some 1 } }
theorem witness_ChiselSupply : settling.dev.chisel.opTgt = some 1 ∧ settling.dev.chisel.op < 1 ∧ settling.dev.chisel.settled = false ∧
    settling.dev.chisel.waitLoads = [] := by decide
/-- A settling or an END that comes in the cycle of its time limit. -/
theorem witness_Chisel_yields : (ArrivesNow { running with pending := [.endAct 3] } fun i => i == .endAct 3) ∧
    ¬ (ArrivesNow running fun i => i == .endAct 3) ∧ (ArrivesNow { settling with pending := [.vdspSettled] } fun i => i == .vdspSettled) ∧
    ¬ ArrivesNow { settling with pending := [.cutoff, .vdspSettled] } fun i => i == .vdspSettled := by unfold ArrivesNow; decide
theorem witness_ChiselEccReport : (running.dev.chisel.cores[(3 : Fin 16)]).run = some 0 ∧ running.dev.kernel? 0 = some kern ∧ kern.user = true ∧
    ∀ o ∈ running.dev.chisel.kernels, o.active.isSome = true → o.slot = 0 := by decide

/-! ### Tiles, converters, time -/

/-- A tile at SynthOn whose synthesizer A is qualified at 9830.4 MHz, divided by 2, and whose B runs as well. -/
def synOn : Tile :=
  let y : Syn := { Syn.reset with run := true, qual := true, ld := true, int := 20, frac := 0, band := some ⟨1, 20 * 2 ^ 32, 0, 0, 64 * 2 ^ 32⟩ }
  { Tile.reset with level := 2, synA := y, synB := y }
def tileWith (f : Tile → Tile) : State := baseWith fun d => { d with tiles := d.tiles.set 1 (f synOn) }

def arriving : State := tileWith fun x => { x with level := 1, goal := some 2 }
theorem witness_Transitions_path : (baseWith fun d => d.modPath 17 fun x => { x with transit := some 2 }).dev.cad.running = true ∧
    ((baseWith fun d => d.modPath 17 fun x => { x with transit := some 2 }).dev.paths[(17 : Fin 64)]).transit = some 2 := by decide
theorem witness_Transitions_tile : arriving.dev.cad.running = true ∧ (arriving.dev.tiles[(1 : Fin 4)]).goal = some 2 ∧
    ((arriving.dev.tiles[(1 : Fin 4)]).syn (arriving.dev.tiles[(1 : Fin 4)]).act).qual = true ∧
    wordValid ((arriving.dev.tiles[(1 : Fin 4)]).syn (arriving.dev.tiles[(1 : Fin 4)]).act).int
      ((arriving.dev.tiles[(1 : Fin 4)]).syn (arriving.dev.tiles[(1 : Fin 4)]).act).frac = true := by decide
theorem witness_Transitions_lower : ((tileWith fun x => { x with goal := some 1 }).dev.tiles[(1 : Fin 4)]).goal = some 1 ∧
    ∀ p ∈ pathsOf 1, ((tileWith fun x => { x with goal := some 1 }).dev.paths[p]).mode = 0 ∧
      ((tileWith fun x => { x with goal := some 1 }).dev.paths[p]).transit = none := by decide

/-- Path 17 enters Receive while its tile's LO is unqualified; the settling length is that of the reset configuration. -/
def entering : State := let s := tileWith fun x => { x with synA := { x.synA with qual := false } }
  withDev s (s.dev.modPath 17 fun x => { x with transit := some 1 })
theorem witness_Transitions_receive : entering.dev.cad.running = true ∧ (entering.dev.paths[(17 : Fin 64)]).transit = some 1 ∧
    ((entering.dev.tiles[tileOf 17]).syn (entering.dev.tiles[tileOf 17]).act).qual = false ∧ (entering.dev.paths[(17 : Fin 64)]).mode ≠ 1 ∧
    ((entering.dev.setInf (Reg.BEAM_CAR_CFG 0) 0x80000000 0xFFFFFFFF#32)).settleLen ≠ 0 := by decide
theorem witness_Transitions_via : ((tileWith fun x => { x with level := 0, goal := some 2, via := true }).dev.tiles[(1 : Fin 4)]).goal = some 2 ∧
    ((tileWith fun x => { x with level := 0, goal := some 2, via := true }).dev.tiles[(1 : Fin 4)]).via = true ∧
    (arriving.dev.tiles[(1 : Fin 4)]).via = false := by decide
theorem witness_LoQualificationLost : (((tileWith id).dev.tiles[(1 : Fin 4)]).syn false).run = true ∧
    (((tileWith id).dev.tiles[(1 : Fin 4)]).syn false).qual = true ∧ ((tileWith id).dev.tiles[(1 : Fin 4)]).act = false ∧
    ((tileWith id).dev.tiles[(1 : Fin 4)]).level = 2 ∧ ((tileWith id).dev.tiles[(1 : Fin 4)]).goal = none ∧
    (((tileWith id).dev.tiles[(1 : Fin 4)]).syn true).qual = true := by decide
def relocking : State := tileWith fun x => { x with synA := { x.synA with qual := false } }
theorem witness_LoQualificationRegained : relocking.dev.cad.running = true ∧
    (((relocking.dev.tiles[(1 : Fin 4)]).syn false).run = true ∧ ((relocking.dev.tiles[(1 : Fin 4)]).syn false).qual = false ∧
     ((relocking.dev.tiles[(1 : Fin 4)]).syn false).retired = false ∧
     wordValid ((relocking.dev.tiles[(1 : Fin 4)]).syn false).int ((relocking.dev.tiles[(1 : Fin 4)]).syn false).frac = true ∧
     ((relocking.dev.tiles[(1 : Fin 4)]).syn false).busy ≠ .cold ∧ ((relocking.dev.tiles[(1 : Fin 4)]).syn false).band.isSome = true ∧
     (relocking.dev.tiles[(1 : Fin 4)]).rebandHo = false) := by decide
theorem witness_LoQualificationRegained_loFrom : (relocking.dev.tiles[(1 : Fin 4)]).act = false ∧
    (relocking.dev.tiles[(1 : Fin 4)]).loFrom = none := by decide
/-- The standby role: 1 hot, in TILE_SYN_CTRL [5:4]. -/
def hotStandby : State := withDev (tileWith id) ((tileWith id).dev.wr (Reg.TILE_SYN_CTRL 1) 0x10)
theorem witness_TrackWindowExit : ((hotStandby.dev.tiles[(1 : Fin 4)]).syn false).run = true ∧ (hotStandby.dev.tiles[(1 : Fin 4)]).level = 2 ∧
    ((hotStandby.dev.tiles[(1 : Fin 4)]).syn false).qual = true ∧ ((hotStandby.dev.tiles[(1 : Fin 4)]).syn true).qual = true ∧
    hotStandby.dev.stbyRole 1 = 1 ∧ ((hotStandby.dev.tiles[(1 : Fin 4)]).syn true).run = true ∧
    (withDev (tileWith id) ((tileWith id).dev.wr (Reg.TILE_SYN_CTRL 1) 0)).dev.stbyRole 1 ≠ 1 := by decide

/-- Tile 0's relief converters run; the DAC pair is in a phase. -/
def reliefWith (f : Relief → Relief) : State :=
  baseWith fun d => (d.wr (Reg.TILE_RELIEF_CFG 0) 0xC0000010).modRelief 0 fun r => { r with started := true, slot := 3, dac := f r.dac }
theorem witness_ReliefRotation_slot : (reliefWith id).dev.cad.running = true ∧ ((reliefWith id).dev.relief[(0 : Fin 4)]).stops = false ∧
    ((reliefWith id).dev.relief[(0 : Fin 4)]).started = true ∧ ((reliefWith id).dev.relief[(0 : Fin 4)]).adc.failedReturn = false ∧
    ((reliefWith id).dev.relief[(0 : Fin 4)]).dac.failedReturn = false ∧
    (((reliefWith id).dev.relief[(0 : Fin 4)]).pair true).retired = false ∧
    (((reliefWith id).dev.relief[(0 : Fin 4)]).pair true).testing = false ∧ (reliefWith id).dev.reliefRuns 0 true = true ∧
    (((reliefWith id).dev.relief[(0 : Fin 4)]).pair true).phase = 0 ∧ (((reliefWith id).dev.relief[(0 : Fin 4)]).pair true).forRetired = false ∧
    (reliefWith id).dev.slotAfter 0 ((reliefWith id).dev.relief[(0 : Fin 4)]).slot < 16 := by decide
theorem witness_ReliefRotation_last : ((reliefWith id).dev.modRelief 0 fun r => { r with slot := 15 }).slotAfter 0 15 = 16 := by decide
/-- The DAC pair's window of a takeover has closed; over `whole` of its symbols the path was qualified. -/
def judging (whole : Nat) : State := reliefWith fun x => { x with phase := 1, closed := true, whole := whole }
theorem witness_ReliefRotation_judge : (((judging 3).dev.relief[(0 : Fin 4)]).pair true).phase = 1 ∧
    (((judging 3).dev.relief[(0 : Fin 4)]).pair true).closed = true ∧ 0 < (((judging 3).dev.relief[(0 : Fin 4)]).pair true).whole ∧
    (((judging 0).dev.relief[(0 : Fin 4)]).pair true).whole = 0 ∧ (judging 3).dev.cad.running = true ∧
    16 ≤ ((judging 3).dev.rd (Reg.TILE_RELIEF_CFG 0)).get 7 0 ∧ ((judging 3).dev.rd (Reg.TILE_RELIEF_CFG 0)).get 7 0 < 17 ∧
    State.reset.dev.cad.running = false := by decide
theorem witness_ReliefCalibrationEnds :
    (((reliefWith fun x => { x with phase := 2, calibrating := true }).dev.relief[(0 : Fin 4)]).pair true).calibrating = true := by decide

def ripeStep : Machine.Step := ⟨false, -5, none, 8⟩
def stepping : State := withDev frozen { frozen.dev with time := { frozen.dev.time with step := some ripeStep } }
theorem witness_TimeStepApplies : stepping.dev.cad.running = true ∧ stepping.dev.cad.midDone = true ∧ stepping.dev.cad.frozen = true ∧
    stepping.dev.time.step = some ripeStep ∧ ripeStep.abs = false ∧ ripeStep.cmd = none ∧ ripeStep.ripe ≤ stepping.dev.cad.tickIdx + 1 ∧
    stepping.dev.drunas.cmds = [] ∧ stepping.dev.cad.changes = [] ∧ ∀ p : Fin 64, stepping.dev.transmitsNext p = false := by decide
theorem witness_TimeStepForced : ∃ p : Fin 64, (stepping.dev.modPath 9 fun x => { x with mode := 2 }).transmitsNext p = true :=
  ⟨9, by decide⟩

/-- Slot 31 is armed with an action for a time that has come, without a period. -/
def slotWith (action : Nat) : State := baseWith fun d => d.wr (Reg.TIME_SCHED_CTRL 31) ((0x80000000 : Word).put 19 16 action)
theorem witness_SlotsFire : ∀ a ∈ [1, 2, 3, 4, 5, 6, 15], (slotWith a).dev.slotArmed 31 = true ∧ (slotWith a).dev.slotD 31 ≤ 0 ∧
    ((slotWith a).dev.rd (Reg.TIME_SCHED_CTRL 31)).get 15 0 = 0 ∧ (slotWith a).dev.slotAction 31 = a ∧
    (slotWith a).dev.drunas.ring.length < 64 ∧ (slotWith a).dev.slotTarget 31 ≤ (slotWith a).dev.cad.tickIdx ∧
    (slotWith a).dev.cad.running = true := by decide
theorem witness_SlotsFire_pps : ∀ m ∈ [1, 2], (((slotWith 4).dev.wr Reg.TIME_PPS_CFG 0x80000000).wr (Reg.TIME_SCHED_ARG 31) (BitVec.ofNat 32 m)).rd
      Reg.TIME_PPS_CFG = 0x80000000 ∧ ((0x80000000 : Word).get 31 30 = 2) ∧ Word.get (BitVec.ofNat 32 m) 1 0 = m := by decide

/-- The triggered kernel of handle 7. -/
def trigKern : Kernel := { due with trig := true, handle := 7 }
def triggered : State :=
  let s := slotWith 5
  withDev s { s.dev.wr (Reg.TIME_SCHED_ARG 31) 7 with chisel := { s.dev.chisel with kernels := [trigKern] } }
theorem witness_SlotsFire_kernel : triggered.dev.chisel.kernels.find? (fun (k : Kernel) =>
      k.user && k.handle == (triggered.dev.rd (Reg.TIME_SCHED_ARG 31)).get 15 0) = some trigKern ∧
    triggered.dev.slotAction 31 = 5 ∧ triggered.dev.kernel? trigKern.slot = some trigKern ∧ trigKern.trig = true ∧
    trigKern.evicted = false ∧ trigKern.unload = false ∧ trigKern.active = none ∧ kern.active.isSome = true := by decide
theorem witness_SlotsFire_command : ringBytes (slotWith 3).dev.drunas.ring + 4 * (Mem.words (slotWith 3).mem captureBase
    (impliedWords (Mem.word (slotWith 3).mem (captureBase + 4)))).length ≤ 65536 := by decide

/-- Slot 31 is armed for a time 2 cycles ahead of local time, which moves; nothing else comes first. -/
def ahead : State := let s := slotWith 4
  withDev s { s.dev.wr (Reg.TIME_SCHED_LO 31) 4 with time := { s.dev.time with now := 0, inc := 2 * fracScale } }
theorem witness_SlotInstant_ahead : SlotInstant ahead 31 (ahead.dev.passCycles 2) :=
  ⟨by decide, .inr ⟨by decide, 2, by decide, by decide, rfl⟩⟩
theorem witness_SlotInstant_due : SlotInstant (slotWith 4) 31 (slotWith 4).dev := ⟨by decide, .inl ⟨by decide, rfl⟩⟩
theorem witness_SlotCommits_late : SlotCommits (slotWith 1) 31 (slotWith 1).dev ((slotWith 1).dev.slotTarget 31) :=
  .inl ⟨by decide, by decide, .inr ⟨by decide, rfl, rfl⟩⟩
theorem witness_SlotCommits_stopped : let s := withDev (slotWith 2) { (slotWith 2).dev with cad := { (slotWith 2).dev.cad with running := false } }
    SlotCommits s 31 s.dev s.dev.nextLanding := .inr ⟨by decide, ⟨by decide, .inl ⟨by decide, rfl⟩⟩, rfl⟩
/-- A slot for the tick that comes next, whose commit instant can still be reached. -/
def bound (action : Nat) : State := let s := slotWith action
  withDev s { s.dev.wr (Reg.TIME_SCHED_LO 31) 10 with cad := { s.dev.cad with since := 0 }, time := { s.dev.time with now := 0 } }
theorem witness_SlotCommits_ahead : let s := bound 1
    let k := s.dev.toEdge - (s.dev.leadCycles + nsCycles 500)
    SlotCommits s 31 (s.dev.passCycles k) (s.dev.cad.tickIdx + 1) ∧ (s.dev.passCycles k).nextLanding ≤ s.dev.cad.tickIdx + 1 :=
  ⟨.inl ⟨by decide, by decide, .inl ⟨by decide, by decide, by decide, by decide, rfl, rfl⟩⟩, by decide⟩
theorem witness_TickBoundSlotsFire_late : (slotWith 2).dev.slotTarget 31 < (slotWith 2).dev.nextLanding := by decide
theorem witness_Time_yields : (ArrivesNow { stepping with pending := [.stepApply] } fun i => i == .stepApply) ∧
    (ArrivesNow { base with pending := [.tsyncEdge 5] } fun i => match i with | .tsyncEdge _ => true | _ => false) ∧
    ¬ ArrivesNow base fun i => match i with | .tsyncEdge _ => true | _ => false := by unfold ArrivesNow; decide

/-- TIME_CFG and TIME_PPS_CFG as given. -/
def timeWith (cfg pps : Word) (f : TimeUnit → TimeUnit) : State :=
  baseWith fun d => { (d.wr Reg.TIME_CFG cfg).wr Reg.TIME_PPS_CFG pps with time := f d.time }
theorem witness_PulsesAndTsync : (timeWith 0 0x40000000 id).dev.time.adv = true ∧
    ((timeWith 0 0x40000000 id).dev.rd Reg.TIME_PPS_CFG).get 31 30 = 1 ∧ (timeWith 0 0 id).dev.timeSrc ≠ 2 ∧
    (timeWith 0x08000000 0 id).dev.tsyncDrives = true ∧ (timeWith 0x10000000 0 id).dev.tsyncListens = true ∧
    (timeWith 0x10000000 0 fun t => { t with tsyncMiss := 1 }).dev.time.tsyncMiss < 2 ∧
    2 ≤ (timeWith 0x10000000 0 fun t => { t with tsyncMiss := 2 }).dev.time.tsyncMiss ∧
    (timeWith 0x10000000 0 fun t => { t with tsyncMiss := 2 }).dev.time.tsyncDrop = false := by decide

/-- A SYNC and a DELAY_RESP of master 5 with SEQ_ID 2, the latter 90 ns after the exchange's other stamps. -/
def syncMsg : Inbox := ⟨0x320, [0x10200005, 0, 0, 0], true, 0, 0⟩
def respMsg : Inbox := ⟨0x320, [0x30200005, 0, 90, 0], true, 0, 0⟩
def exch0 : Exchange := { seq := 2, master := 5, t1 := 0, t2 := 90 * fracScale, t3 := 0, rxLane := 0, txLane := 0, expired := false }
def timeMsg (m : Inbox) (xs : List Exchange) : State :=
  baseWith fun d => { d with time := { d.time with master := some 5, syncCnt := 255, exch := xs }, link := { d.link with txSet := 1, rxSet := 1, inbox := [m] } }
theorem witness_TimeExchanges_sync : (timeMsg syncMsg []).dev.time.adv = true ∧
    ((timeMsg syncMsg []).dev.take (isTimeMsg 1)).map Prod.fst = some syncMsg ∧ (timeMsg syncMsg []).dev.time.master = some ((syncMsg.words.getD 0 0).get 15 0) ∧
    (timeMsg syncMsg []).dev.dreqDiv ≤ (timeMsg syncMsg []).dev.time.syncCnt + 1 ∧ (timeMsg syncMsg []).dev.link.txSet ≠ 0 ∧
    (timeMsg syncMsg []).dev.time.tsq.length < 16 := by decide
theorem witness_TimeExchanges_lost : (timeMsg syncMsg [exch0]).dev.time.exch = exch0 :: [] ∧ exch0.expired = false := by decide
def respState : State := withDev (timeMsg respMsg [exch0]) { (timeMsg respMsg [exch0]).dev with time := { (timeMsg respMsg [exch0]).dev.time with master := some 4 } }
theorem witness_TimeExchanges_resp : (respState.dev.take (isTimeMsg 3)).map Prod.fst = some respMsg ∧ respState.dev.time.exch = [exch0] ∧
    exch0.seq = (respMsg.words.getD 0 0).get 27 20 ∧ exch0.master = (respMsg.words.getD 0 0).get 15 0 ∧ exch0.expired = false ∧
    exch0.rxLane = refLane respState.dev.link.rxSet ∧ exch0.txLane = refLane respState.dev.link.txSet ∧
    respState.dev.time.master ≠ some exch0.master ∧ respState.dev.time.cand ≠ some exch0.master ∧
    0 ≤ ((exch0.t2 - exch0.t1) + ((msgTime respMsg.words : Int) - exch0.t3)) / 2 ∧
    ((exch0.t2 - exch0.t1) + ((msgTime respMsg.words : Int) - exch0.t3)) / 2 ≤ 100 * (fracScale : Int) := by decide
theorem witness_HoldoverAndCandidate : (timeMsg syncMsg []).dev.time.master.isSome = true ∧ (timeMsg syncMsg []).dev.time.holdover = false ∧
    (timeMsg syncMsg []).dev.time.adv = true ∧ ((timeMsg syncMsg []).dev.wr Reg.TIME_CFG 0).servoHw = false := by decide
/-- The response to the exchange, and the candidate's SYNC, come in the cycle of the time limit. -/
theorem witness_TimeTransfer_yields :
    (ArrivesNow { respState with pending := [.timeDelayResp] } fun i => i == .timeDelayResp && respState.dev.respHere) ∧
    (ArrivesNow { respState with pending := [.timeDelayResp] } fun i =>
      i == .timeDelayResp && respState.dev.delayResp.time.validAt == respState.dev.time.cycle) ∧
    (let s := withDev (timeMsg syncMsg []) { (timeMsg syncMsg []).dev with time := { (timeMsg syncMsg []).dev.time with master := none, cand := some 5 } }
     ArrivesNow { s with pending := [.timeSync 0] } fun i => match i with | .timeSync _ => s.dev.candSyncHere | _ => false) := by
  unfold ArrivesNow; decide

/-! ### Bias, faults, supplies, security -/

def biasWith (f : Bias → Bias) : State := baseWith fun d => { d with bias := f d.bias }
def outWith (f : BiasOut → BiasOut) : State := baseWith fun d => d.modOut 95 f
theorem witness_BiasLink : base.dev.bias.vbio = true ∧ (base.dev.sump.src[toSrc 215]).wireIgnored = false ∧ base.dev.bias.linkUp = true ∧
    (biasWith fun b => { b with vbio := false, linkUp := false }).dev.bias.vbio = false ∧
    (biasWith fun b => { b with vbio := false, linkUp := false }).dev.bias.linkUp = false ∧
    (base.dev.sump.src[toSrc 216]).wireIgnored = false := by decide
theorem witness_BiasLink_yields : (ArrivesNow { base with pending := [.biasFrameReceived true] } fun i => i == .biasFrameReceived true) ∧
    ¬ ArrivesNow base fun i => i == .biasFrameReceived true := by unfold ArrivesNow; decide
/-- Outputs of each span, with the rail of the safe value and without it. -/
theorem witness_BiasLevels : ∀ g ∈ [0, 1, 2], ((outWith fun o => { o with span := g }).dev.bias.out[(95 : Fin 96)]).span = g ∧
    (outWith fun o => { o with span := g }).dev.bias.vbn = true ∧ (outWith fun o => { o with span := g }).dev.bias.vbp = true ∧
    (biasWith fun b => { b with vbn := false, vbp := false }).dev.bias.vbn = false ∧
    (biasWith fun b => { b with vbn := false, vbp := false }).dev.bias.vbp = false := by decide
theorem witness_SpanChanges : ((outWith fun o => { o with seq := 1, seqTo := 3 }).dev.bias.out[(95 : Fin 96)]).seq = 1 ∧
    (base.dev.bias.out[(95 : Fin 96)]).seq ≠ 1 ∧ ((outWith fun o => { o with seq := 2 }).dev.bias.out[(95 : Fin 96)]).seq = 2 ∧
    ((outWith fun o => { o with seq := 2 }).dev.bias.out[(95 : Fin 96)]).pendSpan = none ∧ (base.dev.bias.out[(95 : Fin 96)]).seq ≠ 2 := by
  decide
theorem witness_CurrentLimits : ((outWith fun o => { o with limiting := true }).dev.bias.out[(95 : Fin 96)]).limiting = true ∧
    (base.dev.bias.out[(95 : Fin 96)]).limiting = false ∧ (base.dev.sump.src[toSrc (197 + 95 / 8)]).wireIgnored = false := by decide
/-- The safe code of the span at reset is where a test without a code passes: x and y at its edge. -/
theorem witness_OutputTests : 95 < 96 ∧ (biasWith fun b => { b with test := some 95 }).dev.bias.test = some 95 ∧
    (biasWith fun b => { b with testWait := some 95 }).dev.bias.test = none ∧
    (biasWith fun b => { b with testWait := some 95 }).dev.bias.testWait = some 95 ∧
    ((biasWith fun b => { b with testWait := some 95 }).dev.setInf (Reg.BIAS_OUT_CFG 95) 0 0xFFFFFFFF#32).outFollow (toOut 95) = 0 ∧ base.dev.bias.testWait = none := by decide
theorem witness_OutputTests_both : let safe := safeCode (base.dev.bias.out[toOut 95]).span
    (safe + 8 ≤ safe + 8 ∧ safe ≤ (safe + 8) + 8) ∧ ¬ (safe + 9 ≤ safe + 8) := by decide
theorem witness_OverCurrent : base.dev.outPath 5 = 0 ∧ (base.dev.wr (Reg.BIAS_OUT_CFG 5) 0x04000000).rd (Reg.BIAS_OUT_CFG 5) = 0x04000000 ∧
    (0x04000000 : Word).bit 26 = true ∧ (base.dev.wr Reg.BIAS_CFG 2).rd Reg.BIAS_CFG = 2 ∧ (2 : Word).bit 1 = true ∧
    (base.dev.sump.src[toSrc (64 + 63)]).wireIgnored = false := by decide
theorem witness_ExternalKill : (biasWith fun b => { b with wdHold := true }).dev.paoffOut = true ∧
    (baseWith fun d => d.wr Reg.BIAS_CFG 4).dev.paoffOut = false ∧ ((baseWith fun d => d.wr Reg.BIAS_CFG 4).dev.rd Reg.BIAS_CFG).bit 2 = true ∧
    (baseWith fun d => d.wr Reg.BIAS_CFG 0).dev.paoffOut = false ∧ ((baseWith fun d => d.wr Reg.BIAS_CFG 0).dev.rd Reg.BIAS_CFG).bit 2 = false := by
  decide

/-- Source `n` in a state, with its configuration. -/
def srcWith (n : Fin 256) (cfg : Word) (f : Source → Source) : State := baseWith fun d => (d.wr (Reg.SUMP_SRC_CFG n.val) cfg).modSrc n f
theorem witness_SumpTransientReport : base.dev.power.fabric = true ∧ (229 : Fin 256).val < 230 ∧
    ((srcWith 229 0x00000102 id).dev.sump.src[(229 : Fin 256)]).wireIgnored = false ∧
    ((srcWith 229 0x00000102 id).dev.sump.src[(229 : Fin 256)]).retired = false ∧
    ((srcWith 229 0x00000102 id).dev.sump.src[(229 : Fin 256)]).held = false ∧ (229 : Fin 256).val ∉ dependents (srcWith 229 0x00000102 id).dev 229 ∧
    ((srcWith 229 0x00000102 id).dev.sump.src[(229 : Fin 256)]).times.length + 1 < (srcWith 229 0x00000102 id).dev.srcN 229 := by decide
/-- The synthesizer that drives tile 0 has dependents. -/
theorem witness_SumpTransientReport_dependents : dependents base.dev 128 ≠ [] ∧ 128 ∉ dependents base.dev 128 := by decide
theorem witness_SumpMaskedReport : ((srcWith 0 0 fun x => { x with held := true }).dev.sump.src[(0 : Fin 256)]).held = true ∧
    ((srcWith 0 0 fun x => { x with held := true }).dev.sump.src[(0 : Fin 256)]).wireIgnored = false ∧
    ((srcWith 0 0 fun x => { x with held := true }).dev.sump.src[(0 : Fin 256)]).retired = false ∧
    (srcWith 0 0 fun x => { x with held := true }).dev.power.fabric = true := by decide
/-- Lane 7's source with N = 1: every report is a severity. -/
def severeLane : State := srcWith 171 0x00000101 id
theorem witness_SumpSeverity : severeLane.dev.power.fabric = true ∧ (severeLane.dev.sump.src[toSrc (164 + 7)]).wireIgnored = false ∧
    (severeLane.dev.sump.src[toSrc (164 + 7)]).retired = false ∧ (severeLane.dev.sump.src[toSrc (164 + 7)]).held = false ∧
    ((severeLane.dev.time.cycle :: (severeLane.dev.sump.src[toSrc (164 + 7)]).times)[severeLane.dev.srcN (toSrc (164 + 7)).val - 1]? =
      some severeLane.dev.time.cycle) ∧ inWindow severeLane.dev.time.cycle severeLane.dev.time.cycle (severeLane.dev.srcW (toSrc (164 + 7)).val) = true ∧
    severeLane.dev.sump.logQueue.length < 16 ∧ severeLane.dev.lastLane 7 = false ∧
    ({ severeLane.dev with link := { severeLane.dev.link with txSet := 128 } } : Dev).lastLane 7 = true := by decide
theorem witness_SumpWireAndLine : base.dev.power.fabric = true ∧ (base.dev.sump.src[(3 : Fin 256)]).wireIgnored = false ∧
    ((srcWith 3 0 fun x => { x with wireIgnored := true }).dev.sump.src[(3 : Fin 256)]).wireIgnored = true ∧ base.dev.faultnHigh = true ∧
    ((baseWith fun d => d.wr Reg.SUMP_CFG 0x10000).dev.rd Reg.SUMP_CFG).bit 16 = true ∧ (baseWith fun d => d.wr Reg.SUMP_CFG 0x10000).dev.faultnHigh = true ∧
    ((baseWith fun d => d.wr Reg.SUMP_CFG 0).dev.rd Reg.SUMP_CFG).bit 16 = false := by decide
def logRec0 : LogRec := ⟨1000, 0, 1, 5, 1, 5, 3, 200, 1⟩
theorem witness_LogRecordReachesMram : base.dev.power.fabric = true ∧
    (baseWith fun d => { d with sump := { d.sump with logQueue := [logRec0], logSlot := 2047 } }).dev.sump.logQueue = logRec0 :: [] := by decide
/-- 125 degrees at tile 0's sensor: beyond the CRIT of its reset value. -/
theorem witness_ThermalSampleCrit : base.dev.power.fabric = true ∧ (Instr.thermalSample 1 1000 300).wf = true ∧
    (base.dev.sump.sensors[(1 : Fin 6)]).broken = false ∧ (base.dev.sump.sensors[(1 : Fin 6)]).mismatch = 0 ∧
    (base.dev.sump.sensors[(1 : Fin 6)]).atCrit = false ∧ 8 * signed 8 ((base.dev.rd (Reg.SUMP_THERM_CFG 1)).get 31 24) ≤ 1000 := by decide

theorem witness_ResetPin : base.dev.power.dev ≠ 0 ∧ (powWith fun p => { p with dev := 2, inReset := true }).dev.power.inReset = true ∧
    (powWith fun p => { p with dev := 2, inReset := true }).dev.power.dev = 2 ∧
    (powWith fun p => { p with dev := 2, inReset := true }).dev.power.removing = false ∧
    (powWith fun p => { p with dev := 2, inReset := true }).dev.power.sequencing = false ∧ survivesReset Reg.CADENCE_CFG = false ∧
    domainOf Reg.POWER_AON_CFG = .aon := by decide
theorem witness_RailSequence : (powWith fun p => { p with sequencing := true, pgood := true, rails := 5 }).dev.power.sequencing = true ∧
    (powWith fun p => { p with sequencing := true, pgood := true, rails := 5 }).dev.power.pgood = true ∧
    (powWith fun p => { p with sequencing := true, pgood := true, rails := 5 }).dev.power.rails < 6 ∧
    6 ≤ (powWith fun p => { p with sequencing := true, pgood := true }).dev.power.rails ∧
    (powWith fun p => { p with sequencing := true }).dev.power.pgood = false ∧
    (powWith fun p => { p with dormantStep := 5 }).dev.power.dormantStep = 5 ∧ 1 < (powWith fun p => { p with dormantStep := 5 }).dev.power.rails ∧
    (powWith fun p => { p with dormantStep := 5, rails := 1 }).dev.power.rails ≤ 1 := by decide
theorem witness_SupplyFault : base.dev.power.rails = 6 ∧ base.dev.power.sequencing = false ∧ base.dev.power.removing = false ∧
    (powWith fun p => { p with dev := 1, autoDue := true }).dev.power.dev = 1 ∧ base.dev.power.phase = 0 ∧
    (powWith fun p => { p with dev := 1, autoDue := true }).dev.power.autoDue = true ∧ base.dev.power.inReset = false ∧
    ((base.dev.wr Reg.POWER_AON_CFG 0x20000000).rd Reg.POWER_AON_CFG).bit 29 = true := by decide
theorem witness_SupplyFault_third : 2 ≤ ([5, 3].filter fun c => decide (base.dev.time.cycle ≤ c + 4915200000)).length := by decide
theorem witness_AvsSetPoint : base.dev.power.fabric = true ∧ ((base.dev.wr Reg.POWER_CFG 0x80000000).rd Reg.POWER_CFG).bit 31 = true := by decide

def req (n : Nat) : PowerReq := ⟨n, none⟩
def toReady : State := withDev (tileWith id) { (tileWith id).dev with
  power := { (tileWith id).dev.power with dev := 2, stepTo := some 3, cur := some (req 3) } }
theorem witness_PowerTransitions : toReady.dev.power.cur = some (req 3) ∧ toReady.dev.power.slot = none ∧ (req 3).cmd = none ∧
    toReady.dev.power.dev = 2 ∧ toReady.dev.power.stepTo = some 3 ∧ (req 3).target = 3 ∧ toReady.dev.someSynthOn = true := by decide
theorem witness_PowerTransitions_back : (powWith fun p => { p with stepTo := some 2, cur := some (req 2) }).dev.power.dev = 3 ∧
    (powWith fun p => { p with stepTo := some 2, cur := some (req 2) }).dev.power.stepTo = some 2 ∧ (req 2).target = 2 ∧
    (powWith fun p => { p with dev := 2, stepTo := some 3, cur := some (req 3) }).dev.someSynthOn = false := by decide
theorem witness_DormantEntry : (powWith fun p => { p with dev := 2, dormantStep := 1 }).dev.power.dormantStep = 1 ∧
    (powWith fun p => { p with dev := 2, dormantStep := 1 }).dev.tilesAsleep = true ∧
    (powWith fun p => { p with dev := 2, dormantStep := 3 }).dev.power.dormantStep = 3 ∧
    (powWith fun p => { p with dev := 2, dormantStep := 3 }).dev.power.cur = none ∧
    Quiet (powWith fun p => { p with dev := 2, dormantStep := 3 }).dev ∧ base.dev.sump.logQueue = [] :=
  ⟨by decide, by decide, by decide, by decide, ⟨rfl, .inl rfl⟩, by decide⟩

/-- Dormant, with POWER_AON_CFG as given. -/
def dormant (aon : Word) : State :=
  baseWith fun d => { d.wr Reg.POWER_AON_CFG aon with power := { d.power with dev := 1, rails := 0, fabric := false, slowclk := true } }
/-- SYNC, the low half of JOIN, target 1 in [13:12], the complement below. -/
theorem witness_WakesFromDormant : (dormant 0xC0000000).dev.power.dev = 1 ∧ (dormant 0xC0000000).dev.power.phase = 0 ∧
    (dormant 0xC0000000).dev.power.dormantStep = 0 ∧ (dormant 0xC0000000).dev.power.wakeLatch = none ∧
    ((dormant 0xC0000000).dev.rd Reg.POWER_AON_CFG).bit 31 = true ∧ ((dormant 0xC0000000).dev.rd Reg.POWER_AON_CFG).bit 30 = true ∧
    (dormant 0xC0000000).dev.power.slowclk = true ∧ ((base.dev.wr (Reg.WAKE_CFG 2) 0x40000000).rd (Reg.WAKE_CFG (2 * (1 : Fin 2).val))).bit 30 = true := by
  decide
def codeWord : Word := 0xF2001FFE
theorem witness_WakesFromDormant_code : (base.dev.wr (Reg.WAKE_CFG 2) 0x80000000).codeAccepted (2 * (1 : Fin 2).val) codeWord = true ∧
    ((base.dev.wr (Reg.WAKE_CFG 2) 0x80000000).rd (Reg.WAKE_CFG 2)).bit 31 = true ∧ codeWord.extractLsb' 12 2 ≠ 3#2 := by decide
theorem witness_WakeTakenStarts : (powWith fun p => { p with dev := 1, wakeLatch := some 1 }).dev.power.wakeLatch = some 1 ∧
    (powWith fun p => { p with dev := 1, wakeLatch := some 1 }).dev.power.dev = 1 ∧ base.dev.power.phase = 0 ∧
    base.dev.power.inReset = false ∧ base.dev.power.dev ≠ 0 := by decide
theorem witness_StartPhases : base.dev.power.inReset = false ∧ State.reset.dev.power.phase = 1 ∧ State.reset.dev.power.bootSel ≠ 1 ∧
    (powWith fun p => { p with phase := 2 }).dev.power.rails = 6 ∧ base.dev.power.sequencing = false ∧ base.dev.time.adv = true ∧
    (powWith fun p => { p with phase := 4, booted := false }).dev.power.booted = false ∧ base.dev.power.bootSel < 2 ∧
    base.dev.sec.active = false ∧ (timeMsg syncMsg []).dev.link.txSet ≠ 0 ∧ (timeMsg syncMsg []).dev.link.rxSet ≠ 0 ∧
    (powWith fun p => { p with phase := 8, startTgt := 0 }).dev.power.startTgt = 0 := by decide
theorem witness_StartPhases_bank : base.dev.bankGood base.dev.sec.banks[0] = true := by decide
theorem witness_ThermalSettled : (powWith fun p => { p with phase := 10 }).dev.power.phase = 10 ∧ base.dev.power.warm = false ∧
    base.dev.cal.runs = [] ∧ base.dev.cal.queue = [] := by decide
def openSession (n : Nat) : State := baseWith fun d => { d with sec := { d.sec with level := n } }
theorem witness_DebugTimers : 2 ≤ (openSession 2).dev.debugLevel ∧ (openSession 2).dev.anyTx = false ∧ (baseWith fun d => { d with sec := { d.sec with lifecycle := 3 } }).dev.debugLevel < 2 ∧
    (baseWith fun d => d.modPath 9 fun x => { x with mode := 2 }).dev.anyTx = true := by decide
/-- The awaited arrivals of the power controller's limits, each in the cycle of its limit: PGOOD, a tile at SynthOn, the phase's end. -/
theorem witness_Power_yields : (ArrivesNow { base with pending := [.pgoodRise] } fun i => i == .pgoodRise) ∧
    (ArrivesNow { arriving with pending := [.stateTransitionDone (.tile 1)] } fun i =>
      match i with | .stateTransitionDone (.tile t) => (arriving.dev.tiles[t]).goal == some 2 | _ => false) ∧
    ¬ (ArrivesNow toReady fun i => match i with | .stateTransitionDone (.tile t) => (toReady.dev.tiles[t]).goal == some 2 | _ => false) ∧
    (ArrivesNow { base with pending := [.startPhaseDone] } fun i => i == .startPhaseDone) ∧ ¬ ArrivesNow base fun i => i == .startPhaseDone := by
  unfold ArrivesNow; decide

/-! ### Register access -/

/-- The register fabric does not answer: every access is stopped. -/
def fabricDown : State := powWith fun p => { p with fabric := false }
theorem witness_RowsStop : ∀ a ∈ [(true, Reg.CADENCE_CFG), (true, synFracReg 3 true), (true, iqTap (.orx 15) 0), (true, Reg.BEAM_BANK),
      (true, Reg.DPD_LUT_DATA), (false, Reg.DPD_LUT_DATA), (true, Reg.DPD_PATH_CTRL 63), (true, Reg.CAL_QMAP_CFG), (true, Reg.SKX_PHY_SLEEP),
      (true, Reg.SKX_PHY_CFG), (true, Reg.DRUNAS_SUBMIT), (false, Reg.DRUNAS_REPLY), (true, Reg.DRUNAS_CTRL), (true, Reg.TIME_INC_SET_HI),
      (true, Reg.TIME_CFG), (false, Reg.TIME_TSQ_E3), (true, Reg.TIME_SCHED_CTRL 31), (true, Reg.BIAS_TEST), (true, Reg.BIAS_TRIP_HI),
      (true, Reg.BIAS_TRIP_LO), (true, Reg.BIAS_CFG), (true, Reg.DERRICK_CH_CTRL 7), (true, Reg.CHECK_CTRL), (true, Reg.CHECK_DATA),
      (false, Reg.SUMP_LOG_DATA), (true, Reg.POWER_REQ), (true, Reg.SEC_CFG)],
    fabricDown.dev.stops .link a.1 32 a.2 = some .domainOff := by decide
theorem witness_WritesStop : (0x180001 < 4294967296) ∧ base.dev.stops .spi true 16 0x180001 = some .align ∧
    base.dev.stops .spi true 8 Reg.BIAS_CFG = some .width ∧ base.dev.stops .spi true 32 0xFFFFFFFC = some .decode ∧
    base.dev.stops .spi true 32 0x400000 = some .decode ∧ 0x400004 % 8 ≠ 0 ∧ 0x400000 % 8 = 0 := by decide
theorem witness_CausesInOrder : base.dev.stops .cpu false 32 0x40002 = some .align ∧ base.dev.stops .cpu true 16 0x40002 = some .width ∧
    base.dev.stops .cpu false 32 0x400000 = some .decode ∧
    (baseWith fun d => d.wr Reg.SEC_CFG 2).dev.stops .spi true 32 Reg.BIAS_CFG = some .security ∧
    fabricDown.dev.stops .cpu false 32 Reg.BIAS_CFG = some .domainOff ∧ base.dev.stops .cpu false 32 Reg.BIAS_CFG = none := by decide
theorem witness_TimeoutAnswers : inBlock Reg.BIAS_CFG = true ∧ base.dev.stops .spi false 32 Reg.BIAS_CFG = none ∧
    base.dev.stops .spi true 32 Reg.BIAS_CFG = none := by decide
theorem witness_FieldsByType : (∀ f ∈ fieldsOf Reg.DPD_SEL_THR, f.lo ≤ f.hi ∧ f.hi < 32) ∧ fieldsOf Reg.DPD_SEL_THR ≠ [] ∧
    (fieldsOf Reg.DPD_SEL_THR).Pairwise (fun f g => f.hi < g.lo ∨ g.hi < f.lo) := by decide
/-- In this cycle the debugger has written a register, and hardware has set some of its bits and counted in one of its fields. -/
def sameCycle (a : Nat) (bits : Word) (lo : Nat) : State :=
  baseWith fun d => { d with same := { SameCycle.reset with cycle := d.time.cycle, writes := [(a, initRank .debug)], sets := [(a, bits)], counts := [(a, lo, 3)] } }
/-- LANE_RETRAIN has counters, DPD_SEL_THR plain fields, an event register bits that a write clears. -/
theorem witness_FieldsOfOneCycle : (∀ a ∈ [Reg.DPD_SEL_THR, Reg.TIME_EVT, Reg.SUMP_SRC_STATUS 7], (∀ f ∈ fieldsOf a, f.lo ≤ f.hi ∧ f.hi < 32) ∧
      (fieldsOf a).Pairwise fun f g => f.hi < g.lo ∨ g.hi < f.lo) ∧
    (fieldsOf Reg.DPD_SEL_THR).any (fun f => f.type == .rw) = true ∧ (fieldsOf Reg.TIME_EVT).any (fun f => f.type == .w1c) = true ∧
    (fieldsOf (Reg.SUMP_SRC_STATUS 7)).any (fun f => f.type == .cnt) = true ∧
    (sameCycle Reg.TIME_EVT 4 0).dev.setNow Reg.TIME_EVT = 4 ∧ (sameCycle (Reg.SUMP_SRC_STATUS 7) 0 0).dev.countedNow (Reg.SUMP_SRC_STATUS 7) 0 = 3 ∧
    (sameCycle Reg.DPD_SEL_THR 0 0).dev.overtaken Reg.DPD_SEL_THR (initRank .spi) = true ∧
    base.dev.overtaken Reg.DPD_SEL_THR (initRank .spi) = false := by decide
theorem witness_PlainWrites : (∀ a ∈ [Reg.DPD_CFG, Reg.CAL_CFG], inBlock a = true ∧ actsOnWrite a = false ∧ a < 4294967296 ∧ tickMask a = 0 ∧
      base.dev.stops .cpu true 32 a = none) ∧
    (inBlock (Reg.DPD_PATH_ADJ 3) = true ∧ actsOnWrite (Reg.DPD_PATH_ADJ 3) = false ∧ tickMask (Reg.DPD_PATH_ADJ 3) ≠ 0 ∧
      base.dev.stops .cpu true 32 (Reg.DPD_PATH_ADJ 3) = none) ∧
    (Reg.BEAM_SOLVER_POW 30 % 8 = 0 ∧ inBlock (Reg.BEAM_SOLVER_POW 30) = true ∧ base.dev.stops .cpu true 32 (Reg.BEAM_SOLVER_POW 30) = none) := by decide
theorem witness_Alone : Alone base .cpu (Reg.TILE_PIDX 3 15) ∧ Alone base .cpu Reg.CADENCE_CFG := ⟨⟨rfl, rfl, fun _ => rfl⟩, ⟨rfl, rfl, fun _ => rfl⟩⟩
theorem witness_Open : ∀ a ∈ [Reg.TILE_EVT 3, Reg.TIME_EVT, Reg.POWER_EVT, Reg.CADENCE_EVT, Reg.DRUNAS_EVT, Reg.DERRICK_EVT, Reg.CHECK_EVT,
      Reg.BEAM_EVT, Reg.DPD_EVT, Reg.CAL_EVT, Reg.CHISEL_EVT, Reg.SKX_PHY_EVT, Reg.SKX_CELL_EVT, Reg.BIAS_EVT, Reg.SUMP_EVT,
      Reg.TILE_PIDX 3 15, Reg.CADENCE_CFG, synFracReg 0 false, iqTap (.rx 0) 0, Reg.BEAM_BANK, Reg.DPD_PATH_CTRL 0, Reg.CAL_QMAP_CFG,
      Reg.TIME_CFG, Reg.TIME_INC_SET_HI, Reg.TIME_SCHED_CTRL 0, Reg.BIAS_TEST, Reg.BIAS_TRIP_HI, Reg.BIAS_TRIP_LO, Reg.BIAS_CFG, Reg.SEC_CFG,
      Reg.POWER_REQ, Reg.SKX_PHY_SLEEP, Reg.SKX_PHY_CFG, Reg.DERRICK_CH_CTRL 0, Reg.CHECK_CTRL, Reg.CHECK_DATA, Reg.DRUNAS_SUBMIT,
      Reg.DRUNAS_CTRL, Reg.DPD_LUT_DATA], base.dev.stops .cpu true 32 a = none := by decide
theorem witness_Open_reads : ∀ a ∈ [Reg.TIME_TSQ_E3, Reg.SUMP_LOG_DATA, Reg.DRUNAS_REPLY, Reg.DPD_LUT_DATA],
    base.dev.stops .cpu false 32 a = none := by decide
theorem witness_WindowWrites : 0x3BFFFF8 % 8 = 0 ∧ 0x3000000 ≤ 0x3BFFFF8 ∧ 0x3BFFFF8 + 8 ≤ 0x3C00000 ∧
    (∀ i : Fin 8, base.dev.forbidden .cpu true (0x3BFFFF8 + i.val) = false ∧ base.dev.domainUp (0x3BFFFF8 + i.val) = true) := by decide
theorem witness_AshlarWrites : isAshlarWord 0x01A00000 = true ∧ base.dev.domainUp 0x01A00000 = true ∧ base.dev.ashlarAllows .spi 0x01A00000 = true ∧
    base.dev.ashlarAllows .spi 0x01000000 = false ∧ base.dev.ashlarAllows .weightLoad 0x023FFFFC = true ∧ ashlarInit .weightLoad = none ∧
    ashlarInit .spi = some .spi ∧ base.dev.stops .spi true 32 0x01A00000 = none ∧ base.dev.stops .spi true 32 0x01000000 = none := by decide
/-- The link has written the first two bytes of the word in this cycle, after the solver in the order of R135. -/
theorem witness_AshlarWrites_later : let s := baseWith fun d => { d with same := { SameCycle.reset with cycle := d.time.cycle, ashlar := [(0x01A00000, 2, ashlarPlace (.spi))] } }
    (s.dev.sameNow.ashlar.any fun x => decide (ashlarPlace .solver < x.2.2 ∧ x.1 ≤ 0x01A00001 ∧ 0x01A00001 < x.1 + x.2.1)) = true ∧
    (s.dev.sameNow.ashlar.any fun x => decide (ashlarPlace .solver < x.2.2 ∧ x.1 ≤ 0x01A00002 ∧ 0x01A00002 < x.1 + x.2.1)) = false ∧
    s.dev.ashlarAllows .solver 0x01A00000 = true ∧ (baseWith fun d => { d with beam := { d.beam with mirrorBusy := true } }).dev.beam.mirrorBusy = true := by decide
/-- SEL 4, the spare page of path 0, and SEL 1, a page in use. -/
def lutSel (w : Word) : State := baseWith fun d => d.wr Reg.DPD_LUT_ADDR w
theorem witness_LutPort : (lutSel 0x0200057F).dev.lutWord.isSome = true ∧ (lutSel 0x0200057F).dev.lutRefuses .cpu = false ∧
    (lutSel 0x00800000).dev.lutWord.isSome = true ∧ (lutSel 0x00800000).dev.lutRefuses .cpu = true ∧
    (lutSel 0x020007FF).dev.lutWord = none := by decide
theorem witness_CadenceWrite : base.dev.cad.running = true ∧ base.dev.ticking = true ∧ State.reset.dev.cad.running = false ∧
    (cadWith fun c => { c with running := false }).dev.ticking = false := by decide
theorem witness_WordsCommitted : (0 : Word).get 1 0 = (base.dev.rd Reg.BEAM_BANK).get 1 0 ∧ base.dev.beam.mirrorBusy = false ∧
    (3 : Word).get 1 0 ≠ (base.dev.rd Reg.BEAM_BANK).get 1 0 ∧ base.dev.cad.running = true ∧
    (base.dev.wr (Reg.DPD_PATH_CFG 5) 0x01000000).amode 5 = 1 ∧ (base.dev.wr (Reg.DPD_PATH_CFG 5) 0).amode 5 ≠ 1 := by decide
/-- A word of the quiet map is staged; another waits in a pending write of CAL_QMAP_CFG. -/
theorem witness_WordsCommitted_quietMap : let s := baseWith fun d => { d with staged := mapSet d.staged (Reg.CAL_QMAP 69) 5 }
    mapGet s.dev.staged (Reg.CAL_QMAP 69) = some 5 ∧ mapGet s.dev.staged (Reg.CAL_QMAP 0) = none := by decide
theorem witness_WordsCommitted_earlier : let c : Change := ⟨.quietMap, [(Reg.CAL_QMAP_CFG, 1, 0xFFFFFFFF#32), (Reg.CAL_QMAP 0, 9, 0xFFFFFFFF#32)], 9, true, 0, 0, none, 0, none⟩
    c ∈ (cadWith fun k => { k with changes := [c] }).dev.cad.changes ∧ c.key = .quietMap ∧ (Reg.CAL_QMAP 0, 9, 0xFFFFFFFF#32) ∈ c.words := by decide
theorem witness_TimeRegisters : (timeWith 0x80000000 0 id).dev.servoHw = true ∧ (0 : Word).bit 31 = false ∧
    (timeWith 0 0 id).dev.servoHw = (0 : Word).bit 31 ∧ (timeWith 0 0 id).dev.servoHw = false := by decide
theorem witness_BiasRegisters : base.dev.bias.test = none ∧ (biasWith fun b => { b with test := some 3 }).dev.bias.test.isSome = true := by decide
theorem witness_SystemRegisters : ((0 : Word).get 2 0 < 1) ∧ 4 < (5 : Word).get 2 0 ∧ base.dev.power.cur = none ∧
    (3 : Word).get 2 0 = base.dev.power.dev ∧ (powWith fun p => { p with cur := some (req 4) }).dev.power.cur = some (req 4) ∧
    (req 4).target = (4 : Word).get 2 0 ∧ (req 4).target ≠ (2 : Word).get 2 0 ∧ base.dev.power.slot = none ∧
    (powWith fun p => { p with cur := some (req 4), slot := some (req 3) }).dev.power.slot = some (req 3) ∧ (req 3).cmd = none ∧
    (2 : Word).get 2 0 ≠ base.dev.power.dev ∧ base.dev.cad.running = true ∧
    base.dev.sump.sensors.toList.any Sensor.atCrit = false ∧ (cadWith fun c => { c with running := false }).dev.cad.running = false := by decide
theorem witness_LaneRegisters : (0xFF00 : Word).get 15 8 = 255 ∧ (0x00FF : Word).get 7 0 = 255 ∧ (0x0102 : Word).get 15 8 ≠ 255 ∧
    (0x0102 : Word).get 7 0 ≠ 255 ∧ (∀ k : Fin 8, (base.dev.lanes[k]).st ≠ .active) ∧ base.dev.link.txSet = 0 ∧ base.dev.link.rxSet = 0 ∧
    (0x80000000 : Word).bit (24 + 7) = true ∧ (base.dev.lanes[(7 : Fin 8)]).st = .ei ∧ (base.dev.lanes[(7 : Fin 8)]).retired = false ∧
    (base.dev.lanes[(7 : Fin 8)]).fastExit = false ∧ (0x80000000 : Word).bit 24 = false ∧ (base.dev.lanes[(0 : Fin 8)]).st ≠ .retired ∧
    (base.dev.lanes[(0 : Fin 8)]).st ≠ .bist := by decide

/-- Words wait in the SPI's queue. -/
def spiWith (q : List (Nat × Word × Nat)) : State := baseWith fun d => { d with spi := { d.spi with queue := q } }
theorem witness_SpiWrites : base.dev.power.fabric = true ∧ base.dev.spi.failed ≠ some (base.dev.spi.frame + 1) ∧
    (spiWith (List.replicate 7 (0, 0, 0))).dev.spi.queue.length + ([1] : List Word).length ≤ 8 ∧
    8 ≤ (spiWith (List.replicate 8 (0, 0, 0))).dev.spi.queue.length ∧
    0 < (spiWith (List.replicate 8 (0, 0, 0))).dev.spi.queue.length + ([1, 2] : List Word).length - 8 := by decide
theorem witness_SpiDrains : (spiWith [(Reg.BIAS_CFG, 1, 0)]).dev.spi.queue = (Reg.BIAS_CFG, 1, 0) :: [] ∧ inBlock Reg.BIAS_CFG = true ∧
    Reg.BIAS_CFG ≠ Reg.DPD_LUT_DATA ∧ base.dev.stops .spi true 32 Reg.BIAS_CFG = none ∧ base.dev.stops .spi true 32 0x400000 = some .decode := by
  decide
theorem witness_SpiReads : base.dev.spi.queue = [] ∧ base.dev.stops .spi false 32 Reg.CADENCE_CFG = none ∧ inBlock Reg.CADENCE_CFG = true ∧
    base.dev.stops .spi false 32 0x400000 = some .decode ∧ 0 < 3 := by decide
theorem witness_SpiReads_drained : (spiDrain base.dev base.mem).1.spi.queue = [] ∧ (spiDrain base.dev base.mem).1.power.fabric = true ∧
    (spiDrain (spiWith [(Reg.BIAS_CFG, 1, 0)]).dev []).1.spi.queue = [] := by decide
theorem witness_SpiReads_values : Quiet base.dev ∧ ∃ v : Nat → Word, ∀ k, k < 2 → inBlock ((Reg.DPD_CFG + 4 * k) % 4294967296) = true ∧
    base.dev.stops .spi false 32 ((Reg.DPD_CFG + 4 * k) % 4294967296) = none ∧
    ∀ x : Spi, ({ base.dev with spi := x } : Dev).readReg base.mem ((Reg.DPD_CFG + 4 * k) % 4294967296) = (v k, { base.dev with spi := x }) :=
  ⟨⟨rfl, .inl rfl⟩, fun k => (base.dev.readReg base.mem ((Reg.DPD_CFG + 4 * k) % 4294967296)).1, fun k h => by
    match k, h with
    | 0, _ => exact ⟨by decide, by decide, fun _ => rfl⟩
    | 1, _ => exact ⟨by decide, by decide, fun _ => rfl⟩⟩
theorem witness_SpiReads_value : ∃ v, base.dev.readReg base.mem Reg.CADENCE_CFG = (v, base.dev) := ⟨_, rfl⟩
theorem witness_SpiStatusAndEnds : (0x99 : Byte) ∉ spiOpcodes ∧ fabricDown.dev.power.fabric = false := by decide

/-- A register-access request at the head of the ring. -/
def regRequest (crc : Bool) (ws : List Word) : Packet := ⟨ws, false, true, crc, 0, 0, false⟩
def requesting (p : Packet) : State := baseWith fun d => { d with drunas := { d.drunas with ring := [p] } }
theorem witness_Requests : ∀ op ∈ [0, 1, 2, 9, 10, 15],
    Requests (requesting (regRequest true [(0 : Word).put 31 28 op, 0x40000, 0])) (regRequest true [(0 : Word).put 31 28 op, 0x40000, 0]) op := by
  unfold Requests; decide
theorem witness_LinkRegisterAccess : (regRequest false [0x10000000, 0]).crcOk = false ∧
    (baseWith fun d => d.wr Reg.SEC_CFG 1).dev.needsAuth false = true ∧ base.dev.sec.kFlow = none ∧
    regCount (regRequest true [0x10000000, BitVec.ofNat 32 Reg.CADENCE_CFG]) = 1 ∧ base.dev.needsAuth false = false ∧
    2 < (regRequest true [0x20000000, BitVec.ofNat 32 Reg.CADENCE_CFG, 1]).words.length ∧
    base.dev.stops .link true 32 Reg.CADENCE_CFG = none ∧ base.dev.stops .link false 32 Reg.CADENCE_CFG = none := by decide

theorem witness_LinkRegisterAccess_more : Quiet base.dev ∧ regCount (regRequest true [0x10020000, BitVec.ofNat 32 Reg.DPD_CFG]) = 2 ∧
    base.dev.stops .link false 32 0x400000 = some .decode := ⟨⟨rfl, .inl rfl⟩, by decide, by decide⟩

/-- Channel 7 in a state. -/
def chWith (f : Channel → Channel) : State := baseWith fun d => d.modChannel 7 f
theorem witness_DerrickControl : EngineFree base 7 ∧ (base.dev.derrick.ch[(7 : Fin 8)]).st = .idle ∧
    ((chWith fun x => { x with st := .running }).dev.derrick.ch[(7 : Fin 8)]).st = .running ∧ EngineFree (chWith fun x => { x with st := .running }) 7 ∧
    ((chWith fun x => { x with st := .halted }).dev.derrick.ch[(7 : Fin 8)]).st = .halted ∧
    ((chWith fun x => { x with st := .stopped }).dev.derrick.ch[(7 : Fin 8)]).st = .stopped ∧
    EngineBusy (chWith fun x => { x with st := .running }) 0 := by unfold EngineFree EngineBusy; decide
/-- A descriptor in capture SRAM: 64 bytes from cluster memory to the capture SRAM. -/
def fetching (desc : Nat) : State :=
  let s := chWith fun x => { x with st := .running, desc := desc }
  { s with mem := Mem.setWords s.mem 0x3800000 [0x3300000, 0x3900000, 0x80000040, 0] }
theorem witness_DerrickDescriptor : (fetching 0x3800000).dev.runningChannel = some 7 ∧ EngineFree (fetching 0x3800008) 7 ∧
    (fetching 0x3800008).dev.runningChannel = some 7 ∧ ((fetching 0x3800000).dev.derrick.ch[(7 : Fin 8)]).loaded = false ∧ descriptorAllowed 0x3800000 = true ∧
    (∀ k : Fin 4, (fetching 0x3800000).dev.stops .derrick false 32 (0x3800000 + 4 * k.val) = none) ∧
    0 < (Mem.word (fetching 0x3800000).mem (0x3800000 + 4 * 2)).get 24 0 ∧ descriptorAllowed 0x3800008 = false ∧ descriptorAllowed 0x1000000 = false ∧
    (fetching 0x3800008).dev.derrick.allStop = false := by unfold EngineFree; decide
def lastWord : State := chWith fun x => { x with st := .running, loaded := true, src := 0x33FFFFC, dst := 0x3BFFFFC, count := 4, ctl := 0xC0000004 }
theorem witness_DerrickMoves : lastWord.dev.runningChannel = some 7 ∧ (lastWord.dev.derrick.ch[(7 : Fin 8)]).loaded = true ∧
    (lastWord.dev.derrick.ch[(7 : Fin 8)]).down = false ∧ (lastWord.dev.derrick.ch[(7 : Fin 8)]).funnel = none ∧ (lastWord.dev.derrick.ch[(7 : Fin 8)]).st = .running ∧ (lastWord.dev.derrick.ch[(7 : Fin 8)]).count = 4 ∧
    (lastWord.dev.derrick.ch[(7 : Fin 8)]).ctl.toNat.testBit 31 = true ∧ 0x33FFFFC % 4 = 0 ∧ 0x3BFFFFC + 4 ≤ 0x3C00000 ∧
    lastWord.dev.stops .derrick false 32 0x33FFFFC = none ∧ lastWord.dev.stops .derrick true 32 0x3BFFFFC = none ∧
    lastWord.dev.derrick.allStop = false ∧
    ((chWith fun x => { x with st := .running, loaded := true, count := 0, ctl := 0x80000000 }).dev.derrick.ch[(7 : Fin 8)]).count = 0 := by decide

/-- The check-value unit with a range. -/
def checking (a n : Word) (busy : Bool) : State :=
  baseWith fun d => { (d.wr Reg.CHECK_ADDR a).wr Reg.CHECK_LEN n with check := ⟨busy, 0xFFFFFFFF, a.toNat, n.toNat⟩ }
theorem witness_CheckValueUnit : (checking 0x3000000 64 false).dev.check.busy = false ∧
    inWindows ((checking 0x3000000 64 false).dev.rd Reg.CHECK_ADDR).toNat (((checking 0x3000000 64 false).dev.rd Reg.CHECK_LEN).get 24 0) = true ∧
    inWindows ((checking 0x23FFFFC 8 false).dev.rd Reg.CHECK_ADDR).toNat (((checking 0x23FFFFC 8 false).dev.rd Reg.CHECK_LEN).get 24 0) = false ∧
    (checking 0x3000000 64 true).dev.check.busy = true ∧ (checking 0x3000000 64 true).dev.scanFault 0x3000000 64 = none ∧
    (checking 0x3000000 64 true).dev.checkAlg = 0 ∧ ((checking 0x3000000 64 true).dev.rd Reg.CHECK_CFG).bit 31 = false ∧
    (fabricDown.dev.scanFault 0x3000000 64).isSome = true := by decide

def drunasWith (f : Drunas → Drunas) : State := baseWith fun d => { d with drunas := f d.drunas }
def anyPacket : Packet := ⟨[1, 2], true, false, true, 0, 0, false⟩
theorem witness_CommandWindows : (base.dev.drunas.submit ++ [(5 : Word)]).length < 2 ∧ 2 ≤ ([0x01000000, 0, 0, 0, 7] : List Word).length ∧
    impliedWords (([0x01000000, 0, 0, 0, 7] : List Word).getD 1 0) ≤ 5 ∧ base.dev.drunas.ring.length < 64 ∧
    64 ≤ (drunasWith fun x => { x with ring := List.replicate 64 anyPacket }).dev.drunas.ring.length ∧ base.dev.drunas.replies = [] ∧
    (drunasWith fun x => { x with replies := [[1], [2, 3]] }).dev.drunas.replies = (1 :: []) :: [[2, 3]] ∧
    16 ≤ (drunasWith fun x => { x with replies := List.replicate 16 [1] }).dev.drunas.replies.length ∧ base.dev.drunas.replies.length < 16 := by decide
theorem witness_CommandWindows_message : (timeMsg ⟨0x310, [0x10000000, 0], true, 0, 0⟩ []).dev.link.inbox = ⟨0x310, [0x10000000, 0], true, 0, 0⟩ :: [] := by
  decide

/-! ### Beams, predistortion, calibration -/

def beamWith (f : Beam → Beam) : State := baseWith fun d => { d with beam := f d.beam }
theorem witness_BeamStoreAndSlices : Memory.wf base.mem = true ∧ (beamWith fun b => { b with mirrorBusy := true }).dev.beam.mirrorBusy = true ∧
    base.dev.beam.written = [] ∧ base.dev.beam.eccZero = [] ∧ (beamWith fun b => { b with mirrorBusy := true, mirrorWait := true }).dev.beam.mirrorWait = true ∧
    isAshlarWord 0x023FFFFC = true ∧ base.dev.domainUp 0x023FFFFC = true ∧ base.dev.cad.running = true ∧ base.dev.beam.spareRetired = false ∧
    base.dev.beam.spareFor = none ∧ base.dev.beam.spareNext = none ∧ base.dev.beam.sliceRetired.testBit 7 = false := by decide
/-- The solver is on, in beam mode; carrier 0 has layers 2 and 31, of which 2 was sounded long ago and again in symbol 6. -/
def solverOn : State := baseWith fun d =>
  { ((d.wr Reg.BEAM_SOLVER_CFG 0x80000001).setInf (Reg.BEAM_CAR_CFG 0) 0x80000000 0xFFFFFFFF#32).setInf (Reg.BEAM_CAR_LDL 0) 0x80000004 0xFFFFFFFF#32 with
    beam := { d.beam with est := [⟨0, 2, 1, 0, [], d.sig⟩], sounded := [⟨0, 2, 6, 245000, [], d.sig⟩, ⟨0, 31, 7, 245760, [], d.sig⟩] }
    time := { d.time with cycle := 245761 } }
theorem witness_SolverCycleStarts : solverOn.dev.solverRuns = true ∧ solverOn.dev.cycleTick solverOn.dev.solverPeriod solverOn.dev.cad.nom = true ∧
    solverOn.dev.beam.solvedAt ≠ some solverOn.dev.cad.tickIdx ∧ (0, 2) ∈ solverOn.dev.layersOn ∧ (0, 31) ∈ solverOn.dev.layersOn ∧
    base.dev.solverRuns = false := by decide
theorem witness_SolverCycleEnds : let s := baseWith fun d => { d.setInf Reg.BEAM_CFG 2 3 with beam := { d.beam with solving := true, brought := [0x1000000] } }
    s.dev.beam.solving = true ∧ s.dev.cad.frozen = false ∧ s.dev.cycleTick s.dev.beam.pEff s.dev.nextNom = true ∧ s.dev.slotsInForce ≤ 640 ∧
    (s.dev.inf Reg.BEAM_CFG).bit 1 = true ∧ (s.dev.inf Reg.BEAM_CFG).bit 0 = false ∧ base.dev.beam.solving = false := by decide
/-- The last group of the store, in the solver's downlink: no antenna is left, the loading makes the matrix negative. -/
def noAntenna : Dev := let d := (solverOn.dev.setInf Reg.BEAM_CFG 2 3).wr Reg.BEAM_SOLVER_REG 0xBF800000
  { d with beam := { d.beam with dropped := 2 ^ 64 - 1, brought := [ashlarAddr true false 639 31 63] } }
def group639 : SolveGroup := ⟨0, 639, 639, 0, 12⟩
theorem witness_SolverWritesGroups : (noAntenna.inf Reg.BEAM_CFG).bit 1 = true ∧ group639.slot < 640 ∧
    ashlarAddr (!noAntenna.beam.dlBank) false group639.slot 31 63 ∈ noAntenna.beam.brought ∧
    ashlarAddr (!noAntenna.beam.dlBank) false group639.slot 2 63 ∉ noAntenna.beam.brought ∧ (group639.car, 2) ∈ noAntenna.layersOn ∧
    noAntenna.beam.dropped.testBit 63 = true ∧ noAntenna.solveC group639 = none ∧ noAntenna.solveLayers group639.car ≠ [] := by decide +kernel

/-- A capture of path 3 runs at receiver 0; its path's predistorter is in a state. -/
def capOf (user : CapUser) (valid : Bool) : OrxCapture := ⟨3, user, 2, valid, 0, 5⟩
def capturing (c : OrxCapture) (f : DpdPath → DpdPath) : State :=
  baseWith fun d => { d with dpd := { d.dpd with orx := d.dpd.orx.set 0 { Orx.reset with cap := some c }, path := d.dpd.path.set 3 (f DpdPath.reset) } }
theorem witness_DpdCaptures : ((capturing (capOf .dpd true) id).dev.dpd.orx[(0 : Fin 16)]).cap = some (capOf .dpd true) ∧
    (capOf .dpd true).user = .dpd ∧ (capOf .dpd true).valid = true ∧ (capOf .dpd false).valid = false ∧ (capOf (.host 4) true).user = .host 4 ∧
    (capOf .cal true).user = .cal ∧ ((capturing (capOf .dpd true) id).dev.dpd.path[(capOf .dpd true).input]).verify = none := by decide
/-- 200 before, 100 after: worse by 100 quarter dB, beyond the limit at reset. The capture began at tick 5. -/
theorem witness_DpdCaptures_revert : let s := capturing (capOf .dpd true) fun x => { x with verify := some (2, 200, 5) }
    let fig := captureFigures s.dev.mu s.dev.carsInf ⟨false, 100, 0, []⟩
    (s.dev.dpd.path[(capOf .dpd true).input]).verify = some ((2 : Fin 4).val, 200, 5) ∧ (capOf .dpd true).bank = (2 : Fin 4).val ∧
    5 ≤ (capOf .dpd true).tick ∧ (s.dev.dpd.path[(capOf .dpd true).input]).reverts[(2 : Fin 4)] ≠ 2 ∧ fig.1 < 255 ∧ 200 < 255 ∧
    fig.1 + (s.dev.rd Reg.DPD_CFG).get 23 16 < 200 ∧ ¬ (captureFigures s.dev.mu s.dev.carsInf ⟨false, 255, 0, []⟩).1 < 255 := by decide
theorem witness_DpdCaptures_early : ((capturing (capOf .dpd true) fun x => { x with verify := some (2, 200, 6) }).dev.dpd.path[(3 : Fin 64)]).verify =
    some ((2 : Fin 4).val, 200, 6) ∧ (capOf .dpd true).tick < 6 := by decide
/-- Path 3 adapts continuously and needs it. -/
def adapting : State :=
  baseWith fun d => { (d.wr Reg.DPD_CFG 0x80000010).wr (Reg.DPD_PATH_CFG 3) 0x02000000 with dpd := { d.dpd with path := d.dpd.path.set 3 { DpdPath.reset with needs := 1 } } }
theorem witness_DpdUpdates : (adapting.dev.rd Reg.DPD_CFG).bit 31 = true ∧ adapting.dev.nextUpdate = some (3, 0, 1) ∧
    adapting.dev.continuous 3 = true ∧ (adapting.dev.dpd.path[(3 : Fin 64)]).needs.testBit (adapting.dev.dpd.path[(3 : Fin 64)]).bank = true ∧
    3 ∉ adapting.dev.dpd.last ∧ ((base.dev.wr Reg.DPD_CFG 0x10).rd Reg.DPD_CFG).bit 31 = false := by decide
def upd0 (need : Nat) : DpdUpdate := ⟨[], 0, need, 255, 1⟩
/-- An update of path 3 whose captures have arrived, with its work in the cluster. -/
def updating (need : Nat) : State :=
  let s := capturing (capOf .dpd true) fun x => { x with upd := some (upd0 need) }
  withDev s { s.dev with chisel := { s.dev.chisel with kernels := [{ kern with slot := updateSlot 3 }] } }
theorem witness_DpdUpdates_done : (List.replicate 1408 (0 : Word)).length = 1408 ∧ ((updating 0).dev.dpd.path[(3 : Fin 64)]).upd = some (upd0 0) ∧
    (upd0 0).need = 0 ∧ (updating 0).dev.updateAdmitted 3 = true ∧ base.dev.updateAdmitted 3 = false ∧ (upd0 2).caps = [] ∧
    { upd0 0 with caps := [capSetOf []] }.caps ≠ [] ∧ 0 < (upd0 2).need ∧
    (base.dev.dpd.path[(3 : Fin 64)]).upd = none := ⟨List.length_replicate, by decide⟩
/-- The last capture that an update awaits comes in the cycle of its time limit. -/
def lastOne : State :=
  let s := capturing { capOf .dpd true with bank := 0 } fun x => { x with upd := some (upd0 1) }
  { s with pending := [.orxCaptureDone 0 ⟨false, 100, 0, []⟩] }
theorem witness_DpdUpdates_yields :
    let last := fun c => match c with | .orxCaptureDone k _ => lastOne.dev.lastCapture 3 k | _ => false
    ((lastOne.dev.dpd.path[(3 : Fin 64)]).upd = some (upd0 1) ∧ ArrivesNow lastOne last) ∧
    ¬ ArrivesNow { lastOne with pending := [] } last := by constructor <;> unfold ArrivesNow <;> decide

/-- Background tracking measures on tile 3, whose route `route` is open; the weight of an estimate is 2^-4. Path 63 has one estimate. -/
def tracking (route : Nat) (cfg : Word) : State := baseWith fun d => { d.wr Reg.CAL_CFG cfg with
  cal := { d.cal with tile := d.cal.tile.set 3 { CalTile.reset with last := some route }
                      path := d.cal.path.set 63 { CalPath.reset with rx := { CalDir.reset with hist := [⟨0, 0, 0, 1000, 1000⟩] } } } }
def meas (route : Nat) (gain : Int) (low : Bool) : CalMeasure := ⟨route, 63, gain, 0, 0, 1000, 1000, low, []⟩
def counts (s : State) (m : CalMeasure) : Bool := s.dev.measures (tileOf m.path) m.route && s.dev.measurable m
theorem witness_CalMeasures : counts (tracking 0 0x80000004) (meas 0 0 false) = true ∧ counts (tracking 1 0x80000004) (meas 1 0 true) = true ∧
    counts (tracking 0 0x00000004) (meas 0 0 false) = false ∧ counts (tracking 1 0x80000004) (meas 0 0 false) = false ∧
    (((tracking 0 0x80000004).dev.cal.path[(63 : Fin 64)]).rx).discards (estOf (meas 0 100000 false)) true = true ∧
    (((tracking 0 0x80000004).dev.cal.path[(63 : Fin 64)]).rx).discards (estOf (meas 0 1 false)) true = false ∧
    (tracking 0 0x80000004).dev.calHeld = false ∧ (tracking 0 0xC0000004).dev.calHeld = true ∧ base.dev.ticking = true := by decide
theorem witness_CalMeasures_edges : (-32768 : Int) ≤ -5000 ∧ (-5000 : Int).natAbs ≤ 5000 ∧ 5000 < (5001 : Int).natAbs ∧ (5001 : Int) ≤ 32767 := by decide
theorem witness_CalMeasures_age : ({ base.dev with time := { base.dev.time with cycle := 10000000000000 } } : Dev).estStale 0 false = true ∧
    base.dev.estStale 0 false = false := by decide
def calReq (code left : Nat) : CalReq := ⟨code, 15, left, 0, none, 0, 0⟩
def calWith (f : Cal → Cal) : State := baseWith fun d => { d with cal := f d.cal }
theorem witness_CalWorkEnds : base.dev.cal.restore = none ∧ (calWith fun c => { c with runs := [calReq 2 12] }).dev.cal.runs = [calReq 2 12] ∧
    base.dev.cal.queue = [] ∧ (calReq 2 12).code = 2 ∧ (calReq 2 12).deferred.testBit (2 : Fin 4).val = false ∧
    (calReq 2 12).left.testBit (2 : Fin 4).val = true ∧ (calReq 2 12).left ≠ 2 ^ (2 : Fin 4).val ∧ (calReq 2 4).left = 2 ^ (2 : Fin 4).val ∧
    5 ≤ (calReq 7 15).code ∧ (calReq 7 15).left < 16 ∧ (calReq 7 15).left.testBit (3 : Fin 4).val = true ∧ base.dev.drunas.clash = [] := by decide
/-- TIMEOUT counts in 0.1 s; 0 acts as 1. -/
theorem witness_CalWorkEnds_timeout : let limit := (calReq 7 15).at_ + 49152000 * max 1 ((base.dev.rd Reg.CAL_CFG).get 23 16)
    let late := (baseWith fun d => { d with time := { d.time with cycle := 49152000 * 255 } }).dev.time.cycle
    base.dev.time.cycle < limit ∧ limit ≤ late ∧
    (ArrivesNow { base with pending := [.calRunDone 3 0] } fun c => match c with | .calRunDone u _ => u == (3 : Fin 4) | _ => false) ∧
    ¬ ArrivesNow base fun c => match c with | .calRunDone u _ => u == (3 : Fin 4) | _ => false := by unfold ArrivesNow; decide
def snap0 : Snapshot := ⟨none, true, 0, 0, some [1, 2, 3]⟩
theorem witness_CalWorkEnds_snapshot : (calWith fun c => { c with snap := some snap0 }).dev.cal.snap = some snap0 ∧ snap0.image = some [1, 2, 3] := by decide
theorem witness_CalRestoreEnds : (calWith fun c => { c with restore := some none }).dev.cal.restore = some none ∧ base.dev.cal.mixed = [] ∧
    base.dev.cal.idle.all (fun x => !x.restore) = true ∧ base.dev.cal.restoreLand ≤ base.dev.cad.tickIdx := by decide

/-! ### Lanes, cells, messages -/

def laneWith (k : Fin 8) (f : Lane → Lane) : State := baseWith fun d => { d with lanes := d.lanes.set k (f d.lanes[k]) }
theorem witness_LinkUp : LinkUp base := by unfold LinkUp; decide
/-- A control field with the number of a lane in [59:57] and ready in [40], and its CRC-8. -/
def field (n ready : Nat) : BitVec 64 :=
  let w : BitVec 64 := BitVec.ofNat 64 (n * 2 ^ 57 + ready * 2 ^ 40)
  w + BitVec.ofNat 64 (crc8 w)
theorem witness_LaneTraining : fieldGood (field 7 0) = true ∧ fieldGood (field 7 0 + 1) = false ∧ bits64 (field 7 0) 59 57 = (7 : Fin 8).val ∧
    bits64 (field 6 0) 59 57 ≠ (7 : Fin 8).val ∧ fieldGood (field 6 0) = true ∧ fieldGood (field 7 1) = true ∧ bits64 (field 7 1) 40 40 = 1 ∧
    bits64 (field 7 1) 41 41 = 0 ∧ base.dev.lqfJoin ≤ 255 ∧ bits64 (field 7 0) 40 40 = 0 ∧ 0 < base.dev.lqfJoin := by decide +kernel
theorem witness_LaneTraining_states : ((laneWith 7 fun l => { l with st := .detect, good := 7 }).dev.lanes[(7 : Fin 8)]).st = .detect ∧
    ((laneWith 7 fun l => { l with st := .detect, good := 7 }).dev.lanes[(7 : Fin 8)]).good = 7 ∧
    ((laneWith 7 fun l => { l with st := .detect, other := 7 }).dev.lanes[(7 : Fin 8)]).other = 7 ∧
    ((laneWith 7 fun l => { l with st := .detect, other := 7 }).dev.lanes[(7 : Fin 8)]).good ≠ 7 ∧
    ((laneWith 7 fun l => { l with st := .eq }).dev.lanes[(7 : Fin 8)]).st = .eq ∧ (base.dev.lanes[(7 : Fin 8)]).st ≠ .detect ∧
    (base.dev.lanes[(7 : Fin 8)]).st ≠ .eq := by decide
theorem witness_LaneCodewords : 15 ≤ 15 ∧ ((laneWith 7 fun l => { l with st := .align, good := 63 }).dev.lanes[(7 : Fin 8)]).st = .align ∧
    ((laneWith 7 fun l => { l with st := .align, good := 63 }).dev.lanes[(7 : Fin 8)]).good = 63 ∧
    ((laneWith 7 fun l => { l with st := .align }).dev.lanes[(7 : Fin 8)]).good ≠ 63 ∧ (base.dev.lanes[(7 : Fin 8)]).st ≠ .align := by decide
theorem witness_LaneAttempts : ((laneWith 7 fun l => { l with st := .qualify, attempt := 8 }).dev.lanes[(7 : Fin 8)]).st = .qualify ∧
    8 ≤ ((laneWith 7 fun l => { l with st := .qualify, attempt := 8 }).dev.lanes[(7 : Fin 8)]).attempt ∧
    ((laneWith 7 fun l => { l with st := .detect, attempt := 7 }).dev.lanes[(7 : Fin 8)]).attempt < 8 ∧
    ((laneWith 7 fun l => { l with st := .wait }).dev.lanes[(7 : Fin 8)]).st = .wait ∧
    ((laneWith 7 fun l => { l with st := .down }).dev.lanes[(7 : Fin 8)]).st = .down ∧ (base.dev.rd Reg.SKX_PHY_CFG).bit (24 + 7) = true ∧
    ((laneWith 7 fun l => { l with fastExit := true }).dev.lanes[(7 : Fin 8)]).st = .ei ∧
    ((laneWith 7 fun l => { l with fastExit := true }).dev.lanes[(7 : Fin 8)]).fastExit = true ∧ (base.dev.lanes[(7 : Fin 8)]).fastExit = false ∧
    (base.dev.sump.src[laneSource 7]).wireIgnored = false := by decide
theorem witness_LaneAttempts_yields : (ArrivesNow { base with pending := [.laneQualifyDone 7] } (· == .laneQualifyDone 7)) ∧
    ¬ ArrivesNow base (· == .laneQualifyDone 7) := by unfold ArrivesNow; decide
/-- Lanes 6 and 7 serve; lane 7 has had two low windows. -/
def serving : State :=
  let s := laneWith 7 fun l => { l with st := .active, low := 2 }
  withDev s { s.dev with lanes := s.dev.lanes.set 6 { Lane.reset with st := .active }, link := { s.dev.link with txSet := 0xC0, rxSet := 0xC0 } }
/-- The margin to the leave threshold: no margin at all, and ample margin. -/
theorem witness_LaneQuality : (serving.dev.lanes[(7 : Fin 8)]).st = .active ∧ serving.dev.link.rxSet.testBit 7 = true ∧
    lqfOf 17600 17600 < (serving.dev.rd Reg.SKX_PHY_THR).get 7 0 ∧ 2 ≤ (serving.dev.lanes[(7 : Fin 8)]).low ∧
    lqfOf 17600 17600 < (serving.dev.rd Reg.SKX_PHY_THR).get 15 8 ∧ (serving.dev.rd Reg.SKX_PHY_THR).get 7 0 ≤ lqfOf 90000 90000 ∧
    (serving.dev.lanes[(7 : Fin 8)]).firstWindow = false ∧ (base.dev.lanes[(7 : Fin 8)]).st ≠ .active := by decide
theorem witness_LaneService : ((laneWith 0 fun l => { l with st := .qualify }).dev.lanes[(0 : Fin 8)]).st = .qualify ∧
    (serving.dev.lanes[(7 : Fin 8)]).st = .active ∧ serving.dev.link.txSet.testBit 7 = true ∧
    ((laneWith 0 fun l => { l with st := .ready }).dev.lanes[(0 : Fin 8)]).st = .ready := by decide
/-- Lane 0 joins both sets, lane 7 leaves both, as fixed at a cutoff. -/
def switching : State := withDev serving { serving.dev with
  lanes := serving.dev.lanes.set 0 { Lane.reset with st := .ready },
  link := { serving.dev.link with switching := [⟨0, some true, some true, 7⟩, ⟨7, some false, some false, 7⟩] },
  time := { serving.dev.time with master := some 1 } }
theorem witness_LaneSets : switching.dev.link.switching ≠ [] ∧ serving.dev.link.switching = [] ∧ (switching.dev.lanes[(0 : Fin 8)]).st = .ready ∧
    switching.dev.link.txSet.testBit 0 = false ∧ switching.dev.link.rxSet.testBit 0 = false ∧
    (afterTx switching.dev.link.txSet switching.dev.link.switching).testBit 0 = true ∧
    (afterTx switching.dev.link.txSet switching.dev.link.switching).testBit 7 = false ∧
    afterTx switching.dev.link.txSet switching.dev.link.switching ≠ switching.dev.link.txSet := by decide
theorem witness_LaneSets_lastLane : switching.dev.link.rxSet ≠ 0 ∧ afterRx 0x80 [⟨7, some false, some false, 7⟩] = 0 ∧
    switching.dev.time.master.isSome = true ∧ switching.dev.time.holdover = false := by decide

/-- A header with its HCHK: a command of one cell. -/
def hCommand : Word := 0xC0040019
/-- A header with its HCHK: a LINK cell. -/
def hLink : Word := 0xFFD40027
/-- A header with its HCHK: a reserved type. -/
def hReserved : Word := 0x003C0016
/-- A header with its HCHK: IDLE. -/
def hIdle : Word := 0x01400024
/-- A header with its HCHK: a LINK type on another flow. -/
def hStray : Word := 0x00540006
/-- A header with its HCHK: a flow without a meaning. -/
def hNoFlow : Word := 0x88040024
/-- A header with its HCHK: cell 5 of a sample message. -/
def hData5 : Word := 0x000C015E
/-- The 60 bytes of a LINK cell of a kind with a good CRC. -/
def linkCell (w0 : Word) : List Byte :=
  let body := beBytes w0 ++ List.replicate 52 0
  body ++ beBytes (crc32c body)
theorem witness_CellsReceived : LinkUp serving ∧ (List.replicate 60 (0 : Byte)).length = 60 ∧ serving.dev.link.rxSet ≠ 0 ∧ base.dev.link.rxSet = 0 ∧
    hchk 1 ≠ (1 : Word).get 5 0 := by unfold LinkUp; decide
theorem witness_CellsReceived_headers : hchk hCommand = hCommand.get 5 0 ∧ hchk hLink = hLink.get 5 0 ∧ hchk hReserved = hReserved.get 5 0 ∧
    hchk hIdle = hIdle.get 5 0 ∧ hchk hStray = hStray.get 5 0 ∧ hchk hNoFlow = hNoFlow.get 5 0 ∧ hchk hData5 = hData5.get 5 0 := by decide
theorem witness_CellsReceived_types : 6 ≤ hReserved.get 21 18 ∧ hIdle.get 21 18 = 0 ∧ hStray.get 21 18 = 5 ∧
    hStray.get 31 22 ≠ 0x3FF ∧ hLink.get 31 22 = 0x3FF ∧ hCommand.get 21 18 = 1 ∧ hCommand.get 31 22 = 0x300 ∧
    rxMeaning (hNoFlow.get 31 22) = false ∧ rxMeaning (hData5.get 31 22) = true ∧ hData5.get 21 18 = 3 ∧
    hData5.get 17 6 ≠ ((serving.dev.link.rxSeq.find? fun (x : Nat × Nat) => x.1 == 0).map Prod.snd).getD 0 := by decide
theorem witness_CellsReceived_link : (beWords (linkCell 0x20000000)).getD 14 0 = crc32c ((linkCell 0x20000000).take 56) ∧
    1 ≤ ((beWords (linkCell 0x20000000)).getD 0 0).get 31 28 ∧ ((beWords (linkCell 0x20000000)).getD 0 0).get 31 28 ≤ 3 ∧
    (beWords (List.replicate 60 (0 : Byte))).getD 14 0 ≠ crc32c ((List.replicate 60 (0 : Byte)).take 56) := by decide +kernel

/-- A message waits; its first cell came when the symbol of its address was still to come. -/
def inboxWith (m : Inbox) : State := baseWith fun d => { d with link := { d.link with inbox := [m] }, cad := { d.cad with nom := 4915200 * 50 } }
/-- Frame 50, subframe 1, slot 0, symbol 5; the first cell 10 µs ahead of its symbol. -/
def sampleMsg (first : Nat) : Inbox := ⟨0, [0x08032105], true, first, first⟩
def nom0 : Nat := nearestNom base.dev.mu 0x08032105 (sampTime (4915200 * 50))
theorem witness_SampleMessages : Waits (inboxWith (sampleMsg 0)) 0 (sampleMsg 0) [] ∧ isSampleFlow 0 = true ∧ isSampleFlow 0x1FF = true ∧
    addrValid base.dev.mu 0x08032105 = true ∧ addrValid base.dev.mu 0x08032A05 = false ∧
    (sampleMsg 0).words.getD 0 0 = 0x08032105 := by unfold Waits LinkUp; decide
theorem witness_SampleMessages_time : (0x08032105 : Word).get 29 27 = (inboxWith (sampleMsg 0)).dev.mwAt 0 ((inboxWith (sampleMsg 0)).dev.tickOfNom nom0) ∧
    (inboxWith (sampleMsg 0)).dev.inArrival nom0 (dlBound base.dev.mu nom0) = true ∧ (inboxWith (sampleMsg 0)).dev.inArrival nom0 0 = false ∧
    nearestNom base.dev.mu 0x08032105 (dlBound base.dev.mu nom0) = nom0 := by decide
/-- A message of the same flow, symbol and bound has been accepted before. -/
theorem witness_SampleMessages_repeated : let s := inboxWith (sampleMsg 0)
    let nom := nearestNom s.dev.mu 0x08032105 0
    let x : Accepted := ⟨0, addrFields 0x08032105, dlBound s.dev.mu nom, []⟩
    ¬ (∀ y ∈ [x], y.flow ≠ 0 ∨ y.addr ≠ addrFields 0x08032105 ∨ y.bound ≠ dlBound s.dev.mu nom) ∧ base.dev.link.accepted = [] := by decide
theorem witness_SoundingMessages : isSoundFlow 0x203 = true ∧ isSoundFlow 0x200 = true ∧
    Waits (inboxWith { sampleMsg 0 with flow := 0x203 }) 0x203 { sampleMsg 0 with flow := 0x203 } [] := by unfold Waits LinkUp; decide
/-- Two groups of antennas 60 to 63 of layer 31 of slot 639. -/
def weightMsg : Inbox := ⟨0x210, [(0x00000000 : Word).put 14 5 639 |>.put 4 0 31, ((0 : Word).put 31 26 60).put 25 19 4 |>.put 18 13 1, 1, 2, 3, 4], true, 0, 0⟩
theorem witness_WeightMessages_order : (∀ x ∈ base.dev.sameNow.ashlar, x.2.2 ≤ 1) ∧ ashlarPlace .weightLoad = 1 := by decide
theorem witness_WeightMessages : (inboxWith weightMsg).dev.link.inbox = weightMsg :: [] ∧ weightMsg.flow = 0x210 ∧ base.dev.drunas.cmds = [] ∧
    base.dev.drunas.ring = [] ∧ (weightMsg.words.getD 0 0).get 14 5 < 640 ∧
    (weightMsg.words.getD 1 0).get 31 26 + (weightMsg.words.getD 1 0).get 25 19 ≤ 64 ∧
    (weightMsg.words.getD 0 0).get 4 0 + (weightMsg.words.getD 1 0).get 18 13 ≤ 32 ∧ (base.dev.inf Reg.BEAM_CFG).bit 1 = false ∧
    0 < (weightMsg.words.getD 1 0).get 25 19 ∧ ((base.dev.setInf Reg.BEAM_CFG 3 3).inf Reg.BEAM_CFG).bit 1 = true := by decide
def linkMsg (w0 : Word) : Inbox := ⟨0x3FF, beWords (linkCell w0), true, 0, 0⟩
theorem witness_LinkCells : LinkUp (inboxWith (linkMsg 0x20000081)) ∧ (inboxWith (linkMsg 0x20000081)).dev.link.inbox = linkMsg 0x20000081 :: [] ∧
    (linkMsg 0x20000081).flow = 0x3FF ∧ ((linkMsg 0x20000081).words.getD 0 0).get 31 28 = 2 ∧ ((linkMsg 0x30000401).words.getD 0 0).get 31 28 = 3 ∧
    ((linkMsg 0x30000401).words.getD 0 0).bit 10 = true ∧ ((linkMsg 0x10008001).words.getD 0 0).get 31 28 = 1 ∧
    (linkMsg 0x10008001).words.getD 1 0 = 0 ∧ base.dev.rd Reg.SKX_PHY_SLEEP = 0 ∧ ((linkMsg 0x10008001).words.getD 0 0).bit (8 + 7) = true ∧
    ((linkMsg 0x10008001).words.getD 0 0).bit (8 + 0) = false ∧ ((linkMsg 0x10008001).words.getD 0 0).bit 0 = true := by unfold LinkUp; decide +kernel
/-- Carrier 0 is on with layer 0 of the downlink: flow 0 exists. -/
def carrierOn : State := baseWith fun d => (d.setInf (Reg.BEAM_CAR_CFG 0) 0x80000000 0xFFFFFFFF#32).setInf (Reg.BEAM_CAR_LDL 0) 1 0xFFFFFFFF#32
theorem witness_MissingAndAbandoned : LinkUp carrierOn ∧ carrierOn.dev.cad.running = true ∧ carrierOn.dev.flowExists false 0 = true ∧
    (∀ x ∈ carrierOn.dev.link.accepted, x.flow ≠ 0) ∧ 0 ∉ carrierOn.dev.link.shedRx ∧ base.dev.flowExists false 0 = false ∧
    isSampleFlow 0x100 = true ∧ isSampleFlow 0x80 = false := by unfold LinkUp; decide

/-! ### Commands -/

/-- A command packet with TAG 0x42 and its CHECK, executed at once. -/
def pkt (op : Nat) (ps : List Word) (check : Word) : Packet :=
  ⟨[(BitVec.ofNat 32 (op * 65536 + 0x42)), BitVec.ofNat 32 (4 * ps.length * 65536), 0, 0] ++ ps ++ [check], true, false, true, 0, 0, false⟩

/-- `s` with one packet in its ring. -/
def put (s : State) (p : Packet) : State := withDev s { s.dev with drunas := { s.dev.drunas with ring := [p] } }

/-- What makes a packet head the ring and pass its checks, as a computation. -/
def goodPacket (s : State) (p : Packet) (op : Nat) (ps : List Word) : Bool :=
  s.dev.processorRuns && decide (s.dev.drunas.ring = [p]) && !p.regAccess && decide ((p.words.getD 1 0).get 1 0 = 0) &&
  decide (p.opcode = op) && p.crcOk && decide (packetEnd p.words = some (impliedWords (p.words.getD 1 0))) && !(p.words.getD 1 0).bit 3 &&
  decide ((p.words.take (impliedWords (p.words.getD 1 0) - 1)).drop 4 = ps) && opcodes.contains op &&
  decide ((p.words.getD 1 0).get 31 16 % 4 = 0) && lengthOk op ps && s.dev.securityAllows op ps p.spi false

theorem heads_of_good {s : State} {p : Packet} {op : Nat} {ps : List Word} (h : goodPacket s p op ps = true) : Heads s p [] op ps := by
  simp only [goodPacket, Bool.and_eq_true, Bool.not_eq_true', decide_eq_true_eq] at h
  obtain ⟨⟨⟨⟨⟨⟨⟨⟨⟨⟨⟨⟨h1, h2⟩, h3⟩, h4⟩, h5⟩, h6⟩, h7⟩, h8⟩, h9⟩, h10⟩, h11⟩, h12⟩, h13⟩ := h
  refine ⟨⟨h1, h2, h3⟩, .inl h4, h5, ?_⟩
  have h5' : (p.words.getD 0 0).get 31 16 = op := h5
  have h9' : List.drop 4 (List.take (impliedWords (p.words.getD 1 0) - 1) p.words) = ps := h9
  simp only [Dev.checkPacket, h6, h7, h8, h9', h5', h10, h11]
  simp [h12, h13]

/-! A packet of every row of Table 11.4 heads the ring, with the parameters that the clauses below use. -/

theorem witness_Heads_system :
    Heads (put base (pkt 0x100 [1, 2, 3] 0x4094469A)) (pkt 0x100 [1, 2, 3] 0x4094469A) [] 0x100 [1, 2, 3] ∧
    Heads (put base (pkt 0x101 [] 0xBA0A6FD3)) (pkt 0x101 [] 0xBA0A6FD3) [] 0x101 [] ∧
    Heads (put base (pkt 0x102 [9] 0x1EC5973C)) (pkt 0x102 [9] 0x1EC5973C) [] 0x102 [9] ∧
    Heads (put base (pkt 0x200 [3] 0x5B7948FC)) (pkt 0x200 [3] 0x5B7948FC) [] 0x200 [3] ∧
    Heads (put base (pkt 0x200 [2] 0xA912CBFF)) (pkt 0x200 [2] 0xA912CBFF) [] 0x200 [2] ∧
    Heads (put base (pkt 0x201 [] 0xA9F20F20)) (pkt 0x201 [] 0xA9F20F20) [] 0x201 [] :=
  ⟨heads_of_good (by decide +kernel), heads_of_good (by decide +kernel), heads_of_good (by decide +kernel), heads_of_good (by decide +kernel), heads_of_good (by decide +kernel), heads_of_good (by decide +kernel)⟩

theorem witness_Heads_radio :
    Heads (put base (pkt 0x300 [0x1A03, 0, 0x10003, 11, 0, 0, 0] 0xD473372B)) (pkt 0x300 [0x1A03, 0, 0x10003, 11, 0, 0, 0] 0xD473372B) [] 0x300 [0x1A03, 0, 0x10003, 11, 0, 0, 0] ∧
    Heads (put base (pkt 0x310 [2, 0, 0, 0, 0] 0x0A1FA510)) (pkt 0x310 [2, 0, 0, 0, 0] 0x0A1FA510) [] 0x310 [2, 0, 0, 0, 0] ∧
    Heads (put base (pkt 0x310 [2, 0xFFFFFFFF, 0, 0, 0] 0xB790C005)) (pkt 0x310 [2, 0xFFFFFFFF, 0, 0, 0] 0xB790C005) [] 0x310 [2, 0xFFFFFFFF, 0, 0, 0] ∧
    Heads (put base (pkt 0x320 [2, 0x5000011, 0x25000022] 0xF2DDFEC1)) (pkt 0x320 [2, 0x5000011, 0x25000022] 0xF2DDFEC1) [] 0x320 [2, 0x5000011, 0x25000022] ∧
    Heads (put base (pkt 0x400 [1] 0x09CA0985)) (pkt 0x400 [1] 0x09CA0985) [] 0x400 [1] ∧
    Heads (put base (pkt 0x401 [2] 0xA3A1B696)) (pkt 0x401 [2] 0xA3A1B696) [] 0x401 [2] ∧
    Heads (put base (pkt 0x401 [0x80000000] 0x103A0F5E)) (pkt 0x401 [0x80000000] 0x103A0F5E) [] 0x401 [0x80000000] :=
  ⟨heads_of_good (by decide +kernel), heads_of_good (by decide +kernel), heads_of_good (by decide +kernel), heads_of_good (by decide +kernel), heads_of_good (by decide +kernel), heads_of_good (by decide +kernel), heads_of_good (by decide +kernel)⟩

theorem witness_Heads_adapt :
    Heads (put base (pkt 0x410 [0x800E0000, 0, 0, 0] 0x0B2B76D6)) (pkt 0x410 [0x800E0000, 0, 0, 0] 0x0B2B76D6) [] 0x410 [0x800E0000, 0, 0, 0] ∧
    Heads (put base (pkt 0x500 [0xE0000000, 1, 2, 0, 5, 0x30000000, 0x10000000, 7, 9] 0x6B7A0CF2)) (pkt 0x500 [0xE0000000, 1, 2, 0, 5, 0x30000000, 0x10000000, 7, 9] 0x6B7A0CF2) [] 0x500 [0xE0000000, 1, 2, 0, 5, 0x30000000, 0x10000000, 7, 9] ∧
    Heads (put base (pkt 0x501 [0, 3, 2] 0xA3602FEF)) (pkt 0x501 [0, 3, 2] 0xA3602FEF) [] 0x501 [0, 3, 2] ∧
    Heads (put base (pkt 0x600 [0xF03] 0x610F9CF5)) (pkt 0x600 [0xF03] 0x610F9CF5) [] 0x600 [0xF03] ∧
    Heads (put base (pkt 0x600 [3] 0x86769608)) (pkt 0x600 [3] 0x86769608) [] 0x600 [3] :=
  ⟨heads_of_good (by decide +kernel), heads_of_good (by decide +kernel), heads_of_good (by decide +kernel), heads_of_good (by decide +kernel), heads_of_good (by decide +kernel)⟩

theorem witness_Heads_cal :
    Heads (put base (pkt 0x601 [1, 0] 0xD795B6C9)) (pkt 0x601 [1, 0] 0xD795B6C9) [] 0x601 [1, 0] ∧
    Heads (put base (pkt 0x602 [1, 0] 0x49E1A681)) (pkt 0x602 [1, 0] 0x49E1A681) [] 0x602 [1, 0] ∧
    Heads (put base (pkt 0x610 [0x80000000, 5] 0xDF1DE872)) (pkt 0x610 [0x80000000, 5] 0xDF1DE872) [] 0x610 [0x80000000, 5] :=
  ⟨heads_of_good (by decide +kernel), heads_of_good (by decide +kernel), heads_of_good (by decide +kernel)⟩

theorem witness_Heads_time :
    Heads (put base (pkt 0x700 [0x80000000, 1, 2, 3] 0x2FF6BE84)) (pkt 0x700 [0x80000000, 1, 2, 3] 0x2FF6BE84) [] 0x700 [0x80000000, 1, 2, 3] ∧
    Heads (put base (pkt 0x701 [0x9F030000, 0, 5, 6] 0xDC44DE9A)) (pkt 0x701 [0x9F030000, 0, 5, 6] 0xDC44DE9A) [] 0x701 [0x9F030000, 0, 5, 6] ∧
    Heads (put base (pkt 0x701 [0x1F030000, 0, 5, 6] 0x6D759B62)) (pkt 0x701 [0x1F030000, 0, 5, 6] 0x6D759B62) [] 0x701 [0x1F030000, 0, 5, 6] ∧
    Heads (put base (pkt 0x702 [] 0x3569A936)) (pkt 0x702 [] 0x3569A936) [] 0x702 [] ∧
    Heads (put base (pkt 0x800 [2, 0x5123456, 0x6000001] 0x57E6AFE2)) (pkt 0x800 [2, 0x5123456, 0x6000001] 0x57E6AFE2) [] 0x800 [2, 0x5123456, 0x6000001] ∧
    Heads (put base (pkt 0x801 [2, 0x5000001, 0x7F000001] 0x1C6BB986)) (pkt 0x801 [2, 0x5000001, 0x7F000001] 0x1C6BB986) [] 0x801 [2, 0x5000001, 0x7F000001] :=
  ⟨heads_of_good (by decide +kernel), heads_of_good (by decide +kernel), heads_of_good (by decide +kernel), heads_of_good (by decide +kernel), heads_of_good (by decide +kernel), heads_of_good (by decide +kernel)⟩

theorem witness_Heads_faults :
    Heads (put base (pkt 0x900 [0xFE01] 0xEC345721)) (pkt 0x900 [0xFE01] 0xEC345721) [] 0x900 [0xFE01] ∧
    Heads (put base (pkt 0x901 [5] 0x22D4302D)) (pkt 0x901 [5] 0x22D4302D) [] 0x901 [5] ∧
    Heads (put base (pkt 0x901 [0x8000007] 0x35AB233C)) (pkt 0x901 [0x8000007] 0x35AB233C) [] 0x901 [0x8000007] ∧
    Heads (put base (pkt 0x902 [0x7000003] 0xD3D4CCD7)) (pkt 0x902 [0x7000003] 0xD3D4CCD7) [] 0x902 [0x7000003] ∧
    Heads (put base (pkt 0xA00 [0x3400000, 0x10] 0x093E30BE)) (pkt 0xA00 [0x3400000, 0x10] 0x093E30BE) [] 0xA00 [0x3400000, 0x10] ∧
    Heads (put base (pkt 0xA01 [] 0x20172007)) (pkt 0xA01 [] 0x20172007) [] 0xA01 [] :=
  ⟨heads_of_good (by decide +kernel), heads_of_good (by decide +kernel), heads_of_good (by decide +kernel), heads_of_good (by decide +kernel), heads_of_good (by decide +kernel), heads_of_good (by decide +kernel)⟩

set_option maxRecDepth 20000 in
theorem witness_Heads_security :
    Heads (put base (pkt 0xA10 [2] 0xA402E20D)) (pkt 0xA10 [2] 0xA402E20D) [] 0xA10 [2] ∧
    Heads (put base (pkt 0xA10 [3] 0x5669610E)) (pkt 0xA10 [3] 0x5669610E) [] 0xA10 [3] ∧
    Heads (put base (pkt 0xA10 (0x40000000 :: List.replicate 49 0) 0x5203C8DC)) (pkt 0xA10 (0x40000000 :: List.replicate 49 0) 0x5203C8DC) [] 0xA10 (0x40000000 :: List.replicate 49 0) ∧
    Heads (put base (pkt 0xA10 [0x80000000] 0x17995BC5)) (pkt 0xA10 [0x80000000] 0x17995BC5) [] 0xA10 [0x80000000] ∧
    Heads (put base (pkt 0xA20 (0x3 :: List.replicate 20 0) 0x51026D70)) (pkt 0xA20 (0x3 :: List.replicate 20 0) 0x51026D70) [] 0xA20 (0x3 :: List.replicate 20 0) ∧
    Heads (put base (pkt 0xA20 (0x1 :: List.replicate 20 0) 0x0818A0C9)) (pkt 0xA20 (0x1 :: List.replicate 20 0) 0x0818A0C9) [] 0xA20 (0x1 :: List.replicate 20 0) :=
  ⟨heads_of_good (by decide +kernel), heads_of_good (by decide +kernel), heads_of_good (by decide +kernel), heads_of_good (by decide +kernel), heads_of_good (by decide +kernel), heads_of_good (by decide +kernel)⟩

theorem witness_Heads_user :
    Heads (put base (pkt 0xB00 [0x10000003, 0x10, 0x40] 0x5A318027)) (pkt 0xB00 [0x10000003, 0x10, 0x40] 0x5A318027) [] 0xB00 [0x10000003, 0x10, 0x40] ∧
    Heads (put base (pkt 0xB00 [0x10000003, 0, 0x40] 0xD513E1F4)) (pkt 0xB00 [0x10000003, 0, 0x40] 0xD513E1F4) [] 0xB00 [0x10000003, 0, 0x40] ∧
    Heads (put base (pkt 0xB00 [0x10000003, 0x10, 0x400000] 0xDC2F1D42)) (pkt 0xB00 [0x10000003, 0x10, 0x400000] 0xDC2F1D42) [] 0xB00 [0x10000003, 0x10, 0x400000] ∧
    Heads (put base (pkt 0xB10 [0, 0x3300000] 0xB5A2F9BC)) (pkt 0xB10 [0, 0x3300000] 0xB5A2F9BC) [] 0xB10 [0, 0x3300000] ∧
    Heads (put base (pkt 0xB10 [0x80000001, 0] 0x4A760FD3)) (pkt 0xB10 [0x80000001, 0] 0x4A760FD3) [] 0xB10 [0x80000001, 0] ∧
    Heads (put base (pkt 0xB20 [0x7000003] 0xAAE27FB5)) (pkt 0xB20 [0x7000003] 0xAAE27FB5) [] 0xB20 [0x7000003] :=
  ⟨heads_of_good (by decide +kernel), heads_of_good (by decide +kernel), heads_of_good (by decide +kernel), heads_of_good (by decide +kernel), heads_of_good (by decide +kernel), heads_of_good (by decide +kernel)⟩

theorem witness_NoneOpen_Calm : NoneOpen base ∧ NoneOpen (put base (pkt 0x101 [] 0)) ∧ Calm base ∧ Calm (put base (pkt 0x101 [] 0)) :=
  ⟨by unfold NoneOpen; decide, by unfold NoneOpen; decide, .inl rfl, .inl rfl⟩
theorem witness_PacketChecks : AtHead (put base {pkt 0x101 [] 0 with crcOk := false}) {pkt 0x101 [] 0 with crcOk := false} [] ∧
    (pkt 0x101 [] 0).opcode = 0x101 ∧ (0x101, Instr.sysInfo) ∈ opcodeRows ∧ packetEnd (pkt 0x101 [] 1).words = none :=
  ⟨by unfold AtHead; decide, by decide, by decide, by decide +kernel⟩
theorem witness_PacketChecks_length : (pkt 0x102 [] 0x129968D0).crcOk = true ∧ packetEnd (pkt 0x102 [] 0x129968D0).words = some 5 ∧
    ((pkt 0x102 [] 0x129968D0).words.getD 1 0).bit 3 = false ∧ lengthOk 0x102 [] = false := by decide +kernel
theorem witness_PacketChecks_security : packetEnd (pkt 0x102 [9] 0x1EC5973C).words = some 6 ∧ impliedWords ((pkt 0x102 [9] 0).words.getD 1 0) = 6 ∧
    lengthOk 0x102 [9] = true ∧ (base.dev.wr Reg.SEC_CFG 2).securityAllows 0x102 [9] true false = false := by decide +kernel
theorem witness_UnknownOpcodes : opcodes.contains (pkt 0x999 [] 0x4F297F7A).opcode = false ∧ packetEnd (pkt 0x999 [] 0x4F297F7A).words = some 5 ∧
    opcodes.contains (pkt 0x100 [] 0).opcode = true := by decide +kernel
/-- An open command in a stage. -/
def cmdOf (op : Nat) (stage : CmdStage) (aux : List Nat) : Cmd :=
  { id := 5000, opcode := op, tag := 9, spi := true, auth := false, finalOnly := false, timing := 2, execTime := 0, params := [1, 2],
    stage := stage, total := 0, lost := 0, late := true, refused := false, results := [], time := 0, aux := aux, silent := false, verdict := none }
def withCmd (c : Cmd) : State := drunasWith fun x => { x with cmds := [c] }
theorem witness_PendingCommandRuns : (withCmd (cmdOf 0x100 .pendList [])).dev.processorRuns = true ∧
    (withCmd (cmdOf 0x100 .pendList [])).dev.drunas.cmds = [cmdOf 0x100 .pendList []] ∧ base.dev.drunas.ranges = [] ∧ base.dev.drunas.clash = [] ∧
    (cmdOf 0x100 .pendList []).stage = .pendList ∧ (cmdOf 0x100 .pendList []).opcode = 0x100 ∧ (cmdOf 0x100 .pendList []).verdict = none ∧
    (cmdOf 0x100 .pendList []).silent = false ∧ (withCmd (cmdOf 0x100 .pendList [])).dev.dueIn (cmdOf 0x100 .pendList []) = some 0 := by decide
theorem witness_Queries : (0xFE01 : Word).get 7 0 + (0xFE01 : Word).get 15 8 < 256 := by decide
theorem witness_Cancels : (cmdOf 0x100 .pendList []).tag = (9 : Word).get 15 0 ∧ (cmdOf 0x100 .pendList []).id ≠ base.dev.drunas.nextId ∧
    base.dev.cal.queue = [] := by decide
/-- The cluster runs at operating point 3 and holds no kernel. -/
def fullSpeed : State := baseWith fun d => { d with chisel := { d.chisel with op := 3 } }
theorem witness_Configures : solverSure fullSpeed.dev (max 1 ((0x800E0000 : Word).get 27 16)) = true ∨
    solverSure fullSpeed.dev (max 1 ((0x801C0000 : Word).get 27 16)) = true := by decide
/-- Core 3 holds more than any operating point gives, whatever the solver takes; the solver is to run every 20 ticks in groups of 1. -/
def overloaded : State := baseWith fun d =>
  { d.wr Reg.BEAM_SOLVER_CFG 0x80140000 with chisel := { d.chisel with kernels := [{ kern with w := 1000000000 }] } }
theorem overloaded_of_held (d : Dev) (op c : Nat) (h : (d.held c).isEmpty = false) (hc : d.capAt op < 512 + ((d.held c).map Kernel.share).sum) :
    d.coreFits op c = false := by
  simp only [Dev.coreFits, h, Bool.false_and, Bool.false_or, Dev.charge]
  exact decide_eq_false (Nat.not_le.mpr (Nat.lt_of_lt_of_le hc (Nat.le_add_right _ _)))
theorem witness_Configures_refused : solverSure overloaded.dev (max 1 ((0x80140000 : Word).get 27 16)) = false ∧
    overloaded.dev.solverOn = true ∧ overloaded.dev.solverFits = false := by
  refine ⟨by decide, by decide, ?_⟩
  rw [Dev.solverFits, List.all_eq_false]
  refine ⟨3, by decide, ?_⟩
  rw [overloaded_of_held _ _ 3 (by decide) (by decide)]
  decide
def secWith (f : Sec → Sec) : State := baseWith fun d => { d with sec := f d.sec }
theorem witness_Security : (2 : Word).get 31 30 = 0 ∧ (secWith fun x => { x with lockout := true }).dev.sec.lockout = true ∧
    base.dev.maxLevel < (3 : Word).get 1 0 ∧ base.dev.sec.lockout = false ∧ (2 : Word).get 1 0 ≤ base.dev.maxLevel ∧
    (0x40000000 : Word).get 31 30 = 1 ∧ base.dev.sec.nonce = none ∧ (0x80000000 : Word).get 31 30 = 2 ∧
    (secWith fun x => { x with level := 2 }).dev.sec.level ≠ 0 ∧ lcStep base.dev.sec.lifecycle ((3 : Word).get 2 0) = false ∧
    base.dev.sec.lifecycle = 0 ∧ (1 : Word).get 2 0 = 1 ∧ base.dev.power.dev ≠ 4 ∧ base.dev.sec.lcNext = none := by decide
/-- Whether a signature verifies is an opaque constant of Config: where it says so for this response, the clause about one that verifies
applies. -/
theorem witness_Security_response (ps : List Word) (x : List Byte)
    (h : Config.sigVerify Config.holantKey (base.dev.unlockMessage x (some 2) none) (responseKey ps).2 = true)
    (hk : (responseKey ps).1 = Config.holantKey) : (secWith fun y => { y with nonce := some x }).dev.sec.nonce = some x ∧
    2 ≤ (secWith fun y => { y with nonce := some x }).dev.maxLevel ∧
    (secWith fun y => { y with nonce := some x }).dev.keyVerifies (responseKey ps).1 = true ∧
    Config.sigVerify (responseKey ps).1 ((secWith fun y => { y with nonce := some x }).dev.unlockMessage x (some 2) none) (responseKey ps).2 = true := by
  refine ⟨rfl, (by decide : 2 ≤ base.dev.maxLevel), ?_, ?_⟩
  · simp only [Dev.keyVerifies, hk]
    exact beq_self_eq_true _
  · rw [hk]; exact h

theorem witness_RadioCommits : configValid ((base.dev.rd Reg.CADENCE_CFG).get 1 0) (base.dev.rd Reg.BEAM_CFG)
      ((List.range 4).map fun k => if k = 1 then (0xFFFFFFFF, 0) else (base.dev.rd (Reg.BEAM_CAR_CFG k), base.dev.rd (Reg.BEAM_CAR_NCO k))) = false ∧
    configValid ((base.dev.rd Reg.CADENCE_CFG).get 1 0) (base.dev.rd Reg.BEAM_CFG)
      ((List.range 4).map fun k => if k = 1 then (0, 0) else (base.dev.rd (Reg.BEAM_CAR_CFG k), base.dev.rd (Reg.BEAM_CAR_NCO k))) = true ∧
    (0x1A03 : Word).bit 12 = true ∧ (0x1A03 : Word).bit 0 = true := by decide
theorem witness_OtherCommits : (∃ u ∈ pairPaths 0 3, ((base.dev.wr (Reg.DPD_PATH_CFG 1) 0x40000000).rd (Reg.DPD_PATH_CFG u.val)).bit 30 = true) ∧
    (∀ u ∈ pairPaths 0 3, (base.dev.rd (Reg.DPD_PATH_CFG u.val)).bit 30 = false) ∧
    (biasWith fun b => { b with linkUp := false }).dev.bias.linkUp = false ∧ base.dev.bias.linkUp = true ∧
    (0x08000007 : Word).get 7 0 < unitCount ((0x08000007 : Word).get 27 24) ∧
    ({ base.dev with link := { base.dev.link with txSet := 128 } } : Dev).lastLane ((0x08000007 : Word).get 7 0) = true ∧
    (5 : Word).get 7 0 < unitCount ((5 : Word).get 27 24) ∧ ¬ ((5 : Word).get 27 24 = 8) ∧ base.dev.drunas.staged = none ∧
    (drunasWith fun x => { x with staged := some ⟨true, 3, 0, true⟩ }).dev.drunas.staged.isSome = true ∧
    (0x80000001 : Word).bit 31 = true ∧ (∀ k ∈ base.dev.chisel.kernels, ¬ (k.user = true ∧ k.handle = (0x80000001 : Word).get 15 0)) ∧
    (∃ k ∈ running.dev.chisel.kernels, k.user = true ∧ k.handle = (0x80000001 : Word).get 15 0) := by decide +kernel

theorem witness_WorkBegins_power : 1 ≤ (3 : Word).get 2 0 ∧ (3 : Word).get 2 0 ≤ 4 ∧ base.dev.power.cur = none ∧ (3 : Word).get 2 0 = base.dev.power.dev ∧
    (powWith fun p => { p with cur := some (req 4) }).dev.power.cur = some (req 4) ∧ (req 4).target ≠ (2 : Word).get 2 0 ∧ base.dev.power.slot = none := by decide
theorem witness_WorkBegins_cal : (3 : Word).get 11 8 = 0 ∧ 1 ≤ (3 : Word).get 7 0 ∧ (0xF03 : Word).get 11 8 ≠ 0 ∧ 2 ≤ (0xF03 : Word).get 7 0 ∧
    (0xF03 : Word).get 7 0 ≤ 7 ∧ base.dev.calBusy &&& (0xF03 : Word).get 11 8 = 0 ∧
    (calWith fun c => { c with runs := [calReq 2 8] }).dev.calBusy &&& (0xF03 : Word).get 11 8 ≠ 0 ∧ (1 : Word).bit 31 = false ∧
    (calWith fun c => { c with snap := some snap0 }).dev.snapBusy = true ∧ base.dev.snapBusy = false ∧ base.dev.time.step = none := by decide
theorem witness_WorkBegins_units : (0x07000003 : Word).get 7 0 < unitCount ((0x07000003 : Word).get 27 24) ∧ base.dev.unitRetired 7 3 = false ∧
    (baseWith fun d => d.modTile 3 fun x => { x with retired := true }).dev.unitRetired 7 3 = true ∧
    (baseWith fun d => d.modTile 3 fun x => { x with retired := true }).dev.bistRefusal [] 7 3 = 0 ∧ base.dev.bistRefusal [] 7 3 = 0 ∧
    (base.dev.modPath 20 fun x => { x with mode := 2 }).bistRefusal [] 7 1 ≠ 0 := by decide
theorem witness_WorkBegins_rest : base.dev.activatePending = false ∧ base.dev.drunas.handover = false ∧
    (drunasWith fun x => { x with handover := true }).dev.drunas.handover = true ∧ captureBase + 64 < captureHalf ∧
    captureBase + 64 + 4 * 16 ≤ captureEnd ∧ (0x10000003 : Word).get 31 28 ≠ 0 ∧ (3 : Word).get 31 28 = 0 ∧ captureHalf ≤ captureBase + (0x400000 : Word).toNat := by decide
/-- A kernel image of no instruction and no coefficient at the base of the user region. -/
def imageWords : List Word := [0x43484B31, 0x1, 0x0, 0x0, 0x100, 0x100, 0x3E8, 0x40001, 0x0, 0x3300000, 0x1000, 0x0, 0x0, 0x0, 0x0, 0xA0361F91, 0x0]
def loadedImage : State := withDev { base with mem := Mem.setWords base.mem 0x3300000 imageWords } fullSpeed.dev
theorem witness_WorkBegins_load : imageGood base.dev base.mem 0x3300000 = false ∧ fullSpeed.dev.freeSlot = some 0 ∧
    (baseWith fun d => { d with chisel := { d.chisel with kernels := (List.range 16).map fun n => { kern with slot := n } } }).dev.freeSlot = none := by decide
theorem witness_WorkBegins_image : imageGood loadedImage.dev loadedImage.mem 0x3300000 = true := by decide +kernel
theorem witness_WorkBegins_place : ((fullSpeed.dev.wr Reg.CHISEL_CFG 0xFFFF0000).place { due with w := 100 } fullSpeed.dev.opAdm).isSome = true := by decide
theorem witness_WorkBegins_beam : (2 : Word).bit 28 = false ∧ (base.dev.inf Reg.BEAM_CFG).bit 1 = false ∧
    ((base.dev.setInf Reg.BEAM_CFG 3 3).inf Reg.BEAM_CFG).bit 1 = true ∧ (pkt 0x401 [2] 0).loads < (2 : Word).get 9 0 ∧
    (0x80000000 : Word).get 9 0 ≤ (pkt 0x401 [2] 0).loads ∧ (0x80000000 : Word).bit 30 = false ∧ (0x80000000 : Word).bit 29 = false ∧
    (pkt 0x401 [2] 0).loadRefused = false ∧ { pkt 0x401 [2] 0 with loadRefused := true }.loadRefused = true := by decide

theorem witness_WorkEnds : ∀ op ∈ [0xA00, 0xA01, 0xB00, 0xB20, 0x902, 0x401],
    Working (withCmd (cmdOf op .working [])) (cmdOf op .working []) := by unfold Working; decide
theorem witness_WorkEnds_stage : (cmdOf 0xA00 .working [0x3400000, 16]).aux = [0x3400000, 16] ∧ captureBase ≤ 0x3400000 ∧ 0x3400000 + 16 ≤ captureHalf ∧
    base.dev.checkImage (List.replicate 16 0) = none := ⟨rfl, by decide, by decide, by rfl⟩
/-- The message that a BEAM_LOAD of TAG 9 still awaits comes in the cycle of its time limit. -/
def lastLoading : State :=
  let s := withCmd (cmdOf 0x401 .working [0, 0, 0])
  { withDev s { s.dev with link := { s.dev.link with inbox := [{ weightMsg with words := [0x00090000, 0] }] } } with pending := [.weightLoadMessage] }
theorem witness_WorkEnds_yields : (ArrivesNow lastLoading fun (x : Instr) => x == .weightLoadMessage && lastLoading.dev.lastLoad (9 : BitVec 16).toNat) ∧
    ¬ ArrivesNow { lastLoading with pending := [] } fun (x : Instr) => x == .weightLoadMessage && lastLoading.dev.lastLoad (9 : BitVec 16).toNat := by
  unfold ArrivesNow; decide
theorem witness_WorkEnds_rest : (drunasWith fun x => { x with handover := true }).dev.drunas.handover = true ∧ base.dev.drunas.clash = [] ∧
    (cmdOf 0xB00 .working [2, 1, 3, 4, 0x3400000, 0, 0]).aux = [1 + 1, 1, 3, ([1, 2, 3, 4] : List Word).length, 0x3400000, 0, 0] ∧
    base.dev.bistRuns 7 3 = true ∧ 5 ≠ 0 ∧ ((cmdOf 0x401 .working []).p 0).bit 28 = false ∧ (cmdOf 0x401 .working []).tag = (9 : BitVec 16).toNat := by decide

/-! A calibration image of no section, of this part: the silicon identifier is an opaque constant, so its acceptance is a proof and no
computation. -/

theorem ofLe_leBytes (w : Word) : ofLe (leBytes w) = w.toNat := by
  have := w.isLt
  simp only [leBytes, ofLe, BitVec.extractLsb'_toNat, Nat.shiftRight_eq_div_pow]
  omega
theorem ofLe_leN (k n : Nat) (h : n < 256 ^ k) : ofLe (leN k n) = n := by
  induction k generalizing n with
  | zero => simp [leN, ofLe] at *; omega
  | succ k ih =>
    rw [Nat.pow_succ] at h
    simp only [leN, ofLe, ih (n / 256) (by omega), BitVec.toNat_ofNat]
    omega
def calHead : List Byte :=
  leN 4 0x43414C31 ++ leN 2 1 ++ leN 2 0 ++ leN 4 68 ++ leN 4 0 ++ leN 8 Config.siliconId.toNat ++ List.replicate 36 0
def calImage : List Byte := calHead ++ leBytes (crc32c calHead) ++ leBytes (crc32c [])
theorem imageAccepted_calImage (rest : List Byte) : imageAccepted (calImage ++ rest) = true := by
  have h := ofLe_leN 8 Config.siliconId.toNat (by have := Config.siliconId.isLt; omega)
  have l : (calImage ++ rest).length = 68 + rest.length := by simp [calImage, calHead, leN, leBytes]; omega
  have e8 : ofLe (((calImage ++ rest).drop 8).take 4) = 68 := ofLe_leN 4 68 (by decide)
  have e0 : ofLe ((calImage ++ rest).take 4) = 0x43414C31 := ofLe_leN 4 0x43414C31 (by decide)
  have e4 : ofLe (((calImage ++ rest).drop 4).take 2) = 1 := ofLe_leN 2 1 (by decide)
  have eh : ofLe (((calImage ++ rest).drop 0x3C).take 4) = (crc32c calHead).toNat := ofLe_leBytes _
  have et : (calImage ++ rest).take 0x3C = calHead := by rfl
  have eb : ofLe (((calImage ++ rest).drop (68 - 4)).take 4) = (crc32c []).toNat := ofLe_leBytes _
  have en : ((calImage ++ rest).drop 64).take (68 - 68) = [] := by simp
  have ei : ofLe (((calImage ++ rest).drop 0x10).take 8) = Config.siliconId.toNat := h
  unfold imageAccepted
  simp only [e8, l, e0, e4, eh, et, eb, en, ei, beq_self_eq_true, Bool.and_true, decide_eq_true_eq]
  omega
theorem witness_WorkBegins_restore : imageAccepted (slotImage (Mem.setBytes base.mem (slotAddr 1 0) calImage) 1) = true := by
  rw [slotImage, Mem.bytes_setBytes _ _ _ _ (by simp [calImage, calHead, leN, leBytes])]
  exact imageAccepted_calImage _
theorem witness_WorkBegins_noImage : imageAccepted (List.replicate 100 0) = false := by rfl

/-! ### Single results, from the spec's tables and worked examples -/

/-- Example of chapter 2: at numerology 3 tick 1 falls at 4,640 samples and tick 2 at 9,024. -/
theorem test_symbols_mu3 : symStart 3 1 = 4640 ∧ symStart 3 2 = 9024 ∧ symLen 3 0 = 4640 ∧ symLen 3 4640 = 4384 := by decide
/-- Table 14.7: the results over ASCII "123456789". -/
def digits : List Byte := [0x31, 0x32, 0x33, 0x34, 0x35, 0x36, 0x37, 0x38, 0x39]
theorem test_check_values : [0, 1, 2].map (fun a => checkOut a (digits.foldl (checkByte a) (checkInit a))) =
    ([0xE3069283, 0xCBF43926, 0x29B1] : List Word) := by decide +kernel
/-- Example of chapter 3: the word of 3.5 GHz; N = 14, below the VCO's range, is refused. -/
theorem test_word_range : wordValid 0x11C 0x7BAAAAAB = true ∧ wordValid 0x10E 0 = false ∧ divider 0x11C = 4 := by decide
/-- Example of chapter 3: entry 250 of the nominal table has ATTN 9 and DGAIN 0x751. -/
theorem test_entry_250 : nominalGain (40 * 250 % 1023) = 0x751 := by decide +kernel
/-- Example of chapter 5: bank 1, downlink, slot 79, layer 3, antenna 37. -/
theorem test_ashlar_address : ashlarAddr true false 79 3 37 = 0x01A9E394 := by decide
/-- Example of chapter 10: the header of the first cell, the message's 126 cells. -/
theorem test_header : hchk 0x08C9FF80 = 0x2D := by decide
theorem test_cells : cellsOfBytes (4 + blockBytes 273 1) = 126 ∧ addrValid 1 0x08205317 = true ∧ addrValid 0 0x08205317 = false := by decide
/-- R257: 4 × (20.0 − 17.6) is 9.6, rounded to 10; figures clamp at 0 and 255. -/
theorem test_lqf : lqfOf 20000 25000 = 10 ∧ lqfOf 10000 25000 = 0 ∧ lqfOf 90000 90000 = 255 := by decide
/-- Table 13.1: the safe codes. -/
theorem test_safe_codes : [0, 1, 2].map safeCode = [0, 0, 2048] := by decide
/-- Example of chapter 13: the entry 0x0AA8_863C sets BIAS10 to ON code 0xA88 and OFF code 0x63C. -/
theorem test_bias_entry : (0x0AA8863C : Word).get 30 24 = 10 ∧ (0x0AA8863C : Word).get 23 12 = 0xA88 ∧ (0x0AA8863C : Word).get 11 0 = 0x63C := by
  decide

/-- R225 on core 3: 5 + 0xFFFF_FFFE wraps to 3; the source S3 is a destination too; SHR keeps the sign; MUL keeps the low half. -/
theorem test_add_wraps : (ctxOf (nextOf (.add 3 3 2 3) running) 3).s[(3 : Fin 16)] = 3 := by decide
theorem test_shr_sign : (ctxOf (nextOf (.shr 3 4 3 2) running) 3).s[(4 : Fin 16)] = 0xFFFFFFFF := by decide
theorem test_mul_low : (ctxOf (nextOf (.mul 3 4 3 3) running) 3).s[(4 : Fin 16)] = 4 := by decide
theorem test_addi_sign : (ctxOf (nextOf (.addi 3 4 2 0xFFFB) running) 3).s[(4 : Fin 16)] = 0 := by decide
/-- R224: 1.5 + 2.5 = 4.0; 1 / 0 is infinity with divide-by-zero; the square root of 2. -/
theorem test_fp : (fpAdd 0x3FC00000 0x40200000).val = 0x40800000 ∧ fpDiv 0x3F800000 0 = ⟨0x7F800000, 4⟩ ∧
    (fpSqrt 0x40000000).val = 0x3FB504F3 := by decide +kernel
/-- A branch to a register, and a loop of two instructions. -/
theorem test_branch : (ctxOf (nextOf (.br 3 2) running) 3).pc = 5 := by decide
theorem test_loop : (ctxOf (nextOf (.loop 3 4 2) running) 3).loops = [⟨10, 12, 4, false⟩] := by decide
/-- A store to the last word of X, which the pointer leaves: S11 moves by 4. -/
theorem test_store : Mem.word (nextOf (.st 3 2 ⟨3, 1⟩) running).mem (coreAddr 3 0xFFC) = 5 ∧
    (ctxOf (nextOf (.st 3 2 ⟨3, 1⟩) running) 3).s[(11 : Fin 16)] = 0x1000 := by decide
/-- A vector load beyond the area stops the activation (R218). -/
theorem test_load_fault : ((nextOf (.vld 3 0 pl) running).dev.rd Reg.CHISEL_EVT).bit 3 = true := by decide +kernel

/-- R40: a commit before the cutoff lands at the next tick, one after it a tick later. -/
theorem test_landing : base.dev.nextLanding = 8 ∧ frozen.dev.nextLanding = 9 := by decide
/-- R9: the write of an event register clears what it carries as 1 (through the row, on three set bits). -/
theorem test_event_clear : (nextOf (.registerWrite .cpu 32 Reg.CADENCE_EVT 5) (baseWith fun d => d.wr Reg.CADENCE_EVT 7)).dev.rd Reg.CADENCE_EVT = 2 := by
  decide +kernel
/-- R379: an access that no block answers is DECODE, latched with its address. -/
theorem test_decode_error : (nextOf (.registerWrite .spi 32 0x400000 1) base).dev.rd Reg.SYS_BUS_ERR_ADDR = 0x400000 := by decide +kernel
/-- R370: a narrow write to capture SRAM stores its byte and no other. -/
theorem test_narrow_write : (nextOf (.registerWrite .cpu 8 0x3800002 0xAB) base).mem = [(0x3800002, 0xAB)] := by decide +kernel
/-- R88, R89: DEV_ID 0 and action 1 are accepted with one wrong SYNC chip and not with two. -/
theorem test_wake_code : base.dev.codeAccepted 0 codeWord = true ∧ base.dev.codeAccepted 0 0xF3001FFE = true ∧
    base.dev.codeAccepted 0 0xF0001FFE = true ∧ base.dev.codeAccepted 0 0xF1001FFE = false ∧ base.dev.codeAccepted 0 0xF2001FFF = false := by decide
/-- R439: a rise of PGOOD and one more enable. -/
theorem test_rail_step : (nextOf .railSequenceStep (powWith fun p => { p with sequencing := true, pgood := true, rails := 3 })).dev.power.rails = 4 := by
  decide
/-- Table 13.2, step 2: the output switches to its new span. -/
theorem test_span_switch : ((nextOf (.spanSwitch 95) (outWith fun o => { o with seq := 1, seqTo := 2 })).dev.bias.out[(95 : Fin 96)]).span = 2 := by
  decide
/-- R418: the end of a hold frees its source alone. -/
theorem test_hold_end : ((nextOf (.sumpHoldEnd 0) (srcWith 0 0 fun x => { x with held := true })).dev.sump.src[(0 : Fin 256)]).held = false := by decide
/-- Table 11.5: SYS_PING answers 0 with its parameters, in a packet that ends with its CHECK. -/
theorem test_ping : ((nextOf .sysPing (put base (pkt 0x100 [1, 2, 3] 0x4094469A))).dev.drunas.replies.map fun r => (r.getD 0 0, (r.drop 4).take 3, r.length)) =
    [(0x01000042, [1, 2, 3], 8)] := by decide +kernel
/-- The queue: the step takes its first command and leaves the rest. -/
theorem test_step_queue : (stepOf { base with pending := [.faultnPulseEnd, .cutoff] }).pending = [.cutoff] := by decide
/-- From power-on reset the first phase of a start begins with the sequence of the rails (R460). -/
theorem test_first_phase : (nextOf .startPhaseDone State.reset).dev.power.phase = 2 := by decide

/-- Example of chapter 5: 0.1 − j0.075 is the weight word 0x0666_FB33, a tie rounds to even, and subcarriers 480 and 527 of 273 PRBs
take bins 2938 and 2985. -/
theorem test_weight_word : roundEven 16384 10 = 1638 ∧ roundEven (-12288) 10 = -1229 ∧ coeff 0x0666FB33 = ⟨1638, -1229⟩ ∧
    roundEven 5 2 = 2 ∧ roundEven 7 2 = 4 := by decide
theorem test_fft_bins : fftBin 273 4096 480 = 2938 ∧ fftBin 273 4096 527 = 2985 := by decide
/-- Example of chapter 10: at m = 9 a block whose components are 0.0732 and −0.1 takes exponent 12 and mantissas 150 and −205. -/
theorem test_block : packBlock 9 10000 [732, -1000] = (12, [150, -205], 0) := by decide
/-- R286: above full scale the exponent is 15 and the component saturates. -/
theorem test_block_saturates : packBlock 8 100 [300, 0] = (15, [127, 0], 1) := by decide
/-- Table 9.1 and R251: the Gray values of 00, 01, 11, 10, their levels, and three precoded symbols. -/
theorem test_pam : [grayOf false false, grayOf false true, grayOf true true, grayOf true false].map pamLevel = [-3, -1, 1, 3] ∧
    precodeSymbols 0 [3, 1, 2] = [3, 2, 0] := by decide
/-- R157: at half scale the argument is 15.5, halfway between entries 15 and 16. -/
theorem test_lut : lutArg 32768 ⟨16384, 0⟩ = 15872 ∧ lutValue (fun i => if i = 16 then ⟨1024, 0⟩ else ⟨0, 0⟩) 15872 = ⟨524288, 0⟩ := by decide
/-- R288: three blocks, the second marked, in antenna mode. -/
theorem test_marks : markMode false [false, true, false] = (2, [0x40]) ∧ markMode true [false, true, false] = (1, []) := by decide

/-- R12: PGOOD that rises in the cycle in which its wait is over; the sequence goes on. -/
theorem test_arrival_wins : let s := powWith fun p => { p with sequencing := true, rails := 3 }
    (nextOf .pgoodTimeout { s with pending := [.pgoodRise] }).dev.power.sequencing = true ∧ (nextOf .pgoodTimeout s).dev.power.sequencing = false := by
  decide
/-- R13: the bit that hardware has set in the same cycle stands although the write clears it. -/
theorem test_event_stands : (nextOf (.registerWrite .cpu 32 Reg.TIME_EVT 7) (withDev (sameCycle Reg.TIME_EVT 4 0)
    ((sameCycle Reg.TIME_EVT 4 0).dev.wr Reg.TIME_EVT 6))).dev.rd Reg.TIME_EVT = 4 := by decide +kernel

end Sys2Proof.Tests
end

/-!
PROOFS. The symbol grid (R32, R33). Half a millisecond holds 7 × 2^µ symbols in 245,760 samples, the long-CP symbol first, so a symbol's
start is a whole number of half milliseconds and an offset within one; each fact about the grid is a fact about that offset.
-/

namespace Sys2Proof.Machine

/-! ### Offsets within half a millisecond -/

/-- Where symbol `k` of half a millisecond begins, in samples from the start of that half millisecond. -/
def symOffset (mu k : Nat) : Nat := if k = 0 then 0 else longSym mu + (k - 1) * normalSym mu

@[simp] theorem symOffset_zero (mu : Nat) : symOffset mu 0 = 0 := rfl

@[simp] theorem symOffset_add_one (mu k : Nat) : symOffset mu (k + 1) = longSym mu + k * normalSym mu := rfl

theorem symOffset_succ (mu k : Nat) :
    symOffset mu (k + 1) = symOffset mu k + (if k = 0 then longSym mu else normalSym mu) := by
  cases k with
  | zero => simp
  | succ j => simp [Nat.succ_mul, Nat.add_assoc]

theorem symOffset_eq_zero_iff (mu k : Nat) : symOffset mu k = 0 ↔ k = 0 := by
  cases k with
  | zero => simp
  | succ j => simp [longSym]

theorem symOffset_strictMono {mu : Nat} (hN : 0 < normalSym mu) : StrictMono (symOffset mu) :=
  strictMono_nat_of_lt_succ fun k => by
    have hL : normalSym mu < longSym mu := by simp [longSym]
    rw [symOffset_succ]
    split <;> omega

theorem normalSym_pos {mu : Nat} (hmu : mu < 4) : 0 < normalSym mu := by
  interval_cases mu <;> decide

/-- Table 2.1: one long-CP symbol and the normal symbols of the same 0.5 ms together fill exactly 245,760 samples. -/
theorem symOffset_half {mu : Nat} (hmu : mu < 4) : symOffset mu (7 * 2 ^ mu) = 245760 := by
  interval_cases mu <;> decide

theorem symOffset_lt_half {mu k : Nat} (hmu : mu < 4) (hk : k < 7 * 2 ^ mu) : symOffset mu k < 245760 :=
  symOffset_half hmu ▸ symOffset_strictMono (normalSym_pos hmu) hk

/-! ### Starts of symbols -/

theorem symStart_eq_half_add_offset (mu n : Nat) :
    symStart mu n = n / (7 * 2 ^ mu) * 245760 + symOffset mu (n % (7 * 2 ^ mu)) := rfl

theorem symStart_add_half (mu n : Nat) : symStart mu (n + 7 * 2 ^ mu) = symStart mu n + 245760 := by
  rw [symStart_eq_half_add_offset, symStart_eq_half_add_offset, Nat.add_div_right n (by positivity), Nat.add_mod_right]
  omega

theorem symStart_div_half {mu : Nat} (hmu : mu < 4) (n : Nat) : symStart mu n / 245760 = n / (7 * 2 ^ mu) := by
  have hlt := symOffset_lt_half hmu (Nat.mod_lt n (by positivity : 0 < 7 * 2 ^ mu))
  rw [symStart_eq_half_add_offset]
  omega

theorem symStart_mod_half {mu : Nat} (hmu : mu < 4) (n : Nat) : symStart mu n % 245760 = symOffset mu (n % (7 * 2 ^ mu)) := by
  have hlt := symOffset_lt_half hmu (Nat.mod_lt n (by positivity : 0 < 7 * 2 ^ mu))
  rw [symStart_eq_half_add_offset]
  omega

/-- R33, counted from local time 0: the long-CP symbols are those that begin half a millisecond. -/
theorem isLong_symStart_iff {mu : Nat} (hmu : mu < 4) (n : Nat) : isLong (symStart mu n) = true ↔ n % (7 * 2 ^ mu) = 0 := by
  rw [isLong, beq_iff_eq, symStart_mod_half hmu, symOffset_eq_zero_iff]

theorem symLen_symStart {mu : Nat} (hmu : mu < 4) (n : Nat) :
    symLen mu (symStart mu n) = if n % (7 * 2 ^ mu) = 0 then longSym mu else normalSym mu := by
  simp only [symLen, isLong_symStart_iff hmu]

/-- The offset of the symbol one past the last is the start of the next half millisecond. -/
theorem symStart_add_of_le {mu k : Nat} (hmu : mu < 4) (hk : k ≤ 7 * 2 ^ mu) (q : Nat) :
    symStart mu (k + 7 * 2 ^ mu * q) = q * 245760 + symOffset mu k := by
  have hP : 0 < 7 * 2 ^ mu := by positivity
  rw [symStart_eq_half_add_offset, Nat.add_mul_div_left _ _ hP, Nat.add_mul_mod_self_left]
  obtain hlt | rfl := Nat.lt_or_eq_of_le hk
  · rw [Nat.div_eq_of_lt hlt, Nat.mod_eq_of_lt hlt, Nat.zero_add]
  · rw [Nat.div_self hP, Nat.mod_self, symOffset_zero, symOffset_half hmu]
    omega

theorem symStart_succ {mu : Nat} (hmu : mu < 4) (n : Nat) :
    symStart mu (n + 1) = symStart mu n + symLen mu (symStart mu n) := by
  have hk : n % (7 * 2 ^ mu) + 1 ≤ 7 * 2 ^ mu := Nat.mod_lt n (by positivity)
  calc symStart mu (n + 1)
      = symStart mu (n % (7 * 2 ^ mu) + 1 + 7 * 2 ^ mu * (n / (7 * 2 ^ mu))) := by
        rw [Nat.add_right_comm, Nat.mod_add_div]
    _ = n / (7 * 2 ^ mu) * 245760 + symOffset mu (n % (7 * 2 ^ mu) + 1) := symStart_add_of_le hmu hk _
    _ = symStart mu n + symLen mu (symStart mu n) := by
        rw [symOffset_succ, ← Nat.add_assoc, ← symStart_eq_half_add_offset, symLen_symStart hmu]

/-- The count of normal symbols from the end of the long-CP symbol, rounded up, finds a symbol from its offset. -/
theorem symIndex_symStart {mu : Nat} (hmu : mu < 4) (n : Nat) : symIndex mu (symStart mu n) = n := by
  have hN := normalSym_pos hmu
  simp only [symIndex, symStart_div_half hmu, symStart_mod_half hmu]
  conv_rhs => rw [← Nat.div_add_mod' n (7 * 2 ^ mu)]
  congr 1
  match n % (7 * 2 ^ mu) with
  | 0 => simp
  | 1 => simp [longSym]
  | j + 2 =>
    have hpos : 0 < (j + 1) * normalSym mu := by positivity
    have hdiv : ((j + 1) * normalSym mu + normalSym mu - 1) / normalSym mu = j + 1 := by
      refine Nat.div_eq_of_lt_le (by omega) ?_
      rw [Nat.succ_mul (j + 1)]
      omega
    rw [symOffset_add_one, if_neg (by omega), if_neg (by omega), Nat.add_sub_cancel_left, hdiv]
    omega

/-! ### Lengths -/

theorem symLen_eq (mu t : Nat) : symLen mu t = if isLong t then longSym mu else normalSym mu := rfl

theorem cpLen_eq (mu t : Nat) : cpLen mu t = if isLong t then cpLen mu 0 else cpLen mu 1 := by
  by_cases h : t % 245760 = 0 <;> simp [cpLen, isLong, h]

/-- Table 2.1, a row for each numerology. -/
theorem symbolLengths_eq_table :
    (normalSym 0, cpLen 0 1, longSym 0, cpLen 0 0, seamMax 0) = (35072, 2304, 35328, 2560, 512) ∧
    (normalSym 1, cpLen 1 1, longSym 1, cpLen 1 0, seamMax 1) = (17536, 1152, 17792, 1408, 512) ∧
    (normalSym 2, cpLen 2 1, longSym 2, cpLen 2 0, seamMax 2) = (8768, 576, 9024, 832, 288) ∧
    (normalSym 3, cpLen 3 1, longSym 3, cpLen 3 0, seamMax 3) = (4384, 288, 4640, 544, 144) := by
  decide

/-- R33: a subframe is two half milliseconds, so counting symbols from its start gives the same long-CP symbols. -/
theorem isLong_subframe_symStart_iff {mu : Nat} (hmu : mu < 4) (n i : Nat) :
    isLong (symStart mu (14 * 2 ^ mu * n + i)) = true ↔ i % (7 * 2 ^ mu) = 0 := by
  have hsub : 14 * 2 ^ mu * n = 7 * 2 ^ mu * (2 * n) := by ring
  rw [isLong_symStart_iff hmu, hsub, Nat.mul_add_mod]

/-- Settles O11: Table 2.1 is computed, and the grid follows from the offsets of symbols within half a millisecond. -/
theorem symbolGrid : Obligations.SymbolGrid := by
  unfold Obligations.SymbolGrid
  obtain ⟨row0, row1, row2, row3⟩ := symbolLengths_eq_table
  refine ⟨row0, row1, row2, row3, fun mu n hmu =>
    ⟨symStart_succ hmu n, symIndex_symStart hmu n, symStart_add_half mu n, fun s l _ _ => ?_⟩⟩
  exact ⟨isLong_subframe_symStart_iff hmu n (14 * s + l), symLen_eq mu _, cpLen_eq mu _⟩

end Sys2Proof.Machine

/-!
PROOFS. Integer instructions of a Chisel core (R225). An instruction that touches no memory replaces its core's registers by what its row
writes, moved on in the program; so a row that writes one scalar register changes that register alone. What is left is arithmetic:
the spec's words for a count, a product and a signed sum against the operations on words that the rows use.
-/

namespace Sys2Proof.Machine

/-! ### Moving on in the program -/

@[simp] theorem Ctx.advance_s (x : Ctx) (t n : Nat) : (x.advance t n).s = x.s := rfl
@[simp] theorem Ctx.advance_v (x : Ctx) (t n : Nat) : (x.advance t n).v = x.v := rfl
@[simp] theorem Ctx.advance_a (x : Ctx) (t n : Nat) : (x.advance t n).a = x.a := rfl
@[simp] theorem Ctx.advance_flags (x : Ctx) (t n : Nat) : (x.advance t n).flags = x.flags := rfl

/-! ### The arithmetic of R225 -/

/-- Bits [4:0] of a word as a count. -/
theorem toNat_low_five (w : Word) : (w.extractLsb' 0 5).toNat = w.toNat % 32 := by
  rw [BitVec.extractLsb'_toNat, Nat.shiftRight_zero]

/-- A product of words wraps. -/
theorem ofNat_toNat_mul_toNat (u w : Word) : BitVec.ofNat 32 (u.toNat * w.toNat) = u * w := by
  simp [BitVec.ofNat_mul]

/-- A sum of a word and a signed immediate wraps. -/
theorem ofInt_toInt_add_toInt (u : Word) (h : BitVec 16) : BitVec.ofInt 32 (u.toInt + h.toInt) = u + h.signExtend 32 := by
  rw [BitVec.ofInt_add, BitVec.ofInt_toInt, BitVec.signExtend]

end Sys2Proof.Machine

namespace Sys2Proof.Cert

open Sys2Proof.Machine

section

variable {s : State} {i : Instr} {c : Fin 16} {k : Kernel}

/-- A row that issues on a core which runs an activation replaces that core's registers and nothing else of the machine (R216). -/
theorem exec_of_issue {need : Ctx → Nat} {cycles : Nat} {f : Ctx → Nat → Ctx}
    (row : exec i s = onDev s fun v => v.issue c need cycles f) (run : Issues s c k) :
    ∃ t, exec i s = .next (withCtx s c ((f (ctxOf s c) t).advance t cycles)) := by
  unfold Issues at run
  rw [row, onDev_eq, Dev.issue_eq, run]
  exact ⟨_, rfl⟩

/-- A row whose result differs from the core's registers in one scalar register, and in the flags, writes that register. -/
theorem writesScalar_of_issue {need : Ctx → Nat} {cycles : Nat} {f : Ctx → Nat → Ctx} {r : Fin 16} {w : Word} {fl : Nat}
    (row : exec i s = onDev s fun v => v.issue c need cycles f) (run : Issues s c k)
    (result : ∀ t, let y := f (ctxOf s c) t
      y.s = (ctxOf s c).s.set r w ∧ y.v = (ctxOf s c).v ∧ y.a = (ctxOf s c).a ∧ y.flags = fl) :
    WritesScalar s i c r w fl := by
  obtain ⟨t, next⟩ := exec_of_issue row run
  exact ⟨_, next, by simpa using result t⟩

/-- A scalar instruction of two sources writes its result to S_D and gathers its flags. -/
theorem writesScalar_of_scalar2 {d a b : Fin 32} {lat : Nat} {f : Word → Word → Fp}
    (row : exec i s = onDev s fun v => v.scalar2 c d a b lat f) (run : Issues s c k) :
    let r := f (ctxOf s c).s[sIx a] (ctxOf s c).s[sIx b]
    WritesScalar s i c (sIx d) r.val ((ctxOf s c).flags ||| r.flags) :=
  writesScalar_of_issue row run fun _ => ⟨rfl, rfl, rfl, rfl⟩

/-- An integer instruction of two sources writes its result to S_D and leaves the flags. -/
theorem writesScalar_of_intOp {d a b : Fin 32} {lat : Nat} {g : Word → Word → Word}
    (row : exec i s = onDev s fun v => v.scalar2 c d a b lat (intOp g)) (run : Issues s c k) :
    WritesScalar s i c (sIx d) (g (ctxOf s c).s[sIx a] (ctxOf s c).s[sIx b]) (ctxOf s c).flags := by
  simpa [intOp] using writesScalar_of_scalar2 row run

end

/-- Settles O12: the rows of two sources go through `scalar2`, LI and ADDI issue on their own, and the spec's forms of a count, a
product and a signed sum are the rows' own operations. -/
theorem chiselIntegerResults : Obligations.ChiselIntegerResults := by
  unfold Obligations.ChiselIntegerResults
  intro s c k d a b imm h run
  simp only [toNat_low_five, ofNat_toNat_mul_toNat, ofInt_toInt_add_toInt]
  refine ⟨?add, ?sub, ?and, ?or, ?xor, ?shl, ?shr, ?mul, ?li, ?addi⟩
  case add => exact writesScalar_of_intOp (g := (· + ·)) rfl run
  case sub => exact writesScalar_of_intOp (g := (· - ·)) rfl run
  case and => exact writesScalar_of_intOp (g := (· &&& ·)) rfl run
  case or => exact writesScalar_of_intOp (g := (· ||| ·)) rfl run
  case xor => exact writesScalar_of_intOp (g := (· ^^^ ·)) rfl run
  case shl => exact writesScalar_of_intOp (g := fun x y => x <<< (y.toNat % 32)) rfl run
  case shr => exact writesScalar_of_intOp (g := fun x y => x.sshiftRight (y.toNat % 32)) rfl run
  case mul => exact writesScalar_of_intOp (g := (· * ·)) rfl run
  case li => exact writesScalar_of_issue rfl run fun _ => ⟨rfl, rfl, rfl, rfl⟩
  case addi => exact writesScalar_of_issue rfl run fun _ => ⟨rfl, rfl, rfl, rfl⟩

end Sys2Proof.Cert

/-!
PROOFS. The windows of the command processor (R312, R323). An open access of a register is that register's own effect, settled; the
windows' effects are three operations on the queues: a word submitted, a packet that enters the ring or is lost, a reply delivered. A
packet that is lost is counted and answered, and an answer touches no queue but that of the replies.
-/

namespace Sys2Proof.Machine

/-! ### Fields and bits of a word -/

/-- A field reads as last put. -/
theorem Word.get_put_same (w : Word) {hi lo : Nat} (n : Nat) (hlo : lo ≤ hi) (hhi : hi < 32) :
    (w.put hi lo n).get hi lo = n % 2 ^ (hi + 1 - lo) := by
  obtain ⟨k, rfl⟩ : ∃ k, hi = lo + k := ⟨hi - lo, by omega⟩
  have hw : 2 ^ 32 = 2 ^ lo * 2 ^ (32 - lo) := by rw [← pow_add]; congr 1; omega
  have hA : w.toNat / 2 ^ (lo + k + 1) * 2 ^ (lo + k + 1) = 2 ^ lo * (2 ^ (k + 1) * (w.toNat / 2 ^ (lo + k + 1))) := by
    rw [Nat.add_assoc, pow_add]; ring
  have hd : 2 ^ (k + 1) ∣ 2 ^ (32 - lo) := pow_dvd_pow 2 (by omega)
  have hlow : w.toNat % 2 ^ lo / 2 ^ lo = 0 := Nat.div_eq_of_lt (Nat.mod_lt _ (by positivity))
  have hk : lo + k + 1 - lo = k + 1 := by omega
  rw [Word.get, Word.put, BitVec.toNat_ofNat, hk, hw, Nat.mod_mul_right_div_self, Nat.mod_mod_of_dvd _ hd, hA,
    Nat.mul_comm (n % 2 ^ (k + 1)), ← Nat.mul_add, Nat.mul_add_div (by positivity), hlow, Nat.add_zero, Nat.mul_add_mod, Nat.mod_mod]

theorem Word.bit_or (v w : Word) (i : Nat) : (v ||| w).bit i = (v.bit i || w.bit i) := BitVec.getLsbD_or

theorem Word.bit_twoPow_same {i : Nat} (hi : i < 32) : Word.bit (BitVec.twoPow 32 i) i = true := by
  rw [Word.bit, BitVec.toNat_twoPow_of_lt hi, Nat.testBit_two_pow_self]

/-! ### Accesses that nothing stops -/

/-- A write that reaches a register block has the effect of its register, settled. -/
theorem writeWord_open {d : Dev} {i : Initiator} {a : Nat} (m : Mem) (w : Word) (hopen : d.stops i true 32 a = none)
    (hblock : inBlock a = true) (halign : a / 4 * 4 = a) (hlut : a ≠ Reg.DPD_LUT_DATA) :
    writeWord d m i a w = settled (d.writeReg i a w, m) := by
  have hw : low32 w.toNat = w := by rw [low32, BitVec.ofNat_toNat, BitVec.setWidth_eq]
  simp [writeWord, access, access32, reach, settleAccess, hopen, hblock, halign, hlut, hw]

/-- A read that reaches a register block has the effect of its register, settled. -/
theorem readWord_open {d : Dev} {i : Initiator} {a : Nat} (m : Mem) (hopen : d.stops i false 32 a = none)
    (hblock : inBlock a = true) (halign : a / 4 * 4 = a) (hlut : a ≠ Reg.DPD_LUT_DATA) :
    readWord d m i a = settled ((d.readReg m a).2, m) := by
  simp [readWord, access, access32, reach, settleAccess, hopen, hblock, halign, hlut]

/-! ### The registers of the windows -/

section

variable (d : Dev) (i : Initiator)

theorem Dev.writeReg_drunasSubmit (w : Word) : d.writeReg i Reg.DRUNAS_SUBMIT w = d.submitWord w := rfl

theorem Dev.writeReg_flushReply : d.writeReg i Reg.DRUNAS_CTRL 2 = d.modDrunas fun x => { x with replies := [] } := rfl

theorem Dev.writeReg_flushSubmit : d.writeReg i Reg.DRUNAS_CTRL 1 = d.modDrunas fun x => { x with submit := [] } := rfl

theorem Dev.readReg_drunasReply (m : Mem) : d.readReg m Reg.DRUNAS_REPLY = d.replyWord := rfl

end

/-! ### The queues -/

section

variable {d : Dev}

theorem Dev.replyWord_nil (h : d.drunas.replies = []) : d.replyWord = (0, d) := by
  rw [Dev.replyWord, h]

/-- A read takes the next word of the head reply; the last word removes that reply. -/
theorem Dev.replyWord_cons {v : Word} {vs : List Word} {rest : List (List Word)} (h : d.drunas.replies = (v :: vs) :: rest) :
    d.replyWord = (v, d.modDrunas fun x => { x with replies := if vs = [] then rest else vs :: rest }) := by
  rw [Dev.replyWord, h]
  cases vs <;> rfl

theorem Dev.enterRing_room {ws : List Word} (spi regAccess crcOk : Bool) (hlen : d.drunas.ring.length < 64)
    (hbytes : ringBytes d.drunas.ring + 4 * ws.length ≤ 65536) :
    d.enterRing ws spi regAccess crcOk =
      d.modDrunas fun x => { x with ring := x.ring ++ [⟨ws, spi, regAccess, crcOk, 0, 0, false⟩] } := by
  rw [Dev.enterRing, if_neg (by omega)]

theorem Dev.submitWord_partial {w : Word} (h : (d.drunas.submit ++ [w]).length < 2 ∨
      (d.drunas.submit ++ [w]).length < impliedWords ((d.drunas.submit ++ [w]).getD 1 0)) :
    d.submitWord w = d.modDrunas fun x => { x with submit := x.submit ++ [w] } := by
  rw [Dev.submitWord]
  exact if_neg (by omega)

theorem Dev.submitWord_complete {w : Word} (htwo : 2 ≤ (d.drunas.submit ++ [w]).length)
    (hlast : impliedWords ((d.drunas.submit ++ [w]).getD 1 0) ≤ (d.drunas.submit ++ [w]).length) :
    d.submitWord w = (d.modDrunas fun x => { x with submit := [] }).enterRing (d.drunas.submit ++ [w]) true false true := by
  rw [Dev.submitWord]
  exact if_pos ⟨htwo, hlast⟩

/-- The message that came first is taken where it is one that is asked for. -/
theorem Dev.take_head {p : Inbox → Bool} {m : Inbox} {rest : List Inbox} (h : d.link.inbox = m :: rest) (hp : p m = true) :
    d.take p = some (m, d.modLink fun l => { l with inbox := rest }) := by
  simp [Dev.take, Dev.modLink, h, hp]

theorem Dev.messageToRing_head {m : Inbox} {rest : List Inbox} (h : d.link.inbox = m :: rest) (hflow : m.flow = 0x300 ∨ m.flow = 0x310) :
    d.messageToRing = (d.modLink fun l => { l with inbox := rest }).enterRing m.words false (m.flow == 0x310) m.crcOk := by
  rw [Dev.messageToRing, Dev.take_head h (by simpa using hflow)]

theorem Dev.deliver_spi_room (ws : List Word) (h : d.drunas.replies.length < 16) :
    d.deliver true ws = ((d.modDrunas fun x => { x with replies := x.replies ++ [ws] }).raise Reg.DRUNAS_EVT 0, true) := by
  simp [Dev.deliver, Nat.not_le.mpr h]

theorem Dev.deliver_spi_full (ws : List Word) (h : 16 ≤ d.drunas.replies.length) :
    d.deliver true ws = ((d.count32 Reg.DRUNAS_REPLY_LOST).raise Reg.DRUNAS_EVT 3, false) := by
  simp [Dev.deliver, h]

@[simp] theorem Dev.raise_drunas (a b : Nat) : (d.raise a b).drunas = d.drunas := by
  obtain ⟨m, rs, sc, h⟩ := d.raise_frame a b
  rw [h]

@[simp] theorem Dev.raise_link (a b : Nat) : (d.raise a b).link = d.link := by
  obtain ⟨m, rs, sc, h⟩ := d.raise_frame a b
  rw [h]

@[simp] theorem Dev.send_inbox (f : Nat) (ws : List Word) : (d.send f ws).link.inbox = d.link.inbox := by
  rw [Dev.send]
  split <;> rfl

@[simp] theorem Dev.send_drunas (f : Nat) (ws : List Word) : (d.send f ws).drunas = d.drunas := by
  obtain ⟨l, h⟩ := d.send_link f ws
  rw [h]

@[simp] theorem Dev.rd_send (f : Nat) (ws : List Word) (a : Nat) : (d.send f ws).rd a = d.rd a := by
  obtain ⟨l, h⟩ := d.send_link f ws
  rw [h]
  rfl

end

end Sys2Proof.Machine

namespace Sys2Proof.Cert

open Sys2Proof.Machine

/-! ### Accesses of a row -/

section

variable {s : State} {i : Initiator} {a : Nat} {c : Instr}

/-- A row that writes an open register has that register's effect. -/
theorem leads_of_write {w : Word} (row : exec c s = onMem s fun d m => writeWord d m i a w) (hopen : Open s i true a)
    (hblock : inBlock a = true) (halign : a / 4 * 4 = a) (hlut : a ≠ Reg.DPD_LUT_DATA) : Leads s c (s.dev.writeReg i a w) := by
  rw [Leads, row, onMem_eq, writeWord_open s.mem w hopen hblock halign hlut]
  rfl

/-- A row that reads an open register has that register's effect. -/
theorem leads_of_read (row : exec c s = onMem s fun d m => readWord d m i a) (hopen : Open s i false a)
    (hblock : inBlock a = true) (halign : a / 4 * 4 = a) (hlut : a ≠ Reg.DPD_LUT_DATA) : Leads s c (s.dev.readReg s.mem a).2 := by
  rw [Leads, row, onMem_eq, readWord_open s.mem hopen hblock halign hlut]
  rfl

theorem leads_drunasSubmitWrite (w : Word) (hopen : Open s i true Reg.DRUNAS_SUBMIT) :
    Leads s (.drunasSubmitWrite i w) (s.dev.submitWord w) :=
  s.dev.writeReg_drunasSubmit i w ▸ leads_of_write rfl hopen (by decide) (by decide) (by decide)

theorem leads_flushReply (hopen : Open s i true Reg.DRUNAS_CTRL) :
    Leads s (.flushReply i) (s.dev.modDrunas fun x => { x with replies := [] }) :=
  s.dev.writeReg_flushReply i ▸ leads_of_write rfl hopen (by decide) (by decide) (by decide)

theorem leads_flushSubmit (hopen : Open s i true Reg.DRUNAS_CTRL) :
    Leads s (.flushSubmit i) (s.dev.modDrunas fun x => { x with submit := [] }) :=
  s.dev.writeReg_flushSubmit i ▸ leads_of_write rfl hopen (by decide) (by decide) (by decide)

theorem leads_drunasReplyRead (hopen : Open s i false Reg.DRUNAS_REPLY) : Leads s (.drunasReplyRead i) s.dev.replyWord.2 :=
  s.dev.readReg_drunasReply s.mem ▸ leads_of_read rfl hopen (by decide) (by decide) (by decide)

theorem makes_commandMessage : Makes s .commandMessage s.dev.messageToRing := rfl

end

/-! ### Counters and events -/

section

variable {d : Dev}

/-- A count is one event more of its field, up to the limit (R10). -/
theorem counted_count (a : Nat) {hi lo : Nat} (hlo : lo ≤ hi) (hhi : hi < 32) : Counted d (d.count a hi lo) a hi lo := by
  have hpos : 0 < 2 ^ (hi + 1 - lo) := by positivity
  rw [Counted, Dev.rd_count_same, Word.get_put_same _ _ hlo hhi, Nat.mod_eq_of_lt (by omega)]

theorem counted_count32 (a : Nat) : Counted d (d.count32 a) a 31 0 := counted_count a (by decide) (by decide)

/-- Only the word of the counter itself says whether it has counted. -/
theorem Counted.of_rd_eq {e f : Dev} {a hi lo : Nat} (h : Counted d e a hi lo) (hrd : f.rd a = e.rd a) : Counted d f a hi lo := by
  rwa [Counted, hrd]

theorem set_raise (a : Nat) {b : Nat} (hb : b < 32) : Set (d.raise a b) a b := by
  rw [Set, Dev.rd_raise_same]
  split
  case isTrue h => exact h
  case isFalse => rw [Word.bit_or, Word.bit_twoPow_same hb, Bool.or_true]

/-- An event clears no bit. -/
theorem Set.raise {a b : Nat} (h : Set d a b) (a' b' : Nat) : Set (d.raise a' b') a b := by
  rw [Set] at h ⊢
  by_cases ha : a = a'
  · subst ha
    rw [Dev.rd_raise_same]
    split
    · exact h
    · rw [Word.bit_or, h, Bool.true_or]
  · rwa [Dev.rd_raise_ne _ _ ha]

end

/-! ### What a reply leaves -/

/-- The counters of replies: lost ones, final ones, late ones. -/
def replyCounters : List Nat := [Reg.DRUNAS_REPLY_LOST, Reg.DRUNAS_DONE, Reg.DRUNAS_LATE]

/-- What a reply leaves of a device: every queue but that of the replies, every register but its counters and DRUNAS_EVT, and there
each bit that is set. -/
structure Answered (d e : Dev) : Prop where
  drunas : ∃ rs, e.drunas = { d.drunas with replies := rs }
  inbox : e.link.inbox = d.link.inbox
  regs : SameRegsBut (Reg.DRUNAS_EVT :: replyCounters) d e
  events : ∀ b, Set d Reg.DRUNAS_EVT b → Set e Reg.DRUNAS_EVT b

namespace Answered

variable {d e f : Dev}

theorem refl (d : Dev) : Answered d d := ⟨⟨_, rfl⟩, rfl, fun _ _ => rfl, fun _ h => h⟩

theorem trans (h : Answered d e) (k : Answered e f) : Answered d f where
  drunas := by
    obtain ⟨rs, hd⟩ := h.drunas
    obtain ⟨rs', kd⟩ := k.drunas
    exact ⟨rs', by rw [kd, hd]⟩
  inbox := k.inbox.trans h.inbox
  regs := fun a ha => (k.regs a ha).trans (h.regs a ha)
  events := fun b hb => k.events b (h.events b hb)

theorem count32 (h : Answered d e) {a : Nat} (ha : a ∈ replyCounters) : Answered d (e.count32 a) :=
  have hne : ∀ b ∉ replyCounters, b ≠ a := fun _ hb hba => hb (hba ▸ ha)
  h.trans
    { drunas := ⟨_, e.count32_drunas a⟩
      inbox := by rw [e.count32_link]
      regs := fun b hb => e.rd_count32_ne (hne b fun hm => hb (List.mem_cons_of_mem _ hm))
      events := fun b hb => by rwa [Set, e.rd_count32_ne (hne _ (by decide))] }

theorem raise (h : Answered d e) (b : Nat) : Answered d (e.raise Reg.DRUNAS_EVT b) :=
  h.trans
    { drunas := ⟨_, e.raise_drunas _ b⟩
      inbox := by rw [Dev.raise_link]
      regs := fun _ ha => e.rd_raise_ne b (List.ne_of_not_mem_cons ha)
      events := fun _ hc => hc.raise _ b }

theorem enqueue (h : Answered d e) (ws : List Word) : Answered d (e.modDrunas fun x => { x with replies := x.replies ++ [ws] }) :=
  h.trans ⟨⟨_, rfl⟩, rfl, fun _ _ => rfl, fun _ hb => hb⟩

theorem send (h : Answered d e) (flow : Nat) (ws : List Word) : Answered d (e.send flow ws) :=
  h.trans ⟨⟨_, e.send_drunas flow ws⟩, e.send_inbox flow ws, fun a _ => e.rd_send flow ws a, fun b hb => by rwa [Set, Dev.rd_send]⟩

theorem deliver (h : Answered d e) (spi : Bool) (ws : List Word) : Answered d (e.deliver spi ws).1 := by
  have hlost : Reg.DRUNAS_REPLY_LOST ∈ replyCounters := by decide
  rw [Dev.deliver]
  cases spi
  case true =>
    rw [if_pos rfl]
    split
    · exact (h.count32 hlost).raise 3
    · exact (h.enqueue ws).raise 0
  case false =>
    rw [if_neg Bool.false_ne_true]
    split
    · exact h.count32 hlost
    · exact h.send 0x300 ws

/-- A reply that is not sealed. -/
theorem reply_plain (d : Dev) (spi : Bool) (op tag status supn time : Nat) (final : Bool) (results : List Word) :
    Answered d (d.reply spi false op tag status supn time final results) := by
  have counted : ∀ {e : Dev} (p : Bool) {a : Nat}, a ∈ replyCounters → Answered d e → Answered d (if p then e.count32 a else e) := by
    intro e p a ha h
    cases p
    · exact h
    · exact h.count32 ha
  rw [Dev.reply]
  exact counted _ (by decide) (counted _ (by decide) ((refl d).deliver spi _))

end Answered

/-! ### A full ring -/

/-- What `e` shows of `d` where a packet found no room: it is counted with its event, and no packet, word or message is touched. -/
structure RingLost (d e : Dev) : Prop where
  counted : Counted d e Reg.DRUNAS_RING_FULL 31 0
  event : Set e Reg.DRUNAS_EVT 2
  ring : e.drunas.ring = d.drunas.ring
  submit : e.drunas.submit = d.drunas.submit
  inbox : e.link.inbox = d.link.inbox

theorem RingLost.of_answered {d e : Dev} (h : Answered ((d.count32 Reg.DRUNAS_RING_FULL).raise Reg.DRUNAS_EVT 2) e) : RingLost d e := by
  obtain ⟨rs, hdrunas⟩ := h.drunas
  have hrd : e.rd Reg.DRUNAS_RING_FULL = (d.count32 Reg.DRUNAS_RING_FULL).rd Reg.DRUNAS_RING_FULL :=
    (h.regs _ (by decide)).trans (Dev.rd_raise_ne _ _ (by decide))
  exact
    { counted := (counted_count32 _).of_rd_eq hrd
      event := h.events 2 (set_raise _ (by decide))
      ring := by rw [hdrunas, Dev.raise_drunas, Dev.count32_drunas]
      submit := by rw [hdrunas, Dev.raise_drunas, Dev.count32_drunas]
      inbox := by rw [h.inbox, Dev.raise_link, Dev.count32_link] }

/-- A packet that finds 64 in the ring is lost (R312); a register-access request is not answered. -/
theorem ringLost_enterRing {d : Dev} (ws : List Word) (spi regAccess crcOk : Bool) (h : 64 ≤ d.drunas.ring.length) :
    RingLost d (d.enterRing ws spi regAccess crcOk) := by
  rw [Dev.enterRing, if_pos (.inl h)]
  cases regAccess
  case true =>
    rw [if_pos rfl]
    exact .of_answered (.refl _)
  case false =>
    rw [if_neg Bool.false_ne_true]
    exact .of_answered (.reply_plain ..)

/-! ### The windows -/

/-- The submit window (R323). -/
theorem submitWindow {s : State} {i : Initiator} (w : Word) (hopen : Open s i true Reg.DRUNAS_SUBMIT) :
    let x := s.dev.drunas
    let ws := x.submit ++ [w]
    (ws.length < 2 ∨ ws.length < impliedWords (ws.getD 1 0) →
      Leads s (.drunasSubmitWrite i w) { s.dev with drunas := { x with submit := ws } }) ∧
    (2 ≤ ws.length → impliedWords (ws.getD 1 0) ≤ ws.length → x.ring.length < 64 → ringBytes x.ring + 4 * ws.length ≤ 65536 →
      Leads s (.drunasSubmitWrite i w) { s.dev with drunas := { x with submit := [], ring := x.ring ++ [⟨ws, true, false, true, 0, 0, false⟩] } }) ∧
    (2 ≤ ws.length → impliedWords (ws.getD 1 0) ≤ ws.length → 64 ≤ x.ring.length → ∃ d, Leads s (.drunasSubmitWrite i w) d ∧
      Counted s.dev d Reg.DRUNAS_RING_FULL 31 0 ∧ Set d Reg.DRUNAS_EVT 2 ∧ d.drunas.ring = x.ring ∧ d.drunas.submit = []) := by
  have leads := leads_drunasSubmitWrite w hopen
  refine ⟨fun hpart => ?_, fun htwo hlast hlen hbytes => ?_, fun htwo hlast hlen => ?_⟩
  · rwa [Dev.submitWord_partial hpart] at leads
  · rw [Dev.submitWord_complete htwo hlast, Dev.enterRing_room] at leads
    · exact leads
    · exact hlen
    · exact hbytes
  · rw [Dev.submitWord_complete htwo hlast] at leads
    have lost := ringLost_enterRing (d := s.dev.modDrunas fun x => { x with submit := [] }) (s.dev.drunas.submit ++ [w]) true false true hlen
    exact ⟨_, leads, lost.counted, lost.event, lost.ring, lost.submit⟩

/-- The reply window (R323). -/
theorem replyWindow {s : State} {i : Initiator} (hopen : Open s i false Reg.DRUNAS_REPLY) :
    let x := s.dev.drunas
    (x.replies = [] → Leads s (.drunasReplyRead i) s.dev) ∧
    (∀ v vs rest, x.replies = (v :: vs) :: rest →
      Leads s (.drunasReplyRead i) { s.dev with drunas := { x with replies := if vs = [] then rest else vs :: rest } } ∧
        s.dev.replyWord.1 = v) := by
  have leads := leads_drunasReplyRead hopen
  refine ⟨fun hnil => ?_, fun v vs rest hcons => ?_⟩
  · rwa [Dev.replyWord_nil hnil] at leads
  · rw [Dev.replyWord_cons hcons] at leads ⊢
    exact ⟨leads, rfl⟩

/-- A message of the link (R312). -/
theorem messageEntersRing {s : State} {m : Inbox} {rest : List Inbox} (hinbox : s.dev.link.inbox = m :: rest)
    (hflow : m.flow = 0x300 ∨ m.flow = 0x310) :
    let x := s.dev.drunas
    (x.ring.length < 64 → ringBytes x.ring + 4 * m.words.length ≤ 65536 →
      Makes s .commandMessage { s.dev with link := { s.dev.link with inbox := rest }, drunas := { x with
        ring := x.ring ++ [⟨m.words, false, m.flow == 0x310, m.crcOk, 0, 0, false⟩] } }) ∧
    (64 ≤ x.ring.length → ∃ d, Makes s .commandMessage d ∧ Counted s.dev d Reg.DRUNAS_RING_FULL 31 0 ∧ Set d Reg.DRUNAS_EVT 2 ∧
      d.drunas.ring = x.ring ∧ d.link.inbox = rest) := by
  have makes := makes_commandMessage (s := s)
  rw [Dev.messageToRing_head hinbox hflow] at makes
  refine ⟨fun hlen hbytes => ?_, fun hlen => ?_⟩
  · rw [Dev.enterRing_room] at makes
    · exact makes
    · exact hlen
    · exact hbytes
  · have lost := ringLost_enterRing (d := s.dev.modLink fun l => { l with inbox := rest }) m.words false (m.flow == 0x310) m.crcOk hlen
    exact ⟨_, makes, lost.counted, lost.event, lost.ring, lost.inbox⟩

/-- A reply to the SPI waits behind the others, or is lost where sixteen wait (R323). -/
theorem spiReplyQueue (d : Dev) (ws : List Word) :
    (d.drunas.replies.length < 16 → (d.deliver true ws).1.drunas = { d.drunas with replies := d.drunas.replies ++ [ws] }) ∧
    (16 ≤ d.drunas.replies.length → ∃ e, (d.deliver true ws).1 = e ∧ Counted d e Reg.DRUNAS_REPLY_LOST 31 0 ∧ Set e Reg.DRUNAS_EVT 3 ∧
      SameRegsBut [Reg.DRUNAS_REPLY_LOST, Reg.DRUNAS_EVT] d e ∧ e.drunas = d.drunas) := by
  refine ⟨fun hroom => ?_, fun hfull => ⟨_, rfl, ?_⟩⟩
  · rw [Dev.deliver_spi_room ws hroom, Dev.raise_drunas]
    rfl
  · rw [Dev.deliver_spi_full ws hfull]
    refine ⟨(counted_count32 _).of_rd_eq (Dev.rd_raise_ne _ _ (by decide)), set_raise _ (by decide), fun a ha => ?_, ?_⟩
    · obtain ⟨hlost, hevt⟩ : a ≠ Reg.DRUNAS_REPLY_LOST ∧ a ≠ Reg.DRUNAS_EVT := by simpa using ha
      rw [Dev.rd_raise_ne _ _ hevt, Dev.rd_count32_ne _ hlost]
    · rw [Dev.raise_drunas, Dev.count32_drunas]

/-- Settles O50, window by window: the effect of each open access is an operation on one queue. -/
theorem commandWindows : Obligations.CommandWindows := by
  unfold Obligations.CommandWindows
  intro s i w
  exact ⟨submitWindow w, replyWindow, fun hopen => ⟨leads_flushReply hopen, leads_flushSubmit hopen⟩,
    fun _ _ hinbox hflow => messageEntersRing hinbox hflow, spiReplyQueue s.dev⟩

end Sys2Proof.Cert

/-!
PROOFS. What is written reads back (R370). A word is its four bytes, lowest first, so storing a word is storing its bytes, and what a
word of memory reads as follows from what its bytes read as; the device's registers are a map that `wr` updates at one address.
-/

namespace Sys2Proof.Machine

/-! ### Words and their bytes -/

theorem getElem_leBytes (w : Word) {i : Nat} (h : i < (leBytes w).length) : (leBytes w)[i] = w.extractLsb' (8 * i) 8 := by
  match i, h with
  | 0, _ | 1, _ | 2, _ | 3, _ => rfl

/-- A word made of four bytes, most significant first, holds them in its four eights of bits. -/
theorem extractLsb'_ofBytes (b3 b2 b1 b0 : Byte) {i : Nat} (h : i < 4) :
    (b3 ++ b2 ++ b1 ++ b0 : Word).extractLsb' (8 * i) 8 = [b0, b1, b2, b3][i] := by
  ext j hj
  simp only [BitVec.getElem_extractLsb', BitVec.getLsbD_append]
  match i, h with
  | 0, _ | 1, _ | 2, _ | 3, _ => grind

/-- Words that agree in their four bytes are equal. -/
theorem Word.ext_bytes {v w : Word} (h : ∀ i, i < 4 → v.extractLsb' (8 * i) 8 = w.extractLsb' (8 * i) 8) : v = w := by
  refine BitVec.eq_of_getLsbD_eq fun j hj => ?_
  have hbit := congrArg (BitVec.getLsbD · (j % 8)) (h (j / 8) (by omega))
  simpa [BitVec.getLsbD_extractLsb', Nat.mod_lt, Nat.div_add_mod] using hbit

/-- A word is its bytes, most significant first. -/
theorem Word.ofBytes_extractLsb' (w : Word) :
    w.extractLsb' 24 8 ++ w.extractLsb' 16 8 ++ w.extractLsb' 8 8 ++ w.extractLsb' 0 8 = w :=
  Word.ext_bytes fun i hi => by
    rw [extractLsb'_ofBytes _ _ _ _ hi]
    exact getElem_leBytes w hi

/-- Words that are sent most significant byte first arrive by value (R370). -/
theorem beWords_flatMap_beBytes (ws : List Word) : beWords (ws.flatMap beBytes) = ws := by
  induction ws with
  | nil => rfl
  | cons w ws ih => exact congrArg₂ List.cons (Word.ofBytes_extractLsb' w) ih

/-! ### Words of memory -/

/-- A stored word stores its bytes. -/
theorem Mem.get_setWord_in (m : Mem) (a : Nat) (w : Word) {i : Nat} (h : i < 4) :
    Mem.get (Mem.setWord m a w) (a + i) = w.extractLsb' (8 * i) 8 :=
  (Mem.get_setBytes_in m a i (leBytes w) h).trans (getElem_leBytes w h)

/-- It stores no byte below or above. -/
theorem Mem.get_setWord_out (m : Mem) (a : Nat) (w : Word) {b : Nat} (h : b < a ∨ a + 4 ≤ b) :
    Mem.get (Mem.setWord m a w) b = Mem.get m b :=
  Mem.get_setBytes_out m a b (leBytes w) h

/-- A word of memory is little-endian (R370). -/
theorem Mem.extractLsb'_word (m : Mem) (a : Nat) {i : Nat} (h : i < 4) : (Mem.word m a).extractLsb' (8 * i) 8 = Mem.get m (a + i) := by
  rw [Mem.word, extractLsb'_ofBytes _ _ _ _ h]
  match i, h with
  | 0, _ | 1, _ | 2, _ | 3, _ => rfl

theorem Mem.word_setWord_same (m : Mem) (a : Nat) (w : Word) : Mem.word (Mem.setWord m a w) a = w :=
  Word.ext_bytes fun i hi => by rw [Mem.extractLsb'_word _ _ hi, Mem.get_setWord_in _ _ _ hi]

end Sys2Proof.Machine

namespace Sys2Proof.Cert

open Sys2Proof.Machine

theorem memoryReadsAsWritten : MemoryReadsAsWritten := by
  intro m a
  refine ⟨fun x => ⟨?_, fun b hb => ?_⟩, fun w => ⟨m.word_setWord_same a w, fun i hi => m.get_setWord_in a w hi,
    fun i hi => m.extractLsb'_word a hi, fun b hb => m.get_setWord_out a w hb, beWords_flatMap_beBytes⟩⟩
  · rw [Mem.get_set, if_pos rfl]
  · rw [Mem.get_set, if_neg hb]

theorem registersReadAsWritten : RegistersReadAsWritten := fun d a w =>
  ⟨d.rd_wr_same a w, fun _ hb => d.rd_wr_ne w hb, _, rfl⟩

/-- Settles O6: memory through the bytes of a word, registers through the map of their words. -/
theorem storesReadAsWritten : Obligations.StoresReadAsWritten := ⟨memoryReadsAsWritten, registersReadAsWritten⟩

end Sys2Proof.Cert

/-!
PROOFS. The check-value unit (R403 to R406). A write of its two doors is a start or a feed of the unit; each has an equation for the idle
unit and the busy one. A scan that ends has read its words first, and reading them changes no register and nothing of the unit (R133).
-/

namespace Sys2Proof.Machine

section

variable {d : Dev}

@[simp] theorem Dev.raise_check (a b : Nat) : (d.raise a b).check = d.check := by
  obtain ⟨m, rs, sc, h⟩ := d.raise_frame a b
  rw [h]

theorem BusCode.num_lt (c : BusCode) : c.num < 16 := by cases c <;> decide

/-! ### The doors of the unit -/

theorem Dev.writeReg_checkStart (i : Initiator) : d.writeReg i Reg.CHECK_CTRL 0x80000000#32 = d.scanStart := rfl

theorem Dev.writeReg_checkData (i : Initiator) (w : Word) : d.writeReg i Reg.CHECK_DATA w = d.checkFeed w := rfl

theorem Dev.scanStart_busy (h : d.check.busy = true) : d.scanStart = d.raise Reg.CHECK_EVT 2 := by
  rw [Dev.scanStart, if_pos h]

theorem Dev.scanStart_inside (h : d.check.busy = false)
    (hin : inWindows (d.rd Reg.CHECK_ADDR).toNat ((d.rd Reg.CHECK_LEN).get 24 0) = true) :
    d.scanStart = { d with check :=
      { busy := true, crc := d.checkStart, addr := (d.rd Reg.CHECK_ADDR).toNat, len := (d.rd Reg.CHECK_LEN).get 24 0 } } := by
  rw [Dev.scanStart, if_neg (by simp [h])]
  exact if_pos hin

theorem Dev.scanStart_outside (h : d.check.busy = false)
    (hin : inWindows (d.rd Reg.CHECK_ADDR).toNat ((d.rd Reg.CHECK_LEN).get 24 0) = false) :
    d.scanStart = d.scanFails .refused (firstOutside (d.rd Reg.CHECK_ADDR).toNat ((d.rd Reg.CHECK_LEN).get 24 0)) := by
  rw [Dev.scanStart, if_neg (by simp [h])]
  exact if_neg (by simp [Dev.fget, hin])

theorem Dev.checkFeed_busy (w : Word) (h : d.check.busy = true) : d.checkFeed w = d.raise Reg.CHECK_EVT 2 := by
  rw [Dev.checkFeed, if_pos h]

theorem Dev.checkFeed_idle (w : Word) (h : d.check.busy = false) :
    d.checkFeed w = d.checkResult ((d.checkOrder w).foldl (checkByte d.checkAlg) d.checkStart) := by
  rw [Dev.checkFeed, if_neg (by simp [h])]

theorem Dev.rd_checkResult_same (c : Word) : (d.checkResult c).rd Reg.CHECK_RESULT = checkOut d.checkAlg c := Dev.rd_wr_same _ _ _

theorem Dev.rd_checkResult_ne (c : Word) {a : Nat} (h : a ≠ Reg.CHECK_RESULT) : (d.checkResult c).rd a = d.rd a := Dev.rd_wr_ne _ _ h

/-! ### CRC-32C (Table 14.7) -/

theorem checkByte_zero : checkByte 0 = crcByte := rfl

theorem checkOut_foldl_zero (bs : List Byte) : checkOut 0 (bs.foldl (checkByte 0) (checkInit 0)) = crc32c bs := rfl

/-! ### Reading while a copy runs -/

/-- A word that is read may come to be copied, which is a matter of the store and the free values alone (R133). -/
theorem copySeen_frame (d : Dev) (m : Mem) (a : Nat) : ∃ b k, (copySeen d m a).1 = { d with beam := b, freeCtr := k } := by
  unfold copySeen
  dsimp only
  split
  · split
    · exact ⟨_, _, rfl⟩
    · exact ⟨d.beam, _, rfl⟩
  · exact ⟨d.beam, d.freeCtr, rfl⟩

theorem copySeenIn_frame (d : Dev) (m : Mem) (a n : Nat) : ∃ b k, (copySeenIn d m a n).1 = { d with beam := b, freeCtr := k } := by
  have words : ∀ (f : Nat → Nat) (is : List Nat) (x : Dev × Mem),
      ∃ b k, (is.foldl (fun (x : Dev × Mem) i => copySeen x.1 x.2 (f i)) x).1 = { x.1 with beam := b, freeCtr := k } := by
    intro f is
    induction is with
    | nil => exact fun x => ⟨x.1.beam, x.1.freeCtr, rfl⟩
    | cons i is ih =>
      intro x
      obtain ⟨b, k, h⟩ := ih (copySeen x.1 x.2 (f i))
      obtain ⟨b', k', h'⟩ := copySeen_frame x.1 x.2 (f i)
      exact ⟨b, k, by rw [List.foldl_cons, h, h']⟩
  unfold copySeenIn
  split
  · exact words _ _ (d, m)
  · exact ⟨d.beam, d.freeCtr, rfl⟩

/-- With no copy running, or outside the Ashlar store, reading touches nothing. -/
theorem copySeenIn_eq (m : Mem) {a : Nat} (n : Nat) (h : d.beam.mirrorBusy = false ∨ a < 0x1000000 ∨ 0x2400000 ≤ a) :
    copySeenIn d m a n = (d, m) := by
  have hno : ¬ (d.beam.mirrorBusy && decide (0x1000000 ≤ a ∧ a < 0x2400000)) = true := by
    rw [Bool.and_eq_true, decide_eq_true_eq]
    rintro ⟨hbusy, hlo, hhi⟩
    rcases h with h | h | h
    · exact Bool.false_ne_true (h.symm.trans hbusy)
    · omega
    · omega
  rw [copySeenIn, if_neg hno]

/-! ### The end of a scan -/

/-- Without BSWAP the bytes of a scan enter in the order of their addresses (R404). -/
theorem scanOrder_false : ∀ bs : List Byte, scanOrder false bs = bs
  | a :: b :: c :: e :: rest => congrArg ([a, b, c, e] ++ ·) (scanOrder_false rest)
  | [] | [_] | [_, _] | [_, _, _] => rfl

theorem scanDone_fault (m : Mem) (hbusy : d.check.busy = true) {x : Nat × BusCode}
    (hfault : d.scanFault d.check.addr d.check.len = some x) : scanDone d m = (d.scanFails x.2 x.1, m) := by
  rw [scanDone, if_neg (by simp [hbusy]), hfault]

end

end Sys2Proof.Machine

namespace Sys2Proof.Cert

open Sys2Proof.Machine

/-! ### Its rows -/

section

variable {s : State} {i : Initiator}

theorem leads_checkScanStart (hopen : Open s i true Reg.CHECK_CTRL) : Leads s (.checkScanStart i) s.dev.scanStart :=
  Dev.writeReg_checkStart i ▸ leads_of_write rfl hopen (by decide) (by decide) (by decide)

theorem leads_checkDataFeed (w : Word) (hopen : Open s i true Reg.CHECK_DATA) : Leads s (.checkDataFeed i w) (s.dev.checkFeed w) :=
  Dev.writeReg_checkData i w ▸ leads_of_write rfl hopen (by decide) (by decide) (by decide)

theorem makes_checkScanDone (hbusy : s.dev.check.busy = true) {x : Nat × BusCode}
    (hfault : s.dev.scanFault s.dev.check.addr s.dev.check.len = some x) : Makes s .checkScanDone (s.dev.scanFails x.2 x.1) := by
  rw [Makes, show exec .checkScanDone s = onMem s scanDone from rfl, onMem_eq, scanDone_fault s.mem hbusy hfault]
  rfl

end

/-! ### A busy unit -/

/-- A START or a feed that a busy unit rejects sets its event and nothing else (R406). -/
theorem rejected (d : Dev) : Set (d.raise Reg.CHECK_EVT 2) Reg.CHECK_EVT 2 ∧
    SameRegsBut [Reg.CHECK_EVT] d (d.raise Reg.CHECK_EVT 2) ∧ (d.raise Reg.CHECK_EVT 2).check = d.check :=
  ⟨set_raise _ (by decide), fun _ ha => d.rd_raise_ne 2 (List.ne_of_not_mem_cons ha), d.raise_check _ _⟩

/-! ### A scan that fails -/

/-- What `e` shows of `d` where a scan failed with a code at an address (R405, R406). -/
structure ScanFailed (d e : Dev) (code : BusCode) (addr : Nat) : Prop where
  event : Set e Reg.CHECK_EVT 1
  code : (e.rd Reg.CHECK_STATUS).get 19 16 = code.num
  address : e.rd Reg.CHECK_ERR_ADDR = BitVec.ofNat 32 addr
  check : e.check = { d.check with busy := false }
  regs : SameRegsBut [Reg.CHECK_EVT, Reg.CHECK_STATUS, Reg.CHECK_ERR_ADDR, Reg.CHECK_RESULT] d e

theorem scanFailed_scanFails (d : Dev) (code : BusCode) (addr : Nat) : ScanFailed d (d.scanFails code addr) code addr where
  event := set_raise _ (by decide)
  code := by
    have hcode : code.num < 2 ^ (19 + 1 - 16) := code.num_lt
    rw [Dev.scanFails, Dev.rd_raise_ne _ _ (by decide), Dev.rd_drew, Dev.rd_wr_ne _ _ (by decide), Dev.rd_wr_ne _ _ (by decide),
      Dev.rd_fset_same, Word.get_put_same _ _ (by decide) (by decide), Nat.mod_eq_of_lt hcode]
  address := by
    rw [Dev.scanFails, Dev.rd_raise_ne _ _ (by decide), Dev.rd_drew, Dev.rd_wr_ne _ _ (by decide), Dev.rd_wr_same, low32]
  check := by
    rw [Dev.scanFails, Dev.raise_check, Dev.drew_check, Dev.wr_check, Dev.wr_check, Dev.fset_check]
  regs := by
    intro a ha
    obtain ⟨hevt, hstatus, haddr, hresult⟩ :
        a ≠ Reg.CHECK_EVT ∧ a ≠ Reg.CHECK_STATUS ∧ a ≠ Reg.CHECK_ERR_ADDR ∧ a ≠ Reg.CHECK_RESULT := by simpa using ha
    rw [Dev.scanFails, Dev.rd_raise_ne _ _ hevt, Dev.rd_drew, Dev.rd_wr_ne _ _ hresult, Dev.rd_wr_ne _ _ haddr,
      Dev.rd_fset_ne _ _ _ _ hstatus]
    rfl

/-! ### A scan that ends -/

/-- What `x` shows of `d` and `m` where a scan has ended: its words are read, and the value of their bytes is in CHECK_RESULT. -/
structure ScanEnded (d : Dev) (m : Mem) (x : Dev × Mem) : Prop where
  mem : x.2 = (copySeenIn d m d.check.addr d.check.len).2
  event : Set x.1 Reg.CHECK_EVT 0
  regs : SameRegsBut [Reg.CHECK_EVT, Reg.CHECK_RESULT] d x.1
  idle : x.1.check.busy = false
  result : x.1.rd Reg.CHECK_RESULT = checkOut d.checkAlg ((scanOrder ((d.rd Reg.CHECK_CFG).bit 31)
    (Mem.bytes x.2 d.check.addr d.check.len)).foldl (checkByte d.checkAlg) d.check.crc)

theorem scanEnded_scanDone {d : Dev} (m : Mem) (hbusy : d.check.busy = true)
    (hfault : d.scanFault d.check.addr d.check.len = none) : ScanEnded d m (scanDone d m) := by
  obtain ⟨b, k, hread⟩ := copySeenIn_frame d m d.check.addr d.check.len
  rw [scanDone, if_neg (by simp [hbusy]), hfault]
  dsimp only
  rw [hread]
  exact
    { mem := rfl
      event := set_raise _ (by decide)
      regs := fun a ha => by
        obtain ⟨hevt, hresult⟩ : a ≠ Reg.CHECK_EVT ∧ a ≠ Reg.CHECK_RESULT := by simpa using ha
        exact (Dev.rd_raise_ne _ _ hevt).trans (Dev.rd_checkResult_ne _ hresult)
      idle := by rw [Dev.raise_check]
      result := (Dev.rd_raise_ne _ _ (by decide)).trans (Dev.rd_checkResult_same _) }

/-! ### The unit -/

/-- Settles O49, row by row: a start, a fed word, and the two ends of a scan. -/
theorem checkValueUnit : Obligations.CheckValueUnit := by
  unfold Obligations.CheckValueUnit
  intro s i w
  refine ⟨fun hopen => ?start, fun hopen => ?feed, fun hbusy hfault => ?ends, fun hbusy x hfault => ?stops,
    checkByte_zero, checkOut_foldl_zero⟩
  case start =>
    have leads := leads_checkScanStart hopen
    refine ⟨fun hidle hin => ?_, fun hidle hout => ?_, fun hbusy => ?_⟩
    · rwa [Dev.scanStart_inside hidle hin] at leads
    · have failed := scanFailed_scanFails s.dev .refused
        (firstOutside (s.dev.rd Reg.CHECK_ADDR).toNat ((s.dev.rd Reg.CHECK_LEN).get 24 0))
      rw [← Dev.scanStart_outside hidle hout] at failed
      exact ⟨_, leads, failed.event, failed.code, by rw [failed.check, ← hidle], failed.regs⟩
    · rw [Dev.scanStart_busy hbusy] at leads
      exact ⟨_, leads, rejected s.dev⟩
  case feed =>
    have leads := leads_checkDataFeed w hopen
    refine ⟨fun hidle => ?_, fun hbusy => ?_⟩
    · rw [Dev.checkFeed_idle w hidle] at leads
      exact ⟨_, leads, fun _ ha => Dev.rd_checkResult_ne _ (List.ne_of_not_mem_cons ha), rfl, Dev.rd_checkResult_same _, hidle⟩
    · rw [Dev.checkFeed_busy w hbusy] at leads
      exact ⟨_, leads, rejected s.dev⟩
  case ends =>
    have ended := scanEnded_scanDone s.mem hbusy hfault
    refine ⟨_, _, onMem_eq s scanDone, ended.event, ended.regs, ended.idle, fun hstill => ?_, fun halg hswap hcrc => ?_⟩
    · rw [ended.mem, copySeenIn_eq _ _ hstill]
    · rw [ended.result, halg, hswap, hcrc, scanOrder_false]
      exact checkOut_foldl_zero _
  case stops =>
    have failed := scanFailed_scanFails s.dev x.2 x.1
    exact ⟨_, makes_checkScanDone hbusy hfault, failed.event, by rw [failed.check], failed.code, failed.address⟩

end Sys2Proof.Cert

/-!
PROOFS. Reports that are no severity (R411, R418, R419). A report of a source in service counts, holds its dependents, and then either
counts as masked or keeps its time. Holding marks some of the Sump's sources and touches nothing else, so after it every register, and
every other field of a source, reads as before; in particular the threshold is compared with the times that were kept.
-/

namespace Sys2Proof.Machine

section

variable {d : Dev} {n : Fin 256}

/-! ### Sources -/

theorem Dev.modSrc_src_same (f : Source → Source) : (d.modSrc n f).sump.src[n] = f d.sump.src[n] := by
  simp [Dev.modSrc]

theorem Dev.modSrc_src_ne {m : Fin 256} (f : Source → Source) (h : m ≠ n) : (d.modSrc n f).sump.src[m] = d.sump.src[m] := by
  simp [Dev.modSrc, Vector.getElem_set_ne, Fin.val_ne_of_ne h.symm]

theorem mem_span {lo hi m : Nat} : m ∈ span lo hi ↔ lo ≤ m ∧ m ≤ hi := by
  simp only [span, List.mem_map, List.mem_range]
  exact ⟨by omega, fun h => ⟨m - lo, by omega⟩⟩

/-- Every row of Table 15.1 names sources of the Sump. -/
theorem lt_of_mem_dependents {k m : Nat} (h : m ∈ dependents d k) : m < 256 := by
  simp only [dependents] at h
  split_ifs at h <;> simp only [List.mem_append, mem_span, List.mem_cons, List.not_mem_nil, or_false] at h <;> omega

theorem mem_map_toSrc_dependents {k : Nat} {j : Fin 256} : j ∈ (dependents d k).map toSrc ↔ j.val ∈ dependents d k := by
  refine ⟨fun h => ?_, fun h => List.mem_map.mpr ⟨j.val, h, Fin.ext (Nat.mod_eq_of_lt j.isLt)⟩⟩
  obtain ⟨m, hm, rfl⟩ := List.mem_map.mp h
  have hval : (toSrc m).val = m := Nat.mod_eq_of_lt (lt_of_mem_dependents hm)
  exact hval.symm ▸ hm

/-! ### Holding the dependents -/

/-- The sources with the named ones held quiet. -/
def holdAll (ms : List Nat) (v : Vector Source 256) : Vector Source 256 :=
  ms.foldl (fun v m => v.set (toSrc m) { v[toSrc m] with held := true }) v

/-- A source is held where it was or where it is named, and is the same in everything else. -/
theorem getElem_holdAll (ms : List Nat) (v : Vector Source 256) (j : Fin 256) :
    (holdAll ms v)[j] = { v[j] with held := v[j].held || decide (j ∈ ms.map toSrc) } := by
  induction ms generalizing v with
  | nil => simp [holdAll]
  | cons m ms ih =>
    rw [holdAll, List.foldl_cons, ← holdAll, ih]
    by_cases h : toSrc m = j
    · subst h
      simp
    · simp [Vector.getElem_set_ne, Fin.val_ne_of_ne h, Ne.symm h]

theorem foldl_modSrc_held (ms : List Nat) (d : Dev) :
    ms.foldl (fun d m => d.modSrc (toSrc m) fun s => { s with held := true }) d =
      { d with sump := { d.sump with src := holdAll ms d.sump.src } } := by
  induction ms generalizing d with
  | nil => rfl
  | cons m ms ih => exact ih _

/-- Of a device only the tiles say what the dependents are: a standby synthesizer has none (R420). -/
theorem dependents_congr {e : Dev} (k : Nat) (h : e.tiles = d.tiles) : dependents e k = dependents d k := by
  rw [dependents, dependents, h]

/-- Holding the dependents of a source (R418) changes the Sump's sources alone. -/
theorem Dev.holdDependents_eq (d : Dev) (k : Nat) :
    d.holdDependents k = { d with sump := { d.sump with src := holdAll (dependents d k) d.sump.src } } := by
  rw [Dev.holdDependents, foldl_modSrc_held]

/-! ### A report before it is judged -/

/-- What every report of a source in service does first: TOTAL counts it, and its dependents are held. -/
def Dev.noted (d : Dev) (n : Fin 256) : Dev := (d.count (Reg.SUMP_SRC_STATUS n.val) 15 0).holdDependents n.val

theorem Dev.noted_eq (d : Dev) (n : Fin 256) : d.noted n =
    { d with
      regs := (d.count (Reg.SUMP_SRC_STATUS n.val) 15 0).regs
      same := (d.count (Reg.SUMP_SRC_STATUS n.val) 15 0).same
      sump := { d.sump with src := holdAll (dependents d n.val) d.sump.src } } := by
  obtain ⟨m, sc, h⟩ := d.count_frame (Reg.SUMP_SRC_STATUS n.val) 15 0
  rw [Dev.noted, Dev.holdDependents_eq, dependents_congr _ (Dev.count_tiles ..), h]

theorem Dev.noted_src (j : Fin 256) : (d.noted n).sump.src[j] =
    { d.sump.src[j] with held := d.sump.src[j].held || decide (j.val ∈ dependents d n.val) } := by
  rw [Dev.noted_eq]
  simp only [getElem_holdAll, mem_map_toSrc_dependents]

theorem Dev.rd_noted (a : Nat) : (d.noted n).rd a = (d.count (Reg.SUMP_SRC_STATUS n.val) 15 0).rd a := by
  rw [Dev.rd, Dev.rd, Dev.noted_eq]

theorem Dev.rd_noted_ne {a : Nat} (h : a ≠ Reg.SUMP_SRC_STATUS n.val) : (d.noted n).rd a = d.rd a := by
  rw [Dev.rd_noted, Dev.rd_count_ne _ _ _ h]

theorem srcStatus_ne_srcCfg (j k : Nat) : Reg.SUMP_SRC_STATUS j ≠ Reg.SUMP_SRC_CFG k := by
  unfold Reg.SUMP_SRC_STATUS Reg.SUMP_SRC_CFG
  omega

theorem srcStatus_ne_masked (j : Nat) : Reg.SUMP_SRC_STATUS j ≠ Reg.SUMP_MASKED := by
  unfold Reg.SUMP_SRC_STATUS Reg.SUMP_MASKED
  omega

theorem Dev.srcN_noted (k : Nat) : (d.noted n).srcN k = d.srcN k := by
  rw [Dev.srcN, Dev.srcN, Dev.fget, Dev.fget, Dev.rd_noted_ne (srcStatus_ne_srcCfg _ _).symm]

/-! ### The cases of a report -/

theorem Dev.report_masked (hwire : d.sump.src[n].wireIgnored = false) (hret : d.sump.src[n].retired = false)
    (hheld : d.sump.src[n].held = true) : d.report n = (d.noted n).count32 Reg.SUMP_MASKED := by
  simp only [Dev.report, hwire, hret, hheld, Bool.false_eq_true, if_false, if_true]
  rfl

/-- The device with the present cycle joined to the times of a source (R411). -/
def Dev.keepTime (d : Dev) (n : Fin 256) : Dev := d.modSrc n fun s => { s with times := (d.time.cycle :: s.times).take 255 }

theorem Dev.noted_keepTime_times :
    ((d.noted n).keepTime n).sump.src[n].times = (d.time.cycle :: d.sump.src[n].times).take 255 := by
  rw [Dev.keepTime, Dev.modSrc_src_same, Dev.noted_src, Dev.noted_eq]

/-- With fewer than N events there is no N-th most recent one, and the source stays transient (R411). -/
theorem Dev.report_transient (hwire : d.sump.src[n].wireIgnored = false) (hret : d.sump.src[n].retired = false)
    (hheld : d.sump.src[n].held = false) (hbelow : d.sump.src[n].times.length + 1 < d.srcN n.val) :
    d.report n = (d.noted n).keepTime n := by
  have hnone : ((d.noted n).keepTime n).sump.src[n].times[((d.noted n).keepTime n).srcN n.val - 1]? = none := by
    have hN : ((d.noted n).keepTime n).srcN n.val = d.srcN n.val := Dev.srcN_noted n.val
    rw [Dev.noted_keepTime_times, hN, List.getElem?_eq_none_iff, List.length_take, List.length_cons]
    omega
  simp only [Dev.report, hwire, hret, hheld, Bool.false_eq_true, if_false]
  split
  case h_1 t hsome => exact absurd (hnone.symm.trans hsome) nofun
  case h_2 => rfl

end

end Sys2Proof.Machine

namespace Sys2Proof.Cert

open Sys2Proof.Machine

section

variable {s : State} {d : Dev} {n : Fin 256}

/-- A report on the pair of a source that is not reserved is that source's report. -/
theorem leads_sumpReport (hfabric : s.dev.power.fabric = true) (hn : n.val < 230) : Leads s (.sumpReport n) (s.dev.report n) := by
  have row : exec (.sumpReport n) s = onCommit s fun d => if d.power.fabric then d.pairReport n else d := rfl
  rw [Leads, row, onCommit_eq]
  simp only [hfabric, if_true, Dev.pairReport, if_neg (Nat.not_le.mpr hn)]
  rfl

theorem counted_noted : Counted d (d.noted n) (Reg.SUMP_SRC_STATUS n.val) 15 0 :=
  (counted_count _ (by decide) (by decide)).of_rd_eq (Dev.rd_noted _)

end

theorem sumpTransientReport : SumpTransientReport := by
  intro s n hfabric hn hwire hret hheld _ hbelow
  have leads := leads_sumpReport hfabric hn
  rw [Dev.report_transient hwire hret hheld hbelow] at leads
  refine ⟨_, leads, counted_noted, fun a ha => Dev.rd_noted_ne (List.ne_of_not_mem_cons ha), ?frame,
    Dev.noted_keepTime_times, fun m hm => (Dev.modSrc_src_ne _ hm).trans (Dev.noted_src m)⟩
  case frame =>
    rw [Dev.keepTime, Dev.noted_eq]
    rfl

theorem sumpMaskedReport : SumpMaskedReport := by
  intro s n hfabric hn hwire hret hheld
  have leads := leads_sumpReport hfabric hn
  rw [Dev.report_masked hwire hret hheld] at leads
  refine ⟨_, leads, ?total, ?masked, ?times, ?severe, ?pulse, ?queue, ?cad, ?dependents⟩
  case total => exact counted_noted.of_rd_eq (Dev.rd_count32_ne _ (srcStatus_ne_masked _))
  case masked =>
    have counted := counted_count32 (d := s.dev.noted n) Reg.SUMP_MASKED
    rwa [Counted, Dev.rd_noted_ne (srcStatus_ne_masked _).symm] at counted
  all_goals simp only [Dev.count32_sump, Dev.count32_cad]
  case times | severe => rw [Dev.noted_src]
  case pulse | queue | cad => rw [Dev.noted_eq]
  case dependents =>
    intro m hm
    have hnamed := mem_map_toSrc_dependents.mp (List.mem_map_of_mem hm)
    rw [Dev.noted_src, decide_eq_true hnamed, Bool.or_true]

/-- Settles O29: the two cases of a report that make no severity, below the threshold and held. -/
theorem sumpReports : Obligations.SumpReports := ⟨sumpTransientReport, sumpMaskedReport⟩

end Sys2Proof.Cert

/-!
PROOFS. The stages of a tick and of a seam midpoint. Each is one long chain of bindings in the model, cut here into the steps of
chapter 2 so that a proof speaks of one step at a time. `tickWith` and `midpointWith` are the chains with their calls of the cores, of what
lands and of commands left open: the stages are read off them without either call being run.
-/

namespace Sys2Proof.Machine

/-! ### The tick (R31 to R36, R50) -/

/-- The tick, for whatever the cores do at it and whatever their tests do. -/
def tickWith (cores : Dev → Mem → Bool → Dev × Mem) (tests : Dev → Mem → Dev × Mem) (d : Dev) (m : Mem) (nom : Nat) : Dev × Mem :=
  let n := d.cad.tickIdx + 1
  let d := d.closeSymbol
  let gap := d.cad.gapTo.isSome
  let d := if gap then d.wr Reg.CADENCE_STEP_GAP (BitVec.ofNat 32 d.cad.since) else d
  let ended := symLen d.mu d.cad.nom
  let diff : Int := (sampTime nom : Int) - (d.time.now : Int)
  let inc : Int := (max 1 d.time.inc : Nat)
  let resid := (diff % inc * 512 / inc).toNat
  let wasLag := d.cad.lag
  let d := { d with
    cad := { d.cad with tickIdx := n, nom := nom, since := 0, lag := diff / inc, frozen := false, midDone := false, gapTo := none, stopDue := d.cad.runHeld,
                            muHeld := d.cad.muNext.getD d.cad.muHeld, muNext := none }
    beam := { d.beam with sliceErr := 0 } }
  let d := (List.finRange 64).foldl (fun d p => d.modPath p fun s => { s with settle := s.settle - ended }) d
  let cfg := fun (c : Change) => c.key == Setting.cadenceCfg && c.landsAt n nom
  let d := (d.cad.changes.filter cfg).foldl Dev.landCadence d
  let d := { d with cad := { d.cad with changes := d.cad.changes.filter fun c => !cfg c } }
  let d := d.publish resid wasLag
  let ls := d.cad.changes.filter fun (c : Change) => c.landsAt n nom
  let after := (landAll d m ls).1
  let d := ls.foldl Dev.landBlended d
  let d := if ls.any fun c => c.key.isUnit then d.healAtTick after else d
  let d := (d.formDelays resid).selectBanks.mirrorAtTick
  let d := ((d.rescaleAtTick m).reenter).openSymbol
  let d := if gap then d.unsettleSymbol else d.markCarried
  let d := ((d.calTick after).snapTick).biasTouched.senseAll
  let (d, m) := cores d.askUpdates m (isFrame nom)
  let (d, m) := tests d m
  let d := (d.soundTick.spendAccepted.satTick).dpdRests 2
  ({ d with cad := { d.cad with len := d.symCycles } }, m)

/-- The symbol that ends is closed and the length of a step gap shown (R37). -/
def Dev.tickClosed (d : Dev) : Dev :=
  let d := d.closeSymbol
  if d.cad.gapTo.isSome then d.wr Reg.CADENCE_STEP_GAP (BitVec.ofNat 32 d.cad.since) else d

/-- How far local time stands from the nominal time of the tick. -/
def Dev.tickDiff (d : Dev) (nom : Nat) : Int := (sampTime nom : Int) - (d.time.now : Int)

/-- The increment in force, at least 1. -/
def Dev.incUp (d : Dev) : Int := (max 1 d.time.inc : Nat)

/-- The residual of the tick in 512ths of a cycle (R36). -/
def Dev.tickResid (d : Dev) (nom : Nat) : Nat := (d.tickDiff nom % d.incUp * 512 / d.incUp).toNat

/-- The edge of the tick: its index, its nominal time and its lag. -/
def Dev.tickEdge (d : Dev) (n nom : Nat) : Dev :=
  { d with
    cad := { d.cad with tickIdx := n, nom := nom, since := 0, lag := d.tickDiff nom / d.incUp, frozen := false, midDone := false,
                        gapTo := none, stopDue := d.cad.runHeld, muHeld := d.cad.muNext.getD d.cad.muHeld, muNext := none }
    beam := { d.beam with sliceErr := 0 } }

/-- Spans of unsettled receive samples are shorter by the symbol that has ended (R101). -/
def Dev.tickSettles (d : Dev) (ended : Nat) : Dev :=
  (List.finRange 64).foldl (fun d p => d.modPath p fun s => { s with settle := s.settle - ended }) d

/-- Whether a change is one of CADENCE_CFG that lands at the tick. -/
def cadenceLands (n nom : Nat) (c : Change) : Bool := c.key == Setting.cadenceCfg && c.landsAt n nom

/-- Changes of CADENCE_CFG are in force from the edge of the tick on. -/
def Dev.tickNumerology (d : Dev) (n nom : Nat) : Dev :=
  let e := (d.cad.changes.filter (cadenceLands n nom)).foldl Dev.landCadence d
  { e with cad := { e.cad with changes := e.cad.changes.filter fun c => !cadenceLands n nom c } }

/-- The device once the tick's own registers show it (R34, R36). -/
def Dev.tickShown (d : Dev) (nom : Nat) : Dev :=
  let c := d.tickClosed
  (((c.tickEdge (d.cad.tickIdx + 1) nom).tickSettles (symLen c.mu c.cad.nom)).tickNumerology (d.cad.tickIdx + 1) nom).publish
    (c.tickResid nom) c.cad.lag

/-- The changes that land at a tick. -/
def Dev.tickLands (d : Dev) (n nom : Nat) : List Change := d.cad.changes.filter fun (c : Change) => c.landsAt n nom

/-- Blended settings change (R50) and the next symbol opens. -/
def Dev.tickBlended (d : Dev) (m : Mem) (n nom resid : Nat) : Dev :=
  let ls := d.tickLands n nom
  let b := ls.foldl Dev.landBlended d
  let b := if ls.any fun c => c.key.isUnit then b.healAtTick (landAll d m ls).1 else b
  ((((b.formDelays resid).selectBanks.mirrorAtTick).rescaleAtTick m).reenter).openSymbol

/-- The paths, calibration and bias at the tick. -/
def Dev.tickUnits (d after : Dev) (gap : Bool) : Dev :=
  (((if gap then d.unsettleSymbol else d.markCarried).calTick after).snapTick).biasTouched.senseAll

/-- The device of a tick when the cores have their turn. -/
def Dev.tickReady (d : Dev) (m : Mem) (nom : Nat) : Dev :=
  let p := d.tickShown nom
  let n := d.cad.tickIdx + 1
  (p.tickBlended m n nom (d.tickClosed.tickResid nom)).tickUnits (landAll p m (p.tickLands n nom)).1 d.closeSymbol.cad.gapTo.isSome

/-- What ends a tick: soundings, accepted messages, saturations, commands, and the length of the symbol in cycles. -/
def Dev.tickDone (d : Dev) : Dev :=
  let d := (d.soundTick.spendAccepted.satTick).dpdRests 2
  { d with cad := { d.cad with len := d.symCycles } }

/-- The cores' turn at a tick, and the turn of their tests. -/
def tickCores (d : Dev) (m : Mem) (nom : Nat) : Dev × Mem :=
  let x := chiselTick (d.tickReady m nom).askUpdates m (isFrame nom)
  coreTestsTick x.1 x.2

theorem tickWith_eq (cores : Dev → Mem → Bool → Dev × Mem) (tests : Dev → Mem → Dev × Mem) (d : Dev) (m : Mem) (nom : Nat) :
    tickWith cores tests d m nom =
      (let x := cores (d.tickReady m nom).askUpdates m (isFrame nom)
       let y := tests x.1 x.2
       (y.1.tickDone, y.2)) := rfl

theorem tickWith_cores : tickWith chiselTick coreTestsTick = tickAt := by
  delta tickWith tickAt
  with_reducible rfl

/-- A tick is its stages, one after the other. -/
theorem tickAt_eq (d : Dev) (m : Mem) (nom : Nat) :
    tickAt d m nom = ((tickCores d m nom).1.tickDone, (tickCores d m nom).2) := by
  rw [← tickWith_cores, tickWith_eq]
  rfl

/-! ### The seam midpoint (R51, R311) -/

/-- The seam midpoint, for whatever its configuration, its changes and its commands do. -/
def midpointWith (config : Dev → List Change → Dev × List Change) (land : Dev → Mem → List Change → Dev × Mem)
    (commands : Dev → Mem → Dev × Mem) (d : Dev) (m : Mem) : Dev × Mem :=
  let d := d.passCycles (d.seamL / 2 - d.cad.since)
  let n := d.cad.tickIdx
  let lands := fun (c : Change) => c.landsAt n d.cad.nom
  let ls := d.cad.changes.filter lands
  let touched := (List.finRange 64).filter d.touched
  let wasBusy := (List.finRange 64).any fun p => d.paths[p].onAir
  let d := { d.windowTick true with cad := { d.cad with changes := d.cad.changes.filter (fun c => !lands c), midDone := true } }
  let (d, ls) := config d ls
  let (d, m) := land d m ls
  let d := d.jumpMarks.healed
  let d := d.flowShed.beginDeferred.muteAtMidpoint.tilesMidpoint.spareMidpoint.settleSymbol
  let d := ((d.capturesMidpoint touched).idleMidpoint).biasReturn
  let d := (d.windowTick false).stopTicks wasBusy
  let (d, m) := commands (d.dpdRests 1) m
  let d := if d.cad.running then d else d.dpdRests 2
  (d.finals true (d.tickNs n), m)

/-- The clock goes on to the seam midpoint. -/
def Dev.midClock (d : Dev) : Dev := d.passCycles (d.seamL / 2 - d.cad.since)

/-- The changes that land at the most recent tick. -/
def Dev.midLands (d : Dev) : List Change := d.cad.changes.filter fun (c : Change) => c.landsAt d.cad.tickIdx d.cad.nom

/-- They are taken from those that wait, and the midpoint has come. -/
def Dev.midTaken (d : Dev) : Dev :=
  { d.windowTick true with
    cad := { d.cad with changes := d.cad.changes.filter (fun c => !c.landsAt d.cad.tickIdx d.cad.nom), midDone := true } }

/-- The units at the seam midpoint, once its changes have landed. -/
def Dev.midUnits (d : Dev) (touched : List (Fin 64)) (wasBusy : Bool) : Dev :=
  let d := d.jumpMarks.healed
  let d := d.flowShed.beginDeferred.muteAtMidpoint.tilesMidpoint.spareMidpoint.settleSymbol
  (((d.capturesMidpoint touched).idleMidpoint).biasReturn.windowTick false).stopTicks wasBusy

/-- What a seam midpoint brings into force. -/
def midLanded (d : Dev) (m : Mem) : Dev × Mem :=
  let x := d.midClock.midTaken.landConfig d.midClock.midLands
  landAll x.1 m x.2

/-- The device of a seam midpoint when its commands have their turn. -/
def Dev.midReady (d : Dev) (m : Mem) : Dev :=
  (midLanded d m).1.midUnits ((List.finRange 64).filter d.midClock.touched)
    ((List.finRange 64).any fun p => d.midClock.paths[p].onAir)

/-- What ends a seam midpoint: what is left of commands, and final replies. -/
def Dev.midFinals (d : Dev) (n : Nat) : Dev :=
  let d := if d.cad.running then d else d.dpdRests 2
  d.finals true (d.tickNs n)

theorem midpointWith_eq (config : Dev → List Change → Dev × List Change) (land : Dev → Mem → List Change → Dev × Mem)
    (commands : Dev → Mem → Dev × Mem) (d : Dev) (m : Mem) :
    midpointWith config land commands d m =
      (let x := config d.midClock.midTaken d.midClock.midLands
       let y := land x.1 m x.2
       let z := commands ((y.1.midUnits ((List.finRange 64).filter d.midClock.touched)
         ((List.finRange 64).any fun p => d.midClock.paths[p].onAir)).dpdRests 1) y.2
       (z.1.midFinals d.midClock.cad.tickIdx, z.2)) := rfl

theorem midpointWith_commands : midpointWith Dev.landConfig landAll midCommands = midpoint := by
  delta midpointWith midpoint
  with_reducible rfl

/-- A seam midpoint is its stages, one after the other. -/
theorem midpoint_eq (d : Dev) (m : Mem) :
    midpoint d m = ((midCommands ((d.midReady m).dpdRests 1) (midLanded d m).2).1.midFinals d.midClock.cad.tickIdx,
      (midCommands ((d.midReady m).dpdRests 1) (midLanded d m).2).2) := by
  rw [← midpointWith_commands, midpointWith_eq]
  rfl

/-! ### The start of ticks (R57) -/

/-- The device at the frame boundary at which ticks start, with a datapath that holds no symbol. -/
def Dev.startReady (d : Dev) : Dev :=
  let d := if d.cad.frozen then d else d.cutoffNow
  let d := d.passCycles d.toEdge
  { d with cad := { d.cad with running := true, startAt := none, gapTo := none, lag := 0 }, sig := Datapath.reset }

/-- Ticks that are due to start begin with the tick of that boundary. -/
theorem ticksStart_due {d : Dev} {f : Nat} (m : Mem) (start : d.cad.startAt = some f) (h : (d.cad.running || !d.time.adv) = false) :
    ticksStart d m = tickAt d.startReady m f := by
  unfold ticksStart
  generalize tickAt = t
  rw [start]
  dsimp only
  rw [if_neg (by simp [h])]
  rfl

/-- While ticks run, while local time stands, and with no start asked for, none start. -/
theorem ticksStart_not {d : Dev} (m : Mem) (h : d.cad.startAt = none ∨ (d.cad.running || !d.time.adv) = true) :
    ticksStart d m = (d, m) := by
  unfold ticksStart
  generalize tickAt = t
  obtain h | h := h
  · rw [h]
  · split
    · rfl
    · rw [if_pos h]

end Sys2Proof.Machine

/-!
PROOFS. Every step keeps the canonical form of memory. The operations of memory keep it (Laws/Memory); so each function that answers a
memory keeps it too, in the order in which the functions call each other: the units, what lands and settles, accesses and what
reads or writes by them, the cadence, the commands. A fold keeps it because each of its steps does.
-/

namespace Sys2Proof.Machine

section

variable {m : Mem}

/-! ### Folds and copies -/

/-- A fold over devices and memories keeps the form where each of its steps does. -/
theorem foldl_wf {α : Type} {f : Dev × Mem → α → Dev × Mem} (step : ∀ x a, Memory.wf x.2 = true → Memory.wf (f x a).2 = true)
    (l : List α) (x : Dev × Mem) (h : Memory.wf x.2 = true) : Memory.wf (l.foldl f x).2 = true := by
  induction l generalizing x with
  | nil => exact h
  | cons a l ih => exact ih _ (step x a h)

/-- The same of a fold over memories alone. -/
theorem foldl_mem_wf {α : Type} {f : Mem → α → Mem} (step : ∀ m a, Memory.wf m = true → Memory.wf (f m a) = true)
    (l : List α) (m : Mem) (h : Memory.wf m = true) : Memory.wf (l.foldl f m) = true := by
  induction l generalizing m with
  | nil => exact h
  | cons a l ih => exact ih _ (step m a h)

theorem Memory.wf_filter (p : Host.Cell → Bool) (h : Memory.wf m = true) : Memory.wf (m.filter p) = true :=
  Memory.wfFrom_filter p h

/-! ### The Ashlar store -/

theorem ashlarPut_wf (d : Dev) (by_ : AshlarWriter) (a : Nat) (bs : List Byte) (h : Memory.wf m = true) :
    Memory.wf (ashlarPut d m by_ a bs).2 = true := by
  unfold ashlarPut
  dsimp only
  split
  · exact Memory.wf_setBytes a bs h
  · refine foldl_mem_wf (fun m x h => ?_) _ m h
    split
    · exact h
    · exact Memory.wf_set _ _ h

theorem copyHalf_wf (ul active : Bool) (written : List Nat) (h : Memory.wf m = true) :
    Memory.wf (copyHalf m ul active written) = true := by
  refine foldl_mem_wf (fun m x h => ?_) _ _ (Memory.wf_filter _ h)
  dsimp only
  split
  · exact h
  · exact Memory.wf_set _ _ h

theorem copySeen_wf (d : Dev) (a : Nat) (h : Memory.wf m = true) : Memory.wf (copySeen d m a).2 = true := by
  unfold copySeen
  dsimp only
  split
  · split
    · exact Memory.wf_setWord _ _ h
    · exact h
  · exact h

theorem copySeenIn_wf (d : Dev) (a n : Nat) (h : Memory.wf m = true) : Memory.wf (copySeenIn d m a n).2 = true := by
  unfold copySeenIn
  split
  · exact foldl_wf (fun x i => copySeen_wf x.1 _) _ _ h
  · exact h

theorem copyErrors_wf (d : Dev) (h : Memory.wf m = true) : Memory.wf (copyErrors d m).2 = true :=
  foldl_mem_wf (fun _ _ => Memory.wf_setWord _ _) _ _ h

theorem mirrorDone_wf (d : Dev) (h : Memory.wf m = true) : Memory.wf (mirrorDone d m).2 = true := by
  have copied : Memory.wf (copyErrors d (copyHalf (copyHalf m false d.beam.dlBank d.beam.written) true d.beam.ulBank
      d.beam.written)).2 = true := copyErrors_wf d (copyHalf_wf _ _ _ (copyHalf_wf _ _ _ h))
  unfold mirrorDone
  split
  · exact h
  · dsimp only
    split <;> exact copied

theorem ashlarDirect_wf (by_ : AshlarWriter) (a : Nat) (w : Word) (d : Dev) (h : Memory.wf m = true) :
    Memory.wf (ashlarDirect by_ a w d m).2 = true := by
  unfold ashlarDirect
  split
  · exact h
  · split
    · exact ashlarPut_wf _ _ _ _ h
    · exact h

theorem weightLoad_wf (d : Dev) (ws : List Word) (h : Memory.wf m = true) : Memory.wf (weightLoad d m ws).2.1 = true := by
  unfold weightLoad
  extract_lets
  split
  · exact foldl_wf (fun x _ => ashlarPut_wf x.1 _ _ _) _ (d, m) h
  · exact h

/-! ### Predistortion, calibration, the solver -/

theorem updateDone_wf (d : Dev) (p : Fin 64) (luts : List Word) (h : Memory.wf m = true) :
    Memory.wf (updateDone d m p luts).2 = true := by
  unfold updateDone
  split
  · exact h
  · split
    · exact h
    · exact Memory.wf_setWords _ _ h

theorem snapshotDone_wf (d : Dev) (h : Memory.wf m = true) : Memory.wf (snapshotDone d m).2 = true := by
  unfold snapshotDone
  split
  · exact h
  · exact Memory.wf_setBytes _ _ h

theorem spoilOverlaps_wf (d : Dev) (id : Nat) (h : Memory.wf m = true) : Memory.wf (spoilOverlaps d m id).2 = true :=
  foldl_wf (fun _ _ => Memory.wf_setBytes _ _) _ _ h

theorem snapshotEnds_wf (d : Dev) (h : Memory.wf m = true) : Memory.wf (snapshotEnds d m).2 = true := by
  unfold snapshotEnds
  split
  · exact h
  · dsimp only
    split
    · exact spoilOverlaps_wf d _ (snapshotDone_wf d h)
    · exact snapshotDone_wf d h

theorem solverDeadline_wf (allWritten : Bool) (d : Dev) (h : Memory.wf m = true) :
    Memory.wf (solverDeadline allWritten d m).2 = true := by
  unfold solverDeadline
  split
  · exact h
  · dsimp only
    split
    · exact foldl_wf (fun x g => solveGroup_wf x.1 x.2 g) _ _ h
    · exact h

/-! ### Chisel cores -/

theorem freeWords_wf (d : Dev) (a n : Nat) (h : Memory.wf m = true) : Memory.wf (freeWords d m a n).2 = true :=
  Memory.wf_setWords _ _ h

theorem stopActivation_wf (d : Dev) (c : Fin 16) (why : StopCause) (h : Memory.wf m = true) :
    Memory.wf (stopActivation d m c why).2 = true := by
  unfold stopActivation
  split
  · exact h
  · split
    · exact h
    · exact freeWords_wf _ _ _ (freeWords_wf _ _ _ (freeWords_wf _ _ _ h))

theorem issueMem_wf (d : Dev) (c : Fin 16) (need : Ctx → Nat) (ok : Kernel → Ctx → Bool) (f : Ctx → Nat → Ctx) {g : Ctx → Mem}
    (stored : ∀ x, Memory.wf (g x) = true) (h : Memory.wf m = true) : Memory.wf (issueMem d m c need ok f g).2 = true := by
  unfold issueMem
  split
  · exact h
  · dsimp only
    split
    · exact stored _
    · exact stopActivation_wf _ _ _ h

theorem Xfer.move_wf (x : Xfer) (c : Nat) (h : Memory.wf m = true) : Memory.wf (x.move c m) = true := by
  unfold Xfer.move
  split <;> exact Memory.wf_setBytes _ _ h

theorem issueXfer_wf (d : Dev) (c : Fin 16) (a b : Fin 32) (toCluster : Bool) (bytes : Nat) (h : Memory.wf m = true) :
    Memory.wf (issueXfer d m c a b toCluster bytes).2 = true := by
  unfold issueXfer
  split
  · exact h
  · dsimp only
    split
    · exact h
    · exact stopActivation_wf _ _ _ h

theorem xferComplete_wf (d : Dev) (c : Fin 16) (at_ : Nat) (h : Memory.wf m = true) :
    Memory.wf (xferComplete d m c at_).2 = true := by
  unfold xferComplete
  dsimp only
  split
  · exact h
  · exact Xfer.move_wf _ _ h

theorem loadImage_wf (a : Nat) (k : Kernel) (h : Memory.wf m = true) : Memory.wf (loadImage m a k) = true :=
  Memory.wf_setBytes _ _ (Memory.wf_setBytes _ _ h)

theorem chiselLoadAt_wf (d : Dev) (cmd a : Nat) (late : Bool) (h : Memory.wf m = true) :
    Memory.wf (chiselLoadAt d m cmd a late).2 = true := by
  unfold chiselLoadAt
  split
  · exact h
  split
  · exact h
  dsimp only
  split
  · exact loadImage_wf _ _ h
  split
  · split <;> exact h
  · exact h

theorem vdspTimeout_wf (d : Dev) (h : Memory.wf m = true) : Memory.wf (vdspTimeout d m).2 = true := by
  unfold vdspTimeout
  split
  · exact h
  · split
    · exact h
    · exact foldl_wf (fun x _ => chiselLoadAt_wf x.1 _ _ _) _ _ h

theorem chiselTick_wf (d : Dev) (frame : Bool) (h : Memory.wf m = true) : Memory.wf (chiselTick d m frame).2 = true := by
  unfold chiselTick
  dsimp only
  split
  · split
    · exact foldl_wf (fun x _ => chiselLoadAt_wf x.1 _ _ _) _ _ h
    · exact h
  · exact h

theorem copyKernel_wf (old new : Kernel) (keepXY : Bool) (h : Memory.wf m = true) :
    Memory.wf (copyKernel m old new keepXY) = true :=
  Memory.wf_setBytes _ _ (Memory.wf_setBytes _ _ (Memory.wf_setBytes _ _ (Memory.wf_setBytes _ _ h)))

theorem readmit_wf (x : Dev × Mem) (k : Kernel) (h : Memory.wf x.2 = true) : Memory.wf (readmit x k).2 = true := by
  unfold readmit
  dsimp only
  split
  · exact copyKernel_wf _ _ _ h
  · split <;> exact h

theorem retireCore_wf (d : Dev) (c : Fin 16) (h : Memory.wf m = true) : Memory.wf (retireCore d m c).2 = true :=
  foldl_wf readmit_wf _ _ h

/-- A core that is vacated moves its kernels, each by a copy. -/
theorem vacateCore_wf {d : Dev} {c : Fin 16} {x : Dev × Mem} (moved : vacateCore d m c = some x) (h : Memory.wf m = true) :
    Memory.wf x.2 = true := by
  unfold vacateCore at moved
  dsimp only at moved
  split at moved
  · exact nomatch moved
  · refine List.foldlRecOn (motive := fun y : Option (Dev × Mem) => ∀ x, y = some x → Memory.wf x.2 = true) _ _ ?_ ?_ x moved
    · rintro _ ⟨⟩
      exact h
    · intro y kept k _ x hx
      cases y with
      | none => exact nomatch hx
      | some y =>
        dsimp only at hx
        split at hx
        · cases hx
          exact copyKernel_wf _ _ _ (kept y rfl)
        · exact nomatch hx

theorem returnKernels_wf (d : Dev) (c : Fin 16) (h : Memory.wf m = true) : Memory.wf (returnKernels d m c).2 = true := by
  refine foldl_wf (fun x k h => ?_) _ _ h
  split
  · exact copyKernel_wf _ _ _ h
  · exact h

theorem coreTestsTick_wf (d : Dev) (h : Memory.wf m = true) : Memory.wf (coreTestsTick d m).2 = true := by
  refine foldl_wf (fun x c h => ?_) _ (d, m) h
  obtain ⟨d, m⟩ := x
  dsimp only
  split
  · split
    · exact h
    · split
      case h_1 y moved => exact vacateCore_wf moved h
      case h_2 => exact h
  · split
    · exact returnKernels_wf _ _ h
    · exact h

theorem coreTestsNow_wf (x : Dev × Mem) (h : Memory.wf x.2 = true) : Memory.wf (coreTestsNow x).2 = true := by
  unfold coreTestsNow
  split
  · exact h
  · exact coreTestsTick_wf _ h

/-! ### Start-up and the fault log -/

theorem startPhase_wf (d : Dev) (h : Memory.wf m = true) : Memory.wf (startPhase d m).2 = true := by
  unfold startPhase
  dsimp only
  split
  · exact h
  split
  case h_6 => exact Memory.wf_clear _ _ h
  case h_9 =>
    split
    · split <;> exact h
    · exact h
  case h_5 | h_11 => exact h
  all_goals split <;> exact h

theorem logWrite_wf (d : Dev) (h : Memory.wf m = true) : Memory.wf (logWrite d m).2 = true := by
  unfold logWrite
  split
  · exact h
  · exact Memory.wf_setBytes _ _ h

theorem logDrain_wf (d : Dev) (h : Memory.wf m = true) : Memory.wf (logDrain d m).2 = true :=
  foldl_wf (fun x _ => logWrite_wf x.1) _ _ h

/-! ### What lands and settles -/

theorem retireUnit_wf (d : Dev) (kind i : Nat) (byCommand : Bool) (h : Memory.wf m = true) :
    Memory.wf (retireUnit d m kind i byCommand).2 = true := by
  unfold retireUnit
  dsimp only
  split
  case h_11 => exact retireCore_wf _ _ h
  all_goals exact h

theorem restoreUnit_wf (d : Dev) (kind i : Nat) (h : Memory.wf m = true) : Memory.wf (restoreUnit d m kind i).2 = true := by
  unfold restoreUnit
  dsimp only
  split <;> exact h

theorem landStepped_wf (d : Dev) (c : Change) (h : Memory.wf m = true) : Memory.wf (landStepped d m c).2 = true := by
  unfold landStepped
  dsimp only
  split
  case h_3 | h_7 => split <;> exact h
  case h_9 =>
    split
    · exact restoreUnit_wf _ _ _ h
    · exact retireUnit_wf _ _ _ _ h
  all_goals exact h

theorem landAll_wf (d : Dev) (ls : List Change) (h : Memory.wf m = true) : Memory.wf (landAll d m ls).2 = true :=
  foldl_wf (fun x _ => foldl_wf (fun y c => landStepped_wf y.1 c) _ x) _ _ h

theorem settleOnce_wf (d : Dev) (h : Memory.wf m = true) : Memory.wf (settleOnce d m).2 = true := by
  unfold settleOnce
  dsimp only
  exact landAll_wf _ _ h

theorem settle_wf (d : Dev) (h : Memory.wf m = true) : Memory.wf (settle d m).2 = true := by
  unfold settle
  split
  · exact h
  · dsimp only
    split
    · exact h
    · refine foldl_wf (fun x _ h => ?_) _ _ h
      split
      · exact settleOnce_wf _ h
      · exact h

/-- What follows an event keeps the canonical form. -/
theorem settled_wf (x : Dev × Mem) (h : Memory.wf x.2 = true) : Memory.wf (settled x).2 = true := settle_wf x.1 h

end

end Sys2Proof.Machine

namespace Sys2Proof.Machine

section

variable {m : Mem}

/-! ### Accesses -/

theorem lutAccess_wf (d : Dev) (i : Initiator) (write : Option Word) (h : Memory.wf m = true) :
    Memory.wf (lutAccess d m i write).2.2 = true := by
  unfold lutAccess
  split
  · exact h
  · split
    · exact h
    · split
      · exact h
      · exact Memory.wf_setWord _ _ h

theorem reach_wf (d : Dev) (i : Initiator) (write : Bool) (width a data : Nat) (h : Memory.wf m = true) :
    Memory.wf (reach d m i write width a data).2.2 = true := by
  unfold reach
  dsimp only
  split
  · split
    · have k := lutAccess_wf d i (if write then some (low32 data) else none) h
      split <;> exact k
    · split <;> exact h
  · split
    · split
      · exact h
      split
      · exact h
      split
      · exact ashlarPut_wf _ _ _ _ h
      · exact Memory.wf_setBytes _ _ h
    · split
      · exact h
      · exact copySeen_wf _ _ h

theorem access32_wf (d : Dev) (i : Initiator) (write : Bool) (width a data : Nat) (h : Memory.wf m = true) :
    Memory.wf (access32 d m i write width a data).2.2 = true := by
  have k := reach_wf d i write width a data h
  unfold access32
  split
  · exact h
  · dsimp only
    split <;> exact k

theorem settleAccess_wf (x : Answer × Dev × Mem) (h : Memory.wf x.2.2 = true) : Memory.wf (settleAccess x).2.2 = true :=
  settled_wf x.2 h

theorem access_wf (d : Dev) (i : Initiator) (write : Bool) (width a data : Nat) (h : Memory.wf m = true) :
    Memory.wf (access d m i write width a data).2.2 = true := by
  have one := fun (d : Dev) {m : Mem} (width a data : Nat) (h : Memory.wf m = true) =>
    settleAccess_wf _ (access32_wf d i write width a data h)
  unfold access
  split
  · split
    · exact h
    · have first := one d 32 a (data % 4294967296) h
      split
      case h_1 c d' m' eq => rwa [eq] at first
      case h_2 lo d' m' eq =>
        rw [eq] at first
        have second := one d' 32 (a + 4) (data / 4294967296) first
        split
        case h_1 eq' => rwa [eq'] at second
        case h_2 eq' => rwa [eq'] at second
  · exact one d width a data h

theorem writeWord_wf (d : Dev) (i : Initiator) (a : Nat) (w : Word) (h : Memory.wf m = true) :
    Memory.wf (writeWord d m i a w).2 = true := access_wf d i true 32 a w.toNat h

theorem readWord_wf (d : Dev) (i : Initiator) (a : Nat) (h : Memory.wf m = true) : Memory.wf (readWord d m i a).2 = true :=
  access_wf d i false 32 a 0 h

/-- What an access answers, with the form that the memory it answers has. -/
theorem wf_of_access {d d' : Dev} {m' : Mem} {i : Initiator} {write : Bool} {width a data : Nat} {x : Answer}
    (eq : access d m i write width a data = (x, d', m')) (h : Memory.wf m = true) : Memory.wf m' = true := by
  have k := access_wf d i write width a data h
  rwa [eq] at k

/-! ### The management SPI and register access over the link -/

theorem spiIssue_wf (d : Dev) (h : Memory.wf m = true) : Memory.wf (spiIssue d m).2 = true := by
  unfold spiIssue
  split
  · exact h
  · dsimp only
    split
    case h_1 eq => exact wf_of_access eq h
    case h_2 eq => exact wf_of_access eq h

theorem spiDrain_wf (d : Dev) (h : Memory.wf m = true) : Memory.wf (spiDrain d m).2 = true :=
  foldl_wf (fun x _ => spiIssue_wf x.1) _ _ h

theorem spiReadWords_wf (n addr : Nat) (fix : Bool) (k : Nat) (failed : Option Nat) (d : Dev) (h : Memory.wf m = true) :
    Memory.wf (spiReadWords n addr fix k failed d m).2 = true := by
  induction n generalizing k failed d m with
  | zero => exact h
  | succ n ih =>
    unfold spiReadWords
    split
    · exact ih _ _ _ h
    · split
      case h_1 eq => exact ih _ _ _ (wf_of_access eq h)
      case h_2 eq => exact ih _ _ _ (wf_of_access eq h)

theorem spiReadFrame_wf (d : Dev) (addr : Nat) (fix : Bool) (count : Nat) (h : Memory.wf m = true) :
    Memory.wf (spiReadFrame d m addr fix count).2 = true := by
  unfold spiReadFrame
  split
  · exact h
  · exact spiReadWords_wf _ _ _ _ _ _ (spiDrain_wf d h)

theorem regAccesses_wf (n addr : Nat) (fix : Bool) (k : Nat) (write : Bool) (data got : List Word) (d : Dev)
    (h : Memory.wf m = true) : Memory.wf (regAccesses n addr fix k write data got d m).2.2.2.2 = true := by
  induction n generalizing k got d m with
  | zero => exact h
  | succ n ih =>
    unfold regAccesses
    split
    case h_1 eq => exact ih _ _ _ (wf_of_access eq h)
    case h_2 eq => exact wf_of_access eq h

theorem regRequest_wf (d : Dev) (op : Nat) (h : Memory.wf m = true) : Memory.wf (regRequest d m op).2 = true := by
  unfold regRequest
  split
  · exact h
  · split
    · exact h
    · extract_lets d1 write n body lo
      split
      · exact h
      · dsimp only
        split
        · exact h
        · split
          all_goals
            split
            · exact h
            · exact regAccesses_wf _ _ _ _ _ _ _ _ h

/-! ### Derrick and the check-value unit -/

theorem derrickWords_wf (n a : Nat) (got : List Word) (d : Dev) (h : Memory.wf m = true) :
    Memory.wf (derrickWords n a got d m).2.2 = true := by
  induction n generalizing a got d m with
  | zero => exact h
  | succ n ih =>
    unfold derrickWords
    split
    case h_1 eq => exact ih _ _ _ (wf_of_access eq h)
    case h_2 eq => exact wf_of_access eq h

theorem fetchDescriptor_wf (d : Dev) (a : Nat) (h : Memory.wf m = true) : Memory.wf (fetchDescriptor d m a).2.2 = true := by
  have k := derrickWords_wf 4 a [] d h
  unfold fetchDescriptor
  split
  · exact h
  · split
    case h_1 eq => rwa [eq] at k
    case h_2 eq =>
      rw [eq] at k
      dsimp only
      split <;> exact k

theorem descriptorFetch_wf (d : Dev) (h : Memory.wf m = true) : Memory.wf (descriptorFetch d m).2 = true := by
  unfold descriptorFetch
  split
  · exact h
  case h_2 c _ =>
    have k := fetchDescriptor_wf d d.derrick.ch[c].desc h
    dsimp only
    split
    · exact h
    · split
      case h_1 eq => rwa [eq] at k
      case h_2 eq => rwa [eq] at k

theorem funnelRead_wf (d : Dev) (c : Fin 8) (a : Nat) (h : Memory.wf m = true) : Memory.wf (funnelRead d m c a).2.2 = true := by
  unfold funnelRead
  extract_lets x held
  cases held with
  | some w => exact h
  | none =>
    dsimp only
    split
    case h_1 eq => exact wf_of_access eq h
    case h_2 eq => exact wf_of_access eq h

theorem beatSource_wf (d : Dev) (c : Fin 8) (s k : Nat) (h : Memory.wf m = true) : Memory.wf (beatSource d m c s k).2.2 = true := by
  unfold beatSource
  extract_lets lo hi first second
  have one := funnelRead_wf d c first h
  split
  case h_1 eq => rwa [eq] at one
  case h_2 d' m' eq =>
    rw [eq] at one
    have two := funnelRead_wf d' c second one
    split
    · exact one
    · split
      case h_1 eq' => rwa [eq'] at two
      case h_2 eq' => rwa [eq'] at two

theorem oneBeat_wf (d : Dev) (c : Fin 8) (h : Memory.wf m = true) : Memory.wf (oneBeat d m c).2.2 = true := by
  unfold oneBeat
  extract_lets x
  split
  next k _ _ =>
    extract_lets s t
    have source := beatSource_wf d c s k h
    split
    case h_1 eq => rwa [eq] at source
    case h_2 eq =>
      rw [eq] at source
      split
      case h_1 eq' => exact wf_of_access eq' source
      case h_2 eq' => exact wf_of_access eq' source

theorem burstBeats_wf (n : Nat) (d : Dev) (c : Fin 8) (h : Memory.wf m = true) : Memory.wf (burstBeats n d m c).2.2 = true := by
  induction n generalizing d m with
  | zero => exact h
  | succ n ih =>
    have beat := oneBeat_wf d c h
    unfold burstBeats
    dsimp only
    split
    case h_1 eq =>
      rw [eq] at beat
      split
      · exact ih _ beat
      · exact beat
    case h_2 => exact beat

/-- Words that are read ahead keep the form, whatever the read ends with. -/
theorem wf_of_derrickWords {d d' : Dev} {m' : Mem} {n a : Nat} {got : List Word} {x : List Word ⊕ BusCode × Nat}
    (eq : derrickWords n a got d m = (x, d', m')) (h : Memory.wf m = true) : Memory.wf m' = true := by
  have k := derrickWords_wf n a got d h
  rwa [eq] at k

theorem readAcross_wf (d : Dev) (h : Memory.wf m = true) : Memory.wf (readAcross d m).2 = true := by
  unfold readAcross
  split
  · exact h
  case h_2 c _ =>
    extract_lets x stop ahead
    have aheadKeeps : ∀ (d : Dev) (m : Mem) src n fix, Memory.wf m = true → Memory.wf (ahead d m src n fix).2 = true := by
      intro d m src n fix h
      dsimp only [ahead]
      split
      · exact h
      · split
        case h_1 eq => exact wf_of_derrickWords eq h
        case h_2 eq => exact wf_of_derrickWords eq h
    have fetched := fetchDescriptor_wf d x.desc h
    split
    · exact aheadKeeps _ _ _ _ _ h
    · split
      case h_1 eq => rwa [eq] at fetched
      case h_2 eq =>
        rw [eq] at fetched
        exact aheadKeeps _ _ _ _ _ fetched

theorem derrickBurst_wf (d : Dev) (h : Memory.wf m = true) : Memory.wf (derrickBurst d m).2 = true := by
  unfold derrickBurst
  split
  · exact h
  case h_2 c _ =>
    have beats := burstBeats_wf 16 d c h
    dsimp only
    split
    · exact h
    · split
      case h_1 eq =>
        rw [eq] at beats
        split
        · split
          · exact readAcross_wf _ beats
          · exact beats
        · exact beats
      case h_2 eq => rwa [eq] at beats
      case h_3 eq =>
        rw [eq] at beats
        split
        · split
          · exact Memory.wf_setBytes _ _ beats
          · exact beats
        · exact beats

theorem scanDone_wf (d : Dev) (h : Memory.wf m = true) : Memory.wf (scanDone d m).2 = true := by
  unfold scanDone
  split
  · exact h
  · split
    · exact h
    · exact copySeenIn_wf _ _ _ h

/-! ### Commands at their execution points -/

/-- A meaning of Table 11.4 keeps the canonical form. -/
def KeepsForm (f : Meaning) : Prop := ∀ (d : Dev) (m : Mem) (c : Cmd), Memory.wf m = true → Memory.wf (f d m c).2.2 = true

theorem keepsForm_opBeamLoad : KeepsForm opBeamLoad := by
  intro d m c h
  unfold opBeamLoad
  extract_lets ul ws
  generalize (d.inf Reg.BEAM_CFG).bit (if ul then 0 else 1) = solver
  split
  · exact h
  split
  · exact foldl_wf (fun x y => ashlarPut_wf x.1 _ _ _) _ (_, m) h
  split
  · exact h
  split <;> exact h

theorem keepsForm_opCalRestore : KeepsForm opCalRestore := by
  intro d m c h
  unfold opCalRestore
  extract_lets mram at_ len d1
  split
  · exact h
  · have spoilt := spoilOverlaps_wf d1 c.id h
    dsimp only
    split_ifs <;> exact spoilt

theorem keepsForm_opChisel : KeepsForm opChisel := by
  intro d m c h
  unfold opChisel
  split
  · unfold opChiselUnload
    dsimp only
    split <;> exact h
  · exact chiselLoadAt_wf _ _ _ _ h

end

end Sys2Proof.Machine

namespace Sys2Proof.Machine

section

variable {m : Mem}

/-- A meaning that answers the memory that it is given keeps the canonical form. -/
theorem keepsForm_of_same {f : Meaning} (same : ∀ d m c, (f d m c).2.2 = m) : KeepsForm f := by
  intro d m c h
  rwa [same]

/-- Where one of two answers is chosen, each with the same memory, that memory is answered. -/
theorem mem_ite {p : Prop} [Decidable p] {x y : Exec × Dev × Mem} (hx : x.2.2 = m) (hy : y.2.2 = m) :
    (if p then x else y).2.2 = m := by
  split
  · exact hx
  · exact hy

theorem keepsForm_opCalRun : KeepsForm opCalRun := by
  refine keepsForm_of_same fun d m c => ?_
  unfold opCalRun
  refine mem_ite rfl ?_
  split <;> rfl

theorem keepsForm_opPathRetire : KeepsForm opPathRetire := by
  refine keepsForm_of_same fun d m c => ?_
  unfold opPathRetire
  split
  · rfl
  · exact mem_ite rfl rfl

theorem keepsForm_opPathRestore : KeepsForm opPathRestore := by
  refine keepsForm_of_same fun d m c => ?_
  unfold opPathRestore
  split
  · rfl
  · exact mem_ite rfl (mem_ite rfl rfl)

theorem keepsForm_opBistRun : KeepsForm opBistRun := by
  refine keepsForm_of_same fun d m c => ?_
  unfold opBistRun
  split
  · rfl
  · exact mem_ite rfl rfl

theorem keepsForm_opUnlock : KeepsForm opUnlock := by
  refine keepsForm_of_same fun d m c => ?_
  unfold opUnlock
  split
  · unfold opUnlockChallenge
    split <;> rfl
  all_goals rfl

theorem keepsForm_opLifecycle : KeepsForm opLifecycle := by
  refine keepsForm_of_same fun d m c => ?_
  unfold opLifecycle
  refine mem_ite ?_ (mem_ite rfl (mem_ite rfl (mem_ite rfl rfl)))
  split <;> rfl

theorem keepsForm_meaningOf (op : Nat) : KeepsForm (meaningOf op) := by
  unfold meaningOf
  split
  case h_10 => exact keepsForm_opBeamLoad
  case h_14 => exact keepsForm_opCalRun
  case h_16 => exact keepsForm_opCalRestore
  case h_24 => exact keepsForm_opPathRetire
  case h_25 => exact keepsForm_opPathRestore
  case h_28 => exact keepsForm_opUnlock
  case h_29 => exact keepsForm_opLifecycle
  case h_31 => exact keepsForm_opChisel
  case h_32 => exact keepsForm_opBistRun
  case h_26 | h_30 => exact keepsForm_of_same fun _ _ _ => mem_ite rfl (mem_ite rfl rfl)
  case h_4 | h_7 | h_11 | h_12 | h_13 | h_15 | h_19 | h_21 | h_22 | h_27 => exact keepsForm_of_same fun _ _ _ => mem_ite rfl rfl
  all_goals exact keepsForm_of_same fun _ _ _ => rfl

theorem runMeaning_wf {f : Meaning} (keeps : KeepsForm f) (d : Dev) (id : Nat) (target : Option Nat) (h : Memory.wf m = true) :
    Memory.wf (runMeaning f d m id target).2 = true := by
  unfold runMeaning
  split
  · exact h
  next c _ =>
    extract_lets now
    have ran := keeps (d.modCmd id fun c => { c with time := now, stage := .working }) m c h
    split
    next r d' m' eq =>
      rw [eq] at ran
      split
      · exact ran
      · dsimp only
        split_ifs <;> exact ran
      · dsimp only
        split <;> exact ran

theorem executeTimed_wf {f : Meaning} (keeps : KeepsForm f) (d : Dev) (id : Nat) (h : Memory.wf m = true) :
    Memory.wf (executeTimed f d m id).2 = true := by
  unfold executeTimed
  split
  · exact h
  · split
    · exact runMeaning_wf keeps _ _ _ h
    · exact runMeaning_wf keeps _ _ _ h

theorem startCommand_wf {f : Meaning} (keeps : KeepsForm f) (d : Dev) (c : Cmd) (h : Memory.wf m = true) :
    Memory.wf (startCommand f d m c).2 = true := by
  unfold startCommand
  split
  · exact h
  split
  · split
    · exact executeTimed_wf keeps _ _ h
    split
    · exact executeTimed_wf keeps _ _ h
    split <;> exact h
  · exact runMeaning_wf keeps _ _ _ h

theorem headCommand_wf {f : Meaning} (keeps : KeepsForm f) (op : Nat) (form : List Word → Bool) (d : Dev)
    (h : Memory.wf m = true) : Memory.wf (headCommand op form f d m).2 = true := by
  unfold headCommand
  split
  · exact h
  · split
    · exact h
    · split
      · exact h
      · split
        · exact coreTestsNow_wf _ (startCommand_wf keeps _ _ h)
        · exact h

theorem timedCommandDue_wf (d : Dev) (h : Memory.wf m = true) : Memory.wf (timedCommandDue d m).2 = true := by
  unfold timedCommandDue
  split
  · exact h
  · split
    · exact h
    · exact coreTestsNow_wf _ (executeTimed_wf (keepsForm_meaningOf _) _ _ h)

/-! ### Work that ends -/

theorem weightMessage_wf (d : Dev) (h : Memory.wf m = true) : Memory.wf (weightMessage d m).2 = true := by
  unfold weightMessage
  split
  · exact h
  · exact weightLoad_wf _ _ h

theorem captureDone_wf (d : Dev) (samples : List Word) (h : Memory.wf m = true) : Memory.wf (captureDone d m samples).2 = true := by
  unfold captureDone
  split
  · exact h
  · exact spoilOverlaps_wf _ _ (Memory.wf_setWords _ _ h)

theorem bistDone_wf (d : Dev) (kind i mask : Nat) (h : Memory.wf m = true) : Memory.wf (bistDone d m kind i mask).2 = true := by
  unfold bistDone
  split
  · exact h
  · split
    · exact h
    · dsimp only
      split_ifs <;> exact coreTestsNow_wf _ h

/-! ### The cadence -/

theorem midCommands_wf (d : Dev) (h : Memory.wf m = true) : Memory.wf (midCommands d m).2 = true :=
  foldl_wf (fun x _ => runMeaning_wf (keepsForm_meaningOf _) x.1 _ _) _ (d, m) h

theorem midLanded_wf (d : Dev) (h : Memory.wf m = true) : Memory.wf (midLanded d m).2 = true := landAll_wf _ _ h

theorem midpoint_wf (d : Dev) (h : Memory.wf m = true) : Memory.wf (midpoint d m).2 = true := by
  have ended := midCommands_wf ((d.midReady m).dpdRests 1) (midLanded_wf d h)
  simpa only [midpoint_eq] using ended

theorem tickCores_wf (d : Dev) (nom : Nat) (h : Memory.wf m = true) : Memory.wf (tickCores d m nom).2 = true :=
  coreTestsTick_wf _ (chiselTick_wf _ _ h)

theorem tickAt_wf (d : Dev) (nom : Nat) (h : Memory.wf m = true) : Memory.wf (tickAt d m nom).2 = true := by
  have ended := tickCores_wf d nom h
  simpa only [tickAt_eq] using ended

/-- A seam midpoint that has not come precedes what needs it. -/
theorem midpointFirst_wf (d : Dev) (h : Memory.wf m = true) : Memory.wf (if d.cad.midDone then (d, m) else midpoint d m).2 = true := by
  split
  · exact h
  · exact midpoint_wf d h

theorem toNextEdge_wf (d : Dev) (h : Memory.wf m = true) : Memory.wf (toNextEdge d m).2 = true := by
  have mid := midpointFirst_wf d h
  unfold toNextEdge
  generalize (if d.cad.midDone then (d, m) else midpoint d m) = x at mid ⊢
  dsimp only
  split <;> exact mid

theorem stepAtEdge_wf (d : Dev) (h : Memory.wf m = true) : Memory.wf (stepAtEdge d m).2 = true := by
  unfold stepAtEdge
  extract_lets _ _ _ gap _ _ d3
  split
  · exact h
  · split
    · exact tickAt_wf _ _ h
    · exact h

theorem tick_wf (d : Dev) (h : Memory.wf m = true) : Memory.wf (tick d m).2 = true := by
  have edge := toNextEdge_wf d h
  unfold tick
  split
  · exact h
  · dsimp only
    split
    · exact edge
    split
    · exact stepAtEdge_wf _ edge
    · exact tickAt_wf _ _ edge

theorem stepApply_wf (d : Dev) (h : Memory.wf m = true) : Memory.wf (stepApply d m).2 = true := by
  have edge := toNextEdge_wf d h
  unfold stepApply
  split
  · split
    · exact h
    · dsimp only
      split
      · exact stepAtEdge_wf _ edge
      · exact edge
  · exact h

theorem stepForce_wf (d : Dev) (h : Memory.wf m = true) : Memory.wf (stepForce d m).2 = true := by
  have edge := toNextEdge_wf d h
  unfold stepForce
  split
  · dsimp only
    split
    · exact stepAtEdge_wf _ edge
    · exact edge
  · exact h

theorem ticksStart_wf (d : Dev) (h : Memory.wf m = true) : Memory.wf (ticksStart d m).2 = true := by
  by_cases waits : d.cad.startAt = none ∨ (d.cad.running || !d.time.adv) = true
  · rwa [ticksStart_not m waits]
  · rw [not_or, Bool.not_eq_true] at waits
    obtain ⟨start, idle⟩ := waits
    obtain ⟨f, hf⟩ := Option.ne_none_iff_exists'.mp start
    rw [ticksStart_due m hf idle]
    exact tickAt_wf _ _ h

theorem cutoff_wf (d : Dev) (h : Memory.wf m = true) : Memory.wf (cutoff d m).2 = true := by
  unfold cutoff
  split
  · exact h
  split
  · split <;> exact h
  · have mid : Memory.wf (if d.cad.midDone then (d, m) else midpoint d m).2 = true := midpointFirst_wf d h
    generalize (if d.cad.midDone then (d, m) else midpoint d m) = x at mid ⊢
    dsimp only
    split <;> exact mid

theorem slotCapture_wf (d : Dev) (s : Fin 32) (h : Memory.wf m = true) : Memory.wf (slotCapture d m s).2 = true := by
  unfold slotCapture
  split
  · exact h
  · extract_lets
    split
    · exact h
    · exact runMeaning_wf (keepsForm_meaningOf 0xB00) _ _ _ h

end

end Sys2Proof.Machine

namespace Sys2Proof.Machine

/-! ### Meanings -/

/-- Memory is in canonical form in what an outcome answers. -/
def WfAnswer (o : Out) : Prop := ∀ t, o = .next t → Memory.wf t.mem = true

theorem wfAnswer_next {t : State} (h : Memory.wf t.mem = true) : WfAnswer (.next t) := by
  rintro _ ⟨⟩
  exact h

theorem wfAnswer_refused (r : Refusal) : WfAnswer (.refused r) := by
  rintro _ ⟨⟩

/-- A command with a check of its operands answers what its meaning answers, or refuses. -/
theorem wfAnswer_checked {p : Prop} [Decidable p] {o : Out} (r : Refusal) (runs : WfAnswer o) :
    WfAnswer (if p then o else .refused r) := by
  split
  · exact runs
  · exact wfAnswer_refused r

/-- What a write that goes unanswered may have done (R378). -/
def unanswered (by_ : Initiator) (write : Bool) (addr : Nat) (d : Dev) (m : Mem) : Dev × Mem :=
  if write then
    if Config.freeNat d.freeCtr % 2 == 1 then
      settled (reach { d with freeCtr := d.freeCtr + 2 } m by_ true 32 addr (Config.freeWord (d.freeCtr + 1)).toNat).2
    else ({ d with freeCtr := d.freeCtr + 2 }, m)
  else (d, m)

/-- A register access without an answer, as what it may have done and the bus error that follows. -/
theorem execBusTimeout_eq (by_ : Initiator) (write : Bool) (addr : Nat) (s : State) : execBusTimeout by_ write addr s =
    onMem s fun d m =>
      if !inBlock addr || (d.stops by_ write 32 addr).isSome then (d, m)
      else ((((unanswered by_ write addr d m).1.busError by_ write 32 addr .timeout).report 223), (unanswered by_ write addr d m).2) := by
  unfold execBusTimeout unanswered
  generalize settled = f
  rfl
theorem unanswered_wf (by_ : Initiator) (write : Bool) (addr : Nat) (d : Dev) {m : Mem} (h : Memory.wf m = true) :
    Memory.wf (unanswered by_ write addr d m).2 = true := by
  unfold unanswered
  split
  · split
    · exact settled_wf _ (reach_wf _ _ _ _ _ _ h)
    · exact h
  · exact h

section

variable {s : State} (h : Memory.wf s.mem = true)

include h

theorem wfAnswer_onDev (f : Dev → Dev) : WfAnswer (onDev s f) := wfAnswer_next h

theorem wfAnswer_onMem {f : Dev → Mem → Dev × Mem} (keeps : ∀ d m, Memory.wf m = true → Memory.wf (f d m).2 = true) :
    WfAnswer (onMem s f) := wfAnswer_next (keeps _ _ h)

theorem wfAnswer_onSettled {f : Dev → Mem → Dev × Mem} (keeps : ∀ d m, Memory.wf m = true → Memory.wf (f d m).2 = true) :
    WfAnswer (onSettled s f) := wfAnswer_onMem h fun d m h => settled_wf _ (keeps d m h)

theorem wfAnswer_onCommit (f : Dev → Dev) : WfAnswer (onCommit s f) := wfAnswer_onSettled h fun _ _ h => h

theorem wfAnswer_onLink (f : Dev → Dev) : WfAnswer (onLink s f) := by
  unfold onLink
  exact wfAnswer_onCommit h _

theorem wfAnswer_onTime (f : Dev → Dev) : WfAnswer (onTime s f) := by
  unfold onTime
  exact wfAnswer_onCommit h _

theorem wfAnswer_onSump (f : Dev → Dev) : WfAnswer (onSump s f) := by
  unfold onSump
  exact wfAnswer_onCommit h _

/-- A row of an opcode runs that opcode's meaning of Table 11.4. -/
theorem wfAnswer_opRow {op : Nat} {f : Meaning} (row : meaningOf op = f) : WfAnswer (opRow op f s) :=
  wfAnswer_onSettled h fun d _ h => headCommand_wf (row ▸ keepsForm_meaningOf op) _ _ d h

theorem wfAnswer_unlessNow {o : Out} (p : Instr → Bool) (expires : WfAnswer o) : WfAnswer (unlessNow s p o) := by
  unfold unlessNow
  split
  · exact wfAnswer_next h
  · exact expires

/-- An instruction of a core that writes no memory keeps the form. -/
theorem wfAnswer_loads (c : Fin 16) (need : Ctx → Nat) (ok : Kernel → Ctx → Bool) (f : Mem → Ctx → Nat → Ctx) :
    WfAnswer (onMem s fun v m => issueMem v m c need ok (f m) fun _ => m) :=
  wfAnswer_onMem h fun _ _ h => issueMem_wf _ _ _ _ _ (fun _ => h) h

theorem wfAnswer_regRequest (op : Nat) : WfAnswer (onMem s fun d m => regRequest d m op) :=
  wfAnswer_onMem h fun d _ h => regRequest_wf d op h

theorem wfAnswer_busTimeout (by_ : Initiator) (write : Bool) (addr : Nat) : WfAnswer (execBusTimeout by_ write addr s) := by
  rw [execBusTimeout_eq]
  refine wfAnswer_onMem h fun d m h => ?_
  split
  · exact h
  · exact unanswered_wf by_ write addr d h

theorem wfAnswer_dormantNoReturn : WfAnswer (execDormantNoReturn s) := by
  unfold execDormantNoReturn
  refine wfAnswer_onSettled h fun d m h => ?_
  split
  · exact logDrain_wf d h
  · exact h

/-- Every meaning keeps the canonical form of memory. -/
theorem exec_wfAnswer (c : Instr) : WfAnswer (exec c s) := by
  cases c <;> dsimp only [exec]
  case stateTransitionDone | loQualLost | loQualified | vtTrackExit | reliefSlotStart | reliefWindowClose | reliefCompareDone
      | reliefCalEnd | solverCycleStart | sliceMismatch | sliceCheckFail | orxCaptureDone | dpdUpdateStart | vrefCheck |
      calMeasurementDone | calRunDone | restoreDone | fwHandoverDone | schedTileLevel | biasFrameReceived | corufRailLoss |
      corufRailGood | spanChangeDone | biasScPersist | biasTestDone | biasOcTrip | paoffHighTimer | powerTransitionDone |
      dormantSafeConfirmed => exact wfAnswer_onCommit h _
  case trainingFrameReceived | lqfWindow | laneLockLost | laneQualifyDone | laneBackoffExpire | laneProbe | laneFastExit |
      laneSetSwitch | sampleMessage | soundingMessage | linkProposal | linkNotice | linkShedReport | dlBoundMissing |
      sampleMsgAbandon => exact wfAnswer_onLink h _
  case timeSync | timeDelayResp | ppsSecond | ppsWidthEnd | ppsInEdge | tsyncInstant | tsyncEdge => exact wfAnswer_onTime h _
  case sumpReport | sumpWireFault | sumpWireRecover | sumpHoldEnd | faultnPulseEnd | faultnExtFall | avsStep | avsMarginLow =>
    exact wfAnswer_onSump h _
  case dpdCapTimeout | calRunTimeout | beamLoadTimeout | biasLinkWatchdog | powerSynthTimeout =>
    exact wfAnswer_unlessNow h _ (wfAnswer_onCommit h _)
  case laneAttemptTimeout => exact wfAnswer_unlessNow h _ (wfAnswer_onLink h _)
  case delayRespTimeout | holdoverTimeout | candidateTimeout | tsyncEdgeTimeout =>
    exact wfAnswer_unlessNow h _ (wfAnswer_onTime h _)
  case cadenceRunStart | cadenceRunStop | cadenceCfgWrite | synFracWrite | iqTap0Write | beamMirror | dpdPageCommit |
      dpdAdaptRequest | qmapCfgWrite | laneSleepRequest | laneEnableWrite | drunasSubmitWrite | flushReply | flushSubmit |
      timeIncSetWrite | timeCfgWrite | schedArm | biasTestStart | biasTripClear | biasCfgWrite | derrickStart | derrickResume
      | derrickAbort | checkScanStart | checkDataFeed | powerReqWrite | secCfgWrite =>
    exact wfAnswer_onMem h fun d _ h => writeWord_wf d _ _ _ h
  case drunasReplyRead | tsqPop | logDataRead => exact wfAnswer_onMem h fun d _ h => readWord_wf d _ _ h
  case sysPing | sysInfo | sysCancel | pwrRequest | pwrStatus | radioSetState | carrierConfig | powerStep | beamMode |
      beamLoad | solverConfig | dpdConfig | dpdBankSelect | calRun | calSnapshot | calRestore | quietMap | timeStep |
      timeSchedule | timeStatus | biasSet | biasSpan | faultQuery | pathRetire | pathRestore | fwStage | fwActivate |
      lifecycle | capture | bistRun => exact wfAnswer_opRow h rfl
  case tick => exact wfAnswer_onSettled h fun d _ h => tick_wf d h
  case cutoff => exact wfAnswer_onSettled h fun d _ h => cutoff_wf d h
  case seamMidpoint =>
    refine wfAnswer_onSettled h fun d m h => ?_
    split
    · exact midpoint_wf d h
    · exact h
  case ticksStart => exact wfAnswer_onSettled h fun d _ h => ticksStart_wf d h
  case stepApply => exact wfAnswer_onSettled h fun d _ h => stepApply_wf d h
  case stepForceTimeout => exact wfAnswer_unlessNow h _ (wfAnswer_onSettled h fun d _ h => stepForce_wf d h)
  case schedCapture s => exact wfAnswer_onSettled h fun d _ h => slotCapture_wf d s h
  case mirrorCopyDone => exact wfAnswer_onSettled h fun d _ h => mirrorDone_wf d h
  case ashlarWrite by_ addr w =>
    refine wfAnswer_checked _ (wfAnswer_onMem h fun d m h => ?_)
    split
    · exact writeWord_wf d _ _ _ h
    · exact ashlarDirect_wf _ _ _ d h
  case ashlarEccError => exact wfAnswer_checked _ (wfAnswer_onCommit h _)
  case codewordReceived | cellReceived => exact wfAnswer_checked _ (wfAnswer_onLink h _)
  case thermalSample => exact wfAnswer_checked _ (wfAnswer_onSump h _)
  case solverCycleDeadline a => exact wfAnswer_onSettled h fun d _ h => solverDeadline_wf a d h
  case dpdLutDataAccess by_ write =>
    refine wfAnswer_onMem h fun d m h => ?_
    cases write with
    | none => exact readWord_wf d _ _ h
    | some w => exact writeWord_wf d _ _ _ h
  case dpdUpdateDone p luts => exact wfAnswer_checked _ (wfAnswer_onSettled h fun d _ h => updateDone_wf d p luts h)
  case snapshotDone => exact wfAnswer_onSettled h fun d _ h => snapshotEnds_wf d h
  case ld | vld | vld2 | vmac | vmacc | tapmv | vcmac => exact wfAnswer_loads h _ _ _ _
  case st => exact wfAnswer_onMem h fun _ _ h => issueMem_wf _ _ _ _ _ (fun _ => Memory.wf_setWord _ _ h) h
  case vst | vsta => exact wfAnswer_onMem h fun _ _ h => issueMem_wf _ _ _ _ _ (fun _ => Memory.wf_setWords _ _ h) h
  case xfer c a b toCluster bytes => exact wfAnswer_onMem h fun d _ h => issueXfer_wf d c a b toCluster bytes.toNat h
  case xferDone c n => exact wfAnswer_onMem h fun d _ h => xferComplete_wf d c n h
  case illegalInstruction =>
    refine wfAnswer_onMem h fun d m h => ?_
    split
    · exact stopActivation_wf _ _ _ h
    · exact h
  case activationOverrun => exact wfAnswer_unlessNow h _ (wfAnswer_onMem h fun _ _ h => stopActivation_wf _ _ _ h)
  case chiselEccError =>
    refine wfAnswer_onMem h fun d m h => ?_
    split
    · exact h
    · exact stopActivation_wf _ _ _ h
  case vdspSettleTimeout => exact wfAnswer_unlessNow h _ (wfAnswer_onMem h fun d _ h => vdspTimeout_wf d h)
  case weightLoadMessage => exact wfAnswer_onSettled h fun d _ h => weightMessage_wf d h
  case timedCommandDue => exact wfAnswer_onSettled h fun d _ h => timedCommandDue_wf d h
  case debugUnlockChallenge | debugUnlockResponse | debugUnlockClose =>
    exact wfAnswer_onSettled h fun d _ h => headCommand_wf keepsForm_opUnlock _ _ d h
  case chiselLoad | chiselUnload => exact wfAnswer_onSettled h fun d _ h => headCommand_wf keepsForm_opChisel _ _ d h
  case captureDone samples => exact wfAnswer_onSettled h fun d _ h => captureDone_wf d samples h
  case bistDone kind i mask => exact wfAnswer_onSettled h fun d _ h => bistDone_wf d kind i mask h
  case fwStageDone | schedCommand | thermalSettled => exact wfAnswer_onSettled h fun _ _ h => h
  case startPhaseTimeout => exact wfAnswer_unlessNow h _ (wfAnswer_onSettled h fun _ _ h => h)
  case startPhaseDone => exact wfAnswer_onSettled h fun d _ h => startPhase_wf d h
  case dormantNoReturn => exact wfAnswer_dormantNoReturn h
  case registerWrite by_ width addr data =>
    exact wfAnswer_checked _ (wfAnswer_checked _ (wfAnswer_onMem h fun d _ h => access_wf d _ _ _ _ _ h))
  case busTimeout by_ write addr => exact wfAnswer_busTimeout h by_ write addr
  case regAccessRead | regAccessWrite | regAccessAuthRead | regAccessAuthWrite => exact wfAnswer_regRequest h _
  case spiRead addr count => exact wfAnswer_onMem h fun d _ h => spiReadFrame_wf d addr.toNat false count h
  case spiReadFix addr count => exact wfAnswer_onMem h fun d _ h => spiReadFrame_wf d addr.toNat true count h
  case spiQueuedWrite => exact wfAnswer_onMem h fun d _ h => spiIssue_wf d h
  case derrickDescriptorFetch => exact wfAnswer_onMem h fun d _ h => descriptorFetch_wf d h
  case derrickBurst => exact wfAnswer_onMem h fun d _ h => derrickBurst_wf d h
  case checkScanDone => exact wfAnswer_onMem h fun d _ h => scanDone_wf d h
  case logRecordWrite =>
    refine wfAnswer_onMem h fun d m h => ?_
    split
    · exact logWrite_wf d h
    · exact h
  case pgoodTimeout => exact wfAnswer_unlessNow h _ (wfAnswer_onDev h _)
  all_goals exact wfAnswer_onDev h _

end

end Sys2Proof.Machine

namespace Sys2Proof.Cert

open Sys2Proof.Machine

/-- Settles O4: a command's meaning keeps the form, and the idle step touches no memory. -/
theorem stepKeepsMemoryForm : Obligations.StepKeepsMemoryForm := by
  unfold Obligations.StepKeepsMemoryForm
  intro s t h next
  unfold step at next
  split at next
  · cases next
    exact h
  next c rest _ => exact exec_wfAnswer (s := { s with pending := rest }) h c t next

end Sys2Proof.Cert

/-!
PROOFS. What a step answers, whatever the command: a well-formed command is answered with a next state that keeps the queue, an
ill-formed one is refused; an idle step passes one cycle; and where nothing waits nothing follows an event.
-/

namespace Sys2Proof.Machine

/-- An outcome is a next state with the queue of `s`. -/
def KeepsQueue (s : State) (o : Out) : Prop := ∃ d m, o = .next { s with dev := d, mem := m }

theorem keepsQueue_unlessNow {s : State} {o : Out} (p : Instr → Bool) (expires : KeepsQueue s o) : KeepsQueue s (unlessNow s p o) := by
  unfold unlessNow
  split
  · exact ⟨s.dev, s.mem, rfl⟩
  · exact expires

theorem keepsQueue_if {s : State} {p : Prop} [Decidable p] {o o' : Out} (h : p) (runs : KeepsQueue s o) :
    KeepsQueue s (if p then o else o') := by
  rwa [if_pos h]

/-- The bound of `Instr.wf` on an address is the test of the meaning for a word of the Ashlar window. -/
theorem isAshlarWord_iff {a : Nat} : isAshlarWord a = true ↔ ashlarFirst ≤ a ∧ a ≤ ashlarLast ∧ a % 4 = 0 := by
  simp [isAshlarWord, ashlarFirst, ashlarLast]
  omega

/-- The bounds of `Instr.wf` on an access are the tests of its meaning. -/
theorem registerWrite_wf_iff {i : Initiator} {width addr : Nat} {data : BitVec 64} :
    (Instr.registerWrite i width addr data).wf = true ↔
      (width = 8 ∨ width = 16 ∨ width = 32 ∨ width = 64) ∧ addr < 4294967296 := by
  simp [Instr.wf, accessWidths]

/-- A well-formed command runs and leaves the queue alone. -/
theorem exec_keepsQueue {c : Instr} (wf : c.wf = true) (s : State) : KeepsQueue s (exec c s) := by
  cases c <;> dsimp only [exec]
  case registerWrite =>
    obtain ⟨width, addr⟩ := registerWrite_wf_iff.mp wf
    exact keepsQueue_if width (keepsQueue_if addr ⟨_, _, rfl⟩)
  case ashlarWrite => exact keepsQueue_if (isAshlarWord_iff.mpr (of_decide_eq_true wf)) ⟨_, _, rfl⟩
  case ashlarEccError => exact keepsQueue_if (isAshlarWord_iff.mpr (of_decide_eq_true wf)) ⟨_, _, rfl⟩
  case dpdUpdateDone => exact keepsQueue_if (of_decide_eq_true wf) ⟨_, _, rfl⟩
  case codewordReceived => exact keepsQueue_if (of_decide_eq_true wf) ⟨_, _, rfl⟩
  case cellReceived => exact keepsQueue_if (of_decide_eq_true wf) ⟨_, _, rfl⟩
  case thermalSample => exact keepsQueue_if (of_decide_eq_true wf) ⟨_, _, rfl⟩
  case dpdCapTimeout | calRunTimeout | beamLoadTimeout | biasLinkWatchdog | powerSynthTimeout | laneAttemptTimeout | delayRespTimeout |
      holdoverTimeout | candidateTimeout | tsyncEdgeTimeout | stepForceTimeout | startPhaseTimeout | activationOverrun | vdspSettleTimeout |
      pgoodTimeout =>
    exact keepsQueue_unlessNow _ ⟨_, _, rfl⟩
  all_goals exact ⟨_, _, rfl⟩

/-- An ill-formed command is refused: only the seven commands with bounds can be one. -/
theorem exec_refused_of_not_wf {c : Instr} (ill : c.wf = false) (s : State) : exec c s = .refused .illFormed := by
  cases c
  case registerWrite =>
    have bad := mt registerWrite_wf_iff.mpr (Bool.eq_false_iff.mp ill)
    dsimp only [exec]
    unfold execRegisterWrite
    split
    · exact if_neg fun addr => bad ⟨‹_›, addr⟩
    · rfl
  case ashlarWrite => exact if_neg (mt isAshlarWord_iff.mp (of_decide_eq_false ill))
  case ashlarEccError => exact if_neg (mt isAshlarWord_iff.mp (of_decide_eq_false ill))
  case dpdUpdateDone => exact if_neg (of_decide_eq_false ill)
  case codewordReceived => exact if_neg (of_decide_eq_false ill)
  case cellReceived => exact if_neg (of_decide_eq_false ill)
  case thermalSample => exact if_neg (of_decide_eq_false ill)
  all_goals exact Bool.noConfusion ill

/-- Where no change waits, none settles. -/
theorem settle_quiet {d : Dev} (m : Mem) (changes : d.cad.changes = []) (proposals : d.link.proposals = []) : settle d m = (d, m) := by
  unfold settle
  split
  · rfl
  · simp [changes, proposals]

end Sys2Proof.Machine

namespace Sys2Proof.Cert

open Sys2Proof.Machine

/-- Settles O1: a queue that is not empty gives its front. -/
theorem stepRunsFrontCommand : Obligations.StepRunsFrontCommand := by
  intro c rest s queue
  simp only [step, queue]

/-- Settles O2: an idle step is `Dev.passCycles 1` where the cadence unit lets a cycle pass. -/
theorem idleStepPassesOneCycle : Obligations.IdleStepPassesOneCycle := by
  intro s queue
  have idles : step s = idle s := by simp only [step, queue]
  refine ⟨fun passes => ⟨withDev s (s.dev.passCycles 1), ?_, rfl, queue, rfl, rfl, ?_, rfl⟩, fun stays => ?_⟩
  · rw [idles, idle, if_pos passes]
    rfl
  · simp [withDev, Dev.passCycles]
  · rw [idles, idle, if_neg (by simp [stays])]

/-- Settles O3: `exec_keepsQueue` for the well-formed commands, `exec_refused_of_not_wf` for the others. -/
theorem meaningsAnswer : Obligations.MeaningsAnswer := by
  refine ⟨fun c s t runs => ?_, fun c s => ⟨fun wf => ?_, fun ill => exec_refused_of_not_wf ill s⟩⟩
  · cases wf : c.wf
    · rw [exec_refused_of_not_wf wf] at runs
      cases runs
    · obtain ⟨d, m, answer⟩ := exec_keepsQueue wf s
      rw [answer] at runs
      cases runs
      rfl
  · obtain ⟨d, m, answer⟩ := exec_keepsQueue wf s
    exact ⟨_, answer⟩

/-- Settles O5: the empty memory lists no address. -/
theorem resetMemoryForm : Obligations.ResetMemoryForm := rfl

/-- Settles O7: with nothing to land `settle` changes nothing, and with no command open no final reply is due. -/
theorem quietStatesSettle : Obligations.QuietStatesSettle := by
  rintro d m ⟨cmds, running | ⟨changes, proposals⟩⟩
  · exact settled_running d m running cmds
  · have stays := settle_quiet m changes proposals
    simp only [settled, stays, Dev.finalise]
    rw [Dev.finals_nil _ _ _ cmds]

end Sys2Proof.Cert

/-!
PROOFS. Of several commits of one setting the latest wins: among the changes of a setting exactly one is greatest by stamp, rank and
position, the order in which `losesTo` decides, and that one alone is kept. And the state after power-on reset.
-/

namespace Sys2Proof.Machine

/-- The order of R43 and R54 on numbered changes: by stamp, then by rank, then by position. -/
def commitOrder (x : Change × Nat) : ℕ ×ₗ ℕ ×ₗ ℕ := toLex (x.1.stamp, toLex (x.1.rank, x.2))

theorem losesTo_iff {x y : Change × Nat} :
    losesTo x.1 x.2 y.1 y.2 = true ↔ y.1.key = x.1.key ∧ commitOrder x < commitOrder y := by
  simp [losesTo, commitOrder, Prod.Lex.toLex_lt_toLex]

/-- A numbered change loses to another of the list. -/
def losesIn (ls : List Change) (x : Change × Nat) : Bool := ls.zipIdx.any fun y => losesTo x.1 x.2 y.1 y.2

theorem losesIn_eq_false_iff {ls : List Change} {x : Change × Nat} :
    losesIn ls x = false ↔ ∀ y ∈ ls.zipIdx, y.1.key = x.1.key → commitOrder y ≤ commitOrder x := by
  simp only [losesIn, List.any_eq_false, losesTo_iff, not_and, not_lt]

theorem exists_position {ls : List Change} {x : Change} (mem : x ∈ ls) : ∃ i, (x, i) ∈ ls.zipIdx := by
  rw [← List.zipIdx_map_fst 0 ls] at mem
  obtain ⟨⟨y, i⟩, numbered, rfl⟩ := List.mem_map.mp mem
  exact ⟨i, numbered⟩

/-- What is kept are the changes that lose to none, and the others are lost. -/
theorem superseded_eq (ls : List Change) :
    superseded ls = ((ls.zipIdx.filter fun x => !losesIn ls x).map (·.1), (ls.zipIdx.filter (losesIn ls)).map (·.1)) := by
  have kept : ∀ x ∈ ls.zipIdx, (!(ls.zipIdx.filter (losesIn ls)).contains x) = !losesIn ls x := by
    intro x mem
    rw [Bool.eq_iff_iff]
    simp [mem]
  exact Prod.ext (congrArg (List.map Prod.fst) (List.filter_congr kept)) rfl

theorem superseded_length (ls : List Change) : (superseded ls).1.length + (superseded ls).2.length = ls.length := by
  have split := List.length_eq_length_filter_add (l := ls.zipIdx) (losesIn ls)
  simp only [superseded_eq, List.length_map]
  rw [List.length_zipIdx] at split
  omega

/-- Kept changes have different settings: of two of one setting the one that comes first would lose. -/
theorem superseded_pairwise (ls : List Change) : (superseded ls).1.Pairwise fun a b => a.key ≠ b.key := by
  have numbered : ls.zipIdx.Pairwise fun x y => x.2 < y.2 := by
    have range : (ls.zipIdx.map (·.2)).Pairwise (· < ·) := by
      rw [List.zipIdx_map_snd]
      exact List.pairwise_lt_range'
    exact List.pairwise_map.mp range
  rw [superseded_eq, List.pairwise_map]
  refine (numbered.filter _).imp_of_mem fun {x y} hx hy lt key => ?_
  obtain ⟨xMem, xKept⟩ := List.mem_filter.mp hx
  obtain ⟨yMem, yKept⟩ := List.mem_filter.mp hy
  have le := losesIn_eq_false_iff.mp (Bool.not_eq_true' _ ▸ xKept) y yMem key.symm
  have ge := losesIn_eq_false_iff.mp (Bool.not_eq_true' _ ▸ yKept) x xMem key
  have same : commitOrder x = commitOrder y := le_antisymm ge le
  simp [commitOrder] at same
  omega

/-- Every setting of the list keeps a change: the greatest of its own. -/
theorem exists_mem_superseded {ls : List Change} {x : Change} (mem : x ∈ ls) : ∃ c ∈ (superseded ls).1, c.key = x.key := by
  obtain ⟨i, numbered⟩ := exists_position mem
  have nonempty : (ls.zipIdx.filter fun y => y.1.key == x.key).toFinset.Nonempty := ⟨(x, i), by simp [numbered]⟩
  obtain ⟨c, cMem, greatest⟩ := Finset.exists_max_image _ commitOrder nonempty
  simp only [List.mem_toFinset, List.mem_filter, beq_iff_eq] at cMem greatest
  obtain ⟨cMem, key⟩ := cMem
  have kept := losesIn_eq_false_iff.mpr fun y yMem yKey => greatest y ⟨yMem, yKey.trans key⟩
  refine ⟨c.1, ?_, key⟩
  rw [superseded_eq]
  exact List.mem_map_of_mem (List.mem_filter.mpr ⟨cMem, by simp [kept]⟩)

/-- A kept change is of the list, and none of its setting was committed after it or, in its cycle, by an initiator that comes later. -/
theorem superseded_latest {ls : List Change} {c : Change} (kept : c ∈ (superseded ls).1) :
    c ∈ ls ∧ ∀ x ∈ ls, x.key = c.key → x.stamp < c.stamp ∨ (x.stamp = c.stamp ∧ x.rank ≤ c.rank) := by
  rw [superseded_eq] at kept
  obtain ⟨n, nKept, rfl⟩ := List.mem_map.mp kept
  obtain ⟨nMem, wins⟩ := List.mem_filter.mp nKept
  refine ⟨List.zipIdx_map_fst 0 ls ▸ List.mem_map_of_mem nMem, fun x mem key => ?_⟩
  obtain ⟨i, numbered⟩ := exists_position mem
  have le := losesIn_eq_false_iff.mp (Bool.not_eq_true' _ ▸ wins) (x, i) numbered key
  simp only [commitOrder, Prod.Lex.toLex_le_toLex] at le
  omega

end Sys2Proof.Machine

namespace Sys2Proof.Cert

open Sys2Proof.Machine

/-- Settles O8: the kept changes are the greatest of their settings by stamp, rank and position. -/
theorem latestCommitWins : Obligations.LatestCommitWins := fun ls =>
  ⟨superseded_pairwise ls, fun _ => exists_mem_superseded, superseded_length ls, fun _ kept => (superseded_latest kept).1,
    fun _ kept => (superseded_latest kept).2⟩

/-- Settles O34: every part of the reset state is the reset value that its definition names. -/
theorem resetState : Obligations.ResetState := by
  refine ⟨rfl, rfl, rfl, rfl, rfl, rfl, rfl, rfl, rfl, fun t => ?_, rfl, rfl, rfl, rfl, fun _ => rfl, fun _ => rfl, fun t => ?_,
    fun p => ?_, rfl, rfl, rfl, rfl, rfl⟩
  · simp [State.reset, Dev.reset, Power.reset]
  · simp [State.reset, Dev.reset, Tile.reset]
  · simp [State.reset, Dev.reset, PathSt.reset]

end Sys2Proof.Cert

/-!
PROOFS. What an event leaves unchanged, field by field, from `Dev.raise_frame`.
-/

namespace Sys2Proof.Machine

section

variable (d : Dev) (a b : Nat)

@[simp] theorem Dev.raise_inforce : (d.raise a b).inforce = d.inforce := by
  obtain ⟨m, rs, sc, h⟩ := d.raise_frame a b
  rw [h]
@[simp] theorem Dev.raise_staged : (d.raise a b).staged = d.staged := by
  obtain ⟨m, rs, sc, h⟩ := d.raise_frame a b
  rw [h]
@[simp] theorem Dev.raise_cad : (d.raise a b).cad = d.cad := by
  obtain ⟨m, rs, sc, h⟩ := d.raise_frame a b
  rw [h]
@[simp] theorem Dev.raise_tiles : (d.raise a b).tiles = d.tiles := by
  obtain ⟨m, rs, sc, h⟩ := d.raise_frame a b
  rw [h]
@[simp] theorem Dev.raise_paths : (d.raise a b).paths = d.paths := by
  obtain ⟨m, rs, sc, h⟩ := d.raise_frame a b
  rw [h]
@[simp] theorem Dev.raise_relief : (d.raise a b).relief = d.relief := by
  obtain ⟨m, rs, sc, h⟩ := d.raise_frame a b
  rw [h]
@[simp] theorem Dev.raise_sump : (d.raise a b).sump = d.sump := by
  obtain ⟨m, rs, sc, h⟩ := d.raise_frame a b
  rw [h]
@[simp] theorem Dev.raise_spi : (d.raise a b).spi = d.spi := by
  obtain ⟨m, rs, sc, h⟩ := d.raise_frame a b
  rw [h]
@[simp] theorem Dev.raise_derrick : (d.raise a b).derrick = d.derrick := by
  obtain ⟨m, rs, sc, h⟩ := d.raise_frame a b
  rw [h]
@[simp] theorem Dev.raise_power : (d.raise a b).power = d.power := by
  obtain ⟨m, rs, sc, h⟩ := d.raise_frame a b
  rw [h]
@[simp] theorem Dev.raise_sec : (d.raise a b).sec = d.sec := by
  obtain ⟨m, rs, sc, h⟩ := d.raise_frame a b
  rw [h]
@[simp] theorem Dev.raise_time : (d.raise a b).time = d.time := by
  obtain ⟨m, rs, sc, h⟩ := d.raise_frame a b
  rw [h]
@[simp] theorem Dev.raise_lanes : (d.raise a b).lanes = d.lanes := by
  obtain ⟨m, rs, sc, h⟩ := d.raise_frame a b
  rw [h]
@[simp] theorem Dev.raise_chisel : (d.raise a b).chisel = d.chisel := by
  obtain ⟨m, rs, sc, h⟩ := d.raise_frame a b
  rw [h]
@[simp] theorem Dev.raise_beam : (d.raise a b).beam = d.beam := by
  obtain ⟨m, rs, sc, h⟩ := d.raise_frame a b
  rw [h]
@[simp] theorem Dev.raise_dpd : (d.raise a b).dpd = d.dpd := by
  obtain ⟨m, rs, sc, h⟩ := d.raise_frame a b
  rw [h]
@[simp] theorem Dev.raise_cal : (d.raise a b).cal = d.cal := by
  obtain ⟨m, rs, sc, h⟩ := d.raise_frame a b
  rw [h]
@[simp] theorem Dev.raise_bias : (d.raise a b).bias = d.bias := by
  obtain ⟨m, rs, sc, h⟩ := d.raise_frame a b
  rw [h]
@[simp] theorem Dev.raise_sig : (d.raise a b).sig = d.sig := by
  obtain ⟨m, rs, sc, h⟩ := d.raise_frame a b
  rw [h]
@[simp] theorem Dev.raise_freeCtr : (d.raise a b).freeCtr = d.freeCtr := by
  obtain ⟨m, rs, sc, h⟩ := d.raise_frame a b
  rw [h]

@[simp] theorem Dev.inf_raise (x : Nat) : (d.raise a b).inf x = d.inf x := by simp only [Dev.inf, Dev.raise_inforce]

end

end Sys2Proof.Machine

/-!
PROOFS. Floating-point and vector instructions of a Chisel core, its loads, stores and multiply-accumulates (R218, R219, R224 to R229).
Each lane-wise row is one function of a lane (`laneVec`); an access inside the kernel's allocation replaces the core's registers and the
bytes that it stores.
-/

namespace Sys2Proof.Machine

/-! ### Lanes -/

/-- The flags gathered over lanes hold a bit where it stood before or where the flags of a lane hold it. -/
theorem testBit_foldl_or {α : Type} (f : α → Nat) (is : List α) (n b : Nat) :
    (is.foldl (fun n i => n ||| f i) n).testBit b = (n.testBit b || is.any fun i => (f i).testBit b) := by
  induction is generalizing n with
  | nil => simp
  | cons i is ih => simp [ih, Bool.or_assoc]

/-! ### Words of memory -/

theorem Mem.word_setWord_ne (m : Mem) (a : Nat) (w : Word) {b : Nat} (apart : b + 4 ≤ a ∨ a + 4 ≤ b) :
    Mem.word (Mem.setWord m a w) b = Mem.word m b := by
  simp only [Mem.word]
  rw [Mem.get_setWord_out m a w (b := b) (by omega), Mem.get_setWord_out m a w (b := b + 1) (by omega),
    Mem.get_setWord_out m a w (b := b + 2) (by omega), Mem.get_setWord_out m a w (b := b + 3) (by omega)]

theorem Mem.get_setWords_out (m : Mem) (a : Nat) (ws : List Word) {b : Nat} (out : b < a ∨ a + 4 * ws.length ≤ b) :
    Mem.get (Mem.setWords m a ws) b = Mem.get m b := by
  induction ws generalizing m a with
  | nil => rfl
  | cons w ws ih =>
    rw [List.length_cons] at out
    rw [Mem.setWords, ih _ _ (by omega), Mem.get_setWord_out m a w (by omega)]

theorem Mem.word_setWords_below (m : Mem) (a : Nat) (ws : List Word) {b : Nat} (below : b + 4 ≤ a) :
    Mem.word (Mem.setWords m a ws) b = Mem.word m b := by
  simp only [Mem.word]
  rw [Mem.get_setWords_out m a ws (b := b) (by omega), Mem.get_setWords_out m a ws (b := b + 1) (by omega),
    Mem.get_setWords_out m a ws (b := b + 2) (by omega), Mem.get_setWords_out m a ws (b := b + 3) (by omega)]

theorem Mem.word_setWords_in (m : Mem) (a : Nat) (ws : List Word) {i : Nat} (h : i < ws.length) :
    Mem.word (Mem.setWords m a ws) (a + 4 * i) = ws[i] := by
  induction ws generalizing m a i with
  | nil => exact absurd h (Nat.not_lt_zero i)
  | cons w ws ih =>
    rw [Mem.setWords]
    cases i with
    | zero => exact (Mem.word_setWords_below _ (a + 4) ws (le_refl _)).trans (Mem.word_setWord_same m a w)
    | succ i =>
      have next := ih (Mem.setWord m a w) (a + 4) (Nat.lt_of_succ_lt_succ h)
      rwa [show a + 4 + 4 * i = a + 4 * (i + 1) by omega] at next

end Sys2Proof.Machine

namespace Sys2Proof.Cert

open Sys2Proof.Machine

theorem laneWise_laneVec (f : Fin 16 → Fp) (old : Nat) : LaneWise (laneVec f).1 (old ||| (laneVec f).2) old f := by
  refine ⟨fun i => by simp [laneVec], fun b => ?_⟩
  rw [laneVec, Nat.testBit_or, testBit_foldl_or, Nat.zero_testBit, Bool.false_or]

section

variable {s : State} {i : Instr} {c : Fin 16} {k : Kernel}

/-- A row whose result differs from the core's registers in one vector register, and in the flags, writes that register. -/
theorem writesVector_of_issue {need : Ctx → Nat} {cycles : Nat} {f : Ctx → Nat → Ctx} {r : Fin 32} {w : Vector Word 16} {fl : Nat}
    (row : exec i s = onDev s fun v => v.issue c need cycles f) (run : Issues s c k)
    (result : ∀ t, let y := f (ctxOf s c) t
      y.v = (ctxOf s c).v.set r w ∧ y.s = (ctxOf s c).s ∧ y.a = (ctxOf s c).a ∧ y.flags = fl) :
    WritesVector s i c r w fl := by
  obtain ⟨t, next⟩ := exec_of_issue row run
  exact ⟨_, next, by simpa using result t⟩

/-- A vector instruction of two sources whose lanes are those of `f` acts lane by lane. -/
theorem lanes_of_vector2 {d a b : Fin 32} {cycles lat : Nat} {g : Vector Word 16 → Vector Word 16 → Vector Word 16 × Nat}
    {f : Fin 16 → Fp} (row : exec i s = onDev s fun v => v.vector2 c d a b cycles lat g) (run : Issues s c k)
    (lanes : g (ctxOf s c).v[a] (ctxOf s c).v[b] = laneVec f) :
    ∃ (w : Vector Word 16) (fl : Nat), WritesVector s i c d w fl ∧ LaneWise w fl (ctxOf s c).flags f := by
  let r := g (ctxOf s c).v[a] (ctxOf s c).v[b]
  have writes : WritesVector s i c d r.1 ((ctxOf s c).flags ||| r.2) := writesVector_of_issue row run fun _ => ⟨rfl, rfl, rfl, rfl⟩
  exact ⟨_, _, writes, (show r = laneVec f from lanes) ▸ laneWise_laneVec f _⟩

/-- A vector instruction of one source whose lanes are those of `f` acts lane by lane. -/
theorem lanes_of_vector1 {d a : Fin 32} {cycles lat : Nat} {g : Vector Word 16 → Vector Word 16 × Nat}
    {f : Fin 16 → Fp} (row : exec i s = onDev s fun v => v.vector1 c d a cycles lat g) (run : Issues s c k)
    (lanes : g (ctxOf s c).v[a] = laneVec f) :
    ∃ (w : Vector Word 16) (fl : Nat), WritesVector s i c d w fl ∧ LaneWise w fl (ctxOf s c).flags f := by
  let r := g (ctxOf s c).v[a]
  have writes : WritesVector s i c d r.1 ((ctxOf s c).flags ||| r.2) := writesVector_of_issue row run fun _ => ⟨rfl, rfl, rfl, rfl⟩
  exact ⟨_, _, writes, (show r = laneVec f from lanes) ▸ laneWise_laneVec f _⟩

/-- A row that accesses local RAMs, where the kernel's allocation takes the access, replaces that core's registers and memory. -/
theorem exec_of_issueMem {need : Ctx → Nat} {ok : Kernel → Ctx → Bool} {f : Mem → Ctx → Nat → Ctx} {g : Mem → Ctx → Mem}
    (row : exec i s = onMem s fun v m => issueMem v m c need ok (f m) (g m)) (run : Issues s c k) (inside : ok k (ctxOf s c) = true) :
    ∃ t, exec i s = .next { withCtx s c ((f s.mem (ctxOf s c) t).advance t 1) with mem := g s.mem (ctxOf s c) } := by
  unfold Issues at run
  unfold ctxOf at inside
  rw [row, onMem_eq, issueMem, run]
  dsimp only
  rw [if_pos inside]
  exact ⟨_, rfl⟩

/-- The same for a row that leaves memory alone. -/
theorem exec_of_load {need : Ctx → Nat} {ok : Kernel → Ctx → Bool} {f : Mem → Ctx → Nat → Ctx}
    (row : exec i s = onMem s fun v m => issueMem v m c need ok (f m) fun _ => m) (run : Issues s c k)
    (inside : ok k (ctxOf s c) = true) : ∃ t, exec i s = .next (withCtx s c ((f s.mem (ctxOf s c) t).advance t 1)) :=
  exec_of_issueMem (f := f) (g := fun m _ => m) row run inside

end

/-! ### Floating point and vectors -/

theorem chiselScalarFloat : ChiselScalarFloat := by
  intro s c k d a b run
  refine ⟨?fadd, ?fmul, ?fma, ?getf, ?vred⟩
  case fadd => exact writesScalar_of_scalar2 (f := fpAdd) rfl run
  case fmul => exact writesScalar_of_scalar2 (f := fpMul) rfl run
  case fma => exact writesScalar_of_issue rfl run fun _ => ⟨rfl, rfl, rfl, rfl⟩
  case getf => exact writesScalar_of_issue rfl run fun _ => ⟨rfl, rfl, rfl, rfl⟩
  case vred => exact writesScalar_of_issue rfl run fun _ => ⟨rfl, rfl, rfl, rfl⟩

theorem chiselVectorLanes : ChiselVectorLanes := by
  intro s c k d a b run
  refine ⟨?vadd, ?vsub, ?vmul, ?vfma, ?vmax, ?vmin, ?vabs, ?vsqrt, ?vdiv, ?vcmul⟩
  case vadd => exact lanes_of_vector2 (g := lanes2 fpAdd) rfl run rfl
  case vsub => exact lanes_of_vector2 (g := lanes2 fpSub) rfl run rfl
  case vmul => exact lanes_of_vector2 (g := lanes2 fpMul) rfl run rfl
  case vfma =>
    exact ⟨_, _, writesVector_of_issue rfl run fun _ => ⟨rfl, rfl, rfl, rfl⟩, laneWise_laneVec (fun i => fpFma _ _ _) _⟩
  case vmax => exact lanes_of_vector2 (g := lanes2 (fpPick true)) rfl run rfl
  case vmin => exact lanes_of_vector2 (g := lanes2 (fpPick false)) rfl run rfl
  case vabs => exact lanes_of_vector1 (g := lanes1 fpAbs) rfl run rfl
  case vsqrt => exact lanes_of_vector1 (g := lanes1 fpSqrt) rfl run rfl
  case vdiv => exact lanes_of_vector2 (g := lanes2 fpDiv) rfl run rfl
  case vcmul => exact lanes_of_vector2 (g := fun x y => laneVec (cmulLane x y)) rfl run rfl

theorem chiselVectorMoves : ChiselVectorMoves := by
  intro s c k d a b run
  refine ⟨?vperm, ?vbcast, fun low => ?toVector, fun high => ?toAccumulator⟩
  case vperm =>
    refine ⟨_, writesVector_of_issue rfl run fun _ => ⟨rfl, rfl, rfl, Nat.or_zero _⟩, fun i j index => ?_⟩
    simp only [Fin.getElem_fin, Vector.getElem_ofFn, index]
  case vbcast => exact ⟨_, writesVector_of_issue rfl run fun _ => ⟨rfl, rfl, rfl, rfl⟩, fun i => by simp⟩
  case toVector =>
    have row : exec (.vmova c d a) s =
        onDev s fun v => v.issue c (fun x => x.readyA[aIx a]) 1 fun x t => x.setV d x.a[aIx a] (t + 1) := by
      dsimp only [exec]
      simp only [execVmova, if_pos low]
    exact writesVector_of_issue row run fun _ => ⟨rfl, rfl, rfl, rfl⟩
  case toAccumulator =>
    have row : exec (.vmova c d a) s =
        onDev s fun v => v.issue c (fun x => x.readyV[a]) 1 fun x t => x.setA (aIx d) x.v[a] (t + 1) := by
      dsimp only [exec]
      simp only [execVmova, if_neg (Nat.not_lt.mpr high)]
    obtain ⟨t, next⟩ := exec_of_issue row run
    exact ⟨_, next, rfl, rfl, rfl, rfl⟩

/-- Settles O13: scalar rows write one scalar register, lane-wise rows one vector register with the lanes of `laneVec`. -/
theorem chiselFloatAndVectors : Obligations.ChiselFloatAndVectors := ⟨chiselScalarFloat, chiselVectorLanes, chiselVectorMoves⟩

/-! ### Loads, stores and multiply-accumulates -/

theorem chiselLoads : ChiselLoads := by
  intro s c k d p q run
  refine ⟨fun inside => ?ld, fun inside => ?vld, fun insideX insideY => ?vld2⟩
  case ld =>
    obtain ⟨t, next⟩ := exec_of_load (i := .ld c d p) (ok := fun k x => k.reaches [.x, .y, .c] (x.addr p) 4)
      (f := fun m x t => (x.bump p (t + 1)).setS (sIx d) (elemAt m c.val (x.addr p)) (t + 2)) rfl run inside
    exact ⟨_, next, rfl, rfl, rfl, rfl⟩
  case vld =>
    obtain ⟨t, next⟩ := exec_of_load (i := .vld c d p) (ok := fun k x => k.reaches [.x, .y] (x.addr p) 64)
      (f := fun m x t => (x.setV d (vecAt m c.val (x.addr p)) (t + 2)).bump p (t + 1)) rfl run inside
    exact ⟨_, next, rfl, rfl, rfl, rfl⟩
  case vld2 =>
    obtain ⟨t, next⟩ := exec_of_load (i := .vld2 c d p q)
      (ok := fun k x => k.reaches [.x] (x.addr p) 64 && k.reaches [.y] (x.addr q) 64)
      (f := fun m x t => (((x.setV d (vecAt m c.val (x.addr p)) (t + 2)).setV (d + 1) (vecAt m c.val (x.addr q)) (t + 2)).bump p
        (t + 1)).bump q (t + 1)) rfl run (by rw [insideX, insideY]; rfl)
    exact ⟨_, next, rfl, rfl, rfl, rfl⟩

/-- Sixteen stored words read back lane by lane, and no byte outside them changes. -/
theorem stored_lanes (m : Mem) (a : Nat) (w : Vector Word 16) :
    (∀ i : Fin 16, Mem.word (Mem.setWords m a w.toList) (a + 4 * i.val) = w[i]) ∧
      ∀ b, (b < a ∨ a + 64 ≤ b) → Mem.get (Mem.setWords m a w.toList) b = Mem.get m b := by
  have size : w.toList.length = 16 := w.length_toList
  refine ⟨fun i => ?_, fun b out => Mem.get_setWords_out m a _ (by omega)⟩
  rw [Mem.word_setWords_in m a _ (by omega)]
  exact Vector.getElem_toList ..

theorem chiselStores : ChiselStores := by
  intro s c k d p run
  refine ⟨fun inside => ?st, fun inside => ⟨?vst, ?vsta⟩⟩
  case st =>
    obtain ⟨t, next⟩ := exec_of_issueMem (i := .st c d p) (ok := fun k x => k.reaches [.x, .y] (x.addr p) 4)
      (f := fun _ x t => x.bump p (t + 1)) (g := fun m x => Mem.setWord m (coreAddr c.val (x.addr p)) x.s[sIx d]) rfl run inside
    exact ⟨_, _, next, rfl, rfl, rfl, rfl, Mem.word_setWord_same .., fun b out => Mem.get_setWord_out _ _ _ out⟩
  case vst =>
    obtain ⟨t, next⟩ := exec_of_issueMem (i := .vst c d p) (ok := fun k x => k.reaches [.x, .y] (x.addr p) 64)
      (f := fun _ x t => x.bump p (t + 1)) (g := fun m x => Mem.setWords m (coreAddr c.val (x.addr p)) x.v[d].toList) rfl run inside
    exact ⟨_, _, next, rfl, rfl, rfl, rfl, stored_lanes ..⟩
  case vsta =>
    obtain ⟨t, next⟩ := exec_of_issueMem (i := .vsta c d p) (ok := fun k x => k.reaches [.x, .y] (x.addr p) 64)
      (f := fun _ x t => (x.setA (aIx d) (Vector.replicate 16 0) (t + 1)).bump p (t + 1))
      (g := fun m x => Mem.setWords m (coreAddr c.val (x.addr p)) x.a[aIx d].toList) rfl run inside
    exact ⟨_, _, next, rfl, rfl, rfl, rfl, stored_lanes ..⟩

/-- Settles O14: an access inside the allocation is the row's own registers and bytes. -/
theorem chiselLoadsAndStores : Obligations.ChiselLoadsAndStores := ⟨chiselLoads, chiselStores⟩

/-- V_A moved down one lane with `w` in the last. -/
def shiftIn (v : Vector Word 16) (w : Word) : Vector Word 16 := Vector.ofFn fun i => if h : i.val < 15 then v[i.val + 1] else w

theorem shiftIn_lower (v : Vector Word 16) (w : Word) {i j : Fin 16} (next : j.val = i.val + 1) : (shiftIn v w)[i] = v[j] := by
  have low : i.val < 15 := by omega
  simp [shiftIn, low, ← next]

theorem shiftIn_last (v : Vector Word 16) (w : Word) : (shiftIn v w)[(15 : Fin 16)] = w := by
  simp [shiftIn]

/-- A row that accumulates X times Y by a function whose lanes are those of `f` adds them to A_D and moves both pointers on. -/
theorem accumulates_of_macXY {s : State} {i : Instr} {c : Fin 16} {k : Kernel} {d : Fin 32} {p q : MemOp}
    {g : Vector Word 16 → Vector Word 16 → Vector Word 16 → Vector Word 16 × Nat} {f : Fin 16 → Fp}
    (row : exec i s = onMem s fun v m => macXY v m c d p q g) (run : Issues s c k)
    (insideX : k.reaches [.x] ((ctxOf s c).addr p) 64 = true) (insideY : k.reaches [.y] ((ctxOf s c).addr q) 64 = true)
    (lanes : g (vecAt s.mem c.val ((ctxOf s c).addr p)) (vecAt s.mem c.val ((ctxOf s c).addr q)) (ctxOf s c).a[aIx d] = laneVec f) :
    ∃ (y : Ctx) (w : Vector Word 16), exec i s = .next (withCtx s c y) ∧ y.a = (ctxOf s c).a.set (aIx d) w ∧ y.v = (ctxOf s c).v ∧
      y.s = bumped (bumped (ctxOf s c).s p) q ∧ LaneWise w y.flags (ctxOf s c).flags f := by
  unfold macXY at row
  have inside : (k.reaches [.x] ((ctxOf s c).addr p) 64 && k.reaches [.y] ((ctxOf s c).addr q) 64) = true := by
    rw [insideX, insideY]
    rfl
  obtain ⟨t, next⟩ := exec_of_load
    (f := fun m x t =>
      let r := g (vecAt m c.val (x.addr p)) (vecAt m c.val (x.addr q)) x.a[aIx d]
      (((x.setA (aIx d) r.1 (t + 4)).orFlags r.2).bump p (t + 1)).bump q (t + 1)) row run inside
  refine ⟨_, _, next, rfl, rfl, rfl, ?_⟩
  dsimp only
  rw [lanes]
  exact laneWise_laneVec f _

/-- Settles O15: each row adds to A_D what `laneVec` gives for its lanes. -/
theorem chiselAccumulate : Obligations.ChiselAccumulate := by
  intro s c k d a p q run
  refine ⟨fun insideX insideY => ⟨?vmac, ?vcmac⟩, fun inside => ?vmacc, fun insideX insideC =>
    ⟨shiftIn (ctxOf s c).v[a] (elemAt s.mem c.val ((ctxOf s c).addr p)), ?tapmv, fun _ _ => shiftIn_lower _ _, shiftIn_last _ _⟩⟩
  case vmac => exact accumulates_of_macXY (g := lanes3 fpFma) rfl run insideX insideY rfl
  case vcmac => exact accumulates_of_macXY (g := fun x y z => laneVec (cmacLane x y z)) rfl run insideX insideY rfl
  case vmacc =>
    obtain ⟨t, next⟩ := exec_of_load (i := .vmacc c d a q) (ok := fun k x => k.reaches [.c] (x.addr q) 4)
      (f := fun m x t =>
        let r := lanes3 fpFma x.v[a] (Vector.replicate 16 (elemAt m c.val (x.addr q))) x.a[aIx d]
        ((x.setA (aIx d) r.1 (t + 4)).orFlags r.2).bump q (t + 1)) rfl run inside
    have lanes : lanes3 fpFma (ctxOf s c).v[a] (Vector.replicate 16 (elemAt s.mem c.val ((ctxOf s c).addr q))) (ctxOf s c).a[aIx d] =
        laneVec fun i => fpFma (ctxOf s c).v[a][i] (elemAt s.mem c.val ((ctxOf s c).addr q)) (ctxOf s c).a[aIx d][i] := by
      simp [lanes3, laneVec]
    refine ⟨_, _, next, rfl, rfl, rfl, ?_⟩
    dsimp only
    rw [lanes]
    exact laneWise_laneVec _ _
  case tapmv =>
    obtain ⟨t, next⟩ := exec_of_load (i := .tapmv c d a p q)
      (ok := fun k x => k.reaches [.x] (x.addr p) 4 && k.reaches [.c] (x.addr q) 4)
      (f := fun m x t =>
        let r := lanes3 fpFma (Vector.replicate 16 (elemAt m c.val (x.addr q))) x.v[a] x.a[aIx d]
        ((((x.setA (aIx d) r.1 (t + 4)).setV a (shiftIn x.v[a] (elemAt m c.val (x.addr p))) (t + 1)).orFlags r.2).bump p (t + 1)).bump q
          (t + 1)) rfl run (by rw [insideX, insideC]; rfl)
    have lanes : lanes3 fpFma (Vector.replicate 16 (elemAt s.mem c.val ((ctxOf s c).addr q))) (ctxOf s c).v[a] (ctxOf s c).a[aIx d] =
        laneVec fun i => fpFma (elemAt s.mem c.val ((ctxOf s c).addr q)) (ctxOf s c).v[a][i] (ctxOf s c).a[aIx d][i] := by
      simp [lanes3, laneVec]
    refine ⟨_, _, next, rfl, rfl, rfl, ?_⟩
    dsimp only
    rw [lanes]
    exact laneWise_laneVec _ _

end Sys2Proof.Cert

/-!
PROOFS. Activations and transfers of a Chisel core (R217, R222, R228, R239, R241). Dispatch finds nothing to run where no kernel has an
activation, so a core whose activation ends stays idle; a released activation is the one that a free core finds.
-/

namespace Sys2Proof.Machine

theorem Dev.rd_of_regs {d e : Dev} (h : e.regs = d.regs) (a : Nat) : e.rd a = d.rd a := by
  simp only [Dev.rd, h]

theorem Dev.rd_count32_of_regs {d e : Dev} (h : e.regs = d.regs) (a : Nat) : (e.count32 a).rd a = (d.count32 a).rd a := by
  simp only [Dev.count32, Dev.rd_count_same, Dev.rd_of_regs h]

/-! ### Kernels by slot -/

/-- A change of a slot's kernel that keeps its slot changes the kernel that is found there. -/
theorem Dev.kernel?_modKernel_same (d : Dev) (n : Nat) {f : Kernel → Kernel} (slot : ∀ k, (f k).slot = k.slot) :
    (d.modKernel n f).kernel? n = (d.kernel? n).map f := by
  simp only [Dev.kernel?, Dev.modKernel, List.find?_map]
  have sought : ((fun k : Kernel => k.slot == n) ∘ fun k => if k.slot = n then f k else k) = fun k => k.slot == n := by
    funext k
    simp only [Function.comp_apply]
    split
    · rw [slot]
    · rfl
  rw [sought]
  cases found : d.chisel.kernels.find? fun k => k.slot == n with
  | none => rfl
  | some k =>
    have at_ : k.slot = n := beq_iff_eq.mp (List.find?_some (p := fun k : Kernel => k.slot == n) found)
    simp [at_]

/-- A change that keeps slots, and where made what `p` sees of a kernel, keeps what `p` sees of the kernel found in a slot. -/
theorem Dev.kernel?_modKernel_of_eq {α : Type} (d : Dev) (n j : Nat) {f : Kernel → Kernel} (slot : ∀ k, (f k).slot = k.slot)
    (p : Kernel → α) (keeps : ∀ k, p (f k) = p k) {k : Kernel} (found : d.kernel? j = some k) :
    ∃ k', (d.modKernel n f).kernel? j = some k' ∧ p k' = p k := by
  simp only [Dev.kernel?, Dev.modKernel, List.find?_map]
  have sought : ((fun k : Kernel => k.slot == j) ∘ fun k => if k.slot = n then f k else k) = fun k => k.slot == j := by
    funext k
    simp only [Function.comp_apply]
    split
    · rw [slot]
    · rfl
  rw [sought]
  rw [Dev.kernel?] at found
  rw [found]
  refine ⟨_, rfl, ?_⟩
  dsimp only
  split
  · exact keeps k
  · rfl

theorem Dev.kernel?_slot {d : Dev} {n : Nat} {k : Kernel} (found : d.kernel? n = some k) : k.slot = n :=
  beq_iff_eq.mp (List.find?_some (p := fun k : Kernel => k.slot == n) found)

/-- The kernel that a core runs is the one in the slot that it names. -/
theorem Dev.running?_eq_some {d : Dev} {c : Fin 16} {k : Kernel} (run : d.running? c = some k) :
    (d.chisel.cores[c]).run = some k.slot ∧ d.kernel? k.slot = some k := by
  unfold Dev.running? at run
  dsimp only at run
  split at run
  · cases run
  · split at run
    · next n named => exact ⟨by rw [named, Dev.kernel?_slot run], by rwa [Dev.kernel?_slot run]⟩
    · cases run

/-- A kernel that stays where another is unloaded is still found. -/
theorem Dev.kernel?_dropUnloaded {d : Dev} {n : Nat} {k : Kernel} (found : d.kernel? n = some k) (stays : k.unload = false) :
    d.dropUnloaded.kernel? n = some k := by
  simp only [Dev.kernel?, Dev.dropUnloaded, List.find?_filter] at found ⊢
  obtain ⟨slot, before, after, list, earlier⟩ := List.find?_eq_some_iff_append.mp found
  refine List.find?_eq_some_iff_append.mpr ⟨by simp [stays, beq_iff_eq.mp slot], before, after, list, fun x mem => ?_⟩
  have other := earlier x mem
  simp only [Bool.not_eq_true'] at other
  simp [other]

/-! ### Dispatch -/

@[simp] theorem Dev.modCore_same_core (d : Dev) (c : Fin 16) (f : Core → Core) :
    (d.modCore c f).chisel.cores[c] = f d.chisel.cores[c] := by
  simp [Dev.modCore]

theorem Dev.modCore_idle_run (d : Dev) (c : Fin 16) : ((d.modCore c fun y => { y with run := none }).chisel.cores[c]).run = none := by
  rw [Dev.modCore_same_core]

theorem Dev.modCore_other_core (d : Dev) {c j : Fin 16} (f : Core → Core) (other : j ≠ c) :
    (d.modCore c f).chisel.cores[j] = d.chisel.cores[j] := by
  have apart : c.val ≠ j.val := fun same => other (Fin.ext same.symm)
  simp [Dev.modCore, apart]

/-- With no activation in progress a core has none to run. -/
theorem Dev.nextAct_none {d : Dev} (c : Nat) (idle : ∀ o ∈ d.chisel.kernels, o.active = none) : d.nextAct c = none := by
  have none_ : (d.chisel.kernels.filter fun k => k.core == c && k.active.isSome && !k.evicted) = [] := by
    rw [List.filter_eq_nil_iff]
    intro o mem
    simp [idle o mem]
  simp only [Dev.nextAct, none_, List.foldl_nil, Option.map_none]

theorem Dev.dispatch_idle {d : Dev} {c : Fin 16} (idle : ∀ o ∈ d.chisel.kernels, o.active = none) (free : (d.chisel.cores[c]).run = none) :
    d.dispatch c = d := by
  unfold Dev.dispatch
  dsimp only
  rw [Dev.nextAct_none c.val idle, free]
  simp

/-- Dispatch changes the registers and the activation of its core, and the kept registers of kernels, and nothing else. -/
theorem Dev.dispatch_frame (d : Dev) (c : Fin 16) :
    (∃ x, d.dispatch c = { d with chisel := x }) ∧ (∀ j : Fin 16, j ≠ c → (d.dispatch c).chisel.cores[j] = d.chisel.cores[j]) ∧
      ∃ r x, (d.dispatch c).chisel.cores[c] = { d.chisel.cores[c] with run := r, ctx := x } := by
  unfold Dev.dispatch
  dsimp only
  split
  · exact ⟨⟨_, rfl⟩, fun _ _ => rfl, _, _, rfl⟩
  · split <;> split <;>
      exact ⟨⟨_, rfl⟩, fun j other => Dev.modCore_other_core _ _ other, _, _, Dev.modCore_same_core ..⟩

/-! ### Ends of activations -/

/-- What a stop for `why` is counted and flagged as. -/
def Dev.stopNoted (d : Dev) : StopCause → Dev
  | .overrun => (d.count32 Reg.CHISEL_OVERRUN).raise Reg.CHISEL_EVT 1
  | .access => (d.count32 Reg.CHISEL_FAULT).raise Reg.CHISEL_EVT 3
  | .illegal => (d.count32 Reg.CHISEL_FAULT).raise Reg.CHISEL_EVT 2

theorem Dev.stopNoted_chisel (d : Dev) (why : StopCause) : (d.stopNoted why).chisel = d.chisel := by
  cases why <;> simp [Dev.stopNoted]

/-- Kernels of which only slot `n` has an activation have none once that one has ended. -/
theorem Dev.idle_of_modKernel {d : Dev} {n : Nat} {f : Kernel → Kernel} (ends : ∀ k, (f k).active = none)
    (only : ∀ o ∈ d.chisel.kernels, o.active.isSome = true → o.slot = n) : ∀ o ∈ (d.modKernel n f).chisel.kernels, o.active = none := by
  intro o mem
  obtain ⟨k, kMem, rfl⟩ := List.mem_map.mp mem
  split
  · exact ends k
  · next other => exact Option.not_isSome_iff_eq_none.mp fun some_ => other (only k kMem some_)

/-- With an activation only in slot `n`, once that has ended and its core is free the core stays so. -/
theorem Dev.dispatch_ended {d e : Dev} {c : Fin 16} {n : Nat} {f : Kernel → Kernel} (ends : ∀ k, (f k).active = none)
    (only : ∀ o ∈ d.chisel.kernels, o.active.isSome = true → o.slot = n)
    (kernels : ∀ o ∈ e.chisel.kernels, o ∈ (d.modKernel n f).chisel.kernels) (free : (e.chisel.cores[c]).run = none) : e.dispatch c = e :=
  Dev.dispatch_idle (fun o mem => Dev.idle_of_modKernel ends only o (kernels o mem)) free

/-- A kernel whose activation has ended without an END, with the registers `x` of its core. -/
def cutKernel (x : Ctx) (k : Kernel) : Kernel :=
  { k with active := none, ctx := x, fpf := x.flags, last := x.now, max := max k.max x.now }

/-- `d` once the activation of slot `n` has been cut on core `c`. -/
def Dev.cutOff (d : Dev) (c : Fin 16) (n : Nat) : Dev :=
  ((d.modKernel n (cutKernel d.chisel.cores[c].ctx)).modCore c fun y => { y with run := none, waiting := false, held := none }).dropUnloaded

@[simp] theorem Dev.cutOff_regs (d : Dev) (c : Fin 16) (n : Nat) : (d.cutOff c n).regs = d.regs := rfl

@[simp] theorem Dev.cutOff_run (d : Dev) (c : Fin 16) (n : Nat) : ((d.cutOff c n).chisel.cores[c]).run = none := by
  simp only [Dev.cutOff, Dev.dropUnloaded, Dev.modCore_same_core]

/-- Memory that is left to free values moves the counter of free values and nothing else of the device. -/
theorem freeWords_dispatch (d : Dev) (m : Mem) (c : Fin 16) (x y z : Nat × Nat) :
    ∃ free, (let (d, m) := freeWords d m x.1 x.2
      let (d, m) := freeWords d m y.1 y.2
      let (d, m) := freeWords d m z.1 z.2
      (d.dispatch c, m)).1 = Dev.dispatch { d with freeCtr := free } c := ⟨_, rfl⟩

/-- A stop of a host kernel's activation: cut, counted and flagged, its memory left to free values, and its core dispatched. -/
theorem stopActivation_fst {d : Dev} (m : Mem) {c : Fin 16} (why : StopCause) {n : Nat} {k : Kernel}
    (run : (d.chisel.cores[c]).run = some n) (found : d.kernel? n = some k) (user : k.user = true) :
    ∃ free, (stopActivation d m c why).1 = Dev.dispatch { (d.cutOff c n).stopNoted why with freeCtr := free } c := by
  unfold stopActivation
  rw [run]
  dsimp only
  rw [found]
  dsimp only
  rw [if_pos user]
  have ends := fun why => freeWords_dispatch ((d.cutOff c n).stopNoted why) m c (coreAddr c.val k.x.1, k.x.2 / 4)
    (coreAddr c.val k.y.1, k.y.2 / 4) (k.win.1, k.win.2 / 4)
  cases why with
  | overrun => exact ends .overrun
  | access => exact ends .access
  | illegal => exact ends .illegal

/-- A stopped activation of a host kernel, the only one in progress: its core is idle, and the registers are those of the stop's count
and event. -/
theorem stopActivation_user {d : Dev} (m : Mem) {c : Fin 16} (why : StopCause) {n : Nat} {k : Kernel}
    (run : (d.chisel.cores[c]).run = some n) (found : d.kernel? n = some k) (user : k.user = true)
    (only : ∀ o ∈ d.chisel.kernels, o.active.isSome = true → o.slot = n) :
    ((stopActivation d m c why).1.chisel.cores[c]).run = none ∧
      (stopActivation d m c why).1.regs = ((d.cutOff c n).stopNoted why).regs := by
  obtain ⟨free, stops⟩ := stopActivation_fst m why run found user
  have idle : Dev.dispatch { (d.cutOff c n).stopNoted why with freeCtr := free } c = { (d.cutOff c n).stopNoted why with freeCtr := free } := by
    refine Dev.dispatch_ended (f := cutKernel d.chisel.cores[c].ctx) (fun _ => rfl) only (fun o mem => ?_) ?_
    · simp only [Dev.stopNoted_chisel] at mem
      exact List.mem_of_mem_filter mem
    · simp only [Dev.stopNoted_chisel, Dev.cutOff_run]
  rw [stops, idle]
  exact ⟨by simp only [Dev.stopNoted_chisel, Dev.cutOff_run], rfl⟩

/-- A kernel whose activation has ended with an END, with the registers `x` of its core. -/
def endKernel (x : Ctx) (k : Kernel) : Kernel :=
  { k with active := none, ctx := { x with now := x.now + 1 }, fpf := x.flags, last := x.now + 1, max := max k.max (x.now + 1),
           acts := min (k.acts + 1) (2 ^ 32 - 1) }

/-- The end of the only activation in progress: its kernel is idle and counted, and so is its core. -/
theorem Dev.endActivation_eq {d : Dev} {c : Fin 16} {k : Kernel} (run : d.running? c = some k)
    (only : ∀ o ∈ d.chisel.kernels, o.active.isSome = true → o.slot = k.slot) :
    d.endActivation c = (((d.modKernel k.slot (endKernel d.chisel.cores[c].ctx)).modCore c fun y => { y with run := none }).noteCount
      (0xD0208 + 16 * k.slot) 0 1).dropUnloaded := by
  unfold Dev.endActivation
  rw [run]
  exact Dev.dispatch_ended (f := endKernel d.chisel.cores[c].ctx) (fun _ => rfl) only (fun o mem => List.mem_of_mem_filter mem)
    (Dev.modCore_idle_run _ c)

end Sys2Proof.Machine

namespace Sys2Proof.Cert

open Sys2Proof.Machine

theorem chiselActivations : ChiselActivations := by
  intro s c k run user _ found only
  obtain ⟨slot, _⟩ := Dev.running?_eq_some run
  have stop := fun why => stopActivation_user s.mem why slot found user only
  refine ⟨?ends, ?illegal, fun arrives => ?yields, fun alone => ?overrun⟩
  case ends =>
    have row : exec (.endAct c) s = onDev s fun v => v.endActivation c := rfl
    rw [onDev_eq, Dev.endActivation_eq run only] at row
    refine ⟨_, row, rfl, rfl, Dev.modCore_idle_run _ c, rfl, fun stays => ?_⟩
    have kept := Dev.kernel?_modKernel_same s.dev k.slot (f := endKernel (ctxOf s c)) fun _ => rfl
    rw [found] at kept
    exact ⟨_, Dev.kernel?_dropUnloaded kept stays, rfl, rfl, rfl, rfl⟩
  case illegal =>
    have row : exec (.illegalInstruction c) s = onMem s fun v m => stopActivation v m c .illegal := by
      unfold Issues at run
      dsimp only [exec]
      simp only [execIllegalInstruction, onMem_eq, run, Option.isSome_some, if_true]
    obtain ⟨idle, noted⟩ := stop .illegal
    refine ⟨_, row, idle, ?_, ?_⟩
    · exact (congrArg (Word.bit · _) (Dev.rd_of_regs noted _)).trans (set_raise Reg.CHISEL_EVT (by decide))
    · exact (Dev.rd_of_regs noted _).trans ((Dev.rd_raise_ne _ _ (by decide)).trans (Dev.rd_count32_of_regs (s.dev.cutOff_regs c k.slot) _))
  case yields =>
    dsimp only [exec]
    exact unlessNow_arrives _ _ _ arrives
  case overrun =>
    have row : exec (.activationOverrun c) s = onMem s fun v m => stopActivation v m c .overrun := by
      dsimp only [exec]
      exact unlessNow_else _ _ _ alone
    obtain ⟨idle, noted⟩ := stop .overrun
    refine ⟨_, row, idle, ?_, ?_⟩
    · exact (congrArg (Word.bit · _) (Dev.rd_of_regs noted _)).trans (set_raise Reg.CHISEL_EVT (by decide))
    · exact (Dev.rd_of_regs noted _).trans ((Dev.rd_raise_ne _ _ (by decide)).trans (Dev.rd_count32_of_regs (s.dev.cutOff_regs c k.slot) _))

end Sys2Proof.Cert

/-!
PROOFS. Releases and background transfers of a Chisel core (R217, R222, R239). Where no kernel has an activation in progress, the
released one is the only one that its free core can run; a transfer moves its block in memory and its core's queue.
-/

namespace Sys2Proof.Machine

/-! ### Releases -/

/-- The registers with which activation `n` of a kernel begins (R217). -/
def startCtx (k : Kernel) (n : Nat) : Ctx :=
  { k.ctx with
    s := ((((k.ctx.s.set 0 (BitVec.ofNat 32 n)).set 1 (BitVec.ofNat 32 k.win.1)).set 8 (BitVec.ofNat 32 k.x.1)).set 9
      (BitVec.ofNat 32 k.y.1)).set 10 (BitVec.ofNat 32 k.c.1)
    pc := k.entry, loops := [], now := 0, readyS := Vector.replicate 16 0, readyV := Vector.replicate 32 0, readyA := Vector.replicate 8 0 }

/-- A kernel of a slot whose kernel `k` is released. -/
def releaseKernel (d : Dev) (k o : Kernel) : Kernel :=
  { o with released := true, count := k.count + 1, active := some (d.cad.tickIdx + o.span - 1), ctx := startCtx k (k.count + 1), trigger := false }

theorem Dev.release_eq {d : Dev} {n : Nat} {k : Kernel} (found : d.kernel? n = some k) :
    d.release n = (d.modKernel n (releaseKernel d k)).dispatch (toCore k.core) := by
  unfold Dev.release
  rw [found]
  rfl

/-- What dispatch does not touch of a kernel. -/
def bookOf (k : Kernel) : Nat × Option Nat × Bool × Bool := (k.count, k.active, k.released, k.trigger)

/-- `d` once the registers of a preempted activation are kept with its kernel. -/
def Dev.preempted (d : Dev) (c : Fin 16) : Dev :=
  match d.chisel.cores[c].run with
  | some s => d.modKernel s fun x => { x with ctx := d.chisel.cores[c].ctx }
  | none => d

theorem Dev.kernel?_preempted {d : Dev} (c : Fin 16) {n : Nat} {k : Kernel} (found : d.kernel? n = some k) :
    ∃ k', (d.preempted c).kernel? n = some k' ∧ bookOf k' = bookOf k := by
  unfold Dev.preempted
  split
  · exact d.kernel?_modKernel_of_eq _ n (f := fun x => { x with ctx := d.chisel.cores[c].ctx }) (fun _ => rfl) bookOf (fun _ => rfl) found
  · exact ⟨k, found, rfl⟩

theorem Dev.dispatch_eq (d : Dev) (c : Fin 16) : d.dispatch c =
    if (d.chisel.cores[c]).retired || (d.chisel.cores[c]).testing || (d.chisel.cores[c]).waiting || (d.chisel.cores[c]).held.isSome ||
      d.nextAct c.val == (d.chisel.cores[c]).run then d
    else match (d.preempted c).nextAct c.val with
      | some s => (d.preempted c).modCore c fun y =>
          { y with run := some s, ctx := match (d.preempted c).kernel? s with | some x => x.ctx | none => y.ctx }
      | none => (d.preempted c).modCore c fun y => { y with run := none } := rfl

theorem Dev.kernel?_dispatch {d : Dev} (c : Fin 16) {n : Nat} {k : Kernel} (found : d.kernel? n = some k) :
    ∃ k', (d.dispatch c).kernel? n = some k' ∧ bookOf k' = bookOf k := by
  have kept := d.kernel?_preempted c found
  rw [Dev.dispatch_eq]
  split
  · exact ⟨k, found, rfl⟩
  · split <;> exact kept

/-- The activation that goes first of `k` and the first one so far. -/
def firstOf (b : Option Kernel) (k : Kernel) : Option Kernel :=
  match b with
  | none => some k
  | some x => if k.before x then some k else b

/-- The activations that core `c` may run. -/
def Dev.readyActs (d : Dev) (c : Nat) : List Kernel := d.chisel.kernels.filter fun k => k.core == c && k.active.isSome && !k.evicted

theorem Dev.nextAct_eq (d : Dev) (c : Nat) : d.nextAct c = ((d.readyActs c).foldl firstOf none).map Kernel.slot := rfl

/-- Of several activations one goes first. -/
theorem exists_mem_first (ks : List Kernel) (x : Kernel) : ∃ y ∈ x :: ks, ks.foldl firstOf (some x) = some y := by
  induction ks generalizing x with
  | nil => exact ⟨x, List.mem_singleton_self x, rfl⟩
  | cons k ks ih =>
    rw [List.foldl_cons, firstOf]
    split
    · obtain ⟨y, mem, first⟩ := ih k
      exact ⟨y, List.mem_cons_of_mem x mem, first⟩
    · obtain ⟨y, mem, first⟩ := ih x
      exact ⟨y, List.cons_subset_cons x (List.subset_cons_self k ks) mem, first⟩

/-- Where one slot has the only activation, a core that may run it runs it next. -/
theorem Dev.nextAct_of_only {d : Dev} {c n : Nat} {k : Kernel} (mem : k ∈ d.chisel.kernels) (core : k.core = c) (active : k.active.isSome = true)
    (there : k.evicted = false) (only : ∀ o ∈ d.chisel.kernels, o.active.isSome = true → o.slot = n) : d.nextAct c = some n := by
  have ready : k ∈ d.readyActs c := List.mem_filter.mpr ⟨mem, by simp [core, active, there]⟩
  have only_ : ∀ o ∈ d.readyActs c, o.slot = n := by
    intro o oMem
    obtain ⟨oMem, ready⟩ := List.mem_filter.mp oMem
    simp only [Bool.and_eq_true] at ready
    exact only o oMem ready.1.2
  obtain ⟨x, xs, list⟩ := List.exists_cons_of_ne_nil (List.ne_nil_of_mem ready)
  obtain ⟨y, yMem, first⟩ := exists_mem_first xs x
  rw [Dev.nextAct_eq, list, List.foldl_cons, firstOf, first, Option.map_some, only_ y (list ▸ yMem)]

theorem Dev.dispatch_free {d : Dev} {c : Fin 16} {n : Nat} {k : Kernel} (next : d.nextAct c.val = some n) (found : d.kernel? n = some k)
    (run : (d.chisel.cores[c]).run = none) (retired : (d.chisel.cores[c]).retired = false) (testing : (d.chisel.cores[c]).testing = false)
    (waiting : (d.chisel.cores[c]).waiting = false) (held : (d.chisel.cores[c]).held = none) :
    d.dispatch c = d.modCore c fun y => { y with run := some n, ctx := k.ctx } := by
  have same : d.preempted c = d := by rw [Dev.preempted, run]
  have go : ((d.chisel.cores[c]).retired || (d.chisel.cores[c]).testing || (d.chisel.cores[c]).waiting || (d.chisel.cores[c]).held.isSome ||
      d.nextAct c.val == (d.chisel.cores[c]).run) = false := by
    rw [next, run, retired, testing, waiting, held]
    rfl
  rw [Dev.dispatch_eq, go, same, next, if_neg Bool.false_ne_true]
  dsimp only
  rw [found]

/-- A kernel that is due is in place. -/
theorem releaseDue_evicted {d : Dev} {n : Nat} {k : Kernel} (found : d.kernel? n = some k) (due : d.releaseDue n = true) :
    k.evicted = false := by
  unfold Dev.releaseDue at due
  rw [found] at due
  cases evicted : k.evicted
  · rfl
  · simp [evicted] at due

end Sys2Proof.Machine

namespace Sys2Proof.Cert

open Sys2Proof.Machine

theorem chiselRelease : ChiselRelease := by
  intro s n k found due
  have row : exec (.kernelRelease n) s = onDev s fun v => v.release n := by
    dsimp only [exec]
    simp only [execKernelRelease, onDev_eq, due, if_true]
  rw [onDev_eq, Dev.release_eq found] at row
  have released := s.dev.kernel?_modKernel_same n (f := releaseKernel s.dev k) fun _ => rfl
  rw [found] at released
  obtain ⟨⟨x, frame⟩, _⟩ := Dev.dispatch_frame (s.dev.modKernel n (releaseKernel s.dev k)) (toCore k.core)
  refine ⟨_, row, rfl, rfl, by rw [frame]; rfl, ?book, ?runs⟩
  case book =>
    obtain ⟨k', stays, book⟩ := Dev.kernel?_dispatch (toCore k.core) released
    simp only [bookOf, Prod.mk.injEq] at book
    obtain ⟨count, active, rel, trigger⟩ := book
    exact ⟨k', stays, count, active, rel, trigger⟩
  case runs =>
    intro y run retired testing waiting held low idle x
    have only : ∀ o ∈ (s.dev.modKernel n (releaseKernel s.dev k)).chisel.kernels, o.active.isSome = true → o.slot = n := by
      intro o mem active
      obtain ⟨o, oMem, rfl⟩ := List.mem_map.mp mem
      split at active
      · next at_ => rw [if_pos at_]; exact at_
      · rw [idle o oMem] at active
        cases active
    have running := Dev.dispatch_free (d := s.dev.modKernel n (releaseKernel s.dev k)) (c := toCore k.core)
      (Dev.nextAct_of_only (List.mem_of_find?_eq_some released) (Nat.mod_eq_of_lt low).symm rfl
        (releaseDue_evicted found due : k.evicted = false) only)
      released run retired testing waiting held
    have core : (Dev.dispatch (s.dev.modKernel n (releaseKernel s.dev k)) (toCore k.core)).chisel.cores[toCore k.core] =
        { y with run := some n, ctx := startCtx k (k.count + 1) } := by
      rw [running, Dev.modCore_same_core]
      rfl
    have ctx : x = startCtx k (k.count + 1) := congrArg Core.ctx core
    refine ⟨congrArg Core.run core, ?_⟩
    rw [ctx]
    refine ⟨rfl, rfl, rfl, ?_, ?_, ?_, ?_, ?_, rfl, rfl, rfl⟩ <;> simp [startCtx]

/-- Settles O19: `stopActivation_user` and `Dev.endActivation_eq` for the ends, and `Dev.release_eq` with a dispatch for the release. -/
theorem chiselActivationLife : Obligations.ChiselActivationLife := ⟨chiselActivations, chiselRelease⟩

/-- A device that differs in one core of the cluster. -/
theorem modCore_chisel (d : Dev) (c : Fin 16) (f : Core → Core) :
    d.modCore c f = { d with chisel := { d.chisel with cores := (d.modCore c f).chisel.cores } } := rfl

/-- `y` once a transfer has been issued on it: the third one stalls the core. -/
def queueXfer (xf : Xfer) (x : Ctx) (y : Core) : Core :=
  if y.xfers.length < 2 then { y with ctx := x, xfers := y.xfers ++ [xf] } else { y with ctx := x, held := some xf }

theorem queueXfer_room {xf : Xfer} {x : Ctx} {y : Core} (room : y.xfers.length < 2) :
    queueXfer xf x y = { y with ctx := x, xfers := y.xfers ++ [xf] } := if_pos room

theorem queueXfer_full {xf : Xfer} {x : Ctx} {y : Core} (full : 2 ≤ y.xfers.length) :
    queueXfer xf x y = { y with ctx := x, held := some xf } := if_neg (Nat.not_lt.mpr full)

/-- A core that issues instructions holds no third transfer. -/
theorem held_of_issues {s : State} {c : Fin 16} {k : Kernel} (run : Issues s c k) : (s.dev.chisel.cores[c]).held = none := by
  unfold Issues Dev.running? at run
  dsimp only at run
  split at run
  · cases run
  · next free =>
    simp only [Bool.or_eq_true, not_or, Option.not_isSome_iff_eq_none] at free
    exact free.2

theorem chiselTransfers : ChiselTransfers := by
  intro s c k a b up n run
  refine ⟨fun aligned inside clAligned low high => ?xfer, ?xwait⟩
  case xfer =>
    have held := held_of_issues run
    unfold Issues at run
    have starts : ∃ x, exec (.xfer c a b up n) s = .next (withDev s (s.dev.modCore c
        (queueXfer ⟨((ctxOf s c).s[sIx a]).toNat, ((ctxOf s c).s[sIx b]).toNat, n.toNat, up⟩ x))) := by
      dsimp only [exec]
      rw [execXfer, onMem_eq, issueXfer, run]
      dsimp only
      rw [if_pos ⟨aligned, inside, clAligned, low, high⟩]
      exact ⟨_, rfl⟩
    obtain ⟨x, starts⟩ := starts
    refine ⟨_, starts, rfl, rfl, rfl, fun j other => Dev.modCore_other_core _ _ other, fun room => ?_, fun full => ?_⟩
    · rw [withDev, Dev.modCore_same_core, queueXfer_room room]
      exact ⟨rfl, held⟩
    · rw [withDev, Dev.modCore_same_core, queueXfer_full full]
      exact ⟨rfl, rfl⟩
  case xwait =>
    have row : exec (.xwait c) s = onDev s fun v => v.xwait c := rfl
    unfold Issues at run
    rw [onDev_eq, Dev.xwait, run] at row
    exact ⟨_, row, rfl, rfl, rfl, fun j other => Dev.modCore_other_core _ _ other, congrArg Core.waiting (Dev.modCore_same_core ..)⟩

/-- A transfer copies its block and changes no other byte. -/
theorem xferMove_spec (x : Xfer) (c : Nat) (m : Mem) :
    (x.toCluster = true → (∀ i, i < x.bytes → Mem.get (x.move c m) (x.cluster + i) = Mem.get m (coreAddr c (x.local_ + i))) ∧
      ∀ b, (b < x.cluster ∨ x.cluster + x.bytes ≤ b) → Mem.get (x.move c m) b = Mem.get m b) ∧
    (x.toCluster = false → (∀ i, i < x.bytes → Mem.get (x.move c m) (coreAddr c (x.local_ + i)) = Mem.get m (x.cluster + i)) ∧
      ∀ b, (b < coreAddr c x.local_ ∨ coreAddr c x.local_ + x.bytes ≤ b) → Mem.get (x.move c m) b = Mem.get m b) := by
  have offset : ∀ i, coreAddr c (x.local_ + i) = coreAddr c x.local_ + i := fun i => (Nat.add_assoc ..).symm
  refine ⟨fun up => ?_, fun down => ?_⟩
  · have move : x.move c m = Mem.setBytes m x.cluster (Mem.bytes m (coreAddr c x.local_) x.bytes) := by simp [Xfer.move, up]
    rw [move]
    refine ⟨fun i inside => ?_, fun b out => Mem.get_setBytes_out _ _ _ _ (by simpa using out)⟩
    rw [Mem.get_setBytes_in _ _ _ _ (by simpa using inside), Mem.getElem_bytes, offset]
  · have move : x.move c m = Mem.setBytes m (coreAddr c x.local_) (Mem.bytes m x.cluster x.bytes) := by simp [Xfer.move, down]
    rw [move]
    refine ⟨fun i inside => ?_, fun b out => Mem.get_setBytes_out _ _ _ _ (by simpa using out)⟩
    rw [offset, Mem.get_setBytes_in _ _ _ _ (by simpa using inside), Mem.getElem_bytes]

theorem chiselTransferDone : ChiselTransferDone := by
  intro s c n x xs queue
  have row : exec (.xferDone c n) s = onMem s fun v m => xferComplete v m c n := rfl
  have done : ∃ f : Core → Core, exec (.xferDone c n) s = .next { withDev s ((s.dev.modCore c f).dispatch c) with mem := x.move c.val s.mem } ∧
      (f s.dev.chisel.cores[c]).xfers = xs ++ (s.dev.chisel.cores[c]).held.toList ∧ (f s.dev.chisel.cores[c]).held = none := by
    rw [row, onMem_eq, xferComplete, queue]
    refine ⟨_, rfl, ?_, rfl⟩
    dsimp only
    cases (s.dev.chisel.cores[c]).held <;> simp
  obtain ⟨f, done, xfers, held⟩ := done
  obtain ⟨⟨ch, frame⟩, _, r, ctx, core⟩ := Dev.dispatch_frame (s.dev.modCore c f) c
  rw [Dev.modCore_same_core] at core
  refine ⟨_, done, rfl, (congrArg Core.xfers core).trans xfers, (congrArg Core.held core).trans held, ?_, ?_, ?_, xferMove_spec x c.val s.mem⟩ <;>
    simp [withDev, frame]

/-- Settles O18: a core's queue of transfers is `queueXfer`, and a completed transfer moves by `xferMove_spec`. -/
theorem chiselBackgroundTransfers : Obligations.ChiselBackgroundTransfers := ⟨chiselTransfers, chiselTransferDone⟩

end Sys2Proof.Cert

/-!
PROOFS. Rows whose effect is a function of the device, and what counts, events and writes do to registers. A row on a unit that is in
service leads to what its function gives; every register but the written ones stays.
-/

namespace Sys2Proof.Machine

theorem Word.get_lt (w : Word) (hi lo : Nat) : w.get hi lo < 2 ^ (hi + 1 - lo) := Nat.mod_lt _ (by positivity)

theorem Word.testBit_get (w : Word) (hi lo j : Nat) : (w.get hi lo).testBit j = (decide (j < hi + 1 - lo) && w.bit (lo + j)) := by
  rw [Word.get, Nat.testBit_mod_two_pow, Nat.testBit_div_two_pow, Nat.add_comm j]
  rfl

theorem Word.get_eq_extractLsb' (w : Word) (hi lo : Nat) : w.get hi lo = (w.extractLsb' lo (hi + 1 - lo)).toNat := by
  rw [BitVec.extractLsb'_toNat, Nat.shiftRight_eq_div_pow]
  rfl

/-- A bit outside a field leaves the field. -/
theorem Word.get_or_twoPow (w : Word) {hi lo i : Nat} (hi32 : i < 32) (out : i < lo ∨ hi < i) :
    Word.get (w ||| BitVec.twoPow 32 i) hi lo = w.get hi lo := by
  refine Nat.eq_of_testBit_eq fun j => ?_
  rw [Word.testBit_get, Word.testBit_get, Word.bit_or]
  by_cases inside : j < hi + 1 - lo
  · have other : Word.bit (BitVec.twoPow 32 i) (lo + j) = false := by
      rw [Word.bit, BitVec.toNat_twoPow_of_lt hi32, Nat.testBit_two_pow_of_ne (by omega)]
    rw [other, Bool.or_false]
  · simp [inside]

/-- What each step of a fold keeps, the fold keeps. -/
theorem foldl_keeps {α β σ : Type} {f : σ → α → σ} (p : σ → β) (keeps : ∀ x a, p (f x a) = p x) (l : List α) (x : σ) :
    p (l.foldl f x) = p x := by
  induction l generalizing x with
  | nil => rfl
  | cons a l ih => rw [List.foldl_cons, ih, keeps]

end Sys2Proof.Machine

namespace Sys2Proof.Cert

open Sys2Proof.Machine

/-! ### Rows -/

section

variable {s : State} {c : Instr} {f : Dev → Dev}

theorem makes_of_onDev (row : exec c s = onDev s f) : Makes s c (f s.dev) := row

theorem leads_of_onCommit (row : exec c s = onCommit s f) : Leads s c (f s.dev) := row

theorem leads_of_onSump (row : exec c s = onSump s f) (fabric : s.dev.power.fabric = true) : Leads s c (f s.dev) := by
  rw [Leads, row, onSump, onCommit_eq, if_pos fabric]
  rfl

theorem leads_of_onTime (row : exec c s = onTime s f) (adv : s.dev.time.adv = true) : Leads s c (f s.dev) := by
  rw [Leads, row, onTime, onCommit_eq, if_pos adv]
  rfl

theorem leads_of_onLink (row : exec c s = onLink s f) (up : s.dev.domainUp Reg.SKX_PHY_CFG = true) : Leads s c (f s.dev) := by
  rw [Leads, row, onLink, onCommit_eq, if_pos up]
  rfl

end

/-! ### Registers -/

section

variable {d e f : Dev} {as bs : List Nat}

theorem SameRegsBut.of_regs (h : e.regs = d.regs) : SameRegsBut as d e := fun b _ => Dev.rd_of_regs h b

theorem SameRegsBut.trans (h : SameRegsBut as d e) (k : SameRegsBut as e f) : SameRegsBut as d f := fun b hb => (k b hb).trans (h b hb)

theorem SameRegsBut.mono (h : SameRegsBut as d e) (sub : as ⊆ bs) : SameRegsBut bs d e := fun b hb => h b fun mem => hb (sub mem)

/-- Only the registers of the second device matter. -/
theorem SameRegsBut.congr (h : SameRegsBut as d e) (k : f.regs = e.regs) : SameRegsBut as d f := h.trans (.of_regs k)

theorem sameRegs_wr (d : Dev) {a : Nat} (w : Word) (mem : a ∈ as) : SameRegsBut as d (d.wr a w) :=
  fun _ hb => d.rd_wr_ne w fun same => hb (same ▸ mem)

theorem sameRegs_fset (d : Dev) {a : Nat} (hi lo n : Nat) (mem : a ∈ as) : SameRegsBut as d (d.fset a hi lo n) := sameRegs_wr d _ mem

theorem sameRegs_raise (d : Dev) {a : Nat} (b : Nat) (mem : a ∈ as) : SameRegsBut as d (d.raise a b) :=
  fun _ hb => d.rd_raise_ne b fun same => hb (same ▸ mem)

theorem sameRegs_count (d : Dev) {a : Nat} (hi lo : Nat) (mem : a ∈ as) : SameRegsBut as d (d.count a hi lo) :=
  fun _ hb => d.rd_count_ne hi lo fun same => hb (same ▸ mem)

theorem sameRegs_count32 (d : Dev) {a : Nat} (mem : a ∈ as) : SameRegsBut as d (d.count32 a) := sameRegs_count d 31 0 mem

/-- `e` is `d` with other register words, and everything else as it was. -/
def OnlyRegs (d e : Dev) : Prop := e = { d with regs := e.regs }

theorem OnlyRegs.trans (h : OnlyRegs d e) (k : OnlyRegs e f) : OnlyRegs d f := by
  rw [OnlyRegs, h] at k
  exact k

theorem onlyRegs_wr (d : Dev) (a : Nat) (w : Word) : OnlyRegs d (d.wr a w) := rfl

theorem Set.of_rd_eq {a b : Nat} (h : Set d a b) (hrd : e.rd a = d.rd a) : Set e a b := by rwa [Set, hrd]

theorem Set.of_regs {a b : Nat} (h : Set d a b) (hregs : e.regs = d.regs) : Set e a b := h.of_rd_eq (Dev.rd_of_regs hregs a)

theorem Counted.of_regs {a hi lo : Nat} (h : Counted d e a hi lo) (hregs : f.regs = e.regs) : Counted d f a hi lo :=
  h.of_rd_eq (Dev.rd_of_regs hregs a)

/-- A field outside an event's bit stays. -/
theorem get_raise (d : Dev) (a : Nat) {hi lo b : Nat} (hb : b < 32) (out : b < lo ∨ hi < b) :
    ((d.raise a b).rd a).get hi lo = (d.rd a).get hi lo := by
  rw [Dev.rd_raise_same]
  split
  · rfl
  · exact Word.get_or_twoPow _ hb out

/-- A field of a register that has been set to a value in its range shows it. -/
theorem get_fset (d : Dev) (a : Nat) {hi lo n : Nat} (hlo : lo ≤ hi) (hhi : hi < 32) (hn : n < 2 ^ (hi + 1 - lo)) :
    ((d.fset a hi lo n).rd a).get hi lo = n := by
  rw [Dev.rd_fset_same, Word.get_put_same _ _ hlo hhi, Nat.mod_eq_of_lt hn]

end

end Sys2Proof.Cert

/-!
PROOFS. Supplies, wakes and the timers of security (R439 to R443, R452 to R457, R473, R474).
-/

namespace Sys2Proof.Cert

open Sys2Proof.Machine

/-! ### Resets of the core die -/

/-- What survives a reset of the core die reads as before. -/
theorem mapGet_filter (m : List (Nat × Word)) (p : Nat → Bool) {a : Nat} (kept : p a = true) :
    mapGet (m.filter fun x => p x.1) a = mapGet m a := by
  induction m with
  | nil => rfl
  | cons x m ih =>
    obtain ⟨b, w⟩ := x
    rw [List.filter_cons]
    by_cases same : b = a
    · subst same
      simp [kept, mapGet]
    · split <;> simp [mapGet, same, ih]

theorem rd_resetCore (d : Dev) {a : Nat} (kept : survivesReset a = true) : d.resetCore.rd a = d.rd a := by
  simp only [Dev.rd, Dev.resetCore, mapGet_filter d.regs survivesReset kept]

theorem counted_reachDormant (d : Dev) : Counted d d.reachDormant Reg.POWER_AON_CNT 31 16 := by
  have counted : Counted d.resetCore d.reachDormant Reg.POWER_AON_CNT 31 16 :=
    (counted_count Reg.POWER_AON_CNT (by decide) (by decide)).of_regs rfl
  rwa [Counted, rd_resetCore d (by decide)] at counted

/-- Whether an emergency at `d` is the third within ten seconds (R441). -/
def thirdEmergency (d : Dev) : Bool :=
  decide (3 ≤ (d.time.cycle :: d.power.emergencies.filter fun c => decide (d.time.cycle ≤ c + 4915200000)).length)

/-- An emergency entry with the rails up: Dormant with its causes. -/
theorem emergency_eq {d : Dev} (rails : d.power.rails = 6) (sequencing : d.power.sequencing = false) (removing : d.power.removing = false) :
    ∃ e : Dev, Set e Reg.POWER_AON_CAUSE 2 ∧ (thirdEmergency d = true → Set e Reg.POWER_AON_CAUSE 4) ∧
      e.power = d.clearKeys.reachDormant.power ∧ e.sec = d.clearKeys.reachDormant.sec ∧
      d.emergency = e.modPower fun p => { p with
        emergencies := d.time.cycle :: d.power.emergencies.filter fun c => decide (d.time.cycle ≤ c + 4915200000)
        restartLimit := thirdEmergency d, pgFault := true, autoDue := !thirdEmergency d } := by
  refine ⟨if thirdEmergency d then (d.clearKeys.reachDormant.cause 2).cause 4 else d.clearKeys.reachDormant.cause 2, ?_, fun third => ?_,
    ?_, ?_, ?_⟩
  · split
    · exact (set_raise _ (by decide)).raise _ _
    · exact set_raise _ (by decide)
  · rw [if_pos third]
    exact set_raise _ (by decide)
  · split <;> simp [Dev.cause]
  · split <;> simp [Dev.cause]
  · rw [Dev.emergency, if_neg (by simp [rails, sequencing, removing])]
    rfl

/-! ### Timers of security -/

/-- Settles O41: each row is one update of the security block, and the halt is guarded by session and paths. -/
theorem debugTimers : Obligations.DebugTimers := by
  intro s
  have halts : Makes s .debugHalt s.dev.halt := makes_of_onDev rfl
  refine ⟨fun full quiet => ?_, fun tx => ?_, fun low => ?_, ?_, ?_⟩
  · rwa [Dev.halt, if_pos ⟨full, by simp [quiet]⟩] at halts
  · rwa [Dev.halt, if_neg fun halt => halt.2 tx] at halts
  · rwa [Dev.halt, if_neg fun halt => Nat.not_lt.mpr halt.1 low] at halts
  · exact makes_of_onDev (f := fun d => { d with sec := { d.sec with nonce := none } }) rfl
  · exact makes_of_onDev (f := fun d => { d with sec := { d.sec with lockout := false } }) rfl

/-! ### Rails -/

theorem railSequence : RailSequence := by
  intro s
  refine ⟨fun sequencing => ⟨?_, fun good more => ?_, fun good full => ?_, fun arrives => ?_, fun alone low => ?_⟩,
    fun step more => ?_, fun step last => ?_⟩
  · have row : Makes s .pgoodRise s.dev.pgoodRise := makes_of_onDev rfl
    rwa [Dev.pgoodRise, if_pos sequencing] at row
  · have row : Makes s .railSequenceStep s.dev.railStep := makes_of_onDev rfl
    rwa [Dev.railStep, sequencing, good, if_neg (by decide), if_pos more] at row
  · have row : Makes s .railSequenceStep s.dev.railStep := makes_of_onDev rfl
    rwa [Dev.railStep, sequencing, good, if_neg (by decide), if_neg (Nat.not_lt.mpr full)] at row
  · exact unlessNow_arrives _ _ _ arrives
  · have row : Makes s .pgoodTimeout s.dev.pgoodTimeout := unlessNow_else _ _ _ alone
    rw [Dev.pgoodTimeout, sequencing, low, if_pos (by decide)] at row
    refine ⟨_, row, (set_raise _ (by decide)).of_regs rfl, (sameRegs_raise _ _ (List.mem_singleton_self _)).congr rfl, ?_⟩
    simp [Dev.modPower, Dev.cause]
  · have row : Makes s .railRemoveStep s.dev.railRemove := makes_of_onDev rfl
    rwa [Dev.railRemove, if_neg (not_not.mpr step), if_neg (Nat.not_le.mpr more)] at row
  · have row : Makes s .railRemoveStep s.dev.railRemove := makes_of_onDev rfl
    rw [Dev.railRemove, if_neg (not_not.mpr step), if_pos last] at row
    exact ⟨_, row, rfl, rfl, rfl, rfl, counted_reachDormant s.dev⟩

theorem supplyFault : SupplyFault := by
  intro s
  refine ⟨fun rails sequencing removing => ?_, fun dev phase due reset auto => ?_⟩
  · have row : Makes s .pgoodFault s.dev.emergency := makes_of_onDev rfl
    obtain ⟨e, cause, twice, power, sec, emergency⟩ := emergency_eq rails sequencing removing
    rw [emergency] at row
    refine ⟨_, row, ?_, ?_, ?_, ?_, cause.of_regs rfl, rfl, rfl, fun limit => (twice limit).of_regs rfl, ?_⟩
    · simp [Dev.modPower, power, Dev.reachDormant]
    · simp [Dev.modPower, power, Dev.reachDormant]
    · simp [Dev.modPower, power, Dev.reachDormant, Dev.resetCore]
    · exact congrArg Sec.kFlow sec
    · simp [Dev.modPower, thirdEmergency]
  · have row : Makes s .autoRestart s.dev.autoRestart := makes_of_onDev rfl
    rw [Dev.autoRestart, if_pos ⟨dev, phase, due, by simp [reset], auto⟩] at row
    exact ⟨_, row, rfl, rfl, rfl, rfl, rfl, rfl⟩

theorem avsSetPoint : AvsSetPoint := by
  intro s fabric enabled
  have lt := Word.get_lt (s.dev.rd Reg.POWER_VOLT) 31 16
  have lowers : Leads s .avsStep s.dev.avsStep := leads_of_onSump rfl fabric
  have raises : Leads s .avsMarginLow s.dev.avsRaise := leads_of_onSump rfl fabric
  rw [Dev.avsStep, if_pos enabled] at lowers
  rw [Dev.avsRaise, if_pos enabled] at raises
  exact ⟨⟨_, lowers, get_fset _ _ (by decide) (by decide) (by simp only [Dev.fget]; omega), sameRegs_fset _ _ _ _ (List.mem_singleton_self _), rfl⟩,
    ⟨_, raises, get_fset _ _ (by decide) (by decide) (by omega), sameRegs_fset _ _ _ _ (List.mem_singleton_self _), rfl⟩⟩

/-- Settles O36: the sequence and its removal by the guards of each row, the entry of a fault by `emergency_eq`. -/
theorem rails : Obligations.Rails := ⟨railSequence, supplyFault, avsSetPoint⟩

/-! ### Wakes -/

/-- The state of a wake (R456): a target that is no state is Standby. -/
def wakeState (n : Nat) : Nat := if n = 3 then 0 else n

/-- In Dormant with no wake latched, a wake records its cause and is latched with its target. -/
theorem wake_latches {d : Dev} (dev : d.power.dev = 1) (phase : d.power.phase = 0) (step : d.power.dormantStep = 0)
    (latch : d.power.wakeLatch = none) (src target : Nat) :
    (d.wake src target).regs = (d.cause src).regs ∧ (d.wake src target).power = { d.power with wakeLatch := some (wakeState target) } := by
  have dormant : (d.cause src).power.dev = 1 ∧ (d.cause src).power.phase = 0 ∨ (d.cause src).power.dormantStep ≠ 0 := by
    simp [Dev.cause, dev, phase]
  unfold Dev.wake
  dsimp only
  rw [if_pos dormant]
  refine ⟨rfl, ?_⟩
  simp [Dev.modPower, Dev.cause, latch, step, wakeState]

theorem wakesFromDormant : WakesFromDormant := by
  intro s dev phase step latch target
  have dormant : s.dev.dormant = true := by simp [Dev.dormant, dev, phase]
  refine ⟨fun enabled => ?_, fun enabled clock => ?_, fun clock rx enabled => ?_, fun clock rx chips enabled accepted action => ?_⟩
  · have row : Makes s .wakeNWake s.dev.wakeN := makes_of_onDev rfl
    rw [Dev.wakeN, if_neg (by simp [dev]), if_pos dormant, if_pos enabled] at row
    obtain ⟨regs, power⟩ := wake_latches dev phase step latch 16 (s.dev.fget Reg.POWER_AON_CFG 27 26)
    exact ⟨_, row, (set_raise _ (by decide)).of_regs regs, (sameRegs_raise _ _ (List.mem_singleton_self _)).congr regs, power⟩
  · have row : Makes s .wakeTimer s.dev.wakeTimer := makes_of_onDev rfl
    rw [Dev.wakeTimer, if_pos ⟨dev, phase, enabled, clock⟩] at row
    obtain ⟨regs, power⟩ := wake_latches dev phase step latch 17 (s.dev.fget Reg.POWER_AON_CFG 25 24)
    exact ⟨_, row, (set_raise _ (by decide)).of_regs regs, (sameRegs_raise _ _ (List.mem_singleton_self _)).congr regs, power⟩
  · have row : Makes s (.wakeEnergyDetect rx) (s.dev.energyWake rx) := makes_of_onDev (f := fun d => d.energyWake rx) rfl
    have works : (s.dev.wakeWorks && (s.dev.rd (Reg.WAKE_CFG (wakeTile rx))).bit 30) = true := by
      simp [Dev.wakeWorks, dev, clock, wakeTile, enabled]
    have sleeps : (s.dev.raise (Reg.WAKE_STATUS (wakeTile rx)) 10).dormant = true := by simp [Dev.dormant, dev, phase]
    have target_ : (s.dev.raise (Reg.WAKE_STATUS (wakeTile rx)) 10).fget Reg.POWER_AON_CFG 23 22 = (s.dev.rd Reg.POWER_AON_CFG).get 23 22 := by
      rw [Dev.fget, Dev.rd_raise_ne _ _ (by simp only [Reg.WAKE_STATUS, Reg.POWER_AON_CFG]; omega)]
    rw [Dev.energyWake, if_pos works, if_pos sleeps, target_] at row
    obtain ⟨regs, power⟩ := wake_latches (d := s.dev.raise (Reg.WAKE_STATUS (wakeTile rx)) 10) (by simp [dev]) (by simp [phase])
      (by simp [step]) (by simp [latch]) (18 + 2 * rx.val) ((s.dev.rd Reg.POWER_AON_CFG).get 23 22)
    rw [Dev.raise_power] at power
    exact ⟨_, row, (set_raise _ (by omega)).of_regs regs, ((set_raise _ (by decide)).raise _ _).of_regs regs, power⟩
  · have row : Makes s (.wakeCodeAccept rx chips) (s.dev.codeWake rx chips) := makes_of_onDev (f := fun d => d.codeWake rx chips) rfl
    have works : (s.dev.wakeWorks && (s.dev.rd (Reg.WAKE_CFG (wakeTile rx))).bit 31 && s.dev.codeAccepted (wakeTile rx) chips) = true := by
      simp [Dev.wakeWorks, dev, clock, wakeTile, enabled, accepted]
    have code : Word.get chips 13 12 = (chips.extractLsb' 12 2).toNat := Word.get_eq_extractLsb' chips 13 12
    have state : (chips.extractLsb' 12 2).toNat ≠ 3 := fun same => action (BitVec.eq_of_toNat_eq same)
    have sleeps : ((((s.dev.fset (Reg.WAKE_STATUS (wakeTile rx)) 13 12 (Word.get chips 13 12)).raise (Reg.WAKE_STATUS (wakeTile rx)) 11).dormant) &&
        Word.get chips 13 12 != 3) = true := by
      rw [code, bne_iff_ne.mpr state]
      simp [Dev.dormant, dev, phase]
    rw [Dev.codeWake, if_pos works, if_pos sleeps, code] at row
    obtain ⟨regs, power⟩ := wake_latches
      (d := (s.dev.fset (Reg.WAKE_STATUS (wakeTile rx)) 13 12 (chips.extractLsb' 12 2).toNat).raise (Reg.WAKE_STATUS (wakeTile rx)) 11)
      (by simp [dev]) (by simp [phase]) (by simp [step]) (by simp [latch]) (19 + 2 * rx.val) (chips.extractLsb' 12 2).toNat
    rw [Dev.raise_power, Dev.fset_power, wakeState, if_neg state] at power
    refine ⟨_, row, (set_raise _ (by omega)).of_regs regs, ((set_raise _ (by decide)).raise _ _).of_regs regs, ?_, power⟩
    rw [Dev.rd_of_regs regs, Dev.cause, Dev.rd_raise_ne _ _ (by simp only [Reg.WAKE_STATUS, Reg.POWER_AON_CAUSE]; omega), wakeTile,
      get_raise _ _ (by decide) (by decide), get_fset (hi := 13) (lo := 12) _ _ (by decide) (by decide) (BitVec.isLt _)]

theorem railsStarted_power (d : Dev) (t : Nat) :
    ((d.modPower fun p => { p with wakeLatch := none, wokeOwed := true, autoDue := false }).startRails t).power =
      { d.power with wakeLatch := none, wokeOwed := true, autoDue := false, phase := 2, startTgt := t, sequencing := true, rails := 1,
                     pgood := false, removing := false } := rfl

theorem railsStarted_regs (d : Dev) (t : Nat) :
    ((d.modPower fun p => { p with wakeLatch := none, wokeOwed := true, autoDue := false }).startRails t).regs = d.regs := rfl

theorem wakeTakenStarts : WakeTakenStarts := by
  intro s t
  refine ⟨fun dev phase reset latch => ?_, fun on => ⟨?_, ?_⟩⟩
  · have row : Makes s .wakeTaken s.dev.wakeTaken := makes_of_onDev rfl
    rw [Dev.wakeTaken, latch] at row
    dsimp only at row
    rw [if_pos ⟨dev, phase, by simp [reset]⟩] at row
    exact ⟨_, row, (counted_count _ (by decide) (by decide)).of_regs (railsStarted_regs _ t),
      (sameRegs_count _ _ _ (List.mem_singleton_self _)).congr (railsStarted_regs _ t), by rw [railsStarted_power, Dev.count_power]⟩
  · have row : Makes s .slowclkLost (s.dev.setSlowclk false) := makes_of_onDev (f := fun d => d.setSlowclk false) rfl
    rwa [Dev.setSlowclk, if_neg on] at row
  · have row : Makes s .slowclkRestored (s.dev.setSlowclk true) := makes_of_onDev (f := fun d => d.setSlowclk true) rfl
    rwa [Dev.setSlowclk, if_neg on] at row

/-- Settles O39: a wake in Dormant is `wake_latches` behind its receiver's guard. -/
theorem wakes : Obligations.Wakes := ⟨wakesFromDormant, wakeTakenStarts⟩

/-! ### Transitions between Standby and Ready -/

@[simp] theorem setDomains_dev (d : Dev) (n : Nat) : (d.setDomains n).power.dev = d.power.dev := by
  unfold Dev.setDomains
  split <;> rfl

@[simp] theorem endCmd_power (d : Dev) (id : Option Nat) (status : Nat) (results : List Word) : (d.endCmd id status results).power = d.power := by
  cases id <;> rfl

@[simp] theorem commitLevels_power (d : Dev) (l : Nat) : (d.commitLevels l).power = d.power := by
  refine foldl_keeps Dev.power (fun d t => ?_) _ d
  split
  · rfl
  · simp

/-- The next step of a request begins or is refused: the device stays in its state. -/
@[simp] theorem stepPower_dev (d : Dev) : d.stepPower.1.power.dev = d.power.dev := by
  unfold Dev.stepPower
  split
  · rfl
  · dsimp only
    split
    · simp [Dev.modPower]
    · split
      · simp [Dev.modPower]
      · split
        · simp [Dev.solverAbandon, Dev.modPower]
        · split <;> simp [Dev.modPower]

@[simp] theorem nextRequest_dev (d : Dev) : d.nextRequest.power.dev = d.power.dev := by
  unfold Dev.nextRequest
  split
  · rfl
  · dsimp only
    split <;> simp [Dev.modPower]

@[simp] theorem arrived_dev (d : Dev) : d.arrived.power.dev = d.power.dev := by
  unfold Dev.arrived
  split
  · rfl
  · dsimp only
    split
    · simp [Dev.modPower]
    · split
      · exact stepPower_dev _
      · rw [nextRequest_dev]
        exact stepPower_dev _

/-- The step that reaches the target of a request without a command ends it (R453). -/
theorem arrived_at {d : Dev} {r : PowerReq} (cur : d.power.cur = some r) (slot : d.power.slot = none) (cmd : r.cmd = none)
    (target : r.target = d.power.dev) :
    d.arrived.power = { d.power with stepTo := none, cur := none } ∧ Set d.arrived Reg.POWER_EVT 0 ∧
      SameRegsBut [Reg.POWER_EVT] d d.arrived := by
  have ends : d.arrived = ((d.modPower fun p => { p with stepTo := none }).raise Reg.POWER_EVT 0).modPower fun p => { p with cur := none } := by
    unfold Dev.arrived
    rw [cur]
    dsimp only
    rw [if_pos (show r.target = (d.modPower fun p => { p with stepTo := none }).power.dev from target), cmd, Dev.endCmd, Dev.nextRequest]
    simp only [Dev.modPower, Dev.raise_power, slot]
  rw [ends]
  refine ⟨by simp [Dev.modPower], (set_raise _ (by decide)).of_regs rfl, ?_⟩
  exact (sameRegs_raise (d.modPower fun p => { p with stepTo := none }) 0 (List.mem_singleton_self _)).congr rfl

/-! A transition of tiles leaves the power controller and every register below the tiles' block. -/

structure TileWork (d e : Dev) : Prop where
  power : e.power = d.power
  regs : ∀ a < 0x100000, e.rd a = d.rd a

theorem TileWork.refl (d : Dev) : TileWork d d := ⟨rfl, fun _ _ => rfl⟩

theorem TileWork.trans {d e f : Dev} (h : TileWork d e) (k : TileWork e f) : TileWork d f :=
  ⟨k.power.trans h.power, fun a low => (k.regs a low).trans (h.regs a low)⟩

theorem TileWork.foldl {α : Type} {f : Dev → α → Dev} (works : ∀ d a, TileWork d (f d a)) (l : List α) (d : Dev) : TileWork d (l.foldl f d) := by
  induction l generalizing d with
  | nil => exact .refl d
  | cons a l ih => exact (works d a).trans (ih (f d a))

theorem tileWork_modTile (d : Dev) (t : Fin 4) (f : Tile → Tile) : TileWork d (d.modTile t f) := ⟨rfl, fun _ _ => rfl⟩

theorem tileWork_modPath (d : Dev) (p : Fin 64) (f : PathSt → PathSt) : TileWork d (d.modPath p f) := ⟨rfl, fun _ _ => rfl⟩

theorem tileWork_event (d : Dev) (t : Fin 4) (b : Nat) : TileWork d (d.raise (Reg.TILE_EVT t) b) := by
  refine ⟨Dev.raise_power .., fun a low => Dev.rd_raise_ne _ _ ?_⟩
  simp only [Reg.TILE_EVT]
  omega

/-- A level below SynthOn begins with updates of the tile and its paths alone. -/
theorem tileWork_beginLevel (d : Dev) (t : Fin 4) {l : Nat} (low : l < 2) : TileWork d (d.beginLevel t l) := by
  unfold Dev.beginLevel
  dsimp only
  split
  · exact .refl d
  · rw [if_neg (by omega)]
    have idle : TileWork d (d.idlePaths t) := .foldl (fun d p => tileWork_modPath d p _) _ d
    exact ((idle.trans (tileWork_modTile ..)).trans (tileWork_modTile ..)).trans (tileWork_modTile ..)

theorem tileWork_landLevel (d : Dev) (t : Fin 4) : TileWork d (d.landLevel t 0) := by
  have low : d.levelOf 0 < 2 := by
    unfold Dev.levelOf
    split <;> omega
  have begins (f : Tile → Tile) : TileWork d ((d.modTile t f).beginLevel t (d.levelOf 0)) :=
    (tileWork_modTile d t f).trans (tileWork_beginLevel (d.modTile t f) t low)
  unfold Dev.landLevel
  dsimp only
  split
  · exact .refl d
  · split
    · exact begins _
    · split
      · split
        · exact (begins _).trans (tileWork_event ..)
        · exact begins _
      · exact tileWork_modTile ..

/-- What the abort of a step to Ready shows (R452). -/
def abortNoted (d : Dev) : Dev := ((d.count32 Reg.POWER_ABORTED).fset Reg.POWER_LAST 15 0 0x102).raise Reg.POWER_EVT 4

/-- Standby, where LEVEL acts as 0, with no request in progress. -/
def backToStandby (d : Dev) : Dev :=
  (List.finRange 4).foldl (fun d t => d.landLevel t 0)
    ((d.modPower fun p => { p with cur := none, stepTo := none, phase := if p.phase = 9 then 0 else p.phase }).setDomains 2)

theorem backToStandby_rd (d : Dev) {a : Nat} (low : a < 0x100000) : (backToStandby d).rd a = d.rd a :=
  (TileWork.foldl (fun x t => tileWork_landLevel x t) _ _).regs a low

theorem backToStandby_power (d : Dev) : (backToStandby d).power = { d.power with
    cur := none, stepTo := none, phase := if d.power.phase = 9 then 0 else d.power.phase, ctrl := .on, skx := .on, dsp := .retain,
    chisel := .retain, tile := Vector.replicate 4 .on } :=
  (TileWork.foldl (fun x t => tileWork_landLevel x t) _ _).power

@[simp] theorem abortNoted_power (d : Dev) : (abortNoted d).power = d.power := by
  rw [abortNoted, Dev.raise_power, Dev.fset_power, Dev.count32_power]

theorem backToStandby_spec (d : Dev) : (backToStandby d).power.dev = d.power.dev ∧ (backToStandby d).power.cur = none ∧
    (backToStandby d).power.stepTo = none ∧ (backToStandby d).power.dsp = .retain ∧ (backToStandby d).power.slot = d.power.slot := by
  rw [backToStandby_power]
  exact ⟨rfl, rfl, rfl, rfl, rfl⟩

/-- A request without a command, and with none behind it, that aborts on its way to Ready. -/
theorem abortReady_eq {d : Dev} {r : PowerReq} (cur : d.power.cur = some r) (slot : d.power.slot = none) (cmd : r.cmd = none) :
    d.abortReady = backToStandby (abortNoted d) := by
  obtain ⟨_, _, _, _, waits⟩ := backToStandby_spec (abortNoted d)
  have ends : d.abortReady = (backToStandby (abortNoted d)).nextRequest := by
    simp only [Dev.abortReady, cur, cmd, Dev.endCmd, backToStandby, abortNoted]
  rw [ends, Dev.nextRequest, waits, abortNoted_power, slot]

/-- The step to Ready aborts: counted, its code and event shown, and Standby again (R452). -/
theorem abortReady_spec {d : Dev} {r : PowerReq} (cur : d.power.cur = some r) (slot : d.power.slot = none) (cmd : r.cmd = none) :
    d.abortReady.power.dev = d.power.dev ∧ d.abortReady.power.cur = none ∧ d.abortReady.power.stepTo = none ∧
      d.abortReady.power.dsp = .retain ∧ (d.abortReady.rd Reg.POWER_LAST).get 15 0 = 0x102 ∧ Set d.abortReady Reg.POWER_EVT 4 ∧
      Counted d d.abortReady Reg.POWER_ABORTED 31 0 := by
  have last : ((abortNoted d).rd Reg.POWER_LAST).get 15 0 = 0x102 := by
    rw [abortNoted, Dev.rd_raise_ne _ _ (by decide), get_fset _ _ (by decide) (by decide) (by decide)]
  have event : Set (abortNoted d) Reg.POWER_EVT 4 := set_raise _ (by decide)
  have counted : Counted d (abortNoted d) Reg.POWER_ABORTED 31 0 := by
    refine (counted_count32 Reg.POWER_ABORTED).of_rd_eq ?_
    rw [abortNoted, Dev.rd_raise_ne _ _ (by decide), Dev.rd_fset_ne _ _ _ _ (by decide)]
  have shows := fun {a : Nat} => backToStandby_rd (abortNoted d) (a := a)
  obtain ⟨dev, idle, step, dsp, _⟩ := backToStandby_spec (abortNoted d)
  rw [abortReady_eq cur slot cmd]
  exact ⟨dev.trans (congrArg Power.dev (abortNoted_power d)), idle, step, dsp, by rw [shows (by decide), last],
    event.of_rd_eq (shows (by decide)), counted.of_rd_eq (shows (by decide))⟩

/-- Settles O37: a completed step is `arrived_at` where it ends the request, and the timeout is `abortReady_spec`. -/
theorem powerTransitions : Obligations.PowerTransitions := by
  intro s
  have row : Leads s .powerTransitionDone s.dev.transitionDone := leads_of_onCommit rfl
  have up : s.dev.power.dev = 2 → s.dev.power.stepTo = some 3 → s.dev.someSynthOn = true →
      s.dev.transitionDone = (s.dev.modPower fun p => { p with dev := 3 }).arrived := by
    intro dev step on
    rw [Dev.transitionDone, dev, step]
    exact if_pos on
  have down : s.dev.power.dev = 3 → s.dev.power.stepTo = some 2 →
      s.dev.transitionDone = ((s.dev.modPower fun p => { p with dev := 2 }).setDomains 2).arrived := by
    intro dev step
    rw [Dev.transitionDone, dev, step]
    rfl
  refine ⟨fun dev step on => ⟨_, row, ?_⟩, fun dev step => ⟨_, row, ?_⟩, fun r cur slot cmd => ?_⟩
  · rw [up dev step on, arrived_dev]
    rfl
  · rw [down dev step, arrived_dev, setDomains_dev]
    rfl
  · refine ⟨fun dev step target on => ⟨_, row, ?_⟩, fun dev step target => ⟨_, row, ?_⟩, fun arrives => unlessNow_arrives _ _ _ arrives,
      fun alone dev step off => ?_⟩
    · obtain ⟨power, event, regs⟩ := arrived_at (d := s.dev.modPower fun p => { p with dev := 3 }) cur slot cmd target
      rw [up dev step on]
      exact ⟨power, event, regs⟩
    · obtain ⟨power, event, regs⟩ := arrived_at (d := (s.dev.modPower fun p => { p with dev := 2 }).setDomains 2) cur slot cmd target
      rw [down dev step, power]
      exact ⟨rfl, rfl, rfl, rfl, rfl, event, regs⟩
    · have times : Leads s .powerSynthTimeout s.dev.synthTimeout := by
        dsimp only [Leads, exec]
        exact unlessNow_else _ _ _ alone
      rw [Dev.synthTimeout, if_pos ⟨step, dev, by simp [off]⟩] at times
      obtain ⟨stays, ends⟩ := abortReady_spec cur slot cmd
      exact ⟨_, times, stays.trans dev, ends⟩

end Sys2Proof.Cert

/-!
PROOFS. Pulses, TSYNC and time messages (R330, R331, R337, R338, R345 to R347). The servo and a step of local time touch the registers
TIME_EPOCH and TIME_EVT alone, so what an edge has written before them stands.
-/

namespace Sys2Proof.Cert

open Sys2Proof.Machine

/-! ### What steering leaves -/

@[simp] theorem endCmd_regs (d : Dev) (id : Option Nat) (status : Nat) (results : List Word) : (d.endCmd id status results).regs = d.regs := by
  cases id <;> rfl

theorem sameRegs_modTime {as : List Nat} (d : Dev) (f : TimeUnit → TimeUnit) : SameRegsBut as d (d.modTime f) := .of_regs rfl

/-- The registers that a step of local time writes. -/
def stepRegs : List Nat := [Reg.TIME_EPOCH, Reg.TIME_EVT]

theorem sameRegs_unlock (d : Dev) : SameRegsBut stepRegs d d.unlock := by
  unfold Dev.unlock
  dsimp only
  split
  · exact sameRegs_raise (d.modTime _) _ (by decide)
  · exact .of_regs rfl

theorem sameRegs_stepNow (d : Dev) : SameRegsBut stepRegs d d.stepNow := by
  unfold Dev.stepNow
  split
  · exact .of_regs rfl
  · next step _ =>
    dsimp only
    generalize moved : (d.modTime fun t => { t with
      now := (if step.abs then step.amount.toNat else ((d.time.now : Int) + step.amount).toNat) % 2 ^ 96, step := none }) = e
    have same : e.regs = d.regs := moved ▸ rfl
    have counted : SameRegsBut stepRegs e ((e.wr Reg.TIME_EPOCH (e.rd Reg.TIME_EPOCH + 1)).unlock.raise Reg.TIME_EVT 4) :=
      ((sameRegs_wr e _ (by decide)).trans (sameRegs_unlock _)).trans (sameRegs_raise _ _ (by decide))
    have all := (SameRegsBut.of_regs (as := stepRegs) same).trans counted
    split
    · exact all.congr (endCmd_regs ..)
    · exact all.congr (endCmd_regs ..)

theorem sameRegs_requestStep (d : Dev) (abs : Bool) (amount : Int) (cmd : Option Nat) : SameRegsBut stepRegs d (d.requestStep abs amount cmd) := by
  have asks : ∀ (e : Dev) (f : TimeUnit → TimeUnit), e.regs = d.regs →
      SameRegsBut stepRegs d (if (e.modTime f).cad.running then e.modTime f else (e.modTime f).stepNow) := by
    intro e f same
    have asked : SameRegsBut stepRegs d (e.modTime f) := .of_regs same
    split
    · exact asked
    · exact asked.trans (sameRegs_stepNow _)
  unfold Dev.requestStep
  dsimp only
  split
  · exact asks _ _ (endCmd_regs ..)
  · exact asks d _ rfl

theorem sameRegs_servo (d : Dev) (theta : Int) (t : Nat) : SameRegsBut stepRegs d (d.servo theta t) := by
  unfold Dev.servo
  split
  · exact .of_regs rfl
  · dsimp only
    split
    · exact sameRegs_requestStep _ _ _ _
    · exact .of_regs rfl

theorem sameRegs_tsyncLose (d : Dev) : SameRegsBut stepRegs d d.tsyncLose := by
  unfold Dev.tsyncLose
  split
  · exact .of_regs rfl
  · exact sameRegs_raise (d.modTime _) _ (by decide)

/-! ### Pulses and TSYNC -/

theorem tsyncLose_eq {d : Dev} (used : d.time.tsyncDrop = false) :
    d.tsyncLose = (d.modTime fun t => { t with fine := false, tsyncDrop := true }).raise Reg.TIME_EVT 8 :=
  if_neg (Bool.eq_false_iff.mp used)

/-- Bits [32 + lo + 31 : lo] of a stamp as a word. -/
theorem ofNat_toNat_div (st : BitVec 96) (lo : Nat) : BitVec.ofNat 32 (st.toNat / 2 ^ lo) = st.extractLsb' lo 32 := by
  refine BitVec.eq_of_toNat_eq ?_
  rw [BitVec.toNat_ofNat, BitVec.extractLsb'_toNat, Nat.shiftRight_eq_div_pow]

/-- An edge of TSYNC writes its error and steers; the error stands. -/
theorem tsyncEdge_shows {d : Dev} (listens : d.tsyncListens = true) (stamp : Nat) : (d.tsyncEdge stamp).rd Reg.TIME_TSYNC_ERR =
    BitVec.ofNat 32 (unsigned 32 (toPs (fromNearest stamp d.tsyncPeriod - ofPs (signed 32 (d.rd Reg.TIME_TSYNC_DLY).toNat)))) := by
  unfold Dev.tsyncEdge
  rw [if_neg (by simp [listens])]
  dsimp only
  generalize toPs (fromNearest stamp d.tsyncPeriod - ofPs (signed 32 (d.rd Reg.TIME_TSYNC_DLY).toNat)) = err
  have stands : ∀ e : Dev, SameRegsBut stepRegs (d.wr Reg.TIME_TSYNC_ERR (BitVec.ofNat 32 (unsigned 32 err))) e →
      e.rd Reg.TIME_TSYNC_ERR = BitVec.ofNat 32 (unsigned 32 err) := fun e same => (same _ (by decide)).trans (Dev.rd_wr_same ..)
  refine stands _ ?_
  split
  · exact .of_regs rfl
  · generalize (fun t : TimeUnit => _) = counts
    split
    · exact (sameRegs_modTime _ counts).trans (sameRegs_tsyncLose _)
    · split
      · exact (sameRegs_modTime _ counts).trans ((sameRegs_modTime _ _).trans (sameRegs_servo _ _ _))
      · exact .of_regs rfl

/-- An edge of PPS_IN is stamped; where PPS_IN is the source of time, the servo acts on it (R345). -/
theorem ppsIn_shows (d : Dev) (st : BitVec 96) :
    (d.ppsIn st.toNat).rd Reg.TIME_PPS_IN_LO = st.extractLsb' 32 32 ∧ (d.ppsIn st.toNat).rd Reg.TIME_PPS_IN_HI = st.extractLsb' 64 32 ∧
      (d.timeSrc ≠ 2 → d.ppsIn st.toNat = { d with regs := (d.ppsIn st.toNat).regs } ∧
        SameRegsBut [Reg.TIME_PPS_IN_LO, Reg.TIME_PPS_IN_HI] d (d.ppsIn st.toNat)) := by
  let e := (d.wr Reg.TIME_PPS_IN_LO (st.extractLsb' 32 32)).wr Reg.TIME_PPS_IN_HI (st.extractLsb' 64 32)
  have stamped : SameRegsBut [Reg.TIME_PPS_IN_LO, Reg.TIME_PPS_IN_HI] d e :=
    (sameRegs_wr d _ (by decide)).trans (sameRegs_wr _ _ (by decide))
  have source : e.timeSrc = d.timeSrc := congrArg (Word.get · 29 28) (stamped Reg.TIME_CFG (by decide))
  have edge : d.ppsIn st.toNat = if d.timeSrc = 2 then e.servo (fromNearest st.toNat (1000000000 * fracScale)) (1000000000 * fracScale) else e := by
    rw [← source]
    simp only [Dev.ppsIn, ofNat_toNat_div, e]
  have steers : SameRegsBut stepRegs e (d.ppsIn st.toNat) := by
    rw [edge]
    split
    · exact sameRegs_servo _ _ _
    · exact .of_regs rfl
  refine ⟨(steers _ (by decide)).trans ?_, (steers _ (by decide)).trans (Dev.rd_wr_same ..), fun other => ?_⟩
  · rw [Dev.rd_wr_ne _ _ (by decide), Dev.rd_wr_same]
  · rw [edge, if_neg other]
    exact ⟨(onlyRegs_wr d _ _).trans (onlyRegs_wr _ _ _), stamped⟩

/-- Settles O26: each row is its unit's update, and what an edge shows stands after the servo. -/
theorem pulsesAndTsync : Obligations.PulsesAndTsync := by
  intro s st adv edge
  have times : ¬ ArrivesNow s edge → Leads s .tsyncEdgeTimeout s.dev.tsyncTimeout := fun alone =>
    leads_of_onTime (f := Dev.tsyncTimeout) (by dsimp only [exec]; exact unlessNow_else _ _ _ alone) adv
  refine ⟨fun mode => ⟨?_, ?_⟩, ?inEdge, fun drives => ?instant, fun arrives => unlessNow_arrives _ _ _ arrives,
    fun alone listens few => ?first, fun alone listens many drop => ?third, fun listens => ?edge⟩
  · have row : Leads s .ppsSecond s.dev.ppsSecond := leads_of_onTime rfl adv
    rwa [Dev.ppsSecond, Dev.fget, if_pos mode] at row
  · have row : Leads s .ppsWidthEnd s.dev.ppsWidthEnd := leads_of_onTime rfl adv
    rwa [Dev.ppsWidthEnd, Dev.fget, if_pos mode] at row
  case inEdge => exact ⟨_, leads_of_onTime (f := fun d => d.ppsIn st.toNat) rfl adv, ppsIn_shows s.dev st⟩
  case instant =>
    have row : Leads s (.tsyncInstant true) (s.dev.tsyncInstant true) := leads_of_onTime (f := fun d => d.tsyncInstant true) rfl adv
    rw [Dev.tsyncInstant, drives, if_pos (by decide)] at row
    exact ⟨_, row, Dev.raise_time .., set_raise _ (by decide), (sameRegs_raise (s.dev.modTime _) _ (List.mem_singleton_self _))⟩
  case first =>
    have row := times alone
    rwa [Dev.tsyncTimeout, if_neg (by simp [listens]), if_neg] at row
    exact Nat.not_le.mpr (Nat.succ_lt_succ few)
  case third =>
    have row := times alone
    have enough : 3 ≤ (s.dev.modTime fun t => { t with tsyncMiss := t.tsyncMiss + 1 }).time.tsyncMiss := Nat.succ_le_succ many
    rw [Dev.tsyncTimeout, if_neg (by simp [listens])] at row
    dsimp only at row
    rw [if_pos enough, tsyncLose_eq (d := s.dev.modTime fun t => { t with tsyncMiss := t.tsyncMiss + 1 }) drop] at row
    exact ⟨_, row, by simp [Dev.modTime], by simp [Dev.modTime], set_raise _ (by decide)⟩
  case edge =>
    exact ⟨_, leads_of_onTime (f := fun d => d.tsyncEdge st.toNat) rfl adv, tsyncEdge_shows listens st.toNat⟩

/-! ### Exchanges of time messages -/

/-- A message that is taken leaves the inbox, and nothing else changes. -/
theorem take_frame {d d1 : Dev} {p : Inbox → Bool} {m : Inbox} (taken : d.take p = some (m, d1)) :
    d1.time = d.time ∧ d1.regs = d.regs ∧ d1.link.txSet = d.link.txSet ∧ d1.link.rxSet = d.link.rxSet := by
  unfold Dev.take at taken
  cases found : d.link.inbox.find? p with
  | none => simp [found] at taken
  | some n =>
    simp only [found, Option.map_some, Option.some.injEq, Prod.mk.injEq] at taken
    obtain ⟨rfl, rfl⟩ := taken
    exact ⟨rfl, rfl, rfl, rfl⟩

/-- A DELAY_REQ opens an exchange and queues its stamp where there is room (R330, R339). -/
theorem delayReq_room {d : Dev} (ws : List Word) (t2 : Int) (t3 : Nat) (up : d.link.txSet ≠ 0) (room : d.time.tsq.length < 16) :
    ∃ x : Exchange, (d.delayReq ws t2 t3).time.exch = d.time.exch ++ [x] ∧ x.seq = (ws.getD 0 0).get 27 20 ∧
      x.master = (ws.getD 0 0).get 15 0 ∧ x.t1 = (msgTime ws : Int) ∧ x.t3 = d.outboundStamp t3 ∧ x.expired = false ∧
      (d.delayReq ws t2 t3).time.tsq.length = d.time.tsq.length + 1 ∧ (d.delayReq ws t2 t3).time.syncCnt = d.time.syncCnt := by
  unfold Dev.delayReq
  rw [if_neg up]
  dsimp only
  generalize sent : d.send _ _ = e
  have time : e.time = d.time := by
    obtain ⟨l, same⟩ := d.send_link _ _
    rw [← sent, same]
  rw [if_pos (show (e.modTime _).time.tsq.length < 16 by rw [Dev.modTime, time]; exact room)]
  simp only [Dev.modTime, time]
  exact ⟨_, rfl, rfl, rfl, rfl, rfl, rfl, List.length_append, trivial⟩

/-- A SYNC of the current master for which a DELAY_REQ is due. -/
theorem timeSync_due {d d1 : Dev} {m : Inbox} (t3 : Nat) (taken : d.take (isTimeMsg 1) = some (m, d1))
    (master : d1.time.master = some ((m.words.getD 0 0).get 15 0)) (due : d1.dreqDiv ≤ d1.time.syncCnt + 1) :
    d.timeSync t3 = (d1.modTime fun t => { t with syncCnt := 0 }).delayReq m.words (d1.inboundStamp m.first) t3 := by
  unfold Dev.timeSync
  rw [taken]
  dsimp only
  simp only [if_pos master, if_pos due]

/-- A valid response to the one open DELAY_REQ, from neither the current master nor the candidate: its figures are shown. -/
theorem delayResp_shows {d d1 : Dev} {m : Inbox} {x : Exchange} (taken : d.take (isTimeMsg 3) = some (m, d1)) (exch : d1.time.exch = [x])
    (seq : x.seq = (m.words.getD 0 0).get 27 20) (master : x.master = (m.words.getD 0 0).get 15 0) (open_ : x.expired = false)
    (rx : x.rxLane = refLane d1.link.rxSet) (tx : x.txLane = refLane d1.link.txSet) (other : d1.time.master ≠ some x.master)
    (notCand : d1.time.cand ≠ some x.master) (low : 0 ≤ (x.t2 - x.t1 + ((msgTime m.words : Int) - x.t3)) / 2)
    (high : (x.t2 - x.t1 + ((msgTime m.words : Int) - x.t3)) / 2 ≤ 100 * (fracScale : Int)) :
    d.delayResp = ((d1.modTime fun t => { t with exch := [] }).wr Reg.TIME_OFS (BitVec.ofNat 32 (unsigned 32 (toPs
      ((x.t2 - x.t1 - ((msgTime m.words : Int) - x.t3) -
        ofPs (signed 32 (d1.rd (Reg.TIME_ASYM (refLane d1.link.rxSet))).toNat)) / 2))))).wr Reg.TIME_DELAY
      (BitVec.ofNat 32 (unsigned 32 (toPs ((x.t2 - x.t1 + ((msgTime m.words : Int) - x.t3)) / 2)))) := by
  have found : d1.time.exch.find? (fun y : Exchange => y.seq == (m.words.getD 0 0).get 27 20 && y.master == (m.words.getD 0 0).get 15 0) =
      some x := by
    rw [exch]
    simp [seq, master]
  unfold Dev.delayResp
  rw [taken]
  dsimp only
  rw [found]
  simp only [open_, Bool.false_eq_true, if_false]
  rw [if_neg (by simp only [Dev.modTime]; omega)]
  refine (if_neg other).trans ((if_neg notCand).trans ?_)
  simp only [Dev.rd_modTime, Dev.modTime_link]
  simp only [Dev.modTime, exch, List.erase_cons_head]

theorem timeExchanges : TimeExchanges := by
  intro s adv
  refine ⟨fun m d1 t3 taken master due up room => ?sync, fun x xs exch open_ => ?lost,
    fun m d1 x taken exch seq master open_ rx tx other notCand => ?response⟩
  case sync =>
    have row : Leads s (.timeSync t3) (s.dev.timeSync t3.toNat) := leads_of_onTime (f := fun d => d.timeSync t3.toNat) rfl adv
    obtain ⟨time, regs, txSet, rxSet⟩ := take_frame taken
    have dreq : d1.dreqDiv = s.dev.dreqDiv := by simp only [Dev.dreqDiv, Dev.fget, Dev.rd_of_regs regs]
    have stamp : d1.outboundStamp t3.toNat = s.dev.outboundStamp t3.toNat := by simp only [Dev.outboundStamp, Dev.rd_of_regs regs, txSet]
    rw [timeSync_due t3.toNat taken (time ▸ master) (by rwa [dreq, time])] at row
    obtain ⟨x, opens, seq, id, t1, sent, fresh, queued, cleared⟩ := delayReq_room (d := d1.modTime fun t => { t with syncCnt := 0 }) m.words
      (d1.inboundStamp m.first) t3.toNat (txSet ▸ up)
      (show d1.time.tsq.length < 16 from time ▸ room)
    exact ⟨_, row, cleared, ⟨x, opens.trans (congrArg (·.exch ++ [x]) time), seq, id, t1, sent.trans stamp, fresh⟩,
      queued.trans (congrArg (·.tsq.length + 1) time)⟩
  case lost =>
    refine ⟨fun arrives => unlessNow_arrives _ _ _ arrives, fun alone => ?_⟩
    have row : Leads s .delayRespTimeout s.dev.respTimeout :=
      leads_of_onTime (f := Dev.respTimeout) (by dsimp only [exec]; exact unlessNow_else _ _ _ alone) adv
    have first : s.dev.time.exch.find? (fun y : Exchange => !y.expired) = some x := by simp [exch, open_]
    rw [Dev.respTimeout, first] at row
    refine ⟨_, row, (counted_count32 _), ?_⟩
    simp only [Dev.count32_time, Dev.modTime, exch, List.map_cons, List.map_map, if_true, List.cons.injEq, true_and]
    refine List.map_congr_left fun y _ => ?_
    by_cases same : y = x <;> simp [same]
  case response =>
    intro ab cd asym low high
    have row : Leads s .timeDelayResp s.dev.delayResp := leads_of_onTime rfl adv
    obtain ⟨time, regs, txSet, rxSet⟩ := take_frame taken
    rw [delayResp_shows taken (time ▸ exch) seq master open_ (rxSet ▸ rx) (txSet ▸ tx) (time ▸ other) (time ▸ notCand) low high] at row
    refine ⟨_, row, rfl, ?_, Dev.rd_wr_same ..⟩
    rw [Dev.rd_wr_ne _ _ (by decide), Dev.rd_wr_same, rxSet, Dev.rd_of_regs regs]

/-- Entry to holdover with a master (R337). -/
theorem unlock_eq (d : Dev) :
    d.unlock = if d.time.locked then (d.modTime fun t => { t with locked := false, lockCnt := 0, unlockCnt := 0 }).raise Reg.TIME_EVT 1
      else d.modTime fun t => { t with locked := false, lockCnt := 0, unlockCnt := 0 } := rfl

theorem unlock_time (d : Dev) : d.unlock.time = { d.time with locked := false, lockCnt := 0, unlockCnt := 0 } := by
  rw [unlock_eq]
  split
  · rw [Dev.raise_time]
    rfl
  · rfl

theorem Set.unlock {d : Dev} {a b : Nat} (h : Set d a b) : Set d.unlock a b := by
  have kept : Set (d.modTime fun t => { t with locked := false, lockCnt := 0, unlockCnt := 0 }) a b := Set.of_regs h rfl
  rw [unlock_eq]
  split
  · exact Set.raise kept _ _
  · exact kept

theorem unlock_set {d : Dev} (locked : d.time.locked = true) : Set d.unlock Reg.TIME_EVT 1 := by
  rw [unlock_eq, if_pos locked]
  exact set_raise _ (by decide)

theorem servoHw_of_rd {d e : Dev} (h : e.rd Reg.TIME_CFG = d.rd Reg.TIME_CFG) : e.servoHw = d.servoHw := by
  rw [Dev.servoHw, Dev.servoHw, h]

theorem servoHw_unlock (d : Dev) : d.unlock.servoHw = d.servoHw := servoHw_of_rd (sameRegs_unlock d Reg.TIME_CFG (by decide))

/-- Holdover as it is noted, before hardware that steers falls back on the filtered term (R337). -/
def inHoldover (d : Dev) : Dev := ((d.modTime fun t => { t with holdover := true }).raise Reg.TIME_EVT 2).unlock

theorem inHoldover_time (d : Dev) :
    (inHoldover d).time = { d.time with holdover := true, locked := false, lockCnt := 0, unlockCnt := 0 } := by
  rw [inHoldover, unlock_time, Dev.raise_time]
  rfl

theorem inHoldover_servoHw (d : Dev) : (inHoldover d).servoHw = d.servoHw :=
  (servoHw_unlock _).trans (servoHw_of_rd (Dev.rd_raise_ne _ _ (by decide)))

theorem enterHoldover_eq {d : Dev} (master : d.time.master.isSome = true) (active : d.time.holdover = false) :
    d.enterHoldover = if (inHoldover d).servoHw then (inHoldover d).steerInc (inHoldover d).time.fterm else inHoldover d :=
  if_neg (by simp [active, Option.isNone_iff_eq_none, Option.isSome_iff_ne_none.mp master])

theorem holdoverAndCandidate : HoldoverAndCandidate := by
  intro s adv valid sync
  refine ⟨fun arrives => unlessNow_arrives _ _ _ arrives, fun arrives => unlessNow_arrives _ _ _ arrives, fun alone master active => ?_,
    fun alone => ?_⟩
  · have row : Leads s .holdoverTimeout s.dev.enterHoldover :=
      leads_of_onTime (f := Dev.enterHoldover) (by dsimp only [exec]; exact unlessNow_else _ _ _ alone) adv
    have holds : Set (inHoldover s.dev) Reg.TIME_EVT 2 := Set.unlock (set_raise _ (by decide))
    have lost : s.dev.time.locked = true → Set (inHoldover s.dev) Reg.TIME_EVT 1 :=
      fun locked => unlock_set (by rw [Dev.raise_time]; exact locked)
    have now := inHoldover_time s.dev
    rw [enterHoldover_eq master active] at row
    split at row
    next steers =>
      refine ⟨_, row, (congrArg TimeUnit.holdover now :), (congrArg TimeUnit.locked now :), holds.of_regs rfl,
        fun locked => (lost locked).of_regs rfl, (congrArg TimeUnit.now now :), (congrArg TimeUnit.master now :), fun off => ?_⟩
      rw [inHoldover_servoHw, off] at steers
      cases steers
    next =>
      exact ⟨_, row, (congrArg TimeUnit.holdover now :), (congrArg TimeUnit.locked now :), holds, lost, (congrArg TimeUnit.now now :),
        (congrArg TimeUnit.master now :), fun _ => (congrArg TimeUnit.inc now :)⟩
  · exact leads_of_onTime (f := Dev.candTimeout) (by dsimp only [exec]; exact unlessNow_else _ _ _ alone) adv

/-- Settles O27: what a time message, holdover and a silent candidate do, each from the equation of its row. -/
theorem timeTransfer : Obligations.TimeTransfer := ⟨timeExchanges, holdoverAndCandidate⟩

end Sys2Proof.Cert

/-! PROOFS. Severity (R411 to R424): what becoming severe keeps of the Sump and brings to a source, then wire faults and the line
FAULT_N (O31) and the remedy for a lane (O30). -/

namespace Sys2Proof.Cert

open Sys2Proof.Machine

section

variable {d e f : Dev} {n : Fin 256}

/-! ### What the operations of a severity keep -/

/-- From one device to the next FAULT_N stays pulled, the flags of one source stay, and so do the Sump's events. -/
structure SumpKept (n : Fin 256) (d e : Dev) : Prop where
  pulse : d.sump.pulse = true → e.sump.pulse = true
  severe : e.sump.src[n].severe = d.sump.src[n].severe
  wire : e.sump.src[n].wire = d.sump.src[n].wire
  wireIgnored : e.sump.src[n].wireIgnored = d.sump.src[n].wireIgnored
  evt : ∀ b, Set d Reg.SUMP_EVT b → Set e Reg.SUMP_EVT b

theorem SumpKept.refl (d : Dev) : SumpKept n d d := ⟨id, rfl, rfl, rfl, fun _ => id⟩

theorem SumpKept.trans (h : SumpKept n d e) (k : SumpKept n e f) : SumpKept n d f :=
  ⟨k.pulse ∘ h.pulse, k.severe.trans h.severe, k.wire.trans h.wire, k.wireIgnored.trans h.wireIgnored, fun b => k.evt b ∘ h.evt b⟩

/-- What leaves the Sump alone keeps it, where the Sump's events stay. -/
theorem SumpKept.of_sump (hsump : e.sump = d.sump) (hevt : ∀ b, Set d Reg.SUMP_EVT b → Set e Reg.SUMP_EVT b) : SumpKept n d e := by
  refine ⟨?_, ?_, ?_, ?_, hevt⟩ <;> rw [hsump]
  exact id

theorem sumpKept_modSrc (g : Source → Source)
    (flags : ∀ x, (g x).severe = x.severe ∧ (g x).wire = x.wire ∧ (g x).wireIgnored = x.wireIgnored) : SumpKept n d (d.modSrc n g) := by
  obtain ⟨hsevere, hwire, hignored⟩ := flags d.sump.src[n]
  refine ⟨id, ?_, ?_, ?_, fun b h => h.of_regs rfl⟩ <;> rwa [Dev.modSrc_src_same]

theorem sumpKept_commitRetire (c : Committer) (kind i : Nat) : SumpKept n d (d.commitRetire c kind i) :=
  .of_sump rfl fun _ h => h.of_regs rfl

theorem sumpKept_retireAll (ps : List Nat) : SumpKept n d (ps.foldl (fun d p => d.commitRetire byFirmware 0 p) d) := by
  induction ps generalizing d with
  | nil => exact .refl d
  | cons p ps ih => exact (sumpKept_commitRetire _ _ _).trans ih

theorem sumpKept_remedy (d : Dev) (n : Fin 256) : SumpKept n d (d.remedy n).1 := by
  unfold Dev.remedy
  split
  next kind i _ =>
    split
    · exact .refl d
    split
    · dsimp only
      exact sumpKept_modSrc _ fun _ => ⟨rfl, rfl, rfl⟩
    split
    · split
      · exact sumpKept_commitRetire _ _ _
      · dsimp only
        exact (sumpKept_commitRetire _ kind i).trans (sumpKept_modSrc _ fun _ => ⟨rfl, rfl, rfl⟩)
    · exact sumpKept_commitRetire _ _ _
  next =>
    split
    · dsimp only
      exact sumpKept_retireAll _
    · exact .refl d

theorem sumpKept_log (d : Dev) (type m kind i count : Nat) (temp : Int) : SumpKept n d (d.log type m kind i count temp) := by
  unfold Dev.log
  split
  · exact ⟨id, rfl, rfl, rfl, fun b h => h.of_regs rfl⟩
  · refine .of_sump (by rw [Dev.raise_sump, Dev.count32_sump]) fun b h => ?_
    exact Set.raise (h.of_rd_eq (Dev.rd_count32_ne _ (by decide))) _ _

/-! ### FAULT_N pulled low -/

theorem pulseFault_sump (d : Dev) (cause m : Nat) : (d.pulseFault cause m).sump = { d.sump with pulse := true } := by
  unfold Dev.pulseFault
  extract_lets
  split <;> rfl

theorem sameRegs_pulseFault (d : Dev) (cause m : Nat) :
    SameRegsBut [Reg.SUMP_FIRST_INFO, Reg.SUMP_FIRST_LO, Reg.SUMP_FIRST_HI, Reg.SUMP_FIRST_EPOCH] d (d.pulseFault cause m) := by
  unfold Dev.pulseFault
  extract_lets
  split
  · exact .of_regs rfl
  · exact (((((SameRegsBut.of_regs rfl).trans (sameRegs_wr { d with sump := { d.sump with pulse := true } } (a := Reg.SUMP_FIRST_INFO) _
      (by decide))).trans (SameRegsBut.of_regs (Dev.noteSet_regs ..))).trans (sameRegs_wr _ (a := Reg.SUMP_FIRST_LO) _
      (by decide))).trans (sameRegs_wr _ (a := Reg.SUMP_FIRST_HI) _ (by decide))).trans
      (sameRegs_wr _ (a := Reg.SUMP_FIRST_EPOCH) _ (by decide))

/-! ### Becoming severe -/

/-- The device when a source has just become severe: the event is set and FAULT_N is pulled for it. -/
def pulled (d : Dev) (n : Fin 256) (wire : Bool) : Dev :=
  ((d.modSrc n fun x => { x with severe := true }).raise Reg.SUMP_EVT 0).pulseFault (b2n wire) n.val

/-- The record of a severity, and the source's window afresh. -/
theorem severe_eq (d : Dev) (n : Fin 256) (wire : Bool) :
    d.severe n wire = (((pulled d n wire).remedy n).1.log (if wire then 2 else 1) n.val ((pulled d n wire).remedy n).2.1
      ((pulled d n wire).remedy n).2.2 (d.srcCount n) 0).modSrc n fun x => { x with times := [] } := rfl

theorem pulled_sump (d : Dev) (n : Fin 256) (wire : Bool) :
    (pulled d n wire).sump = { (d.modSrc n fun x => { x with severe := true }).sump with pulse := true } := by
  rw [pulled, pulseFault_sump, Dev.raise_sump]

theorem pulled_src (d : Dev) (n : Fin 256) (wire : Bool) : (pulled d n wire).sump.src[n] = { d.sump.src[n] with severe := true } := by
  rw [pulled_sump]
  exact Dev.modSrc_src_same fun x => { x with severe := true }

theorem set_pulled (d : Dev) (n : Fin 256) (wire : Bool) : Set (pulled d n wire) Reg.SUMP_EVT 0 :=
  (set_raise _ (by decide)).of_rd_eq (sameRegs_pulseFault _ _ _ _ (by decide))

theorem Set.pulled {b : Nat} (h : Set d Reg.SUMP_EVT b) (n : Fin 256) (wire : Bool) : Set (pulled d n wire) Reg.SUMP_EVT b := by
  have marked : Set (d.modSrc n fun x => { x with severe := true }) Reg.SUMP_EVT b := Set.of_regs h rfl
  exact (Set.raise marked _ _).of_rd_eq (sameRegs_pulseFault _ _ _ _ (by decide))

theorem sumpKept_severe (d : Dev) (n : Fin 256) (wire : Bool) : SumpKept n (pulled d n wire) (d.severe n wire) := by
  rw [severe_eq]
  exact ((sumpKept_remedy _ n).trans (sumpKept_log _ _ _ _ _ _ _)).trans (sumpKept_modSrc _ fun _ => ⟨rfl, rfl, rfl⟩)

theorem severe_times (d : Dev) (n : Fin 256) (wire : Bool) : (d.severe n wire).sump.src[n].times = [] := by
  rw [severe_eq, Dev.modSrc_src_same]

end

/-! ### O31 -/

/-- A pair with a wire fault, before its source becomes severe (R408). -/
def wireDeclared (d : Dev) (n : Fin 256) : Dev :=
  (d.modSrc n fun x => { x with wire := true, wireIgnored := true }).raise Reg.SUMP_EVT 2

theorem wireDeclared_src (d : Dev) (n : Fin 256) : (wireDeclared d n).sump.src[n] = { d.sump.src[n] with wire := true, wireIgnored := true } := by
  rw [wireDeclared, Dev.raise_sump]
  exact Dev.modSrc_src_same _

theorem wireFault_eq {d : Dev} {n : Fin 256} (first : d.sump.src[n].wireIgnored = false) :
    d.wireFault n = (wireDeclared d n).severe n true := if_neg (by rw [first]; decide)

theorem wireFault_of_ignored {d : Dev} {n : Fin 256} (again : d.sump.src[n].wireIgnored = true) : d.wireFault n = d := if_pos again

theorem pairReport_of_ignored {d : Dev} {n : Fin 256} (again : d.sump.src[n].wireIgnored = true) : d.pairReport n = d := by
  unfold Dev.pairReport
  split
  · rfl
  · exact if_pos again

theorem sumpWireAndTimers : SumpWireAndTimers := by
  intro s n fabric
  refine ⟨fun first => ?_, fun again => ⟨?_, ?_⟩,
    leads_of_onSump (f := fun d => d.wireRecover n) rfl fabric, leads_of_onSump (f := fun d => d.holdEnd n) rfl fabric,
    leads_of_onSump (f := fun d => { d with sump := { d.sump with pulse := false } }) rfl fabric⟩
  · have row : Leads s (.sumpWireFault n) (s.dev.wireFault n) := leads_of_onSump (f := fun d => d.wireFault n) rfl fabric
    rw [wireFault_eq first] at row
    have kept := sumpKept_severe (wireDeclared s.dev n) n true
    have evt : Set (wireDeclared s.dev n) Reg.SUMP_EVT 2 := set_raise _ (by decide)
    have src := pulled_src (wireDeclared s.dev n) n true
    have declared := wireDeclared_src s.dev n
    refine ⟨_, row, kept.wire.trans ?_, kept.wireIgnored.trans ?_, kept.severe.trans (by rw [src]), kept.evt _ (evt.pulled n true),
      kept.evt _ (set_pulled _ _ _), kept.pulse (by rw [pulled_sump])⟩
    · rw [src, declared]
    · rw [src, declared]
  · have row : Leads s (.sumpWireFault n) (s.dev.wireFault n) := leads_of_onSump (f := fun d => d.wireFault n) rfl fabric
    rwa [wireFault_of_ignored again] at row
  · have row : Leads s (.sumpReport n) (s.dev.pairReport n) := leads_of_onSump (f := fun d => d.pairReport n) rfl fabric
    rwa [pairReport_of_ignored again] at row

/-! ### FAULT_N pulled low by another device -/

/-- The sources with those of a list held whose configuration follows FAULT_N (R421). -/
def holdFollowing (d : Dev) (ns : List (Fin 256)) : Dev :=
  ns.foldl (fun d n => if (d.rd (Reg.SUMP_SRC_CFG n.val)).bit 31 then d.modSrc n fun x => { x with held := true } else d) d

theorem holdFollowing_frame (d : Dev) (ns : List (Fin 256)) :
    ∃ v, holdFollowing d ns = { d with sump := { d.sump with src := v } } := by
  induction ns generalizing d with
  | nil => exact ⟨d.sump.src, rfl⟩
  | cons n ns ih =>
    obtain ⟨v, hv⟩ := ih (if (d.rd (Reg.SUMP_SRC_CFG n.val)).bit 31 then d.modSrc n fun x => { x with held := true } else d)
    refine ⟨v, hv.trans ?_⟩
    split <;> rfl

theorem holdFollowing_src (d : Dev) (ns : List (Fin 256)) (j : Fin 256) : (holdFollowing d ns).sump.src[j] =
    { d.sump.src[j] with held := d.sump.src[j].held || (decide (j ∈ ns) && (d.rd (Reg.SUMP_SRC_CFG j.val)).bit 31) } := by
  induction ns generalizing d with
  | nil => simp [holdFollowing]
  | cons n ns ih =>
    rw [holdFollowing, List.foldl_cons, ← holdFollowing, ih]
    split
    next follows =>
      by_cases same : j = n
      · subst same
        rw [Dev.modSrc_src_same, follows]
        simp
      · rw [Dev.modSrc_src_ne _ same, Dev.rd_modSrc]
        simp [same]
    next stays =>
      by_cases same : j = n
      · subst same
        simp [stays]
      · simp [same]

/-- The device that sees FAULT_N fall (R421). -/
def sawFall (d : Dev) : Dev := { d with sump := { d.sump with extFall := some d.time.cycle } }

theorem extFault_eq {d : Dev} (high : d.faultnHigh = true) : d.extFault =
    if (d.rd Reg.SUMP_CFG).bit 16 then (holdFollowing (sawFall d) (List.finRange 256)).raise Reg.SUMP_EVT 3 else sawFall d :=
  if_neg (by simpa [Dev.faultnHigh] using high)

theorem sumpExternalFault : SumpExternalFault := by
  intro s fabric high
  have row : Leads s .faultnExtFall s.dev.extFault := leads_of_onSump rfl fabric
  rw [extFault_eq high] at row
  refine ⟨fun on => ?_, fun off => ?_⟩
  · rw [if_pos on] at row
    obtain ⟨v, frame⟩ := holdFollowing_frame (sawFall s.dev) (List.finRange 256)
    have regs : (holdFollowing (sawFall s.dev) (List.finRange 256)).regs = s.dev.regs := by rw [frame]; rfl
    refine ⟨_, row, set_raise _ (by decide), (SameRegsBut.of_regs regs).trans (sameRegs_raise _ _ (by decide)), ?_, fun n => ?_⟩
    · rw [Dev.raise_sump, frame]
      rfl
    · rw [Dev.raise_sump, holdFollowing_src, decide_eq_true (List.mem_finRange n), Bool.true_and]
      rfl
  · rwa [if_neg (by simp [off])] at row

/-- Settles O31: becoming severe keeps what the declaration of a wire fault brought, and a fall of FAULT_N holds the sources that
follow the line, one after another. -/
theorem sumpWireAndLine : Obligations.SumpWireAndLine := ⟨sumpWireAndTimers, sumpExternalFault⟩

end Sys2Proof.Cert

namespace Sys2Proof.Cert

open Sys2Proof.Machine

/-! ### O30 -/

section

variable {d : Dev} {n : Fin 256}

theorem srcN_le (d : Dev) (m : Nat) : d.srcN m ≤ 255 :=
  Nat.max_le.mpr ⟨by decide, Nat.le_of_lt_succ (Word.get_lt (d.rd (Reg.SUMP_SRC_CFG m)) (hi := 7) (lo := 0))⟩

theorem srcW_noted (m : Nat) : (d.noted n).srcW m = d.srcW m := by
  rw [Dev.srcW, Dev.srcW, Dev.rd_noted_ne (srcStatus_ne_srcCfg _ _).symm]

/-- The cadence unit, the time unit, the link, the lanes and the log queue of `e` are those of `d`. -/
def SameBeside (d e : Dev) : Prop :=
  e.cad = d.cad ∧ e.time = d.time ∧ e.link = d.link ∧ e.lanes = d.lanes ∧ e.sump.logQueue = d.sump.logQueue

theorem sameBeside_sources (d : Dev) (rg : List (Nat × Word)) (sc : SameCycle) (l : Vector Source 256) :
    SameBeside d { d with regs := rg, same := sc, sump := { d.sump with src := l } } := ⟨rfl, rfl, rfl, rfl, rfl⟩

theorem sameBeside_modSrc (d : Dev) (n : Fin 256) (f : Source → Source) : SameBeside d (d.modSrc n f) := ⟨rfl, rfl, rfl, rfl, rfl⟩

/-- Noting a report and keeping its time touch none of them. -/
theorem sameBeside_noted (d : Dev) (n : Fin 256) : SameBeside d ((d.noted n).keepTime n) := by
  have noted : SameBeside d (d.noted n) := by
    rw [Dev.noted_eq]
    exact sameBeside_sources ..
  obtain ⟨cad, time, link, lanes, queue⟩ := noted
  obtain ⟨cad', time', link', lanes', queue'⟩ := sameBeside_modSrc (d.noted n) n fun s => { s with times := ((d.noted n).time.cycle :: s.times).take 255 }
  exact ⟨cad'.trans cad, time'.trans time, link'.trans link, lanes'.trans lanes, queue'.trans queue⟩

/-- The report that makes N events inside W is a severity (R411). -/
theorem report_severe {t : Nat} (hears : d.sump.src[n].wireIgnored = false) (serves : d.sump.src[n].retired = false)
    (free : d.sump.src[n].held = false) (nth : (d.time.cycle :: d.sump.src[n].times)[d.srcN n.val - 1]? = some t)
    (inside : inWindow d.time.cycle t (d.srcW n.val) = true) : d.report n = ((d.noted n).keepTime n).severe n false := by
  have kept : ((d.noted n).keepTime n).sump.src[n].times[((d.noted n).keepTime n).srcN n.val - 1]? = some t := by
    have hN : ((d.noted n).keepTime n).srcN n.val = d.srcN n.val := Dev.srcN_noted n.val
    have small := srcN_le d n.val
    rw [Dev.noted_keepTime_times, hN, List.getElem?_take_of_lt (by omega), nth]
  have cycle : ((d.noted n).keepTime n).time.cycle = d.time.cycle := congrArg TimeUnit.cycle (sameBeside_noted d n).2.1
  have window : ((d.noted n).keepTime n).srcW n.val = d.srcW n.val := srcW_noted n.val
  simp only [Dev.report, hears, serves, free, Bool.false_eq_true, if_false]
  split
  case h_1 u found =>
    obtain rfl : t = u := Option.some.inj (kept.symm.trans found)
    exact if_pos (by rw [← inside, ← cycle, ← window]; rfl)
  case h_2 none => exact absurd (kept.symm.trans none) nofun

/-! ### The remedy for a lane -/

theorem lastLane_congr {d e : Dev} (i : Nat) (hcad : e.cad = d.cad) (hlink : e.link = d.link) (hlanes : e.lanes = d.lanes) :
    e.lastLane i = d.lastLane i := by
  simp only [Dev.lastLane, Dev.inService, hcad, hlink, hlanes]

theorem unitOfSource_lane (k : Fin 8) : unitOfSource (toSrc (164 + k.val)).val = some (8, k.val) := by
  revert k
  decide

theorem remedy_lane {i : Nat} (unit : unitOfSource n.val = some (8, i)) (serves : d.sump.src[n].retired = false) :
    d.remedy n = if d.lastLane i then (d.modSrc n fun x => { x with limit := true }, 255, 0)
      else (d.commitRetire byFirmware 8 i, 8, i) := by
  unfold Dev.remedy
  simp only [unit, serves]
  cases d.lastLane i <;> rfl

/-- FAULT_N pulled low by a cause. -/
def lineLow (d : Dev) : Dev := { d with sump := { d.sump with pulse := true } }

/-- The first fault as SUMP_FIRST latches it (R424). -/
def latchFirst (d : Dev) (info : Word) (ns : Nat) (epoch : Word) : Dev :=
  ((((d.wr Reg.SUMP_FIRST_INFO info).noteSet Reg.SUMP_FIRST_INFO 0x80000000#32).wr Reg.SUMP_FIRST_LO (BitVec.ofNat 32 ns)).wr
    Reg.SUMP_FIRST_HI (BitVec.ofNat 32 (ns / 2 ^ 32))).wr Reg.SUMP_FIRST_EPOCH epoch

theorem pulseFault_eq (d : Dev) (cause m : Nat) : d.pulseFault cause m =
    if ((lineLow d).rd Reg.SUMP_FIRST_INFO).bit 31 then lineLow d
    else latchFirst (lineLow d) (((((0 : Word).put 31 31 1).put 30 30 (b2n d.extLow)).put 29 28 cause).put 7 0 m) (lineLow d).nowNs
      ((lineLow d).rd Reg.TIME_EPOCH) := rfl

/-- What is read of the device alike with FAULT_N low and with the first fault latched stays when a cause pulls FAULT_N. -/
theorem pulseFault_keeps {α : Type} (g : Dev → α) {x : α} (low : g (lineLow d) = x)
    (latch : ∀ info ns epoch, g (latchFirst (lineLow d) info ns epoch) = x) (cause m : Nat) : g (d.pulseFault cause m) = x := by
  rw [pulseFault_eq]
  split
  · exact low
  · exact latch _ _ _

@[simp] theorem pulseFault_cad (d : Dev) (cause m : Nat) : (d.pulseFault cause m).cad = d.cad :=
  pulseFault_keeps Dev.cad rfl (fun _ _ _ => rfl) cause m

@[simp] theorem pulseFault_link (d : Dev) (cause m : Nat) : (d.pulseFault cause m).link = d.link :=
  pulseFault_keeps Dev.link rfl (fun _ _ _ => rfl) cause m

@[simp] theorem pulseFault_lanes (d : Dev) (cause m : Nat) : (d.pulseFault cause m).lanes = d.lanes :=
  pulseFault_keeps Dev.lanes rfl (fun _ _ _ => rfl) cause m

@[simp] theorem pulseFault_time (d : Dev) (cause m : Nat) : (d.pulseFault cause m).time = d.time :=
  pulseFault_keeps Dev.time rfl (fun _ _ _ => rfl) cause m

theorem pulled_others (d : Dev) (n : Fin 256) (wire : Bool) : (pulled d n wire).cad = d.cad ∧ (pulled d n wire).link = d.link ∧
    (pulled d n wire).lanes = d.lanes ∧ (pulled d n wire).time = d.time := by
  simp only [pulled, pulseFault_cad, pulseFault_link, pulseFault_lanes, pulseFault_time, Dev.raise_cad, Dev.raise_link, Dev.raise_lanes,
    Dev.raise_time, Dev.modSrc_cad, Dev.modSrc_link, Dev.modSrc_lanes, Dev.modSrc_time, and_self]

theorem log_of_room (room : d.sump.logQueue.length < 16) (type m kind i count : Nat) (temp : Int) :
    ∃ r, d.log type m kind i count temp = { d with sump := { d.sump with logQueue := d.sump.logQueue ++ [r] } } := ⟨_, if_pos room⟩

end

/-- The severity of a lane's source that serves and whose log has room: the lane's retirement is committed, unless the lane is the
last one awake, which is noted as the limit (R414). -/
theorem severe_lane {d : Dev} {n : Fin 256} {i : Nat} (unit : unitOfSource n.val = some (8, i)) (serves : d.sump.src[n].retired = false)
    (room : d.sump.logQueue.length < 16) :
    (d.severe n false).sump.logQueue.length = d.sump.logQueue.length + 1 ∧
      (d.lastLane i = false → (d.severe n false).cad.changes = (d.commitRetire byFirmware 8 i).cad.changes) ∧
      (d.lastLane i = true → (d.severe n false).cad.changes = d.cad.changes ∧ (d.severe n false).sump.src[n].limit = true) := by
  obtain ⟨cad, link, lanes, time⟩ := pulled_others d n false
  have same : (pulled d n false).lastLane i = d.lastLane i := lastLane_congr i cad link lanes
  have queue : (pulled d n false).sump.logQueue = d.sump.logQueue := by rw [pulled_sump]; rfl
  have remedy := remedy_lane (d := pulled d n false) unit (by rw [pulled_src]; exact serves)
  have commits : ((pulled d n false).commitRetire byFirmware 8 i).cad.changes = (d.commitRetire byFirmware 8 i).cad.changes := by
    simp only [Dev.commitRetire, Dev.commit, Dev.commitAt, Dev.nextLanding, cad, time]
  rw [same] at remedy
  rw [severe_eq]
  cases last : d.lastLane i with
  | false =>
    rw [last] at remedy
    rw [remedy, if_neg Bool.false_ne_true]
    obtain ⟨r, logged⟩ := log_of_room (d := (pulled d n false).commitRetire byFirmware 8 i) (queue ▸ room) 1 n.val 8 i (d.srcCount n) 0
    refine ⟨?_, fun _ => ?_, nofun⟩
    · refine (congrArg (fun e : Dev => e.sump.logQueue.length) logged).trans ?_
      rw [List.length_append, ← queue]
      rfl
    · exact (congrArg (fun e : Dev => e.cad.changes) logged).trans commits
  | true =>
    rw [last] at remedy
    rw [remedy, if_pos rfl]
    obtain ⟨r, logged⟩ := log_of_room (d := (pulled d n false).modSrc n fun x => { x with limit := true }) (queue ▸ room) 1 n.val 255 0
      (d.srcCount n) 0
    refine ⟨?_, nofun, fun _ => ⟨?_, ?_⟩⟩
    · refine (congrArg (fun e : Dev => e.sump.logQueue.length) logged).trans ?_
      rw [List.length_append, ← queue]
      rfl
    · exact (congrArg (fun e : Dev => e.cad.changes) logged).trans (congrArg Cadence.changes cad)
    · refine (congrArg Source.limit (Dev.modSrc_src_same fun x => { x with times := [] })).trans ?_
      exact (congrArg (fun e : Dev => e.sump.src[n].limit) logged).trans
        (congrArg Source.limit (Dev.modSrc_src_same fun x => { x with limit := true }))

/-- Settles O30: the N-th report inside W is a severity, whose remedy for a lane is committed with its record logged. -/
theorem sumpSeverity : Obligations.SumpSeverity := by
  intro s k fabric n hears serves free ⟨t, nth, inside⟩ room
  have row : Leads s (.sumpReport n) (s.dev.report n) := leads_sumpReport fabric (show (164 + k.val) % 256 < 230 by omega)
  rw [report_severe hears serves free nth inside] at row
  have kept := sumpKept_severe ((s.dev.noted n).keepTime n) n false
  obtain ⟨cad, time, link, lanes, queue⟩ := sameBeside_noted s.dev n
  have last : ((s.dev.noted n).keepTime n).lastLane k.val = s.dev.lastLane k.val := lastLane_congr _ cad link lanes
  have active : ((s.dev.noted n).keepTime n).sump.src[n].retired = false := by
    rw [Dev.keepTime, Dev.modSrc_src_same, Dev.noted_src]
    exact serves
  obtain ⟨logged, commits, limited⟩ := severe_lane (unitOfSource_lane k) active (queue ▸ room)
  refine ⟨_, row, kept.evt _ (set_pulled _ _ _), kept.pulse (by rw [pulled_sump]), kept.severe.trans (by rw [pulled_src]),
    severe_times _ _ _, by rw [logged, queue], fun more => ?_, fun only => ?_⟩
  · refine ⟨_, (commits (last.trans more)).trans (congrArg (· ++ _) (congrArg Cadence.changes cad)), rfl, rfl, ?_⟩
    exact (congrArg (fun c : Cadence => c.tickIdx + 1 + b2n c.frozen) cad :)
  · obtain ⟨stays, limit⟩ := limited (last.trans only)
    exact ⟨stays.trans (congrArg Cadence.changes cad), limit⟩

end Sys2Proof.Cert

/-! PROOFS. Layers that several rows share: what a report to the Sump leaves as it was, and what a step of a synthesizer keeps of its
tile. -/

namespace Sys2Proof.Cert

open Sys2Proof.Machine

section

variable {d e f : Dev} {n : Fin 256} {a b top : Nat}

/-! ### Reports -/

theorem reported_inforce (h : Reported d e) : e.inforce = d.inforce := by
  obtain ⟨m, rs, sc, su, cs, rfl⟩ := h
  rfl

theorem reported_staged (h : Reported d e) : e.staged = d.staged := by
  obtain ⟨m, rs, sc, su, cs, rfl⟩ := h
  rfl

theorem reported_tiles (h : Reported d e) : e.tiles = d.tiles := by
  obtain ⟨m, rs, sc, su, cs, rfl⟩ := h
  rfl

theorem reported_paths (h : Reported d e) : e.paths = d.paths := by
  obtain ⟨m, rs, sc, su, cs, rfl⟩ := h
  rfl

theorem reported_relief (h : Reported d e) : e.relief = d.relief := by
  obtain ⟨m, rs, sc, su, cs, rfl⟩ := h
  rfl

theorem reported_spi (h : Reported d e) : e.spi = d.spi := by
  obtain ⟨m, rs, sc, su, cs, rfl⟩ := h
  rfl

theorem reported_derrick (h : Reported d e) : e.derrick = d.derrick := by
  obtain ⟨m, rs, sc, su, cs, rfl⟩ := h
  rfl

theorem reported_check (h : Reported d e) : e.check = d.check := by
  obtain ⟨m, rs, sc, su, cs, rfl⟩ := h
  rfl

theorem reported_power (h : Reported d e) : e.power = d.power := by
  obtain ⟨m, rs, sc, su, cs, rfl⟩ := h
  rfl

theorem reported_sec (h : Reported d e) : e.sec = d.sec := by
  obtain ⟨m, rs, sc, su, cs, rfl⟩ := h
  rfl

theorem reported_drunas (h : Reported d e) : e.drunas = d.drunas := by
  obtain ⟨m, rs, sc, su, cs, rfl⟩ := h
  rfl

theorem reported_time (h : Reported d e) : e.time = d.time := by
  obtain ⟨m, rs, sc, su, cs, rfl⟩ := h
  rfl

theorem reported_lanes (h : Reported d e) : e.lanes = d.lanes := by
  obtain ⟨m, rs, sc, su, cs, rfl⟩ := h
  rfl

theorem reported_link (h : Reported d e) : e.link = d.link := by
  obtain ⟨m, rs, sc, su, cs, rfl⟩ := h
  rfl

theorem reported_chisel (h : Reported d e) : e.chisel = d.chisel := by
  obtain ⟨m, rs, sc, su, cs, rfl⟩ := h
  rfl

theorem reported_beam (h : Reported d e) : e.beam = d.beam := by
  obtain ⟨m, rs, sc, su, cs, rfl⟩ := h
  rfl

theorem reported_dpd (h : Reported d e) : e.dpd = d.dpd := by
  obtain ⟨m, rs, sc, su, cs, rfl⟩ := h
  rfl

theorem reported_cal (h : Reported d e) : e.cal = d.cal := by
  obtain ⟨m, rs, sc, su, cs, rfl⟩ := h
  rfl

theorem reported_bias (h : Reported d e) : e.bias = d.bias := by
  obtain ⟨m, rs, sc, su, cs, rfl⟩ := h
  rfl

theorem reported_sig (h : Reported d e) : e.sig = d.sig := by
  obtain ⟨m, rs, sc, su, cs, rfl⟩ := h
  rfl

theorem reported_freeCtr (h : Reported d e) : e.freeCtr = d.freeCtr := by
  obtain ⟨m, rs, sc, su, cs, rfl⟩ := h
  rfl

/-- From one device to the next every register outside the Sump's block stays, and so do those of the block from `top` on. -/
def SumpRegs (top : Nat) (d e : Dev) : Prop := ∀ a, a < 0x30000 ∨ top ≤ a → e.rd a = d.rd a

theorem SumpRegs.of_regs (h : e.regs = d.regs) : SumpRegs top d e := fun a _ => Dev.rd_of_regs h a

theorem SumpRegs.trans (h : SumpRegs top d e) (k : SumpRegs top e f) : SumpRegs top d f := fun a out => (k a out).trans (h a out)

theorem SumpRegs.mono {more : Nat} (h : SumpRegs top d e) (le : top ≤ more) : SumpRegs more d e := fun a out => h a (by omega)

theorem sumpRegs_wr (w : Word) (low : 0x30000 ≤ a) (high : a < top) : SumpRegs top d (d.wr a w) :=
  fun _ out => d.rd_wr_ne w (by omega)

theorem sumpRegs_count (hi lo : Nat) (low : 0x30000 ≤ a) (high : a < top) : SumpRegs top d (d.count a hi lo) :=
  fun _ out => d.rd_count_ne hi lo (by omega)

theorem sumpRegs_raise (b : Nat) (low : 0x30000 ≤ a) (high : a < top) : SumpRegs top d (d.raise a b) :=
  fun _ out => d.rd_raise_ne b (by omega)

theorem sumpRegs_pulseFault (d : Dev) (cause m : Nat) : SumpRegs 0x31000 d (d.pulseFault cause m) := by
  intro a out
  refine sameRegs_pulseFault d cause m a fun mem => ?_
  simp only [List.mem_cons, List.not_mem_nil, or_false, Reg.SUMP_FIRST_INFO, Reg.SUMP_FIRST_LO, Reg.SUMP_FIRST_HI,
    Reg.SUMP_FIRST_EPOCH] at mem
  omega

theorem sumpRegs_log (d : Dev) (type m kind i count : Nat) (temp : Int) : SumpRegs 0x31000 d (d.log type m kind i count temp) := by
  unfold Dev.log
  split
  · exact .of_regs rfl
  · exact (sumpRegs_count (a := Reg.SUMP_LOG_DROP) 31 0 (by decide) (by decide)).trans
      (sumpRegs_raise (a := Reg.SUMP_EVT) 7 (by decide) (by decide))

theorem retireAll_regs (ps : List Nat) (d : Dev) : (ps.foldl (fun d p => d.commitRetire byFirmware 0 p) d).regs = d.regs := by
  induction ps generalizing d with
  | nil => rfl
  | cons p ps ih => exact ih _

theorem remedy_regs (d : Dev) (n : Fin 256) : (d.remedy n).1.regs = d.regs := by
  unfold Dev.remedy
  split
  · split
    · rfl
    split
    · rfl
    split
    · split <;> rfl
    · rfl
  · split
    · exact retireAll_regs _ d
    · rfl

theorem sumpRegs_severe (d : Dev) (n : Fin 256) (wire : Bool) : SumpRegs 0x31000 d (d.severe n wire) := by
  rw [severe_eq]
  have marked : SumpRegs 0x31000 d (d.modSrc n fun x => { x with severe := true }) := .of_regs rfl
  have pulls := (marked.trans (sumpRegs_raise (a := Reg.SUMP_EVT) 0 (by decide) (by decide))).trans (sumpRegs_pulseFault _ (b2n wire) n.val)
  exact ((pulls.trans (.of_regs (remedy_regs _ n))).trans (sumpRegs_log _ _ _ _ _ _ _)).trans (.of_regs rfl)

/-- What follows the count of a report writes registers of the Sump's head alone. -/
theorem sumpRegs_report (hears : d.sump.src[n].wireIgnored = false) :
    SumpRegs 0x31000 (d.count (Reg.SUMP_SRC_STATUS n.val) 15 0) (d.report n) := by
  have notes : SumpRegs 0x31000 (d.count (Reg.SUMP_SRC_STATUS n.val) 15 0) (d.noted n) := fun a _ => Dev.rd_noted a
  have keeps : SumpRegs 0x31000 (d.count (Reg.SUMP_SRC_STATUS n.val) 15 0) ((d.noted n).keepTime n) := notes.trans (.of_regs rfl)
  unfold Dev.report
  simp only [hears, Bool.false_eq_true, if_false]
  split
  · exact fun _ _ => rfl
  split
  · exact notes.trans (sumpRegs_count (a := Reg.SUMP_MASKED) 31 0 (by decide) (by decide))
  split
  · split
    · exact keeps.trans (sumpRegs_severe _ n false)
    · exact keeps
  · exact keeps

theorem report_of_ignored (ignored : d.sump.src[n].wireIgnored = true) : d.report n = d := if_pos ignored

/-- A report writes no register outside the Sump's block. -/
theorem rd_report (d : Dev) (n : Fin 256) : SumpRegs 0x40000 d (d.report n) := by
  cases hears : d.sump.src[n].wireIgnored with
  | true =>
    rw [report_of_ignored hears]
    exact .of_regs rfl
  | false =>
    have counts : SumpRegs 0x40000 d (d.count (Reg.SUMP_SRC_STATUS n.val) 15 0) := by
      refine sumpRegs_count 15 0 ?_ ?_ <;> simp only [Reg.SUMP_SRC_STATUS] <;> omega
    exact counts.trans ((sumpRegs_report hears).mono (by decide))

/-- A report that the Sump hears counts in its source's TOTAL (R411). -/
theorem counted_report (hears : d.sump.src[n].wireIgnored = false) : Counted d (d.report n) (Reg.SUMP_SRC_STATUS n.val) 15 0 := by
  refine (counted_count _ (by decide) (by decide)).of_rd_eq (sumpRegs_report hears _ ?_)
  simp only [Reg.SUMP_SRC_STATUS]
  omega

theorem Set.report (h : Set d a b) (out : a < 0x30000 ∨ 0x40000 ≤ a) (n : Fin 256) : Set (d.report n) a b :=
  h.of_rd_eq (rd_report d n a out)

end

end Sys2Proof.Cert

/-! PROOFS. Tiles and paths that reach the state of their transition (O21). A path's transition does its work in the path alone; a
tile's in the tile alone, whose synthesizers start and take their roles. -/

namespace Sys2Proof.Machine

section

variable {d : Dev}

theorem Dev.modPath_path (p : Fin 64) (f : PathSt → PathSt) : (d.modPath p f).paths[p] = f d.paths[p] := by simp [Dev.modPath]

theorem Dev.modPath_path_ne {p q : Fin 64} (f : PathSt → PathSt) (h : q ≠ p) : (d.modPath p f).paths[q] = d.paths[q] := by
  simp [Dev.modPath, Vector.getElem_set_ne, Fin.val_ne_of_ne h.symm]

theorem Dev.modTile_tile (t : Fin 4) (f : Tile → Tile) : (d.modTile t f).tiles[t] = f d.tiles[t] := by simp [Dev.modTile]

theorem Dev.modTile_tile_ne {t u : Fin 4} (f : Tile → Tile) (h : u ≠ t) : (d.modTile t f).tiles[u] = d.tiles[u] := by
  simp [Dev.modTile, Vector.getElem_set_ne, Fin.val_ne_of_ne h.symm]

theorem Tile.syn_modSyn (x : Tile) (b : Bool) (f : Syn → Syn) : (x.modSyn b f).syn b = f (x.syn b) := by
  cases b <;> rfl

theorem Tile.syn_modSyn_other (x : Tile) (b : Bool) (f : Syn → Syn) : (x.modSyn b f).syn (!b) = x.syn (!b) := by
  cases b <;> rfl

end

end Sys2Proof.Machine

namespace Sys2Proof.Cert

open Sys2Proof.Machine

section

variable {d e f : Dev} {p : Fin 64}

/-! ### A path (R61, R80, R101) -/

/-- From one device to the next only receive samples of one path have been marked. -/
structure Marked (p : Fin 64) (d e : Dev) : Prop where
  others : ∀ q : Fin 64, q ≠ p → e.paths[q] = d.paths[q]
  mode : e.paths[p].mode = d.paths[p].mode
  transit : e.paths[p].transit = d.paths[p].transit
  settle : d.paths[p].settle ≤ e.paths[p].settle
  tiles : e.tiles = d.tiles
  cad : e.cad = d.cad
  inforce : e.inforce = d.inforce
  regs : SameRegsBut [chStatus p] d e

theorem Marked.refl (d : Dev) : Marked p d d := ⟨fun _ _ => rfl, rfl, rfl, le_rfl, rfl, rfl, rfl, .of_regs rfl⟩

theorem Marked.trans (h : Marked p d e) (k : Marked p e f) : Marked p d f :=
  ⟨fun q other => (k.others q other).trans (h.others q other), k.mode.trans h.mode, k.transit.trans h.transit, h.settle.trans k.settle,
    k.tiles.trans h.tiles, k.cad.trans h.cad, k.inforce.trans h.inforce, h.regs.trans k.regs⟩

theorem marked_raise (d : Dev) (b : Nat) : Marked p d (d.raise (chStatus p) b) where
  others q _ := by rw [Dev.raise_paths]
  mode := by rw [Dev.raise_paths]
  transit := by rw [Dev.raise_paths]
  settle := by rw [Dev.raise_paths]
  tiles := Dev.raise_tiles ..
  cad := Dev.raise_cad ..
  inforce := Dev.raise_inforce ..
  regs := sameRegs_raise _ _ (by simp)

theorem marked_noteMark (d : Dev) (a b : Nat) : Marked p d (d.noteMark p a b) := ⟨fun _ _ => rfl, rfl, rfl, le_rfl, rfl, rfl, rfl, .of_regs rfl⟩

theorem marked_settle (d : Dev) (n : Nat) : Marked p d (d.modPath p fun x => { x with settle := max x.settle n }) where
  others q other := Dev.modPath_path_ne _ other
  mode := by rw [Dev.modPath_path]
  transit := by rw [Dev.modPath_path]
  settle := by
    rw [Dev.modPath_path]
    exact le_max_left _ _
  tiles := rfl
  cad := rfl
  inforce := rfl
  regs := .of_regs rfl

theorem marked_ite {c : Prop} [Decidable c] (h : Marked p d e) : Marked p d (if c then e else d) := by
  split
  · exact h
  · exact .refl d

theorem marked_markTransition (d : Dev) (p : Fin 64) : Marked p d (d.markTransition p) := marked_ite (marked_raise d 2)

/-- The end of a path's unsettled samples is moved on by the settling length of the carriers (R102). -/
def settleOn (d : Dev) (p : Fin 64) : Dev :=
  if d.settleLen = 0 then d else d.modPath p fun x => { x with settle := max x.settle (d.cad.since + d.settleLen) }

theorem marked_settleOn (d : Dev) (p : Fin 64) : Marked p d (settleOn d p) := by
  unfold settleOn
  split
  · exact .refl d
  · exact marked_settle d _

theorem marked_markUnsettled (d : Dev) (p : Fin 64) : Marked p (settleOn d p) (d.markUnsettled p) := by
  have notes : Marked p (settleOn d p) (if (settleOn d p).paths[p].mode = 1 ∧ (settleOn d p).cad.since < (settleOn d p).paths[p].settle then
      (settleOn d p).noteMark p (settleOn d p).cad.since (settleOn d p).paths[p].settle else settleOn d p) := marked_ite (marked_noteMark _ _ _)
  exact notes.trans (marked_ite (marked_raise _ 2))

theorem settleLen_congr (h : e.inforce = d.inforce) : e.settleLen = d.settleLen := by
  have reads (a : Nat) : e.inf a = d.inf a := by rw [Dev.inf, Dev.inf, h]
  simp only [Dev.settleLen, Dev.carOn, reads]
  rfl

/-- The samples of a path that marks are unsettled for the settling length from now on. -/
theorem settle_markUnsettled (d : Dev) (p : Fin 64) (some : d.settleLen ≠ 0) :
    d.cad.since + d.settleLen ≤ (d.markUnsettled p).paths[p].settle := by
  refine le_trans ?_ (marked_markUnsettled d p).settle
  rw [settleOn, if_neg some, Dev.modPath_path]
  exact le_max_right _ _

/-- The path in its new state. -/
def arrivedPath (d : Dev) (p : Fin 64) (m : Nat) : Dev := (d.markTransition p).modPath p fun x => { x with mode := m, transit := none }

theorem modeReached_eq {m : Nat} (moves : d.paths[p].transit = some m) : d.modeReached p =
    (let e := arrivedPath d p m
     let f := if m = 1 then e.markUnsettled p else e
     (if m = 1 ∧ ¬ (e.tiles[tileOf p].syn e.tiles[tileOf p].act).qual then f.raise (chStatus p) 2 else f).deferredNow) := by
  rw [Dev.modeReached, moves]
  rfl

theorem deferredNow_of_running (running : d.cad.running = true) : d.deferredNow = d := if_pos (by rw [Dev.ticking, running]; rfl)

theorem pathArrives {s : State} (running : s.dev.cad.running = true) {m : Nat} (moves : (s.dev.paths[p]).transit = some m) :
    ∃ d, Leads s (.stateTransitionDone (.path p)) d ∧ (d.paths[p]).mode = m ∧ (d.paths[p]).transit = none ∧
      (∀ q : Fin 64, q ≠ p → d.paths[q] = s.dev.paths[q]) ∧ d.tiles = s.dev.tiles ∧ d.cad = s.dev.cad ∧
      SameRegsBut [chStatus p] s.dev d ∧
      (m = 1 → s.dev.settleLen ≠ 0 → s.dev.cad.since + s.dev.settleLen ≤ (d.paths[p]).settle) ∧
      (m = 1 → ((s.dev.tiles[tileOf p]).syn (s.dev.tiles[tileOf p]).act).qual = false → Set d (chStatus p) 2) ∧
      (m ≠ 1 → (s.dev.paths[p]).mode ≠ 1 → d = s.dev.modPath p fun x => { x with mode := m, transit := none }) := by
  have row : Leads s (.stateTransitionDone (.path p)) (s.dev.modeReached p) := leads_of_onCommit (f := fun d => d.modeReached p) rfl
  have marks := marked_markTransition s.dev p
  have reaches : (arrivedPath s.dev p m).paths[p] = { (s.dev.markTransition p).paths[p] with mode := m, transit := none } :=
    Dev.modPath_path p _
  have others : ∀ q : Fin 64, q ≠ p → (arrivedPath s.dev p m).paths[q] = s.dev.paths[q] :=
    fun q other => (Dev.modPath_path_ne _ other).trans (marks.others q other)
  have cad : (arrivedPath s.dev p m).cad = s.dev.cad := marks.cad
  have length : (arrivedPath s.dev p m).settleLen = s.dev.settleLen := settleLen_congr marks.inforce
  have regs : SameRegsBut [chStatus p] s.dev (arrivedPath s.dev p m) := marks.regs.trans (.of_regs rfl)
  have tiles : (arrivedPath s.dev p m).tiles = s.dev.tiles := marks.tiles
  have stays : (s.dev.paths[p]).mode ≠ 1 →
      arrivedPath s.dev p m = s.dev.modPath p fun x => { x with mode := m, transit := none } := fun away => by
    rw [arrivedPath, Dev.markTransition, if_neg fun both => away both.1]
  rw [modeReached_eq moves] at row
  generalize arrivedPath s.dev p m = e at *
  dsimp only at row
  by_cases receives : m = 1
  · have unsettled := (marked_settleOn e p).trans (marked_markUnsettled e p)
    have settled := settle_markUnsettled e p
    rw [if_pos receives] at row
    generalize e.markUnsettled p = f at *
    have warned := marked_ite (c := m = 1 ∧ ¬ (e.tiles[tileOf p].syn e.tiles[tileOf p].act).qual = true) (marked_raise (p := p) f 2)
    have shown : m = 1 → (s.dev.tiles[tileOf p].syn s.dev.tiles[tileOf p].act).qual = false →
        Set (if m = 1 ∧ ¬ (e.tiles[tileOf p].syn e.tiles[tileOf p].act).qual = true then f.raise (chStatus p) 2 else f) (chStatus p) 2 := by
      intro _ lost
      rw [if_pos ⟨receives, by rw [tiles, lost]; decide⟩]
      exact set_raise _ (by decide)
    generalize (if m = 1 ∧ ¬ (e.tiles[tileOf p].syn e.tiles[tileOf p].act).qual = true then f.raise (chStatus p) 2 else f) = g at *
    have all := unsettled.trans warned
    rw [deferredNow_of_running (by rw [all.cad, cad, running])] at row
    refine ⟨g, row, all.mode.trans (by rw [reaches]), all.transit.trans (by rw [reaches]), fun q other => (all.others q other).trans (others q other),
      all.tiles.trans tiles, all.cad.trans cad, regs.trans all.regs, fun _ some => ?_, shown, fun away => absurd receives away⟩
    rw [← cad, ← length]
    exact (settled (by rw [length]; exact some)).trans warned.settle
  · rw [if_neg receives, if_neg fun both => receives both.1, deferredNow_of_running (by rw [cad, running])] at row
    exact ⟨e, row, by rw [reaches], by rw [reaches], others, tiles, cad, regs, fun enters => absurd enters receives,
      fun enters => absurd enters receives, fun _ away => stays away⟩

/-! ### A tile (Table 3.1) -/

variable {t : Fin 4}

/-- From one device to the next only the synthesizers of a tile have been set to work: its level and its way there stay, so do
the other tiles, the paths and the clock of ticks, and no bit of a register is cleared. -/
structure SynWork (t : Fin 4) (d e : Dev) : Prop where
  level : e.tiles[t].level = d.tiles[t].level
  goal : e.tiles[t].goal = d.tiles[t].goal
  via : e.tiles[t].via = d.tiles[t].via
  paths : e.paths = d.paths
  bits : ∀ a b, Set d a b → Set e a b

theorem SynWork.refl (d : Dev) : SynWork t d d := ⟨rfl, rfl, rfl, rfl, fun _ _ => id⟩

theorem SynWork.trans (h : SynWork t d e) (k : SynWork t e f) : SynWork t d f :=
  ⟨k.level.trans h.level, k.goal.trans h.goal, k.via.trans h.via, k.paths.trans h.paths, fun a b => k.bits a b ∘ h.bits a b⟩

theorem synWork_modTile (d : Dev) {g : Tile → Tile} (way : ∀ x, (g x).level = x.level ∧ (g x).goal = x.goal ∧ (g x).via = x.via) :
    SynWork t d (d.modTile t g) := by
  obtain ⟨level, goal, via⟩ := way d.tiles[t]
  refine ⟨?_, ?_, ?_, rfl, fun a b h => h.of_regs rfl⟩ <;> rwa [Dev.modTile_tile]

theorem Tile.modSyn_way (x : Tile) (b : Bool) (g : Syn → Syn) :
    (x.modSyn b g).level = x.level ∧ (x.modSyn b g).goal = x.goal ∧ (x.modSyn b g).via = x.via := by
  cases b <;> exact ⟨rfl, rfl, rfl⟩

theorem synWork_modSyn (d : Dev) (b : Bool) (g : Syn → Syn) : SynWork t d (d.modTile t fun x => x.modSyn b g) :=
  synWork_modTile d fun x => Tile.modSyn_way x b g

theorem synWork_raise (d : Dev) (a b : Nat) : SynWork t d (d.raise a b) where
  level := by rw [Dev.raise_tiles]
  goal := by rw [Dev.raise_tiles]
  via := by rw [Dev.raise_tiles]
  paths := Dev.raise_paths ..
  bits _ _ h := h.raise _ _

theorem synWork_startSyn (d : Dev) (b : Bool) (int frac : Word) : SynWork t d (d.startSyn t b int frac) := synWork_modSyn d b _

theorem synWork_stopSyn (d : Dev) (b : Bool) : SynWork t d (d.stopSyn t b) := synWork_modSyn d b _

theorem synWork_unqualify (d : Dev) (b : Bool) : SynWork t d (d.unqualify t b) := by
  unfold Dev.unqualify
  dsimp only
  split
  · exact (synWork_modSyn d b _).trans (synWork_raise _ _ _)
  · exact synWork_modSyn d b _

theorem synWork_unalign (d : Dev) : SynWork t d (d.unalign t) := synWork_modTile d fun _ => ⟨rfl, rfl, rfl⟩

/-- A synthesizer of a tile with a new word, its modulator restarted (R68). -/
def retuned (x : Tile) (b : Bool) (int frac : Word) (cycle : Nat) : Tile :=
  { (x.modSyn b fun s =>
      let s := { s with int := int, frac := frac, origin := cycle }
      if s.run then { s with busy := if s.bandFits (wordNum int frac) then .warm else .cold } else s) with
    reband := x.reband && x.act != b }

/-- A running synthesizer that is retuned loses its qualification first. -/
def beforeRetune (d : Dev) (t : Fin 4) (b : Bool) : Dev := if (d.tiles[t].syn b).run then d.unqualify t b else d

theorem retune_eq (d : Dev) (b : Bool) (int frac : Word) : d.retune t b int frac =
    (beforeRetune d t b).modTile t fun x => retuned x b int frac (beforeRetune d t b).time.cycle := rfl

theorem synWork_retune (d : Dev) (b : Bool) (int frac : Word) : SynWork t d (d.retune t b int frac) := by
  have stops : SynWork t d (beforeRetune d t b) := by
    unfold beforeRetune
    split
    · exact synWork_unqualify d b
    · exact .refl d
  rw [retune_eq]
  refine stops.trans (synWork_modTile _ fun x => ?_)
  cases b <;> exact ⟨rfl, rfl, rfl⟩

theorem synWork_roleStandby (d : Dev) : SynWork t d (d.roleStandby t) := by
  unfold Dev.roleStandby
  dsimp only
  split
  · exact .refl d
  split
  · exact synWork_stopSyn d _
  · split
    · exact synWork_startSyn d _ _ _
    split
    · exact .refl d
    · exact (synWork_retune d _ _ _).trans (synWork_unalign _)
  · split
    · exact synWork_startSyn d _ _ _
    split
    · exact .refl d
    · exact synWork_retune d _ _ _

/-- A tile in Standby that goes on to SynthOn, with its synthesizers still off. -/
def headsForSynthOn (d : Dev) (t : Fin 4) : Dev :=
  d.modTile t fun x => { x with
    act := if (d.tiles[t].syn (d.actReq t)).retired then !d.actReq t else d.actReq t
    goal := some 2
    via := false
    hoWait := false }

theorem synWork_beginSynthOn (d : Dev) (t : Fin 4) : SynWork t (headsForSynthOn d t) (d.beginSynthOn t) :=
  (synWork_startSyn (headsForSynthOn d t) _ _ _).trans (synWork_roleStandby _)

/-- A tile at Standby, on its way from Sleep to SynthOn. -/
def atStandby (d : Dev) (t : Fin 4) : Dev := (d.modTile t fun x => { x with level := 1 }).raise (Reg.TILE_EVT t.val) 1

theorem levelReached_via {g : Nat} (goal : d.tiles[t].goal = some g) (via : d.tiles[t].via = true) :
    d.levelReached t = (atStandby d t).beginSynthOn t := by
  rw [Dev.levelReached, goal]
  exact if_pos via

/-- A tile at the level of its transition. -/
def atLevel (d : Dev) (t : Fin 4) (g : Nat) : Dev :=
  (d.modTile t fun x => { x with level := g, goal := none }).raise (Reg.TILE_EVT t.val) 1

/-- A fall that finds every path idle, and a start that finds its synthesizer qualified, are the end of their transition. -/
theorem levelReached_ends {g : Nat} (goal : d.tiles[t].goal = some g) (via : d.tiles[t].via = false)
    (idle : g < 2 → ∀ p ∈ pathsOf t, d.paths[p].mode = 0 ∧ d.paths[p].transit = none)
    (starts : g = 2 → (d.tiles[t].syn d.tiles[t].act).qual = true ∧
      wordValid (d.tiles[t].syn d.tiles[t].act).int (d.tiles[t].syn d.tiles[t].act).frac = true) :
    d.levelReached t = (atLevel d t g).deferredNow := by
  have rests : g < 2 → ((pathsOf t).all fun p => d.paths[p].mode == 0 && d.paths[p].transit.isNone) = true := by
    intro low
    refine List.all_eq_true.mpr fun p mem => ?_
    obtain ⟨mode, transit⟩ := idle low p mem
    rw [mode, transit]
    rfl
  rw [Dev.levelReached, goal]
  refine (if_neg (by rw [via]; decide)).trans ((if_neg ?_).trans ?_)
  · rintro (⟨low, busy⟩ | ⟨on, bad⟩)
    · exact busy (rests low)
    · exact bad (starts on).2
  · exact congrArg (fun e : Dev => (atLevel e t g).deferredNow) (if_neg fun both => both.2 (starts both.1).1)

theorem atLevel_tiles (d : Dev) (t : Fin 4) (g : Nat) :
    (atLevel d t g).tiles = (d.modTile t fun x => { x with level := g, goal := none }).tiles := Dev.raise_tiles ..

end

/-- Settles O21: a path's transition works in the path alone, a tile's in the tile alone, and what starts its synthesizers leaves
its way to SynthOn as it is. -/
theorem transitionsReachTheirState : Obligations.TransitionsReachTheirState := by
  intro s running
  refine ⟨fun p m moves => pathArrives running moves, fun t g goal via idle starts => ?_, fun t goal via => ?_⟩
  · have row : Leads s (.stateTransitionDone (.tile t)) (s.dev.levelReached t) := leads_of_onCommit (f := fun d => d.levelReached t) rfl
    have runs : (atLevel s.dev t g).cad.running = true := by rw [atLevel, Dev.raise_cad, Dev.modTile_cad, running]
    rw [levelReached_ends goal via idle starts, deferredNow_of_running runs] at row
    refine ⟨_, row, by rw [atLevel_tiles, Dev.modTile_tile], fun u other => by rw [atLevel_tiles, Dev.modTile_tile_ne _ other],
      set_raise _ (by decide), ?_, Dev.raise_paths ..⟩
    exact (SameRegsBut.of_regs rfl).trans (sameRegs_raise _ _ (by simp))
  · have row : Leads s (.stateTransitionDone (.tile t)) (s.dev.levelReached t) := leads_of_onCommit (f := fun d => d.levelReached t) rfl
    rw [levelReached_via goal via] at row
    have starts := synWork_beginSynthOn (atStandby s.dev t) t
    have passes : (atStandby s.dev t).tiles[t].level = 1 := by rw [atStandby, Dev.raise_tiles, Dev.modTile_tile]
    have heads : (headsForSynthOn (atStandby s.dev t) t).tiles[t] = _ := Dev.modTile_tile t _
    refine ⟨_, row, ?_, ?_, ?_, starts.bits _ _ ?_, starts.paths.trans ?_⟩
    · rw [starts.level, heads, passes]
    · rw [starts.goal, heads]
    · rw [starts.via, heads]
    · have standby : Set (atStandby s.dev t) (Reg.TILE_EVT t.val) 1 := set_raise _ (by decide)
      exact standby.of_regs rfl
    · exact Dev.raise_paths ..

end Sys2Proof.Cert

/-! PROOFS. LO qualification (O22): lost with what follows on the active synthesizer, regained in the stored band, and the exit from
the track window. -/

namespace Sys2Proof.Cert

open Sys2Proof.Machine

section

variable {d e f : Dev} {t : Fin 4}

/-! ### Lost (R69, R79, R80) -/

/-- From one device to the next the synthesizers of a tile and its held output stay, its events too, and so does the count of
slips. -/
structure LoKept (t : Fin 4) (d e : Dev) : Prop where
  syn : ∀ b, e.tiles[t].syn b = d.tiles[t].syn b
  txHeld : e.tiles[t].txHeld = d.tiles[t].txHeld
  events : ∀ b, Set d (Reg.TILE_EVT t.val) b → Set e (Reg.TILE_EVT t.val) b
  slips : e.rd (Reg.TILE_SYN_SLIPS t.val) = d.rd (Reg.TILE_SYN_SLIPS t.val)

theorem LoKept.refl (d : Dev) : LoKept t d d := ⟨fun _ => rfl, rfl, fun _ => id, rfl⟩

theorem LoKept.trans (h : LoKept t d e) (k : LoKept t e f) : LoKept t d f :=
  ⟨fun b => (k.syn b).trans (h.syn b), k.txHeld.trans h.txHeld, fun b => k.events b ∘ h.events b, k.slips.trans h.slips⟩

theorem loKept_raise (d : Dev) {a : Nat} (b : Nat) (other : Reg.TILE_SYN_SLIPS t.val ≠ a) : LoKept t d (d.raise a b) :=
  ⟨fun _ => by rw [Dev.raise_tiles], by rw [Dev.raise_tiles], fun _ h => h.raise _ _, Dev.rd_raise_ne _ _ other⟩

theorem slips_ne_event (t u : Fin 4) : Reg.TILE_SYN_SLIPS t.val ≠ Reg.TILE_EVT u.val := by
  simp only [Reg.TILE_SYN_SLIPS, Reg.TILE_EVT]
  omega

theorem slips_ne_held (t u : Fin 4) : Reg.TILE_SYN_SLIPS t.val ≠ Reg.TILE_LO_HELD u.val := by
  simp only [Reg.TILE_SYN_SLIPS, Reg.TILE_LO_HELD]
  omega

theorem slips_ne_chStatus (t : Fin 4) (p : Fin 64) : Reg.TILE_SYN_SLIPS t.val ≠ chStatus p := by
  simp only [Reg.TILE_SYN_SLIPS, chStatus, Reg.TILE_CH_STATUS]
  omega

theorem loKept_modTile (d : Dev) {g : Tile → Tile} (works : ∀ x, (∀ b, (g x).syn b = x.syn b) ∧ (g x).txHeld = x.txHeld) :
    LoKept t d (d.modTile t g) := by
  obtain ⟨syn, held⟩ := works d.tiles[t]
  exact ⟨fun b => by rw [Dev.modTile_tile, syn], by rw [Dev.modTile_tile, held], fun _ h => h.of_regs rfl, rfl⟩

theorem LoKept.foldl {α : Type} {g : Dev → α → Dev} (works : ∀ d a, LoKept t d (g d a)) (l : List α) (d : Dev) : LoKept t d (l.foldl g d) := by
  induction l generalizing d with
  | nil => exact .refl d
  | cons a l ih => exact (works d a).trans (ih _)

theorem loKept_spoil (d : Dev) (p : Fin 64) : LoKept t d (d.spoil p) := ⟨fun _ => rfl, rfl, fun _ h => h.of_regs rfl, rfl⟩

theorem loKept_rxUnsettled (d : Dev) : LoKept t d (d.rxUnsettled t) := by
  have opens : LoKept t d (d.modTile t fun x => { x with loFrom := some (x.loFrom.getD d.cad.since) }) :=
    loKept_modTile d fun _ => ⟨fun b => by cases b <;> rfl, rfl⟩
  refine opens.trans (.foldl (fun d p => ?_) _ _)
  split
  · exact loKept_raise d 2 (slips_ne_chStatus t p)
  · exact .refl d

/-- The tile's output held for the rest of the symbol. -/
def outputHeld (d : Dev) (t : Fin 4) : Dev :=
  d.modTile t fun x => { x with txHeld := true, heldSym := x.heldSym || (pathsOf t).any fun p => d.paths[p].inTx }

/-- A symbol cut off in transmission is counted once (R79). -/
def heldCounted (d : Dev) (t : Fin 4) (counts : Bool) : Dev :=
  if counts then (d.count32 (Reg.TILE_LO_HELD t.val)).raise (Reg.TILE_EVT t.val) 0 else d

theorem loKept_heldCounted (d : Dev) (counts : Bool) : LoKept t d (heldCounted d t counts) := by
  have counted : LoKept t d (d.count32 (Reg.TILE_LO_HELD t.val)) := by
    refine ⟨fun _ => by rw [Dev.count32_tiles], by rw [Dev.count32_tiles], fun _ h => h.of_rd_eq (Dev.rd_count32_ne _ ?_),
      Dev.rd_count32_ne _ (slips_ne_held t t)⟩
    simp only [Reg.TILE_EVT, Reg.TILE_LO_HELD]
    omega
  unfold heldCounted
  split
  · exact counted.trans (loKept_raise _ 0 (slips_ne_event t t))
  · exact .refl d

theorem loLost_eq (d : Dev) (t : Fin 4) : d.loLost t =
    ((pathsOf t).foldl Dev.spoil (heldCounted (outputHeld d t) t
      (((pathsOf t).any fun p => d.paths[p].inTx) && !d.tiles[t].heldSym))).rxUnsettled t := rfl

theorem loKept_loLost (d : Dev) : LoKept t (outputHeld d t) (d.loLost t) := by
  rw [loLost_eq]
  exact ((loKept_heldCounted _ _).trans (.foldl loKept_spoil _ _)).trans (loKept_rxUnsettled _)

/-- A synthesizer that has lost its qualification, with its event and its slips. -/
def slipped (d : Dev) (t : Fin 4) (b : Bool) (n : Nat) : Dev :=
  let d := (d.unqualify t b).modTile t fun x => x.modSyn b fun s => s
  let hi := if b then 31 else 15
  d.fset (Reg.TILE_SYN_SLIPS t.val) hi (hi - 15) (min 65535 (d.fget (Reg.TILE_SYN_SLIPS t.val) hi (hi - 15) + n))

theorem qualLost_slip {b : Bool} (n : Nat) (run : (d.tiles[t].syn b).run = true) (qual : (d.tiles[t].syn b).qual = true) :
    d.qualLost t b (.slip n) =
      (if d.tiles[t].act = b ∧ d.tiles[t].level = 2 ∧ d.tiles[t].goal.isNone then (slipped d t b n).loLost t else slipped d t b n).report
        (toSrc (128 + 2 * t.val + b2n b)) :=
  if_neg (by rw [run, qual]; decide)

/-- A running, qualified synthesizer that loses its qualification. -/
def unqualified (d : Dev) (t : Fin 4) (b : Bool) : Dev :=
  (d.modTile t fun x => x.modSyn b fun s => { s with qual := false, ld := false }).raise (Reg.TILE_EVT t) (if b then 3 else 2)

theorem unqualify_eq {b : Bool} (run : (d.tiles[t].syn b).run = true) (qual : (d.tiles[t].syn b).qual = true) :
    d.unqualify t b = unqualified d t b := if_pos (by rw [run, qual]; rfl)

theorem unqualified_tile (d : Dev) (t : Fin 4) (b : Bool) :
    (unqualified d t b).tiles[t] = d.tiles[t].modSyn b fun s => { s with qual := false, ld := false } := by
  rw [unqualified, Dev.raise_tiles, Dev.modTile_tile]

theorem slipped_tile {b : Bool} (n : Nat) (run : (d.tiles[t].syn b).run = true) (qual : (d.tiles[t].syn b).qual = true) :
    (slipped d t b n).tiles[t] = d.tiles[t].modSyn b fun s => { s with qual := false, ld := false } := by
  refine Eq.trans (Dev.modTile_tile t _) ?_
  rw [unqualify_eq run qual, unqualified_tile]
  cases b <;> rfl

theorem slipped_slips {b : Bool} (n : Nat) (run : (d.tiles[t].syn b).run = true) (qual : (d.tiles[t].syn b).qual = true) :
    ((slipped d t b n).rd (Reg.TILE_SYN_SLIPS t.val)).get (if b then 31 else 15) (if b then 16 else 0) =
      min 65535 ((d.rd (Reg.TILE_SYN_SLIPS t.val)).get (if b then 31 else 15) (if b then 16 else 0) + n) := by
  have before : ((d.unqualify t b).modTile t fun x => x.modSyn b fun s => s).rd (Reg.TILE_SYN_SLIPS t.val) =
      d.rd (Reg.TILE_SYN_SLIPS t.val) := by
    rw [unqualify_eq run qual]
    exact Dev.rd_raise_ne _ _ (slips_ne_event t t)
  have small (m : Nat) : min 65535 m < 2 ^ 16 := by omega
  cases b with
  | false =>
    refine (get_fset _ _ (by decide) (by decide) (small _)).trans ?_
    rw [Dev.fget, before]
    rfl
  | true =>
    refine (get_fset _ _ (by decide) (by decide) (small _)).trans ?_
    rw [Dev.fget, before]
    rfl

theorem slipped_event {b : Bool} (n : Nat) (run : (d.tiles[t].syn b).run = true) (qual : (d.tiles[t].syn b).qual = true) :
    Set (slipped d t b n) (Reg.TILE_EVT t.val) (if b then 3 else 2) := by
  have raised : Set (d.unqualify t b) (Reg.TILE_EVT t.val) (if b then 3 else 2) := by
    rw [unqualify_eq run qual]
    exact set_raise _ (by split <;> decide)
  exact raised.of_rd_eq (Dev.rd_fset_ne _ _ _ _ (slips_ne_event t t).symm)

theorem slipped_paths (d : Dev) (t : Fin 4) {b : Bool} (n : Nat) (run : (d.tiles[t].syn b).run = true)
    (qual : (d.tiles[t].syn b).qual = true) : (slipped d t b n).paths = d.paths := by
  refine Eq.trans (b := (d.unqualify t b).paths) rfl ?_
  rw [unqualify_eq run qual]
  exact Dev.raise_paths ..

end

theorem loQualificationLost : LoQualificationLost := by
  intro s t b n run qual
  have row : Leads s (.loQualLost t b (.slip n)) (s.dev.qualLost t b (.slip n)) := leads_of_onCommit (f := fun d => d.qualLost t b (.slip n)) rfl
  rw [qualLost_slip n run qual] at row
  have tile := slipped_tile n run qual
  have slips := slipped_slips n run qual
  have event := slipped_event n run qual
  have paths := slipped_paths s.dev t n run qual
  generalize slipped s.dev t b n = e at *
  have syn : (e.tiles[t].syn b).qual = false ∧ (e.tiles[t].syn b).run = true := by
    rw [tile, Tile.syn_modSyn]
    exact ⟨rfl, run⟩
  have way : e.tiles[t].txHeld = s.dev.tiles[t].txHeld := by
    rw [tile]
    cases b <;> rfl
  have output : ∃ g, (if s.dev.tiles[t].act = b ∧ s.dev.tiles[t].level = 2 ∧ s.dev.tiles[t].goal.isNone then e.loLost t else e) = g ∧
      (∀ c, g.tiles[t].syn c = e.tiles[t].syn c) ∧ Set g (Reg.TILE_EVT t.val) (if b then 3 else 2) ∧
      g.rd (Reg.TILE_SYN_SLIPS t.val) = e.rd (Reg.TILE_SYN_SLIPS t.val) ∧
      ((s.dev.tiles[t]).act = b → (s.dev.tiles[t]).level = 2 → (s.dev.tiles[t]).goal = none → (g.tiles[t]).txHeld = true) ∧
      ((s.dev.tiles[t]).act ≠ b → g.paths = s.dev.paths ∧ (g.tiles[t]).txHeld = (s.dev.tiles[t]).txHeld) := by
    refine ⟨_, rfl, ?_⟩
    split
    next acts =>
      have kept := loKept_loLost (t := t) e
      have held : (outputHeld e t).tiles[t] = _ := Dev.modTile_tile t _
      refine ⟨fun c => (kept.syn c).trans ?_, kept.events _ (event.of_regs rfl), kept.slips, fun _ _ _ => ?_,
        fun other => absurd acts.1 other⟩
      · rw [held]
        cases c <;> rfl
      · rw [kept.txHeld, held]
    next rests =>
      refine ⟨fun _ => rfl, event, rfl, fun act level goal => absurd ⟨act, level, ?_⟩ rests, fun _ => ⟨paths, way⟩⟩
      rw [goal]
      rfl
  obtain ⟨g, same, syns, evt, kept, holds, other⟩ := output
  rw [same] at row
  have reports := Dev.report_reported g (toSrc (128 + 2 * t.val + b2n b))
  have tiles := reported_tiles reports
  refine ⟨_, row, ?_, ?_, evt.report (by simp only [Reg.TILE_EVT]; omega) _, ?_, ?_, ?_⟩
  · rw [tiles, syns, syn.1]
  · rw [tiles, syns, syn.2]
  · rw [rd_report g _ _ (by simp only [Reg.TILE_SYN_SLIPS]; omega), kept, slips]
  · rwa [tiles]
  · rwa [tiles, reported_paths reports]

/-! ### Regained (R69, R522) -/

/-- A synthesizer that is qualified again in its stored band. -/
def requalifiedSyn (s : Syn) : Syn := { s with qual := true, ld := true, busy := .none }

section

variable {d : Dev} {t : Fin 4}

theorem modTile_congr {g h : Tile → Tile} (same : g d.tiles[t] = h d.tiles[t]) : d.modTile t g = d.modTile t h := by
  rw [Dev.modTile, same, Dev.modTile]

theorem qualify_warm {b : Bool} (busy : (d.tiles[t].syn b).busy ≠ .cold) (band : (d.tiles[t].syn b).band.isSome = true) :
    d.qualify t b = (d.modTile t fun x => x.modSyn b requalifiedSyn).loClose t := by
  have warm : ((d.tiles[t].syn b).busy == .cold || (d.tiles[t].syn b).band.isNone) = false := by
    rw [Bool.or_eq_false_iff, beq_eq_false_iff_ne, Option.isNone_eq_false_iff]
    exact ⟨busy, band⟩
  unfold Dev.qualify
  simp only [warm, Bool.false_eq_true, if_false]
  refine congrArg (fun e : Dev => e.loClose t) (modTile_congr ?_)
  cases b <;> rfl

/-- Whether a span without a qualified LO ends (R80). -/
theorem loClose_cases (d : Dev) (t : Fin 4) :
    (d.loClose t = d ∧ (d.tiles[t].loFrom = none ∨ (d.tiles[t].syn d.tiles[t].act).qual = false)) ∨
      ∃ a, d.tiles[t].loFrom = some a ∧
        d.loClose t = d.modTile t fun x => { x with loFrom := none, loBad := (a, d.cad.since) :: x.loBad } := by
  unfold Dev.loClose
  split
  next a from_ =>
    split
    · exact .inr ⟨a, from_, rfl⟩
    next lost => exact .inl ⟨rfl, .inr (Bool.not_eq_true _ ▸ lost)⟩
  next none => exact .inl ⟨rfl, .inl none⟩

theorem requalified_eq {b : Bool} (run : (d.tiles[t].syn b).run = true) (lost : (d.tiles[t].syn b).qual = false)
    (serves : (d.tiles[t].syn b).retired = false) (valid : wordValid (d.tiles[t].syn b).int (d.tiles[t].syn b).frac = true)
    (keeps : (d.qualify t b).tiles[t].rebandHo = false) (ticks : (d.qualify t b).ticking = true) : d.requalified t b = d.qualify t b := by
  unfold Dev.requalified
  refine (if_neg (by rw [run, lost, serves, valid]; decide)).trans ?_
  have rests : ¬ ((d.qualify t b).tiles[t].rebandHo = true ∧ (d.qualify t b).tiles[t].act ≠ b) := by
    rw [keeps]
    exact fun both => Bool.false_ne_true both.1
  dsimp only
  rw [if_neg rests, ticks]
  rfl

end

theorem loQualificationRegained : LoQualificationRegained := by
  intro s t b running y run lost serves valid warm band stays
  have row : Leads s (.loQualified t b) (s.dev.requalified t b) := leads_of_onCommit (f := fun d => d.requalified t b) rfl
  have locks := qualify_warm (d := s.dev) (t := t) warm band
  have tile : (s.dev.modTile t fun x => x.modSyn b requalifiedSyn).tiles[t] = s.dev.tiles[t].modSyn b requalifiedSyn := Dev.modTile_tile t _
  have act : (s.dev.tiles[t].modSyn b requalifiedSyn).act = s.dev.tiles[t].act := by cases b <;> rfl
  have loFrom : (s.dev.tiles[t].modSyn b requalifiedSyn).loFrom = s.dev.tiles[t].loFrom := by cases b <;> rfl
  have rebandHo : (s.dev.tiles[t].modSyn b requalifiedSyn).rebandHo = false := by cases b <;> exact stays
  have others (u : Fin 4) (other : u ≠ t) : (s.dev.modTile t fun x => x.modSyn b requalifiedSyn).tiles[u] = s.dev.tiles[u] :=
    Dev.modTile_tile_ne _ other
  have frame : s.dev.modTile t (fun x => x.modSyn b requalifiedSyn) =
    { s.dev with tiles := (s.dev.modTile t fun x => x.modSyn b requalifiedSyn).tiles } := rfl
  have ticks : (s.dev.modTile t fun x => x.modSyn b requalifiedSyn).ticking = true := by rw [Dev.ticking, Dev.modTile_cad, running]; rfl
  obtain ⟨closes, cause⟩ | ⟨a, from_, closes⟩ := loClose_cases (s.dev.modTile t fun x => x.modSyn b requalifiedSyn) t
  · rw [closes] at locks
    rw [requalified_eq run lost serves valid (by rw [locks, tile, rebandHo]) (by rw [locks, ticks]), locks] at row
    rw [tile, act, loFrom] at cause
    refine ⟨_, row, ?_, ?_, frame, others, fun drives => ?_, fun _ => rfl⟩
    · rw [tile, Tile.syn_modSyn]
      rfl
    · rw [tile, Tile.syn_modSyn_other]
    · rw [tile, loFrom]
      refine cause.resolve_right ?_
      rw [drives, Tile.syn_modSyn]
      simp [requalifiedSyn]
  · rw [tile, loFrom] at from_
    rw [closes] at locks
    have close := Dev.modTile_tile (d := s.dev.modTile t fun x => x.modSyn b requalifiedSyn) t
      fun x => { x with loFrom := none, loBad := (a, (s.dev.modTile t fun x => x.modSyn b requalifiedSyn).cad.since) :: x.loBad }
    rw [requalified_eq run lost serves valid (by rw [locks, close, tile, rebandHo]) (by rw [locks]; exact ticks), locks] at row
    refine ⟨_, row, ?_, ?_, rfl, fun u other => (Dev.modTile_tile_ne _ other).trans (others u other), fun _ => by rw [close],
      fun none => absurd (from_.symm.trans none) nofun⟩
    · rw [close, tile]
      refine Eq.trans (b := (s.dev.tiles[t].modSyn b requalifiedSyn).syn b) ?_ (Tile.syn_modSyn _ b _)
      cases b <;> rfl
    · rw [close, tile]
      refine Eq.trans (b := (s.dev.tiles[t].modSyn b requalifiedSyn).syn !b) ?_ (Tile.syn_modSyn_other _ b _)
      cases b <;> rfl

/-! ### The track window (R70) -/

section

variable {d : Dev} {t : Fin 4}

/-- A synthesizer whose tuning voltage has left its track window. -/
def offTrack (d : Dev) (t : Fin 4) (b : Bool) : Dev := d.modTile t fun x => x.modSyn b fun y => { y with vt := true }

theorem offTrack_tile (d : Dev) (t : Fin 4) (b : Bool) :
    (offTrack d t b).tiles[t] = d.tiles[t].modSyn b fun y => { y with vt := true } := Dev.modTile_tile t _

theorem stbyRole_offTrack (d : Dev) (t : Fin 4) (b : Bool) : (offTrack d t b).stbyRole t = d.stbyRole t := by
  unfold Dev.stbyRole
  rw [offTrack_tile]
  cases b <;> rfl

theorem trackExit_active (run : (d.tiles[t].syn d.tiles[t].act).run = true) (qual : (d.tiles[t].syn d.tiles[t].act).qual = true)
    (on : d.tiles[t].level = 2) : d.trackExit t d.tiles[t].act =
      if (offTrack d t d.tiles[t].act).stbyRole t = 1 ∧ (d.tiles[t].syn !d.tiles[t].act).run then
        ((offTrack d t d.tiles[t].act).reselect t !d.tiles[t].act).modTile t fun x => { x with rebandHo := true }
      else
        let e := (offTrack d t d.tiles[t].act).modTile t fun x => { x with reband := true }
        if e.ticking then e else e.rebandIdle t :=
  (if_neg (by rw [run, qual]; decide)).trans (if_neg (not_or.mpr ⟨fun other => other rfl, fun low => low on⟩))

theorem trackExit_standby {b : Bool} (run : (d.tiles[t].syn b).run = true) (qual : (d.tiles[t].syn b).qual = true)
    (rests : d.tiles[t].act ≠ b) : d.trackExit t b = offTrack d t b :=
  (if_neg (by rw [run, qual]; decide)).trans (if_pos (.inl rests))

theorem unqualify_cases (d : Dev) (t : Fin 4) (b : Bool) : d.unqualify t b = unqualified d t b ∨
    d.unqualify t b = d.modTile t fun x => x.modSyn b fun s => { s with qual := false, ld := false } := by
  unfold Dev.unqualify
  dsimp only
  split
  · exact .inl rfl
  · exact .inr rfl

/-- A synthesizer that is to be re-banded is not LO-qualified and in a cold band selection; the other one stays. -/
theorem reselect_tile (d : Dev) (t : Fin 4) (b : Bool) : (d.reselect t b).tiles[t] =
    d.tiles[t].modSyn b fun s => { s with qual := false, ld := false, busy := .cold } := by
  have lost : (d.unqualify t b).tiles[t] = d.tiles[t].modSyn b fun s => { s with qual := false, ld := false } := by
    obtain loses | loses := unqualify_cases d t b
    · rw [loses, unqualified_tile]
    · rw [loses, Dev.modTile_tile]
  refine (Dev.modTile_tile t _).trans ?_
  rw [lost]
  cases b <;> rfl

end

theorem trackWindowExit : TrackWindowExit := by
  intro s t running x run qual on
  refine ⟨?_, fun standby serves => ?_⟩
  · have row : Leads s (.vtTrackExit t x.act) (s.dev.trackExit t x.act) := leads_of_onCommit (f := fun d => d.trackExit t x.act) rfl
    rw [trackExit_active run qual on, stbyRole_offTrack] at row
    have tile := offTrack_tile s.dev t x.act
    have marked : ((offTrack s.dev t x.act).tiles[t].syn x.act).vt = true ∧ ((offTrack s.dev t x.act).tiles[t].syn x.act).qual = true := by
      rw [tile, Tile.syn_modSyn]
      exact ⟨rfl, qual⟩
    have ticks : ((offTrack s.dev t x.act).modTile t fun x => { x with reband := true }).ticking = true := by
      rw [Dev.ticking, Dev.modTile_cad, offTrack, Dev.modTile_cad, running]
      rfl
    split at row
    next takes =>
      have other := reselect_tile (offTrack s.dev t x.act) t !x.act
      have last := Dev.modTile_tile (d := (offTrack s.dev t x.act).reselect t !x.act) t fun x => { x with rebandHo := true }
      have drives : ((offTrack s.dev t x.act).reselect t !x.act).tiles[t].syn x.act = (offTrack s.dev t x.act).tiles[t].syn x.act := by
        rw [other]
        cases x.act <;> rfl
      have rests : (((offTrack s.dev t x.act).reselect t !x.act).tiles[t].syn !x.act).qual = false ∧
          (((offTrack s.dev t x.act).reselect t !x.act).tiles[t].syn !x.act).busy = .cold := by
        rw [other, Tile.syn_modSyn]
        exact ⟨rfl, rfl⟩
      have same (b : Bool) : (((offTrack s.dev t x.act).reselect t !x.act).modTile t fun x => { x with rebandHo := true }).tiles[t].syn b =
          ((offTrack s.dev t x.act).reselect t !x.act).tiles[t].syn b := by
        rw [last]
        cases b <;> rfl
      exact ⟨_, row, by rw [same, drives, marked.1], by rw [same, drives, marked.2],
        fun _ _ => ⟨by rw [last], by rw [same, rests.1], by rw [same, rests.2]⟩, fun off => absurd takes.1 off⟩
    next alone =>
      rw [if_pos ticks] at row
      have last := Dev.modTile_tile (d := offTrack s.dev t x.act) t fun x => { x with reband := true }
      refine ⟨_, row, ?_, ?_, fun hot runs => absurd ⟨hot, runs⟩ alone, fun _ => ⟨by rw [last], rfl⟩⟩
      · rw [last]
        exact marked.1
      · rw [last]
        exact marked.2
  · have row : Leads s (.vtTrackExit t !x.act) (s.dev.trackExit t !x.act) := leads_of_onCommit (f := fun d => d.trackExit t !x.act) rfl
    rwa [trackExit_standby standby serves (by cases s.dev.tiles[t].act <;> decide)] at row

/-- Settles O22: what a loss leaves of the tile's synthesizers, the band that a requalification keeps, and who is re-banded. -/
theorem loQualification : Obligations.LoQualification := ⟨loQualificationLost, loQualificationRegained, trackWindowExit⟩

end Sys2Proof.Cert

/-! PROOFS. The relief converters (O23): the rows of the rotation, and the end of a native pair's time out of service. -/

namespace Sys2Proof.Machine

section

variable {d : Dev} {t : Fin 4}

theorem Dev.modRelief_tile (t : Fin 4) (f : ReliefTile → ReliefTile) : (d.modRelief t f).relief[t] = f d.relief[t] := by
  simp [Dev.modRelief]

theorem Dev.modRelief_tile_ne {u : Fin 4} (f : ReliefTile → ReliefTile) (h : u ≠ t) : (d.modRelief t f).relief[u] = d.relief[u] := by
  simp [Dev.modRelief, Vector.getElem_set_ne, Fin.val_ne_of_ne h.symm]

theorem ReliefTile.pair_modPair (r : ReliefTile) (dac : Bool) (f : Relief → Relief) : (r.modPair dac f).pair dac = f (r.pair dac) := by
  cases dac <;> rfl

theorem ReliefTile.pair_modPair_other (r : ReliefTile) (dac : Bool) (f : Relief → Relief) :
    (r.modPair dac f).pair (!dac) = r.pair (!dac) := by
  cases dac <;> rfl

theorem ReliefTile.nocmp_modPair (r : ReliefTile) (dac : Bool) (f : Relief → Relief) : (r.modPair dac f).nocmp = r.nocmp := by
  cases dac <;> rfl

theorem ReliefTile.modPair_congr {r : ReliefTile} {dac : Bool} {f g : Relief → Relief} (same : f (r.pair dac) = g (r.pair dac)) :
    r.modPair dac f = r.modPair dac g := by
  cases dac
  · exact congrArg (fun x => { r with adc := x }) same
  · exact congrArg (fun x => { r with dac := x }) same

theorem Dev.modRelief_congr {f g : ReliefTile → ReliefTile} (same : f d.relief[t] = g d.relief[t]) : d.modRelief t f = d.modRelief t g := by
  rw [Dev.modRelief, same, Dev.modRelief]

end

end Sys2Proof.Machine

namespace Sys2Proof.Cert

open Sys2Proof.Machine

section

variable {d e : Dev} {t : Fin 4} {dac : Bool}

/-! ### Slots and windows (R105 to R108) -/

/-- What the start of slot `k` makes of one kind's relief pair (R106 to R111). -/
def slotBegins (d : Dev) (t : Fin 4) (k : Nat) (dac : Bool) (x : Relief) : Relief :=
  if x.retired || x.testing || !d.reliefRuns t dac then x
  else if x.failedReturn then { x with failedReturn := false, calibrating := true, held := some (d.convTrims t dac x.path) }
  else if x.phase != 0 || x.forRetired then x
  else if k = 16 then { x with calibrating := true, path := 16, held := none }
  else { x with phase := 1, path := k, closed := false, calibrating := false, inMode := false, whole := 0, held := none }

theorem slotStart_next (running : d.cad.running = true) (rotates : d.relief[t].stops = false) (started : d.relief[t].started = true)
    (adc : d.relief[t].adc.failedReturn = false) (dac : d.relief[t].dac.failedReturn = false) :
    d.slotStart t = d.modRelief t fun r =>
      { r with
        slot := d.slotAfter t d.relief[t].slot
        started := true
        adc := slotBegins d t (d.slotAfter t d.relief[t].slot) false r.adc
        dac := slotBegins d t (d.slotAfter t d.relief[t].slot) true r.dac } := by
  simp only [Dev.slotStart, running, rotates, started, adc, dac, Bool.not_true, Bool.or_self, Bool.false_eq_true, if_false, if_true]
  rfl

theorem slotBegins_free {k : Nat} {x : Relief} (serves : x.retired = false) (untested : x.testing = false)
    (runs : d.reliefRuns t.val dac = true) (idle : x.phase = 0) (free : x.forRetired = false) (returned : x.failedReturn = false) :
    (k < 16 → (slotBegins d t k dac x).phase = 1 ∧ (slotBegins d t k dac x).path = k) ∧
      (k = 16 → (slotBegins d t k dac x).calibrating = true) := by
  have begins : slotBegins d t k dac x =
      if k = 16 then { x with calibrating := true, path := 16, held := none }
      else { x with phase := 1, path := k, closed := false, calibrating := false, inMode := false, whole := 0, held := none } := by
    simp [slotBegins, serves, untested, runs, idle, free, returned]
  rw [begins]
  refine ⟨fun early => ?_, fun last => ?_⟩
  · rw [if_neg (by omega)]
    exact ⟨rfl, rfl⟩
  · rw [if_pos last]

theorem windowClose_open (running : d.cad.running = true) (opened : (d.relief[t].pair dac).phase = 1 ∨ (d.relief[t].pair dac).phase = 3) :
    d.windowClose t dac = d.modRelief t fun r => r.modPair dac fun x => { x with closed := true } := by
  refine (if_neg (by rw [running]; decide)).trans (Dev.modRelief_congr (ReliefTile.modPair_congr ?_))
  exact if_pos opened

/-! ### The comparator (R109 to R111) -/

/-- Whether the comparator has a ratio to judge: a qualified comparison over at least one symbol of the path. -/
def compares (x : Relief) (qualified : Bool) : Bool := qualified && decide (0 < x.whole)

/-- The metric of a comparison shown. -/
def metricShown (d : Dev) (t : Fin 4) (dac compared : Bool) (ratio : Nat) : Dev :=
  if compared then d.fset (Reg.TILE_RELIEF_METRIC t) (if dac then 15 else 7) (if dac then 8 else 0) (min ratio 255) else d

/-- The window's pair is judged: it is no longer closed, and a pass says whether there was a comparison. -/
def judged (d : Dev) (t : Fin 4) (dac compared pass : Bool) : Dev :=
  d.modRelief t fun r => { r.modPair dac (fun x => { x with closed := false }) with nocmp := if pass then !compared else r.nocmp }

/-- A comparison that fails is counted, and its event set. -/
def failCounted (d : Dev) (t : Fin 4) : Dev := (d.count32 (Reg.TILE_RELIEF_FAIL t)).raise (Reg.TILE_RELIEF_EVT t) 0

/-- A pair is free again after a failed takeover. -/
def takeoverFreed (d : Dev) (t : Fin 4) (dac : Bool) : Dev :=
  (d.modRelief t fun r => r.modPair dac fun x => { x with phase := 0 }).report (reliefSource t dac)

/-- The comparator judges a closed window (R110, R111). -/
theorem compareDone_eq (ratio : Nat) (qualified : Bool) (running : d.cad.running = true) (closed : (d.relief[t].pair dac).closed = true) :
    d.compareDone t dac ratio qualified =
      (let c := compares (d.relief[t].pair dac) qualified
       let e := metricShown d t dac c ratio
       let pass := !c || decide (ratio ≤ e.fget (Reg.TILE_RELIEF_CFG t) 7 0)
       let j := judged e t dac c pass
       if pass then j.commit byFirmware (.relief t dac) [] (if (d.relief[t].pair dac).phase = 1 then 1 else 0)
       else if (d.relief[t].pair dac).phase = 1 then takeoverFreed (failCounted j t) t dac
       else ((failCounted j t).modRelief t fun r => r.modPair dac fun x => { x with phase := 2, failedReturn := !x.restoring }).report
         (nativeSource t dac (d.relief[t].pair dac).path)) :=
  if_neg (by rw [closed, running]; decide)

theorem metric_ne_cfg (t : Fin 4) : Reg.TILE_RELIEF_CFG t.val ≠ Reg.TILE_RELIEF_METRIC t.val := by
  simp only [Reg.TILE_RELIEF_CFG, Reg.TILE_RELIEF_METRIC]
  omega

theorem metricShown_limit (d : Dev) (t : Fin 4) (dac c : Bool) (ratio : Nat) :
    (metricShown d t dac c ratio).fget (Reg.TILE_RELIEF_CFG t) 7 0 = (d.rd (Reg.TILE_RELIEF_CFG t)).get 7 0 := by
  unfold metricShown
  split
  · rw [Dev.fget, Dev.rd_fset_ne _ _ _ _ (metric_ne_cfg t)]
  · rfl

theorem metricShown_relief (d : Dev) (t : Fin 4) (dac c : Bool) (ratio : Nat) : (metricShown d t dac c ratio).relief = d.relief := by
  unfold metricShown
  split <;> rfl

theorem metricShown_cad (d : Dev) (t : Fin 4) (dac c : Bool) (ratio : Nat) : (metricShown d t dac c ratio).cad = d.cad := by
  unfold metricShown
  split <;> rfl

theorem judged_tile (d : Dev) (t : Fin 4) (dac c pass : Bool) : (judged d t dac c pass).relief[t] =
    { d.relief[t].modPair dac (fun x => { x with closed := false }) with nocmp := if pass then !c else d.relief[t].nocmp } :=
  Dev.modRelief_tile t _

theorem rd_judged (d : Dev) (t : Fin 4) (dac c pass : Bool) (a : Nat) : (judged d t dac c pass).rd a = d.rd a := rfl

theorem metricShown_shows (d : Dev) (t : Fin 4) (dac : Bool) (ratio : Nat) :
    ((metricShown d t dac true ratio).rd (Reg.TILE_RELIEF_METRIC t)).get (if dac then 15 else 7) (if dac then 8 else 0) = min ratio 255 := by
  have byte : min ratio 255 < 2 ^ 8 := by omega
  unfold metricShown
  rw [if_pos rfl]
  cases dac <;> exact get_fset d (Reg.TILE_RELIEF_METRIC t) (by decide) (by decide) byte

theorem judged_open (d : Dev) (t : Fin 4) (dac c pass : Bool) : ((judged d t dac c pass).relief[t].pair dac).closed = false := by
  rw [judged_tile]
  cases dac <;> rfl

theorem metricShown_fails (d : Dev) (t : Fin 4) (dac c : Bool) (ratio : Nat) :
    (metricShown d t dac c ratio).rd (Reg.TILE_RELIEF_FAIL t) = d.rd (Reg.TILE_RELIEF_FAIL t) := by
  unfold metricShown
  split
  · refine Dev.rd_fset_ne _ _ _ _ ?_
    simp only [Reg.TILE_RELIEF_FAIL, Reg.TILE_RELIEF_METRIC]
    omega
  · rfl

/-- A failed takeover frees its pair, is counted and sets its event; the report keeps that. -/
theorem takeoverFreed_spec (d : Dev) (t : Fin 4) (dac : Bool) :
    let e := takeoverFreed (failCounted d t) t dac
    ((e.relief[t]).pair dac).phase = 0 ∧ Counted d e (Reg.TILE_RELIEF_FAIL t.val) 31 0 ∧ Set e (Reg.TILE_RELIEF_EVT t.val) 0 ∧
      (e.relief[t]).nocmp = (d.relief[t]).nocmp := by
  have relief : (failCounted d t).relief = d.relief := by rw [failCounted, Dev.raise_relief, Dev.count32_relief]
  have told := Dev.report_reported ((failCounted d t).modRelief t fun r => r.modPair dac fun x => { x with phase := 0 }) (reliefSource t dac)
  have tile : (takeoverFreed (failCounted d t) t dac).relief[t] = (d.relief[t]).modPair dac fun x => { x with phase := 0 } := by
    rw [takeoverFreed, reported_relief told, Dev.modRelief_tile, relief]
  have event : Set (failCounted d t) (Reg.TILE_RELIEF_EVT t.val) 0 := set_raise _ (by decide)
  have counts : Counted d (failCounted d t) (Reg.TILE_RELIEF_FAIL t.val) 31 0 := by
    refine (counted_count32 _).of_rd_eq (Dev.rd_raise_ne _ _ ?_)
    simp only [Reg.TILE_RELIEF_FAIL, Reg.TILE_RELIEF_EVT]
    omega
  refine ⟨by rw [tile, ReliefTile.pair_modPair], ?_, ?_, by rw [tile, ReliefTile.nocmp_modPair]⟩
  · refine counts.of_rd_eq ((rd_report _ _ _ ?_).trans (Dev.rd_modRelief ..))
    simp only [Reg.TILE_RELIEF_FAIL]
    omega
  · have kept : Set ((failCounted d t).modRelief t fun r => r.modPair dac fun x => { x with phase := 0 }) (Reg.TILE_RELIEF_EVT t.val) 0 :=
      event.of_rd_eq (Dev.rd_modRelief ..)
    refine kept.report ?_ _
    simp only [Reg.TILE_RELIEF_EVT]
    omega

/-- A passed comparison commits the handover, and the pair's window is closed no longer. -/
theorem judged_commits (d : Dev) (t : Fin 4) (dac c : Bool) (ratio arg : Nat) :
    let e := (judged (metricShown d t dac c ratio) t dac c true).commit byFirmware (.relief t dac) [] arg
    ((e.relief[t]).pair dac).closed = false ∧ (e.relief[t]).nocmp = !c ∧
      ∃ k, e.cad.changes = d.cad.changes ++ [k] ∧ k.key = .relief t dac ∧ k.arg = arg ∧ k.land = d.nextLanding := by
  have cad : (judged (metricShown d t dac c ratio) t dac c true).cad = d.cad := metricShown_cad d t dac c ratio
  refine ⟨judged_open _ t dac c true, ?_, _, congrArg (fun x : Cadence => x.changes ++ _) cad, rfl, rfl,
    congrArg (fun x : Cadence => x.tickIdx + 1 + b2n x.frozen) cad⟩
  exact (congrArg ReliefTile.nocmp (judged_tile (metricShown d t dac c ratio) t dac c true)).trans rfl

end

theorem reliefRotation : ReliefRotation := by
  intro s t dac x handsOver
  refine ⟨?slot, ?window, ?passes, ?blind, ?fails, ?pauses⟩
  case slot =>
    intro running rotates started adc dac' k
    have row : Leads s (.reliefSlotStart t) (s.dev.slotStart t) := leads_of_onCommit (f := fun d => d.slotStart t) rfl
    rw [slotStart_next running rotates started adc dac'] at row
    have tile := Dev.modRelief_tile (d := s.dev) t fun r =>
      { r with slot := k, started := true, adc := slotBegins s.dev t k false r.adc, dac := slotBegins s.dev t k true r.dac }
    refine ⟨_, row, by rw [tile], fun serves untested runs idle free => ?_, rfl, fun u other => Dev.modRelief_tile_ne _ other⟩
    have returned : x.failedReturn = false := by cases dac <;> assumption
    have begins := slotBegins_free (d := s.dev) (t := t) (dac := dac) (k := k) serves untested runs idle free returned
    rw [tile]
    cases dac <;> exact begins
  case window =>
    intro running opened
    have row : Leads s (.reliefWindowClose t dac) (s.dev.windowClose t dac) := leads_of_onCommit (f := fun d => d.windowClose t dac) rfl
    rwa [windowClose_open running opened] at row
  case passes =>
    intro running closed some ratio within
    have row : Leads s (.reliefCompareDone t dac ratio true) (s.dev.compareDone t dac ratio true) :=
      leads_of_onCommit (f := fun d => d.compareDone t dac ratio true) rfl
    have compared : compares x true = true := by rw [compares, decide_eq_true some]; rfl
    rw [compareDone_eq ratio true running closed, compared] at row
    dsimp only at row
    rw [metricShown_limit, decide_eq_true within] at row
    obtain ⟨judged, nocmp, commits⟩ := judged_commits s.dev t dac true ratio (if x.phase = 1 then 1 else 0)
    have small : min ratio 255 = ratio := by
      have field := Word.get_lt (s.dev.rd (Reg.TILE_RELIEF_CFG t.val)) (hi := 7) (lo := 0)
      omega
    refine ⟨_, row, ⟨judged, commits⟩, nocmp, ?_, sameRegs_fset s.dev _ _ _ (by simp)⟩
    rw [if_pos (by decide), Dev.rd_commit, rd_judged]
    exact (metricShown_shows s.dev t dac ratio).trans small
  case blind =>
    intro running closed ratio qualified blind
    have row : Leads s (.reliefCompareDone t dac ratio qualified) (s.dev.compareDone t dac ratio qualified) :=
      leads_of_onCommit (f := fun d => d.compareDone t dac ratio qualified) rfl
    have compared : compares x qualified = false := by
      obtain unqualified | empty := blind
      · rw [compares, unqualified]
        rfl
      · rw [compares, empty]
        exact Bool.and_false _
    rw [compareDone_eq ratio qualified running closed, compared] at row
    obtain ⟨judged, nocmp, commits⟩ := judged_commits s.dev t dac false ratio (if x.phase = 1 then 1 else 0)
    exact ⟨_, row, ⟨judged, commits⟩, nocmp, rfl⟩
  case fails =>
    intro running closed takes some ratio beyond
    have row : Leads s (.reliefCompareDone t dac ratio true) (s.dev.compareDone t dac ratio true) :=
      leads_of_onCommit (f := fun d => d.compareDone t dac ratio true) rfl
    have compared : compares x true = true := by rw [compares, decide_eq_true some]; rfl
    rw [compareDone_eq ratio true running closed, compared] at row
    dsimp only at row
    rw [metricShown_limit, decide_eq_false (Nat.not_le.mpr beyond), if_neg (by decide : ¬ (!true || false) = true), if_pos takes, show (!true || false) = false from rfl] at row
    have ends := takeoverFreed_spec (judged (metricShown s.dev t dac true ratio) t dac true false) t dac
    obtain ⟨phase, counts, event, nocmp⟩ := ends
    refine ⟨_, row, phase, ?_, event, nocmp.trans ?_⟩
    · rw [Counted] at counts
      refine counts.trans ?_
      exact congrArg (fun w : Word => min (w.get 31 0 + 1) (2 ^ (31 + 1 - 0) - 1)) (metricShown_fails s.dev t dac true ratio)
    · rw [judged_tile, metricShown_relief]
      rfl
  case pauses =>
    intro still ratio q
    refine ⟨?_, ?_, ?_⟩
    · have row : Leads s (.reliefSlotStart t) (s.dev.slotStart t) := leads_of_onCommit (f := fun d => d.slotStart t) rfl
      rwa [show s.dev.slotStart t = s.dev from if_pos (by rw [still]; rfl)] at row
    · have row : Leads s (.reliefWindowClose t dac) (s.dev.windowClose t dac) := leads_of_onCommit (f := fun d => d.windowClose t dac) rfl
      rwa [show s.dev.windowClose t dac = s.dev from if_pos (by rw [still]; rfl)] at row
    · have row : Leads s (.reliefCompareDone t dac ratio q) (s.dev.compareDone t dac ratio q) :=
        leads_of_onCommit (f := fun d => d.compareDone t dac ratio q) rfl
      rwa [show s.dev.compareDone t dac ratio q = s.dev from if_pos (by rw [still]; exact Bool.or_true _)] at row

/-! ### Calibration of a native pair (R108, R112) -/

section

variable {d : Dev} {t : Fin 4} {dac : Bool}

/-- New trims of a converter pair stand in its registers, from the free values. -/
def trimsNew (d : Dev) (t : Fin 4) (dac : Bool) (k : Nat) : Dev :=
  { d.putTrims t dac k (Config.freeWord d.freeCtr, Config.freeWord (d.freeCtr + 1)) with freeCtr := d.freeCtr + 2 }

/-- The quality that a calibration has reached is shown. -/
def qualityNew (d : Dev) (t : Fin 4) (dac : Bool) (k : Nat) : Dev :=
  { (d.fset (Reg.CAL_CONVQ (16 * t.val + k)) (if dac then 23 else 31) (if dac then 16 else 24) (Config.freeNat d.freeCtr % 256)) with
    freeCtr := d.freeCtr + 1 }

/-- The registers of a calibration that ends. -/
def calRegs (d : Dev) (t : Fin 4) (dac fin writes : Bool) (k : Nat) : Dev :=
  let d := if writes then trimsNew d t dac k else d
  let d := if fin then d else d.raise (Reg.TILE_RELIEF_EVT t) 1
  if writes ∧ k < 16 then qualityNew d t dac k else d

/-- The relief converters of a tile once a native pair is back from its calibration. -/
def calReturned (r : ReliefTile) (dac fin : Bool) : ReliefTile :=
  let r := r.modPair dac fun x => { x with
    calibrating := false, closed := false, phase := if x.phase = 2 then 3 else x.phase, inMode := false, whole := 0, abandoned := !fin }
  { r with calAbandoned := r.adc.abandoned || r.dac.abandoned }

theorem reliefCalEnd_eq (fin : Bool) (running : d.cad.running = true) (calibrates : (d.relief[t].pair dac).calibrating = true) :
    d.reliefCalEnd t dac fin =
      (calRegs d t dac fin (fin && !d.relief[t].stops && d.vrefGood) (d.relief[t].pair dac).path).modRelief t fun r => calReturned r dac fin :=
  if_neg (by rw [calibrates, running]; decide)

theorem calRegs_relief (d : Dev) (t : Fin 4) (dac fin writes : Bool) (k : Nat) : (calRegs d t dac fin writes k).relief = d.relief := by
  have trims : (if writes then trimsNew d t dac k else d).relief = d.relief := by split <;> rfl
  have event (e : Dev) : (if fin then e else e.raise (Reg.TILE_RELIEF_EVT t) 1).relief = e.relief := by
    split
    · rfl
    · exact Dev.raise_relief ..
  have quality (e : Dev) : (if writes ∧ k < 16 then qualityNew e t dac k else e).relief = e.relief := by split <;> rfl
  exact (quality _).trans ((event _).trans trims)

/-- A calibration that is given up sets its event and writes nothing (R112). -/
theorem calRegs_abandoned (d : Dev) (t : Fin 4) (dac : Bool) (k : Nat) :
    calRegs d t dac false false k = d.raise (Reg.TILE_RELIEF_EVT t) 1 :=
  if_neg (c := false = true ∧ k < 16) (t := qualityNew (d.raise (Reg.TILE_RELIEF_EVT t) 1) t dac k) fun both => Bool.false_ne_true both.1

theorem calRegs_withheld (d : Dev) (t : Fin 4) (dac : Bool) (k : Nat) : calRegs d t dac true false k = d :=
  if_neg (c := false = true ∧ k < 16) (t := qualityNew d t dac k) fun both => Bool.false_ne_true both.1

/-- A calibration that has finished writes the trims of its pair and their quality alone. -/
theorem sameRegs_calRegs (d : Dev) (t : Fin 4) (dac writes : Bool) (k : Nat) :
    SameRegsBut [Reg.TILE_CONV_TRIM_A t.val (trimIndex dac k), Reg.TILE_CONV_TRIM_B t.val (trimIndex dac k),
      Reg.CAL_CONVQ (16 * t.val + k)] d (calRegs d t dac true writes k) := by
  have trims : SameRegsBut [Reg.TILE_CONV_TRIM_A t.val (trimIndex dac k), Reg.TILE_CONV_TRIM_B t.val (trimIndex dac k),
      Reg.CAL_CONVQ (16 * t.val + k)] d (trimsNew d t dac k) :=
    ((sameRegs_wr d (a := Reg.TILE_CONV_TRIM_A t.val (trimIndex dac k)) _ (by simp)).trans
      (sameRegs_wr _ (a := Reg.TILE_CONV_TRIM_B t.val (trimIndex dac k)) _ (by simp))).trans (.of_regs rfl)
  have quality (e : Dev) : SameRegsBut [Reg.TILE_CONV_TRIM_A t.val (trimIndex dac k), Reg.TILE_CONV_TRIM_B t.val (trimIndex dac k),
      Reg.CAL_CONVQ (16 * t.val + k)] e (qualityNew e t dac k) :=
    (sameRegs_fset e (a := Reg.CAL_CONVQ (16 * t.val + k)) _ _ _ (by simp)).trans (.of_regs rfl)
  cases writes with
  | false =>
    rw [calRegs_withheld]
    exact .of_regs rfl
  | true =>
    refine trims.trans ?_
    by_cases channel : k < 16
    · rw [show calRegs d t dac true true k = qualityNew (trimsNew d t dac k) t dac k from if_pos ⟨rfl, channel⟩]
      exact quality _
    · rw [show calRegs d t dac true true k = trimsNew d t dac k from if_neg fun both => channel both.2]
      exact .of_regs rfl

theorem calReturned_pair (r : ReliefTile) (dac fin : Bool) : ((calReturned r dac fin).pair dac).calibrating = false ∧
    ((calReturned r dac fin).pair dac).phase = (if (r.pair dac).phase = 2 then 3 else (r.pair dac).phase) ∧
    ((calReturned r dac fin).pair dac).abandoned = !fin ∧
    (calReturned r dac fin).calAbandoned = (!fin || (r.pair !dac).abandoned) := by
  cases dac
  · exact ⟨rfl, rfl, rfl, rfl⟩
  · exact ⟨rfl, rfl, rfl, Bool.or_comm _ _⟩

end

theorem reliefCalibrationEnds : ReliefCalibrationEnds := by
  intro s t dac fin x running calibrates
  have row : Leads s (.reliefCalEnd t dac fin) (s.dev.reliefCalEnd t dac fin) := leads_of_onCommit (f := fun d => d.reliefCalEnd t dac fin) rfl
  rw [reliefCalEnd_eq fin running calibrates] at row
  have relief := calRegs_relief s.dev t dac fin (fin && !s.dev.relief[t].stops && s.dev.vrefGood) x.path
  have tile := Dev.modRelief_tile (d := calRegs s.dev t dac fin (fin && !s.dev.relief[t].stops && s.dev.vrefGood) x.path) t
    fun r => calReturned r dac fin
  obtain ⟨calibrating, phase, abandoned, calAbandoned⟩ := calReturned_pair s.dev.relief[t] dac fin
  rw [relief] at tile
  refine ⟨_, row, by rw [tile, calibrating], by rw [tile, phase], by rw [tile, abandoned], by rw [tile, calAbandoned], ?_, ?_⟩
  · rintro rfl
    rw [Bool.false_and, Bool.false_and, calRegs_abandoned]
    have event : Set (s.dev.raise (Reg.TILE_RELIEF_EVT t.val) 1) (Reg.TILE_RELIEF_EVT t.val) 1 := set_raise _ (by decide)
    exact ⟨event.of_regs rfl, (sameRegs_raise s.dev 1 (by simp)).trans (.of_regs rfl)⟩
  · rintro rfl
    refine ⟨(sameRegs_calRegs s.dev t dac _ x.path).trans (.of_regs rfl), fun bars => ?_⟩
    have withheld : (true && !s.dev.relief[t].stops && s.dev.vrefGood) = false := by
      obtain stops | bad := bars
      · rw [stops]
        rfl
      · rw [bad, Bool.and_false]
    rw [withheld, calRegs_withheld]
    rfl

/-- Settles O23: the rotation's rows by what each makes of the tile's relief converters, and a calibration's end by the registers it
may write. -/
theorem relief : Obligations.Relief := ⟨reliefRotation, reliefCalibrationEnds⟩

end Sys2Proof.Cert

/-! PROOFS. Scheduled actions (O25): a capture that a slot opens while no ticks run is followed by everything that no tick holds back,
and what a refused mode takes back there may be the register that shows the firing. -/

namespace Sys2Proof.Cert

open Sys2Proof.Machine

/-- A change of a path's mode whose command is refused where it lands, with the register FIRED among its words. -/
def strayMode : Change :=
  { key := .pathMode 0, words := [(Reg.TIME_SCHED_FIRED, 0, 0xFFFFFFFF#32)], land := 0, atFrame := false, stamp := 0, rank := 1,
    cmd := some 5, arg := 1, latch := none }

/-- The RADIO_SET_STATE that committed it. -/
def strayCmd : Cmd :=
  { id := 5, opcode := 0x300, tag := 0, spi := false, auth := false, finalOnly := true, timing := 0, execTime := 0, params := [],
    stage := .committed, total := 1, lost := 0, late := false, refused := false, results := [], time := 0, aux := [], silent := false,
    verdict := none }

/-- Slot 31 is armed with CAPTURE and due; no ticks run, and the change waits. -/
def strayCapture : State :=
  let d := State.reset.dev.wr (Reg.TIME_SCHED_CTRL 31) 0x80020000
  { State.reset with dev := { d with
      cad := { d.cad with changes := [strayMode] }
      drunas := { d.drunas with nextId := 6, cmds := [strayCmd] } } }

/-- FIRED as a next state shows it. -/
def firedAfter : Out → Word
  | .next t => t.dev.rd Reg.TIME_SCHED_FIRED
  | _ => 0

theorem strayCapture_fires : firedAfter (exec (.schedCapture 31) strayCapture) = 0 := by decide +kernel

theorem strayCapture_commits : SlotCommits strayCapture 31 strayCapture.dev strayCapture.dev.nextLanding :=
  .inr ⟨by decide, ⟨by decide, .inl ⟨by decide, rfl⟩⟩, rfl⟩

/-- Refutes O25: a change that waits is arbitrary in its words, and while no ticks run the refusal of its command at once writes
them back to what is in force, be it the FIRED bit that the capture's slot has just set. -/
theorem not_scheduledActions : ¬ Obligations.ScheduledActions := by
  rintro ⟨_, bound⟩
  obtain ⟨_, _, stopped⟩ := bound strayCapture 31 _ _ strayCapture_commits
  obtain ⟨t, leads, _, fired, _⟩ := stopped (by decide) (by decide)
  have shows : t.dev.rd Reg.TIME_SCHED_FIRED = 0 := (congrArg firedAfter leads).symm.trans strayCapture_fires
  rw [Set, shows] at fired
  exact absurd fired (by decide)

end Sys2Proof.Cert

/-! PROOFS. The tick (O10): a change that lands with the tick may carry the word of the numerology under another setting's name. The
refuting tick is evaluated stage by stage, past the stages that have nothing to do in it. -/

namespace Sys2Proof.Cert

open Sys2Proof.Machine

/-! ### Stages with nothing to do -/

/-- Nothing is owed to a direction of a path (R205). -/
def CalDir.settled (c : CalDir) : Prop := c.owedGain = 0 ∧ c.owedPhase = 0 ∧ c.owedDelay = 0 ∧ c.owedTerr = 0

theorem stepOwed_of_settled {d : Dev} {p : Fin 64} {tx : Bool} (h : CalDir.settled (d.cal.path[p].dir tx)) : d.stepOwed p tx = d := if_pos h

theorem stepAllOwed_of_settled {d : Dev} (h : ∀ (p : Fin 64) (tx : Bool), CalDir.settled (d.cal.path[p].dir tx)) : d.stepAllOwed = d := by
  have keeps (ps : List (Fin 64)) : ps.foldl (fun d p => (d.stepOwed p false).stepOwed p true) d = d := by
    induction ps with
    | nil => rfl
    | cons p ps ih => rw [List.foldl_cons, stepOwed_of_settled (h p false), stepOwed_of_settled (h p true), ih]
  exact keeps _

/-- A core's test at a tick: it takes the core over when it begins and returns it when it has ended (Table 15.6). -/
def coreTestStep (x : Dev × Mem) (c : Fin 16) : Dev × Mem :=
  if x.1.coreTest c.val then
    if x.1.chisel.cores[c].testing || x.1.chisel.cores[c].retired || !x.1.coreIdle c.val then x
    else
      match vacateCore x.1 x.2 c with
      | some y => y
      | none => (x.1.drunas.cmds.foldl (fun d k => if k.aux == [10, c.val] then d.endCmd (some k.id) 0x11 [] else d) x.1, x.2)
  else if x.1.chisel.cores[c].testing && x.1.coreIdle c.val then returnKernels x.1 x.2 c
  else x

theorem coreTestsTick_eq (d : Dev) (m : Mem) : coreTestsTick d m = (List.finRange 16).foldl coreTestStep (d, m) := rfl

theorem coreTestsTick_of_idle {d : Dev} (m : Mem) (quiet : d.drunas.cmds = []) (idle : ∀ c : Fin 16, d.chisel.cores[c].testing = false) :
    coreTestsTick d m = (d, m) := by
  have stays (c : Fin 16) : coreTestStep (d, m) c = (d, m) := by
    have untested : d.coreTest c.val = false := by rw [Dev.coreTest, quiet]; rfl
    refine (if_neg (by rw [untested]; decide)).trans (if_neg ?_)
    rw [idle c, Bool.false_and]
    decide
  have keeps (cs : List (Fin 16)) : cs.foldl coreTestStep (d, m) = (d, m) := by
    induction cs with
    | nil => rfl
    | cons c cs ih => rw [List.foldl_cons, stays, ih]
  exact (coreTestsTick_eq d m).trans (keeps _)

section

variable {d : Dev}

theorem trackTick_frame (d : Dev) : ∃ w, d.trackTick = { d with dpd := { d.dpd with wantTrack := w } } := by
  unfold Dev.trackTick
  split
  · exact ⟨d.dpd.wantTrack, rfl⟩
  · exact ⟨_, rfl⟩

theorem snapTick_frame (d : Dev) : ∃ c, d.snapTick = { d with cal := c } := by
  unfold Dev.snapTick
  split
  · split
    · exact ⟨_, rfl⟩
    · exact ⟨d.cal, rfl⟩
  · exact ⟨d.cal, rfl⟩

theorem biasTouched_frame (d : Dev) :
    ∃ o p, d.biasTouched = { d with bias := { d.bias with touchedOut := o, touchedPath := p } } := ⟨_, _, rfl⟩

/-- Where no path has been on air no bias sensor measures. -/
theorem senseAll_frame (silent : d.bias.txAt = 0) : ∃ t, d.senseAll = { d with bias := { d.bias with txAt := t } } := by
  have keeps (ps : List (Fin 64)) :
      ps.foldl (fun d p => if d.bias.txAt.testBit p.val && d.paths[p].inTx then d.senseTick p else d) d = d := by
    induction ps with
    | nil => rfl
    | cons p ps ih => rw [List.foldl_cons, silent, Nat.zero_testBit, Bool.false_and, if_neg Bool.false_ne_true, ih]
  refine ⟨(List.finRange 64).foldl (fun n p => if d.paths[p].inTx then n + 2 ^ p.val else n) 0, ?_⟩
  unfold Dev.senseAll
  rw [keeps]

theorem askUpdates_of_none (rests : ∀ p : Fin 64, d.dpd.path[p].upd = none) : d.askUpdates = d := by
  have stays (p : Fin 64) : d.askUpdate p = d := by
    refine if_pos ?_
    rw [rests p]
    rfl
  have keeps (ps : List (Fin 64)) : ps.foldl Dev.askUpdate d = d := by
    induction ps with
    | nil => rfl
    | cons p ps ih => rw [List.foldl_cons, stays, ih]
  exact keeps _

/-- Without kernels, and with a load that waits, the cores have nothing to do at a tick. -/
theorem chiselTick_of_empty (m : Mem) (frame : Bool) (stays : d.chisel.opTgt = none) (empty : d.chisel.kernels = [])
    (waits : d.chisel.waitLoads = [(0, 0)]) : chiselTick d m frame = (d, m) := by
  simp only [chiselTick, stays, empty, List.foldl_nil, waits]
  rfl

theorem dpdRests_of_none (timing : Nat) (quiet : d.drunas.cmds = []) : d.dpdRests timing = d := by
  rw [Dev.dpdRests, quiet]
  rfl

/-! ### The messages of the symbol -/

/-- From one device to the next the datapath and the commands stay, and ticks run as they did. -/
def SameSymbols (d e : Dev) : Prop := e.sig = d.sig ∧ e.drunas = d.drunas ∧ e.cad.running = d.cad.running

theorem SameSymbols.trans {d e f : Dev} (h : SameSymbols d e) (k : SameSymbols e f) : SameSymbols d f :=
  ⟨k.1.trans h.1, k.2.1.trans h.2.1, k.2.2.trans h.2.2⟩

theorem SameSymbols.foldl {α : Type} {g : Dev → α → Dev} (works : ∀ d a, SameSymbols d (g d a)) (l : List α) (d : Dev) :
    SameSymbols d (l.foldl g d) := by
  induction l generalizing d with
  | nil => exact ⟨rfl, rfl, rfl⟩
  | cons a l ih => exact (works d a).trans (ih _)

theorem SameSymbols.ite {c : Prop} [Decidable c] {d e : Dev} (h : SameSymbols d e) : SameSymbols d (if c then e else d) := by
  split
  · exact h
  · exact ⟨rfl, rfl, rfl⟩

theorem sameSymbols_satAdd (d : Dev) (a hi lo : Nat) : SameSymbols d (d.satAdd a hi lo) := ⟨rfl, rfl, rfl⟩

theorem sameSymbols_fset (d : Dev) (a hi lo n : Nat) : SameSymbols d (d.fset a hi lo n) := ⟨rfl, rfl, rfl⟩

theorem sameSymbols_beam (d : Dev) (b : Beam) : SameSymbols d { d with beam := b } := ⟨rfl, rfl, rfl⟩

theorem sameSymbols_soundTick (d : Dev) : SameSymbols d d.soundTick := by
  unfold Dev.soundTick
  extract_lets
  split
  · exact sameSymbols_beam _ _
  · exact (sameSymbols_fset d _ _ _ _).trans (sameSymbols_beam _ _)

theorem sameSymbols_satTick (d : Dev) : SameSymbols d d.satTick := by
  unfold Dev.satTick
  extract_lets s rx tx d₁ d₂ ul d₃
  have receives : SameSymbols d d₁ := .foldl (fun d p => sameSymbols_satAdd d _ 15 0) rx d
  clear_value d₁
  have transmits : SameSymbols d₁ d₂ :=
    .foldl (fun d p => (sameSymbols_satAdd d _ 31 16).trans (.ite (sameSymbols_satAdd _ _ 31 0))) tx d₁
  clear_value d₂
  have beams : SameSymbols d₂ d₃ := .ite (sameSymbols_satAdd d₂ _ 15 0)
  clear_value d₃
  exact ((receives.trans transmits).trans beams).trans (.ite (sameSymbols_satAdd d₃ _ 31 0))

theorem sameSymbols_spendAccepted (d : Dev) : SameSymbols d d.spendAccepted := ⟨rfl, rfl, rfl⟩

/-- The length of the symbol that begins. -/
def lengthSet (d : Dev) : Dev := { d with cad := { d.cad with len := d.symCycles } }

theorem sameSymbols_len (d : Dev) (n : Nat) : SameSymbols d { d with cad := { d.cad with len := n } } := ⟨rfl, rfl, rfl⟩

theorem tickDone_eq (d : Dev) : d.tickDone = lengthSet ((d.soundTick.spendAccepted.satTick).dpdRests 2) := rfl

theorem sameSymbols_tickDone (quiet : d.drunas.cmds = []) : SameSymbols d d.tickDone := by
  have ends : SameSymbols d (d.soundTick.spendAccepted.satTick) :=
    ((sameSymbols_soundTick d).trans (sameSymbols_spendAccepted _)).trans (sameSymbols_satTick _)
  rw [tickDone_eq, dpdRests_of_none 2 (by rw [ends.2.1, quiet])]
  exact ends.trans (sameSymbols_len _ _)

/-! ### The tick with nothing to do beyond its symbol -/

/-- The device of a tick once the symbol is open and the probe routes have been chosen. -/
def tickRoutes (d : Dev) (m : Mem) (nom : Nat) : Dev :=
  let p := d.tickShown nom
  let n := d.cad.tickIdx + 1
  let e := p.tickBlended m n nom (d.tickClosed.tickResid nom)
  (List.finRange 4).foldl (fun d t => d.routeTick (landAll p m (p.tickLands n nom)).1 t) e.markCarried

theorem calTick_eq (d after : Dev) :
    d.calTick after = ((List.finRange 4).foldl (fun d t => d.routeTick after t) d).stepAllOwed.trackTick := rfl

theorem tickUnits_noGap (d after : Dev) :
    d.tickUnits after false = ((d.markCarried.calTick after).snapTick).biasTouched.senseAll := by
  simp only [Dev.tickUnits, Bool.false_eq_true, if_false]

/-- Nothing of what the later stages of a tick look at is at work. -/
structure Restful (d : Dev) : Prop where
  owed : ∀ (p : Fin 64) (tx : Bool), CalDir.settled (d.cal.path[p].dir tx)
  silent : d.bias.txAt = 0
  updates : ∀ p : Fin 64, d.dpd.path[p].upd = none
  stays : d.chisel.opTgt = none
  empty : d.chisel.kernels = []
  waits : d.chisel.waitLoads = [(0, 0)]
  tests : ∀ c : Fin 16, d.chisel.cores[c].testing = false
  quiet : d.drunas.cmds = []

theorem tickReady_of_restful {m : Mem} {nom : Nat} (closes : d.closeSymbol.cad.gapTo.isSome = false) (rests : Restful (tickRoutes d m nom)) :
    d.tickReady m nom = (tickRoutes d m nom).trackTick.snapTick.biasTouched.senseAll := by
  have owes := stepAllOwed_of_settled rests.owed
  unfold tickRoutes at owes ⊢
  unfold Dev.tickReady
  dsimp only at owes ⊢
  rw [closes, tickUnits_noGap, calTick_eq, owes]

/-- What the units after the routes leave of the device. -/
theorem units_frame (silent : d.bias.txAt = 0) : ∃ w c b, d.trackTick.snapTick.biasTouched.senseAll =
    { d with dpd := { d.dpd with wantTrack := w }, cal := c, bias := b } := by
  obtain ⟨w, tracks⟩ := trackTick_frame d
  obtain ⟨c, snaps⟩ := snapTick_frame d.trackTick
  obtain ⟨o, p, touches⟩ := biasTouched_frame d.trackTick.snapTick
  have still : d.trackTick.snapTick.biasTouched.bias.txAt = 0 := by
    rw [touches, snaps, tracks]
    exact silent
  obtain ⟨t, senses⟩ := senseAll_frame still
  rw [senses, touches, snaps, tracks]
  exact ⟨w, c, _, rfl⟩

theorem cores_rest (m : Mem) (frame : Bool) (rests : Restful d) :
    ∃ e, chiselTick d.trackTick.snapTick.biasTouched.senseAll.askUpdates m frame = (e, m) ∧ coreTestsTick e m = (e, m) ∧
      SameSymbols d e.tickDone := by
  obtain ⟨w, c, b, units⟩ := units_frame rests.silent
  generalize d.trackTick.snapTick.biasTouched.senseAll = u at *
  subst units
  have asks := askUpdates_of_none (d := { d with dpd := { d.dpd with wantTrack := w }, cal := c, bias := b }) rests.updates
  rw [asks]
  have same : SameSymbols d { d with dpd := { d.dpd with wantTrack := w }, cal := c, bias := b } := ⟨rfl, rfl, rfl⟩
  exact ⟨_, chiselTick_of_empty m frame rests.stays rests.empty rests.waits, coreTestsTick_of_idle m rests.quiet rests.tests,
    same.trans (sameSymbols_tickDone rests.quiet)⟩

theorem tickCores_eq (d : Dev) (m : Mem) (nom : Nat) : tickCores d m nom =
    coreTestsTick (chiselTick (d.tickReady m nom).askUpdates m (isFrame nom)).1 (chiselTick (d.tickReady m nom).askUpdates m (isFrame nom)).2 :=
  rfl

/-- The symbol of such a tick is the one that its blended changes open. -/
theorem tickAt_symbols {m : Mem} {nom : Nat} (closes : d.closeSymbol.cad.gapTo.isSome = false) (rests : Restful (tickRoutes d m nom)) :
    SameSymbols (tickRoutes d m nom) (tickAt d m nom).1 := by
  obtain ⟨e, cores, tests, same⟩ := cores_rest m (isFrame nom) rests
  have turns : tickCores d m nom = (e, m) := by
    rw [tickCores_eq, tickReady_of_restful closes rests, cores]
    exact tests
  have ends := tickAt_eq d m nom
  rw [turns] at ends
  rw [ends]
  exact same

end

/-! ### The tick -/

theorem toNextEdge_frozen {d : Dev} (m : Mem) (running : d.cad.running = true) (mid : d.cad.midDone = true) (frozen : d.cad.frozen = true) :
    toNextEdge d m = (d.passCycles d.toEdge, m) := by
  simp only [toNextEdge, mid, frozen, running, if_true, Bool.not_true, Bool.false_eq_true, if_false]

/-- With its cutoff past and no time step ripe a tick takes place at the next nominal time. -/
theorem tick_frozen {d : Dev} (m : Mem) (running : d.cad.running = true) (mid : d.cad.midDone = true) (frozen : d.cad.frozen = true)
    (unripe : (d.passCycles d.toEdge).stepRipe = false) :
    tick d m = tickAt (d.passCycles d.toEdge) m (d.passCycles d.toEdge).nextNom := by
  have runs : (d.passCycles d.toEdge).cad.running = true := running
  simp only [tick, toNextEdge_frozen m running mid frozen, running, runs, unripe, Bool.not_true, Bool.false_eq_true, if_false, Bool.false_and]

/-- A bank switch that carries MU = 1 among its words. -/
def strayBank : Change :=
  { key := .beamBank false, words := [(Reg.CADENCE_CFG, 1, 3)], land := 0, atFrame := false, stamp := 0, rank := 1, cmd := none, arg := 0,
    latch := none }

/-- A message for the symbol of the next tick, in the numerology in force. -/
def strayMessage : Accepted := { flow := 1, addr := addrOfNom 0 State.reset.dev.nextNom, words := [], bound := 0 }

/-- Ticks run, the cutoff of the next one has passed, the bank switch lands there, and the cluster waits to load. -/
def strayTick : State :=
  let d := State.reset.dev
  { State.reset with dev := { d with
      cad := { d.cad with running := true, midDone := true, frozen := true, changes := [strayBank] }
      link := { d.link with accepted := [strayMessage] }
      chisel := { d.chisel with waitLoads := [(0, 0)] } } }

/-- The device at the edge of the tick. -/
def strayEdge : Dev := strayTick.dev.passCycles strayTick.dev.toEdge

/-- The device of that tick when its cores have their turn. -/
def strayRoutes : Dev := tickRoutes strayEdge strayTick.mem strayEdge.nextNom

/-- What the model evaluates of it, in one computation. -/
theorem strayRoutes_values : (∀ (p : Fin 64) (tx : Bool), CalDir.settled (strayRoutes.cal.path[p].dir tx)) ∧ strayRoutes.bias.txAt = 0 ∧
    (∀ p : Fin 64, strayRoutes.dpd.path[p].upd = none) ∧ strayRoutes.chisel.opTgt = none ∧ strayRoutes.chisel.kernels = [] ∧
    strayRoutes.chisel.waitLoads = [(0, 0)] ∧ (∀ c : Fin 16, strayRoutes.chisel.cores[c].testing = false) ∧
    strayRoutes.drunas.cmds = [] ∧ strayRoutes.sig.cur.dl = [] ∧ strayRoutes.cad.running = true := by
  unfold CalDir.settled
  decide +kernel

theorem strayRoutes_restful : Restful strayRoutes := by
  obtain ⟨owed, silent, updates, stays, empty, waits, tests, quiet, -⟩ := strayRoutes_values
  exact ⟨owed, silent, updates, stays, empty, waits, tests, quiet⟩

theorem strayEdge_closes : strayEdge.closeSymbol.cad.gapTo.isSome = false := by decide +kernel

theorem strayTick_symbols :
    SameSymbols strayRoutes (tick strayTick.dev strayTick.mem).1 := by
  rw [tick_frozen strayTick.mem rfl rfl rfl (by decide)]
  exact tickAt_symbols strayEdge_closes strayRoutes_restful

/-- With no command open what follows an event leaves the device of ticks that run. -/
theorem exec_tick_dev {s t : State} (leads : exec .tick s = .next t) (quiet : (tick s.dev s.mem).1.drunas.cmds = [])
    (running : (tick s.dev s.mem).1.cad.running = true) : t.dev = (tick s.dev s.mem).1 := by
  have next : t.dev = (settled (tick s.dev s.mem)).1 := by
    cases leads
    rfl
  exact next.trans (congrArg Prod.fst (settled_running _ _ running quiet))

/-- Refutes O10: a pending change of another key may carry the word of CADENCE_CFG; it comes into force before the symbol opens,
whose accepted messages are then sought under the address of another numerology. -/
theorem not_tickBeginsTheSymbol : ¬ Obligations.TickBeginsTheSymbol := by
  rintro ⟨ticks, _⟩
  obtain ⟨t, leads, _, _, _, _, _, _, _, _, _, _, _, _, shows⟩ := ticks strayTick rfl rfl rfl rfl
  obtain ⟨_, carries⟩ := shows (by decide)
  have mem := carries strayMessage (by decide) (by decide) (by decide)
  obtain ⟨sig, drunas, running⟩ := strayTick_symbols
  obtain ⟨-, -, -, -, -, -, -, quiet, dl, runs⟩ := strayRoutes_values
  rw [exec_tick_dev leads (by rw [drunas, quiet]) (by rw [running, runs]), sig, dl] at mem
  exact absurd mem List.not_mem_nil

end Sys2Proof.Cert

/-! PROOFS. The bias die (O28): what forces every output (R368), and the rows of its link, rails, spans, limits, tests, trips and
PAOFF_N. -/

namespace Sys2Proof.Cert

open Sys2Proof.Machine

section

variable {d e : Dev} {n : Fin 96}

/-! ### Single bits of a field write -/

theorem bit_put_same (w : Word) {i : Nat} (n : Nat) (hi : i < 32) : (w.put i i n).bit i = decide (n % 2 = 1) := by
  have field := Word.get_put_same w n (le_refl i) hi
  have bit := Word.testBit_get (w.put i i n) i i 0
  rw [field, Nat.add_sub_cancel_left, pow_one] at bit
  simp only [Nat.testBit_zero, Nat.mod_mod, Nat.lt_one_iff, decide_true, Bool.true_and, Nat.add_zero] at bit
  exact bit.symm

/-! ### Outputs and their words -/

theorem modOut_out (n : Fin 96) (f : BiasOut → BiasOut) : (d.modOut n f).bias.out[n] = f d.bias.out[n] := by simp [Dev.modOut]

theorem modOut_out_ne {j : Fin 96} (f : BiasOut → BiasOut) (h : j ≠ n) : (d.modOut n f).bias.out[j] = d.bias.out[j] := by
  simp [Dev.modOut, Vector.getElem_set_ne, Fin.val_ne_of_ne h.symm]

theorem code_ne {j : Fin 96} (h : j ≠ n) : Reg.BIAS_OUT_CODE j.val ≠ Reg.BIAS_OUT_CODE n.val := by
  have := Fin.val_ne_of_ne h
  simp only [Reg.BIAS_OUT_CODE]
  omega

theorem inf_setInf_whole (d : Dev) (a : Nat) (w : Word) : (d.setInf a w wholeWord).inf a = w := by
  have whole : wholeWord = BitVec.allOnes 32 := by decide
  rw [Dev.inf_setInf_same, whole, BitVec.not_allOnes, BitVec.and_zero, BitVec.zero_or, BitVec.and_allOnes]

/-- The register of an output's codes follows what is in force, unless a later commit waits. -/
def codesShown (d : Dev) (n : Fin 96) : Dev :=
  if d.cad.changes.any fun c => c.key == .biasCode n then d else d.wr (Reg.BIAS_OUT_CODE n.val) (d.inf (Reg.BIAS_OUT_CODE n.val))

theorem setCodes_eq (d : Dev) (n : Fin 96) (w : Word) : d.setCodes n w = codesShown (d.setInf (Reg.BIAS_OUT_CODE n.val) w wholeWord) n := rfl

theorem codesShown_frame (d : Dev) (n : Fin 96) : ∃ m, codesShown d n = { d with regs := m } := by
  unfold codesShown
  split
  · exact ⟨d.regs, rfl⟩
  · exact ⟨_, rfl⟩

theorem rd_codesShown (d : Dev) (n : Fin 96) {a : Nat} (other : a ≠ Reg.BIAS_OUT_CODE n.val) : (codesShown d n).rd a = d.rd a := by
  unfold codesShown
  split
  · rfl
  · exact d.rd_wr_ne _ other

theorem setInf_frame (d : Dev) (a : Nat) (w m : Word) : ∃ i, d.setInf a w m = { d with inforce := i } := ⟨_, rfl⟩

theorem setCodes_frame (d : Dev) (n : Fin 96) (w : Word) : ∃ m i, d.setCodes n w = { d with regs := m, inforce := i } := by
  obtain ⟨i, sets⟩ := setInf_frame d (Reg.BIAS_OUT_CODE n.val) w wholeWord
  obtain ⟨m, shows⟩ := codesShown_frame (d.setInf (Reg.BIAS_OUT_CODE n.val) w wholeWord) n
  rw [setCodes_eq, shows, sets]
  exact ⟨m, i, rfl⟩

theorem inf_setCodes (d : Dev) (n : Fin 96) (w : Word) (a : Nat) :
    (d.setCodes n w).inf a = if a = Reg.BIAS_OUT_CODE n.val then w else d.inf a := by
  obtain ⟨m, shows⟩ := codesShown_frame (d.setInf (Reg.BIAS_OUT_CODE n.val) w wholeWord) n
  have same : (d.setCodes n w).inf a = (d.setInf (Reg.BIAS_OUT_CODE n.val) w wholeWord).inf a := by
    rw [setCodes_eq, shows]
    rfl
  rw [same]
  split
  next here => rw [here, inf_setInf_whole]
  next other => exact d.inf_setInf_ne _ _ other

theorem rd_setCodes (d : Dev) (n : Fin 96) (w : Word) {a : Nat} (other : a ≠ Reg.BIAS_OUT_CODE n.val) : (d.setCodes n w).rd a = d.rd a := by
  rw [setCodes_eq, rd_codesShown _ n other, Dev.rd_setInf]

theorem setCodes_bias (d : Dev) (n : Fin 96) (w : Word) : (d.setCodes n w).bias = d.bias := by
  obtain ⟨m, i, frame⟩ := setCodes_frame d n w
  rw [frame]

/-! ### What R368 leaves -/

/-- An output that waits for a code at its span's safe value. -/
def forcedOut (o : BiasOut) : BiasOut := { o with seq := 0, pendSpan := none, pendCode := none, wait := true, hold368 := true }

/-- One output forced, with its codes. -/
def forceOut (d : Dev) (n : Fin 96) : Dev := (d.modOut n forcedOut).setCodes n (safeWord (d.modOut n forcedOut).bias.out[n].span)

theorem force368_eq (d : Dev) : d.force368 = ((List.finRange 96).foldl forceOut d).fset Reg.BIAS_CFG 0 0 1 := rfl

/-- From one device to the next the outputs of a list are forced, and nothing else of the die has changed. -/
structure ForcedAll (ns : List (Fin 96)) (d e : Dev) : Prop where
  frame : ∃ m i o, e = { d with regs := m, inforce := i, bias := { d.bias with out := o } }
  out : ∀ j : Fin 96, e.bias.out[j] = if j ∈ ns then forcedOut d.bias.out[j] else d.bias.out[j]
  inf : ∀ j : Fin 96, j ∈ ns → e.inf (Reg.BIAS_OUT_CODE j.val) = safeWord d.bias.out[j].span
  codes : ∀ j : Fin 96, j ∉ ns → e.inf (Reg.BIAS_OUT_CODE j.val) = d.inf (Reg.BIAS_OUT_CODE j.val)
  rd : ∀ a, (∀ j : Fin 96, a ≠ Reg.BIAS_OUT_CODE j.val) → e.rd a = d.rd a

theorem forceOut_all (d : Dev) (n : Fin 96) : ForcedAll [n] d (forceOut d n) where
  frame := by
    obtain ⟨m, i, codes⟩ := setCodes_frame (d.modOut n forcedOut) n (safeWord (d.modOut n forcedOut).bias.out[n].span)
    exact ⟨m, i, _, codes⟩
  out j := by
    rw [forceOut, setCodes_bias]
    by_cases same : j = n
    · rw [same, if_pos (List.mem_singleton.mpr rfl), modOut_out]
    · rw [if_neg (by simpa using same), modOut_out_ne _ same]
  inf j mem := by
    obtain rfl := List.mem_singleton.mp mem
    rw [forceOut, inf_setCodes, if_pos rfl, modOut_out]
    rfl
  codes j out := by
    rw [forceOut, inf_setCodes, if_neg (code_ne (by simpa using out)), Dev.inf_modOut]
  rd a other := by rw [forceOut, rd_setCodes _ _ _ (other n), Dev.rd_modOut]

theorem ForcedAll.trans {f : Dev} {ns : List (Fin 96)} (h : ForcedAll [n] d e) (k : ForcedAll ns e f) : ForcedAll (n :: ns) d f where
  frame := by
    obtain ⟨m, i, o, rfl⟩ := h.frame
    obtain ⟨m', i', o', rfl⟩ := k.frame
    exact ⟨m', i', o', rfl⟩
  out j := by
    rw [k.out, h.out]
    by_cases later : j ∈ ns <;> by_cases now : j = n <;> simp [later, now, forcedOut]
  inf j mem := by
    by_cases later : j ∈ ns
    · rw [k.inf j later, h.out]
      split <;> rfl
    · obtain rfl : j = n := (List.mem_cons.mp mem).resolve_right later
      rw [k.codes j later, h.inf j (List.mem_singleton.mpr rfl)]
  codes j out := by
    obtain ⟨other, later⟩ := not_or.mp (mt List.mem_cons.mpr out)
    rw [k.codes j later, h.codes j (by simpa using other)]
  rd a other := (k.rd a other).trans (h.rd a other)

theorem foldl_forceOut (ns : List (Fin 96)) (d : Dev) : ForcedAll ns d (ns.foldl forceOut d) := by
  induction ns generalizing d with
  | nil => exact ⟨⟨d.regs, d.inforce, d.bias.out, rfl⟩, fun _ => rfl, fun _ mem => absurd mem List.not_mem_nil, fun _ _ => rfl, fun _ _ => rfl⟩
  | cons n ns ih => exact (forceOut_all d n).trans (ih _)

theorem force368_bias (d : Dev) : d.force368.bias = ((List.finRange 96).foldl forceOut d).bias := by rw [force368_eq, Dev.fset_bias]

theorem force368_inforce (d : Dev) : d.force368.inforce = ((List.finRange 96).foldl forceOut d).inforce := by
  rw [force368_eq, Dev.fset_inforce]

/-- What forces every output leaves the frame of the die's other state. -/
theorem force368_frame (d : Dev) : ∃ m i o, d.force368 = { d with regs := m, inforce := i, bias := { d.bias with out := o } } := by
  obtain ⟨m, i, o, frame⟩ := (foldl_forceOut (List.finRange 96) d).frame
  rw [force368_eq, frame]
  exact ⟨_, i, o, rfl⟩

theorem rd_force368 (d : Dev) {a : Nat} (low : a < 0x180104) (cfg : a ≠ Reg.BIAS_CFG) : d.force368.rd a = d.rd a := by
  rw [force368_eq, Dev.rd_fset_ne _ _ _ _ cfg]
  refine (foldl_forceOut _ d).rd a fun j => ?_
  simp only [Reg.BIAS_OUT_CODE]
  omega

theorem get_safeWord (g : Nat) : (safeWord g).get 27 16 = safeCode g ∧ (safeWord g).get 11 0 = safeCode g := by
  unfold safeWord safeCode
  split <;> decide

/-- A device that is forced, with a cause that covers every output, is what R368 leaves. -/
theorem forced368_of_cause {s : State} {d e : Dev} (spans : ∀ n : Fin 96, d.bias.out[n].span = (s.dev.bias.out[n]).span)
    (cause : d.bias.wdHold = true ∨ d.bias.railHold = true) (bias : e.bias = d.force368.bias) (inforce : e.inforce = d.force368.inforce)
    (cfg : e.rd Reg.BIAS_CFG = d.force368.rd Reg.BIAS_CFG) : Forced368 s e ∧ e.paoffOut = true := by
  have all := foldl_forceOut (List.finRange 96) d
  have outs (n : Fin 96) : e.bias.out[n] = forcedOut d.bias.out[n] := by
    rw [bias, force368_bias]
    exact (all.out n).trans (if_pos (List.mem_finRange n))
  have codes (n : Fin 96) : e.inf (Reg.BIAS_OUT_CODE n.val) = safeWord (s.dev.bias.out[n]).span := by
    rw [Dev.inf, inforce, force368_inforce, ← spans]
    exact all.inf n (List.mem_finRange n)
  have switch : (e.rd Reg.BIAS_CFG).bit 0 = true := by
    rw [cfg, force368_eq, Dev.rd_fset_same, bit_put_same _ _ (by decide)]
    rfl
  have holds : e.bias.wdHold = true ∨ e.bias.railHold = true := by
    obtain ⟨m, i, o, frame⟩ := force368_frame d
    rw [bias, frame]
    exact cause
  have safe (n : Fin 96) : e.isSafe n = true := by
    obtain wd | rail := holds
    · simp only [Dev.isSafe, Dev.forced, wd, Bool.true_or]
    · simp only [Dev.isSafe, Dev.forced, rail, Bool.true_or, Bool.or_true]
  refine ⟨⟨switch, fun n => ?_⟩, ?_⟩
  · obtain ⟨on, off⟩ := get_safeWord (s.dev.bias.out[n]).span
    rw [outs n, codes n]
    exact ⟨rfl, rfl, rfl, rfl, spans n, safe n, on, off⟩
  · rw [Dev.paoffOut, switch]
    rfl

/-! ### The link (R350, R524) -/

/-- The die without its link. -/
def linkDown (d : Dev) : Dev := { d with bias := { d.bias with linkUp := false, wdHold := true } }

/-- The loss of the link as it is noted, before every output is forced. -/
def linkLost (d : Dev) : Dev := ((linkDown d).count32 Reg.BIAS_WD_COUNT).raise Reg.BIAS_EVT 7

theorem linkDown_rd (d : Dev) (a : Nat) : (linkDown d).rd a = d.rd a := rfl

theorem watchdog_eq (up : d.bias.linkUp = true) : d.watchdog = (linkLost d).force368 := if_neg (by rw [up]; decide)

theorem watchdog_down (down : d.bias.linkUp = false) : d.watchdog = d := if_pos (by rw [down]; rfl)

theorem linkLost_bias (d : Dev) : (linkLost d).bias = { d.bias with linkUp := false, wdHold := true } := by
  rw [linkLost, Dev.raise_bias, Dev.count32_bias]
  rfl

theorem biasFrame_good (io : d.bias.vbio = true) :
    d.biasFrame true = { d with bias := { d.bias with linkUp := true, wdHold := false } } :=
  (if_neg (by rw [io]; decide)).trans (if_pos rfl)

theorem biasFrame_bad (io : d.bias.vbio = true) : d.biasFrame false = (d.count32 Reg.BIAS_LINK_ERR).report 215 :=
  (if_neg (by rw [io]; decide)).trans (if_neg Bool.false_ne_true)

theorem biasFrame_unpowered (io : d.bias.vbio = false) (ok : Bool) : d.biasFrame ok = d := if_pos (by rw [io]; rfl)

/-- Only the count that a source's own word holds says how often it has reported. -/
theorem counted_from {a hi lo : Nat} (h : Counted e f a hi lo) (same : e.rd a = d.rd a) : Counted d f a hi lo := by
  rw [Counted] at h ⊢
  rw [h, same]

theorem linkLost_counts (d : Dev) : Counted d (linkLost d) Reg.BIAS_WD_COUNT 31 0 := by
  have counts := counted_count32 (d := linkDown d) Reg.BIAS_WD_COUNT
  rw [Counted, linkDown_rd] at counts
  rw [Counted, linkLost, Dev.rd_raise_ne _ _ (by decide), counts]

theorem linkLost_event (d : Dev) : Set (linkLost d) Reg.BIAS_EVT 7 := set_raise _ (by decide)

/-- What R368 leaves of a loss of the link that has been noted. -/
theorem force368_afterLoss {s : State} {e : Dev} (bias : e.bias = { s.dev.bias with linkUp := false, wdHold := true })
    (counts : Counted s.dev e Reg.BIAS_WD_COUNT 31 0) (event : Set e Reg.BIAS_EVT 7) :
    e.force368.bias.linkUp = false ∧ e.force368.bias.wdHold = true ∧ Counted s.dev e.force368 Reg.BIAS_WD_COUNT 31 0 ∧
      Set e.force368 Reg.BIAS_EVT 7 ∧ e.force368.paoffOut = true ∧ Forced368 s e.force368 := by
  obtain ⟨forced, off⟩ := forced368_of_cause (s := s) (d := e) (e := e.force368) (fun n => by rw [bias]) (.inl (by rw [bias])) rfl rfl rfl
  obtain ⟨m, i, o, frame⟩ := force368_frame e
  refine ⟨?_, ?_, counts.of_rd_eq (rd_force368 _ (by decide) (by decide)), event.of_rd_eq (rd_force368 _ (by decide) (by decide)), off, forced⟩
  · rw [frame]
    exact congrArg Bias.linkUp bias
  · rw [frame]
    exact congrArg Bias.wdHold bias

/-- The loss of the link is counted, sets its event and leaves what R368 says. -/
theorem watchdog_spec (s : State) (up : s.dev.bias.linkUp = true) :
    s.dev.watchdog.bias.linkUp = false ∧ s.dev.watchdog.bias.wdHold = true ∧ Counted s.dev s.dev.watchdog Reg.BIAS_WD_COUNT 31 0 ∧
      Set s.dev.watchdog Reg.BIAS_EVT 7 ∧ s.dev.watchdog.paoffOut = true ∧ Forced368 s s.dev.watchdog := by
  rw [watchdog_eq up]
  exact force368_afterLoss (linkLost_bias s.dev) (linkLost_counts s.dev) (linkLost_event s.dev)

/-- A discarded frame is counted and reported. -/
theorem badFrame_spec (d : Dev) : Counted d ((d.count32 Reg.BIAS_LINK_ERR).report 215) Reg.BIAS_LINK_ERR 31 0 ∧
    ((d.count32 Reg.BIAS_LINK_ERR).report 215).bias = d.bias ∧ ((d.sump.src[toSrc 215]).wireIgnored = false →
      Counted d ((d.count32 Reg.BIAS_LINK_ERR).report 215) (Reg.SUMP_SRC_STATUS 215) 15 0) := by
  have counts := counted_count32 (d := d) Reg.BIAS_LINK_ERR
  have bias : (d.count32 Reg.BIAS_LINK_ERR).bias = d.bias := Dev.count32_bias ..
  have sump : (d.count32 Reg.BIAS_LINK_ERR).sump = d.sump := Dev.count32_sump ..
  have other : (d.count32 Reg.BIAS_LINK_ERR).rd (Reg.SUMP_SRC_STATUS 215) = d.rd (Reg.SUMP_SRC_STATUS 215) := Dev.rd_count32_ne _ (by decide)
  generalize d.count32 Reg.BIAS_LINK_ERR = e at *
  refine ⟨counts.of_rd_eq (rd_report _ _ _ (by decide)), (reported_bias (Dev.report_reported e 215)).trans bias, fun hears => ?_⟩
  exact counted_from (counted_report (n := 215) (by rw [sump]; exact hears)) other

end

theorem biasLink : BiasLink := by
  intro s
  have row (ok : Bool) : Leads s (.biasFrameReceived ok) (s.dev.biasFrame ok) := leads_of_onCommit (f := fun d => d.biasFrame ok) rfl
  have watch (alone : ¬ ArrivesNow s (fun i => i == .biasFrameReceived true)) : Leads s .biasLinkWatchdog s.dev.watchdog :=
    leads_of_onCommit (f := Dev.watchdog) (by dsimp only [exec]; exact unlessNow_else _ _ _ alone)
  refine ⟨fun io => ⟨?_, ?_⟩, fun io ok => ?_, fun arrives => unlessNow_arrives _ _ _ arrives, fun alone down => ?_,
    fun alone up => ⟨_, watch alone, watchdog_spec s up⟩⟩
  · have good := row true
    rwa [biasFrame_good io] at good
  · have bad := row false
    rw [biasFrame_bad io] at bad
    exact ⟨_, bad, badFrame_spec s.dev⟩
  · have none := row ok
    rwa [biasFrame_unpowered io ok] at none
  · have rests := watch alone
    rwa [watchdog_down down] at rests

/-! ### The rails (R364, R367) -/

section

variable {d : Dev}

/-- The outputs as a rail's loss finds them: the levels before, and the free choices of what follows. -/
def outsBefore (d : Dev) : Vector BiasOut 96 := Vector.ofFn fun n => { d.bias.out[n] with before := d.level n, lossDraw := d.freeCtr + n.val }

/-- The die without a rail. -/
def railOff (b : Bias) (r : CorufRail) : Bias :=
  match r with
  | .vbp => { b with vbp := false }
  | .vbn => { b with vbn := false }
  | .vbio => { b with vbio := false, linkUp := false }

theorem railOff_spec (b : Bias) (r : CorufRail) : (railOff b r).vbp = (if r = .vbp then false else b.vbp) ∧
    (railOff b r).vbn = (if r = .vbn then false else b.vbn) ∧ (railOff b r).vbio = (if r = .vbio then false else b.vbio) ∧
    (railOff b r).linkUp = (if r = .vbio then false else b.linkUp) := by
  cases r <;> exact ⟨rfl, rfl, rfl, rfl⟩

/-- The loss of a rail as it is noted, before every output is forced. -/
def railLost (d : Dev) (r : CorufRail) : Dev :=
  { d with freeCtr := d.freeCtr + 96, bias := { railOff { d.bias with out := outsBefore d } r with railHold := true } }

theorem railLost_rd (d : Dev) (r : CorufRail) (a : Nat) : (railLost d r).rd a = d.rd a := rfl

theorem railLoss_eq (d : Dev) (r : CorufRail) : d.railLoss r = ((railLost d r).force368).report 216 := by
  cases r <;> rfl

theorem railLost_span (d : Dev) (r : CorufRail) (n : Fin 96) : (railLost d r).bias.out[n].span = d.bias.out[n].span := by
  have outs : (railLost d r).bias.out = outsBefore d := by cases r <;> rfl
  rw [outs]
  simp [outsBefore]

end

theorem biasRails : BiasRails := by
  intro s r
  refine ⟨?_, leads_of_onCommit (f := Dev.railsGood) rfl⟩
  have row : Leads s (.corufRailLoss r) (s.dev.railLoss r) := leads_of_onCommit (f := fun d => d.railLoss r) rfl
  rw [railLoss_eq] at row
  have told := Dev.report_reported (railLost s.dev r).force368 216
  obtain ⟨m, i, o, frame⟩ := force368_frame (railLost s.dev r)
  have bias : ((railLost s.dev r).force368.report 216).bias = { (railLost s.dev r).bias with out := o } := by
    rw [reported_bias told, frame]
  obtain ⟨forced, off⟩ := forced368_of_cause (s := s) (railLost_span s.dev r) (.inr rfl) (reported_bias told) (reported_inforce told)
    (rd_report _ _ _ (by decide))
  obtain ⟨vbp, vbn, vbio, linkUp⟩ := railOff_spec { s.dev.bias with out := outsBefore s.dev } r
  refine ⟨_, row, (congrArg Bias.railHold bias).trans rfl, off, forced, (congrArg Bias.vbp bias).trans vbp,
    (congrArg Bias.vbn bias).trans vbn, (congrArg Bias.vbio bias).trans vbio, (congrArg Bias.linkUp bias).trans linkUp, fun hears => ?_⟩
  refine counted_from (counted_report (n := 216) ?_) ((rd_force368 _ (by decide) (by decide)).trans (railLost_rd _ _ _))
  rw [frame]
  exact hears

end Sys2Proof.Cert

/-! PROOFS. The outputs of the bias die (O28): their levels, span changes, limits, tests, trips and the kill from outside. -/

namespace Sys2Proof.Cert

open Sys2Proof.Machine

section

variable {d e : Dev} {n : Fin 96}

/-! ### Levels (R353, R523) -/

theorem between_bounds {lo hi : Int} (le : lo ≤ hi) (k : Nat) : lo ≤ between lo hi k ∧ between lo hi k ≤ hi := by
  have under : k % ((hi - lo).toNat + 1) < (hi - lo).toNat + 1 := Nat.mod_lt _ (Nat.succ_pos _)
  unfold between
  omega

theorem level_spanN (span : d.bias.out[n].span = 0) :
    d.level n = if d.bias.vbn then spanMv 0 (d.driven n) else between (-8192) 0 (Config.freeNat d.bias.out[n].lossDraw) := by
  unfold Dev.level
  dsimp only
  rw [span]
  rfl

theorem level_spanP (span : d.bias.out[n].span = 1) :
    d.level n = if d.bias.vbp then spanMv 1 (d.driven n)
      else between (min 0 d.bias.out[n].before) (max 0 d.bias.out[n].before) (Config.freeNat d.bias.out[n].lossDraw) := by
  unfold Dev.level
  dsimp only
  rw [span]
  rfl

theorem level_spanB (span : d.bias.out[n].span = 2) :
    d.level n = if d.bias.vbn then spanMv 2 (d.driven n) else between (-4096) 4094 (Config.freeNat d.bias.out[n].lossDraw) := by
  unfold Dev.level
  dsimp only
  rw [span]
  rfl

end

theorem biasLevels : BiasLevels := by
  intro d n
  refine ⟨fun span => ?_, fun span => ?_, fun span => ?_⟩
  · rw [level_spanN span]
    refine ⟨fun vbn => if_pos vbn, fun vbn => ?_⟩
    rw [vbn]
    exact between_bounds (by decide) _
  · rw [level_spanP span]
    refine ⟨fun vbp => if_pos vbp, fun vbp => ?_⟩
    rw [vbp]
    exact between_bounds (by omega) _
  · rw [level_spanB span]
    refine ⟨fun vbn => if_pos vbn, fun vbn => ?_⟩
    rw [vbn]
    exact between_bounds (by decide) _

/-! ### Span changes (Table 13.2) -/

section

variable {d e : Dev} {n : Fin 96}

theorem modOut_congr {f g : BiasOut → BiasOut} (same : f d.bias.out[n] = g d.bias.out[n]) : d.modOut n f = d.modOut n g := by
  unfold Dev.modOut
  rw [same]

theorem modOut_self {f : BiasOut → BiasOut} (same : f d.bias.out[n] = d.bias.out[n]) : d.modOut n f = d := by
  have outs : d.bias.out.set n (f d.bias.out[n]) = d.bias.out := by rw [same]; simp
  unfold Dev.modOut
  rw [outs]

theorem driven_of_clamped (clamped : d.bias.out[n].seq ≠ 0) : d.driven n = safeCode d.bias.out[n].span := by
  unfold Dev.driven
  exact if_pos (by rw [bne_iff_ne.mpr clamped, Bool.or_true])

/-- The output at the end of its span change. -/
def changedOut (code : Option Word) (o : BiasOut) : BiasOut :=
  { o with seq := 0, pendCode := none, pendSpan := none, wait := code.isNone, hold368 := if code.isSome then false else o.hold368 }

/-- The end of a span change of an output, before a span that waited for it is judged. -/
def spanEnded (d : Dev) (n : Fin 96) : Dev :=
  ((d.setCodes n (d.bias.out[n].pendCode.getD (safeWord d.bias.out[n].span))).modOut n (changedOut d.bias.out[n].pendCode)).raise Reg.BIAS_EVT 0

theorem spanDone_eq (ends : d.bias.out[n].seq = 2) (none : d.bias.out[n].pendSpan = none) : d.spanDone n = spanEnded d n := by
  unfold Dev.spanDone
  rw [if_neg (not_not.mpr ends), none]
  rfl

theorem spanDone_idle (idle : d.bias.out[n].seq ≠ 2) : d.spanDone n = d := if_pos idle

theorem spanEnded_out (d : Dev) (n : Fin 96) : (spanEnded d n).bias.out[n] = changedOut d.bias.out[n].pendCode d.bias.out[n] := by
  rw [spanEnded, Dev.raise_bias, modOut_out, setCodes_bias]

theorem spanEnded_out_ne (d : Dev) {j : Fin 96} (other : j ≠ n) : (spanEnded d n).bias.out[j] = d.bias.out[j] := by
  rw [spanEnded, Dev.raise_bias, modOut_out_ne _ other, setCodes_bias]

theorem spanEnded_code (d : Dev) (n : Fin 96) :
    (spanEnded d n).inf (Reg.BIAS_OUT_CODE n.val) = d.bias.out[n].pendCode.getD (safeWord d.bias.out[n].span) := by
  rw [spanEnded, Dev.inf_raise, Dev.inf_modOut, inf_setCodes, if_pos rfl]

theorem spanEnded_event (d : Dev) (n : Fin 96) : Set (spanEnded d n) Reg.BIAS_EVT 0 := set_raise _ (by decide)

end

theorem spanChanges : SpanChanges := by
  intro s n
  have switch : Makes s (.spanSwitch n) (s.dev.spanSwitched n) := makes_of_onDev (f := fun d => d.spanSwitched n) rfl
  have done : Leads s (.spanChangeDone n) (s.dev.spanDone n) := leads_of_onCommit (f := fun d => d.spanDone n) rfl
  refine ⟨fun one => ⟨_, switch, modOut_congr (if_pos one), ?_⟩, fun other => ?_, fun two none => ⟨_, done, ?_⟩, fun other => ?_⟩
  · have taken : (s.dev.spanSwitched n).bias.out[n] = { s.dev.bias.out[n] with seq := 2, span := s.dev.bias.out[n].seqTo } := by
      rw [Dev.spanSwitched, modOut_out, if_pos one]
    rw [driven_of_clamped (by rw [taken]; exact two_ne_zero), taken]
  · have rests : s.dev.spanSwitched n = s.dev := modOut_self (if_neg other)
    rwa [rests] at switch
  · rw [spanDone_eq two none, spanEnded_out]
    exact ⟨rfl, rfl, rfl, rfl, spanEnded_event _ _, spanEnded_code _ _, fun j other => spanEnded_out_ne _ other⟩
  · rwa [spanDone_idle other] at done

/-! ### The current limit (R358) -/

section

variable {d e : Dev}

theorem scReg_apart (n : Nat) : scReg n < 0x30000 ∨ 0x40000 ≤ scReg n := by
  unfold scReg
  split <;> decide

/-- A bit that hardware sets in a register. -/
def setBit (d : Dev) (a b : Nat) : Dev := (d.wr a (d.rd a ||| BitVec.twoPow 32 b)).noteSet a (BitVec.twoPow 32 b)

theorem setBit_set (d : Dev) (a : Nat) {b : Nat} (hb : b < 32) : Set (setBit d a b) a b := by
  rw [Set, setBit, Dev.rd_noteSet, Dev.rd_wr_same]
  rw [Word.bit_or, Word.bit_twoPow_same hb, Bool.or_true]

theorem setBit_regs (d : Dev) (a b : Nat) : SameRegsBut [a] d (setBit d a b) :=
  (sameRegs_wr d _ (List.mem_singleton.mpr rfl)).congr rfl

theorem setBit_frame (d : Dev) (a b : Nat) : setBit d a b = { d with regs := (setBit d a b).regs, same := (setBit d a b).same } := rfl

theorem currentLimit_eq (d : Dev) (n : Fin 96) :
    d.currentLimit n = (setBit d (scReg n.val) (n.val % 32)).modOut n fun o => { o with limiting := true } := rfl

end

theorem currentLimits : CurrentLimits := by
  intro s n
  have limit : Makes s (.biasCurrentLimit n) (s.dev.currentLimit n) := makes_of_onDev (f := fun d => d.currentLimit n) rfl
  have lasts : Leads s (.biasScPersist n) (s.dev.scPersist n) := leads_of_onCommit (f := fun d => d.scPersist n) rfl
  rw [currentLimit_eq] at limit
  refine ⟨⟨_, limit, (setBit_set _ _ (Nat.mod_lt _ (by decide))).of_regs rfl, (setBit_regs _ _ _).congr rfl, rfl⟩, fun acts => ?_, fun rests => ?_⟩
  · have row : s.dev.scPersist n = (s.dev.raise Reg.BIAS_EVT 4).report (toSrc (197 + n.val / 8)) := if_pos acts
    rw [row] at lasts
    have event : Set (s.dev.raise Reg.BIAS_EVT 4) Reg.BIAS_EVT 4 := set_raise _ (by decide)
    refine ⟨_, lasts, event.report (by decide) _, (reported_bias (Dev.report_reported _ _)).trans (Dev.raise_bias ..), fun hears => ?_⟩
    have bounded : (toSrc (197 + n.val / 8)).val = 197 + n.val / 8 := Nat.mod_eq_of_lt (by omega)
    have counts := counted_report (d := s.dev.raise Reg.BIAS_EVT 4) (n := toSrc (197 + n.val / 8)) (by rwa [Dev.raise_sump])
    rw [bounded] at counts
    refine counted_from counts (Dev.rd_raise_ne _ _ ?_)
    simp only [Reg.SUMP_SRC_STATUS, Reg.BIAS_EVT]
    omega
  · have row : s.dev.scPersist n = s.dev := if_neg (by rw [rests]; decide)
    rwa [row] at lasts

/-! ### The output test (R360) -/

section

variable {d e : Dev} {k x y : Nat} {lim : Bool}

/-- Whether two readings of a test pass. -/
def testPass (d : Dev) (k x y : Nat) (lim : Bool) : Bool :=
  decide (x ≤ safeCode d.bias.out[toOut k].span + 8 ∧ safeCode d.bias.out[toOut k].span ≤ x + 8) &&
    decide (y ≤ (d.inf (Reg.BIAS_OUT_CODE k)).get 11 0 + 8 ∧ (d.inf (Reg.BIAS_OUT_CODE k)).get 11 0 ≤ y + 8) && !lim

theorem testPass_iff (d : Dev) (k x y : Nat) (lim : Bool) :
    testPass d k x y lim = true ↔ x ≤ safeCode d.bias.out[toOut k].span + 8 ∧ safeCode d.bias.out[toOut k].span ≤ x + 8 ∧
      y ≤ (d.inf (Reg.BIAS_OUT_CODE k)).get 11 0 + 8 ∧ (d.inf (Reg.BIAS_OUT_CODE k)).get 11 0 ≤ y + 8 ∧ lim = false := by
  simp [testPass, and_assoc]

/-- BIAS_TEST with DONE and PASS, and nothing else of the die's registers. -/
def testShown (d : Dev) (b : Bias) (pass : Bool) : Dev :=
  ({ d with bias := b }).wr Reg.BIAS_TEST (((d.rd Reg.BIAS_TEST).put 29 29 1).put 28 28 (b2n pass))

theorem testShown_rd (d : Dev) (b : Bias) (pass : Bool) :
    (testShown d b pass).rd Reg.BIAS_TEST = ((d.rd Reg.BIAS_TEST).put 29 29 1).put 28 28 (b2n pass) := Dev.rd_wr_same ..

/-- A bit of a word with a field put: the field's own, or the word's. -/
theorem bit_put (w : Word) {hi lo i : Nat} (n : Nat) (order : lo ≤ hi) (_hi32 : hi < 32) (i32 : i < 32) :
    (w.put hi lo n).bit i = if lo ≤ i ∧ i ≤ hi then n.testBit (i - lo) else w.bit i := by
  have low : w.toNat % 2 ^ lo < 2 ^ lo := Nat.mod_lt _ (by positivity)
  have field : n % 2 ^ (hi + 1 - lo) < 2 ^ (hi + 1 - lo) := Nat.mod_lt _ (by positivity)
  have both : 2 ^ lo * (n % 2 ^ (hi + 1 - lo)) + w.toNat % 2 ^ lo < 2 ^ (hi + 1) := by
    calc 2 ^ lo * (n % 2 ^ (hi + 1 - lo)) + w.toNat % 2 ^ lo < 2 ^ lo * (n % 2 ^ (hi + 1 - lo)) + 2 ^ lo := by omega
      _ = 2 ^ lo * (n % 2 ^ (hi + 1 - lo) + 1) := by ring
      _ ≤ 2 ^ lo * 2 ^ (hi + 1 - lo) := Nat.mul_le_mul_left _ field
      _ = 2 ^ (hi + 1) := by rw [← pow_add]; congr 1; omega
  have shape : w.toNat / 2 ^ (hi + 1) * 2 ^ (hi + 1) + n % 2 ^ (hi + 1 - lo) * 2 ^ lo + w.toNat % 2 ^ lo =
      2 ^ (hi + 1) * (w.toNat / 2 ^ (hi + 1)) + (2 ^ lo * (n % 2 ^ (hi + 1 - lo)) + w.toNat % 2 ^ lo) := by ring
  rw [Word.bit, Word.put, BitVec.toNat_ofNat, shape, Nat.testBit_mod_two_pow, decide_eq_true i32, Bool.true_and,
    Nat.testBit_two_pow_mul_add _ both, Nat.testBit_two_pow_mul_add _ low, Nat.testBit_mod_two_pow, Nat.testBit_mod_two_pow,
    Nat.testBit_div_two_pow]
  by_cases above : i < hi + 1
  · by_cases below : i < lo
    · rw [if_pos above, if_pos below, if_neg (by omega), decide_eq_true below, Bool.true_and]
      rfl
    · rw [if_pos above, if_neg below, if_pos (by omega), decide_eq_true (by omega), Bool.true_and]
  · rw [if_neg above, if_neg (by omega), Nat.sub_add_cancel (by omega)]
    rfl

theorem testShown_done (d : Dev) (b : Bias) (pass : Bool) : Set (testShown d b pass) Reg.BIAS_TEST 29 := by
  rw [Set, testShown_rd, bit_put _ _ (by decide) (by decide) (by decide), if_neg (by decide), bit_put_same _ _ (by decide)]
  rfl

theorem testShown_pass (d : Dev) (b : Bias) (pass : Bool) : ((testShown d b pass).rd Reg.BIAS_TEST).bit 28 = pass := by
  rw [testShown_rd, bit_put_same _ _ (by decide)]
  cases pass <;> rfl

theorem testShown_regs (d : Dev) (b : Bias) (pass : Bool) : SameRegsBut [Reg.BIAS_TEST] d (testShown d b pass) :=
  SameRegsBut.trans (e := { d with bias := b }) (.of_regs rfl) (sameRegs_wr _ _ (List.mem_singleton.mpr rfl))

theorem testShown_bias (d : Dev) (b : Bias) (pass : Bool) : (testShown d b pass).bias = b := rfl

theorem testDone_running (runs : d.bias.test = some k) : d.testDone x y lim =
    if testPass d k x y lim then testShown d { d.bias with test := none } (testPass d k x y lim)
    else ((testShown d { d.bias with test := none } (testPass d k x y lim)).raise Reg.BIAS_EVT 2).report (toSrc (197 + k / 8)) := by
  unfold Dev.testDone
  rw [runs]
  rfl

theorem testDone_never (idle : d.bias.test = none) (waits : d.bias.testWait = some k) (never : 96 ≤ k ∨ d.outFollow (toOut k) = 0) :
    d.testDone x y lim = testShown d { d.bias with testWait := none } false := by
  unfold Dev.testDone
  rw [idle, waits]
  exact if_pos never

theorem testDone_idle (idle : d.bias.test = none) (waits : d.bias.testWait = none) : d.testDone x y lim = d := by
  unfold Dev.testDone
  rw [idle, waits]

end

theorem outputTests : OutputTests := by
  intro s k x y lim
  have row : Leads s (.biasTestDone x y lim) (s.dev.testDone x y lim) := leads_of_onCommit (f := fun d => d.testDone x y lim) rfl
  dsimp only
  rw [← testPass_iff]
  refine ⟨fun runs => ⟨_, row, ?_⟩, fun idle waits never => ?_, fun idle waits => ?_⟩
  · rw [testDone_running runs]
    cases pass : testPass s.dev k x y lim with
    | true =>
      rw [if_pos rfl, testShown_pass]
      exact ⟨rfl, testShown_done _ _ _, Iff.rfl, fun fails => absurd rfl fails, fun _ => testShown_regs _ _ _⟩
    | false =>
      rw [if_neg (by decide)]
      have done := testShown_done s.dev { s.dev.bias with test := none } false
      have fails := testShown_pass s.dev { s.dev.bias with test := none } false
      have bias := testShown_bias s.dev { s.dev.bias with test := none } false
      generalize testShown s.dev { s.dev.bias with test := none } false = e at done fails bias ⊢
      have event : Set (e.raise Reg.BIAS_EVT 2) Reg.BIAS_EVT 2 := set_raise _ (by decide)
      have same : ((e.raise Reg.BIAS_EVT 2).report (toSrc (197 + k / 8))).rd Reg.BIAS_TEST = e.rd Reg.BIAS_TEST :=
        (rd_report _ _ _ (by decide)).trans (Dev.rd_raise_ne _ _ (by decide))
      refine ⟨?_, done.of_rd_eq same, ?_, fun _ => event.report (by decide) _, fun passes => absurd passes (by decide)⟩
      · rw [reported_bias (Dev.report_reported _ _), Dev.raise_bias, bias]
      · rw [same, fails]
  · rw [testDone_never idle waits never] at row
    exact ⟨_, row, rfl, testShown_done _ _ _, testShown_pass _ _ _, testShown_regs _ _ _⟩
  · rwa [testDone_idle idle waits] at row

/-! ### Trips and the kill from outside (R363, R366) -/

section

variable {d e : Dev} {C : Dev → Fin 96 → Bool} {f : BiasOut → BiasOut}

/-- Every output of a list that a condition names, changed. -/
def changeOuts (C : Dev → Fin 96 → Bool) (f : BiasOut → BiasOut) (d : Dev) (ns : List (Fin 96)) : Dev :=
  ns.foldl (fun d n => if C d n then d.modOut n f else d) d

theorem changeOuts_frame (ns : List (Fin 96)) (d : Dev) : ∃ o, changeOuts C f d ns = { d with bias := { d.bias with out := o } } := by
  induction ns generalizing d with
  | nil => exact ⟨d.bias.out, rfl⟩
  | cons n ns ih =>
    obtain ⟨o, rest⟩ := ih (if C d n then d.modOut n f else d)
    refine ⟨o, ?_⟩
    rw [changeOuts, List.foldl_cons]
    refine rest.trans ?_
    split <;> rfl

/-- Where the condition does not look at the outputs and the change made twice is the change. -/
theorem changeOuts_out (keeps : ∀ (e : Dev) (n j : Fin 96), C (e.modOut n f) j = C e j) (twice : ∀ o, f (f o) = f o) (ns : List (Fin 96))
    (d : Dev) (j : Fin 96) :
    (changeOuts C f d ns).bias.out[j] = if j ∈ ns ∧ C d j = true then f d.bias.out[j] else d.bias.out[j] := by
  induction ns generalizing d with
  | nil => exact (if_neg fun both => absurd both.1 List.not_mem_nil).symm
  | cons n ns ih =>
    have step := ih (if C d n then d.modOut n f else d)
    rw [changeOuts, List.foldl_cons]
    refine step.trans ?_
    cases named : C d n with
    | false =>
      rw [if_neg (show ¬ false = true by decide)]
      by_cases here : j = n
      · subst here
        simp [named]
      · simp [here]
    | true =>
      rw [if_pos rfl, keeps]
      by_cases here : j = n
      · subst here
        rw [modOut_out]
        simp [named, twice]
      · rw [modOut_out_ne _ here]
        simp [here]

/-- What a trip holds: the outputs that follow its path and are enabled for it. -/
def tripsWith (p : Fin 64) (d : Dev) (n : Fin 96) : Bool := d.outPath n == p && (d.rd (Reg.BIAS_OUT_CFG n.val)).bit 26

/-- An output held by the trip of a path. -/
def tripped (p : Nat) (o : BiasOut) : BiasOut := { o with trip := some p }

/-- The trip register of a path. -/
def tripReg (p : Nat) : Nat := if p < 32 then Reg.BIAS_TRIP_LO else Reg.BIAS_TRIP_HI

theorem ocTrip_eq (d : Dev) (p : Fin 64) :
    d.ocTrip p = ((changeOuts (tripsWith p) (tripped p.val) (setBit d (tripReg p.val) (p.val % 32)) (List.finRange 96)).raise Reg.BIAS_EVT 5).report
      (toSrc (64 + p.val)) := rfl

theorem tripReg_cases (p : Nat) : tripReg p = Reg.BIAS_TRIP_LO ∨ tripReg p = Reg.BIAS_TRIP_HI := by
  unfold tripReg
  split
  · exact .inl rfl
  · exact .inr rfl

theorem ne_zero_of_bit {w : Word} {b : Nat} (set : w.bit b = true) : (w != 0) = true := by
  refine bne_iff_ne.mpr fun zero => ?_
  rw [zero] at set
  simp [Word.bit] at set

/-- With BIAS_CFG bit 1 a trip bit that is set drives PAOFF_N (R364). -/
theorem paoffOut_of_trip {p : Nat} (follows : (d.rd Reg.BIAS_CFG).bit 1 = true) (trip : d.tripBit p = true) : d.paoffOut = true := by
  have trips : (d.rd Reg.BIAS_TRIP_LO != 0 || d.rd Reg.BIAS_TRIP_HI != 0) = true := by
    have some := ne_zero_of_bit trip
    split at some
    · rw [some]; rfl
    · rw [some]; exact Bool.or_true _
  unfold Dev.paoffOut
  rw [follows, trips]
  simp

/-- What the kill from outside holds. -/
def killsWith (d : Dev) (n : Fin 96) : Bool := (d.rd (Reg.BIAS_OUT_CFG n.val)).bit 27

/-- An output held by the kill from outside. -/
def killed (o : BiasOut) : BiasOut := { o with ext := true }

/-- PAOFF_N as another source holds it. -/
def heldLow (d : Dev) : Dev := { d with bias := { d.bias with extLow := true, extReturn := false } }

theorem extKill_eq (free : d.paoffOut = false) (kills : (d.rd Reg.BIAS_CFG).bit 2 = true) :
    d.extKill = (changeOuts killsWith killed (heldLow d) (List.finRange 96)).raise Reg.BIAS_EVT 6 :=
  (if_neg (by rw [free]; decide)).trans (if_pos kills)

end

theorem overCurrent : OverCurrent := by
  intro s p
  have row : Leads s (.biasOcTrip p) (s.dev.ocTrip p) := leads_of_onCommit (f := fun d => d.ocTrip p) rfl
  rw [ocTrip_eq] at row
  have trips := setBit_set s.dev (tripReg p.val) (Nat.mod_lt p.val (show 0 < 32 by decide))
  have regs := setBit_regs s.dev (tripReg p.val) (p.val % 32)
  have frame := setBit_frame s.dev (tripReg p.val) (p.val % 32)
  generalize setBit s.dev (tripReg p.val) (p.val % 32) = e at row trips regs frame
  have outs := changeOuts_out (C := tripsWith p) (f := tripped p.val) (fun _ _ _ => rfl) (fun _ => rfl) (List.finRange 96) e
  obtain ⟨o, held⟩ := changeOuts_frame (C := tripsWith p) (f := tripped p.val) (List.finRange 96) e
  have rd (a : Nat) : (changeOuts (tripsWith p) (tripped p.val) e (List.finRange 96)).rd a = e.rd a := by rw [held]; rfl
  have sump : (changeOuts (tripsWith p) (tripped p.val) e (List.finRange 96)).sump = e.sump := by rw [held]
  generalize changeOuts (tripsWith p) (tripped p.val) e (List.finRange 96) = f at row outs rd sump
  have told := Dev.report_reported (f.raise Reg.BIAS_EVT 5) (toSrc (64 + p.val))
  have event : Set (f.raise Reg.BIAS_EVT 5) Reg.BIAS_EVT 5 := set_raise _ (by decide)
  have after {a : Nat} (out : a < 0x30000 ∨ 0x40000 ≤ a) (other : a ≠ Reg.BIAS_EVT) :
      ((f.raise Reg.BIAS_EVT 5).report (toSrc (64 + p.val))).rd a = e.rd a :=
    (rd_report _ _ a out).trans ((Dev.rd_raise_ne _ _ other).trans (rd a))
  have trip : ((f.raise Reg.BIAS_EVT 5).report (toSrc (64 + p.val))).tripBit p.val = true := by
    refine trips.of_rd_eq (after ?_ ?_) <;> obtain lo | hi := tripReg_cases p.val
    · exact .inr (by rw [lo]; decide)
    · exact .inr (by rw [hi]; decide)
    · rw [lo]; decide
    · rw [hi]; decide
  have unchanged {a : Nat} (lo : a ≠ Reg.BIAS_TRIP_LO) (hi : a ≠ Reg.BIAS_TRIP_HI) : e.rd a = s.dev.rd a := by
    refine regs a fun mem => ?_
    obtain same | same := tripReg_cases p.val <;> rw [same] at mem
    · exact lo (List.mem_singleton.mp mem)
    · exact hi (List.mem_singleton.mp mem)
  refine ⟨_, row, trip, event.report (by decide) _, fun n => ?_, fun follows => paoffOut_of_trip ?_ trip, fun hears => ?_⟩
  · have path : e.outPath n = s.dev.outPath n := by rw [frame]; rfl
    have cfg : e.rd (Reg.BIAS_OUT_CFG n.val) = s.dev.rd (Reg.BIAS_OUT_CFG n.val) := by
      refine unchanged ?_ ?_ <;> simp only [Reg.BIAS_OUT_CFG, Reg.BIAS_TRIP_LO, Reg.BIAS_TRIP_HI] <;> omega
    have before : e.bias.out[n] = s.dev.bias.out[n] := by rw [frame]
    rw [reported_bias told, Dev.raise_bias, outs, before]
    refine if_congr ?_ rfl rfl
    simp [tripsWith, path, cfg]
  · rw [after (by decide) (by decide), unchanged (by decide) (by decide)]
    exact follows
  · have bounded : (toSrc (64 + p.val)).val = 64 + p.val := Nat.mod_eq_of_lt (by omega)
    have same : e.sump = s.dev.sump := by rw [frame]
    have counts := counted_report (d := f.raise Reg.BIAS_EVT 5) (n := toSrc (64 + p.val)) (by rwa [Dev.raise_sump, sump, same])
    rw [bounded] at counts
    refine counted_from counts ((Dev.rd_raise_ne _ _ ?_).trans ((rd _).trans (unchanged ?_ ?_))) <;>
      simp only [Reg.SUMP_SRC_STATUS, Reg.BIAS_EVT, Reg.BIAS_TRIP_LO, Reg.BIAS_TRIP_HI] <;> omega

theorem externalKill : ExternalKill := by
  intro s
  have kill : Makes s .paoffExtKill s.dev.extKill := makes_of_onDev (f := Dev.extKill) rfl
  have high : Leads s .paoffHighTimer s.dev.extHigh := leads_of_onCommit (f := Dev.extHigh) rfl
  refine ⟨fun own => ⟨?_, ?_⟩, fun free => ⟨fun kills => ?_, fun spares => ?_, ?_⟩⟩
  · rwa [Dev.extKill, if_pos own] at kill
  · rwa [Dev.extHigh, if_pos own] at high
  · rw [extKill_eq free kills] at kill
    have outs := changeOuts_out (C := killsWith) (f := killed) (fun _ _ _ => rfl) (fun _ => rfl) (List.finRange 96) (heldLow s.dev)
    obtain ⟨o, held⟩ := changeOuts_frame (C := killsWith) (f := killed) (List.finRange 96) (heldLow s.dev)
    have regs : SameRegsBut [Reg.BIAS_EVT] s.dev ((changeOuts killsWith killed (heldLow s.dev) (List.finRange 96)).raise Reg.BIAS_EVT 6) := by
      refine SameRegsBut.trans (.of_regs ?_) (sameRegs_raise _ _ (List.mem_singleton.mpr rfl))
      rw [held]
      rfl
    have extLow : (changeOuts killsWith killed (heldLow s.dev) (List.finRange 96)).bias.extLow = true := by rw [held]; rfl
    have extReturn : (changeOuts killsWith killed (heldLow s.dev) (List.finRange 96)).bias.extReturn = false := by rw [held]; rfl
    have event : Set ((changeOuts killsWith killed (heldLow s.dev) (List.finRange 96)).raise Reg.BIAS_EVT 6) Reg.BIAS_EVT 6 :=
      set_raise _ (by decide)
    refine ⟨_, kill, event, regs, ?_, ?_, fun n => ?_⟩
    · rw [Dev.raise_bias, extLow]
    · rw [Dev.raise_bias, extReturn]
    · rw [Dev.raise_bias, outs]
      exact if_congr (and_iff_right (List.mem_finRange n)) rfl rfl
  · have row : s.dev.extKill = heldLow s.dev := (if_neg (by rw [free]; decide)).trans (if_neg (Bool.eq_false_iff.mp spares))
    rwa [row] at kill
  · rwa [Dev.extHigh, if_neg (by rw [free]; decide)] at high

/-- Settles O28: the link and the rails by what forces every output; each other row by its own equation and frame. -/
theorem biasDie : Obligations.BiasDie :=
  ⟨biasLink, biasRails, biasLevels, spanChanges, currentLimits, outputTests, overCurrent, externalKill⟩

end Sys2Proof.Cert

/-! PROOFS. Accesses that fail (O42): what a bus error records, the rows whose access Table 14.3 stops, the order of its causes, and an
access without an answer. -/

namespace Sys2Proof.Machine

/-! ### What a bus error records (R381) -/

section

variable {d : Dev} {i : Initiator} {write : Bool} {width a : Nat} {c : BusCode}

/-- A bus error as it is counted. -/
def errCounted (d : Dev) (c : BusCode) : Dev :=
  if c = .domainOff then (d.count32 Reg.SYS_BUS_ERR_CNT).count32 Reg.SYS_DOMAIN_OFF else d.count32 Reg.SYS_BUS_ERR_CNT

/-- What the information register says of an access. -/
def errInfo (i : Initiator) (write : Bool) (width : Nat) (c : BusCode) : Word :=
  (((((0 : Word).put 31 31 1).put 30 28 (initNum i)).put 27 27 (b2n write)).put 26 24 (widthNum width)).put 19 16 c.num

/-- The record of the first error since the last was read. -/
def errRecorded (d : Dev) (info : Word) (a : Nat) : Dev :=
  ((d.wr Reg.SYS_BUS_ERR_INFO info).noteSet Reg.SYS_BUS_ERR_INFO 0x80000000#32).wr Reg.SYS_BUS_ERR_ADDR (BitVec.ofNat 32 a)

theorem busError_eq (d : Dev) (i : Initiator) (write : Bool) (width a : Nat) (c : BusCode) : d.busError i write width a c =
    if ((errCounted d c).rd Reg.SYS_BUS_ERR_INFO).bit 31 then errCounted d c
    else errRecorded (errCounted d c) (errInfo i write width c) a := rfl

theorem initNum_lt (i : Initiator) : initNum i < 8 := by cases i <;> decide

theorem num_lt (c : BusCode) : c.num < 16 := by cases c <;> decide

theorem widthNum_lt (width : Nat) : widthNum width < 8 := by
  rw [widthNum]
  by_cases byte : width = 8
  · rw [if_pos byte]; decide
  · rw [if_neg byte]
    split <;> decide

theorem rd_errCounted (d : Dev) (c : BusCode) {b : Nat} (cnt : b ≠ Reg.SYS_BUS_ERR_CNT) (off : b ≠ Reg.SYS_DOMAIN_OFF) :
    (errCounted d c).rd b = d.rd b := by
  unfold errCounted
  split
  · exact (Dev.rd_count32_ne _ off).trans (Dev.rd_count32_ne _ cnt)
  · exact Dev.rd_count32_ne _ cnt

theorem rd_errRecorded (d : Dev) (info : Word) (a : Nat) {b : Nat} (i : b ≠ Reg.SYS_BUS_ERR_INFO) (ad : b ≠ Reg.SYS_BUS_ERR_ADDR) :
    (errRecorded d info a).rd b = d.rd b := by
  rw [errRecorded, Dev.rd_wr_ne _ _ ad, Dev.rd_noteSet, Dev.rd_wr_ne _ _ i]

theorem errRecorded_info (d : Dev) (info : Word) (a : Nat) : (errRecorded d info a).rd Reg.SYS_BUS_ERR_INFO = info := by
  rw [errRecorded, Dev.rd_wr_ne _ _ (by decide), Dev.rd_noteSet, Dev.rd_wr_same]

theorem errRecorded_addr (d : Dev) (info : Word) (a : Nat) : (errRecorded d info a).rd Reg.SYS_BUS_ERR_ADDR = BitVec.ofNat 32 a :=
  Dev.rd_wr_same ..

end

end Sys2Proof.Machine

namespace Sys2Proof.Cert

open Sys2Proof.Machine

/-! ### Fields of a word, side by side -/

/-- A field reads as before where another is put beside it. -/
theorem get_put_beside (w : Word) {hi lo hi' lo' : Nat} (n : Nat) (order : lo ≤ hi) (hi32 : hi < 32) (other32 : hi' < 32)
    (apart : hi' < lo ∨ hi < lo') : (w.put hi lo n).get hi' lo' = w.get hi' lo' := by
  refine Nat.eq_of_testBit_eq fun j => ?_
  rw [Word.testBit_get, Word.testBit_get]
  by_cases inside : j < hi' + 1 - lo'
  · rw [bit_put w n order hi32 (by omega), if_neg (by omega)]
  · rw [decide_eq_false inside, Bool.false_and, Bool.false_and]

theorem errInfo_spec (i : Initiator) (write : Bool) (width : Nat) (c : BusCode) :
    (errInfo i write width c).bit 31 = true ∧ (errInfo i write width c).get 30 28 = initNum i ∧ (errInfo i write width c).bit 27 = write ∧
      (errInfo i write width c).get 26 24 = widthNum width ∧ (errInfo i write width c).get 19 16 = c.num := by
  unfold errInfo
  refine ⟨?_, ?_, ?_, ?_, ?_⟩
  · rw [bit_put _ _ (by decide) (by decide) (by decide), if_neg (by decide), bit_put _ _ (by decide) (by decide) (by decide),
      if_neg (by decide), bit_put _ _ (by decide) (by decide) (by decide), if_neg (by decide),
      bit_put _ _ (by decide) (by decide) (by decide), if_neg (by decide), bit_put_same _ _ (by decide)]
    rfl
  · rw [get_put_beside _ _ (by decide) (by decide) (by decide) (.inr (by decide)),
      get_put_beside _ _ (by decide) (by decide) (by decide) (.inr (by decide)),
      get_put_beside _ _ (by decide) (by decide) (by decide) (.inr (by decide)), Word.get_put_same _ _ (by decide) (by decide)]
    exact Nat.mod_eq_of_lt (initNum_lt i)
  · rw [bit_put _ _ (by decide) (by decide) (by decide), if_neg (by decide), bit_put _ _ (by decide) (by decide) (by decide),
      if_neg (by decide), bit_put_same _ _ (by decide)]
    cases write <;> rfl
  · rw [get_put_beside _ _ (by decide) (by decide) (by decide) (.inr (by decide)), Word.get_put_same _ _ (by decide) (by decide)]
    exact Nat.mod_eq_of_lt (widthNum_lt width)
  · rw [Word.get_put_same _ _ (by decide) (by decide)]
    exact Nat.mod_eq_of_lt (num_lt c)

section

variable {s : State} {d e : Dev} {i : Initiator} {write : Bool} {width a : Nat} {c : BusCode} {row : Instr}

theorem errCounted_counts (d : Dev) (c : BusCode) : Counted d (errCounted d c) Reg.SYS_BUS_ERR_CNT 31 0 := by
  unfold errCounted
  split
  · exact (counted_count32 Reg.SYS_BUS_ERR_CNT).of_rd_eq (Dev.rd_count32_ne _ (by decide))
  · exact counted_count32 _

theorem errCounted_off (d : Dev) (c : BusCode) : if c = .domainOff then Counted d (errCounted d c) Reg.SYS_DOMAIN_OFF 31 0
    else (errCounted d c).rd Reg.SYS_DOMAIN_OFF = d.rd Reg.SYS_DOMAIN_OFF := by
  unfold errCounted
  split
  · exact counted_from (counted_count32 _) (Dev.rd_count32_ne _ (by decide))
  · exact Dev.rd_count32_ne _ (by decide)

/-- What a bus error does is what the specification says of a stopped access. -/
theorem stopped_busError (d : Dev) (i : Initiator) (write : Bool) (width a : Nat) (c : BusCode) :
    Stopped d (d.busError i write width a c) i write width a c := by
  obtain ⟨m, sc, frame⟩ := d.busError_regs i write width a c
  have valid : ((errCounted d c).rd Reg.SYS_BUS_ERR_INFO) = d.rd Reg.SYS_BUS_ERR_INFO := rd_errCounted d c (by decide) (by decide)
  have addr : ((errCounted d c).rd Reg.SYS_BUS_ERR_ADDR) = d.rd Reg.SYS_BUS_ERR_ADDR := rd_errCounted d c (by decide) (by decide)
  have counts := errCounted_counts d c
  have off := errCounted_off d c
  have others (b : Nat) (out : b ∉ [Reg.SYS_BUS_ERR_CNT, Reg.SYS_DOMAIN_OFF, Reg.SYS_BUS_ERR_INFO, Reg.SYS_BUS_ERR_ADDR]) :
      (errCounted d c).rd b = d.rd b := rd_errCounted d c (fun h => out (by simp [h])) fun h => out (by simp [h])
  refine ⟨by rw [frame], ?_⟩
  rw [busError_eq, valid]
  cases recorded : (d.rd Reg.SYS_BUS_ERR_INFO).bit 31 with
  | true =>
    rw [if_pos rfl]
    exact ⟨counts, others, off, (if_pos rfl).mpr ⟨valid, addr⟩⟩
  | false =>
    obtain ⟨set, init, wrote, wide, code⟩ := errInfo_spec i write width c
    rw [if_neg Bool.false_ne_true]
    refine ⟨counts.of_rd_eq (rd_errRecorded _ _ _ (by decide) (by decide)), fun b out => ?_, ?_, ?_⟩
    · exact (rd_errRecorded _ _ _ (fun h => out (by simp [h])) fun h => out (by simp [h])).trans (others b out)
    · rw [Counted, rd_errRecorded _ _ _ (by decide) (by decide)]
      exact off
    · rw [errRecorded_info, errRecorded_addr]
      exact (if_neg Bool.false_ne_true).mpr ⟨set, init, wrote, wide, code, rfl⟩

/-! ### Accesses that Table 14.3 stops -/

theorem access_narrow (d : Dev) (m : Mem) (i : Initiator) (write : Bool) {width : Nat} (a data : Nat) (narrow : width ≠ 64) :
    access d m i write width a data = settleAccess (access32 d m i write width a data) := if_neg narrow

theorem access_stopped {m : Mem} {data : Nat} (narrow : width ≠ 64) (stops : d.stops i write width a = some c) :
    (access d m i write width a data).2 = settled (d.busError i write width a c, m) := by
  rw [access_narrow d m i write a data narrow, access32_stopped d m i write width a data c stops]
  rfl

/-- A row that is one access of a register. -/
def Accesses (s : State) (row : Instr) (i : Initiator) (write : Bool) (a : Nat) : Prop :=
  ∃ data, exec row s = onMem s fun d m => (access d m i write 32 a data).2

theorem stops_of_accesses (row' : Accesses s row i write a) {c : BusCode} (stops : s.dev.stops i write 32 a = some c) :
    ∃ d, Leads s row d ∧ Stopped s.dev d i write 32 a c := by
  obtain ⟨data, is⟩ := row'
  refine ⟨_, ?_, stopped_busError s.dev i write 32 a c⟩
  rw [Leads, is, onMem_eq, access_stopped (by decide) stops]
  rfl

theorem rowsStop : RowsStop := by
  intro s i w hi b t p c n k u iq x mem code stops
  suffices Accesses s x.1 i x.2.1 x.2.2 from stops_of_accesses this stops
  clear stops code
  revert x
  simp only [List.forall_mem_cons]
  exact ⟨⟨_, rfl⟩, ⟨_, rfl⟩, ⟨_, rfl⟩, ⟨_, rfl⟩, ⟨_, rfl⟩, ⟨_, rfl⟩, ⟨_, rfl⟩, ⟨_, rfl⟩, ⟨_, rfl⟩, ⟨_, rfl⟩, ⟨_, rfl⟩, ⟨_, rfl⟩, ⟨_, rfl⟩,
    ⟨_, rfl⟩, ⟨_, rfl⟩, ⟨_, rfl⟩, ⟨_, rfl⟩, ⟨_, rfl⟩, ⟨_, rfl⟩, ⟨_, rfl⟩, ⟨_, rfl⟩, ⟨_, rfl⟩, ⟨_, rfl⟩, ⟨_, rfl⟩, ⟨_, rfl⟩, ⟨_, rfl⟩,
    ⟨_, rfl⟩, ⟨_, rfl⟩, ⟨_, rfl⟩, ⟨_, rfl⟩, ⟨_, rfl⟩, ⟨_, rfl⟩, fun _ h => absurd h List.not_mem_nil⟩

theorem accessRegister (narrow : width = 8 ∨ width = 16 ∨ width = 32 ∨ width = 64) (low : a < 4294967296) (s : State) (i : Initiator)
    (x : BitVec 64) : exec (.registerWrite i width a x) s = onMem s fun d m => (access d m i true width a x.toNat).2 :=
  (if_pos narrow).trans (if_pos low)

theorem writesStop : WritesStop := by
  intro s i a x c low
  refine ⟨fun width narrow stops => ⟨_, ?_, stopped_busError s.dev i true width a c⟩, fun odd => ⟨_, ?_, stopped_busError s.dev i true 32 a .align⟩,
    fun even stops => ⟨_, ?_, stopped_busError s.dev i true 32 a c⟩⟩
  · rw [Leads, accessRegister (by omega) low, onMem_eq, access_stopped (by omega) stops]
    rfl
  · rw [Makes, accessRegister (by omega) low, onMem_eq, access, if_pos rfl, if_pos odd]
    rfl
  · rw [Leads, accessRegister (by omega) low, onMem_eq, access, if_pos rfl, if_neg (not_not.mpr even), access32_stopped _ _ _ _ _ _ _ _ stops]
    rfl

/-- Table 14.3, cause by cause. -/
theorem causesInOrder : CausesInOrder := by
  intro d i write width a
  dsimp only
  have partWord : ((write && decide (width < 32) && inBlock a) = true) ↔ (write = true ∧ width < 32 ∧ inBlock a = true) := by
    rw [Bool.and_eq_true, Bool.and_eq_true, decide_eq_true_iff, and_assoc]
  rw [← partWord, Dev.stops]
  by_cases align : a % (width / 8) = 0
  · cases narrow : write && decide (width < 32) && inBlock a with
    | true => simp [align]
    | false =>
      cases place : mapped a with
      | false => simp [align]
      | true =>
        cases forbid : d.forbidden i write a with
        | true => simp [align]
        | false => cases up : d.domainUp a <;> simp [align]
  · simp [align]

/-! ### An access without an answer (R378) -/

/-- The effect, if any, of a request that goes unanswered. -/
def unanswered (d : Dev) (m : Mem) (i : Initiator) (write : Bool) (a : Nat) : Dev × Mem :=
  if write then
    if Config.freeNat d.freeCtr % 2 == 1 then
      settled (reach { d with freeCtr := d.freeCtr + 2 } m i true 32 a (Config.freeWord (d.freeCtr + 1)).toNat).2
    else ({ d with freeCtr := d.freeCtr + 2 }, m)
  else (d, m)

theorem exec_busTimeout (block : inBlock a = true) (hopen : Open s i write a) : exec (.busTimeout i write a) s = onMem s fun d m =>
    (((unanswered d m i write a).1.busError i write 32 a .timeout).report (toSrc 223), (unanswered d m i write a).2) := by
  have runs : ¬ (!inBlock a || (s.dev.stops i write 32 a).isSome) = true := by
    rw [block, show s.dev.stops i write 32 a = none from hopen]
    decide
  have row (x y : Dev × Mem) (is : x = y) : (Host.Outcome.next { s with dev := x.1, mem := x.2 } : Out) = .next { s with dev := y.1, mem := y.2 } := by
    rw [is]
  exact row _ _ (if_neg runs)

theorem timeoutAnswers : TimeoutAnswers := by
  intro s i a block
  refine ⟨fun hopen => ⟨_, stopped_busError s.dev i false 32 a .timeout, exec_busTimeout block hopen⟩, fun hopen => ?_⟩
  refine ⟨unanswered s.dev s.mem i true a, ?_, _, stopped_busError _ i true 32 a .timeout, exec_busTimeout block hopen⟩
  by_cases hit : (Config.freeNat s.dev.freeCtr % 2 == 1) = true
  · exact .inr ⟨_, (if_pos rfl).trans (if_pos hit)⟩
  · exact .inl ((if_pos rfl).trans (if_neg hit))

end

/-- Settles O42: Table 14.3 names the first of its causes that an access meets, and a stopped access is a bus error and nothing else. -/
theorem failedAccessesChangeNothing : Obligations.FailedAccessesChangeNothing :=
  ⟨rowsStop, writesStop, causesInOrder, timeoutAnswers⟩

end Sys2Proof.Cert

/-! PROOFS. The management SPI (O46): write frames and their queue, its drain, read frames, the status and the frame's end. -/

namespace Sys2Proof.Machine

/-! ### Accesses that nothing stops, with their answers -/

section

variable {d : Dev} {i : Initiator} {write : Bool} {a : Nat} {c : BusCode}

theorem aligned_of_open (hopen : d.stops i write 32 a = none) : a / 4 * 4 = a := by
  by_cases aligned : a % (32 / 8) = 0
  · omega
  · rw [Dev.stops, if_pos aligned] at hopen
    exact absurd hopen (by simp)

theorem access_write_data (m : Mem) (data : Nat) (hopen : d.stops i true 32 a = none) (block : inBlock a = true) (lut : a ≠ Reg.DPD_LUT_DATA) :
    access d m i true 32 a data = (.data 0, settled (d.writeReg i a (low32 data), m)) := by
  simp [access, access32, reach, settleAccess, hopen, block, aligned_of_open hopen, lut]

theorem low32_ofNat (x : BitVec 64) : low32 x.toNat = x.setWidth 32 := BitVec.ofNat_toNat ..

theorem low32_toNat (w : Word) : low32 w.toNat = w := by rw [low32, BitVec.ofNat_toNat, BitVec.setWidth_eq]

theorem access_write (m : Mem) (w : Word) (hopen : d.stops i true 32 a = none) (block : inBlock a = true) (lut : a ≠ Reg.DPD_LUT_DATA) :
    access d m i true 32 a w.toNat = (.data 0, settled (d.writeReg i a w, m)) := by
  rw [access_write_data m _ hopen block lut, low32_toNat]

theorem access_read (m : Mem) (data : Nat) (hopen : d.stops i false 32 a = none) (block : inBlock a = true) (lut : a ≠ Reg.DPD_LUT_DATA) :
    access d m i false 32 a data = (.data (d.readReg m a).1.toNat, settled ((d.readReg m a).2, m)) := by
  have low : a % 4 = 0 := by have := aligned_of_open hopen; omega
  have whole : (d.readReg m a).1.toNat % 4294967296 = (d.readReg m a).1.toNat := Nat.mod_eq_of_lt (d.readReg m a).1.isLt
  simp [access, access32, reach, settleAccess, hopen, block, aligned_of_open hopen, lut, low, whole]

theorem access_error (m : Mem) (data : Nat) (stops : d.stops i write 32 a = some c) :
    access d m i write 32 a data = (.error c, settled (d.busError i write 32 a c, m)) := by
  rw [access, if_neg (by decide), access32_stopped _ _ _ _ _ _ _ _ stops]
  rfl

end

/-! ### The words of a write frame -/

section

variable {d : Dev} {addr : Nat} {fix : Bool}

/-- The entries that the words of a frame make in the queue. -/
def spiEntries (addr : Nat) (fix : Bool) (f : Nat) (ws : List (Word × Nat)) : List (Nat × Word × Nat) :=
  ws.map fun x => (wordAddr addr x.2 fix, x.1, f)

/-- The words of a frame, one after the other. -/
def Dev.spiWords (d : Dev) (addr : Nat) (fix : Bool) (ws : List (Word × Nat)) : Dev :=
  ws.foldl (fun d x => d.spiWord (wordAddr addr x.2 fix) x.1) d

/-- A write word as it finds the queue full. -/
def Dev.spiLost (d : Dev) (a : Nat) : Dev := (d.spiError BusCode.overrun.num).busError .spi true 32 a .overrun

theorem Dev.spiWord_room {a : Nat} {w : Word} (good : d.spi.failed ≠ some d.spi.frame) (room : d.spi.queue.length < 8) :
    d.spiWord a w = d.modSpi fun x => { x with queue := x.queue ++ [(a, w, x.frame)] } :=
  (if_neg good).trans (if_neg (by omega))

theorem Dev.spiWord_full {a : Nat} {w : Word} (good : d.spi.failed ≠ some d.spi.frame) (full : 8 ≤ d.spi.queue.length) :
    d.spiWord a w = d.spiLost a := (if_neg good).trans (if_pos full)

theorem Dev.spiWords_nil : d.spiWords addr fix [] = d := rfl

theorem Dev.spiWords_cons (x : Word × Nat) (ws : List (Word × Nat)) :
    d.spiWords addr fix (x :: ws) = (d.spiWord (wordAddr addr x.2 fix) x.1).spiWords addr fix ws := rfl

/-- Words that find room queue in order. -/
theorem Dev.spiWords_fit (ws : List (Word × Nat)) (good : d.spi.failed ≠ some d.spi.frame) (room : d.spi.queue.length + ws.length ≤ 8) :
    d.spiWords addr fix ws = d.modSpi fun x => { x with queue := x.queue ++ spiEntries addr fix x.frame ws } := by
  induction ws generalizing d with
  | nil => simp [Dev.spiWords, Dev.modSpi, spiEntries]
  | cons x ws more =>
    rw [List.length_cons] at room
    rw [Dev.spiWords_cons, Dev.spiWord_room good (by omega), more (by exact good) (by simp [Dev.modSpi]; omega)]
    simp [Dev.modSpi, spiEntries]

end

end Sys2Proof.Machine

namespace Sys2Proof.Cert

open Sys2Proof.Machine

/-- With no command held, nothing waiting and nothing to land, nothing follows. -/
theorem settled_quiet {d : Dev} (m : Mem) (quiet : Quiet d) : settled (d, m) = (d, m) := by
  obtain ⟨held, running | ⟨changes, proposals⟩⟩ := quiet
  · exact settled_running d m running held
  · simp [settled, settle_quiet m changes proposals, Dev.finalise, Dev.finals_nil _ _ _ held]

section

variable {s : State} {d e : Dev} {addr : Nat} {fix : Bool}

/-- The registers of a bus error that does not come from a domain that is off. -/
def errRegs : List Nat := [Reg.SYS_BUS_ERR_CNT, Reg.SYS_BUS_ERR_INFO, Reg.SYS_BUS_ERR_ADDR]

theorem Word.get_whole (w : Word) : w.get 31 0 = w.toNat := by
  refine Nat.eq_of_testBit_eq fun j => ?_
  rw [Word.testBit_get, Nat.zero_add, Word.bit]
  by_cases inside : j < 31 + 1 - 0
  · rw [decide_eq_true inside, Bool.true_and]
  · rw [decide_eq_false inside, Bool.false_and, Nat.testBit_lt_two_pow (lt_of_lt_of_le w.isLt (Nat.pow_le_pow_right (by decide) (by omega)))]

/-- What `lost` words that find the queue full leave. -/
def LostWords (d e : Dev) (lost : Nat) : Prop :=
  e = { d with spi := e.spi, regs := e.regs, same := e.same } ∧ SameRegsBut errRegs d e ∧
    (e.rd Reg.SYS_BUS_ERR_CNT).toNat = min ((d.rd Reg.SYS_BUS_ERR_CNT).toNat + lost) (2 ^ 32 - 1)

theorem lostWords_of_spi {x : Spi} : LostWords d { d with spi := x } 0 :=
  ⟨rfl, fun _ _ => rfl, by rw [Nat.add_zero, min_eq_left]; rfl; have := (d.rd Reg.SYS_BUS_ERR_CNT).isLt; omega⟩

theorem LostWords.trans {f : Dev} {n m : Nat} (one : LostWords d e n) (two : LostWords e f m) : LostWords d f (n + m) := by
  obtain ⟨frame, regs, count⟩ := one
  obtain ⟨frame', regs', count'⟩ := two
  refine ⟨?_, regs.trans regs', by rw [count', count]; omega⟩
  rw [frame', frame]

theorem stopped_spiLost (d : Dev) (a : Nat) :
    Stopped { d with spi := { d.spi with err := true, code := if d.spi.err then d.spi.code else BusCode.overrun.num } } (d.spiLost a)
      .spi true 32 a .overrun := stopped_busError _ ..

theorem spiLost_spi (d : Dev) (a : Nat) :
    (d.spiLost a).spi = { d.spi with err := true, code := if d.spi.err then d.spi.code else BusCode.overrun.num } := by
  obtain ⟨frame, -⟩ := stopped_spiLost d a
  rw [frame]

theorem lostWords_of_stopped {x : Spi} {i : Initiator} {write : Bool} {width a : Nat} {c : BusCode}
    (stopped : Stopped { d with spi := x } e i write width a c) (other : c ≠ .domainOff) : LostWords d e 1 := by
  obtain ⟨frame, counts, regs, off, -⟩ := stopped
  rw [if_neg other] at off
  refine ⟨by rw [frame], fun b out => ?_, ?_⟩
  · by_cases isOff : b = Reg.SYS_DOMAIN_OFF
    · rw [isOff]
      exact off
    · exact regs b fun h => by
        simp only [errRegs, List.mem_cons, List.not_mem_nil, or_false, not_or] at out h
        tauto
  · rw [Counted, Word.get_whole, Word.get_whole] at counts
    exact counts

theorem lostWords_spiLost (d : Dev) (a : Nat) : LostWords d (d.spiLost a) 1 := lostWords_of_stopped (stopped_spiLost d a) (by decide)

/-- The words of a frame: those that find room queue, the others are lost. -/
theorem spiWords_spec (ws : List (Word × Nat)) (good : d.spi.failed ≠ some d.spi.frame) (room : d.spi.queue.length ≤ 8) :
    let lost := d.spi.queue.length + ws.length - 8
    LostWords d (d.spiWords addr fix ws) lost ∧ (d.spiWords addr fix ws).spi = { d.spi with
      err := d.spi.err || decide (0 < lost), code := if 0 < lost ∧ d.spi.err = false then BusCode.overrun.num else d.spi.code
      queue := (d.spi.queue ++ spiEntries addr fix d.spi.frame ws).take 8 } := by
  induction ws generalizing d with
  | nil =>
    refine ⟨by rw [List.length_nil, Nat.add_zero, Nat.sub_eq_zero_of_le room]; exact lostWords_of_spi, ?_⟩
    simp [Dev.spiWords, spiEntries, Nat.sub_eq_zero_of_le room, List.take_of_length_le room]
  | cons x ws more =>
    rw [Dev.spiWords_cons]
    by_cases full : 8 ≤ d.spi.queue.length
    · have eight : d.spi.queue.length = 8 := by omega
      have spi := spiLost_spi d (wordAddr addr x.2 fix)
      rw [Dev.spiWord_full good full]
      obtain ⟨lost, is⟩ := more (d := d.spiLost (wordAddr addr x.2 fix)) (by rw [spi]; exact good) (by rw [spi]; exact room)
      rw [spi] at lost is
      refine ⟨?_, ?_⟩
      · have both := (lostWords_spiLost d _).trans lost
        convert both using 1
        simp only [List.length_cons]
        omega
      · rw [is]
        cases early : d.spi.err <;> simp [eight, spiEntries]
    · rw [Dev.spiWord_room good (by omega)]
      obtain ⟨lost, is⟩ := more (d := d.modSpi fun y => { y with queue := y.queue ++ [(wordAddr addr x.2 fix, x.1, y.frame)] })
        (by exact good) (by simp [Dev.modSpi]; omega)
      refine ⟨?_, ?_⟩
      · have both := lostWords_of_spi.trans lost
        convert both using 1
        simp only [Dev.modSpi, List.length_append, List.length_cons, List.length_nil]
        omega
      · have same : d.spi.queue.length + (x :: ws).length - 8 =
            (d.spi.queue ++ [(wordAddr addr x.2 fix, x.1, d.spi.frame)]).length + ws.length - 8 := by
          simp only [List.length_append, List.length_cons, List.length_nil]
          omega
        rw [is, same]
        simp [Dev.modSpi, spiEntries]

/-! ### Write frames -/

theorem Makes.of_eq {c : Instr} (makes : Makes s c d) (is : d = e) : Makes s c e := is ▸ makes

/-- The device as a frame of words has begun. -/
def Dev.spiBegun (d : Dev) : Dev := d.modSpi fun x => { x with frame := x.frame + 1 }

theorem spiWriteFrame_eq (powered : d.power.fabric = true) (ws : List Word) :
    d.spiWriteFrame addr fix ws = (Dev.spiBegun d).spiWords addr fix ws.zipIdx := by
  rw [Dev.spiWriteFrame, if_neg (by rw [powered]; decide)]
  rfl

theorem spiEntries_up (a f : Nat) (ws : List (Word × Nat)) :
    spiEntries a false f ws = ws.map fun y => ((a + 4 * y.2) % 4294967296, y.1, f) := rfl

theorem spiEntries_fix (a f : Nat) (ws : List (Word × Nat)) : spiEntries a true f ws = ws.map fun y => (a, y.1, f) := rfl

theorem wordAddr_first (a : Word) (fix : Bool) : wordAddr a.toNat 0 fix = a.toNat := by
  cases fix
  · exact Nat.mod_eq_of_lt a.isLt
  · rfl

theorem lostWords_of_begun {n : Nat} (lost : LostWords (Dev.spiBegun d) e n) : LostWords d e n := by
  have both := (lostWords_of_spi (x := (Dev.spiBegun d).spi)).trans (show LostWords { d with spi := (Dev.spiBegun d).spi } e n from lost)
  rwa [Nat.zero_add] at both

/-- What a write frame makes of the SPI and of the counters of bus errors. -/
def Queues (d e : Dev) (entries : List (Nat × Word × Nat)) (n : Nat) : Prop :=
  LostWords d e (d.spi.queue.length + n - 8) ∧ e.spi = { d.spi with
    frame := d.spi.frame + 1, err := d.spi.err || decide (0 < d.spi.queue.length + n - 8)
    code := if 0 < d.spi.queue.length + n - 8 ∧ d.spi.err = false then BusCode.overrun.num else d.spi.code
    queue := (d.spi.queue ++ entries).take 8 }

theorem queues_words (d : Dev) (addr : Nat) (fix : Bool) (ws : List Word) (good : d.spi.failed ≠ some (d.spi.frame + 1))
    (bound : d.spi.queue.length ≤ 8) :
    Queues d ((Dev.spiBegun d).spiWords addr fix ws.zipIdx) (spiEntries addr fix (d.spi.frame + 1) ws.zipIdx) ws.length := by
  obtain ⟨lost, spi⟩ := spiWords_spec (d := Dev.spiBegun d) (addr := addr) (fix := fix) ws.zipIdx good bound
  rw [List.length_zipIdx] at lost spi
  exact ⟨lostWords_of_begun lost, spi⟩

theorem spiWords_lone (d : Dev) (a w : Word) (fix : Bool) (good : d.spi.failed ≠ some (d.spi.frame + 1)) (full : 8 ≤ d.spi.queue.length) :
    (Dev.spiBegun d).spiWords a.toNat fix [w].zipIdx = (Dev.spiBegun d).spiLost a.toNat := by
  rw [List.zipIdx_singleton, Dev.spiWords_cons, Dev.spiWord_full (d := Dev.spiBegun d) good full, wordAddr_first,
    Dev.spiWords_nil]

theorem makes_spiWrite (a : Word) (ws : List Word) (powered : s.dev.power.fabric = true) :
    Makes s (.spiWrite a ws) ((Dev.spiBegun s.dev).spiWords a.toNat false ws.zipIdx) := spiWriteFrame_eq powered ws ▸ rfl

theorem makes_spiWriteFix (a : Word) (ws : List Word) (powered : s.dev.power.fabric = true) :
    Makes s (.spiWriteFix a ws) ((Dev.spiBegun s.dev).spiWords a.toNat true ws.zipIdx) := spiWriteFrame_eq powered ws ▸ rfl

theorem spiWords_fits (d : Dev) (addr : Nat) (fix : Bool) (ws : List Word) (good : d.spi.failed ≠ some (d.spi.frame + 1))
    (room : d.spi.queue.length + ws.length ≤ 8) : (Dev.spiBegun d).spiWords addr fix ws.zipIdx = { d with spi := { d.spi with
      frame := d.spi.frame + 1, queue := d.spi.queue ++ spiEntries addr fix (d.spi.frame + 1) ws.zipIdx } } :=
  Dev.spiWords_fit ws.zipIdx good (by rw [List.length_zipIdx]; exact room)

/-- A word that finds eight waiting is lost, whatever the form of its frame. -/
theorem lost_lone {c : Instr} {a w : Word} {fix : Bool} (good : s.dev.spi.failed ≠ some (s.dev.spi.frame + 1))
    (full : 8 ≤ s.dev.spi.queue.length) (row : Makes s c ((Dev.spiBegun s.dev).spiWords a.toNat fix [w].zipIdx)) :
    ∃ d, Makes s c d ∧ d.spi = { s.dev.spi with
        frame := s.dev.spi.frame + 1, err := true, code := if s.dev.spi.err then s.dev.spi.code else BusCode.overrun.num } ∧
      Stopped (withSpi s d.spi) d .spi true 32 a.toNat .overrun := by
  have spi := spiLost_spi (Dev.spiBegun s.dev) a.toNat
  have stopped := stopped_spiLost (Dev.spiBegun s.dev) a.toNat
  refine ⟨_, row.of_eq (spiWords_lone s.dev a w fix good full), spi, ?_⟩
  rw [spi]
  exact stopped

theorem spiWrites : SpiWrites := by
  intro s a w ws powered good
  refine ⟨fun room => ⟨?_, ?_⟩, fun full => ?_, fun bound => ?_⟩
  · exact (makes_spiWrite a ws powered).of_eq (spiWords_fits s.dev a.toNat false ws good room)
  · exact (makes_spiWriteFix a ws powered).of_eq (spiWords_fits s.dev a.toNat true ws good room)
  · rintro c (rfl | rfl)
    · exact lost_lone good full (makes_spiWrite a [w] powered)
    · exact lost_lone good full (makes_spiWriteFix a [w] powered)
  · have same : (ws.zipIdx.map fun y => ((a.toNat + 0 * y.2) % 4294967296, y.1, s.dev.spi.frame + 1)) =
        spiEntries a.toNat true (s.dev.spi.frame + 1) ws.zipIdx := by
      simp only [Nat.zero_mul, Nat.add_zero, Nat.mod_eq_of_lt a.isLt]
      rfl
    obtain ⟨⟨frame, regs, count⟩, spi⟩ := queues_words s.dev a.toNat false ws good bound
    obtain ⟨⟨frame', regs', count'⟩, spi'⟩ := queues_words s.dev a.toNat true ws good bound
    simp only [List.forall_mem_cons]
    refine ⟨⟨_, makes_spiWrite a ws powered, frame, spi, regs, count⟩, ⟨_, makes_spiWriteFix a ws powered, frame', ?_, regs', count'⟩,
      fun _ h => absurd h List.not_mem_nil⟩
    rw [same]
    exact spi'

/-! ### The drain of the queue -/

/-- The SPI as a queued write of frame `f` has failed with `code`. -/
def Spi.writeFailed (x : Spi) (f code : Nat) : Spi :=
  { x with queue := x.queue.filter (fun y => y.2.2 != f), failed := some f, err := true, code := if x.err then x.code else code }

theorem spiIssue_open {a f : Nat} {w : Word} {rest : List (Nat × Word × Nat)} {m : Mem} {x : Dev × Mem}
    (head : d.spi.queue = (a, w, f) :: rest) {v : Nat}
    (reached : access { d with spi := { d.spi with queue := rest } } m .spi true 32 a w.toNat = (.data v, x)) : spiIssue d m = x := by
  unfold spiIssue
  rw [head]
  dsimp only [Dev.modSpi]
  rw [reached]

theorem spiIssue_error {a f : Nat} {w : Word} {rest : List (Nat × Word × Nat)} {m : Mem} {x : Dev × Mem} {c : BusCode}
    (head : d.spi.queue = (a, w, f) :: rest)
    (failed : access { d with spi := { d.spi with queue := rest } } m .spi true 32 a w.toNat = (.error c, x)) :
    spiIssue d m = ({ x.1 with spi := Spi.writeFailed x.1.spi f c.num }, x.2) := by
  unfold spiIssue
  rw [head]
  dsimp only [Dev.modSpi]
  rw [failed]
  rfl

theorem spiDrains : SpiDrains := by
  intro s a f w rest head
  refine ⟨fun hopen block lut => ?_, fun c stops => ⟨_, stopped_busError _ .spi true 32 a c, ?_⟩⟩
  · exact congrArg (fun x : Dev × Mem => (.next { s with dev := x.1, mem := x.2 } : Out)) (spiIssue_open head (access_write s.mem w hopen block lut))
  · exact congrArg (fun x : Dev × Mem => (.next { s with dev := x.1, mem := x.2 } : Out)) (spiIssue_error head (access_error s.mem w.toNat stops))

/-! ### Read frames -/

/-- The device as a read frame has begun. -/
def Dev.spiReadBegun (d : Dev) : Dev := d.modSpi fun x => { x with frame := x.frame + 1, sync := [], sdo := [] }

theorem spiReadFrame_eq (powered : d.power.fabric = true) (m : Mem) (n : Nat) : spiReadFrame d m addr fix n =
    spiReadWords n addr fix 0 none (Dev.spiReadBegun (spiDrain d m).1) (spiDrain d m).2 :=
  if_neg (by rw [powered]; decide)

theorem spiDrain_empty (m : Mem) (empty : d.spi.queue = []) : spiDrain d m = (d, m) := by
  rw [spiDrain, empty]
  rfl

/-- Once the writes that wait are drained, a read frame reads. -/
theorem spiReadFrame_drained (m : Mem) (n : Nat) (powered : d.power.fabric = true) (empty : (spiDrain d m).1.spi.queue = [])
    (still : (spiDrain d m).1.power.fabric = true) :
    spiReadFrame d m addr fix n = spiReadFrame (spiDrain d m).1 (spiDrain d m).2 addr fix n := by
  rw [spiReadFrame_eq powered, spiReadFrame_eq still, spiDrain_empty _ empty]

/-- What a read frame shows: one sync byte and one word more. -/
def Spi.shows (x : Spi) (sync : List Nat) (sdo : List Word) : Spi := { x with sync := x.sync ++ sync, sdo := x.sdo ++ sdo }

theorem spiReadWords_data {m : Mem} {n k v : Nat} {x : Dev × Mem} (reached : access d m .spi false 32 (wordAddr addr k fix) 0 = (.data v, x)) :
    spiReadWords (n + 1) addr fix k none d m =
      spiReadWords n addr fix (k + 1) none { x.1 with spi := Spi.shows x.1.spi [0xA5] [low32 v] } x.2 := by
  rw [spiReadWords, reached]
  rfl

theorem spiReadWords_error {m : Mem} {n k : Nat} {x : Dev × Mem} {c : BusCode}
    (failed : access d m .spi false 32 (wordAddr addr k fix) 0 = (.error c, x)) :
    spiReadWords (n + 1) addr fix k none d m = spiReadWords n addr fix (k + 1) (some (0xE0 + c.num))
      { x.1 with spi := Spi.shows { x.1.spi with err := true, code := if x.1.spi.err then x.1.spi.code else c.num } [0xE0 + c.num] [0] } x.2 := by
  rw [spiReadWords, failed]
  rfl

/-- After a failure the error byte and zeros follow (R385). -/
theorem spiReadWords_failed (n k e : Nat) (m : Mem) : spiReadWords n addr fix k (some e) d m =
    ({ d with spi := Spi.shows d.spi (List.replicate n e) (List.replicate n 0) }, m) := by
  induction n generalizing d k with
  | zero => simp [spiReadWords, Spi.shows]
  | succ n more =>
    rw [spiReadWords, more]
    simp [Spi.shows, Dev.modSpi, List.replicate_succ]

/-- A read of one word that nothing stops. -/
theorem spiReadWords_one {a : Word} {m : Mem} (hopen : d.stops .spi false 32 a.toNat = none) (block : inBlock a.toNat = true)
    (lut : a.toNat ≠ Reg.DPD_LUT_DATA) : spiReadWords 1 a.toNat fix 0 none d m =
      ({ (settled ((d.readReg m a.toNat).2, m)).1 with
        spi := Spi.shows (settled ((d.readReg m a.toNat).2, m)).1.spi [0xA5] [(d.readReg m a.toNat).1] },
      (settled ((d.readReg m a.toNat).2, m)).2) := by
  rw [spiReadWords_data (by rw [wordAddr_first]; exact access_read m 0 hopen block lut), low32_toNat]
  rfl

/-- Words whose read changes nothing. -/
theorem spiReadWords_plain {v : Nat → Word} {m : Mem} (n k : Nat) (quiet : Quiet d)
    (plain : ∀ j, k ≤ j → j < k + n → ∀ x : Spi, ({ d with spi := x } : Dev).stops .spi false 32 (wordAddr addr j fix) = none ∧
      inBlock (wordAddr addr j fix) = true ∧ wordAddr addr j fix ≠ Reg.DPD_LUT_DATA ∧
      ({ d with spi := x } : Dev).readReg m (wordAddr addr j fix) = (v j, { d with spi := x })) :
    spiReadWords n addr fix k none d m =
      ({ d with spi := Spi.shows d.spi (List.replicate n 0xA5) ((List.range' k n).map v) }, m) := by
  induction n generalizing d k with
  | zero => simp [spiReadWords, Spi.shows]
  | succ n more =>
    obtain ⟨hopen, block, lut, reads⟩ := plain k (le_refl k) (by omega) d.spi
    have reached := access_read m 0 hopen block lut
    rw [reads, settled_quiet m quiet] at reached
    have next := more (d := { d with spi := Spi.shows d.spi [0xA5] [v k] }) (k + 1) (by exact quiet)
      fun j low high x => plain j (by omega) (by omega) x
    rw [spiReadWords_data reached, low32_toNat]
    refine next.trans ?_
    simp [Spi.shows, List.replicate_succ, List.range'_succ]

/-- Where the SPI stands does not matter to what stops an access. -/
theorem stops_of_spi (d : Dev) (x : Spi) (i : Initiator) (write : Bool) (width a : Nat) :
    ({ d with spi := x } : Dev).stops i write width a = d.stops i write width a := rfl

theorem spiReadFrame_empty (powered : d.power.fabric = true) (empty : d.spi.queue = []) (m : Mem) (n : Nat) :
    spiReadFrame d m addr fix n = spiReadWords n addr fix 0 none (Dev.spiReadBegun d) m := by
  rw [spiReadFrame_eq powered, spiDrain_empty m empty]

/-- What a read frame that has failed with `failed`, or with nothing, leaves of the SPI. -/
def Spi.readEnds (x : Spi) (sync : List Nat) (sdo : List Word) (failed : Option Nat) : Spi :=
  { x with
    sync := x.sync ++ sync, sdo := x.sdo ++ sdo, err := x.err || failed.isSome
    code := if x.err then x.code else failed.getD x.code }

theorem readEnds_none (x : Spi) (sync : List Nat) (sdo : List Word) : Spi.readEnds x sync sdo none = Spi.shows x sync sdo := by
  cases early : x.err <;> simp [Spi.readEnds, Spi.shows, early]

theorem readEnds_some (x : Spi) (sync : List Nat) (sdo : List Word) (e : Nat) : Spi.readEnds x sync sdo (some e) =
    Spi.shows { x with err := true, code := if x.err then x.code else e } sync sdo := by
  simp [Spi.readEnds, Spi.shows]

/-- The state as an operation on device and memory leaves it. -/
def outOf (s : State) (x : Dev × Mem) : Out := .next { s with dev := x.1, mem := x.2 }

theorem exec_spiRead (a : Word) (n : Nat) : exec (.spiRead a n) s = outOf s (spiReadFrame s.dev s.mem a.toNat false n) := rfl

theorem exec_spiReadFix (a : Word) (n : Nat) : exec (.spiReadFix a n) s = outOf s (spiReadFrame s.dev s.mem a.toNat true n) := rfl

/-- A read of one word that nothing stops, in either form of frame. -/
theorem spiReadFrame_one {a : Word} (m : Mem) (powered : d.power.fabric = true) (empty : d.spi.queue = [])
    (hopen : (Dev.spiReadBegun d).stops .spi false 32 a.toNat = none) (block : inBlock a.toNat = true) (lut : a.toNat ≠ Reg.DPD_LUT_DATA)
    {x : Dev × Mem} {w : Word} (word : ((Dev.spiReadBegun d).readReg m a.toNat).1 = w)
    (ends : settled (((Dev.spiReadBegun d).readReg m a.toNat).2, m) = x) :
    spiReadFrame d m a.toNat fix 1 = ({ x.1 with spi := Spi.readEnds x.1.spi [0xA5] [w] none }, x.2) := by
  rw [spiReadFrame_empty powered empty, spiReadWords_one hopen block lut, word, ends, readEnds_none]

/-- A read frame whose first word is stopped, in either form of frame. -/
theorem spiReadFrame_error {a : Word} (m : Mem) {n : Nat} {e : BusCode} (powered : d.power.fabric = true) (empty : d.spi.queue = [])
    (stops : (Dev.spiReadBegun d).stops .spi false 32 a.toNat = some e) (words : 0 < n) {x : Dev × Mem}
    (ends : settled ((Dev.spiReadBegun d).busError .spi false 32 a.toNat e, m) = x) : spiReadFrame d m a.toNat fix n =
      ({ x.1 with spi := Spi.readEnds x.1.spi (List.replicate n (0xE0 + e.num)) (List.replicate n 0) (some e.num) }, x.2) := by
  obtain ⟨n, rfl⟩ := Nat.exists_eq_succ_of_ne_zero (Nat.pos_iff_ne_zero.mp words)
  rw [spiReadFrame_empty powered empty, spiReadWords_error (by rw [wordAddr_first]; exact access_error m 0 stops), ends, spiReadWords_failed,
    readEnds_some]
  simp [Spi.shows, List.replicate_succ]

/-- A read frame whose words' reads change nothing. -/
theorem spiReadFrame_plain {v : Nat → Word} {m : Mem} {n : Nat} (powered : d.power.fabric = true) (empty : d.spi.queue = [])
    (quiet : Quiet d) (plain : ∀ j, j < n → ∀ x : Spi, ({ d with spi := x } : Dev).stops .spi false 32 (wordAddr addr j fix) = none ∧
      inBlock (wordAddr addr j fix) = true ∧ wordAddr addr j fix ≠ Reg.DPD_LUT_DATA ∧
      ({ d with spi := x } : Dev).readReg m (wordAddr addr j fix) = (v j, { d with spi := x })) :
    spiReadFrame d m addr fix n = ({ d with spi := { d.spi with
      frame := d.spi.frame + 1, sync := List.replicate n 0xA5, sdo := (List.range n).map v } }, m) := by
  have reads := spiReadWords_plain (d := Dev.spiReadBegun d) (m := m) (v := v) (addr := addr) (fix := fix) n 0 (by exact quiet)
    fun j _ high x => plain j (by omega) x
  rw [spiReadFrame_empty powered empty, reads, ← List.range_eq_range']
  simp [Dev.spiReadBegun, Dev.modSpi, Spi.shows]

theorem spiReads : SpiReads := by
  intro s a n powered
  refine ⟨fun empty still => ?_, fun empty => ⟨fun hopen block lut => ?_, fun e stops words => ?_, fun v step quiet plain => ?_⟩⟩
  · simp only [List.forall_mem_cons]
    exact ⟨congrArg (outOf s) (spiReadFrame_drained s.mem n powered empty still),
      congrArg (outOf s) (spiReadFrame_drained s.mem n powered empty still), fun _ h => absurd h List.not_mem_nil⟩
  · simp only [List.forall_mem_cons]
    exact ⟨congrArg (outOf s) (spiReadFrame_one s.mem powered empty hopen block lut rfl rfl),
      congrArg (outOf s) (spiReadFrame_one s.mem powered empty hopen block lut rfl rfl), fun _ h => absurd h List.not_mem_nil⟩
  · simp only [List.forall_mem_cons]
    have stopped := stopped_busError (Dev.spiReadBegun s.dev) .spi false 32 a.toNat e
    exact ⟨⟨_, stopped, congrArg (outOf s) (spiReadFrame_error s.mem powered empty stops words rfl)⟩,
      ⟨_, stopped, congrArg (outOf s) (spiReadFrame_error s.mem powered empty stops words rfl)⟩, fun _ h => absurd h List.not_mem_nil⟩
  · have plain' (fix : Bool) (steps : ∀ k, wordAddr a.toNat k fix = (a.toNat + step * k) % 4294967296) :
        ∀ j, j < n → ∀ x : Spi, ({ s.dev with spi := x } : Dev).stops .spi false 32 (wordAddr a.toNat j fix) = none ∧
          inBlock (wordAddr a.toNat j fix) = true ∧ wordAddr a.toNat j fix ≠ Reg.DPD_LUT_DATA ∧
          ({ s.dev with spi := x } : Dev).readReg s.mem (wordAddr a.toNat j fix) = (v j, { s.dev with spi := x }) := by
      intro j low x
      rw [steps]
      obtain ⟨hopen, block, lut, reads⟩ := plain j low
      exact ⟨hopen, block, lut, reads x⟩
    rintro c (⟨rfl, rfl⟩ | ⟨rfl, rfl⟩)
    · exact congrArg (outOf s) (spiReadFrame_plain powered empty quiet (plain' false fun _ => rfl))
    · exact congrArg (outOf s) (spiReadFrame_plain powered empty quiet (plain' true fun k => by
        rw [Nat.zero_mul, Nat.add_zero, Nat.mod_eq_of_lt a.isLt]
        rfl))

/-! ### The status and the ends of frames -/

theorem spiStatusAndEnds : SpiStatusAndEnds := by
  intro s o
  refine ⟨fun powered => ?_, fun off => ?_⟩
  · refine ⟨?_, ?_, rfl, fun unknown => ?_⟩
    · exact congrArg (fun d => (.next (withDev s d) : Out)) (if_neg (by rw [powered]; decide))
    · exact congrArg (fun d => (.next (withDev s d) : Out)) (if_pos (by rw [powered]; rfl))
    · exact congrArg (fun d => (.next (withDev s d) : Out)) (if_neg (by simp [unknown, powered]))
  · intro a ws n
    simp only [List.forall_mem_cons]
    have down : (!s.dev.power.fabric) = true := by rw [off]; rfl
    refine ⟨?_, ?_, ?_, ?_, ?_, ?_, ?_, fun _ h => absurd h List.not_mem_nil⟩
    · exact congrArg (fun d => (.next (withDev s d) : Out)) (if_pos down)
    · exact congrArg (fun d => (.next (withDev s d) : Out)) (if_pos down)
    · exact congrArg (outOf s) (if_pos down)
    · exact congrArg (outOf s) (if_pos down)
    · exact congrArg (fun d => (.next (withDev s d) : Out)) (if_pos down)
    · exact congrArg (fun d => (.next (withDev s d) : Out)) (if_neg (by rw [off]; decide))
    · exact congrArg (fun d => (.next (withDev s d) : Out)) (if_pos (by rw [off]; exact Bool.or_true _))

end

/-- Settles O46: each frame of the management SPI does what chapter 14 says. -/
theorem managementSpi : Obligations.ManagementSpi := ⟨spiWrites, spiDrains, spiReads, spiStatusAndEnds⟩

end Sys2Proof.Cert

/-! PROOFS. Register access over the link (O47): a request leaves the ring, makes its accesses, and is answered. -/

namespace Sys2Proof.Cert

open Sys2Proof.Machine

section

variable {d : Dev} {m : Mem} {p : Packet} {op n k a : Nat} {fix write : Bool} {data got : List Word}

/-- The words that a request brings for its accesses. -/
def regBody (p : Packet) (op : Nat) : List Word := if op % 8 == 2 then (p.words.drop 2).take (regCount p) else []

/-- The data of a request, opened where it is authenticated. -/
def regOpened (d : Dev) (p : Packet) (op : Nat) : Option (List Word) × Dev :=
  if op < 8 then (some (regBody p op), d)
  else
    let x := d.authOpen false ((p.words.getD 0 0).get 11 0) ((p.words.take 2).flatMap beBytes) ((regBody p op).flatMap beBytes)
      (((p.words.drop (2 + (regBody p op).length)).take 4).flatMap beBytes)
    (x.1.map beWords, x.2)

/-- The accesses of a request, from its first. -/
def regRuns (d : Dev) (m : Mem) (p : Packet) (op : Nat) (data : List Word) : Nat × Nat × List Word × Dev × Mem :=
  regAccesses (regCount p) (p.words.getD 1 0).toNat ((p.words.getD 0 0).bit 27) 0 (op % 8 == 2) data [] d m

/-- The answer to a request that has made its accesses. -/
def regAnswers (p : Packet) (op : Nat) (x : Nat × Nat × List Word × Dev × Mem) : Dev × Mem :=
  (x.2.2.2.1.regResponse p (decide (8 ≤ op)) x.1 x.2.1 (if op % 8 == 2 then [] else x.2.2.1), x.2.2.2.2)

/-- A request that has left the ring. -/
def regTaken (d : Dev) (m : Mem) (p : Packet) (op : Nat) : Dev × Mem :=
  if !p.crcOk then (d.regFails p .check, m)
  else
    match (regOpened d p op).1 with
    | none => ((regOpened d p op).2.regFails p .check, m)
    | some data =>
      if (op % 8 == 2) && decide (op < 8) && (regOpened d p op).2.needsAuth false then ((regOpened d p op).2.regFails p .security, m)
      else regAnswers p op (regRuns (regOpened d p op).2 m p op data)

theorem regRequest_head (head : d.drunas.ring.head? = some p) (powered : d.power.fabric = true) (access : p.regAccess = true)
    (is : regOp p = op) : regRequest d m op = regTaken d.popRing m p op := by
  obtain ⟨rest, ring⟩ := List.head?_eq_some_iff.mp head
  have goes : ¬ (!p.regAccess || regOp p != op || !d.power.fabric) = true := by simp [powered, access, is]
  unfold regRequest
  rw [ring]
  dsimp only
  rw [if_neg goes]
  unfold regTaken regOpened regAnswers regRuns regBody
  by_cases plain : op < 8
  · simp only [if_pos plain]
  · simp only [if_neg plain] <;> rfl

theorem regTaken_badCrc (bad : p.crcOk = false) : regTaken d m p op = (d.regFails p .check, m) := by
  rw [regTaken, bad]
  rfl

theorem regTaken_unopened (good : p.crcOk = true) (closed : (regOpened d p op).1 = none) :
    regTaken d m p op = ((regOpened d p op).2.regFails p .check, m) := by
  rw [regTaken, good, closed]
  rfl

theorem regTaken_unsigned (good : p.crcOk = true) (isWrite : op = 2) (needs : d.needsAuth false = true) :
    regTaken d m p op = (d.regFails p .security, m) := by
  subst isWrite
  rw [regTaken, good, show regOpened d p 2 = (some (regBody p 2), d) from rfl, needs]
  rfl

theorem regTaken_runs {d' : Dev} (good : p.crcOk = true) (opened : regOpened d p op = (some data, d'))
    (allowed : op = 2 → d'.needsAuth false = false) : regTaken d m p op = regAnswers p op (regRuns d' m p op data) := by
  have signed : ¬ ((op % 8 == 2) && decide (op < 8) && d'.needsAuth false) = true := by
    rw [Bool.and_eq_true, Bool.and_eq_true, beq_iff_eq, decide_eq_true_iff]
    rintro ⟨⟨write, plain⟩, needs⟩
    rw [allowed (by omega)] at needs
    exact absurd needs (by decide)
  rw [regTaken, good, opened]
  exact if_neg signed

theorem regAccesses_data {v : Nat} {x : Dev × Mem}
    (reached : access d m .link write 32 (wordAddr a k fix) (data.getD k 0).toNat = (.data v, x)) :
    regAccesses (n + 1) a fix k write data got d m = regAccesses n a fix (k + 1) write data (got ++ [low32 v]) x.1 x.2 := by
  rw [regAccesses, reached]

theorem regAccesses_error {c : BusCode} {x : Dev × Mem}
    (failed : access d m .link write 32 (wordAddr a k fix) (data.getD k 0).toNat = (.error c, x)) :
    regAccesses (n + 1) a fix k write data got d m = (c.num, k, got ++ List.replicate (n + 1) 0, x) := by
  rw [regAccesses, failed]

theorem regCount_pos (p : Packet) : 0 < regCount p := Nat.lt_of_lt_of_le Nat.one_pos (Nat.le_max_left ..)

/-- A request of one access that reads. -/
theorem regRuns_read (one : regCount p = 1) (isRead : (op % 8 == 2) = false) (block : inBlock (p.words.getD 1 0).toNat = true)
    (lut : (p.words.getD 1 0).toNat ≠ Reg.DPD_LUT_DATA) (hopen : d.stops .link false 32 (p.words.getD 1 0).toNat = none) :
    regRuns d m p op data = (0, 1, [(d.readReg m (p.words.getD 1 0).toNat).1],
      settled ((d.readReg m (p.words.getD 1 0).toNat).2, m)) := by
  rw [regRuns, one, isRead, regAccesses_data (by rw [wordAddr_first]; exact access_read m _ hopen block lut), low32_toNat]
  rfl

/-- A request of one access that writes. -/
theorem regRuns_write (one : regCount p = 1) (isWrite : (op % 8 == 2) = true) (block : inBlock (p.words.getD 1 0).toNat = true)
    (lut : (p.words.getD 1 0).toNat ≠ Reg.DPD_LUT_DATA) (hopen : d.stops .link true 32 (p.words.getD 1 0).toNat = none) :
    regRuns d m p op data = (0, 1, [0], settled (d.writeReg .link (p.words.getD 1 0).toNat (data.getD 0 0), m)) := by
  rw [regRuns, one, isWrite, regAccesses_data (by rw [wordAddr_first]; exact access_write m _ hopen block lut)]
  rfl

/-- A request whose first access is stopped. -/
theorem regRuns_error {c : BusCode} (stops : d.stops .link (op % 8 == 2) 32 (p.words.getD 1 0).toNat = some c) :
    regRuns d m p op data = (c.num, 0, List.replicate (regCount p) 0,
      settled (d.busError .link (op % 8 == 2) 32 (p.words.getD 1 0).toNat c, m)) := by
  obtain ⟨n, is⟩ := Nat.exists_eq_succ_of_ne_zero (Nat.pos_iff_ne_zero.mp (regCount_pos p))
  rw [regRuns, is, regAccesses_error (by rw [wordAddr_first]; exact access_error m _ stops)]
  rfl

/-- Reads that change nothing. -/
theorem regAccesses_plain {v : Nat → Word} (n k : Nat) (quiet : Quiet d)
    (plain : ∀ j, k ≤ j → j < k + n → d.stops .link false 32 (wordAddr a j fix) = none ∧ inBlock (wordAddr a j fix) = true ∧
      wordAddr a j fix ≠ Reg.DPD_LUT_DATA ∧ d.readReg m (wordAddr a j fix) = (v j, d)) :
    regAccesses n a fix k false data got d m = (0, k + n, got ++ (List.range' k n).map v, d, m) := by
  induction n generalizing k got with
  | zero => simp [regAccesses]
  | succ n more =>
    obtain ⟨hopen, block, lut, reads⟩ := plain k (le_refl k) (by omega)
    have reached := access_read m (data.getD k 0).toNat hopen block lut
    rw [reads, settled_quiet m quiet] at reached
    rw [regAccesses_data reached, low32_toNat, more (k + 1) fun j low high => plain j (by omega) (by omega)]
    simp [List.range'_succ]
    omega

end

section

variable {s : State} {p : Packet} {op : Nat}

/-- A request whose operation has a meaning leaves the ring. -/
theorem exec_request (asks : Requests s p op) (meant : op ∈ [1, 2, 9, 10]) :
    exec (requestRow op) s = outOf s (regTaken s.dev.popRing s.mem p op) := by
  obtain ⟨powered, head, access, is⟩ := asks
  rw [← regRequest_head head powered access is]
  simp only [List.mem_cons, List.not_mem_nil, or_false] at meant
  obtain rfl | rfl | rfl | rfl := meant <;> rfl

theorem requestRow_reserved (other : op ∉ [1, 2, 9, 10]) : requestRow op = .regAccessReservedOp := by
  unfold requestRow
  split
  · exact absurd (by decide) other
  · exact absurd (by decide) other
  · exact absurd (by decide) other
  · exact absurd (by decide) other
  · rfl

/-- A request that fails before its accesses. -/
theorem fails_of {d : Dev} {c : BusCode} (row : exec (requestRow (regOp p)) s = outOf s (d.regFails p c, s.mem)) : Fails s p d c := by
  refine ⟨_, stopped_busError d .link (regOp p % 8 == 2) 32 (p.words.getD 1 0).toNat c, row.trans ?_⟩
  have zeros : (if (regOp p % 8 == 1) = true then List.replicate (regCount p) (0 : Word) else []) =
      if regOp p % 8 = 1 then List.replicate (regCount p) 0 else [] := by simp only [beq_iff_eq]
  rw [← zeros]
  rfl

theorem exec_reserved (asks : Requests s p op) (other : op ∉ [1, 2, 9, 10]) : exec (requestRow op) s =
    outOf s (s.dev.popRing.regFails p (if p.crcOk then .decode else .check), s.mem) := by
  obtain ⟨powered, head, access, is⟩ := asks
  obtain ⟨rest, ring⟩ := List.head?_eq_some_iff.mp head
  have goes : ¬ (!p.regAccess || [1, 2, 9, 10].contains (regOp p) || !s.dev.power.fabric) = true := by
    simpa [powered, access, is] using other
  rw [requestRow_reserved other]
  change execRegAccessReservedOp s = _
  rw [execRegAccessReservedOp, onDev, ring]
  exact congrArg (fun d => outOf s (d, s.mem)) (if_neg goes)

theorem authOpen_keyless (d : Dev) (lo : Nat) (aad body tag : List Byte) (keyless : d.sec.kFlow = none) :
    d.authOpen false lo aad body tag = (none, d.authFail) := by
  rw [Dev.authOpen, keyless]

theorem regOpened_keyless {d : Dev} (auth : op = 9 ∨ op = 10) (keyless : d.sec.kFlow = none) : regOpened d p op = (none, d.authFail) := by
  rw [regOpened, if_neg (by omega), authOpen_keyless _ _ _ _ _ keyless]
  rfl

theorem regOpened_plain {d : Dev} (plain : op < 8) : regOpened d p op = (some (regBody p op), d) := if_pos plain

theorem regBody_one (op : Nat) (one : regCount p = 1) (auth : op = 9 ∨ op = 10) :
    regBody p op = if op = 10 then (p.words.drop 2).take 1 else [] := by
  rw [regBody, one]
  obtain rfl | rfl := auth <;> rfl

theorem regOpened_auth {d d1 : Dev} {bytes : List Byte} (one : regCount p = 1) (auth : op = 9 ∨ op = 10)
    (opened : d.authOpen false ((p.words.getD 0 0).get 11 0) ((p.words.take 2).flatMap beBytes)
      ((if op = 10 then (p.words.drop 2).take 1 else []).flatMap beBytes)
      (((p.words.drop (2 + (if op = 10 then (p.words.drop 2).take 1 else []).length)).take 4).flatMap beBytes) = (some bytes, d1)) :
    regOpened d p op = (some (beWords bytes), d1) := by
  rw [regOpened, if_neg (by omega), regBody_one op one auth, opened]
  rfl

end

/-- Settles O47: a request leaves the ring, and its response says what its accesses did. -/
theorem linkRegisterAccess : Obligations.LinkRegisterAccess := by
  intro s p op asks _
  have is : regOp p = op := asks.2.2.2
  have row : op ∈ [1, 2, 9, 10] → exec (requestRow op) s = outOf s (regTaken s.dev.popRing s.mem p op) := exec_request asks
  refine ⟨fun bad => fails_of ?_, fun good other => fails_of ?_, fun good write needs => fails_of ?_, fun good auth keyless => ?_,
    fun good read one block lut hopen => ?_, fun good read quiet v plain => ?_, fun good which c stops => ?_,
    fun good write unsigned one block lut hopen _ => ?_, fun good one block lut d1 bytes opened => ⟨fun read hopen => ?_, fun write hopen => ?_⟩⟩
  · rw [is]
    by_cases meant : op ∈ [1, 2, 9, 10]
    · rw [row meant, regTaken_badCrc bad]
    · rw [exec_reserved asks meant, bad]
      rfl
  · rw [is, exec_reserved asks other, good]
    rfl
  · rw [is, row (by rw [write]; decide), regTaken_unsigned good write needs]
  · have counts : Counted s.dev.popRing s.dev.popRing.authFail Reg.SEC_AUTH_FAIL 31 0 :=
      (counted_count32 Reg.SEC_AUTH_FAIL).of_rd_eq (Dev.rd_raise_ne _ _ (by decide))
    refine ⟨_, counts, set_raise _ (by decide), ?_, fails_of ?_⟩
    · exact (sameRegs_count32 _ (by simp)).trans (sameRegs_raise _ _ (by simp))
    · have closed := regOpened_keyless (p := p) (d := s.dev.popRing) auth keyless
      rw [is, row (by obtain rfl | rfl := auth <;> decide), regTaken_unopened good (by rw [closed]), closed]
  · subst read
    have answers := row (by decide)
    rw [regTaken_runs good (regOpened_plain (by decide)) (fun h => absurd h (by decide)), regRuns_read one rfl block lut hopen] at answers
    exact answers
  · subst read
    have answers := row (by decide)
    have runs : regRuns s.dev.popRing s.mem p 1 (regBody p 1) =
        (0, regCount p, (List.range (regCount p)).map v, s.dev.popRing, s.mem) := by
      refine (regAccesses_plain (v := v) (regCount p) 0 (by exact quiet) fun j _ low => ?_).trans ?_
      · obtain ⟨hopen, block, lut, reads⟩ := plain j (by omega)
        exact ⟨hopen, block, lut, reads⟩
      · rw [Nat.zero_add, List.nil_append, List.range_eq_range']
    rw [regTaken_runs good (regOpened_plain (by decide)) (fun h => absurd h (by decide)), runs] at answers
    exact answers
  · refine ⟨_, stopped_busError s.dev.popRing .link (op == 2) 32 (p.words.getD 1 0).toNat c, ?_⟩
    obtain rfl | ⟨rfl, unsigned⟩ := which
    · have answers := row (by decide)
      rw [regTaken_runs good (regOpened_plain (by decide)) (fun h => absurd h (by decide)), regRuns_error stops] at answers
      exact answers
    · have answers := row (by decide)
      rw [regTaken_runs good (regOpened_plain (by decide)) (fun _ => unsigned), regRuns_error stops] at answers
      exact answers
  · subst write
    have answers := row (by decide)
    have data : (regBody p 2).getD 0 0 = p.words.getD 2 0 := by simp [regBody, one, List.getD_eq_getElem?_getD]
    rw [regTaken_runs good (regOpened_plain (by decide)) (fun _ => unsigned), regRuns_write one rfl block lut hopen, data] at answers
    exact answers
  · subst read
    have answers := row (by decide)
    rw [regTaken_runs good (regOpened_auth one (.inl rfl) opened) (fun h => absurd h (by decide)), regRuns_read one rfl block lut hopen] at answers
    exact answers
  · subst write
    have answers := row (by decide)
    rw [regTaken_runs good (regOpened_auth one (.inr rfl) opened) (fun h => absurd h (by decide)), regRuns_write one rfl block lut hopen] at answers
    exact answers

end Sys2Proof.Cert

/-! PROOFS. Derrick (O48): the control of its channels, descriptors, and the move of a word. -/

namespace Sys2Proof.Machine

/-! ### Accesses of cluster memory and capture SRAM -/

section

variable {d : Dev} {m : Mem} {i : Initiator} {a n : Nat}

/-- No register block lies in the windows above the Ashlar store. -/
theorem inBlock_window (low : 0x3000000 ≤ a) : inBlock a = false := by
  rw [inBlock, blockRows, if_neg (by omega), if_neg (by omega), if_neg (by omega)]
  rfl

theorem toNat_append_byte {w : Nat} (x : BitVec w) (y : Byte) : (x ++ y).toNat = 256 * x.toNat + y.toNat := by
  rw [BitVec.toNat_append, ← Nat.shiftLeft_add_eq_or_of_lt y.isLt, Nat.shiftLeft_eq]
  omega

theorem memRead_four (m : Mem) (a : Nat) : memRead m a 4 = (Mem.word m a).toNat := by
  simp only [memRead, Mem.bytes, List.foldr, Mem.word, toNat_append_byte, Nat.add_assoc, Nat.reduceAdd]
  omega

theorem dataBytes_four (w : Word) : dataBytes 4 w.toNat = leBytes w := by
  have byte (k : Nat) : BitVec.ofNat 8 (w.toNat / 256 ^ k) = w.extractLsb' (8 * k) 8 := by
    rw [show (256 : Nat) ^ k = 2 ^ (8 * k) by rw [pow_mul]; rfl, ← Nat.shiftRight_eq_div_pow]
    rfl
  simp only [dataBytes, List.range_succ, List.range_zero, List.map_append, List.map_cons, List.map_nil, byte]
  rfl

theorem access_window_read (data : Nat) (hopen : d.stops i false 32 a = none) (low : 0x3000000 ≤ a) :
    access d m i false 32 a data = (.data (Mem.word m a).toNat, settled (d, m)) := by
  have above : decide (a < 0x2400000) = false := decide_eq_false (by omega)
  have outside : copySeen d m a = (d, m) := by
    rw [copySeen, if_neg]
    simp
    omega
  simp [access, access32, reach, settleAccess, hopen, inBlock_window low, above, outside, memRead_four]

theorem access_window_write (data : Nat) (narrow : n = 1 ∨ n = 2 ∨ n = 4) (hopen : d.stops i true (8 * n) a = none) (low : 0x3000000 ≤ a) :
    access d m i true (8 * n) a data = (.data 0, settled (d, Mem.setBytes m a (dataBytes n data))) := by
  have above : decide (a < 0x2400000) = false := decide_eq_false (by omega)
  have size : 8 * n / 8 = n := by omega
  rw [access, if_neg (by omega), access32, hopen]
  simp [reach, settleAccess, inBlock_window low, above, size]

theorem get_dataBytes (m : Mem) (a n v k : Nat) (inside : k < n) :
    Mem.get (Mem.setBytes m a (dataBytes n v)) (a + k) = BitVec.ofNat 8 (v / 256 ^ k) := by
  have here : k < (dataBytes n v).length := by simp [dataBytes, inside]
  rw [Mem.get_setBytes_in m a k _ here]
  simp [dataBytes]

end

/-! ### The channels -/

section

variable {d : Dev} {c : Fin 8}

@[simp] theorem Dev.modChannel_ch (d : Dev) (c : Fin 8) (f : Channel → Channel) :
    (d.modChannel c f).derrick.ch = d.derrick.ch.set c (f d.derrick.ch[c]) := rfl

/-- No channel but `c` runs, is READY or STOPPED. -/
def OthersRest (d : Dev) (c : Fin 8) : Prop :=
  ∀ j : Fin 8, j ≠ c → d.derrick.ch[j].st ≠ .running ∧ d.derrick.ch[j].st ≠ .ready ∧ d.derrick.ch[j].st ≠ .stopped

theorem runningChannel_isSome : d.runningChannel.isSome = true ↔ ∃ j : Fin 8, d.derrick.ch[j].st = .running := by
  simp [Dev.runningChannel, List.find?_isSome]

theorem any_stopped : (d.derrick.ch.toList.any fun x => x.st == .stopped) = true ↔ ∃ j : Fin 8, d.derrick.ch[j].st = .stopped := by
  rw [List.any_eq_true]
  constructor
  · rintro ⟨x, mem, st⟩
    obtain ⟨j, low, rfl⟩ := List.getElem_of_mem mem
    exact ⟨⟨j, by simpa using low⟩, by simpa using st⟩
  · rintro ⟨j, st⟩
    exact ⟨d.derrick.ch[j], by simp, beq_iff_eq.mpr st⟩

/-- The error mode taken over, where no channel runs, is Derrick's alone. -/
theorem Dev.errMode_derrick (d : Dev) : ∃ x : Derrick, x.ch = d.derrick.ch ∧ d.errMode = { d with derrick := x } := by
  by_cases runs : d.runningChannel.isSome = true
  · exact ⟨d.derrick, rfl, if_pos runs⟩
  · exact ⟨{ d.derrick with allStop := (d.rd Reg.DERRICK_CFG).bit 0 }, rfl, if_neg runs⟩

theorem runningChannel_of_ch (x : Derrick) (ch : x.ch = d.derrick.ch) : ({ d with derrick := x } : Dev).runningChannel = d.runningChannel := by
  simp only [Dev.runningChannel, ch]

/-- What the engine does next changes Derrick's channels by at most one that becomes running. -/
theorem Dev.engineNext_of_busy (busy : ∃ j : Fin 8, d.derrick.ch[j].st = .running ∨ d.derrick.ch[j].st = .stopped) :
    ∃ x : Derrick, x.ch = d.derrick.ch ∧ d.engineNext = { d with derrick := x } := by
  obtain ⟨x, ch, is⟩ := d.errMode_derrick
  have occupied : (d.errMode.runningChannel.isSome || d.errMode.derrick.ch.toList.any fun x => x.st == .stopped) = true := by
    rw [is, runningChannel_of_ch x ch, Bool.or_eq_true]
    obtain ⟨j, running | stopped⟩ := busy
    · exact .inl (runningChannel_isSome.mpr ⟨j, running⟩)
    · refine .inr (any_stopped.mpr ⟨j, ?_⟩)
      simp only [ch]
      exact stopped
  exact ⟨x, ch, (if_pos occupied).trans is⟩

/-- A free engine looks for a READY channel. -/
theorem Dev.engineNext_idle (free : ∀ j : Fin 8, d.derrick.ch[j].st ≠ .running ∧ d.derrick.ch[j].st ≠ .stopped) :
    ∃ x : Derrick, x.ch = d.derrick.ch ∧ d.engineNext =
      ((List.finRange 8).find? fun j => d.derrick.ch[j].st == .ready).elim { d with derrick := x }
        fun j => ({ d with derrick := x } : Dev).modChannel j fun y => { y with st := .running } := by
  obtain ⟨x, ch, is⟩ := d.errMode_derrick
  have vacant : ¬ (d.errMode.runningChannel.isSome || d.errMode.derrick.ch.toList.any fun x => x.st == .stopped) = true := by
    rw [is, runningChannel_of_ch x ch, Bool.or_eq_true]
    rintro (running | stopped)
    · obtain ⟨j, runs⟩ := runningChannel_isSome.mp running
      exact (free j).1 runs
    · simp only [ch] at stopped
      obtain ⟨j, stops⟩ := any_stopped.mp stopped
      exact (free j).2 stops
  refine ⟨x, ch, (if_neg vacant).trans ?_⟩
  rw [is]
  simp only [ch]
  cases (List.finRange 8).find? fun j => d.derrick.ch[j].st == .ready <;> rfl

/-- With no other channel in work the engine takes `c` where it is READY. -/
theorem Dev.engineNext_takes (rest : OthersRest d c) (ready : d.derrick.ch[c].st = .ready) :
    ∃ x : Derrick, x.ch = d.derrick.ch.set c { d.derrick.ch[c] with st := .running } ∧ d.engineNext = { d with derrick := x } := by
  obtain ⟨x, ch, is⟩ := d.engineNext_idle fun j => by
    by_cases own : j = c
    · rw [own, ready]; decide
    · exact ⟨(rest j own).1, (rest j own).2.2⟩
  have found : (List.finRange 8).find? (fun j => d.derrick.ch[j].st == .ready) = some c := by
    cases find : (List.finRange 8).find? fun j => d.derrick.ch[j].st == .ready with
    | none => exact absurd (beq_iff_eq.mpr ready) (List.find?_eq_none.mp find c (List.mem_finRange c))
    | some j =>
      have readyToo := List.find?_some find
      by_cases own : j = c
      · rw [own]
      · exact absurd (beq_iff_eq.mp readyToo) (rest j own).2.1
  rw [found] at is
  exact ⟨_, by rw [← ch], is⟩

/-- With no channel in work the engine rests. -/
theorem Dev.engineNext_rests (rest : OthersRest d c)
    (own : d.derrick.ch[c].st ≠ .running ∧ d.derrick.ch[c].st ≠ .ready ∧ d.derrick.ch[c].st ≠ .stopped) :
    ∃ x : Derrick, x.ch = d.derrick.ch ∧ d.engineNext = { d with derrick := x } := by
  have all (j : Fin 8) : d.derrick.ch[j].st ≠ .running ∧ d.derrick.ch[j].st ≠ .ready ∧ d.derrick.ch[j].st ≠ .stopped := by
    by_cases same : j = c
    · exact same ▸ own
    · exact rest j same
  obtain ⟨x, ch, is⟩ := d.engineNext_idle fun j => ⟨(all j).1, (all j).2.2⟩
  have found : (List.finRange 8).find? (fun j => d.derrick.ch[j].st == .ready) = none :=
    List.find?_eq_none.mpr fun j _ ready => (all j).2.1 (beq_iff_eq.mp ready)
  rw [found] at is
  exact ⟨x, ch, is⟩

end

end Sys2Proof.Machine

namespace Sys2Proof.Cert

open Sys2Proof.Machine

section

variable {s : State} {i : Initiator} {c : Fin 8} {st : ChState}

/-- The device with Derrick in another state. -/
def withDerrick (s : State) (x : Derrick) : Dev := { s.dev with derrick := x }

/-- The engine takes a channel made READY, where it is free, and lets it wait where it is not. -/
theorem engineNext_ready {x : Channel} {y : Derrick} (ready : x.st = .ready) (ch : y.ch = s.dev.derrick.ch.set c x)
    (engine : (EngineFree s c ∧ st = .running) ∨ (EngineBusy s c ∧ st = .ready)) :
    ∃ z : Derrick, z.ch = s.dev.derrick.ch.set c { x with st := st } ∧ (withDerrick s y).engineNext = withDerrick s z := by
  have own : (withDerrick s y).derrick.ch[c] = x := by
    change y.ch[c] = x
    rw [ch]
    exact Vector.getElem_set_self ..
  have other (j : Fin 8) (ne : j ≠ c) : (withDerrick s y).derrick.ch[j] = s.dev.derrick.ch[j] := by
    change y.ch[j] = _
    rw [ch]
    exact Vector.getElem_set_ne _ _ (fun h => ne (Fin.ext h.symm))
  obtain ⟨free, rfl⟩ | ⟨⟨j, ne, busy⟩, rfl⟩ := engine
  · obtain ⟨z, zch, is⟩ := Dev.engineNext_takes (d := withDerrick s y) (c := c)
      (fun j ne => by rw [other j ne]; exact ⟨(free j ne).1, (free j ne).2.1, (free j ne).2.2⟩) (by rw [own]; exact ready)
    refine ⟨z, ?_, is⟩
    rw [zch, own]
    change y.ch.set c _ = _
    rw [ch, Vector.set_set]
  · obtain ⟨z, zch, is⟩ := Dev.engineNext_of_busy (d := withDerrick s y) ⟨j, by rw [other j ne]; exact busy⟩
    refine ⟨z, ?_, is⟩
    rw [zch, ← ready]
    exact ch

/-- Where no READY channel is made, the engine leaves the channels. -/
theorem engineNext_unready {x : Channel} {y : Derrick} (out : x.st = .aborted ∨ x.st = .halted ∨ x.st = .done)
    (ch : y.ch = s.dev.derrick.ch.set c x) (engine : EngineFree s c ∨ EngineBusy s c) :
    ∃ z : Derrick, z.ch = s.dev.derrick.ch.set c x ∧ (withDerrick s y).engineNext = withDerrick s z := by
  have own : x.st ≠ .running ∧ x.st ≠ .ready ∧ x.st ≠ .stopped := by
    obtain is | is | is := out <;> rw [is] <;> decide
  have here : (withDerrick s y).derrick.ch[c] = x := by
    change y.ch[c] = x
    rw [ch]
    exact Vector.getElem_set_self ..
  have other (j : Fin 8) (ne : j ≠ c) : (withDerrick s y).derrick.ch[j] = s.dev.derrick.ch[j] := by
    change y.ch[j] = _
    rw [ch]
    exact Vector.getElem_set_ne _ _ (fun h => ne (Fin.ext h.symm))
  obtain free | ⟨j, ne, busy⟩ := engine
  · obtain ⟨z, zch, is⟩ := Dev.engineNext_rests (d := withDerrick s y) (c := c)
      (fun j ne => by rw [other j ne]; exact free j ne) (by rw [here]; exact own)
    exact ⟨z, zch.trans ch, is⟩
  · obtain ⟨z, zch, is⟩ := Dev.engineNext_of_busy (d := withDerrick s y) ⟨j, by rw [other j ne]; exact busy⟩
    exact ⟨z, zch.trans ch, is⟩

/-- A write of a channel's control register controls that channel. -/
theorem writeReg_channelCtrl (d : Dev) (i : Initiator) (c : Fin 8) (w : Word) :
    d.writeReg i (Reg.DERRICK_CH_CTRL c.val) w = d.writeChannelCtrl c w := by
  fin_cases c <;> rfl

theorem leads_channelCtrl {row : Instr} {w : Word} (is : exec row s = onMem s fun d m => writeWord d m i (Reg.DERRICK_CH_CTRL c.val) w)
    (hopen : Open s i true (Reg.DERRICK_CH_CTRL c.val)) : Leads s row (s.dev.writeChannelCtrl c w) :=
  writeReg_channelCtrl s.dev i c w ▸ leads_of_write is hopen (by fin_cases c <;> decide) (by fin_cases c <;> decide) (by fin_cases c <;> decide)

theorem writeChannelCtrl_start (d : Dev) (c : Fin 8) : d.writeChannelCtrl c 0x80000000#32 = d.channelStart c := rfl

theorem writeChannelCtrl_resume (d : Dev) (c : Fin 8) : d.writeChannelCtrl c 0x40000000#32 = d.channelResume c := rfl

theorem writeChannelCtrl_abort (d : Dev) (c : Fin 8) : d.writeChannelCtrl c 0x20000000#32 = d.channelAbort c := rfl

theorem leads_derrickStart (hopen : Open s i true (Reg.DERRICK_CH_CTRL c.val)) : Leads s (.derrickStart i c) (s.dev.channelStart c) :=
  writeChannelCtrl_start s.dev c ▸ leads_channelCtrl rfl hopen

theorem leads_derrickResume (hopen : Open s i true (Reg.DERRICK_CH_CTRL c.val)) : Leads s (.derrickResume i c) (s.dev.channelResume c) :=
  writeChannelCtrl_resume s.dev c ▸ leads_channelCtrl rfl hopen

theorem leads_derrickAbort (hopen : Open s i true (Reg.DERRICK_CH_CTRL c.val)) : Leads s (.derrickAbort i c) (s.dev.channelAbort c) :=
  writeChannelCtrl_abort s.dev c ▸ leads_channelCtrl rfl hopen

/-- Derrick with one channel in another state. -/
def withChannel (y : Derrick) (c : Fin 8) (x : Channel) : Derrick := { y with ch := y.ch.set c x }

/-- A channel as START leaves it, before the engine looks at it (R393). -/
def started (d : Dev) (c : Fin 8) (st : ChState) : Channel :=
  { Channel.reset with
    st := st, desc := (d.rd (Reg.DERRICK_CH_DESC c.val)).toNat, src := (d.derrick.ch[c]).src, dst := (d.derrick.ch[c]).dst
    count := (d.derrick.ch[c]).count }

theorem channelStart_off (off : s.dev.derrick.ch[c].st = .idle ∨ s.dev.derrick.ch[c].st = .done ∨ s.dev.derrick.ch[c].st = .doneErr ∨
    s.dev.derrick.ch[c].st = .aborted) :
    s.dev.channelStart c = (withDerrick s (withChannel s.dev.derrick c (started s.dev c .ready))).engineNext := by
  unfold Dev.channelStart
  obtain is | is | is | is := off <;> rw [is] <;> rfl

theorem channelStart_inWork (inWork : s.dev.derrick.ch[c].st = .ready ∨ s.dev.derrick.ch[c].st = .running ∨ s.dev.derrick.ch[c].st = .halted ∨
    s.dev.derrick.ch[c].st = .stopped) : s.dev.channelStart c = s.dev.raise Reg.DERRICK_EVT 3 := by
  unfold Dev.channelStart
  obtain is | is | is | is := inWork <;> rw [is]

theorem channelResume_halted (halted : s.dev.derrick.ch[c].st = .halted) : s.dev.channelResume c =
    (withDerrick s (withChannel s.dev.derrick c { s.dev.derrick.ch[c] with st := .ready })).engineNext := by
  unfold Dev.channelResume
  rw [halted]
  rfl

theorem channelAbort_halted (halted : s.dev.derrick.ch[c].st = .halted) : s.dev.channelAbort c =
    (withDerrick s (withChannel s.dev.derrick c { s.dev.derrick.ch[c] with st := .aborted })).engineNext := by
  unfold Dev.channelAbort
  rw [halted]
  rfl

/-- Derrick with its record of stopped channels renewed (R400). -/
def withStopped (y : Derrick) : Derrick := { y with stoppedAll := y.ch.toList.any fun x => x.st == .stopped }

theorem channelResume_stopped (stopped : s.dev.derrick.ch[c].st = .stopped) : s.dev.channelResume c =
    (withDerrick s (withStopped (withChannel s.dev.derrick c { s.dev.derrick.ch[c] with st := .ready, wasRunning := false }))).engineNext := by
  unfold Dev.channelResume
  rw [stopped]
  rfl

theorem channelAbort_stopped (stopped : s.dev.derrick.ch[c].st = .stopped) : s.dev.channelAbort c =
    (withDerrick s (withStopped (withChannel s.dev.derrick c { s.dev.derrick.ch[c] with st := .aborted, wasRunning := false }))).engineNext := by
  unfold Dev.channelAbort
  rw [stopped]
  rfl

theorem channelResume_other (one : s.dev.derrick.ch[c].st ≠ .halted) (two : s.dev.derrick.ch[c].st ≠ .stopped) :
    s.dev.channelResume c = s.dev := by
  unfold Dev.channelResume
  split
  · exact absurd ‹_› one
  · exact absurd ‹_› two
  · rfl

theorem channelAbort_other (one : s.dev.derrick.ch[c].st ≠ .halted) (two : s.dev.derrick.ch[c].st ≠ .stopped) :
    s.dev.channelAbort c = s.dev := by
  unfold Dev.channelAbort
  split
  · exact absurd ‹_› one
  · exact absurd ‹_› two
  · rfl

/-- What makes a channel READY changes that channel alone. -/
theorem leads_ready {row : Instr} {x : Channel} {y : Derrick} {d : Dev} (leads : Leads s row d) (is : d = (withDerrick s y).engineNext)
    (ready : x.st = .ready) (ch : y.ch = s.dev.derrick.ch.set c x)
    (engine : (EngineFree s c ∧ st = .running) ∨ (EngineBusy s c ∧ st = .ready)) :
    ∃ d, Leads s row d ∧ OnlyChannel s d c { x with st := st } ∧ d.regs = s.dev.regs := by
  obtain ⟨z, zch, next⟩ := engineNext_ready ready ch engine
  exact ⟨withDerrick s z, next ▸ is ▸ leads, ⟨zch, rfl⟩, rfl⟩

/-- What makes a channel rest changes that channel alone. -/
theorem leads_unready {row : Instr} {x : Channel} {y : Derrick} {d : Dev} (leads : Leads s row d) (is : d = (withDerrick s y).engineNext)
    (out : x.st = .aborted ∨ x.st = .halted ∨ x.st = .done) (ch : y.ch = s.dev.derrick.ch.set c x)
    (engine : (EngineFree s c ∧ st = .running) ∨ (EngineBusy s c ∧ st = .ready)) :
    ∃ d, Leads s row d ∧ OnlyChannel s d c x ∧ d.regs = s.dev.regs := by
  obtain ⟨z, zch, next⟩ := engineNext_unready out ch (engine.imp And.left And.left)
  exact ⟨withDerrick s z, next ▸ is ▸ leads, ⟨zch, rfl⟩, rfl⟩

theorem derrickControl : DerrickControl := by
  intro s i c st hopen engine
  have start := leads_derrickStart hopen
  have resume := leads_derrickResume hopen
  have abort := leads_derrickAbort hopen
  refine ⟨fun off => ?_, fun inWork => ⟨_, channelStart_inWork inWork ▸ start, set_raise _ (by decide), ?_, Dev.raise_derrick ..⟩,
    fun halted => ⟨?_, ?_⟩, fun stopped => ⟨?_, ?_⟩, fun one two => ⟨channelResume_other one two ▸ resume, channelAbort_other one two ▸ abort⟩⟩
  · exact leads_ready (x := started s.dev c .ready) start (channelStart_off off) rfl rfl engine
  · exact sameRegs_raise _ _ (by simp)
  · exact leads_ready (x := { s.dev.derrick.ch[c] with st := .ready }) resume (channelResume_halted halted) rfl rfl engine
  · exact leads_unready (x := { s.dev.derrick.ch[c] with st := .aborted }) abort (channelAbort_halted halted) (.inl rfl) rfl engine
  · obtain ⟨d, leads, only, -⟩ := leads_ready (x := { s.dev.derrick.ch[c] with st := .ready, wasRunning := false }) resume
      (channelResume_stopped stopped) rfl rfl engine
    exact ⟨d, leads, only⟩
  · obtain ⟨d, leads, only, -⟩ := leads_unready (x := { s.dev.derrick.ch[c] with st := .aborted, wasRunning := false }) abort
      (channelAbort_stopped stopped) (.inl rfl) rfl engine
    exact ⟨d, leads, only⟩

/-! ### Descriptors -/

/-- The device as a running channel's descriptor leaves it. -/
def takesUp (d : Dev) (c : Fin 8) (w0 w1 w2 w3 : Word) : Dev :=
  d.modChannel c fun x => { x with
    src := w0.toNat, dst := w1.toNat, count := w2.get 24 0, ctl := w2, next := w3.toNat, loaded := true, funnel := none
    down := !(w2.bit 29 || w2.bit 28) && decide (w0.toNat < w1.toNat ∧ w1.toNat < w0.toNat + w2.get 24 0) }

theorem descriptorFetch_fetched {d d' : Dev} {m m' : Mem} {ws : List Word} (runs : d.runningChannel = some c)
    (fresh : (d.derrick.ch[c]).loaded = false) (fetched : fetchDescriptor d m (d.derrick.ch[c]).desc = (.inl ws, d', m'))
    (some' : (ws.getD 2 0).get 24 0 ≠ 0) :
    descriptorFetch d m = (takesUp d' c (ws.getD 0 0) (ws.getD 1 0) (ws.getD 2 0) (ws.getD 3 0), m') := by
  unfold descriptorFetch
  rw [runs]
  dsimp only
  rw [if_neg (by rw [fresh]; decide), fetched]
  exact congrArg (fun d => (d, m')) (if_neg some')

theorem descriptorFetch_failed {d d' : Dev} {m m' : Mem} {e : BusCode} {b : Nat} (runs : d.runningChannel = some c)
    (fresh : (d.derrick.ch[c]).loaded = false) (failed : fetchDescriptor d m (d.derrick.ch[c]).desc = (.inr (e, b), d', m')) :
    descriptorFetch d m = (d'.channelError c 2 b e, m') := by
  unfold descriptorFetch
  rw [runs]
  dsimp only
  rw [if_neg (by rw [fresh]; decide), failed]

theorem derrickWords_window {d : Dev} {m : Mem} (quiet : Quiet d) (n a : Nat) (got : List Word) (low : 0x3000000 ≤ a)
    (reads : ∀ k, k < n → d.stops .derrick false 32 (a + 4 * k) = none) :
    derrickWords n a got d m = (.inl (got ++ (List.range n).map fun k => Mem.word m (a + 4 * k)), d, m) := by
  induction n generalizing a got with
  | zero => simp [derrickWords]
  | succ n more =>
    have first := access_window_read (m := m) (i := .derrick) (a := a) 0 (reads 0 (by omega)) low
    rw [settled_quiet m quiet] at first
    rw [derrickWords, first]
    dsimp only
    rw [low32_toNat, more (a + 4) _ (by omega) fun k inside => by
      have next := reads (k + 1) (by omega)
      rwa [show a + 4 * (k + 1) = a + 4 + 4 * k by omega] at next]
    have later : ((List.range n).map fun k => Mem.word m (a + 4 + 4 * k)) = (List.range n).map fun k => Mem.word m (a + 4 * (k + 1)) :=
      List.map_congr_left fun k _ => by rw [show a + 4 * (k + 1) = a + 4 + 4 * k by omega]
    rw [later, List.range_succ_eq_map, List.map_cons, List.map_map, List.append_assoc]
    rfl

theorem fetchDescriptor_window {d : Dev} {m : Mem} {a : Nat} (quiet : Quiet d) (allowed : descriptorAllowed a = true)
    (reads : ∀ k, k < 4 → d.stops .derrick false 32 (a + 4 * k) = none)
    (whole : ((Mem.word m (a + 4 * 2)).bit 29 || (Mem.word m (a + 4 * 2)).bit 28) = true → (Mem.word m (a + 4 * 0)).toNat % 4 = 0 ∧
      (Mem.word m (a + 4 * 1)).toNat % 4 = 0 ∧ (Mem.word m (a + 4 * 2)).get 24 0 % 4 = 0) :
    fetchDescriptor d m a = (.inl ((List.range 4).map fun k => Mem.word m (a + 4 * k)), d, m) := by
  have low : 0x3000000 ≤ a := by
    simp only [descriptorAllowed, Bool.and_eq_true, decide_eq_true_iff] at allowed
    omega
  rw [fetchDescriptor, if_neg (by rw [allowed]; decide), derrickWords_window quiet 4 a [] low reads]
  refine if_neg fun breaks => ?_
  rw [Bool.and_eq_true] at breaks
  obtain ⟨fixed, odd⟩ := breaks
  obtain ⟨one, two, three⟩ := whole fixed
  have words : ((Mem.word m (a + 4 * 0)).toNat % 4 == 0 && (Mem.word m (a + 4 * 1)).toNat % 4 == 0 &&
      (Mem.word m (a + 4 * 2)).get 24 0 % 4 == 0) = true := by rw [one, two, three]; rfl
  have broken : (!((Mem.word m (a + 4 * 0)).toNat % 4 == 0 && (Mem.word m (a + 4 * 1)).toNat % 4 == 0 &&
      (Mem.word m (a + 4 * 2)).get 24 0 % 4 == 0)) = true := odd
  rw [words] at broken
  exact absurd broken (by decide)

/-- What the error register says of a channel's failure (R399). -/
def latchInfo (c : Fin 8) (dir : Nat) (code : BusCode) : Word :=
  (((((0 : Word).put 31 31 1).put 30 28 c.val).put 27 27 (b2n true)).put 25 24 dir).put 19 16 code.num

theorem derrickLatch_eq (d : Dev) (c : Fin 8) (dir a : Nat) (code : BusCode) : d.derrickLatch (some c) dir a code =
    ((d.wr Reg.DERRICK_ERR_INFO (latchInfo c dir code)).noteSet Reg.DERRICK_ERR_INFO 0x80000000#32).wr Reg.DERRICK_ERR_ADDR (low32 a) := rfl

theorem latchInfo_spec (c : Fin 8) (dir : Nat) (code : BusCode) :
    (latchInfo c dir code).bit 31 = true ∧ (latchInfo c dir code).get 30 28 = c.val := by
  unfold latchInfo
  refine ⟨?_, ?_⟩
  · rw [bit_put _ _ (by decide) (by decide) (by decide), if_neg (by decide), bit_put _ _ (by decide) (by decide) (by decide),
      if_neg (by decide), bit_put _ _ (by decide) (by decide) (by decide), if_neg (by decide),
      bit_put _ _ (by decide) (by decide) (by decide), if_neg (by decide), bit_put_same _ _ (by decide)]
    rfl
  · rw [get_put_beside _ _ (by decide) (by decide) (by decide) (.inr (by decide)),
      get_put_beside _ _ (by decide) (by decide) (by decide) (.inr (by decide)),
      get_put_beside _ _ (by decide) (by decide) (by decide) (.inr (by decide)), Word.get_put_same _ _ (by decide) (by decide)]
    exact Nat.mod_eq_of_lt c.isLt

/-- A channel's failure as its registers show it, before its state changes. -/
def failureShown (d : Dev) (c : Fin 8) (dir a : Nat) (code : BusCode) : Dev :=
  (d.derrickLatch (some c) dir a code).fset (Reg.DERRICK_CH_STATUS c.val) 19 16 code.num

theorem status_apart (c : Fin 8) {b : Nat} (low : b < 0x60100) : b ≠ Reg.DERRICK_CH_STATUS c.val := by
  have := c.isLt
  unfold Reg.DERRICK_CH_STATUS
  omega

theorem rd_failureShown (d : Dev) (c : Fin 8) (dir a : Nat) (code : BusCode) {b : Nat} (low : b < 0x60000) :
    (failureShown d c dir a code).rd b = d.rd b := by
  have one : b ≠ Reg.DERRICK_ERR_ADDR := by unfold Reg.DERRICK_ERR_ADDR; omega
  have two : b ≠ Reg.DERRICK_ERR_INFO := by unfold Reg.DERRICK_ERR_INFO; omega
  rw [failureShown, Dev.rd_fset_ne _ _ _ _ (status_apart c (by omega)), derrickLatch_eq, Dev.rd_wr_ne _ _ one, Dev.rd_noteSet,
    Dev.rd_wr_ne _ _ two]

theorem failureShown_status (d : Dev) (c : Fin 8) (dir a : Nat) (code : BusCode) :
    ((failureShown d c dir a code).rd (Reg.DERRICK_CH_STATUS c.val)).get 19 16 = code.num :=
  get_fset _ _ (by decide) (by decide) (num_lt code)

theorem failureShown_info (d : Dev) (c : Fin 8) (dir a : Nat) (code : BusCode) :
    (failureShown d c dir a code).rd Reg.DERRICK_ERR_INFO = latchInfo c dir code := by
  rw [failureShown, Dev.rd_fset_ne _ _ _ _ (status_apart c (by decide)), derrickLatch_eq, Dev.rd_wr_ne _ _ (by decide), Dev.rd_noteSet,
    Dev.rd_wr_same]

theorem failureShown_addr (d : Dev) (c : Fin 8) (dir a : Nat) (code : BusCode) :
    (failureShown d c dir a code).rd Reg.DERRICK_ERR_ADDR = BitVec.ofNat 32 a := by
  rw [failureShown, Dev.rd_fset_ne _ _ _ _ (status_apart c (by decide)), derrickLatch_eq, Dev.rd_wr_same]
  rfl

theorem latched_frame (d : Dev) (a b f hi lo n : Nat) (v w x : Word) :
    ∃ m sc, (((d.wr a v).noteSet a x).wr b w).fset f hi lo n = { d with regs := m, same := sc } := ⟨_, _, rfl⟩

theorem failureShown_frame (d : Dev) (c : Fin 8) (dir a : Nat) (code : BusCode) :
    ∃ m sc, failureShown d c dir a code = { d with regs := m, same := sc } := by
  rw [failureShown, derrickLatch_eq]
  exact latched_frame ..

/-- A failure as the channel has halted for it. -/
def haltShown (d : Dev) (c : Fin 8) : Dev := (d.modChannel c fun x => { x with st := .halted }).raise Reg.DERRICK_EVT 1

/-- A failure that does not stop everything halts its channel. -/
theorem channelError_halts (d : Dev) (c : Fin 8) (dir a : Nat) (code : BusCode) (goesOn : d.derrick.allStop = false) :
    d.channelError c dir a code = (haltShown (failureShown d c dir a code) c).engineNext := by
  have on : ¬ (failureShown d c dir a code).derrick.allStop = true := by
    obtain ⟨m, sc, frame⟩ := failureShown_frame d c dir a code
    rw [frame]
    exact Bool.eq_false_iff.mp goesOn
  exact if_neg on

theorem haltShown_frame (d : Dev) (c : Fin 8) : ∃ m rs sc, haltShown d c = { d with
    derrick := withChannel d.derrick c { d.derrick.ch[c] with st := .halted }, regs := m, rises := rs, same := sc } := by
  obtain ⟨m, rs, sc, frame⟩ := (d.modChannel c fun x => { x with st := .halted }).raise_frame Reg.DERRICK_EVT 1
  exact ⟨m, rs, sc, frame⟩

theorem rd_haltShown (d : Dev) (c : Fin 8) {b : Nat} (other : b ≠ Reg.DERRICK_EVT) : (haltShown d c).rd b = d.rd b :=
  Dev.rd_raise_ne _ _ other

/-- A channel that halts where nothing else is in work. -/
theorem engineNext_halted {d : Dev} (only : d = { s.dev with derrick := d.derrick, regs := d.regs, rises := d.rises, same := d.same })
    (halted : d.derrick.ch = s.dev.derrick.ch.set c { s.dev.derrick.ch[c] with st := .halted }) (free : EngineFree s c) :
    OnlyChannel s d.engineNext c { s.dev.derrick.ch[c] with st := .halted } ∧ d.engineNext.regs = d.regs := by
  obtain ⟨z, zch, is⟩ := engineNext_unready (s := { s with dev := { d with derrick := s.dev.derrick } }) (c := c)
    (x := { s.dev.derrick.ch[c] with st := .halted }) (y := d.derrick) (.inr (.inl rfl)) halted (.inl free)
  have next : d.engineNext = { d with derrick := z } := is
  rw [next]
  refine ⟨⟨zch, ?_⟩, rfl⟩
  rw [only]

theorem derrickDescriptor : DerrickDescriptor := by
  intro s c runs fresh
  refine ⟨fun ws d m fetched some' => ?_, fun e b d m failed => ?_, fun allowed quiet reads some' whole => ?_, fun refused goesOn free => ?_⟩
  · have takes := descriptorFetch_fetched runs fresh fetched some'
    simp only [takesUp, Bool.not_or] at takes
    exact congrArg (outOf s) takes
  · exact congrArg (outOf s) (descriptorFetch_failed runs fresh failed)
  · exact congrArg (outOf s) (descriptorFetch_fetched runs fresh (fetchDescriptor_window quiet allowed reads whole) (Nat.pos_iff_ne_zero.mp some'))
  · have fetched : fetchDescriptor s.dev s.mem (s.dev.derrick.ch[c]).desc = (.inr (.refused, (s.dev.derrick.ch[c]).desc),
        s.dev.busError .derrick false 32 (s.dev.derrick.ch[c]).desc .refused, s.mem) := if_pos (by rw [refused]; rfl)
    have halts := descriptorFetch_failed runs fresh fetched
    obtain ⟨frame, counts, -⟩ := stopped_busError s.dev .derrick false 32 (s.dev.derrick.ch[c]).desc .refused
    generalize s.dev.busError .derrick false 32 (s.dev.derrick.ch[c]).desc .refused = e at frame counts halts
    have same : e.derrick = s.dev.derrick := by rw [frame]
    rw [channelError_halts e c 2 _ _ (by rw [same]; exact goesOn)] at halts
    obtain ⟨m, sc, shown⟩ := failureShown_frame e c 2 (s.dev.derrick.ch[c]).desc .refused
    have status := failureShown_status e c 2 (s.dev.derrick.ch[c]).desc .refused
    have info := failureShown_info e c 2 (s.dev.derrick.ch[c]).desc .refused
    have addr := failureShown_addr e c 2 (s.dev.derrick.ch[c]).desc .refused
    have errors := rd_failureShown e c 2 (s.dev.derrick.ch[c]).desc .refused (b := Reg.SYS_BUS_ERR_CNT) (by decide)
    generalize failureShown e c 2 (s.dev.derrick.ch[c]).desc .refused = f at shown status info addr errors halts
    obtain ⟨m', rs, sc', frame'⟩ := haltShown_frame f c
    have evt : Set (haltShown f c) Reg.DERRICK_EVT 1 := set_raise _ (by decide)
    have reads (b : Nat) (other : b ≠ Reg.DERRICK_EVT) : (haltShown f c).rd b = f.rd b := rd_haltShown f c other
    generalize haltShown f c = g at frame' evt reads halts
    have only : g = { s.dev with derrick := g.derrick, regs := g.regs, rises := g.rises, same := g.same } := by rw [frame', shown, frame]
    have ch : g.derrick.ch = s.dev.derrick.ch.set c { s.dev.derrick.ch[c] with st := .halted } := by
      rw [frame', shown, frame]
      rfl
    obtain ⟨is, regs⟩ := engineNext_halted only ch free
    have ends (b : Nat) (other : b ≠ Reg.DERRICK_EVT) : g.engineNext.rd b = f.rd b := by
      rw [Dev.rd, regs]
      exact reads b other
    obtain ⟨latched, number⟩ := latchInfo_spec c 2 .refused
    refine ⟨g.engineNext, congrArg (outOf s) halts, is, evt.of_regs regs, ?_, ?_, ?_, ?_, ?_⟩
    · exact counts.of_rd_eq ((ends _ (by decide)).trans errors)
    · rw [ends _ (status_apart c (by decide)).symm, status]
    · rw [ends _ (by decide), info, latched]
    · rw [ends _ (by decide), info, number]
    · rw [ends _ (by decide), addr]

/-! ### Bursts -/

section

variable {d d' : Dev} {m m' : Mem}

/-- What a burst of the running channel makes of how its last beat went. -/
theorem derrickBurst_moved (runs : d.runningChannel = some c) (loaded : (d.derrick.ch[c]).loaded = true)
    (left : (d.derrick.ch[c]).count ≠ 0) (moved : burstBeats 16 d m c = (.moved, d', m')) (more : (d'.derrick.ch[c]).count ≠ 0) :
    derrickBurst d m = (d', m') := by
  unfold derrickBurst
  rw [runs]
  dsimp only
  rw [if_neg (by rw [loaded, Bool.not_true, Bool.false_or, beq_iff_eq]; exact left), moved]
  exact if_neg more

theorem derrickBurst_ends (runs : d.runningChannel = some c) (loaded : (d.derrick.ch[c]).loaded = true)
    (left : (d.derrick.ch[c]).count ≠ 0) (moved : burstBeats 16 d m c = (.moved, d', m')) (none_left : (d'.derrick.ch[c]).count = 0)
    (goesOn : (d'.descriptorDone c).derrick.allStop = false) : derrickBurst d m = (d'.descriptorDone c, m') := by
  unfold derrickBurst
  rw [runs]
  dsimp only
  rw [if_neg (by rw [loaded, Bool.not_true, Bool.false_or, beq_iff_eq]; exact left), moved]
  exact (if_pos none_left).trans (if_neg (by rw [goesOn, Bool.false_and]; decide))

theorem derrickBurst_readFails {e : BusCode} {b : Nat} (runs : d.runningChannel = some c) (loaded : (d.derrick.ch[c]).loaded = true)
    (left : (d.derrick.ch[c]).count ≠ 0) (failed : burstBeats 16 d m c = (.readFails e b, d', m')) :
    derrickBurst d m = (d'.channelError c 0 b e, m') := by
  unfold derrickBurst
  rw [runs]
  dsimp only
  rw [if_neg (by rw [loaded, Bool.not_true, Bool.false_or, beq_iff_eq]; exact left), failed]

theorem modChannel_congr {f g : Channel → Channel} (same : f d.derrick.ch[c] = g d.derrick.ch[c]) : d.modChannel c f = d.modChannel c g := by
  rw [Dev.modChannel, same]
  rfl

theorem modChannel_twice (f g : Channel → Channel) : (d.modChannel c f).modChannel c g = d.modChannel c fun x => g (f x) := by
  have own : (d.modChannel c f).derrick.ch[c] = f d.derrick.ch[c] := Vector.getElem_set_self ..
  have ch : (d.modChannel c f).derrick.ch.set c (g (f d.derrick.ch[c])) = d.derrick.ch.set c (g (f d.derrick.ch[c])) := by
    rw [Dev.modChannel_ch, Vector.set_set]
  rw [Dev.modChannel, own, ch]
  rfl

/-- A channel after its last word has moved. -/
def movedWord (x : Channel) (w : Word) : Channel := { x with src := x.src + 4, dst := x.dst + 4, count := 0, funnel := some (x.src, w) }

/-- A channel that has one word left to move, upwards, between aligned places. -/
def LastWord (x : Channel) : Prop :=
  x.count = 4 ∧ x.src % 4 = 0 ∧ x.dst % 4 = 0 ∧ x.ctl.bit 29 = false ∧ x.ctl.bit 28 = false ∧ x.down = false ∧ x.funnel = none

theorem beat_lastWord {x : Channel} (last : LastWord x) : x.beat = (4, 0) := by
  obtain ⟨count, -, dst, -, fixed, up, -⟩ := last
  simp [Channel.beat, count, dst, fixed, up]

theorem funnelRead_empty {a : Nat} (quiet : Quiet d) (empty : (d.derrick.ch[c]).funnel = none) (low : 0x3000000 ≤ a)
    (hopen : d.stops .derrick false 32 a = none) :
    funnelRead d m c a = (.inl (Mem.word m a), d.modChannel c fun x => { x with funnel := some (a, Mem.word m a) }, m) := by
  have reached := access_window_read (m := m) 0 hopen low
  rw [settled_quiet m quiet] at reached
  unfold funnelRead
  dsimp only
  rw [empty]
  dsimp only
  rw [reached]
  dsimp only
  rw [low32_toNat]

theorem beatSource_lastWord (last : LastWord d.derrick.ch[c]) (quiet : Quiet d) (low : 0x3000000 ≤ (d.derrick.ch[c]).src)
    (hopen : d.stops .derrick false 32 (d.derrick.ch[c]).src = none) :
    beatSource d m c (d.derrick.ch[c]).src 4 = (.inl (Mem.word m (d.derrick.ch[c]).src).toNat,
      d.modChannel c fun x => { x with funnel := some ((d.derrick.ch[c]).src, Mem.word m (d.derrick.ch[c]).src) }, m) := by
  obtain ⟨-, src, -, -, -, up, empty⟩ := last
  have lo : (d.derrick.ch[c]).src / 4 * 4 = (d.derrick.ch[c]).src := by omega
  have hi : ((d.derrick.ch[c]).src + 4 - 1) / 4 * 4 = (d.derrick.ch[c]).src := by omega
  have whole (w : Word) : w.toNat / 2 ^ (8 * ((d.derrick.ch[c]).src % 4)) % 256 ^ 4 = w.toNat := by
    rw [src, Nat.mul_zero, pow_zero, Nat.div_one, Nat.mod_eq_of_lt]
    exact lt_of_lt_of_eq w.isLt (by norm_num)
  unfold beatSource
  dsimp only
  rw [up, lo, hi, if_neg Bool.false_ne_true, funnelRead_empty quiet empty low hopen]
  dsimp only
  rw [if_pos rfl, whole]

theorem oneBeat_lastWord (last : LastWord d.derrick.ch[c]) (quiet : Quiet d) (srcLow : 0x3000000 ≤ (d.derrick.ch[c]).src)
    (srcHigh : (d.derrick.ch[c]).src + 4 ≤ 0x3C00000) (dstLow : 0x3000000 ≤ (d.derrick.ch[c]).dst)
    (dstHigh : (d.derrick.ch[c]).dst + 4 ≤ 0x3C00000) (reads : d.stops .derrick false 32 (d.derrick.ch[c]).src = none)
    (writes : d.stops .derrick true 32 (d.derrick.ch[c]).dst = none) :
    oneBeat d m c = (.moved, d.modChannel c fun x => movedWord x (Mem.word m (d.derrick.ch[c]).src),
      Mem.setWord m (d.derrick.ch[c]).dst (Mem.word m (d.derrick.ch[c]).src)) := by
  have source := beatSource_lastWord (m := m) last quiet srcLow reads
  have beat := beat_lastWord last
  obtain ⟨count, -, -, fixSrc, fixDst, up, -⟩ := last
  have from' : (if (d.derrick.ch[c]).ctl.bit 29 then (d.derrick.ch[c]).src else (d.derrick.ch[c]).src + 0) % 4294967296 = (d.derrick.ch[c]).src := by
    rw [fixSrc, if_neg Bool.false_ne_true]
    omega
  have to' : (if (d.derrick.ch[c]).ctl.bit 28 then (d.derrick.ch[c]).dst else (d.derrick.ch[c]).dst + 0) % 4294967296 = (d.derrick.ch[c]).dst := by
    rw [fixDst, if_neg Bool.false_ne_true]
    omega
  unfold oneBeat
  dsimp only
  rw [beat]
  dsimp only
  rw [from', to', source]
  dsimp only
  have written := access_window_write (n := 4) (m := m) (i := .derrick) (d := d.modChannel c fun x =>
    { x with funnel := some ((d.derrick.ch[c]).src, Mem.word m (d.derrick.ch[c]).src) }) (Mem.word m (d.derrick.ch[c]).src).toNat
    (.inr (.inr rfl)) writes dstLow
  rw [settled_quiet _ (by exact quiet), dataBytes_four] at written
  rw [written]
  dsimp only
  refine congrArg (fun e => (BeatEnd.moved, e, _)) ((modChannel_twice ..).trans (modChannel_congr ?_))
  rw [movedWord, up, fixSrc, fixDst, count]
  rfl

end

theorem burstBeats_lastWord {d d' : Dev} {m m' : Mem} (beat : oneBeat d m c = (.moved, d', m')) (none_left : (d'.derrick.ch[c]).count = 0) :
    burstBeats 16 d m c = (.moved, d', m') := by
  have stops : ¬ burstGoesOn d.derrick.ch[c] d'.derrick.ch[c] = true := by
    rw [burstGoesOn, none_left]
    simp
  rw [burstBeats, beat]
  exact if_neg stops

/-- The end of a descriptor that ends its chain. -/
theorem descriptorDone_last {d : Dev} (last : (d.derrick.ch[c]).ctl.bit 31 = true) :
    d.descriptorDone c = if (d.derrick.ch[c]).ctl.bit 30 then d.raise Reg.DERRICK_EVT 0 else d := if_pos last

theorem derrickMoves : DerrickMoves := by
  intro s c runs loaded
  refine ⟨fun d m left moved more => congrArg (outOf s) (derrickBurst_moved runs loaded left moved more),
    fun e b d m left failed => congrArg (outOf s) (derrickBurst_readFails runs loaded left failed),
    fun count src dst srcLow srcHigh dstLow dstHigh last fixSrc fixDst up empty goesOn quiet reads writes => ?_, fun count last free => ?_⟩
  · have word : LastWord s.dev.derrick.ch[c] := ⟨count, src, dst, fixSrc, fixDst, up, empty⟩
    have beat := oneBeat_lastWord (m := s.mem) word quiet srcLow srcHigh dstLow dstHigh reads writes
    generalize moved : (s.dev.modChannel c fun x => movedWord x (Mem.word s.mem (s.dev.derrick.ch[c]).src)) = d at beat
    have channel : d.derrick.ch[c] = movedWord s.dev.derrick.ch[c] (Mem.word s.mem (s.dev.derrick.ch[c]).src) := by
      rw [← moved]
      exact Vector.getElem_set_self ..
    have channels : d.derrick.allStop = s.dev.derrick.allStop ∧ d.regs = s.dev.regs := by
      rw [← moved]
      exact ⟨rfl, rfl⟩
    have drained : (d.derrick.ch[c]).count = 0 := by rw [channel]; rfl
    have ends : d.descriptorDone c = if (s.dev.derrick.ch[c]).ctl.bit 30 then d.raise Reg.DERRICK_EVT 0 else d := by
      rw [descriptorDone_last (by rw [channel]; exact last), channel]
      rfl
    have derrick : (d.descriptorDone c).derrick = d.derrick := by
      rw [ends]
      split
      · exact Dev.raise_derrick ..
      · rfl
    have regs : SameRegsBut [Reg.DERRICK_EVT] s.dev (d.descriptorDone c) := by
      refine (SameRegsBut.of_regs channels.2).trans ?_
      rw [ends]
      split
      · exact sameRegs_raise _ _ (by simp)
      · exact fun _ _ => rfl
    refine ⟨_, _, congrArg (outOf s) (derrickBurst_ends runs loaded (by omega) (burstBeats_lastWord beat drained) drained
      (by rw [derrick, channels.1, goesOn])), Mem.word_setWord_same .., fun b out => Mem.get_setWord_out _ _ _ out, ?_, ?_, ?_, ?_, ?_, regs⟩
    · rw [derrick, drained]
    · rw [derrick, channel]
      rfl
    · rw [derrick, channel]
      rfl
    · rw [derrick, channel]
      have running : ((s.dev.derrick.ch[c]).st == ChState.running) = true := List.find?_some (p := fun j : Fin 8 => (s.dev.derrick.ch[j]).st == ChState.running) runs
      exact beq_iff_eq.mp running
    · intro asked
      rw [ends, if_pos asked]
      exact set_raise _ (by decide)
  · have ended : s.dev.chainEnd = (withDerrick s (withChannel s.dev.derrick c { s.dev.derrick.ch[c] with st := .done })).engineNext := by
      unfold Dev.chainEnd
      rw [runs]
      exact if_pos (by rw [loaded, count, last]; rfl)
    obtain ⟨z, zch, is⟩ := engineNext_unready (x := { s.dev.derrick.ch[c] with st := .done })
      (y := withChannel s.dev.derrick c { s.dev.derrick.ch[c] with st := .done }) (.inr (.inr rfl)) rfl (.inl free)
    exact ⟨withDerrick s z, congrArg (fun d => (.next (withDev s d) : Out)) (ended.trans is), ⟨zch, rfl⟩, rfl⟩

end

/-- Settles O48: a channel's control, its descriptors and its moves are those of chapter 14. -/
theorem derrickChannels : Obligations.DerrickChannels := ⟨derrickControl, derrickDescriptor, derrickMoves⟩

end Sys2Proof.Cert

/-! PROOFS. Register fields (O43): what a write does to the fields of a register, and what the same cycle adds (R9, R13, R43). -/

namespace Sys2Proof.Cert

open Sys2Proof.Machine

/-! ### Folds over the fields of a register -/

section

variable {fs : List FieldRow} {g : Word → FieldRow → Word} {f : FieldRow} {b : Nat}

/-- A field has its place in a word. -/
def FitsWord (f : FieldRow) : Prop := f.lo ≤ f.hi ∧ f.hi < 32

/-- Two fields share no bit. -/
def FieldsApart (f h : FieldRow) : Prop := f.hi < h.lo ∨ h.hi < f.lo

/-- A step of a fold changes no bit outside its field. -/
def StepsInside (g : Word → FieldRow → Word) : Prop :=
  ∀ (v : Word) (f : FieldRow) (b : Nat), FitsWord f → b < 32 → (b < f.lo ∨ f.hi < b) → (g v f).bit b = v.bit b

theorem foldl_outside (inside : StepsInside g) (fit : ∀ f ∈ fs, FitsWord f) (v : Word) (b32 : b < 32) (out : ∀ f ∈ fs, b < f.lo ∨ f.hi < b) :
    (fs.foldl g v).bit b = v.bit b := by
  induction fs generalizing v with
  | nil => rfl
  | cons f fs more =>
    rw [List.forall_mem_cons] at fit out
    rw [List.foldl_cons, more fit.2 _ out.2, inside v f b fit.1 b32 out.1]

/-- The bits of a field after a fold are what the field's own step makes of a word that has them as before. -/
theorem foldl_inside (inside : StepsInside g) (fit : ∀ f ∈ fs, FitsWord f) (apart : fs.Pairwise FieldsApart) (mem : f ∈ fs) (v : Word) :
    ∃ u : Word, (∀ b, f.lo ≤ b → b ≤ f.hi → u.bit b = v.bit b) ∧ ∀ b, f.lo ≤ b → b ≤ f.hi → (fs.foldl g v).bit b = (g u f).bit b := by
  obtain ⟨pre, post, rfl⟩ := List.append_of_mem mem
  have here : FitsWord f := fit f mem
  rw [List.pairwise_append, List.pairwise_cons] at apart
  obtain ⟨-, ⟨after, -⟩, before⟩ := apart
  have preFit (h : FieldRow) (m : h ∈ pre) : FitsWord h := fit h (List.mem_append_left _ m)
  have postFit (h : FieldRow) (m : h ∈ post) : FitsWord h := fit h (List.mem_append_right _ (List.mem_cons_of_mem _ m))
  refine ⟨pre.foldl g v, fun b low high => ?_, fun b low high => ?_⟩
  · refine foldl_outside inside preFit v (lt_of_le_of_lt high here.2) fun h m => ?_
    rcases before h m f List.mem_cons_self with below | above
    · exact .inr (by omega)
    · exact .inl (by omega)
  · rw [List.foldl_append, List.foldl_cons]
    refine foldl_outside inside postFit _ (lt_of_le_of_lt high here.2) fun h m => ?_
    rcases after h m with below | above
    · exact .inl (by omega)
    · exact .inr (by omega)

end

/-! ### Bits and fields of words -/

theorem Word.bit_and (v w : Word) (b : Nat) : (v &&& w).bit b = (v.bit b && w.bit b) := by
  simp only [Word.bit, BitVec.toNat_and, Nat.testBit_and]

theorem Word.bit_not (w : Word) {b : Nat} (b32 : b < 32) : (~~~w).bit b = !w.bit b := by
  simp only [Word.bit, BitVec.testBit_toNat, BitVec.getLsbD_not, b32, decide_true, Bool.true_and]

/-- A field whose bits agree has one value. -/
theorem Word.get_congr {v w : Word} {hi lo : Nat} (same : ∀ b, lo ≤ b → b ≤ hi → v.bit b = w.bit b) : v.get hi lo = w.get hi lo := by
  refine Nat.eq_of_testBit_eq fun j => ?_
  rw [Word.testBit_get, Word.testBit_get]
  by_cases inside : j < hi + 1 - lo
  · rw [same (lo + j) (by omega) (by omega)]
  · rw [decide_eq_false inside, Bool.false_and, Bool.false_and]

theorem Word.bit_of_get_zero {w : Word} {hi lo b : Nat} (zero : w.get hi lo = 0) (low : lo ≤ b) (high : b ≤ hi) : w.bit b = false := by
  have bit := Word.testBit_get w hi lo (b - lo)
  rw [zero, Nat.zero_testBit, decide_eq_true (by omega : b - lo < hi + 1 - lo), Bool.true_and, Nat.add_sub_cancel' low] at bit
  exact bit.symm

/-- The bits of a field that is put from another word. -/
theorem Word.bit_put_get (v w : Word) {hi lo b : Nat} (order : lo ≤ hi) (hi32 : hi < 32) (low : lo ≤ b) (high : b ≤ hi) :
    (v.put hi lo (w.get hi lo)).bit b = w.bit b := by
  rw [bit_put _ _ order hi32 (by omega), if_pos ⟨low, high⟩, Word.testBit_get, decide_eq_true (by omega : b - lo < hi + 1 - lo), Bool.true_and,
    Nat.add_sub_cancel' low]

/-! ### What a write does by the types of the fields (R9) -/

/-- A write's step for one field. -/
def typeStep (w v : Word) (f : FieldRow) : Word :=
  match f.type with
  | .rw => v.put f.hi f.lo (w.get f.hi f.lo)
  | .cnt => v.put f.hi f.lo (w.get f.hi f.lo)
  | .w1c => v.put f.hi f.lo ((v &&& ~~~w).get f.hi f.lo)
  | _ => v

theorem fieldWrite_eq (fs : List FieldRow) (old w : Word) : fieldWrite fs old w = fs.foldl (typeStep w) old := rfl

theorem typeStep_inside (w : Word) : StepsInside (typeStep w) := by
  intro v f b fit b32 out
  have outside (n : Nat) : (v.put f.hi f.lo n).bit b = v.bit b := by
    rw [bit_put _ _ fit.1 fit.2 b32, if_neg (by omega)]
  unfold typeStep
  cases f.type <;> simp only [outside]

/-- A bit of a field after a write, from the old one and the written one (R9). -/
def typeBit (t : FieldType) (old new : Bool) : Bool :=
  match t with
  | .rw => new
  | .cnt => new
  | .w1c => old && !new
  | _ => old

/-- The bits of a field after the write, by its type. -/
theorem typeStep_bit (w v : Word) {f : FieldRow} (fit : FitsWord f) {b : Nat} (low : f.lo ≤ b) (high : b ≤ f.hi) :
    (typeStep w v f).bit b = typeBit f.type (v.bit b) (w.bit b) := by
  unfold typeStep typeBit
  cases f.type <;> simp only [Word.bit_put_get _ _ fit.1 fit.2 low high, Word.bit_and, Word.bit_not w (lt_of_le_of_lt high fit.2)]

theorem fieldsByType : FieldsByType := by
  intro fs old w fit apart
  refine ⟨fun f mem b low high => ?_, fun b b32 out => ?_⟩
  · obtain ⟨u, same, is⟩ := foldl_inside (typeStep_inside w) fit apart mem old
    refine Eq.trans (b := typeBit f.type (old.bit b) (w.bit b)) ?_ (by cases f.type <;> rfl)
    rw [fieldWrite_eq, is b low high, typeStep_bit w u (fit f mem) low high, same b low high]
  · rw [fieldWrite_eq]
    exact foldl_outside (typeStep_inside w) fit old b32 out

/-! ### What the same cycle adds (R10, R13, R43) -/

/-- A counter's step: what it has counted in the cycle of the write. -/
def countStep (d : Dev) (a : Nat) (v : Word) (f : FieldRow) : Word :=
  if f.type == .cnt && d.countedNow a f.lo != 0 then
    v.put f.hi f.lo (if a = Reg.CADENCE_TICK_COUNT then v.get f.hi f.lo + d.countedNow a f.lo
      else min (v.get f.hi f.lo + d.countedNow a f.lo) (2 ^ (f.hi + 1 - f.lo) - 1))
  else v

/-- The fields that a write still acts on: one that comes before another of its cycle acts on W1C fields alone. -/
def actsOn (d : Dev) (rank a : Nat) : List FieldRow :=
  if d.overtaken a rank then (fieldsOf a).filter (·.type == .w1c) else fieldsOf a

theorem devFieldWrite_eq (d : Dev) (rank a : Nat) (w : Word) : d.fieldWrite rank a w =
    if d.overtaken a rank then fieldWrite (actsOn d rank a) (d.rd a) w ||| d.setNow a
    else (fieldsOf a).foldl (countStep d a) (fieldWrite (actsOn d rank a) (d.rd a) w ||| d.setNow a) := rfl

theorem countStep_inside (d : Dev) (a : Nat) : StepsInside (countStep d a) := by
  intro v f b fit b32 out
  unfold countStep
  split
  · rw [bit_put _ _ fit.1 fit.2 b32, if_neg (by omega)]
  · rfl

theorem countStep_other (d : Dev) (a : Nat) (v : Word) {f : FieldRow} (other : f.type ≠ .cnt) : countStep d a v f = v :=
  if_neg (by simp [other])

/-- Where nothing else has touched the register in the cycle, the write is that of R9. -/
theorem fieldWrite_alone {d : Dev} {rank a : Nat} {w : Word} (first : d.overtaken a rank = false) (sets : d.setNow a = 0)
    (counts : ∀ lo, d.countedNow a lo = 0) :
    d.fieldWrite rank a w = fieldWrite (fieldsOf a) (d.rd a) w := by
  have still (fs : List FieldRow) (v : Word) : fs.foldl (countStep d a) v = v := by
    induction fs generalizing v with
    | nil => rfl
    | cons f fs more => rw [List.foldl_cons, countStep, counts f.lo, if_neg (by simp), more]
  rw [devFieldWrite_eq, first, if_neg Bool.false_ne_true, still, actsOn, first, if_neg Bool.false_ne_true, sets]
  exact BitVec.or_zero

section

variable {d : Dev} {rank a : Nat} {w : Word} {f : FieldRow} (fit : ∀ f ∈ fieldsOf a, FitsWord f) (apart : (fieldsOf a).Pairwise FieldsApart)
include fit apart

/-- The bits of a field by the types of R9, where the write still acts on it. -/
theorem actsOn_bit (mem : f ∈ fieldsOf a) {b : Nat} (low : f.lo ≤ b) (high : b ≤ f.hi) :
    (fieldWrite (actsOn d rank a) (d.rd a) w).bit b =
      if d.overtaken a rank = true ∧ f.type ≠ .w1c then (d.rd a).bit b else typeBit f.type ((d.rd a).bit b) (w.bit b) := by
  have byType (fs : List FieldRow) (fit' : ∀ f ∈ fs, FitsWord f) (apart' : fs.Pairwise FieldsApart) (here : f ∈ fs) :
      (fieldWrite fs (d.rd a) w).bit b = typeBit f.type ((d.rd a).bit b) (w.bit b) :=
    ((fieldsByType fs (d.rd a) w fit' apart').1 f here b low high).trans (by cases f.type <;> rfl)
  unfold actsOn
  cases late : d.overtaken a rank with
  | false =>
    rw [if_neg Bool.false_ne_true, if_neg (by simp)]
    exact byType _ fit apart mem
  | true =>
    rw [if_pos rfl]
    have fit' (h : FieldRow) (m : h ∈ (fieldsOf a).filter (·.type == .w1c)) : FitsWord h := fit h (List.mem_filter.mp m).1
    by_cases isW1c : f.type = .w1c
    · rw [if_neg (by simp [isW1c])]
      exact byType _ fit' (apart.filter _) (List.mem_filter.mpr ⟨mem, by simp [isW1c]⟩)
    · rw [if_pos ⟨rfl, isW1c⟩, fieldWrite_eq]
      refine foldl_outside (typeStep_inside w) fit' _ (lt_of_le_of_lt high (fit f mem).2) fun h m => ?_
      obtain ⟨mem', type⟩ := List.mem_filter.mp m
      have other : h ≠ f := fun same => isW1c (same ▸ beq_iff_eq.mp type)
      have : Std.Symm FieldsApart := ⟨fun _ _ => Or.symm⟩
      rcases apart.forall mem' mem other with below | above
      · exact .inr (by omega)
      · exact .inl (by omega)

/-- The bits of a field that is no counter. -/
theorem devFieldWrite_bit (mem : f ∈ fieldsOf a) (other : f.type ≠ .cnt) {b : Nat} (low : f.lo ≤ b) (high : b ≤ f.hi) :
    (d.fieldWrite rank a w).bit b = ((fieldWrite (actsOn d rank a) (d.rd a) w).bit b || (d.setNow a).bit b) := by
  rw [devFieldWrite_eq, ← Word.bit_or]
  split
  · rfl
  · obtain ⟨u, same, is⟩ := foldl_inside (countStep_inside d a) fit apart mem (fieldWrite (actsOn d rank a) (d.rd a) w ||| d.setNow a)
    rw [is b low high, countStep_other d a u other, same b low high]

omit apart in
/-- A bit of no field. -/
theorem devFieldWrite_outside {b : Nat} (b32 : b < 32) (out : ∀ f ∈ fieldsOf a, b < f.lo ∨ f.hi < b) :
    (d.fieldWrite rank a w).bit b = ((d.rd a).bit b || (d.setNow a).bit b) := by
  have kept : (fieldWrite (actsOn d rank a) (d.rd a) w).bit b = (d.rd a).bit b := by
    have sub (f : FieldRow) (m : f ∈ actsOn d rank a) : f ∈ fieldsOf a := by
      unfold actsOn at m
      split at m
      · exact (List.mem_filter.mp m).1
      · exact m
    rw [fieldWrite_eq]
    exact foldl_outside (typeStep_inside w) (fun f m => fit f (sub f m)) _ b32 fun f m => out f (sub f m)
  rw [devFieldWrite_eq]
  split
  · rw [Word.bit_or, kept]
  · rw [foldl_outside (countStep_inside d a) fit _ b32 out, Word.bit_or, kept]

/-- A counter's field: the value written, and on top of it what it has counted. -/
theorem devFieldWrite_counter (mem : f ∈ fieldsOf a) (isCnt : f.type = .cnt) (first : d.overtaken a rank = false)
    (notTicks : a ≠ Reg.CADENCE_TICK_COUNT) (quiet : (d.setNow a).get f.hi f.lo = 0) : (d.fieldWrite rank a w).get f.hi f.lo =
      min (w.get f.hi f.lo + d.countedNow a f.lo) (2 ^ (f.hi + 1 - f.lo) - 1) := by
  obtain ⟨u, same, is⟩ := foldl_inside (countStep_inside d a) fit apart mem (fieldWrite (actsOn d rank a) (d.rd a) w ||| d.setNow a)
  have written : u.get f.hi f.lo = w.get f.hi f.lo := Word.get_congr fun b low high => by
    rw [same b low high, Word.bit_or, Word.bit_of_get_zero quiet low high, Bool.or_false, actsOn_bit fit apart mem low high, first,
      if_neg (by simp), isCnt]
    rfl
  have counted : (d.fieldWrite rank a w).get f.hi f.lo = (countStep d a u f).get f.hi f.lo := Word.get_congr fun b low high => by
    rw [devFieldWrite_eq, first, if_neg Bool.false_ne_true, is b low high]
  have bound := Word.get_lt w f.hi f.lo
  rw [counted, countStep]
  by_cases none_ : d.countedNow a f.lo = 0
  · rw [if_neg (by simp [none_]), written, none_]
    omega
  · rw [if_pos (by simp [isCnt, none_]), if_neg notTicks, Word.get_put_same _ _ (fit f mem).1 (fit f mem).2, written]
    exact Nat.mod_eq_of_lt (by omega)

end

theorem fieldsOfOneCycle : FieldsOfOneCycle := by
  intro d rank a w fit apart
  refine ⟨fieldWrite_alone, fun f mem => ⟨fun isW1c b low high => ?_, fun isRw quiet => Word.get_congr fun b low high => ?_,
    fun isCnt first notTicks quiet => devFieldWrite_counter fit apart mem isCnt first notTicks quiet⟩⟩
  · rw [devFieldWrite_bit fit apart mem (by rw [isW1c]; decide) low high, actsOn_bit fit apart mem low high, if_neg (by simp [isW1c]), isW1c]
    rfl
  · rw [devFieldWrite_bit fit apart mem (by rw [isRw]; decide) low high, actsOn_bit fit apart mem low high,
      Word.bit_of_get_zero quiet low high, Bool.or_false, isRw]
    cases d.overtaken a rank <;> rfl

end Sys2Proof.Cert

/-! PROOFS. Writes that reach their target (O43): plain registers and memory windows. -/

namespace Sys2Proof.Cert

open Sys2Proof.Machine

/-! ### Registers whose write has no other meaning -/

section

variable {d : Dev} {i : Initiator} {a : Nat} {w : Word}

/-- A range of registers holds an address. -/
theorem any_range {n : Nat} {p : Nat → Bool} {k : Nat} (low : k < n) (here : p k = true) : (List.range n).any p = true :=
  List.any_eq_true.mpr ⟨k, List.mem_range.mpr low, here⟩

theorem writeLow_plain (plain : actsOnWrite a = false) (aligned : a % 4 = 0) : d.writeLow i a w = d.writeFields (byInit i) a w := by
  simp only [actsOnWrite, Bool.or_eq_false_iff] at plain
  obtain ⟨⟨⟨⟨⟨⟨⟨⟨⟨listed, slots⟩, channels⟩, -⟩, -⟩, -⟩, -⟩, -⟩, -⟩, -⟩ := plain
  simp only [List.contains_cons, Bool.or_eq_false_iff, beq_eq_false_iff_ne] at listed
  have slot : ¬ (Reg.TIME_SCHED_CTRL 0 ≤ a ∧ a < 0x20400 ∧ a % 16 = 0) := fun here => by
    rw [any_range (k := (a - 0x20200) / 16) (by omega) (by simp [Reg.TIME_SCHED_CTRL] at here ⊢; omega)] at slots
    exact absurd slots (by decide)
  have channel : ¬ (0x60100 ≤ a ∧ a < 0x60200 ∧ a % 32 = 4) := fun here => by
    rw [any_range (k := (a - 0x60100) / 32) (by omega) (by simp [Reg.DERRICK_CH_CTRL]; omega)] at channels
    exact absurd channels (by decide)
  unfold Dev.writeLow
  simp only [listed, slot, channel, if_false]

theorem writeMid_plain (plain : actsOnWrite a = false) (aligned : a % 4 = 0) : d.writeMid i a w = d.writeFields (byInit i) a w := by
  simp only [actsOnWrite, Bool.or_eq_false_iff] at plain
  obtain ⟨⟨⟨⟨⟨⟨⟨⟨⟨listed, -⟩, -⟩, paths⟩, quiet⟩, kernels⟩, -⟩, flows⟩, -⟩, -⟩ := plain
  simp only [List.contains_cons, Bool.or_eq_false_iff, beq_eq_false_iff_ne] at listed
  have flow : ¬ (0x92800 ≤ a ∧ a < 0x93000 ∧ a % 8 = 0) := fun here => (decide_eq_false_iff_not.mp flows) ⟨here.1, here.2.1⟩
  have cfg : ¬ (0xB1000 ≤ a ∧ a < 0xB1800 ∧ a % 0x20 = 0) := fun here => by
    rw [any_range (k := (a - 0xB1000) / 0x20) (by omega) (by simp [Reg.DPD_PATH_CFG]; omega)] at paths
    exact absurd paths (by decide)
  have ctrl : ¬ (0xB1000 ≤ a ∧ a < 0xB1800 ∧ a % 0x20 = 8) := fun here => by
    rw [any_range (k := (a - 0xB1000) / 0x20) (by omega) (by simp [Reg.DPD_PATH_CTRL]; omega)] at paths
    exact absurd paths (by decide)
  have map : ¬ (Reg.CAL_QMAP 0 ≤ a ∧ a ≤ Reg.CAL_QMAP 69) := fun here => by
    simp only [Reg.CAL_QMAP] at here
    rw [any_range (k := (a - Reg.CAL_QMAP 0) / 4) (by simp only [Reg.CAL_QMAP]; omega) (by simp [Reg.CAL_QMAP]; omega)] at quiet
    exact absurd quiet (by decide)
  have kernel : ¬ (0xD0200 ≤ a ∧ a < 0xD0300 ∧ a % 16 = 8) := fun here => by
    rw [any_range (k := (a - 0xD0200) / 16) (by omega) (by simp [Reg.CHISEL_KSLOT_ACT]; omega)] at kernels
    exact absurd kernels (by decide)
  unfold Dev.writeMid
  simp only [listed, flow, cfg, ctrl, map, kernel, if_false]

theorem writeTile_plain (plain : actsOnWrite a = false) (low : 0x100000 ≤ a) (high : a < 0x140000) :
    d.writeTile i a w = d.writeFields (byInit i) a w := by
  simp only [actsOnWrite, Bool.or_eq_false_iff] at plain
  obtain ⟨⟨-, iq⟩, tile⟩ := plain
  rw [decide_eq_true (⟨low, high⟩ : 0x100000 ≤ a ∧ a < 0x140000), Bool.true_and, Bool.or_eq_false_iff, decide_eq_false_iff_not] at tile
  obtain ⟨listed, entry⟩ := tile
  simp only [List.contains_cons, Bool.or_eq_false_iff, beq_eq_false_iff_ne] at listed
  have none_ : iqOf a = none := by simpa using iq
  unfold Dev.writeTile
  simp only [listed, entry, none_, if_false, or_self]

theorem writeBias_plain (plain : actsOnWrite a = false) (aligned : a % 4 = 0) : d.writeBias i a w = d.writeFields (byInit i) a w := by
  simp only [actsOnWrite, Bool.or_eq_false_iff] at plain
  obtain ⟨⟨⟨⟨⟨⟨⟨⟨⟨listed, -⟩, -⟩, -⟩, -⟩, -⟩, outs⟩, -⟩, -⟩, -⟩ := plain
  simp only [List.contains_cons, Bool.or_eq_false_iff, beq_eq_false_iff_ne] at listed
  have sc : ¬ (Reg.BIAS_SC0 ≤ a ∧ a ≤ Reg.BIAS_SC2) := fun here => by
    simp only [Reg.BIAS_SC0, Reg.BIAS_SC1, Reg.BIAS_SC2] at here listed
    omega
  have cfg : ¬ (0x180100 ≤ a ∧ a < 0x180700 ∧ a % 16 = 0) := fun here => by
    rw [any_range (k := (a - 0x180100) / 16) (by omega) (by simp [Reg.BIAS_OUT_CFG]; omega)] at outs
    exact absurd outs (by decide)
  have code : ¬ (0x180100 ≤ a ∧ a < 0x180700 ∧ a % 16 = 4) := fun here => by
    rw [any_range (k := (a - 0x180100) / 16) (by omega) (by simp [Reg.BIAS_OUT_CODE]; omega)] at outs
    exact absurd outs (by decide)
  unfold Dev.writeBias
  simp only [listed, sc, cfg, code, if_false]

/-- A register whose write has no other meaning is written by the types of its fields. -/
theorem writeReg_plain (plain : actsOnWrite a = false) (aligned : a % 4 = 0) : d.writeReg i a w = d.writeFields (byInit i) a w := by
  unfold Dev.writeReg
  split
  · exact writeLow_plain plain aligned
  · split
    · exact writeMid_plain plain aligned
    · split
      · exact writeTile_plain plain (by omega) (by omega)
      · exact writeBias_plain plain aligned

/-! ### A write by the types of the fields -/

/-- The tick-bound bits of a written word are committed, where it has any. -/
def committed (d : Dev) (c : Committer) (a : Nat) (v w : Word) : Dev :=
  if tickMask a = 0 then d else d.commitWord c a (if d.overtaken a c.rank then fieldWrite (fieldsOf a) v w else v)

theorem writeFields_eq (d : Dev) (i : Initiator) (a : Nat) (w : Word) : d.writeFields (byInit i) a w =
    (committed (d.wr a (d.fieldWrite (initRank i) a w)) (byInit i) a (d.fieldWrite (initRank i) a w) w).noteWrite a (initRank i) := rfl

theorem committed_frame (d : Dev) (c : Committer) (a : Nat) (v w : Word) : ∃ x, committed d c a v w = { d with cad := x } := by
  unfold committed
  split
  · exact ⟨d.cad, rfl⟩
  · exact ⟨_, rfl⟩

theorem overtaken_wr (d : Dev) (a b rank : Nat) (v : Word) : (d.wr a v).overtaken b rank = d.overtaken b rank := rfl

theorem sameNow_cycle (d : Dev) : d.sameNow.cycle = d.time.cycle := by
  unfold Dev.sameNow
  split
  · assumption
  · rfl

theorem sameNow_noteWrite (d : Dev) (a rank : Nat) :
    (d.noteWrite a rank).sameNow = { d.sameNow with writes := (a, rank) :: d.sameNow.writes } := if_pos (sameNow_cycle d)

theorem overtaken_noteWrite (d : Dev) (a rank : Nat) : (d.noteWrite a rank).overtaken a rank = d.overtaken a rank := by
  rw [Dev.overtaken, sameNow_noteWrite]
  simp [Dev.overtaken]

theorem writtenNow_noteWrite (d : Dev) (a rank : Nat) : (d.noteWrite a rank).writtenNow a = true := by
  rw [Dev.writtenNow, sameNow_noteWrite]
  simp

section

variable (d : Dev) (i : Initiator) (a : Nat) (w : Word)

theorem rd_writeFields (b : Nat) : (d.writeFields (byInit i) a w).rd b = (d.wr a (d.fieldWrite (initRank i) a w)).rd b := by
  obtain ⟨x, is⟩ := committed_frame (d.wr a (d.fieldWrite (initRank i) a w)) (byInit i) a (d.fieldWrite (initRank i) a w) w
  rw [writeFields_eq, Dev.rd_noteWrite, is]
  rfl

theorem rd_writeFields_same : (d.writeFields (byInit i) a w).rd a = d.fieldWrite (initRank i) a w :=
  (rd_writeFields d i a w a).trans (Dev.rd_wr_same ..)

theorem sameRegs_writeFields : SameRegsBut [a] d (d.writeFields (byInit i) a w) := fun b out =>
  (rd_writeFields d i a w b).trans (Dev.rd_wr_ne _ _ fun same => out (by simp [same]))

theorem writeFields_frame : ∃ m sc x, d.writeFields (byInit i) a w = { d with regs := m, same := sc, cad := x } := by
  obtain ⟨x, is⟩ := committed_frame (d.wr a (d.fieldWrite (initRank i) a w)) (byInit i) a (d.fieldWrite (initRank i) a w) w
  rw [writeFields_eq, is]
  exact ⟨_, _, x, rfl⟩

theorem overtaken_writeFields : (d.writeFields (byInit i) a w).overtaken a (initRank i) = d.overtaken a (initRank i) := by
  obtain ⟨x, is⟩ := committed_frame (d.wr a (d.fieldWrite (initRank i) a w)) (byInit i) a (d.fieldWrite (initRank i) a w) w
  rw [writeFields_eq, overtaken_noteWrite, is]
  rfl

theorem writtenNow_writeFields : (d.writeFields (byInit i) a w).writtenNow a = true := writtenNow_noteWrite ..

theorem writeFields_untimed (untimed : tickMask a = 0) : (d.writeFields (byInit i) a w).cad = d.cad := by
  rw [writeFields_eq, committed, if_pos untimed]
  rfl

theorem writeFields_commits (timed : tickMask a ≠ 0) (first : d.overtaken a (initRank i) = false) :
    (d.writeFields (byInit i) a w).cad.changes = d.cad.changes ++
      [{ key := .word a, words := [(a, d.fieldWrite (initRank i) a w, tickMask a)], land := d.nextLanding, atFrame := false
         stamp := d.time.cycle, rank := initRank i, cmd := none, arg := 0, latch := none }] := by
  rw [writeFields_eq, committed, if_neg timed, show (byInit i).rank = initRank i from rfl,
    overtaken_wr, first, if_neg Bool.false_ne_true]
  rfl

end

/-- A 32-bit write of a register that is open. -/
theorem leads_registerWrite {s : State} (x : BitVec 64) (hopen : Open s i true a) (block : inBlock a = true) (low : a < 4294967296)
    (plain : actsOnWrite a = false) : Leads s (.registerWrite i 32 a x) (s.dev.writeFields (byInit i) a (x.setWidth 32)) := by
  have aligned := aligned_of_open hopen
  have lut : a ≠ Reg.DPD_LUT_DATA := fun same => by
    rw [same] at plain
    exact absurd plain (by decide)
  have row : exec (.registerWrite i 32 a x) s = onMem s fun d m => (access d m i true 32 a x.toNat).2 := accessRegister (by decide) low s i x
  rw [Leads, row, onMem_eq, access_write_data s.mem _ hopen block lut, low32_ofNat, writeReg_plain plain (by omega)]
  rfl

end

/-! ### Event registers and power-step indices -/

/-- Register `a` holds `n` event bits, from bit 0 upwards, and its write has no other meaning. -/
def HoldsEvents (a n : Nat) : Prop :=
  inBlock a = true ∧ actsOnWrite a = false ∧ a < 4294967296 ∧ tickMask a = 0 ∧ (∀ f ∈ fieldsOf a, f.lo ≤ f.hi ∧ f.hi < 32) ∧
    (fieldsOf a).Pairwise (fun f g => f.hi < g.lo ∨ g.hi < f.lo) ∧ (∀ f ∈ fieldsOf a, f.type = .w1c) ∧
    ∀ b, b < 32 → ((∃ f ∈ fieldsOf a, f.lo ≤ b ∧ b ≤ f.hi) ↔ b < n)

theorem devFieldWrite_events {d : Dev} {rank a n b : Nat} {w : Word} (events : HoldsEvents a n) (b32 : b < 32) :
    (d.fieldWrite rank a w).bit b = ((d.rd a).bit b && !(decide (b < n) && w.bit b) || (d.setNow a).bit b) := by
  obtain ⟨-, -, -, -, fit, apart, types, bits⟩ := events
  by_cases inside : b < n
  · obtain ⟨f, mem, low, high⟩ := (bits b b32).mpr inside
    rw [devFieldWrite_bit fit apart mem (by rw [types f mem]; decide) low high, actsOn_bit fit apart mem low high,
      if_neg (by simp [types f mem]), types f mem, decide_eq_true inside, Bool.true_and]
    rfl
  · rw [devFieldWrite_outside fit b32 fun f mem => ?_, decide_eq_false inside, Bool.false_and, Bool.not_false, Bool.and_true]
    by_contra within
    exact inside ((bits b b32).mp ⟨f, mem, by omega, by omega⟩)

/-- The events of a register, written. -/
theorem writes_events {s : State} {i : Initiator} {a n : Nat} (x : BitVec 64) (events : HoldsEvents a n) (hopen : Open s i true a) :
    ∃ d, Leads s (.registerWrite i 32 a x) d ∧ d = { s.dev with regs := d.regs, same := d.same } ∧ SameRegsBut [a] s.dev d ∧
      ∀ b, b < 32 → (d.rd a).bit b =
        ((s.dev.rd a).bit b && !(decide (b < n) && Word.bit (x.setWidth 32) b) || (s.dev.setNow a).bit b) := by
  have bits (b : Nat) := devFieldWrite_events (d := s.dev) (rank := initRank i) (w := x.setWidth 32) (b := b) events
  obtain ⟨block, plain, low, untimed, -⟩ := events
  refine ⟨_, leads_registerWrite x hopen block low plain, ?_, sameRegs_writeFields _ _ _ _, fun b b32 => ?_⟩
  · obtain ⟨m, sc, y, frame⟩ := writeFields_frame s.dev i a (x.setWidth 32)
    have still := writeFields_untimed s.dev i a (x.setWidth 32) untimed
    obtain rfl : y = s.dev.cad := by rw [frame] at still; exact still
    rw [frame]
  · rw [rd_writeFields_same, bits b b32]

/-- Every power-step index is a field of its own, ten bits wide, tick-bound. -/
theorem pidx_fields : ∀ (t : Fin 4) (k : Fin 16), inBlock (Reg.TILE_PIDX t.val k.val) = true ∧
    actsOnWrite (Reg.TILE_PIDX t.val k.val) = false ∧ Reg.TILE_PIDX t.val k.val < 4294967296 ∧
    tickMask (Reg.TILE_PIDX t.val k.val) = 0x3FF#32 ∧ fieldsOf (Reg.TILE_PIDX t.val k.val) = [⟨9, 0, .rw, true, 0⟩] := by
  decide +kernel

theorem events_hold : ∀ t : Fin 4, ∀ e ∈ [(Reg.TILE_EVT t.val, 8), (Reg.TILE_RELIEF_EVT t.val, 3), (Reg.TIME_EVT, 10), (Reg.POWER_EVT, 8),
    (Reg.CADENCE_EVT, 5), (Reg.DRUNAS_EVT, 5), (Reg.DERRICK_EVT, 4), (Reg.CHECK_EVT, 3), (Reg.BEAM_EVT, 11), (Reg.DPD_EVT, 8),
    (Reg.CAL_EVT, 10), (Reg.CHISEL_EVT, 8), (Reg.SKX_PHY_EVT, 9), (Reg.SKX_CELL_EVT, 8), (Reg.BIAS_EVT, 8), (Reg.SUMP_EVT, 8)],
    HoldsEvents e.1 e.2 := by
  unfold HoldsEvents
  decide +kernel

/-- The first half of a 64-bit write, of a register, is the write of that register. -/
theorem access_low_half {d : Dev} {i : Initiator} {a : Nat} (m : Mem) (x : BitVec 64) (hopen : d.stops i true 32 a = none)
    (block : inBlock a = true) (lut : a ≠ Reg.DPD_LUT_DATA) :
    access32 d m i true 32 a (x.toNat % 4294967296) = (.data 0, d.writeReg i a (x.setWidth 32), m) := by
  have half : low32 (x.toNat % 4294967296) = x.setWidth 32 := by
    rw [← low32_ofNat, low32, low32]
    exact BitVec.eq_of_toNat_eq (by simp only [BitVec.toNat_ofNat]; omega)
  simp [access32, reach, hopen, block, aligned_of_open hopen, lut, half]

theorem access_halves {d : Dev} {i : Initiator} {a : Nat} {m : Mem} {data v : Nat} {x : Dev × Mem} (aligned : a % 8 = 0)
    (low : access32 d m i true 32 a (data % 4294967296) = (.data v, x)) :
    (access d m i true 64 a data).2 = (settleAccess (access32 (settled x).1 (settled x).2 i true 32 (a + 4) (data / 4294967296))).2 := by
  rw [access, if_pos rfl, if_neg (not_not.mpr aligned), low]
  dsimp only [settleAccess]
  split <;> simp_all

theorem plainWrites : PlainWrites := by
  intro s i t k a x
  refine ⟨fun block plain low hopen => ?_, fun e mem hopen => writes_events x (events_hold t e mem) hopen, fun hopen alone => ?_,
    fun block aligned low hopen lut => ?_⟩
  · refine ⟨_, leads_registerWrite x hopen block low plain, rd_writeFields_same .., sameRegs_writeFields _ _ _ _, ?_, overtaken_writeFields ..,
      writtenNow_writeFields .., writeFields_untimed _ _ _ _, fun timed first => ?_⟩
    · obtain ⟨m, sc, y, frame⟩ := writeFields_frame s.dev i a (x.setWidth 32)
      rw [frame]
    · rw [Commits1, rd_writeFields_same]
      exact writeFields_commits s.dev i a _ timed first
  · obtain ⟨block, plain, low, mask, fields⟩ := pidx_fields t k
    obtain ⟨first, sets, -⟩ := alone
    have commits := writeFields_commits s.dev i _ (x.setWidth 32) (by rw [mask]; decide) first
    rw [mask] at commits
    obtain ⟨-, byType⟩ := fieldsOfOneCycle s.dev (initRank i) (Reg.TILE_PIDX t.val k.val) (x.setWidth 32) (by rw [fields]; simp)
      (by rw [fields]; simp)
    obtain ⟨-, rw_, -⟩ := byType ⟨9, 0, .rw, true, 0⟩ (by rw [fields]; simp)
    have index := rw_ rfl (by rw [sets]; rfl)
    rw [first, if_neg Bool.false_ne_true] at index
    refine ⟨_, _, leads_registerWrite x hopen block low plain, commits, rd_writeFields_same .., index, ?_, sameRegs_writeFields _ _ _ _⟩
    obtain ⟨m, sc, y, frame⟩ := writeFields_frame s.dev i (Reg.TILE_PIDX t.val k.val) (x.setWidth 32)
    rw [frame]
  · have one : exec (.registerWrite i 32 a x) s = outOf s (access s.dev s.mem i true 32 a x.toNat).2 := accessRegister (by decide) low s i x
    have both : exec (.registerWrite i 64 a x) s = outOf s (access s.dev s.mem i true 64 a x.toNat).2 := accessRegister (by decide) low s i x
    have two (u : State) : exec (.registerWrite i 32 (a + 4) (x >>> 32)) u = outOf u (access u.dev u.mem i true 32 (a + 4) (x >>> 32).toNat).2 :=
      accessRegister (by decide) (by omega) u i _
    have high : (x >>> 32).toNat = x.toNat / 4294967296 := by rw [BitVec.toNat_ushiftRight, Nat.shiftRight_eq_div_pow]
    refine ⟨_, one, ?_⟩
    rw [both, two, access_halves aligned (access_low_half s.mem x hopen block lut), high, access_write_data s.mem _ hopen block lut, low32_ofNat,
      access_narrow _ _ _ _ _ _ (by decide)]
    rfl

/-! ### Memory windows -/

section

variable {d : Dev} {m : Mem} {i : Initiator} {a n : Nat}

theorem mapped_window (low : 0x3000000 ≤ a) (high : a < 0x3C00000) : mapped a = true := by
  rw [mapped, Bool.or_eq_true]
  refine .inr ?_
  rw [windowOf, if_neg (by omega)]
  split
  · rfl
  · rw [if_pos (by omega)]
    rfl

theorem stops_window (aligned : a % n = 0) (low : 0x3000000 ≤ a) (high : a < 0x3C00000)
    (allowed : d.forbidden i true a = false) (up : d.domainUp a = true) : d.stops i true (8 * n) a = none := by
  rw [Dev.stops, show 8 * n / 8 = n by omega, if_neg (not_not.mpr aligned), inBlock_window low, Bool.and_false, if_neg Bool.false_ne_true,
    mapped_window low high, allowed, up]
  rfl

theorem access32_window (data : Nat) (hopen : d.stops i true (8 * n) a = none) (low : 0x3000000 ≤ a) :
    access32 d m i true (8 * n) a data = (.data 0, d, Mem.setBytes m a (dataBytes n data)) := by
  have above : decide (a < 0x2400000) = false := decide_eq_false (by omega)
  have size : 8 * n / 8 = n := by omega
  rw [access32, hopen]
  simp [reach, inBlock_window low, above, size]

theorem extract_byte (x : BitVec 64) (k : Nat) : BitVec.ofNat 8 (x.toNat / 256 ^ k) = x.extractLsb' (8 * k) 8 := by
  rw [show (256 : Nat) ^ k = 2 ^ (8 * k) by rw [pow_mul]; rfl, ← Nat.shiftRight_eq_div_pow]
  rfl

/-- Bytes written one after the other. -/
theorem get_written (v k : Nat) (inside : k < n) : Mem.get (Mem.setBytes m a (dataBytes n v)) (a + k) = BitVec.ofNat 8 (v / 256 ^ k) :=
  get_dataBytes m a n v k inside

theorem get_unwritten (v : Nat) {b : Nat} (out : b < a ∨ a + n ≤ b) : Mem.get (Mem.setBytes m a (dataBytes n v)) b = Mem.get m b :=
  Mem.get_setBytes_out _ _ _ _ (by simp only [dataBytes, List.length_map, List.length_range]; exact out)

end

/-- Memory after the first half of a 64-bit write. -/
def lowHalf (m : Mem) (a : Nat) (x : BitVec 64) : Mem := Mem.setBytes m a (dataBytes 4 (x.toNat % 4294967296))

/-- Memory after both halves. -/
def bothHalves (m : Mem) (a : Nat) (x : BitVec 64) : Mem := Mem.setBytes (lowHalf m a x) (a + 4) (dataBytes 4 (x.toNat / 4294967296))

theorem get_bothHalves (m : Mem) (a : Nat) (x : BitVec 64) {k : Nat} (inside : k < 8) :
    Mem.get (bothHalves m a x) (a + k) = x.extractLsb' (8 * k) 8 := by
  by_cases low : k < 4
  · rw [bothHalves, get_unwritten _ (.inl (by omega)), lowHalf, get_written _ _ low, ← extract_byte]
    refine BitVec.eq_of_toNat_eq ?_
    simp only [BitVec.toNat_ofNat]
    interval_cases k <;> omega
  · obtain ⟨j, rfl⟩ := Nat.exists_eq_add_of_le (Nat.le_of_not_lt low)
    rw [bothHalves, ← Nat.add_assoc, get_written _ _ (by omega), ← extract_byte, Nat.div_div_eq_div_mul, Nat.pow_add]

theorem get_beside_halves (m : Mem) (a : Nat) (x : BitVec 64) {b : Nat} (out : b < a ∨ a + 8 ≤ b) :
    Mem.get (bothHalves m a x) b = Mem.get m b := by
  rw [bothHalves, get_unwritten _ (by omega), lowHalf, get_unwritten _ (by omega)]

theorem windowWrites : WindowWrites := by
  intro s i n a x sizes aligned low high usable quiet
  have row : exec (.registerWrite i (8 * n) a x) s = outOf s (access s.dev s.mem i true (8 * n) a x.toNat).2 :=
    accessRegister (by omega) (by omega) s i x
  by_cases whole : n = 8
  · subst whole
    have q : Quiet s.dev := quiet.resolve_left (by decide)
    have reads (b : Nat) (words : b = a ∨ b = a + 4) : s.dev.stops i true 32 b = none := by
      obtain ⟨allowed, up⟩ := usable b (by omega) (by omega)
      exact stops_window (n := 4) (by omega) (by omega) (by omega) allowed up
    have one : access32 s.dev s.mem i true 32 a (x.toNat % 4294967296) = (.data 0, s.dev, lowHalf s.mem a x) :=
      access32_window (n := 4) _ (reads a (.inl rfl)) low
    have two : access32 s.dev (lowHalf s.mem a x) i true 32 (a + 4) (x.toNat / 4294967296) = (.data 0, s.dev, bothHalves s.mem a x) :=
      access32_window (n := 4) _ (reads (a + 4) (.inr rfl)) (by omega)
    refine ⟨bothHalves s.mem a x, ?_, fun k inside => get_bothHalves s.mem a x inside, fun b out => get_beside_halves s.mem a x out⟩
    rw [row, access_halves aligned one, settled_quiet _ q]
    dsimp only
    rw [two]
    rfl
  · have narrow : n = 1 ∨ n = 2 ∨ n = 4 := by omega
    obtain ⟨allowed, up⟩ := usable a (le_refl a) (by omega)
    have hopen := stops_window aligned low (by omega) allowed up
    refine ⟨Mem.setBytes s.mem a (dataBytes n x.toNat), ?_, fun k inside => ?_, fun b out => get_unwritten _ out⟩
    · rw [row, access_window_write _ narrow hopen low]
      rfl
    · rw [get_written _ _ inside, extract_byte]

end Sys2Proof.Cert

/-! PROOFS. Writes that reach their target (O43): the Ashlar store and the data port of the DPD pages. -/

namespace Sys2Proof.Cert

open Sys2Proof.Machine

/-! ### Bytes of the Ashlar store (R133, R135, R136) -/

section

variable {d : Dev} {m : Mem} {p : AshlarWriter} {a : Nat} {bs : List Byte} {keeps : Nat → Bool}

/-- The writes of the same cycle that come later in the order of R135 and meet a range of bytes. -/
def laterWrites (d : Dev) (p : AshlarWriter) (a n : Nat) : List (Nat × Nat × Nat) :=
  d.sameNow.ashlar.filter fun x => decide (ashlarPlace p < x.2.2 ∧ x.1 < a + n ∧ a < x.1 + x.2.1)

/-- Whether a byte keeps what a later writer of the cycle left in it. -/
def laterKeeps (d : Dev) (p : AshlarWriter) (b : Nat) : Bool :=
  d.sameNow.ashlar.any fun x => decide (ashlarPlace p < x.2.2 ∧ x.1 ≤ b ∧ b < x.1 + x.2.1)

/-- Bytes written from an address upwards, but for those that keep theirs. -/
def keepSome (keeps : Nat → Bool) (a : Nat) (m : Mem) (bs : List (Byte × Nat)) : Mem :=
  bs.foldl (fun m x => if keeps (a + x.2) then m else Mem.set m (a + x.2) x.1) m

theorem get_keepSome (bs : List Byte) (j : Nat) (m : Mem) {b : Nat} : Mem.get (keepSome keeps a m (bs.zipIdx j)) b =
    if h : a + j ≤ b ∧ b < a + j + bs.length then (if keeps b then Mem.get m b else bs[b - (a + j)]'(by omega)) else Mem.get m b := by
  induction bs generalizing j m with
  | nil => rw [dif_neg (by simp)]; rfl
  | cons x xs more =>
    have step : keepSome keeps a m ((x :: xs).zipIdx j) =
        keepSome keeps a (if keeps (a + j) then m else Mem.set m (a + j) x) (xs.zipIdx (j + 1)) := rfl
    rw [step, more]
    by_cases here : b = a + j
    · subst here
      rw [dif_neg (by omega), dif_pos (by simp)]
      cases keeps (a + j) <;> simp [Mem.get_set]
    · have same : Mem.get (if keeps (a + j) then m else Mem.set m (a + j) x) b = Mem.get m b := by
        split
        · rfl
        · rw [Mem.get_set, if_neg here]
      rw [same]
      by_cases inside : a + j ≤ b ∧ b < a + j + (x :: xs).length
      · rw [dif_pos inside, dif_pos (by simp only [List.length_cons] at inside; omega)]
        have index : b - (a + j) = b - (a + (j + 1)) + 1 := by omega
        simp only [index, List.getElem_cons_succ]
      · rw [dif_neg inside, dif_neg (by simp only [List.length_cons] at inside; omega)]

/-- The device after bytes have been written to the store. -/
def putNoted (d : Dev) (p : AshlarWriter) (a n : Nat) : Dev :=
  ({ d with same := { d.sameNow with ashlar := (a, n, ashlarPlace p) :: d.sameNow.ashlar } }).ashlarNote a

/-- Memory after bytes have been written to the store. -/
def putBytes (d : Dev) (m : Mem) (p : AshlarWriter) (a : Nat) (bs : List Byte) : Mem :=
  if (laterWrites d p a bs.length).isEmpty then Mem.setBytes m a bs
  else keepSome (fun b => (laterWrites d p a bs.length).any fun x => decide (x.1 ≤ b ∧ b < x.1 + x.2.1)) a m bs.zipIdx

theorem ashlarPut_eq : ashlarPut d m p a bs = (putNoted d p a bs.length, putBytes d m p a bs) := rfl

theorem any_laterWrites {n b : Nat} (low : a ≤ b) (high : b < a + n) :
    ((laterWrites d p a n).any fun x => decide (x.1 ≤ b ∧ b < x.1 + x.2.1)) = laterKeeps d p b := by
  rw [laterWrites, laterKeeps, List.any_filter]
  refine congrArg d.sameNow.ashlar.any (funext fun x => ?_)
  rw [← Bool.decide_and, decide_eq_decide]
  omega

theorem get_putBytes_in {k : Nat} (inside : k < bs.length) :
    Mem.get (putBytes d m p a bs) (a + k) = if laterKeeps d p (a + k) then Mem.get m (a + k) else bs[k] := by
  unfold putBytes
  have keeps := any_laterWrites (d := d) (p := p) (Nat.le_add_right a k) (Nat.add_lt_add_left inside a)
  split
  · rename_i empty
    rw [List.isEmpty_iff.mp empty] at keeps
    rw [← keeps]
    exact Mem.get_setBytes_in m a k bs inside
  · rw [get_keepSome, dif_pos (by omega), keeps]
    simp

theorem get_putBytes_out {b : Nat} (out : b < a ∨ a + bs.length ≤ b) : Mem.get (putBytes d m p a bs) b = Mem.get m b := by
  unfold putBytes
  split
  · exact Mem.get_setBytes_out m a b bs out
  · rw [get_keepSome, dif_neg (by omega)]

end

/-! ### Words of the Ashlar store (R131) -/

section

variable {s : State} {d : Dev} {m : Mem} {p : AshlarWriter} {i : Initiator} {a : Nat} {w : Word}

theorem inBlock_ashlar (low : 0x1000000 ≤ a) : inBlock a = false := by
  rw [inBlock, blockRows, if_neg (by omega), if_neg (by omega), if_neg (by omega)]
  rfl

/-- A word written to the store. -/
theorem access_ashlar (isWord : isAshlarWord a = true) (hopen : d.stops i true 32 a = none) (allowed : d.ashlarAllows (ashlarBy i) a = true) :
    (access d m i true 32 a w.toNat).2 = settled (ashlarPut d m (ashlarBy i) a (leBytes w)) := by
  obtain ⟨low, high, -⟩ := of_decide_eq_true isWord
  have inStore : decide (a < 0x2400000) = true := decide_eq_true high
  rw [access_narrow _ _ _ _ _ _ (by decide), access32, hopen]
  simp [settleAccess, reach, inBlock_ashlar low, inStore, allowed, dataBytes_four]

/-- A word that may not be written. -/
theorem access_ashlar_refused (isWord : isAshlarWord a = true) (hopen : d.stops i true 32 a = none)
    (refused : d.ashlarAllows (ashlarBy i) a = false) :
    (access d m i true 32 a w.toNat).2 = settled (d.ashlarRefused.busError i true 32 a .refused, m) := by
  obtain ⟨low, high, -⟩ := of_decide_eq_true isWord
  have inStore : decide (a < 0x2400000) = true := decide_eq_true high
  rw [access_narrow _ _ _ _ _ _ (by decide), access32, hopen]
  simp [settleAccess, reach, inBlock_ashlar low, inStore, refused]

theorem exec_ashlarWrite_bus (isWord : isAshlarWord a = true) (bus : ashlarInit p = some i) :
    exec (.ashlarWrite p a w) s = outOf s (access s.dev s.mem i true 32 a w.toNat).2 := by
  refine (if_pos isWord).trans ?_
  rw [onMem, bus]
  rfl

theorem exec_ashlarWrite_direct (isWord : isAshlarWord a = true) (direct : ashlarInit p = none) :
    exec (.ashlarWrite p a w) s = outOf s (ashlarDirect p a w s.dev s.mem) := by
  refine (if_pos isWord).trans ?_
  rw [onMem, direct]
  rfl

theorem ashlarBy_init (bus : ashlarInit p = some i) : ashlarBy i = p := by
  cases p with
  | solver => simp [ashlarInit] at bus
  | weightLoad => simp [ashlarInit] at bus
  | derrick => rw [ashlarInit, Option.some.injEq] at bus; subst bus; rfl
  | link => rw [ashlarInit, Option.some.injEq] at bus; subst bus; rfl
  | spi => rw [ashlarInit, Option.some.injEq] at bus; subst bus; rfl

/-- The device as the solver's own word is noted while a cycle of it runs. -/
def solverNoted (d : Dev) (p : AshlarWriter) (a : Nat) : Dev :=
  if p = .solver ∧ d.beam.solving then { d with beam := { d.beam with brought := a :: d.beam.brought } } else d

theorem ashlarDirect_allowed (up : d.domainUp a = true) (allowed : d.ashlarAllows p a = true) :
    ashlarDirect p a w d m = ashlarPut (solverNoted d p a) m p a (leBytes w) := by
  unfold ashlarDirect
  rw [if_neg (by rw [up]; decide), if_pos allowed]
  rfl

theorem ashlarDirect_refused (up : d.domainUp a = true) (refused : d.ashlarAllows p a = false) :
    ashlarDirect p a w d m = (d.ashlarRefused, m) := by
  unfold ashlarDirect
  rw [if_neg (by rw [up]; decide), if_neg (by rw [refused]; decide)]

theorem solverNoted_frame (d : Dev) (p : AshlarWriter) (a : Nat) :
    ∃ bs, solverNoted d p a = { d with beam := { d.beam with brought := bs } } := by
  unfold solverNoted
  split
  · exact ⟨_, rfl⟩
  · exact ⟨d.beam.brought, rfl⟩

/-- What a written word leaves of the device, whether or not the solver brought it. -/
theorem putNoted_spec {e : Dev} {bs : List Nat} (is : e = { d with beam := { d.beam with brought := bs } }) (aligned : a % 4 = 0) :
    putNoted e p a 4 = { d with beam := (putNoted e p a 4).beam, same := (putNoted e p a 4).same } ∧ (putNoted e p a 4).eccBad a = false ∧
      (d.beam.mirrorBusy = true → a ∈ (putNoted e p a 4).beam.written) ∧
      (putNoted e p a 4).beam = { (d.ashlarNote a).beam with brought := (putNoted e p a 4).beam.brought } ∧
      (a, 4, ashlarPlace p) ∈ (putNoted e p a 4).sameNow.ashlar := by
  have now : (putNoted e p a 4).sameNow = { e.sameNow with ashlar := (a, 4, ashlarPlace p) :: e.sameNow.ashlar } := if_pos (sameNow_cycle e)
  refine ⟨by rw [is]; rfl, ?_, ?_, by rw [is]; rfl, by rw [now]; exact List.mem_cons_self⟩
  all_goals subst is
  · simp [putNoted, Dev.eccBad, Dev.ashlarNote]
  · intro busy
    have word : a / 4 * 4 = a := by omega
    by_cases held : a ∈ d.beam.written <;> simp [putNoted, Dev.ashlarNote, word, busy, held]

/-- What a word that may be written does, as its writer's row ends. -/
theorem ashlarWrite_puts {e : Dev} {bs : List Nat} (is : e = { d with beam := { d.beam with brought := bs } }) (aligned : a % 4 = 0)
    {Ends : Dev → Mem → Prop} (ends : Ends (putNoted e p a 4) (putBytes e m p a (leBytes w))) :
    ∃ d' m', Ends d' m' ∧ d' = { d with beam := d'.beam, same := d'.same } ∧
      (∀ k, k < 4 → Mem.get m' (a + k) = if laterKeeps d p (a + k) then Mem.get m (a + k) else w.extractLsb' (8 * k) 8) ∧
      (∀ b, (b < a ∨ a + 4 ≤ b) → Mem.get m' b = Mem.get m b) ∧ d'.eccBad a = false ∧ (d.beam.mirrorBusy = true → a ∈ d'.beam.written) ∧
      d'.beam = { (d.ashlarNote a).beam with brought := d'.beam.brought } ∧ (a, 4, ashlarPlace p) ∈ d'.sameNow.ashlar := by
  obtain ⟨frame, ecc, written, beam, noted⟩ := putNoted_spec (p := p) is aligned
  refine ⟨_, _, ends, frame, fun k inside => ?_, fun b out => get_putBytes_out out, ecc, written, beam, noted⟩
  have keeps : laterKeeps e p (a + k) = laterKeeps d p (a + k) := by rw [is]; rfl
  rw [get_putBytes_in (show k < (leBytes w).length from inside), keeps]
  split
  · rfl
  · exact getElem_leBytes w inside

theorem ashlarAllows_iff : d.ashlarAllows p a = true ↔ ((ashlarHalf a).1 ≠ (if (ashlarHalf a).2 then d.beam.ulBank else d.beam.dlBank) ∧
    ((d.inf Reg.BEAM_CFG).bit (if (ashlarHalf a).2 then 0 else 1) = true → p = .solver)) := by
  simp only [Dev.ashlarAllows, Bool.and_eq_true, bne_iff_ne, Bool.or_eq_true, Bool.not_eq_true', beq_iff_eq]
  cases (d.inf Reg.BEAM_CFG).bit (if (ashlarHalf a).2 = true then 0 else 1) <;> simp

theorem ashlarWrites : AshlarWrites := by
  intro s p a w isWord up hopen
  have aligned : a % 4 = 0 := (of_decide_eq_true isWord).2.2
  refine ⟨fun allowed => ?_, fun refused => ?_, ashlarAllows_iff⟩
  · cases writer : ashlarInit p with
    | none =>
      obtain ⟨bs, is⟩ := solverNoted_frame s.dev p a
      have row := exec_ashlarWrite_direct (s := s) (w := w) isWord writer
      rw [ashlarDirect_allowed up allowed] at row
      exact ashlarWrite_puts is aligned ⟨fun _ => row, fun bus => absurd bus (by decide)⟩
    | some i =>
      have by_ := ashlarBy_init writer
      have row := exec_ashlarWrite_bus (s := s) (w := w) isWord writer
      rw [access_ashlar isWord (hopen i writer) (by rw [by_]; exact allowed), by_] at row
      exact ashlarWrite_puts (e := s.dev) (bs := s.dev.beam.brought) rfl aligned ⟨fun direct => absurd direct (by simp), fun _ => row⟩
  · have evt : Set s.dev.ashlarRefused Reg.BEAM_EVT 7 := set_raise _ (by decide)
    obtain ⟨m, rs, sc, frame⟩ := s.dev.raise_frame Reg.BEAM_EVT 7
    have shape : s.dev.ashlarRefused =
        { s.dev with regs := s.dev.ashlarRefused.regs, rises := s.dev.ashlarRefused.rises, same := s.dev.ashlarRefused.same } := by
      have whole : s.dev.ashlarRefused = { s.dev with regs := m, rises := rs, same := sc } := frame
      rw [whole]
    refine ⟨_, shape, evt, sameRegs_raise _ _ (by simp), fun direct => ⟨fun _ => ?_, fun bus => absurd bus (by rw [direct]; decide)⟩,
      fun i writer => ⟨_, ⟨fun direct => absurd direct (by rw [writer]; simp), fun _ => ?_⟩, stopped_busError ..⟩⟩
    · have row := exec_ashlarWrite_direct (s := s) (w := w) isWord direct
      rw [ashlarDirect_refused up refused] at row
      exact row
    · have row := exec_ashlarWrite_bus (s := s) (w := w) isWord writer
      rw [access_ashlar_refused isWord (hopen i writer) (by rw [ashlarBy_init writer]; exact refused)] at row
      exact row

end

/-! ### The data port of the DPD pages (R168, R169) -/

section

variable {s : State} {d : Dev} {m : Mem} {i : Initiator} {w : Word} {at_ : Nat}

/-- How an access of the data port ends: a refusal is a bus error. -/
def lutEnds (i : Initiator) (write : Bool) : Answer × Dev × Mem → Dev × Mem
  | (.data _, d, m) => (d, m)
  | (.error c, d, m) => (d.busError i write 32 Reg.DPD_LUT_DATA c, m)

/-- An access of the data port that nothing stops before it. -/
theorem access32_lut (write : Bool) (data : Nat) (hopen : d.stops i write 32 Reg.DPD_LUT_DATA = none) :
    (access32 d m i write 32 Reg.DPD_LUT_DATA data).2 = lutEnds i write (lutAccess d m i (if write then some (low32 data) else none)) := by
  have block : inBlock Reg.DPD_LUT_DATA = true := by decide
  have word : Reg.DPD_LUT_DATA / 4 * 4 = Reg.DPD_LUT_DATA := by decide
  rw [access32, hopen]
  dsimp only
  rw [reach, if_pos block]
  dsimp only
  rw [if_pos word]
  rcases lutAccess d m i (if write then some (low32 data) else none) with ⟨_ | _, _, _⟩ <;> rfl

theorem exec_lutRead (hopen : Open s i false Reg.DPD_LUT_DATA) : exec (.dpdLutDataAccess i none) s =
    outOf s (settled (lutEnds i false (lutAccess s.dev s.mem i none))) := by
  have ends := access32_lut (m := s.mem) false 0 hopen
  exact congrArg (fun x => outOf s (settled x)) ends

theorem exec_lutWrite (hopen : Open s i true Reg.DPD_LUT_DATA) : exec (.dpdLutDataAccess i (some w)) s =
    outOf s (settled (lutEnds i true (lutAccess s.dev s.mem i (some w)))) := by
  have ends := access32_lut (m := s.mem) true w.toNat hopen
  rw [if_pos rfl, low32_toNat] at ends
  exact congrArg (fun x => outOf s (settled x)) ends

theorem lutAccess_read (names : d.lutWord = some at_) : lutAccess d m i none = (.data (Mem.word m at_).toNat, d.lutNext, m) := by
  rw [lutAccess, names]

theorem lutAccess_write (names : d.lutWord = some at_) (allowed : d.lutRefuses i = false) :
    lutAccess d m i (some w) = (.data 0, d.lutNext, Mem.setWord m at_ w) := by
  rw [lutAccess, names]
  exact if_neg (by rw [allowed]; decide)

theorem lutAccess_refused (names : d.lutWord = some at_) (refused : d.lutRefuses i = true) :
    lutAccess d m i (some w) = (.error .refused, d.raise Reg.DPD_EVT 4, m) := by
  rw [lutAccess, names]
  exact if_pos refused

theorem lutAccess_nowhere (w : Option Word) (nowhere : d.lutWord = none) : lutAccess d m i w = (.error .refused, d, m) := by
  rw [lutAccess, nowhere]

theorem lutNext_spec (d : Dev) : (d.lutNext.rd Reg.DPD_LUT_ADDR).get 10 0 = ((d.rd Reg.DPD_LUT_ADDR).get 10 0 + 1) % 2048 ∧
    SameRegsBut [Reg.DPD_LUT_ADDR] d d.lutNext ∧ d.lutNext = { d with regs := d.lutNext.regs } := by
  refine ⟨?_, sameRegs_fset _ _ _ _ (by simp), rfl⟩
  rw [Dev.lutNext, Dev.rd_fset_same, Word.get_put_same _ _ (by decide) (by decide)]
  rfl

theorem lutPort : LutPort := by
  intro s i w
  refine ⟨fun at_ names => ⟨fun reads => ⟨_, ?_, lutNext_spec s.dev⟩, fun writes allowed => ⟨_, _, ?_, lutNext_spec s.dev,
    Mem.word_setWord_same s.mem at_ w, fun b out => Mem.get_setWord_out _ _ _ out⟩, fun writes refused =>
      ⟨_, _, ?_, set_raise _ (by decide), sameRegs_raise s.dev 4 (by simp), ?_, stopped_busError ..⟩⟩,
    fun nowhere => ⟨fun reads => ⟨_, ?_, stopped_busError ..⟩, fun writes => ⟨_, ?_, stopped_busError ..⟩⟩⟩
  · have row := exec_lutRead reads
    rw [lutAccess_read names] at row
    exact row
  · have row := exec_lutWrite (w := w) writes
    rw [lutAccess_write names allowed] at row
    exact row
  · have row := exec_lutWrite (w := w) writes
    rw [lutAccess_refused names refused] at row
    exact row
  · obtain ⟨m, rs, sc, frame⟩ := s.dev.raise_frame Reg.DPD_EVT 4
    rw [frame]
  · have row := exec_lutRead reads
    rw [lutAccess_nowhere _ nowhere] at row
    exact row
  · have row := exec_lutWrite (w := w) writes
    rw [lutAccess_nowhere _ nowhere] at row
    exact row

end

/-- Settles O43: an access that reaches its target does what the types of its fields, its window, the store or the port say. -/
theorem accessesAct : Obligations.AccessesAct := ⟨fieldsByType, fieldsOfOneCycle, plainWrites, windowWrites, ashlarWrites, lutPort⟩

end Sys2Proof.Cert

/-! PROOFS. The Ashlar store and the slices (O51): mirror copies, uncorrectable words, the checks of the slices. -/

namespace Sys2Proof.Machine

/-! ### Copies between the halves of the store (R133) -/

section

variable {m : Mem} {b : Nat}

theorem cellGet_filter (p : Nat → Bool) (m : Mem) (b : Nat) : cellGet (m.filter fun c => p c.1) b = if p b then cellGet m b else none := by
  induction m with
  | nil => simp [cellGet]
  | cons y m more =>
    obtain ⟨a, v⟩ := y
    by_cases kept : p a = true <;> by_cases here : a = b
    · subst here
      simp [kept, cellGet]
    · simp [kept, cellGet, here, more]
    · subst here
      simp [kept, more]
    · simp [kept, cellGet, here, more]

theorem cellGet_below {lo : Nat} (rising : Memory.wfFrom lo m = true) (low : b < lo) : cellGet m b = none := by
  induction m generalizing lo with
  | nil => rfl
  | cons y m more =>
    obtain ⟨a, v⟩ := y
    simp only [Memory.wfFrom, Bool.and_eq_true, decide_eq_true_eq] at rising
    obtain ⟨⟨first, -⟩, rest⟩ := rising
    rw [cellGet, if_neg (by omega)]
    exact more rest (by omega)

/-- Cells moved from one place to another. -/
def moveCells (src dst : Nat) (cells k : Mem) : Mem := cells.foldl (fun k c => Mem.set k (c.1 - src + dst) c.2) k

theorem get_moveCells_in {src dst lo : Nat} (cells k : Mem) (rising : Memory.wfFrom lo cells = true) (from' : ∀ c ∈ cells, src ≤ c.1) (n : Nat) :
    Mem.get (moveCells src dst cells k) (dst + n) = (cellGet cells (src + n)).getD (Mem.get k (dst + n)) := by
  induction cells generalizing lo k with
  | nil => rfl
  | cons y cells more =>
    obtain ⟨a, v⟩ := y
    simp only [Memory.wfFrom, Bool.and_eq_true, decide_eq_true_eq] at rising
    obtain ⟨-, rest⟩ := rising
    rw [List.forall_mem_cons] at from'
    obtain ⟨first, others⟩ := from'
    have step : moveCells src dst ((a, v) :: cells) k = moveCells src dst cells (Mem.set k (a - src + dst) v) := rfl
    dsimp only at first
    rw [step, more _ rest others, cellGet, Mem.get_set]
    by_cases here : a = src + n
    · rw [if_pos here, if_pos (by omega), cellGet_below rest (by omega)]
      rfl
    · rw [if_neg here, if_neg (by omega)]

theorem get_moveCells_out {src dst size : Nat} (cells k : Mem) (inside : ∀ c ∈ cells, src ≤ c.1 ∧ c.1 < src + size)
    (out : b < dst ∨ dst + size ≤ b) : Mem.get (moveCells src dst cells k) b = Mem.get k b := by
  induction cells generalizing k with
  | nil => rfl
  | cons y cells more =>
    rw [List.forall_mem_cons] at inside
    obtain ⟨first, others⟩ := inside
    have step : moveCells src dst (y :: cells) k = moveCells src dst cells (Mem.set k (y.1 - src + dst) y.2) := rfl
    rw [step, more _ others, Mem.get_set, if_neg (by omega)]

theorem wf_moveCells {src dst : Nat} (cells k : Mem) (wf : Memory.wf k = true) : Memory.wf (moveCells src dst cells k) = true := by
  induction cells generalizing k with
  | nil => exact wf
  | cons y cells more => exact more _ (Memory.wf_set _ _ wf)

/-- The half of the store that a bank and a direction name. -/
def halfAt (bank ul : Bool) : Nat := ashlarAddr bank ul 0 0 0

/-- Whether an address lies in a half. -/
def inHalf (base b : Nat) : Bool := decide (base ≤ b ∧ b < base + 0x500000)

theorem mem_half {base : Nat} {c : Host.Cell} (mem : c ∈ m.filter fun c => inHalf base c.1) : base ≤ c.1 ∧ c.1 < base + 0x500000 :=
  of_decide_eq_true (List.mem_filter.mp mem).2

theorem inHalf_of (base : Nat) (low : base ≤ b) (high : b < base + 0x500000) : inHalf base b = true := decide_eq_true ⟨low, high⟩

theorem copyHalf_eq (m : Mem) (ul active : Bool) : copyHalf m ul active [] =
    moveCells (halfAt active ul) (halfAt (!active) ul) (m.filter fun c => inHalf (halfAt active ul) c.1)
      (m.filter fun c => !inHalf (halfAt (!active) ul) c.1) := by
  unfold copyHalf moveCells
  simp only [List.contains_nil, Bool.not_false, Bool.and_true]
  rfl

theorem halfAt_eq (bank ul : Bool) : halfAt bank ul = 0x1000000 + 0xA00000 * b2n bank + 0x500000 * b2n ul := by
  simp [halfAt, ashlarAddr]

theorem memDefault_store {b : Nat} (high : b < 0x100000000) : memDefault b = 0 := if_neg (by omega)

theorem halfAt_high (bank ul : Bool) : 0x1000000 ≤ halfAt bank ul ∧ halfAt bank ul + 0x500000 ≤ 0x2400000 := by
  cases bank <;> cases ul <;> decide

/-- A copied half reads as the active one. -/
theorem get_copyHalf_in (wf : Memory.wf m = true) (ul active : Bool) {n : Nat} (size : n < 0x500000) :
    Mem.get (copyHalf m ul active []) (halfAt (!active) ul + n) = Mem.get m (halfAt active ul + n) := by
  have src := halfAt_high active ul
  have dst := halfAt_high (!active) ul
  rw [copyHalf_eq, get_moveCells_in _ _ (Memory.wfFrom_filter _ wf) fun c mem => (mem_half mem).1]
  rw [Mem.get, Mem.get, cellGet_filter (fun b => inHalf (halfAt active ul) b), cellGet_filter (fun b => !inHalf (halfAt (!active) ul) b),
    if_pos (inHalf_of _ (by omega) (by omega)), if_neg (by rw [inHalf_of _ (by omega) (by omega)]; decide), memDefault_store (by omega),
    memDefault_store (by omega)]
  rfl

/-- Nothing beside the copied half changes. -/
theorem get_copyHalf_out (ul active : Bool) (out : b < halfAt (!active) ul ∨ halfAt (!active) ul + 0x500000 ≤ b) :
    Mem.get (copyHalf m ul active []) b = Mem.get m b := by
  rw [copyHalf_eq, get_moveCells_out (size := 0x500000) _ _ (fun c mem => mem_half mem) out, Mem.get,
    cellGet_filter (fun b => !inHalf (halfAt (!active) ul) b), if_pos (by rw [inHalf, decide_eq_false (by omega)]; rfl)]
  rfl

theorem wf_copyHalf (wf : Memory.wf m = true) (ul active : Bool) : Memory.wf (copyHalf m ul active []) = true := by
  rw [copyHalf_eq]
  exact wf_moveCells _ _ (Memory.wfFrom_filter _ wf)

end

end Sys2Proof.Machine

namespace Sys2Proof.Cert

open Sys2Proof.Machine

section

variable {s : State} {m : Mem} {dl ul : Bool}

/-- Memory after a copy of both directions. -/
def copied (m : Mem) (dl ul : Bool) : Mem := copyHalf (copyHalf m false dl []) true ul []

/-- The bank of a direction, from those of both. -/
def bankOf (dl ul dir : Bool) : Bool := if dir then ul else dl

theorem get_copied_in (wf : Memory.wf m = true) (dir : Bool) {n : Nat} (size : n < 0x500000) :
    Mem.get (copied m dl ul) (halfAt (!bankOf dl ul dir) dir + n) = Mem.get m (halfAt (bankOf dl ul dir) dir + n) := by
  have apart (bank bank' : Bool) : halfAt bank false + 0x500000 ≤ halfAt bank' true ∨ halfAt bank' true + 0x500000 ≤ halfAt bank false := by
    cases bank <;> cases bank' <;> decide
  cases dir with
  | false =>
    have other := apart (!dl) (!ul)
    exact (get_copyHalf_out true ul (by simp only [bankOf, Bool.false_eq_true, if_false]; omega)).trans (get_copyHalf_in wf false dl size)
  | true =>
    have other := apart (!dl) ul
    exact (get_copyHalf_in (wf_copyHalf wf false dl) true ul size).trans
      (get_copyHalf_out false dl (by have here := apart (!dl) ul; change halfAt ul true + _ < _ ∨ _ ≤ halfAt ul true + _; omega))

theorem get_copied_out {b : Nat} (out : ∀ dir, b < halfAt (!bankOf dl ul dir) dir ∨ halfAt (!bankOf dl ul dir) dir + 0x500000 ≤ b) :
    Mem.get (copied m dl ul) b = Mem.get m b :=
  (get_copyHalf_out true ul (out true)).trans (get_copyHalf_out false dl (out false))

/-- A bank change that has waited for the copy is committed (R133). -/
def bankDue (ul : Bool) (wait : Option Bool) (d : Dev) : Dev :=
  match wait with
  | some b => d.commit byFirmware (.beamBank ul) [] (b2n b)
  | none => d

theorem bankDue_beam (ul : Bool) (wait : Option Bool) (d : Dev) : (bankDue ul wait d).beam = d.beam := by
  cases wait <;> rfl

theorem bankDue_changes (ul : Bool) (wait : Option Bool) (d : Dev) : (bankDue ul wait d).cad.changes.map (fun c => (c.key, c.arg)) =
    d.cad.changes.map (fun c => (c.key, c.arg)) ++ wait.toList.map (fun x => (.beamBank ul, b2n x)) := by
  cases wait with
  | none => exact (List.append_nil _).symm
  | some b => exact List.map_append

/-- A copy ends with nothing written and nothing uncorrectable. -/
theorem mirrorDone_waits {d : Dev} (busy : d.beam.mirrorBusy = true) (fresh : d.beam.written = []) (good : d.beam.eccZero = [])
    (waits : d.beam.mirrorWait = true) :
    mirrorDone d m = ({ d with beam := { d.beam with mirrorWait := false } }, copied m d.beam.dlBank d.beam.ulBank) := by
  unfold mirrorDone copyErrors copied
  rw [if_neg (by rw [busy]; decide), fresh, good]
  dsimp only
  rw [if_pos waits]
  rw [fresh, good]
  rfl

theorem mirrorDone_ends {d : Dev} (busy : d.beam.mirrorBusy = true) (fresh : d.beam.written = []) (good : d.beam.eccZero = [])
    (last : d.beam.mirrorWait = false) : mirrorDone d m =
      (bankDue true d.beam.ulWait (bankDue false d.beam.dlWait
        { d with beam := { d.beam with mirrorBusy := false, dlWait := none, ulWait := none } }), copied m d.beam.dlBank d.beam.ulBank) := by
  unfold mirrorDone copyErrors copied
  rw [if_neg (by rw [busy]; decide), fresh, good]
  dsimp only
  rw [if_neg (by rw [last]; decide)]
  rw [fresh, good]
  rfl

/-! ### Uncorrectable words (R136) and slices (R152, R153) -/

/-- The device as a word of the store has become uncorrectable. -/
def eccMarked (d : Dev) (a : Nat) : Dev :=
  { d with beam := { d.beam with eccZero := if d.beam.eccZero.contains a then d.beam.eccZero else a :: d.beam.eccZero } }

theorem ashlarError_correctable (d : Dev) (a : Nat) (up : d.domainUp a = true) : d.ashlarError a true = d.count Reg.BEAM_ECC 31 16 :=
  (if_neg (by rw [up]; decide)).trans (if_pos rfl)

theorem ashlarError_uncorrectable (d : Dev) (a : Nat) (up : d.domainUp a = true) :
    d.ashlarError a false = (((eccMarked d a).count Reg.BEAM_ECC 15 0).raise Reg.BEAM_EVT 6).report 219 :=
  (if_neg (by rw [up]; decide)).trans (if_neg Bool.false_ne_true)

theorem leads_ashlarError {a : Nat} (correctable : Bool) (isWord : isAshlarWord a = true) :
    Leads s (.ashlarEccError a correctable) (s.dev.ashlarError a correctable) :=
  leads_of_onCommit (f := fun d => d.ashlarError a correctable) (if_pos isWord)

theorem eccMarked_beam (d : Dev) (a : Nat) : (((eccMarked d a).count Reg.BEAM_ECC 15 0).raise Reg.BEAM_EVT 6).beam.eccZero =
    if d.beam.eccZero.contains a then d.beam.eccZero else a :: d.beam.eccZero := by
  rw [Dev.raise_beam]
  rfl

/-- The device as a slice has failed its check. -/
def sliceMarked (d : Dev) (k : Fin 8) : Dev := { d with beam := { d.beam with sliceErr := d.beam.sliceErr ||| 2 ^ k.val } }

end

/-- Settles O51: the copy of the store, its uncorrectable words, and the checks of the slices. -/
theorem beamStoreAndSlices : Obligations.BeamStoreAndSlices := by
  intro s
  refine ⟨fun wf busy fresh good => ?_, fun a isWord up => ⟨?_, ?_⟩, fun k running => ⟨fun serving idle next => ?_, fun serving => ?_⟩⟩
  · have gets (dir : Bool) (n : Nat) (size : n < 0x500000) := get_copied_in (dl := s.dev.beam.dlBank) (ul := s.dev.beam.ulBank) wf dir size
    have kept (b : Nat) := get_copied_out (m := s.mem) (dl := s.dev.beam.dlBank) (ul := s.dev.beam.ulBank) (b := b)
    have row : exec .mirrorCopyDone s = outOf s (settled (mirrorDone s.dev s.mem)) := rfl
    by_cases waits : s.dev.beam.mirrorWait = true
    · rw [mirrorDone_waits busy fresh good waits] at row
      exact ⟨_, _, row, gets, kept, fun _ => rfl, fun last => absurd (waits.symm.trans last) (by decide)⟩
    · rw [mirrorDone_ends busy fresh good (Bool.eq_false_iff.mpr waits)] at row
      refine ⟨_, _, row, gets, kept, fun more => absurd more waits, fun _ => ⟨?_, ?_⟩⟩
      · rw [bankDue_beam, bankDue_beam]
      · rw [bankDue_changes, bankDue_changes]
  · obtain ⟨m, sc, frame⟩ := s.dev.count_frame Reg.BEAM_ECC 31 16
    exact ⟨_, ashlarError_correctable s.dev a up ▸ leads_ashlarError true isWord, counted_count _ (by decide) (by decide),
      sameRegs_count _ _ _ (by simp), by rw [frame]⟩
  · refine ⟨_, ashlarError_uncorrectable s.dev a up ▸ leads_ashlarError false isWord, ?_, ?_, set_raise _ (by decide), ?_⟩
    · have word : a / 4 * 4 = a := by have := (of_decide_eq_true isWord).2.2; omega
      rw [Dev.eccBad, word, eccMarked_beam]
      split
      · assumption
      · simp
    · exact (counted_count (d := eccMarked s.dev a) Reg.BEAM_ECC (by decide) (by decide)).of_rd_eq (Dev.rd_raise_ne _ _ (by decide))
    · exact (sameRegs_count (eccMarked s.dev a) _ _ (by simp)).trans (sameRegs_raise _ _ (by simp))
  · have on (next' : Bool) : s.dev.sliceMismatch k next' = (s.dev.raise Reg.BEAM_EVT 4).report (if next' then toSrc (172 + k.val) else 180) :=
      if_neg (by rw [running, serving, idle, next]; decide)
    exact ⟨_, set_raise _ (by decide), sameRegs_raise _ _ (by simp), on true ▸ leads_of_onCommit (f := fun d => d.sliceMismatch k true) rfl,
      on false ▸ leads_of_onCommit (f := fun d => d.sliceMismatch k false) rfl⟩
  · have fails : s.dev.sliceFails k = ((sliceMarked s.dev k).raise Reg.BEAM_EVT 5).report (toSrc (172 + k.val)) :=
      if_neg (by rw [running, serving]; decide)
    exact ⟨(sliceMarked s.dev k).raise Reg.BEAM_EVT 5, fails ▸ leads_of_onCommit (f := fun d => d.sliceFails k) rfl, set_raise _ (by decide),
      Dev.raise_beam .., sameRegs_raise (sliceMarked s.dev k) _ (by simp)⟩

end Sys2Proof.Cert

/-! PROOFS. Command packets (O57): the checks of Table 11.2, unknown opcodes, and a pending command that comes due. -/

namespace Sys2Proof.Machine

section

variable {d : Dev} {m : Mem} {p : Packet} {n : Nat}

/-! ### The checks of a packet (R307) -/

theorem checkPacket_bad (bad : p.crcOk = false ∨ packetEnd p.words = none) : d.checkPacket p = (.fail 0x22 false, d.badCheck) := by
  unfold Dev.checkPacket
  cases crc : p.crcOk with
  | false => rfl
  | true =>
    rw [bad.resolve_left (by rw [crc]; decide)]
    rfl

/-- The parameters of a packet that ends after `n` words. -/
def Packet.body (p : Packet) (n : Nat) : List Word := (p.words.take (n - 1)).drop 4

/-- What the later checks of an unauthenticated packet find. -/
theorem checkPacket_plain (good : p.crcOk = true) (ends : packetEnd p.words = some n) (plain : (p.words.getD 1 0).bit 3 = false) :
    d.checkPacket p =
      if !opcodes.contains p.opcode then (.fail 0x20 false, d)
      else if n != impliedWords (p.words.getD 1 0) || (p.words.getD 1 0).get 31 16 % 4 != 0 || !lengthOk p.opcode (p.body n) then (.fail 0x21 false, d)
      else if !d.securityAllows p.opcode (p.body n) p.spi false then (.fail 0x12 false, d)
      else (.pass (p.body n) false, d) := by
  unfold Dev.checkPacket
  rw [good, ends]
  dsimp only
  rw [plain]
  rfl

end

end Sys2Proof.Machine

namespace Sys2Proof.Cert

open Sys2Proof.Machine

section

variable {s : State} {p : Packet} {rest : List Packet} {c : Instr} {n : Nat}

/-! ### Rows of the command set -/

/-- Every row of Table 11.4 runs the packet at the head of the ring where it has the row's opcode and form. -/
theorem rows_head : ∀ x ∈ opcodeRows, ∃ form f, ∀ s, exec x.2 s = onSettled s (headCommand x.1 form f) := by
  unfold opcodeRows
  simp only [List.forall_mem_cons]
  exact ⟨⟨_, _, fun _ => rfl⟩, ⟨_, _, fun _ => rfl⟩, ⟨_, _, fun _ => rfl⟩, ⟨_, _, fun _ => rfl⟩, ⟨_, _, fun _ => rfl⟩, ⟨_, _, fun _ => rfl⟩,
    ⟨_, _, fun _ => rfl⟩, ⟨_, _, fun _ => rfl⟩, ⟨_, _, fun _ => rfl⟩, ⟨_, _, fun _ => rfl⟩, ⟨_, _, fun _ => rfl⟩, ⟨_, _, fun _ => rfl⟩,
    ⟨_, _, fun _ => rfl⟩, ⟨_, _, fun _ => rfl⟩, ⟨_, _, fun _ => rfl⟩, ⟨_, _, fun _ => rfl⟩, ⟨_, _, fun _ => rfl⟩, ⟨_, _, fun _ => rfl⟩,
    ⟨_, _, fun _ => rfl⟩, ⟨_, _, fun _ => rfl⟩, ⟨_, _, fun _ => rfl⟩, ⟨_, _, fun _ => rfl⟩, ⟨_, _, fun _ => rfl⟩, ⟨_, _, fun _ => rfl⟩,
    ⟨_, _, fun _ => rfl⟩, ⟨_, _, fun _ => rfl⟩, ⟨_, _, fun _ => rfl⟩, ⟨_, _, fun _ => rfl⟩, ⟨_, _, fun _ => rfl⟩, ⟨_, _, fun _ => rfl⟩,
    ⟨_, _, fun _ => rfl⟩, ⟨_, _, fun _ => rfl⟩, ⟨_, _, fun _ => rfl⟩, ⟨_, _, fun _ => rfl⟩, ⟨_, _, fun _ => rfl⟩,
    fun _ h => absurd h List.not_mem_nil⟩

/-- A packet that fails a check leaves the ring with its failure, whatever its row. -/
theorem leads_failed {status : Nat} {auth : Bool} {d : Dev} (head : AtHead s p rest) (row : (p.opcode, c) ∈ opcodeRows)
    (fails : s.dev.checkPacket p = (.fail status auth, d)) : Leads s c (d.popRing.failReply p status auth) := by
  obtain ⟨form, f, is⟩ := rows_head _ row
  obtain ⟨runs, ring, command⟩ := head
  have goes : ¬ (!s.dev.processorRuns || p.regAccess || p.opcode != p.opcode) = true := by simp [runs, command]
  have fails' : headCommand p.opcode form f s.dev s.mem = (d.popRing.failReply p status auth, s.mem) := by
    unfold headCommand
    rw [ring]
    dsimp only
    rw [if_neg goes, fails]
  rw [Leads, is, onSettled, onMem_eq, fails']
  rfl

theorem row_listed (row : (p.opcode, c) ∈ opcodeRows) : opcodes.contains p.opcode = true := by
  have listed : ∀ x ∈ opcodeRows, opcodes.contains x.1 = true := by decide
  exact listed _ row

theorem packetChecks : PacketChecks := by
  intro s p rest n head c row
  refine ⟨fun bad => ⟨_, (counted_count32 Reg.DRUNAS_BAD_CHECK).of_rd_eq (Dev.rd_raise_ne _ _ (by decide)), set_raise _ (by decide),
    (sameRegs_count32 _ (by simp)).trans (sameRegs_raise _ _ (by simp)), leads_failed head row (checkPacket_bad bad)⟩,
    fun good ends plain => ⟨fun form => leads_failed head row ?_, fun length whole fits barred => leads_failed head row ?_⟩⟩
  · have broken : (n != impliedWords (p.words.getD 1 0) || (p.words.getD 1 0).get 31 16 % 4 != 0 || !lengthOk p.opcode (p.body n)) = true := by
      obtain one | two | three := form
      · rw [bne_iff_ne.mpr one, Bool.true_or, Bool.true_or]
      · rw [bne_iff_ne.mpr two, Bool.or_true, Bool.true_or]
      · rw [show lengthOk p.opcode (p.body n) = false from three]
        exact Bool.or_true _
    rw [checkPacket_plain good ends plain, row_listed row, if_neg (by decide), if_pos broken]
  · have whole' : ¬ (n != impliedWords (p.words.getD 1 0) || (p.words.getD 1 0).get 31 16 % 4 != 0 || !lengthOk p.opcode (p.body n)) = true := by
      rw [show lengthOk p.opcode (p.body n) = true from fits, whole, ← length]
      simp
    rw [checkPacket_plain good ends plain, row_listed row, if_neg (by decide), if_neg whole', if_pos (by rw [Packet.body, barred]; rfl)]

theorem unknownOpcodes : UnknownOpcodes := by
  intro s p rest n ⟨runs, ring, command⟩
  refine ⟨fun unlisted good ends plain => ?_, fun listed => ?_⟩
  · have answered : unknownCommand s.dev = s.dev.popRing.failReply p 0x20 false := by
      unfold unknownCommand
      rw [ring]
      dsimp only
      rw [if_neg (by rw [runs, command, unlisted]; decide), checkPacket_plain good ends plain, unlisted, if_pos (by decide)]
    exact congrArg (fun d => (.next (withDev s d) : Out)) answered
  · have kept : unknownCommand s.dev = s.dev := by
      unfold unknownCommand
      rw [ring]
      exact if_pos (by rw [listed]; exact Bool.or_true _)
    exact congrArg (fun d => (.next (withDev s d) : Out)) kept

/-! ### Replies that end a command (R309, R310) -/

/-- The device without its open commands. -/
def closed (d : Dev) : Dev := { d with drunas := { d.drunas with cmds := [] } }

/-- Nothing is left to settle once a command has ended: what lands, lands at a tick. -/
theorem settle_still {d : Dev} (m : Mem) (still : d.cad.running = true ∨ (d.cad.changes = [] ∧ d.link.proposals = [])) : settle d m = (d, m) := by
  obtain running | ⟨changes, proposals⟩ := still
  · exact settle_running d m running
  · exact settle_quiet m changes proposals

/-- The final reply of the only open command, once it has its verdict. -/
theorem finalise_verdict {d : Dev} {x : Cmd} {v : Nat} (only : d.drunas.cmds = [x]) (stage : x.stage ≠ .committed) (ended : x.verdict = some v)
    (loud : x.silent = false) (other : x.opcode ≠ 0x401) (ranges : d.drunas.ranges = []) (clash : d.drunas.clash = []) :
    d.finalise = (closed d).reply x.spi x.auth x.opcode x.tag (lateStatus x.late v) x.lost x.time true x.results := by
  have device : (d.modDrunas fun y => { y with
      cmds := y.cmds.filter fun z => z.id != x.id
      ranges := y.ranges.filter fun (r : Nat × Nat × Nat) => r.1 != x.id
      clash := y.clash.filter fun (r : Nat × Nat × Nat) => r.1 != x.id }) = closed d := by
    have drunas : ({ d.drunas with
        cmds := d.drunas.cmds.filter fun z => z.id != x.id
        ranges := d.drunas.ranges.filter fun (r : Nat × Nat × Nat) => r.1 != x.id
        clash := d.drunas.clash.filter fun (r : Nat × Nat × Nat) => r.1 != x.id } : Drunas) = { d.drunas with cmds := [] } := by
      rw [only]
      simp [ranges, clash]
    rw [Dev.modDrunas, drunas]
    rfl
  have finals : d.finalise = d.endReply x v x.time := by
    rw [Dev.finalise, Dev.finals, only, List.foldl_cons, List.foldl_nil, if_neg stage, ended]
  rw [finals, Dev.endReply, device, if_neg (by rw [loud]; decide)]
  split
  · exact absurd (by assumption) other
  · rfl

/-- A core test concerns no other command. -/
theorem coreTestsNow_still {d : Dev} {m : Mem} (still : d.ticking = true ∨
    ((∀ c : Fin 16, d.coreTest c.val = false) ∧ ∀ c : Fin 16, (d.chisel.cores[c]).testing = false)) : coreTestsNow (d, m) = (d, m) := by
  obtain ticking | ⟨none_, idle⟩ := still
  · exact if_pos ticking
  · by_cases ticking : d.ticking = true
    · exact if_pos ticking
    · refine (if_neg ticking).trans ?_
      rw [coreTestsTick_eq]
      have keeps (l : List (Fin 16)) : l.foldl coreTestStep (d, m) = (d, m) := by
        induction l with
        | nil => rfl
        | cons c l more =>
          rw [List.foldl_cons]
          have step : coreTestStep (d, m) c = (d, m) := by
            refine (if_neg (by rw [none_ c]; decide)).trans (if_neg ?_)
            rw [idle c, Bool.false_and]
            decide
          rw [step, more]
      exact keeps _

end

/-! ### A pending command that comes due (R313, R314) -/

section

variable {s : State} {d : Dev} {m : Mem} {c : Cmd}

/-- The device with one open command. -/
def holding (d : Dev) (c : Cmd) : Dev := { d with drunas := { d.drunas with cmds := [c] } }

theorem holding_self (only : d.drunas.cmds = [c]) : holding d c = d := by
  rw [holding, ← only]

theorem cmd?_holding (d : Dev) (c : Cmd) : (holding d c).cmd? c.id = some c := by
  simp [Dev.cmd?, holding]

theorem modCmd_holding (d : Dev) (c : Cmd) (f : Cmd → Cmd) : (holding d c).modCmd c.id f = holding d (f c) := by
  simp [Dev.modCmd, Dev.modDrunas, holding]

theorem endCmd_holding (d : Dev) (c : Cmd) (status : Nat) (results : List Word) (unended : c.verdict = none) :
    (holding d c).endCmd (some c.id) status results = holding d { c with verdict := some status, results := results } := by
  simp [Dev.endCmd, holding, unended]

/-- SYS_PING as it has run. -/
def pinged (c : Cmd) (t : Nat) : Cmd := { c with time := t, stage := .working, results := c.params, verdict := some 0 }

theorem runMeaning_ping (d : Dev) (m : Mem) (c : Cmd) (unended : c.verdict = none) :
    runMeaning opPing (holding d c) m c.id none = (holding d (pinged c (holding d c).nowNs), m) := by
  have noted := modCmd_holding d c fun x => { x with time := (holding d c).nowNs, stage := .working }
  have answered := modCmd_holding d { c with time := (holding d c).nowNs, stage := .working } fun x => { x with results := c.params }
  have ended := endCmd_holding d { c with time := (holding d c).nowNs, stage := .working, results := c.params } 0 c.params unended
  rw [runMeaning, cmd?_holding]
  dsimp only [opPing]
  rw [noted]
  exact congrArg (fun e => (e, m)) ((congrArg (fun e : Dev => e.endCmd (some c.id) 0 c.params) answered).trans ended)

/-- A pending SYS_PING executes, LATE where its instant had gone by. -/
theorem executeTimed_ping (only : d.drunas.cmds = [c]) (ping : c.opcode = 0x100) (unended : c.verdict = none) :
    executeTimed opPing d m c.id = (holding d (pinged { c with late := c.late || d.missed c } d.nowNs), m) := by
  have here : d.cmd? c.id = some c := by rw [← holding_self only]; exact cmd?_holding ..
  have untimed : ¬ d.onTick c = true := by
    rw [Dev.onTick, ping]
    simp [tickBound]
  have noted : (if d.missed c then d.modCmd c.id fun x => { x with late := true } else d) = holding d { c with late := c.late || d.missed c } := by
    cases missed : d.missed c with
    | false => rw [if_neg Bool.false_ne_true, Bool.or_false, holding_self only]
    | true =>
      rw [if_pos rfl, Bool.or_true]
      exact (congrArg (fun e : Dev => e.modCmd c.id fun x => { x with late := true }) (holding_self only).symm).trans (modCmd_holding ..)
  rw [executeTimed, here]
  dsimp only
  rw [if_neg untimed, noted]
  exact runMeaning_ping d m { c with late := c.late || d.missed c } unended

theorem firstDue_only {n : Nat} (due : d.dueIn c = some n) : firstDue d [c] = some (n, c) := by
  rw [firstDue, due]
  rfl

end

theorem pendingCommandRuns : PendingCommandRuns := by
  intro s c n runs calm only ranges clash pends ping unended loud due
  have waits : s.dev.pendList = [c] := by
    rw [Dev.pendList, only]
    simp [pends]
  have executed : timedCommandDue s.dev s.mem = coreTestsNow
      (holding (s.dev.passCycles n) (pinged { c with late := c.late || (s.dev.passCycles n).missed c } (s.dev.passCycles n).nowNs), s.mem) := by
    rw [timedCommandDue, if_neg (by rw [runs]; decide), waits, firstDue_only due]
    dsimp only
    rw [show meaningOf c.opcode = opPing by rw [ping]; rfl]
    exact congrArg coreTestsNow (executeTimed_ping (d := s.dev.passCycles n) only ping unended)
  generalize late : (c.late || (s.dev.passCycles n).missed c) = l at executed
  have still : coreTestsNow (holding (s.dev.passCycles n) (pinged { c with late := l } (s.dev.passCycles n).nowNs), s.mem) =
      (holding (s.dev.passCycles n) (pinged { c with late := l } (s.dev.passCycles n).nowNs), s.mem) := by
    refine coreTestsNow_still (calm.imp (fun running => ?_) fun quiet => ⟨fun k => ?_, quiet.2.2⟩)
    · exact Bool.or_eq_true_iff.mpr (.inl running)
    · simp [Dev.coreTest, holding, pinged, ping]
  have settles := settle_still (d := holding (s.dev.passCycles n) (pinged { c with late := l } (s.dev.passCycles n).nowNs)) s.mem
    (calm.imp id fun quiet => ⟨quiet.1, quiet.2.1⟩)
  have reply := finalise_verdict (d := holding (s.dev.passCycles n) (pinged { c with late := l } (s.dev.passCycles n).nowNs))
    (x := pinged { c with late := l } (s.dev.passCycles n).nowNs) rfl CmdStage.noConfusion rfl loud
    (fun same => absurd (ping.symm.trans same) (by decide)) ranges clash
  have row : exec .timedCommandDue s = outOf s (settled (timedCommandDue s.dev s.mem)) := rfl
  have status : lateStatus l 0 = if l then 2 else 0 := by cases l <;> rfl
  rw [row, executed, still, settled, settles, reply]
  dsimp only [pinged]
  rw [status, ping, ← late]
  rfl

/-- Settles O57: a packet's checks, a packet of no row, and a pending command that comes due. -/
theorem packetChecksAndTiming : Obligations.PacketChecksAndTiming := ⟨packetChecks, unknownOpcodes, pendingCommandRuns⟩

end Sys2Proof.Cert

/-! PROOFS. Lanes in training (O55, first part): what changes one lane leaves the others, and the rows of training frames, codewords
and attempts. -/

namespace Sys2Proof.Machine

section

variable {d e : Dev} {k j : Fin 8}

/-! ### One lane changes -/

theorem Dev.modLane_lane (k : Fin 8) (f : Lane → Lane) : (d.modLane k f).lanes[k] = f d.lanes[k] := by simp [Dev.modLane]

/-- Every lane but `k` is in `e` as it is in `d`. -/
def Beside (k : Fin 8) (d e : Dev) : Prop := ∀ j : Fin 8, j ≠ k → e.lanes[j] = d.lanes[j]

theorem Beside.of_lanes (h : e.lanes = d.lanes) : Beside k d e := fun _ _ => by rw [h]

theorem Beside.trans {f : Dev} (h : Beside k d e) (i : Beside k e f) : Beside k d f := fun j ne => (i j ne).trans (h j ne)

theorem beside_modLane (d : Dev) (k : Fin 8) (f : Lane → Lane) : Beside k d (d.modLane k f) := fun j ne => by
  simp [Dev.modLane, Vector.getElem_set_ne, Fin.val_ne_of_ne ne.symm]

/-- A lane that changes as another device would have it changed. -/
theorem modLane_lanes (f : Lane → Lane) (same : e.lanes = d.lanes) : (e.modLane k f).lanes = d.lanes.set k (f d.lanes[k]) := by
  rw [Dev.modLane, same]

/-! ### The states of an attempt -/

theorem attemptFailed_again (early : d.lanes[k].attempt < 8) : d.attemptFailed k = d.modLane k fun l => { l with st := .wait } :=
  if_neg (by omega)

theorem attemptFailed_last (last : 8 ≤ d.lanes[k].attempt) :
    d.attemptFailed k = (d.modLane k fun l => { l with st := .down }).raise Reg.SKX_PHY_EVT 1 := if_pos last

theorem attemptFailed_regs (d : Dev) (k : Fin 8) (a : Nat) (out : a ≠ Reg.SKX_PHY_EVT) : (d.attemptFailed k).rd a = d.rd a := by
  rcases Nat.lt_or_ge d.lanes[k].attempt 8 with early | last
  · rw [attemptFailed_again early]
    rfl
  · rw [attemptFailed_last last, Dev.rd_raise_ne _ _ out]
    rfl

theorem beside_attemptFailed (d : Dev) (k : Fin 8) : Beside k d (d.attemptFailed k) := by
  rcases Nat.lt_or_ge d.lanes[k].attempt 8 with early | last
  · rw [attemptFailed_again early]
    exact beside_modLane d k _
  · rw [attemptFailed_last last]
    exact Beside.trans (beside_modLane d k _) (Beside.of_lanes (Dev.raise_lanes ..))

theorem attemptTimeout_training (h : d.lanes[k].st = .detect ∨ d.lanes[k].st = .eq ∨ d.lanes[k].st = .align ∨ d.lanes[k].st = .qualify) :
    d.attemptTimeout k = (d.report (laneSource k)).attemptFailed k := by
  unfold Dev.attemptTimeout
  rcases h with h | h | h | h <;> rw [h]

theorem attemptTimeout_else (detect : d.lanes[k].st ≠ .detect) (eq : d.lanes[k].st ≠ .eq) (align : d.lanes[k].st ≠ .align)
    (qualify : d.lanes[k].st ≠ .qualify) : d.attemptTimeout k = d := by
  unfold Dev.attemptTimeout
  split
  case h_1 h => exact absurd h detect
  case h_2 h => exact absurd h eq
  case h_3 h => exact absurd h align
  case h_4 h => exact absurd h qualify
  case h_5 => rfl

theorem beginAttempt_regs (d : Dev) (k : Fin 8) (n : Nat) : (d.beginAttempt k n).regs = (d.count (Reg.LANE_RETRAIN k.val) 15 0).regs := rfl

/-- A lane where an attempt begins. -/
def Lane.attempting (l : Lane) (n : Nat) : Lane := { l with st := .detect, attempt := n, good := 0, other := 0, fastExit := false }

theorem beginAttempt_lanes (d : Dev) (k : Fin 8) (n : Nat) : (d.beginAttempt k n).lanes = d.lanes.set k (d.lanes[k].attempting n) := rfl

theorem laneAlign_lanes (d : Dev) (k : Fin 8) :
    (d.laneAlign k).lanes = (d.modLane k fun l => { l with st := .align, good := 0, fastExit := false }).lanes := by
  unfold Dev.laneAlign
  dsimp only
  split <;> rfl

theorem laneAlign_regs (d : Dev) (k : Fin 8) : (d.laneAlign k).regs = d.regs := by
  unfold Dev.laneAlign
  dsimp only
  split <;> rfl

theorem laneAlign_lane (d : Dev) (k : Fin 8) :
    (d.laneAlign k).lanes[k] = { d.lanes[k] with st := .align, good := 0, fastExit := false } := by
  rw [laneAlign_lanes, Dev.modLane_lane]

theorem beside_laneAlign (d : Dev) (k : Fin 8) : Beside k d (d.laneAlign k) := by
  intro j ne
  rw [laneAlign_lanes]
  exact beside_modLane d k _ j ne

/-! ### Training frames -/

theorem trainingFrame_detect (control status : BitVec 64) (q : Nat) (h : d.lanes[k].st = .detect) : d.trainingFrame k control status q =
    if !fieldGood control then d.modLane k fun l => { l with good := 0 }
    else if bits64 control 59 57 = k.val then
      if d.lanes[k].good = 7 then
        (d.drew.modLane k fun l => { l with st := .eq, good := 0, other := 0, req := 0 }).fset (Reg.LANE_STATE k.val) 21 21
          (Config.freeNat d.freeCtr % 2)
      else d.modLane k fun l => { l with good := l.good + 1, other := 0 }
    else if d.lanes[k].other = 7 then (d.raise Reg.SKX_PHY_EVT 7).attemptFailed k
    else d.modLane k fun l => { l with good := 0, other := l.other + 1 } := by
  unfold Dev.trainingFrame
  rw [h]

theorem trainingFrame_else (control status : BitVec 64) (q : Nat) (detect : d.lanes[k].st ≠ .detect) (eq : d.lanes[k].st ≠ .eq) :
    d.trainingFrame k control status q = d := by
  unfold Dev.trainingFrame
  dsimp only
  split
  case h_1 h => exact absurd h detect
  case h_2 h => exact absurd h eq
  case h_3 => rfl

/-- In EQ the partner's status field, where its check holds, is shown. -/
def Dev.statusSeen (d : Dev) (k : Fin 8) (status : BitVec 64) : Dev :=
  if fieldGood status then d.fset (Reg.LANE_STATE k.val) 22 22 (bits64 status 57 57) else d

/-- The FEC choice that this end grants (R260). -/
def Dev.fecGrant (d : Dev) (control : BitVec 64) : Nat := if (d.rd Reg.SKX_PHY_CFG).bit 23 then bits64 control 41 41 else 0

/-- In EQ a good frame moves this end's FFE and shows the choice granted. -/
def Dev.equalised (d : Dev) (k : Fin 8) (control : BitVec 64) : Dev :=
  (d.ffe k (bits64 control 47 42)).fset (Reg.LANE_STATE k.val) 23 23 (d.fecGrant control)

/-- The corrected symbols of a codeword, counted. -/
def corrected (d : Dev) (k : Fin 8) (n : Nat) : Dev :=
  d.fset (Reg.LANE_FEC_CORR k.val) 31 0 (min (d.fget (Reg.LANE_FEC_CORR k.val) 31 0 + n) (2 ^ 32 - 1))

theorem codeword_good (d : Dev) (k : Fin 8) (n : Nat) : d.codeword k (some n) =
    if (corrected d k n).lanes[k].st = .align then
      if (corrected d k n).lanes[k].good = 63 then (corrected d k n).modLane k fun l => { l with st := .qualify, good := 0 }
      else (corrected d k n).modLane k fun l => { l with good := l.good + 1 }
    else corrected d k n := by
  unfold Dev.codeword corrected
  dsimp only

theorem corrected_lanes (d : Dev) (k : Fin 8) (n : Nat) : (corrected d k n).lanes = d.lanes := Dev.fset_lanes ..

theorem codeword_regs (d : Dev) (k : Fin 8) (n : Nat) : (d.codeword k (some n)).regs = (corrected d k n).regs := by
  rw [codeword_good d k n]
  split
  · split <;> rfl
  · rfl

/-- The end of EQ: where the partner is ready, the own figure suffices and the choice is granted, ALIGN begins. -/
def Dev.eqEnds (d : Dev) (k : Fin 8) (control : BitVec 64) (q grant : Nat) : Dev :=
  if bits64 control 40 40 = 1 ∧ d.lqfJoin ≤ q ∧ grant = bits64 control 41 41 then
    (d.drew.fset (Reg.LANE_EQ k.val) 31 24 (Config.freeNat d.freeCtr % 16)).laneAlign k
  else d

theorem trainingFrame_eq (control status : BitVec 64) (q : Nat) (h : d.lanes[k].st = .eq) (good : fieldGood control = true) :
    d.trainingFrame k control status q =
      ((d.statusSeen k status).equalised k control).eqEnds k control q ((d.statusSeen k status).fecGrant control) := by
  unfold Dev.trainingFrame Dev.eqEnds Dev.equalised Dev.fecGrant Dev.statusSeen
  rw [h, good]
  dsimp only
  rw [if_neg (by decide)]

end

end Sys2Proof.Machine

namespace Sys2Proof.Cert

open Sys2Proof.Machine

section

variable {s : State} {d e : Dev} {k : Fin 8}

theorem laneState_ne (k : Fin 8) {a : Nat} (out : a < 0x80100) : a ≠ Reg.LANE_STATE k.val := by
  unfold Reg.LANE_STATE
  omega

theorem laneEq_ne (k : Fin 8) {a : Nat} (out : a < 0x80100) : a ≠ Reg.LANE_EQ k.val := by
  unfold Reg.LANE_EQ
  omega

theorem statusSeen_lanes (d : Dev) (k : Fin 8) (status : BitVec 64) : (d.statusSeen k status).lanes = d.lanes := by
  unfold Dev.statusSeen
  split
  · exact Dev.fset_lanes ..
  · rfl

theorem ffe_lanes (d : Dev) (k : Fin 8) (req : Nat) : (d.ffe k req).lanes = (d.modLane k fun l => { l with req := req }).lanes := by
  unfold Dev.ffe
  exact modLane_lanes _ (by simp only [Dev.fset_lanes])

theorem equalised_lanes (d : Dev) (k : Fin 8) (control status : BitVec 64) :
    ((d.statusSeen k status).equalised k control).lanes = (d.modLane k fun l => { l with req := bits64 control 47 42 }).lanes := by
  rw [Dev.equalised, Dev.fset_lanes, ffe_lanes, Dev.modLane, statusSeen_lanes, Dev.modLane]

theorem beside_equalised (d : Dev) (k : Fin 8) (control status : BitVec 64) :
    Beside k d ((d.statusSeen k status).equalised k control) := fun j ne => by
  rw [equalised_lanes]
  exact beside_modLane d k _ j ne

theorem equalised_st (d : Dev) (k : Fin 8) (control status : BitVec 64) :
    ((d.statusSeen k status).equalised k control).lanes[k].st = d.lanes[k].st := by
  rw [equalised_lanes, Dev.modLane_lane]

theorem sameRegs_statusSeen (d : Dev) (k : Fin 8) (status : BitVec 64) :
    SameRegsBut [Reg.LANE_STATE k.val, Reg.LANE_EQ k.val] d (d.statusSeen k status) := by
  unfold Dev.statusSeen
  split
  · exact sameRegs_fset _ _ _ _ List.mem_cons_self
  · exact .of_regs rfl

theorem sameRegs_ffe (d : Dev) (k : Fin 8) (req : Nat) :
    SameRegsBut [Reg.LANE_STATE k.val, Reg.LANE_EQ k.val] d (d.ffe k req) := by
  have second : Reg.LANE_EQ k.val ∈ [Reg.LANE_STATE k.val, Reg.LANE_EQ k.val] := List.mem_cons_of_mem _ List.mem_cons_self
  unfold Dev.ffe
  exact SameRegsBut.congr (((sameRegs_fset d 23 16 _ second).trans (sameRegs_fset _ 7 0 _ second)).trans
    (sameRegs_fset _ 15 8 _ second)) (Dev.modLane_regs ..)

/-- The registers of an equalisation: a lane's state and its tap weights. -/
theorem sameRegs_equalised (d : Dev) (k : Fin 8) (control status : BitVec 64) :
    SameRegsBut [Reg.LANE_STATE k.val, Reg.LANE_EQ k.val] d ((d.statusSeen k status).equalised k control) :=
  ((sameRegs_statusSeen d k status).trans (sameRegs_ffe _ k _)).trans (sameRegs_fset _ _ _ _ List.mem_cons_self)

theorem equalised_lqfJoin (d : Dev) (k : Fin 8) (control status : BitVec 64) :
    ((d.statusSeen k status).equalised k control).lqfJoin = d.lqfJoin := by
  have same := sameRegs_equalised d k control status Reg.SKX_PHY_THR (by
    rw [List.mem_pair, not_or]
    exact ⟨laneState_ne k (by decide), laneEq_ne k (by decide)⟩)
  rw [Dev.lqfJoin, Dev.lqfJoin, Dev.fget, Dev.fget, same]

theorem statusSeen_grant (d : Dev) (k : Fin 8) (control status : BitVec 64) :
    (d.statusSeen k status).fecGrant control = d.fecGrant control := by
  have same : (d.statusSeen k status).rd Reg.SKX_PHY_CFG = d.rd Reg.SKX_PHY_CFG := by
    unfold Dev.statusSeen
    split
    · exact Dev.rd_fset_ne _ _ _ _ (laneState_ne k (by decide))
    · rfl
  rw [Dev.fecGrant, Dev.fecGrant, same]

theorem eqEnds_ready {control : BitVec 64} {q grant : Nat} (ready : bits64 control 40 40 = 1) (met : d.lqfJoin ≤ q)
    (agreed : grant = bits64 control 41 41) : d.eqEnds k control q grant =
      (d.drew.fset (Reg.LANE_EQ k.val) 31 24 (Config.freeNat d.freeCtr % 16)).laneAlign k := if_pos ⟨ready, met, agreed⟩

theorem eqEnds_short {control : BitVec 64} {q grant : Nat} (short : bits64 control 40 40 = 0 ∨ q < d.lqfJoin) :
    d.eqEnds k control q grant = d := by
  refine if_neg ?_
  rintro ⟨ready, met, -⟩
  omega

theorem aligned_lane (d : Dev) (k : Fin 8) (n : Nat) :
    ((d.drew.fset (Reg.LANE_EQ k.val) 31 24 n).laneAlign k).lanes[k] = { d.lanes[k] with st := .align, good := 0, fastExit := false } := by
  rw [laneAlign_lane, Dev.fset_lanes, Dev.drew_lanes]

theorem beside_aligned (d : Dev) (k : Fin 8) (n : Nat) : Beside k d ((d.drew.fset (Reg.LANE_EQ k.val) 31 24 n).laneAlign k) :=
  (Beside.of_lanes (Dev.fset_lanes d.drew _ 31 24 n)).trans (beside_laneAlign _ k)

theorem sameRegs_aligned (d : Dev) (k : Fin 8) (n : Nat) :
    SameRegsBut [Reg.LANE_STATE k.val, Reg.LANE_EQ k.val] d ((d.drew.fset (Reg.LANE_EQ k.val) 31 24 n).laneAlign k) :=
  ((SameRegsBut.of_regs rfl).trans (sameRegs_fset d.drew 31 24 n (List.mem_cons_of_mem _ List.mem_cons_self))).congr (laneAlign_regs ..)

theorem fecGrant_of {control : BitVec 64} (agreed : (d.rd Reg.SKX_PHY_CFG).bit 23 = true ∨ bits64 control 41 41 = 0) :
    d.fecGrant control = bits64 control 41 41 := by
  unfold Dev.fecGrant
  split
  · rfl
  · exact (agreed.resolve_left ‹_›).symm

theorem Set.attemptFailed {a b : Nat} (h : Set d a b) : Set (d.attemptFailed k) a b := by
  rcases Nat.lt_or_ge d.lanes[k].attempt 8 with early | last
  · rw [attemptFailed_again early]
    exact h.of_regs (Dev.modLane_regs ..)
  · rw [attemptFailed_last last]
    exact (h.of_regs (Dev.modLane_regs ..)).raise _ _

/-- A failed attempt of a device whose lanes are still the state's. -/
theorem attemptFails (same : e.lanes = s.dev.lanes) : AttemptFails s (e.attemptFailed k) k := by
  refine ⟨fun early => ?_, fun last => ?_, fun j ne => ?_⟩
  · rw [attemptFailed_again (same ▸ early), Dev.modLane_lane]
  · rw [attemptFailed_last (same ▸ last)]
    refine ⟨?_, set_raise _ (by decide)⟩
    rw [Dev.raise_lanes, Dev.modLane_lane]
  · rw [beside_attemptFailed e k j ne, same]

theorem locked_lanes (d : Dev) (k : Fin 8) (f : Lane → Lane) (n : Nat) :
    ((d.drew.modLane k f).fset (Reg.LANE_STATE k.val) 21 21 n).lanes = d.lanes.set k (f d.lanes[k]) := Dev.fset_lanes ..

theorem sameRegs_locked (d : Dev) (k : Fin 8) (f : Lane → Lane) (n : Nat) :
    SameRegsBut [Reg.LANE_STATE k.val] d ((d.drew.modLane k f).fset (Reg.LANE_STATE k.val) 21 21 n) :=
  SameRegsBut.trans (e := d.drew.modLane k f) (.of_regs rfl) (sameRegs_fset _ 21 21 n List.mem_cons_self)

theorem laneTraining : LaneTraining := by
  intro s k control status q up
  dsimp only
  have row : Leads s (.trainingFrameReceived k control status q) (s.dev.trainingFrame k control status q) :=
    leads_of_onLink (f := fun d => d.trainingFrame k control status q) rfl up
  refine ⟨fun st bad => ?_, fun st good own few => ?_, fun st good own eighth => ?_, fun st good foreign eighth => ?_,
    fun st good ready met agreed => ?_, fun st good short => ?_, fun detect eq => ?_⟩
  · rw [trainingFrame_detect _ _ _ st, bad] at row
    exact ⟨_, row, rfl, rfl⟩
  · rw [trainingFrame_detect _ _ _ st, good, if_neg (by decide), if_pos own, if_neg few] at row
    exact ⟨_, row, rfl, rfl⟩
  · rw [trainingFrame_detect _ _ _ st, good, if_neg (by decide), if_pos own, if_pos eighth] at row
    exact ⟨_, row, locked_lanes .., sameRegs_locked _ _ _ _⟩
  · rw [trainingFrame_detect _ _ _ st, good, if_neg (by decide), if_neg foreign, if_pos eighth] at row
    refine ⟨_, row, ?_, attemptFails (Dev.raise_lanes ..)⟩
    exact Set.attemptFailed (set_raise _ (by decide))
  · rw [trainingFrame_eq _ _ _ st good, eqEnds_ready ready ((equalised_lqfJoin ..).le.trans met)
      ((statusSeen_grant ..).trans (fecGrant_of agreed))] at row
    exact ⟨_, row, congrArg Lane.st (aligned_lane ..), congrArg Lane.good (aligned_lane ..),
      (sameRegs_equalised s.dev k control status).trans (sameRegs_aligned _ _ _),
      (beside_equalised s.dev k control status).trans (beside_aligned _ _ _)⟩
  · rw [trainingFrame_eq _ _ _ st good, eqEnds_short (by rwa [equalised_lqfJoin])] at row
    exact ⟨_, row, (equalised_st ..).trans st, beside_equalised _ _ _ _⟩
  · rwa [trainingFrame_else _ _ _ detect eq] at row

/-! ### Codewords -/

theorem rd_corrected (d : Dev) (k : Fin 8) (n : Nat) : ((corrected d k n).rd (Reg.LANE_FEC_CORR k.val)).toNat =
    min ((d.rd (Reg.LANE_FEC_CORR k.val)).toNat + n) (2 ^ 32 - 1) := by
  rw [← Word.get_whole, ← Word.get_whole]
  rw [corrected, get_fset d _ (by decide) (by decide) (by omega), Dev.fget]

theorem laneCodewords : LaneCodewords := by
  intro s k n up few
  dsimp only
  refine ⟨?_, ?_⟩
  · have row : Leads s (.codewordReceived k (some n)) (s.dev.codeword k (some n)) :=
      leads_of_onLink (f := fun d => d.codeword k (some n)) (if_pos few) up
    refine ⟨_, row, ?_, (sameRegs_fset _ _ _ _ List.mem_cons_self).congr (codeword_regs ..), fun st last => ?_, fun st more => ?_,
      fun st => ?_⟩
    · rw [Dev.rd_of_regs (codeword_regs ..), rd_corrected]
    · rw [codeword_good, corrected_lanes, if_pos st, if_pos last]
      exact modLane_lanes _ (corrected_lanes ..)
    · rw [codeword_good, corrected_lanes, if_pos st, if_neg more]
      exact modLane_lanes _ (corrected_lanes ..)
    · rw [codeword_good, corrected_lanes, if_neg st]
      exact corrected_lanes ..
  · have row : Leads s (.codewordReceived k none) (s.dev.codeword k none) :=
      leads_of_onLink (f := fun d => d.codeword k none) rfl up
    exact ⟨_, row, (counted_count32 _).of_regs (Dev.modLane_regs ..), (sameRegs_count32 _ List.mem_cons_self).congr (Dev.modLane_regs ..),
      modLane_lanes _ (Dev.count32_lanes ..)⟩

/-! ### Attempts -/

theorem laneSource_number (k : Fin 8) : (laneSource k).val = 164 + k.val := by
  unfold laneSource toSrc
  revert k
  decide

theorem sumpStatus_ne (k : Fin 8) : Reg.SUMP_SRC_STATUS (164 + k.val) ≠ Reg.SKX_PHY_EVT := by
  revert k
  decide

theorem laneAttempts : LaneAttempts := by
  intro s k up
  dsimp only
  refine ⟨fun training => ⟨fun arrives => unlessNow_arrives _ _ _ arrives, fun alone => ?_⟩, fun detect eq align qualify alone => ?_,
    fun waits => ?_, fun other => ?_, fun down enabled => ?_, fun other => ?_, fun idle owes => ⟨?_, ?_⟩, fun none b => ?_⟩
  · have row : Leads s (.laneAttemptTimeout k) (s.dev.attemptTimeout k) :=
      leads_of_onLink (f := fun d => d.attemptTimeout k) (by dsimp only [exec]; exact unlessNow_else _ _ _ alone) up
    rw [attemptTimeout_training training] at row
    refine ⟨_, row, attemptFails (reported_lanes (Dev.report_reported s.dev (laneSource k))), fun hears => ?_⟩
    have counted := counted_report (n := laneSource k) hears
    rw [laneSource_number] at counted
    exact counted.of_rd_eq (attemptFailed_regs _ _ _ (sumpStatus_ne k))
  · have row : Leads s (.laneAttemptTimeout k) (s.dev.attemptTimeout k) :=
      leads_of_onLink (f := fun d => d.attemptTimeout k) (by dsimp only [exec]; exact unlessNow_else _ _ _ alone) up
    rwa [attemptTimeout_else detect eq align qualify] at row
  · have row : Leads s (.laneBackoffExpire k) (s.dev.backoffExpire k) :=
      leads_of_onLink (f := fun d => d.backoffExpire k) rfl up
    rw [Dev.backoffExpire, if_pos waits] at row
    exact ⟨_, row, (counted_count _ (by decide) (by decide)).of_regs rfl, (sameRegs_count _ _ _ List.mem_cons_self).congr rfl, rfl⟩
  · have row : Leads s (.laneBackoffExpire k) (s.dev.backoffExpire k) :=
      leads_of_onLink (f := fun d => d.backoffExpire k) rfl up
    rwa [Dev.backoffExpire, if_neg other] at row
  · have row : Leads s (.laneProbe k) (s.dev.laneProbe k) := leads_of_onLink (f := fun d => d.laneProbe k) rfl up
    rw [Dev.laneProbe, if_pos ⟨down, enabled⟩] at row
    exact ⟨_, row, (counted_count _ (by decide) (by decide)).of_regs rfl, (sameRegs_count _ _ _ List.mem_cons_self).congr rfl, rfl⟩
  · have row : Leads s (.laneProbe k) (s.dev.laneProbe k) := leads_of_onLink (f := fun d => d.laneProbe k) rfl up
    rwa [Dev.laneProbe, if_neg fun h => other h.1] at row
  · have row : Leads s (.laneFastExit k true) (s.dev.fastExit k true) := leads_of_onLink (f := fun d => d.fastExit k true) rfl up
    rw [Dev.fastExit, if_pos ⟨idle, owes⟩] at row
    refine ⟨_, row, ?_, ?_, (counted_count _ (by decide) (by decide)).of_regs (laneAlign_regs ..),
      (sameRegs_count _ _ _ List.mem_cons_self).congr (laneAlign_regs ..)⟩
    · exact congrArg Lane.st (laneAlign_lane ..)
    · exact congrArg Lane.fastExit (laneAlign_lane ..)
  · have row : Leads s (.laneFastExit k false) (s.dev.fastExit k false) :=
      leads_of_onLink (f := fun d => d.fastExit k false) rfl up
    rw [Dev.fastExit, if_pos ⟨idle, owes⟩] at row
    have lane : (((s.dev.count (Reg.LANE_RETRAIN k.val) 15 0).report (laneSource k)).beginAttempt k 1).lanes[k] =
        ((s.dev.count (Reg.LANE_RETRAIN k.val) 15 0).report (laneSource k)).lanes[k].attempting 1 := by
      simp [beginAttempt_lanes]
    exact ⟨_, row, congrArg Lane.st lane, congrArg Lane.attempt lane, congrArg Lane.fastExit lane⟩
  · have row : Leads s (.laneFastExit k b) (s.dev.fastExit k b) := leads_of_onLink (f := fun d => d.fastExit k b) rfl up
    rwa [Dev.fastExit, if_neg] at row
    rintro ⟨idle, owes⟩
    rcases none with away | settled
    · exact away idle
    · rw [settled] at owes
      exact absurd owes (by decide)

end

end Sys2Proof.Cert

/-! PROOFS. The lane sets (O55, second part): what the sets will be once every proposal has landed, and proposals that join a lane or
take it away. -/

namespace Sys2Proof.Machine

section

variable {d e : Dev} {k : Fin 8}

/-! ### A lane in or out of a set -/

theorem testBit_without_same {s k : Nat} (member : s.testBit k = true) : (s - 2 ^ k).testBit k = false := by
  have flips := Nat.testBit_two_pow_add_eq (s - 2 ^ k) k
  rw [Nat.add_sub_cancel' (Nat.ge_two_pow_of_testBit member), member] at flips
  simpa using flips.symm

theorem testBit_without_ne {s k i : Nat} (member : s.testBit k = true) (ne : i ≠ k) : (s - 2 ^ k).testBit i = s.testBit i := by
  have whole : 2 ^ k + (s - 2 ^ k) = s := Nat.add_sub_cancel' (Nat.ge_two_pow_of_testBit member)
  rcases Nat.lt_or_gt_of_ne ne with below | above
  · rw [← Nat.testBit_two_pow_add_gt below, whole]
  · have high : (s - 2 ^ k) / 2 ^ (k + 1) = s / 2 ^ (k + 1) := by
      have odd : s / 2 ^ k % 2 = 1 := by simpa [Nat.testBit_eq_decide_div_mod_eq] using member
      have less : (s - 2 ^ k) / 2 ^ k = s / 2 ^ k - 1 := by
        simpa using Nat.sub_mul_div (a := s) (b := 2 ^ k) (c := 1)
      rw [pow_succ, ← Nat.div_div_eq_div_mul, ← Nat.div_div_eq_div_mul, less]
      generalize s / 2 ^ k = q at odd ⊢
      omega
    have shown : ∀ x : Nat, (x / 2 ^ (k + 1)).testBit (i - (k + 1)) = x.testBit i := fun x => by
      rw [Nat.testBit_div_two_pow]
      congr 1
      omega
    rw [← shown, ← shown, high]

theorem testBit_setLane_same (s k : Nat) (b : Bool) : (setLane s k (some b)).testBit k = b := by
  cases b with
  | true => simp [setLane, Nat.testBit_two_pow_self]
  | false =>
    unfold setLane
    dsimp only
    split
    case isTrue member => exact testBit_without_same member
    case isFalse out => exact Bool.eq_false_iff.mpr out

theorem testBit_setLane_ne {s k i : Nat} (ne : i ≠ k) (on : Option Bool) : (setLane s k on).testBit i = s.testBit i := by
  cases on with
  | none => rfl
  | some b =>
    cases b with
    | true => simp [setLane, Nat.testBit_two_pow_of_ne ne.symm]
    | false =>
      unfold setLane
      dsimp only
      split
      case isTrue member => exact testBit_without_ne member ne
      case isFalse => rfl

/-- Where every proposal for a lane says the same of it, a set that has one of them, or has the lane so already, ends with it so. -/
theorem testBit_landed {pick : Proposal → Option Bool} {b : Bool} {ps : List Proposal} {s : Nat}
    (agree : ∀ p ∈ ps, p.lane = k → pick p = some b) (some_ : s.testBit k.val = b ∨ ∃ p ∈ ps, p.lane = k) :
    (ps.foldl (fun s p => setLane s p.lane.val (pick p)) s).testBit k.val = b := by
  induction ps generalizing s with
  | nil => simpa using some_
  | cons p ps ih =>
    rw [List.forall_mem_cons] at agree
    obtain ⟨here, later⟩ := agree
    refine ih later ?_
    dsimp only
    by_cases own : p.lane = k
    · rw [here own, own]
      exact .inl (testBit_setLane_same ..)
    · have ne : k.val ≠ p.lane.val := fun h => own (Fin.ext h.symm)
      rw [testBit_setLane_ne ne]
      rcases some_ with now | ⟨q, mem, lane⟩
      · exact .inl now
      · rcases List.mem_cons.mp mem with rfl | more
        · exact absurd lane own
        · exact .inr ⟨q, more, lane⟩

/-! ### Proposals (R264) -/

/-- The proposals of a link with one more: where the lane has some already, each takes what the new one says. -/
def joined (ps : List Proposal) (p : Proposal) : List Proposal :=
  if ps.any fun q => q.lane == p.lane then
    ps.map fun q => if q.lane = p.lane then { q with tx := p.tx.or q.tx, rx := p.rx.or q.rx, land := max q.land p.land } else q
  else ps ++ [p]

theorem addProposal_eq (d : Dev) (p : Proposal) :
    d.addProposal p = d.modLink fun l => { l with proposals := joined l.proposals p } := by
  unfold Dev.addProposal Dev.modLink joined
  dsimp only
  split
  case h_1 none =>
    rw [if_neg]
    rw [List.any_eq_true]
    rintro ⟨q, mem, own⟩
    exact List.find?_eq_none.mp none q mem own
  case h_2 q found =>
    rw [if_pos (List.any_eq_true.mpr ⟨q, List.mem_of_find?_eq_some found, List.find?_some (p := fun r : Proposal => r.lane == p.lane) found⟩)]

theorem mem_joined (ps : List Proposal) (p : Proposal) : ∃ q ∈ joined ps p, q.lane = p.lane := by
  unfold joined
  split
  case isTrue some_ =>
    obtain ⟨q, mem, own⟩ := List.any_eq_true.mp some_
    rw [beq_iff_eq] at own
    refine ⟨_, List.mem_map_of_mem mem, ?_⟩
    rw [if_pos own]
    exact own
  case isFalse => exact ⟨p, by simp, rfl⟩

theorem joined_agree {ps : List Proposal} {p q : Proposal} {a b : Bool} (tx : p.tx = some a) (rx : p.rx = some b)
    (mem : q ∈ joined ps p) (own : q.lane = p.lane) : q.tx = some a ∧ q.rx = some b := by
  unfold joined at mem
  split at mem
  case isTrue =>
    obtain ⟨r, -, rfl⟩ := List.mem_map.mp mem
    split at own
    case isTrue lane =>
      rw [if_pos lane, tx, rx]
      exact ⟨rfl, rfl⟩
    case isFalse other => exact absurd own other
  case isFalse none =>
    rcases List.mem_append.mp mem with old | new
    · exact absurd (List.any_eq_true.mpr ⟨q, old, by simpa using own⟩) none
    · rw [List.mem_singleton.mp new]
      exact ⟨tx, rx⟩

/-! ### A proposal for one lane -/

/-- `e` is `d` with a change of lane `k` proposed: once all has landed, the transmit set has it as `tx` says, the receive set as `rx`
says. -/
structure Proposed (k : Fin 8) (tx rx : Bool) (d e : Dev) : Prop where
  regs : e.regs = d.regs
  lanes : e.lanes = d.lanes
  txSet : e.link.txSet = d.link.txSet
  rxSet : e.link.rxSet = d.link.rxSet
  finalTx : e.finalTx.testBit k.val = tx
  finalRx : e.finalRx.testBit k.val = rx

/-- What a message handed to the transmitter changes of the link. -/
theorem send_queues (d : Dev) (flow : Nat) (ws : List Word) : ∃ tx seq, d.send flow ws = { d with link := { d.link with tx := tx, txSeq := seq } } := by
  unfold Dev.send
  split
  · exact ⟨_, _, rfl⟩
  · exact ⟨_, _, rfl⟩

theorem proposed_addProposal (d : Dev) {p : Proposal} {a b : Bool} (own : p.lane = k) (tx : p.tx = some a) (rx : p.rx = some b) :
    Proposed k a b d (d.addProposal p) := by
  subst own
  rw [addProposal_eq]
  have agree := fun q (mem : q ∈ joined d.link.proposals p) (own : q.lane = p.lane) => joined_agree tx rx mem own
  have one := mem_joined d.link.proposals p
  exact ⟨rfl, rfl, rfl, rfl, testBit_landed (fun q mem own => (agree q mem own).1) (.inr one),
    testBit_landed (fun q mem own => (agree q mem own).2) (.inr one)⟩

theorem proposed_send {a b : Bool} (flow : Nat) (ws : List Word) (h : Proposed k a b (d.send flow ws) e) : Proposed k a b d e := by
  obtain ⟨tx, seq, sent⟩ := send_queues d flow ws
  rw [sent] at h
  exact ⟨h.regs, h.lanes, h.txSet, h.rxSet, h.finalTx, h.finalRx⟩

/-- A step over the lanes that acts for one of them only. -/
theorem foldl_one_lane {σ : Type} {f : σ → Fin 8 → σ} (others : ∀ x j, j ≠ k → f x j = x) (x : σ) :
    (List.finRange 8).foldl f x = f x k := by
  have alone : ∀ l : List (Fin 8), l.Nodup → ∀ y, l.foldl f y = if k ∈ l then f y k else y := fun l => by
    induction l with
    | nil => exact fun _ _ => rfl
    | cons j l ih =>
      intro nodup y
      obtain ⟨fresh, rest⟩ := List.nodup_cons.mp nodup
      rw [List.foldl_cons, ih rest]
      by_cases own : j = k
      · subst own
        rw [if_neg fresh, if_pos List.mem_cons_self]
      · rw [others _ _ own]
        simp [Ne.symm own]
  rw [alone _ (List.nodup_finRange 8), if_pos (List.mem_finRange k)]

/-- A lane proposed to leave leaves both sets. -/
theorem propose_leave (d : Dev) (k : Fin 8) : Proposed k false false d (d.propose (2 ^ k.val) 0 0 0 0 0) := by
  unfold Dev.propose
  dsimp only
  rw [foldl_one_lane (k := k) fun x j other => ?_]
  · simp only [Nat.testBit_two_pow_self, Bool.true_or, if_true, Option.isNone_some, Bool.and_self, Bool.false_eq_true, if_false]
    exact proposed_send _ _ (proposed_addProposal _ rfl rfl rfl)
  · have apart : (2 ^ k.val).testBit j.val = false := Nat.testBit_two_pow_of_ne fun h => other (Fin.ext h.symm)
    simp [apart]

/-- A lane proposed to join joins each set whose direction does not sleep. -/
theorem propose_join (d : Dev) (k : Fin 8) (tx rx : Bool) : Proposed k (!tx) (!rx) d
    (d.propose 0 (2 ^ k.val) (if tx then 2 ^ k.val else 0) (if rx then 2 ^ k.val else 0) 0 0) := by
  unfold Dev.propose
  dsimp only
  rw [foldl_one_lane (k := k) fun x j other => ?_]
  · have asleep : ∀ b : Bool, (if b then 2 ^ k.val else 0).testBit k.val = b := fun b => by cases b <;> simp [Nat.testBit_two_pow_self]
    have takes : ∀ b : Bool, (if b then some false else some true) = some (!b) := fun b => by cases b <;> rfl
    simp only [Nat.testBit_two_pow_self, asleep, Nat.zero_testBit, Bool.false_or, Bool.true_or, if_true, takes, Option.isNone_some,
      Bool.and_self, Bool.false_eq_true, if_false]
    exact proposed_send _ _ (proposed_addProposal _ rfl rfl rfl)
  · have apart : (2 ^ k.val).testBit j.val = false := Nat.testBit_two_pow_of_ne fun h => other (Fin.ext h.symm)
    have asleep : ∀ b : Bool, (if b then 2 ^ k.val else 0).testBit j.val = false := fun b => by cases b <;> simp [apart]
    simp [apart, asleep]

/-! ### Leaving service -/

/-- A lane that serves is proposed to leave: where it is to go stands with it, and both sets will be without it. -/
theorem proposeLeave_serving (d : Dev) (k : Fin 8) (goal : LaneSt × Bool)
    (serves : (d.link.txSet.testBit k.val || d.link.rxSet.testBit k.val) = true) :
    Proposed k false false (d.modLane k fun l => { l with leaveTo := some goal }) (d.proposeLeave k goal) := by
  unfold Dev.proposeLeave
  dsimp only
  generalize marked : (d.modLane k fun l => { l with leaveTo := some goal }) = e
  have sets : (e.link.txSet.testBit k.val || e.link.rxSet.testBit k.val) = true := marked ▸ serves
  split
  case isTrue => exact propose_leave e k
  case isFalse gone =>
    rw [Bool.or_eq_true, not_or, Bool.not_eq_true, Bool.not_eq_true] at gone
    exact ⟨rfl, rfl, rfl, rfl, gone.1, gone.2⟩

end

end Sys2Proof.Machine

/-! PROOFS. Lanes in service (O55, third part): a millisecond of quality, lanes that qualify or lose lock, and the switch of the active
sets. -/

namespace Sys2Proof.Cert

open Sys2Proof.Machine

section

variable {s : State} {d e : Dev} {k : Fin 8}

theorem laneLqf_ne (k : Fin 8) {a : Nat} (out : a < 0x80100) : a ≠ Reg.LANE_LQF k.val := by
  unfold Reg.LANE_LQF
  omega

theorem laneLat_ne (k : Fin 8) {a : Nat} (out : a < 0x80100) : a ≠ Reg.LANE_LAT k.val := by
  unfold Reg.LANE_LAT
  omega

theorem laneRetrain_ne (k : Fin 8) {a : Nat} (out : a < 0x80100) : a ≠ Reg.LANE_RETRAIN k.val := by
  unfold Reg.LANE_RETRAIN
  omega

theorem laneLqf_high (k : Fin 8) : 0x40000 ≤ Reg.LANE_LQF k.val := by
  unfold Reg.LANE_LQF
  omega

theorem laneRetrain_high (k : Fin 8) : 0x40000 ≤ Reg.LANE_RETRAIN k.val := by
  unfold Reg.LANE_RETRAIN
  omega

/-! ### Lanes that qualify (R260, R270) -/

/-- A lane from QUALIFY in READY, with its latencies and its lowest figure. -/
def inReady (d : Dev) (k : Fin 8) : Dev :=
  ((((d.drew.modLane k fun l => { l with st := .ready, attempt := 0, low := 0, firstWindow := false }).raise Reg.SKX_PHY_EVT 0).wr
    (Reg.LANE_LAT k.val) (Config.freeWord d.freeCtr))) |> fun d =>
      d.fset (Reg.LANE_LQF k.val) 23 16 (d.fget (Reg.LANE_LQF k.val) 31 24)

theorem inReady_lanes (d : Dev) (k : Fin 8) : (inReady d k).lanes =
    (d.modLane k fun l => { l with st := .ready, attempt := 0, low := 0, firstWindow := false }).lanes := by
  unfold inReady
  dsimp only
  rw [Dev.fset_lanes, Dev.wr_lanes, Dev.raise_lanes, Dev.modLane, Dev.modLane, Dev.drew_lanes]

theorem inReady_link (d : Dev) (k : Fin 8) : (inReady d k).link = d.link := by
  unfold inReady
  dsimp only
  rw [Dev.fset_link, Dev.wr_link, Dev.raise_link, Dev.modLane, Dev.drew_link]

theorem inReady_event (d : Dev) (k : Fin 8) : Set (inReady d k) Reg.SKX_PHY_EVT 0 := by
  unfold inReady
  dsimp only
  rw [Set, Dev.rd_fset_ne _ _ _ _ (laneLqf_ne k (by decide)), Dev.rd_wr_ne _ _ (laneLat_ne k (by decide))]
  exact set_raise _ (by decide)

theorem inReady_sleep (d : Dev) (k : Fin 8) : (inReady d k).rd Reg.SKX_PHY_SLEEP = d.rd Reg.SKX_PHY_SLEEP := by
  unfold inReady
  dsimp only
  rw [Dev.rd_fset_ne _ _ _ _ (laneLqf_ne k (by decide)), Dev.rd_wr_ne _ _ (laneLat_ne k (by decide)), Dev.rd_raise_ne _ _ (by decide),
    Dev.rd_of_regs (Dev.modLane_regs ..)]
  rfl

/-- Whether a direction of a lane sleeps at either end: `o` is its first bit in SKX_PHY_SLEEP. -/
def sleeps (d : Dev) (k : Fin 8) (o peer : Nat) : Bool := (d.rd Reg.SKX_PHY_SLEEP).bit (o + k.val) || peer.testBit k.val

theorem qualifyDone_eq (st : d.lanes[k].st = .qualify) : d.qualifyDone k = (inReady d k).propose 0 (2 ^ k.val)
    (if sleeps (inReady d k) k 8 (inReady d k).link.peerTx then 2 ^ k.val else 0)
    (if sleeps (inReady d k) k 0 (inReady d k).link.peerRx then 2 ^ k.val else 0) 0 0 := by
  unfold Dev.qualifyDone sleeps inReady
  rw [if_pos st, Nat.zero_add]

/-! ### Lanes that lose lock (R255, R268) -/

/-- The loss of lock of a lane is shown, counted and reported. -/
def lossNoted (d : Dev) (k : Fin 8) : Dev := ((d.raise Reg.SKX_PHY_EVT 2).count (Reg.LANE_RETRAIN k.val) 31 16).report (laneSource k)

theorem lossNoted_lanes (d : Dev) (k : Fin 8) : (lossNoted d k).lanes = d.lanes := by
  rw [lossNoted, reported_lanes (Dev.report_reported _ _), Dev.count_lanes, Dev.raise_lanes]

theorem lossNoted_link (d : Dev) (k : Fin 8) : (lossNoted d k).link = d.link := by
  rw [lossNoted, reported_link (Dev.report_reported _ _), Dev.count_link, Dev.raise_link]

theorem lossNoted_event (d : Dev) (k : Fin 8) : Set (lossNoted d k) Reg.SKX_PHY_EVT 2 :=
  Set.report (Set.of_rd_eq (set_raise _ (by decide)) (Dev.rd_count_ne _ _ _ (laneRetrain_ne k (by decide)))) (.inr (by decide)) _

theorem lossNoted_counted (d : Dev) (k : Fin 8) : Counted d (lossNoted d k) (Reg.LANE_RETRAIN k.val) 31 16 := by
  have same : (d.raise Reg.SKX_PHY_EVT 2).rd (Reg.LANE_RETRAIN k.val) = d.rd (Reg.LANE_RETRAIN k.val) :=
    Dev.rd_raise_ne _ _ (laneRetrain_ne k (by decide)).symm
  have counts := counted_count (d := d.raise Reg.SKX_PHY_EVT 2) (Reg.LANE_RETRAIN k.val) (hi := 31) (lo := 16) (by decide) (by decide)
  rw [Counted, same] at counts
  exact Counted.of_rd_eq counts (rd_report _ _ _ (.inr (laneRetrain_high k)))

theorem lossNoted_enabled (d : Dev) (k : Fin 8) : (lossNoted d k).rd Reg.SKX_PHY_CFG = d.rd Reg.SKX_PHY_CFG := by
  rw [lossNoted, rd_report _ _ _ (.inr (by decide)), Dev.rd_count_ne _ _ _ (laneRetrain_ne k (by decide)), Dev.rd_raise_ne _ _ (by decide)]

/-- A lane that has lost lock in service. -/
def lostLane (l : Lane) (enabled : Bool) (lostAt : Option Nat) : Lane :=
  { l with st := .ei, attempt := 0, low := 0, fastExit := enabled && l.leaveTo.isNone, lostAt := lostAt }

theorem lockLost_active (st : d.lanes[k].st = .active) : ∃ enabled lostAt goal,
    d.lockLost k = ((lossNoted d k).modLane k fun l => lostLane l enabled lostAt).proposeLeave k goal := by
  unfold Dev.lockLost
  dsimp only
  rw [if_pos (.inl st), if_neg (by rw [st]; decide)]
  exact ⟨_, _, _, rfl⟩

/-- The proposals of a lane are withdrawn. -/
def withdrawn (d : Dev) (k : Fin 8) : Dev := d.modLink fun x => { x with proposals := x.proposals.filter fun p => p.lane != k }

theorem withdrawn_regs (d : Dev) (k : Fin 8) : (withdrawn d k).regs = d.regs := rfl

theorem withdrawn_lanes (d : Dev) (k : Fin 8) : (withdrawn d k).lanes = d.lanes := rfl

theorem lockLost_ready (st : d.lanes[k].st = .ready) : d.lockLost k = (withdrawn (lossNoted d k) k).laneIdle k false := by
  unfold Dev.lockLost
  dsimp only
  rw [if_pos (.inr st), if_pos st]
  rfl

/-- A lane in electrical idle that owes no fast exit. -/
def idled (l : Lane) : Lane := { l with st := .ei, attempt := 0, good := 0, other := 0, low := 0, fastExit := false }

theorem laneIdle_plain (d : Dev) (k : Fin 8) : d.laneIdle k false =
    if d.laneEn k ∧ ¬ d.lanes[k].retired then (d.modLane k idled).beginAttempt k 1 else d.modLane k idled := by
  have idles : (d.modLane k fun l => { l with st := .ei, attempt := 0, good := 0, other := 0, low := 0, fastExit := false && d.laneEn k }) =
      d.modLane k idled := rfl
  have lane : (d.modLane k idled).lanes[k] = (idled d.lanes[k]) := Dev.modLane_lane ..
  unfold Dev.laneIdle
  rw [idles]
  unfold Dev.laneStart
  dsimp only
  rw [lane]
  have starts : ((idled d.lanes[k]).st = .ei ∧ (d.modLane k idled).laneEn k ∧ ¬ (idled d.lanes[k]).retired ∧ ¬ (idled d.lanes[k]).fastExit) ↔
      (d.laneEn k ∧ ¬ d.lanes[k].retired) := by
    have enabled : (d.modLane k idled).laneEn k = d.laneEn k := rfl
    rw [enabled]
    exact ⟨fun ⟨_, en, out, _⟩ => ⟨en, out⟩, fun ⟨en, out⟩ => ⟨rfl, en, out, by simp [idled]⟩⟩
  simp only [starts]

theorem laneIdle_lane (d : Dev) (k : Fin 8) : (d.laneIdle k false).lanes[k].st =
    if d.laneEn k = true ∧ d.lanes[k].retired = false then .detect else .ei := by
  rw [laneIdle_plain]
  simp only [Bool.not_eq_true]
  split
  · simp [beginAttempt_lanes, Lane.attempting]
  · rw [Dev.modLane_lane, idled]

theorem beside_laneIdle (d : Dev) (k : Fin 8) : Beside k d (d.laneIdle k false) := by
  rw [laneIdle_plain]
  split
  · exact (beside_modLane d k _).trans ((beside_modLane _ k _).trans (Beside.of_lanes (Dev.count_lanes ..)))
  · exact beside_modLane d k _

theorem laneIdle_link (d : Dev) (k : Fin 8) : (d.laneIdle k false).link = d.link := by
  rw [laneIdle_plain]
  split
  · exact Dev.count_link ..
  · exact Dev.modLane_link ..

/-- Idling a lane changes no register but the count of its attempts. -/
theorem sameRegs_laneIdle (d : Dev) (k : Fin 8) : SameRegsBut [Reg.LANE_RETRAIN k.val] d (d.laneIdle k false) := by
  rw [laneIdle_plain]
  split
  · exact SameRegsBut.congr (sameRegs_count d 15 0 List.mem_cons_self) rfl
  · exact .of_regs rfl

theorem laneIdle_losses (d : Dev) (k : Fin 8) :
    ((d.laneIdle k false).rd (Reg.LANE_RETRAIN k.val)).get 31 16 = (d.rd (Reg.LANE_RETRAIN k.val)).get 31 16 := by
  rw [laneIdle_plain]
  split
  · have counts : ((d.modLane k idled).beginAttempt k 1).rd (Reg.LANE_RETRAIN k.val) =
        (d.count (Reg.LANE_RETRAIN k.val) 15 0).rd (Reg.LANE_RETRAIN k.val) := Dev.rd_of_regs rfl _
    rw [counts, Dev.rd_count_same, get_put_beside _ _ (by decide) (by decide) (by decide) (.inr (by decide))]
  · rfl

theorem laneService : LaneService := by
  intro s k up
  dsimp only
  refine ⟨fun st => ?_, fun other => ?_, fun st member => ?_, fun st => ?_, fun active ready => ?_⟩
  · have row : Leads s (.laneQualifyDone k) (s.dev.qualifyDone k) := leads_of_onLink (f := fun d => d.qualifyDone k) rfl up
    rw [qualifyDone_eq st] at row
    have joins := propose_join (inReady s.dev k) k (sleeps (inReady s.dev k) k 8 (inReady s.dev k).link.peerTx)
      (sleeps (inReady s.dev k) k 0 (inReady s.dev k).link.peerRx)
    refine ⟨_, row, (inReady_event s.dev k).of_regs joins.regs, ?_, ?_, fun j ne => ?_, ?_, ?_, ?_, ?_⟩
    · rw [joins.lanes, inReady_lanes, Dev.modLane_lane]
    · rw [joins.lanes, inReady_lanes, Dev.modLane_lane]
    · rw [joins.lanes, inReady_lanes]
      exact beside_modLane s.dev k _ j ne
    · rw [joins.finalTx, sleeps, inReady_sleep, inReady_link]
    · rw [joins.finalRx, sleeps, inReady_sleep, inReady_link]
    · rw [joins.txSet, inReady_link]
    · rw [joins.rxSet, inReady_link]
  · have row : Leads s (.laneQualifyDone k) (s.dev.qualifyDone k) := leads_of_onLink (f := fun d => d.qualifyDone k) rfl up
    rwa [Dev.qualifyDone, if_neg other] at row
  · have row : Leads s (.laneLockLost k) (s.dev.lockLost k) := leads_of_onLink (f := fun d => d.lockLost k) rfl up
    obtain ⟨enabled, lostAt, goal, lost⟩ := lockLost_active st
    rw [lost] at row
    have leaves := proposeLeave_serving ((lossNoted s.dev k).modLane k fun l => lostLane l enabled lostAt) k goal (by
      have same : ((lossNoted s.dev k).modLane k fun l => lostLane l enabled lostAt).link = s.dev.link := lossNoted_link s.dev k
      rw [same, member, Bool.true_or])
    have regs := leaves.regs.trans ((Dev.modLane_regs ..).trans (Dev.modLane_regs ..))
    refine ⟨_, row, (lossNoted_event s.dev k).of_regs regs, (lossNoted_counted s.dev k).of_regs regs, ?_, leaves.finalTx,
      leaves.finalRx, ?_, fun j ne => ?_⟩
    · rw [leaves.lanes, Dev.modLane_lane, Dev.modLane_lane]
      rfl
    · rw [leaves.txSet, Dev.modLane_link, Dev.modLane_link, lossNoted_link]
    · rw [leaves.lanes, beside_modLane _ k _ j ne, beside_modLane _ k _ j ne, lossNoted_lanes]
  · have row : Leads s (.laneLockLost k) (s.dev.lockLost k) := leads_of_onLink (f := fun d => d.lockLost k) rfl up
    rw [lockLost_ready st] at row
    have lanes : (withdrawn (lossNoted s.dev k) k).lanes = s.dev.lanes := (withdrawn_lanes ..).trans (lossNoted_lanes s.dev k)
    have enabled : (withdrawn (lossNoted s.dev k) k).laneEn k = (s.dev.rd Reg.SKX_PHY_CFG).bit (24 + k.val) := by
      rw [Dev.laneEn, Dev.rd_of_regs (withdrawn_regs ..), lossNoted_enabled]
    have event : Set (withdrawn (lossNoted s.dev k) k) Reg.SKX_PHY_EVT 2 := (lossNoted_event s.dev k).of_regs (withdrawn_regs ..)
    have other : Reg.SKX_PHY_EVT ∉ [Reg.LANE_RETRAIN k.val] := by
      rw [List.mem_singleton]
      exact laneRetrain_ne k (by decide)
    refine ⟨_, row, ?_, ?_, ?_, fun p mem => ?_, fun j ne => ?_⟩
    · exact event.of_rd_eq (sameRegs_laneIdle _ k _ other)
    · have counts := lossNoted_counted s.dev k
      rw [Counted] at counts ⊢
      rw [laneIdle_losses, Dev.rd_of_regs (withdrawn_regs ..), counts]
    · rw [laneIdle_lane, enabled, lanes]
    · rw [laneIdle_link] at mem
      simpa using (List.mem_filter.mp mem).2
    · rw [beside_laneIdle _ k j ne, lanes]
  · have row : Leads s (.laneLockLost k) (s.dev.lockLost k) := leads_of_onLink (f := fun d => d.lockLost k) rfl up
    rwa [Dev.lockLost, if_neg (not_or.mpr ⟨active, ready⟩)] at row

/-! ### A millisecond of quality (R257, R258) -/

/-- The quality register of a lane after a window. -/
def qualityWord (d : Dev) (k : Fin 8) (x y : Nat) : Word :=
  ((((0 : Word).put 31 24 (lqfOf x y)).put 23 16 (min (d.fget (Reg.LANE_LQF k.val) 23 16) (lqfOf x y))).put 15 8 (quarterDb x)).put 7 0
    (quarterDb y)

theorem Dev.rd_drew (d : Dev) (a : Nat) : d.drew.rd a = d.rd a := rfl

theorem lqfOf_lt (x y : Nat) : lqfOf x y < 256 := by
  unfold lqfOf
  dsimp only
  omega

theorem qualityWord_figure (d : Dev) (k : Fin 8) (x y : Nat) : (qualityWord d k x y).get 31 24 = lqfOf x y := by
  rw [qualityWord, get_put_beside _ _ (by decide) (by decide) (by decide) (.inr (by decide)),
    get_put_beside _ _ (by decide) (by decide) (by decide) (.inr (by decide)),
    get_put_beside _ _ (by decide) (by decide) (by decide) (.inr (by decide)), Word.get_put_same _ _ (by decide) (by decide),
    Nat.mod_eq_of_lt (show lqfOf x y < 2 ^ (31 + 1 - 24) from lqfOf_lt x y)]

theorem qualityWord_least (d : Dev) (k : Fin 8) (x y : Nat) :
    (qualityWord d k x y).get 23 16 = min ((d.rd (Reg.LANE_LQF k.val)).get 23 16) (lqfOf x y) := by
  rw [qualityWord, get_put_beside _ _ (by decide) (by decide) (by decide) (.inr (by decide)),
    get_put_beside _ _ (by decide) (by decide) (by decide) (.inr (by decide)), Word.get_put_same _ _ (by decide) (by decide),
    Nat.mod_eq_of_lt (show _ < 2 ^ (23 + 1 - 16) from lt_of_le_of_lt (min_le_right _ _) (lqfOf_lt x y)), Dev.fget]

/-- A window of a lane that serves: its figure is shown, and its equaliser follows. -/
def figureShown (d : Dev) (k : Fin 8) (x y : Nat) : Dev :=
  (d.wr (Reg.LANE_LQF k.val) (qualityWord d k x y)).drew.fset (Reg.LANE_EQ k.val) 31 24
    (Config.freeNat (d.wr (Reg.LANE_LQF k.val) (qualityWord d k x y)).freeCtr % 16)

/-- A figure below the warning threshold is raised. -/
def warned (d : Dev) (q : Nat) : Dev := if q < d.fget Reg.SKX_PHY_THR 15 8 then d.raise Reg.SKX_PHY_EVT 5 else d

/-- Consecutive windows of a lane below LQF_RETIRE with this one. -/
def lowWindows (d : Dev) (l : Lane) (q : Nat) : Nat := if q < d.fget Reg.SKX_PHY_THR 7 0 then l.low + 1 else 0

/-- Whether a lane of the receive set falls with this window. -/
def falls (d : Dev) (l : Lane) (q : Nat) : Bool := decide (3 ≤ lowWindows d l q) || (l.firstWindow && decide (q < d.lqfJoin))

/-- A lane after a window: a lane that falls begins to count afresh. -/
def windowed (l : Lane) (fall : Bool) (n : Nat) : Lane := { l with low := if fall then 0 else n, firstWindow := false }

theorem lqfWindow_idle (x y : Nat) (away : ¬ (d.lanes[k].st = .active ∧ d.link.rxSet.testBit k.val = true)) :
    d.lqfWindow k x y = d.wr (Reg.LANE_LQF k.val) (qualityWord d k x y) := by
  unfold Dev.lqfWindow
  dsimp only
  rw [Dev.wr_lanes, Dev.wr_link, if_neg away, qualityWord]

theorem lqfWindow_serving (x y : Nat) (serves : d.lanes[k].st = .active ∧ d.link.rxSet.testBit k.val = true) {shown : Dev}
    (seen : warned (figureShown d k x y) (lqfOf x y) = shown) : d.lqfWindow k x y =
      if falls shown d.lanes[k] (lqfOf x y) then
        ((shown.modLane k fun l => windowed l (falls shown d.lanes[k] (lqfOf x y)) (lowWindows shown d.lanes[k] (lqfOf x y))).report
          (laneSource k)).proposeLeave k (.ei, true)
      else shown.modLane k fun l => windowed l (falls shown d.lanes[k] (lqfOf x y)) (lowWindows shown d.lanes[k] (lqfOf x y)) := by
  unfold Dev.lqfWindow
  dsimp only
  rw [Dev.wr_lanes, Dev.wr_link, if_pos serves]
  unfold warned figureShown qualityWord at seen
  rw [seen]
  rfl

/-- What shows a window changes: registers of the lane, and the events. -/
theorem sameRegs_shown (d : Dev) (k : Fin 8) (x y : Nat) :
    SameRegsBut [Reg.LANE_LQF k.val, Reg.LANE_EQ k.val, Reg.SKX_PHY_EVT] d (warned (figureShown d k x y) (lqfOf x y)) := by
  have figure : SameRegsBut [Reg.LANE_LQF k.val, Reg.LANE_EQ k.val, Reg.SKX_PHY_EVT] d (figureShown d k x y) :=
    ((sameRegs_wr d _ List.mem_cons_self).congr (f := (d.wr (Reg.LANE_LQF k.val) (qualityWord d k x y)).drew) rfl).trans
      (sameRegs_fset _ _ _ _ (by simp))
  unfold warned
  split
  · exact figure.trans (sameRegs_raise _ _ (by simp))
  · exact figure

theorem shown_threshold (d : Dev) (k : Fin 8) (x y : Nat) :
    (warned (figureShown d k x y) (lqfOf x y)).rd Reg.SKX_PHY_THR = d.rd Reg.SKX_PHY_THR :=
  sameRegs_shown d k x y _ (by simpa using ⟨laneLqf_ne k (by decide), laneEq_ne k (by decide), by decide⟩)

theorem shown_figure (d : Dev) (k : Fin 8) (x y : Nat) :
    (warned (figureShown d k x y) (lqfOf x y)).rd (Reg.LANE_LQF k.val) = qualityWord d k x y := by
  have figure : (figureShown d k x y).rd (Reg.LANE_LQF k.val) = qualityWord d k x y := by
    have apart : Reg.LANE_LQF k.val ≠ Reg.LANE_EQ k.val := by
      unfold Reg.LANE_LQF Reg.LANE_EQ
      omega
    rw [figureShown, Dev.rd_fset_ne _ _ _ _ apart, Dev.rd_drew, Dev.rd_wr_same]
  unfold warned
  split
  · rw [Dev.rd_raise_ne _ _ (laneLqf_ne k (by decide)).symm, figure]
  · exact figure

theorem shown_lanes (d : Dev) (k : Fin 8) (x y : Nat) : (warned (figureShown d k x y) (lqfOf x y)).lanes = d.lanes := by
  have figure : (figureShown d k x y).lanes = d.lanes := by rw [figureShown, Dev.fset_lanes, Dev.drew_lanes, Dev.wr_lanes]
  unfold warned
  split
  · rw [Dev.raise_lanes, figure]
  · exact figure

theorem shown_link (d : Dev) (k : Fin 8) (x y : Nat) : (warned (figureShown d k x y) (lqfOf x y)).link = d.link := by
  have figure : (figureShown d k x y).link = d.link := by rw [figureShown, Dev.fset_link, Dev.drew_link, Dev.wr_link]
  unfold warned
  split
  · rw [Dev.raise_link, figure]
  · exact figure

theorem shown_warns (d : Dev) (k : Fin 8) (x y : Nat) (low : lqfOf x y < (d.rd Reg.SKX_PHY_THR).get 15 8) :
    Set (warned (figureShown d k x y) (lqfOf x y)) Reg.SKX_PHY_EVT 5 := by
  have threshold : (figureShown d k x y).rd Reg.SKX_PHY_THR = d.rd Reg.SKX_PHY_THR := by
    rw [figureShown, Dev.rd_fset_ne _ _ _ _ (laneEq_ne k (by decide)), Dev.rd_drew, Dev.rd_wr_ne _ _ (laneLqf_ne k (by decide))]
  rw [warned, Dev.fget, threshold, if_pos low]
  exact set_raise _ (by decide)

/-- A lane that falls with its window: it is reported and proposed to leave. -/
theorem falls_leaves {shown : Dev} (f : Lane → Lane) (member : shown.link.rxSet.testBit k.val = true) :
    Proposed k false false (((shown.modLane k f).report (laneSource k)).modLane k fun l => { l with leaveTo := some (.ei, true) })
      (((shown.modLane k f).report (laneSource k)).proposeLeave k (.ei, true)) := by
  refine proposeLeave_serving _ k _ ?_
  rw [reported_link (Dev.report_reported _ _)]
  exact Bool.or_eq_true _ _ ▸ .inr member

theorem laneQuality : LaneQuality := by
  intro s k x y up
  dsimp only
  have row : Leads s (.lqfWindow k x y) (s.dev.lqfWindow k x y) := leads_of_onLink (f := fun d => d.lqfWindow k x y) rfl up
  by_cases serves : s.dev.lanes[k].st = .active ∧ s.dev.link.rxSet.testBit k.val = true
  case neg =>
    rw [lqfWindow_idle x y serves] at row
    refine ⟨_, row, ?_, ?_, fun _ => ⟨onlyRegs_wr .., sameRegs_wr _ _ List.mem_cons_self⟩, fun now => absurd now serves, fun now => absurd now serves,
      fun now => absurd now serves⟩
    · rw [Dev.rd_wr_same, qualityWord_figure]
    · rw [Dev.rd_wr_same, qualityWord_least]
  case pos =>
    obtain ⟨shown, seen⟩ : ∃ shown, warned (figureShown s.dev k x y) (lqfOf x y) = shown := ⟨_, rfl⟩
    rw [lqfWindow_serving x y serves seen] at row
    have figure : shown.rd (Reg.LANE_LQF k.val) = qualityWord s.dev k x y := seen ▸ shown_figure ..
    have threshold : shown.rd Reg.SKX_PHY_THR = s.dev.rd Reg.SKX_PHY_THR := seen ▸ shown_threshold ..
    have join : shown.lqfJoin = s.dev.lqfJoin := congrArg (fun w : Word => w.get 23 16) threshold
    have lanes : shown.lanes = s.dev.lanes := seen ▸ shown_lanes ..
    have link : shown.link = s.dev.link := seen ▸ shown_link ..
    have warns := shown_warns s.dev k x y
    rw [seen] at warns
    by_cases fall : falls shown s.dev.lanes[k] (lqfOf x y) = true
    case pos =>
      have leaves := falls_leaves (shown := shown) (k := k)
        (fun l => windowed l (falls shown s.dev.lanes[k] (lqfOf x y)) (lowWindows shown s.dev.lanes[k] (lqfOf x y))) (link ▸ serves.2)
      rw [if_pos fall] at row
      have rd : ∀ a, 0x40000 ≤ a → (((shown.modLane k fun l => windowed l (falls shown s.dev.lanes[k] (lqfOf x y))
          (lowWindows shown s.dev.lanes[k] (lqfOf x y))).report (laneSource k)).proposeLeave k (.ei, true)).rd a = shown.rd a :=
        fun a high => (Dev.rd_of_regs leaves.regs a).trans (rd_report _ _ a (.inr high))
      refine ⟨_, row, ?_, ?_, fun not => absurd serves not, fun _ met held => ?_, fun _ low two => ⟨?_, leaves.finalTx, leaves.finalRx⟩,
        fun _ low => (warns low).of_rd_eq (rd _ (by decide))⟩
      · rw [rd _ (laneLqf_high k), figure, qualityWord_figure]
      · rw [rd _ (laneLqf_high k), figure, qualityWord_least]
      · rw [falls, lowWindows, Dev.fget, threshold, if_neg (by omega), join] at fall
        rcases held with first | joins
        · rw [first, Bool.false_and] at fall
          cases fall
        · rw [decide_eq_false (not_lt.mpr joins), Bool.and_false] at fall
          cases fall
      · rw [leaves.lanes, Dev.modLane_lane]
    case neg =>
      rw [if_neg fall] at row
      refine ⟨_, row, ?_, ?_, fun not => absurd serves not, fun _ met held => ⟨?_, link⟩, fun _ low two => absurd ?_ fall,
        fun _ low => (warns low).of_regs (Dev.modLane_regs ..)⟩
      · rw [Dev.rd_of_regs (Dev.modLane_regs ..), figure, qualityWord_figure]
      · rw [Dev.rd_of_regs (Dev.modLane_regs ..), figure, qualityWord_least]
      · have zero : lowWindows shown s.dev.lanes[k] (lqfOf x y) = 0 := by
          rw [lowWindows, Dev.fget, threshold]
          exact if_neg (by omega)
        rw [LaneBecomes, modLane_lanes _ lanes, windowed, zero, ite_self]
      · rw [falls, lowWindows, Dev.fget, threshold, if_pos low, decide_eq_true (by omega), Bool.true_or]

end

end Sys2Proof.Cert

/-! PROOFS. The switch of the lane sets (O55, last part): each lane takes its own turn, and holdover begins where the receive set has
been emptied. -/

namespace Sys2Proof.Cert

open Sys2Proof.Machine

section

variable {s : State} {d e f : Dev} {k : Fin 8} {a b : Nat}

/-! ### What one lane's turn leaves alone -/

/-- A lane's turn in a switch: the link, the clock and the count of switches stay, and every other lane. -/
structure Turn (k : Fin 8) (d e : Dev) : Prop where
  link : e.link = d.link
  time : e.time = d.time
  switches : e.rd Reg.SKX_PHY_SETCHG = d.rd Reg.SKX_PHY_SETCHG
  beside : Beside k d e

theorem Turn.refl (k : Fin 8) (d : Dev) : Turn k d d := ⟨rfl, rfl, rfl, fun _ _ => rfl⟩

theorem Turn.trans (h : Turn k d e) (i : Turn k e f) : Turn k d f :=
  ⟨i.link.trans h.link, i.time.trans h.time, i.switches.trans h.switches, h.beside.trans i.beside⟩

theorem turn_modLane (d : Dev) (k : Fin 8) (g : Lane → Lane) : Turn k d (d.modLane k g) := ⟨rfl, rfl, rfl, beside_modLane d k g⟩

theorem turn_fset (d : Dev) (hi lo n : Nat) (out : Reg.SKX_PHY_SETCHG ≠ a) : Turn k d (d.fset a hi lo n) :=
  ⟨Dev.fset_link .., Dev.fset_time .., Dev.rd_fset_ne _ _ _ _ out, .of_lanes (Dev.fset_lanes ..)⟩

theorem turn_count (d : Dev) (hi lo : Nat) (out : Reg.SKX_PHY_SETCHG ≠ a) : Turn k d (d.count a hi lo) :=
  ⟨Dev.count_link .., Dev.count_time .., Dev.rd_count_ne _ _ _ out, .of_lanes (Dev.count_lanes ..)⟩

theorem turn_raise (d : Dev) (b : Nat) (out : Reg.SKX_PHY_SETCHG ≠ a) : Turn k d (d.raise a b) :=
  ⟨Dev.raise_link .., Dev.raise_time .., Dev.rd_raise_ne _ _ out, .of_lanes (Dev.raise_lanes ..)⟩

theorem turn_countLost (d : Dev) (k : Fin 8) : Turn k d (d.countLost k) := by
  unfold Dev.countLost
  split
  · exact .refl k d
  · exact (turn_fset d _ _ _ (by decide)).trans (turn_modLane _ k _)

theorem turn_laneStart (d : Dev) (k : Fin 8) : Turn k d (d.laneStart k) := by
  unfold Dev.laneStart
  dsimp only
  split
  · exact (turn_modLane d k _).trans (turn_count _ _ _ (laneRetrain_ne k (by decide)))
  · exact .refl k d

theorem turn_laneIdle (d : Dev) (k : Fin 8) (fast : Bool) : Turn k d (d.laneIdle k fast) :=
  (turn_modLane d k _).trans (turn_laneStart _ k)

theorem turn_laneRetired (d : Dev) (k : Fin 8) : Turn k d (d.laneRetired k) := (turn_modLane d k _).trans (turn_raise _ _ (by decide))

theorem turn_laneLeft (d : Dev) (k : Fin 8) : Turn k d (d.laneLeft k) := by
  unfold Dev.laneLeft
  split
  · exact .refl k d
  · refine (turn_modLane d k fun l => { l with leaveTo := none }).trans ?_
    dsimp only
    split
    · exact turn_laneRetired _ k
    · exact turn_modLane _ k _
    · split
      · exact turn_laneIdle _ k _
      · exact .refl k _

/-- The turn of a lane in a switch from one pair of sets to another. -/
def laneTurn (tx0 rx0 tx1 rx1 : Nat) (d : Dev) (k : Fin 8) : Dev :=
  let i := k.val
  let was := tx0.testBit i || rx0.testBit i
  let now := tx1.testBit i || rx1.testBit i
  let d := if rx0.testBit i && !rx1.testBit i then d.countLost k else d
  let d := if now && !was && d.lanes[k].st == .ready then d.modLane k fun l => { l with st := .active } else d
  let d := if was && rx1.testBit i && !rx0.testBit i then d.modLane k fun l => { l with firstWindow := true } else d
  if was && !now then d.laneLeft k else d

theorem turn_if {c : Prop} [Decidable c] (h : Turn k d e) : Turn k d (if c then e else d) := by
  split
  · exact h
  · exact .refl k d

theorem turn_laneTurn (tx0 rx0 tx1 rx1 : Nat) (d : Dev) (k : Fin 8) : Turn k d (laneTurn tx0 rx0 tx1 rx1 d k) :=
  (((turn_if (turn_countLost d k)).trans (turn_if (turn_modLane _ k _))).trans (turn_if (turn_modLane _ k _))).trans
    (turn_if (turn_laneLeft _ k))

/-- A lane in READY outside both old sets and inside a new one is in service after its turn. -/
theorem laneTurn_joins {tx0 rx0 tx1 rx1 : Nat} (st : d.lanes[k].st = .ready) (tx : tx0.testBit k.val = false) (rx : rx0.testBit k.val = false)
    (now : (tx1.testBit k.val || rx1.testBit k.val) = true) : (laneTurn tx0 rx0 tx1 rx1 d k).lanes[k].st = .active := by
  have turn : laneTurn tx0 rx0 tx1 rx1 d k = d.modLane k fun l => { l with st := .active } := by
    simp only [laneTurn, tx, rx, now, Bool.false_and, Bool.or_self, Bool.not_false, Bool.and_true, Bool.true_and, Bool.false_eq_true, if_false]
    rw [st]
    rfl
  rw [turn, Dev.modLane_lane]

/-! ### The switch of all lanes -/

/-- Every lane takes its turn. -/
def allTurns (tx0 rx0 tx1 rx1 : Nat) (d : Dev) : Dev := (List.finRange 8).foldl (laneTurn tx0 rx0 tx1 rx1) d

theorem allTurns_keeps {β : Type} {p : Dev → β} (keeps : ∀ d e k, Turn k d e → p e = p d) (tx0 rx0 tx1 rx1 : Nat) (d : Dev) :
    p (allTurns tx0 rx0 tx1 rx1 d) = p d := foldl_keeps p (fun x k => keeps x _ k (turn_laneTurn ..)) _ d

/-- A lane is after the turns as its own turn leaves it. -/
theorem allTurns_lane (tx0 rx0 tx1 rx1 : Nat) (d : Dev) (k : Fin 8) : ∃ before : Dev, before.lanes[k] = d.lanes[k] ∧
    (allTurns tx0 rx0 tx1 rx1 d).lanes[k] = (laneTurn tx0 rx0 tx1 rx1 before k).lanes[k] := by
  have others : ∀ l : List (Fin 8), k ∉ l → ∀ x : Dev, (l.foldl (laneTurn tx0 rx0 tx1 rx1) x).lanes[k] = x.lanes[k] := fun l => by
    induction l with
    | nil => exact fun _ _ => rfl
    | cons j l ih =>
      intro out x
      rw [List.mem_cons, not_or] at out
      rw [List.foldl_cons, ih out.2]
      exact (turn_laneTurn ..).beside k out.1
  obtain ⟨pre, post, split⟩ := List.append_of_mem (List.mem_finRange k)
  have nodup := List.nodup_finRange 8
  rw [split, List.nodup_append] at nodup
  obtain ⟨-, own, apart⟩ := nodup
  refine ⟨pre.foldl (laneTurn tx0 rx0 tx1 rx1) d, others pre (fun mem => apart k mem k List.mem_cons_self rfl) d, ?_⟩
  rw [allTurns, split, List.foldl_append, List.foldl_cons, others post (List.nodup_cons.mp own).1]

/-- A change of the sets is counted, and what joins and what leaves is shown. -/
def switchShown (tx0 rx0 tx1 rx1 : Nat) (d : Dev) : Dev :=
  if tx0 = tx1 ∧ rx0 = rx1 then d
  else
    let d := d.count32 Reg.SKX_PHY_SETCHG
    let d := if (List.range 8).any fun i => (tx1.testBit i && !tx0.testBit i) || (rx1.testBit i && !rx0.testBit i) then
      d.raise Reg.SKX_PHY_EVT 4 else d
    if (List.range 8).any fun i => (tx0.testBit i && !tx1.testBit i) || (rx0.testBit i && !rx1.testBit i) then
      d.raise Reg.SKX_PHY_EVT 3 else d

theorem switchSets_eq (d : Dev) (ps : List Proposal) (rxSet : Option Nat) {tx1 rx1 : Nat} (tx : afterTx d.link.txSet ps = tx1)
    (rx : rxSet.getD (afterRx d.link.rxSet ps) = rx1) : d.switchSets ps rxSet =
      switchShown d.link.txSet d.link.rxSet tx1 rx1
        (allTurns d.link.txSet d.link.rxSet tx1 rx1 (d.modLink fun l => { l with txSet := tx1, rxSet := rx1 })) := by
  subst tx rx
  rfl

/-- `d`, with a register counted or an event raised only where `c` holds. -/
theorem Set.raise_if {c : Prop} [Decidable c] (h : Set d a b) (x y : Nat) : Set (if c then d.raise x y else d) a b := by
  split
  · exact h.raise x y
  · exact h

theorem raise_if_lanes {c : Prop} [Decidable c] (x y : Nat) : (if c then d.raise x y else d).lanes = d.lanes := by
  split
  · exact Dev.raise_lanes ..
  · rfl

theorem raise_if_link {c : Prop} [Decidable c] (x y : Nat) : (if c then d.raise x y else d).link = d.link := by
  split
  · exact Dev.raise_link ..
  · rfl

theorem raise_if_time {c : Prop} [Decidable c] (x y : Nat) : (if c then d.raise x y else d).time = d.time := by
  split
  · exact Dev.raise_time ..
  · rfl

theorem raise_if_rd {c : Prop} [Decidable c] {x : Nat} (y : Nat) (out : a ≠ x) : (if c then d.raise x y else d).rd a = d.rd a := by
  split
  · exact Dev.rd_raise_ne _ _ out
  · rfl

theorem switchShown_frame (tx0 rx0 tx1 rx1 : Nat) (d : Dev) :
    (switchShown tx0 rx0 tx1 rx1 d).lanes = d.lanes ∧ (switchShown tx0 rx0 tx1 rx1 d).link = d.link ∧
      (switchShown tx0 rx0 tx1 rx1 d).time = d.time := by
  unfold switchShown
  split
  · exact ⟨rfl, rfl, rfl⟩
  · dsimp only
    refine ⟨?_, ?_, ?_⟩
    · rw [raise_if_lanes, raise_if_lanes, Dev.count32_lanes]
    · rw [raise_if_link, raise_if_link, Dev.count32_link]
    · rw [raise_if_time, raise_if_time, Dev.count32_time]

theorem switchShown_counts {tx0 rx0 tx1 rx1 : Nat} (changed : tx1 ≠ tx0 ∨ rx1 ≠ rx0) :
    Counted d (switchShown tx0 rx0 tx1 rx1 d) Reg.SKX_PHY_SETCHG 31 0 := by
  rw [switchShown, if_neg fun same => changed.elim (· same.1.symm) (· same.2.symm)]
  exact (counted_count32 _).of_rd_eq ((raise_if_rd _ (by decide)).trans (raise_if_rd _ (by decide)))

theorem switchShown_joins {tx0 rx0 tx1 rx1 : Nat} (out : tx0.testBit k.val = false) (now : tx1.testBit k.val = true) :
    Set (switchShown tx0 rx0 tx1 rx1 d) Reg.SKX_PHY_EVT 4 := by
  rw [switchShown, if_neg fun same => by rw [same.1, now] at out; cases out]
  refine Set.raise_if ?_ _ _
  rw [if_pos (List.any_eq_true.mpr ⟨k.val, List.mem_range.mpr k.isLt, by rw [out, now]; rfl⟩)]
  exact set_raise _ (by decide)

theorem switchShown_leaves {tx0 rx0 tx1 rx1 : Nat} (member : tx0.testBit k.val = true) (gone : tx1.testBit k.val = false) :
    Set (switchShown tx0 rx0 tx1 rx1 d) Reg.SKX_PHY_EVT 3 := by
  rw [switchShown, if_neg fun same => by rw [same.1, gone] at member; cases member]
  dsimp only
  rw [if_pos (List.any_eq_true.mpr ⟨k.val, List.mem_range.mpr k.isLt, by rw [member, gone]; rfl⟩)]
  exact set_raise _ (by decide)

/-! ### Holdover by an emptied receive set (R337) -/

/-- Holdover changes the time unit and its events alone. -/
theorem enterHoldover_frame (d : Dev) : d.enterHoldover.lanes = d.lanes ∧ d.enterHoldover.link = d.link ∧
    SameRegsBut [Reg.TIME_EVT] d d.enterHoldover := by
  have unlocked : ∀ x : Dev, x.unlock.lanes = x.lanes ∧ x.unlock.link = x.link ∧ SameRegsBut [Reg.TIME_EVT] x x.unlock := fun x => by
    rw [unlock_eq]
    split
    · rw [Dev.raise_lanes, Dev.raise_link]
      exact ⟨rfl, rfl, SameRegsBut.trans (.of_regs rfl) (sameRegs_raise _ _ List.mem_cons_self)⟩
    · exact ⟨rfl, rfl, .of_regs rfl⟩
  unfold Dev.enterHoldover
  split
  · exact ⟨rfl, rfl, fun _ _ => rfl⟩
  · have now : (inHoldover d).lanes = d.lanes ∧ (inHoldover d).link = d.link ∧ SameRegsBut [Reg.TIME_EVT] d (inHoldover d) := by
      unfold inHoldover
      rw [(unlocked _).1, (unlocked _).2.1, Dev.raise_lanes, Dev.raise_link]
      refine ⟨rfl, rfl, fun a out => ?_⟩
      rw [(unlocked _).2.2 a out]
      exact Dev.rd_raise_ne _ _ (by simpa using out)
    dsimp only
    split
    · exact now
    · exact now

theorem receiveEmptied_frame (d : Dev) (was : Nat) : (d.receiveEmptied was).lanes = d.lanes ∧ (d.receiveEmptied was).link = d.link ∧
    SameRegsBut [Reg.TIME_EVT] d (d.receiveEmptied was) := by
  unfold Dev.receiveEmptied
  split
  · exact enterHoldover_frame d
  · exact ⟨rfl, rfl, fun _ _ => rfl⟩

theorem receiveEmptied_holds {was : Nat} (served : was ≠ 0) (empty : d.link.rxSet = 0) (master : d.time.master.isSome = true)
    (active : d.time.holdover = false) : (d.receiveEmptied was).time.holdover = true ∧ Set (d.receiveEmptied was) Reg.TIME_EVT 2 := by
  have holds : Set (inHoldover d) Reg.TIME_EVT 2 := Set.unlock (set_raise _ (by decide))
  have time : (inHoldover d).time.holdover = true := congrArg TimeUnit.holdover (inHoldover_time d)
  rw [Dev.receiveEmptied, if_pos ⟨served, empty⟩, enterHoldover_eq master active]
  split
  · exact ⟨time, holds.of_regs rfl⟩
  · exact ⟨time, holds⟩

/-! ### Superframe S (R265) -/

/-- The link as superframe S begins. -/
def linkNow (d : Dev) : Dev := d.modLink fun l => { l with switching := [], notice := none }

theorem laneSetSwitch_eq (waits : d.link.switching ≠ []) :
    d.laneSetSwitch = (linkNow d).switchSets d.link.switching (d.link.notice.map Prod.snd) :=
  if_neg (by simpa using waits)

theorem laneSets : LaneSets := by
  intro s up
  have row : Leads s .laneSetSwitch (s.dev.laneSetSwitch.receiveEmptied s.dev.link.rxSet) :=
    leads_of_onLink (f := fun d => d.laneSetSwitch.receiveEmptied d.link.rxSet) rfl up
  refine ⟨fun none => ?_, fun waits => ?_⟩
  · rw [Dev.laneSetSwitch, if_pos (by rw [none]; rfl), Dev.receiveEmptied, if_neg fun h => h.1 h.2] at row
    exact row
  · dsimp only
    rw [laneSetSwitch_eq waits, switchSets_eq _ _ _ rfl rfl] at row
    refine ⟨_, row, ?_⟩
    have txSet : (linkNow s.dev).link.txSet = s.dev.link.txSet := rfl
    have rxSet : (linkNow s.dev).link.rxSet = s.dev.link.rxSet := rfl
    rw [txSet, rxSet]
    generalize afterTx s.dev.link.txSet s.dev.link.switching = tx
    generalize (s.dev.link.notice.map Prod.snd).getD (afterRx s.dev.link.rxSet s.dev.link.switching) = rx
    obtain ⟨lanes, link, regs⟩ := receiveEmptied_frame (switchShown s.dev.link.txSet s.dev.link.rxSet tx rx
      (allTurns s.dev.link.txSet s.dev.link.rxSet tx rx ((linkNow s.dev).modLink fun l => { l with txSet := tx, rxSet := rx })))
      s.dev.link.rxSet
    obtain ⟨shownLanes, shownLink, shownTime⟩ := switchShown_frame s.dev.link.txSet s.dev.link.rxSet tx rx
      (allTurns s.dev.link.txSet s.dev.link.rxSet tx rx ((linkNow s.dev).modLink fun l => { l with txSet := tx, rxSet := rx }))
    have turnsLink : (allTurns s.dev.link.txSet s.dev.link.rxSet tx rx ((linkNow s.dev).modLink fun l => { l with txSet := tx, rxSet := rx })).link =
        { s.dev.link with txSet := tx, rxSet := rx, switching := [], notice := none } :=
      allTurns_keeps (p := Dev.link) (fun _ _ _ h => h.link) ..
    have turnsTime : (allTurns s.dev.link.txSet s.dev.link.rxSet tx rx ((linkNow s.dev).modLink fun l => { l with txSet := tx, rxSet := rx })).time =
        s.dev.time := allTurns_keeps (p := Dev.time) (fun _ _ _ h => h.time) ..
    have turnsCount : (allTurns s.dev.link.txSet s.dev.link.rxSet tx rx ((linkNow s.dev).modLink fun l => { l with txSet := tx, rxSet := rx })).rd
        Reg.SKX_PHY_SETCHG = s.dev.rd Reg.SKX_PHY_SETCHG :=
      allTurns_keeps (p := fun d => d.rd Reg.SKX_PHY_SETCHG) (fun _ _ _ h => h.switches) ..
    refine ⟨link.trans (shownLink.trans turnsLink), fun k st outTx outRx now => ?_, fun changed => ?_, fun ⟨k, out, now⟩ => ?_,
      fun ⟨k, member, gone⟩ => ?_, fun served empty master active => ?_⟩
    · obtain ⟨before, same, after⟩ := allTurns_lane s.dev.link.txSet s.dev.link.rxSet tx rx
        ((linkNow s.dev).modLink fun l => { l with txSet := tx, rxSet := rx }) k
      rw [lanes, shownLanes, after]
      exact laneTurn_joins ((congrArg Lane.st same).trans st) outTx outRx now
    · have counts := (switchShown_counts (d := allTurns s.dev.link.txSet s.dev.link.rxSet tx rx
        ((linkNow s.dev).modLink fun l => { l with txSet := tx, rxSet := rx })) changed).of_rd_eq (regs _ (by decide))
      rwa [Counted, turnsCount] at counts
    · exact (switchShown_joins out now).of_rd_eq (regs _ (by decide))
    · exact (switchShown_leaves member gone).of_rd_eq (regs _ (by decide))
    · refine receiveEmptied_holds served ?_ ?_ ?_
      · rw [shownLink, turnsLink]
        exact empty
      · rw [shownTime, turnsTime, master]
      · rw [shownTime, turnsTime, active]

/-- Settles O55: training frames, codewords, attempts, quality, service and the switch of the sets, each from the equation of its row. -/
theorem lanes : Obligations.Lanes := ⟨laneTraining, laneCodewords, laneAttempts, laneQuality, laneService, laneSets⟩

end

end Sys2Proof.Cert

/-! PROOFS. The words of a solve (O52, first part): which places of the Ashlar store a group writes, and with what. -/

namespace Sys2Proof.Machine

section

variable {d : Dev} {m : Mem} {g : SolveGroup} {skip : List Nat} {ws : List (Nat × Word)} {x : Nat} {v : Word}

/-- A fold whose every step keeps a part keeps it. -/
theorem foldl_keeps_of {α β σ : Type} {f : σ → α → σ} (p : σ → β) {l : List α} (keeps : ∀ x, ∀ a ∈ l, p (f x a) = p x) (x : σ) :
    p (l.foldl f x) = p x := by
  induction l generalizing x with
  | nil => rfl
  | cons a l ih =>
    rw [List.foldl_cons, ih fun x b mem => keeps x b (List.mem_cons_of_mem _ mem), keeps x a List.mem_cons_self]

/-! ### Words written but for those that were brought -/

/-- Memory after a list of words, but for the addresses in `skip`. -/
def writeBut (skip : List Nat) (m : Mem) (ws : List (Nat × Word)) : Mem :=
  ws.foldl (fun m y => if skip.contains y.1 then m else Mem.setWord m y.1 y.2) m

theorem solverPuts_mem (ws : List (Nat × Word)) (y : Dev × Mem) :
    (ws.foldl (fun x y => solverPut x y.1 y.2) y).2 = writeBut y.1.beam.brought y.2 ws := by
  induction ws generalizing y with
  | nil => rfl
  | cons z ws ih =>
    rw [List.foldl_cons, ih, writeBut, writeBut, List.foldl_cons]
    rcases solverPut_spec y z.1 z.2 with ⟨brought, same⟩ | ⟨new, e, w, put⟩
    · rw [same, if_pos brought]
    · rw [put, if_neg (by rw [new]; decide)]

theorem writeBut_get {b : Nat} (out : ∀ y ∈ ws, b < y.1 ∨ y.1 + 4 ≤ b) (m : Mem) : Mem.get (writeBut skip m ws) b = Mem.get m b := by
  refine foldl_keeps_of (fun m => Mem.get m b) (fun m y mem => ?_) m
  split
  · rfl
  · exact Mem.get_setWord_out _ _ _ (out y mem)

/-- A word that no entry outside `skip` touches stays. -/
theorem writeBut_other (out : ∀ y ∈ ws, skip.contains y.1 = false → x + 4 ≤ y.1 ∨ y.1 + 4 ≤ x) (m : Mem) :
    Mem.word (writeBut skip m ws) x = Mem.word m x := by
  refine foldl_keeps_of (fun m => Mem.word m x) (fun m y mem => ?_) m
  split
  case isTrue => rfl
  case isFalse new => exact Mem.word_setWord_ne _ _ _ (out y mem (Bool.eq_false_iff.mpr new))

/-- Where all entries for a word agree, and there is one, the word is what they say. -/
theorem writeBut_agreed (new : skip.contains x = false) (apart : ∀ y ∈ ws, y.1 = x ∨ x + 4 ≤ y.1 ∨ y.1 + 4 ≤ x)
    (agree : ∀ y ∈ ws, y.1 = x → y.2 = v) (m : Mem) (one : Mem.word m x = v ∨ ∃ y ∈ ws, y.1 = x) :
    Mem.word (writeBut skip m ws) x = v := by
  induction ws generalizing m with
  | nil => exact one.resolve_right (by simp)
  | cons y ws ih =>
    rw [List.forall_mem_cons] at apart agree
    refine ih apart.2 agree.2 _ ?_
    dsimp only
    by_cases own : y.1 = x
    · rw [own, if_neg (by rw [new]; decide), agree.1 own]
      exact .inl (Mem.word_setWord_same ..)
    · rcases one with now | ⟨z, mem, is⟩
      · left
        split
        · exact now
        · rw [Mem.word_setWord_ne _ _ _ (apart.1.resolve_left own), now]
      · rcases List.mem_cons.mp mem with rfl | more
        · exact absurd is own
        · exact .inr ⟨z, more, is⟩

/-! ### Places of the store -/

/-- The inactive bank of a direction. -/
def Dev.inactive (d : Dev) (ul : Bool) : Bool := !(if ul then d.beam.ulBank else d.beam.dlBank)

theorem ashlarAddr_aligned (bank ul : Bool) (slot l a : Nat) : ashlarAddr bank ul slot l a % 4 = 0 := by
  unfold ashlarAddr
  omega

/-- In banks that the direction decides, two places of one slot are the same only where all their parts are. -/
theorem ashlarAddr_inj {bank : Bool → Bool} {ul ul' : Bool} {slot l l' a a' : Nat} (l32 : l < 32) (l32' : l' < 32)
    (a64 : a < 64) (a64' : a' < 64) (same : ashlarAddr (bank ul) ul slot l a = ashlarAddr (bank ul') ul' slot l' a') :
    ul = ul' ∧ l = l' ∧ a = a' := by
  unfold ashlarAddr at same
  have bit : ∀ b, b2n b ≤ 1 := fun b => by cases b <;> decide
  have parts : b2n ul = b2n ul' ∧ l = l' ∧ a = a' := by
    have up := bit ul
    have up' := bit ul'
    omega
  refine ⟨?_, parts.2⟩
  have dir := parts.1
  revert dir
  cases ul <;> cases ul' <;> decide

theorem layersOn_lt {c l : Nat} (mem : (c, l) ∈ d.layersOn) : l < 32 := by
  obtain ⟨c', -, mem⟩ := List.mem_flatMap.mp mem
  split at mem
  · obtain ⟨l', mem, same⟩ := List.mem_map.mp mem
    have is : l' = l := congrArg Prod.snd same
    exact is ▸ List.mem_range.mp (List.mem_filter.mp mem).1
  · simp at mem

theorem layersOn_nodup (d : Dev) : d.layersOn.Nodup := by
  refine List.nodup_flatMap.mpr ⟨fun c _ => ?_, ?_⟩
  · split
    · exact (List.nodup_range.filter _).map fun a b same => congrArg Prod.snd same
    · exact List.nodup_nil
  · refine List.nodup_range.imp fun {c c'} ne x mem mem' => ne ?_
    have first : ∀ {c : Nat}, x ∈ (if d.carOn c then ((List.range 32).filter fun l => (d.inf (Reg.BEAM_CAR_LDL c)).bit l ||
        (d.inf (Reg.BEAM_CAR_LUL c)).bit l).map fun l => (c, l) else []) → x.1 = c := fun {c} mem => by
      split at mem
      · obtain ⟨l, -, same⟩ := List.mem_map.mp mem
        exact (congrArg Prod.fst same).symm
      · simp at mem
    rw [← first mem, ← first mem']

theorem mem_solveLayers {c l : Nat} : l ∈ d.solveLayers c ↔ (c, l) ∈ d.layersOn ∧ (c, l) ∉ d.beam.excluded := by
  unfold Dev.solveLayers
  simp only [List.mem_map, List.mem_filter, Bool.and_eq_true, beq_iff_eq, Bool.not_eq_true', List.contains_eq_mem, decide_eq_false_iff_not]
  constructor
  · rintro ⟨⟨c', l'⟩, ⟨mem, rfl, new⟩, rfl⟩
    exact ⟨mem, new⟩
  · rintro ⟨mem, new⟩
    exact ⟨(c, l), ⟨mem, rfl, new⟩, rfl⟩

theorem solveLayers_nodup (d : Dev) (c : Nat) : (d.solveLayers c).Nodup := by
  refine List.Nodup.map_on (fun x mem y mem' same => ?_) ((layersOn_nodup d).filter _)
  have own := (List.mem_filter.mp mem).2
  have own' := (List.mem_filter.mp mem').2
  rw [Bool.and_eq_true, beq_iff_eq] at own own'
  exact Prod.ext (own.1.trans own'.1.symm) same

theorem mem_solveAnts {a : Nat} : a ∈ d.solveAnts ↔ a < 64 ∧ d.beam.dropped.testBit a = false := by
  simp [Dev.solveAnts]

/-- A solution names each antenna of the cycle once. -/
theorem solveC_ants {hs : List (Nat × List Cfp × List Cfp)} (solved : d.solveC g = some hs) : hs.map Prod.fst = d.solveAnts := by
  unfold Dev.solveC at solved
  obtain ⟨f, -, is⟩ := Option.map_eq_some_iff.mp solved
  rw [← is, List.map_map, List.map_map]
  exact List.map_id _

/-! ### What a group writes -/

/-- The directions of the solver. -/
def Dev.owned (d : Dev) : List Bool := [false, true].filter fun ul => (d.inf Reg.BEAM_CFG).bit (if ul then 0 else 1)

/-- What a group is solved to; a group of no layer needs no factorisation. -/
def Dev.solution (d : Dev) (g : SolveGroup) : Option (List (Nat × List Cfp × List Cfp)) :=
  if (d.solveLayers g.car).isEmpty then some [] else d.solveC g

/-- The words of a group, in the order in which they are written. -/
def groupWrites (d : Dev) (m : Mem) (g : SolveGroup) : List (Nat × Word) :=
  (d.owned.map fun ul => d.groupWords m g (d.solution g) ul).flatMap Prod.fst ++ d.owned.flatMap fun ul => (d.zeroWords g ul).map fun a => (a, 0)

theorem solveGroup_mem (d : Dev) (m : Mem) (g : SolveGroup) : (solveGroup d m g).2 = writeBut d.beam.brought m (groupWrites d m g) :=
  solverPuts_mem _ (d, m)

/-- A word that a group writes: a solved word, a word of the active bank where the factorisation fails, or zero. -/
inductive Writes (d : Dev) (m : Mem) (g : SolveGroup) (ul : Bool) (y : Nat × Word) : Prop
  | solved (hs : List (Nat × List Cfp × List Cfp)) (l i : Nat) (h : Nat × List Cfp × List Cfp) (is : d.solution g = some hs)
      (layer : (l, i) ∈ (d.solveLayers g.car).zipIdx) (ant : h ∈ hs)
      (word : y = (ashlarAddr (d.inactive ul) ul g.slot l h.1, (d.solvedWord hs ul l i h.2.2).1))
  | kept (l a : Nat) (fails : d.solution g = none) (l32 : l < 32) (a64 : a < 64)
      (word : y = (ashlarAddr (d.inactive ul) ul g.slot l a, d.weight m (ashlarAddr (if ul then d.beam.ulBank else d.beam.dlBank) ul g.slot l a)))
  | zero (l a : Nat) (layer : (g.car, l) ∈ d.layersOn) (a64 : a < 64) (left : d.beam.dropped.testBit a = true ∨ (g.car, l) ∈ d.beam.excluded)
      (word : y = (ashlarAddr (d.inactive ul) ul g.slot l a, 0))

theorem mem_owned {ul : Bool} : ul ∈ d.owned ↔ (d.inf Reg.BEAM_CFG).bit (if ul then 0 else 1) = true := by
  unfold Dev.owned
  rw [List.mem_filter]
  cases ul <;> simp

theorem mem_zeroWords {ul : Bool} : x ∈ d.zeroWords g ul ↔ ∃ l a, (g.car, l) ∈ d.layersOn ∧ a < 64 ∧
    (d.beam.dropped.testBit a = true ∨ (g.car, l) ∈ d.beam.excluded) ∧ x = ashlarAddr (d.inactive ul) ul g.slot l a := by
  unfold Dev.zeroWords
  simp only [List.mem_flatMap, List.mem_map, List.mem_filter, List.mem_range, beq_iff_eq, Bool.or_eq_true, List.contains_eq_mem,
    decide_eq_true_eq]
  constructor
  · rintro ⟨⟨c, l⟩, ⟨mem, rfl⟩, a, ⟨a64, left⟩, rfl⟩
    exact ⟨l, a, mem, a64, left, rfl⟩
  · rintro ⟨l, a, mem, a64, left, rfl⟩
    exact ⟨(g.car, l), ⟨mem, rfl⟩, a, ⟨a64, left⟩, rfl⟩

theorem groupWords_failed (fails : d.solution g = none) (ul : Bool) : (d.groupWords m g (d.solution g) ul).1 =
    (List.range 32).flatMap fun l => (List.range 64).map fun a => (ashlarAddr (d.inactive ul) ul g.slot l a,
      d.weight m (ashlarAddr (if ul then d.beam.ulBank else d.beam.dlBank) ul g.slot l a)) := by
  rw [fails]
  rfl

theorem groupWords_solved {hs : List (Nat × List Cfp × List Cfp)} (is : d.solution g = some hs) (ul : Bool) :
    (d.groupWords m g (d.solution g) ul).1 = (d.solveLayers g.car).zipIdx.flatMap fun x => hs.map fun h =>
      (ashlarAddr (d.inactive ul) ul g.slot x.1 h.1, (d.solvedWord hs ul x.1 x.2 h.2.2).1) := by
  rw [is]
  unfold Dev.groupWords
  dsimp only
  rw [List.map_flatMap]
  simp only [List.map_map]
  rfl

theorem mem_groupWrites {y : Nat × Word} : y ∈ groupWrites d m g ↔ ∃ ul ∈ d.owned, Writes d m g ul y := by
  unfold groupWrites
  rw [List.mem_append, List.mem_flatMap, List.mem_flatMap]
  constructor
  · rintro (⟨_, mem, word⟩ | ⟨ul, own, mem⟩)
    · obtain ⟨ul, own, rfl⟩ := List.mem_map.mp mem
      refine ⟨ul, own, ?_⟩
      cases is : d.solution g with
      | none =>
        rw [groupWords_failed is] at word
        obtain ⟨l, l32, mem⟩ := List.mem_flatMap.mp word
        obtain ⟨a, a64, rfl⟩ := List.mem_map.mp mem
        exact .kept l a is (List.mem_range.mp l32) (List.mem_range.mp a64) rfl
      | some hs =>
        rw [groupWords_solved is] at word
        obtain ⟨⟨l, i⟩, layer, mem⟩ := List.mem_flatMap.mp word
        obtain ⟨h, ant, rfl⟩ := List.mem_map.mp mem
        exact .solved hs l i h is layer ant rfl
    · obtain ⟨z, place, rfl⟩ := List.mem_map.mp mem
      obtain ⟨l, a, layer, a64, left, rfl⟩ := mem_zeroWords.mp place
      exact ⟨ul, own, .zero l a layer a64 left rfl⟩
  · rintro ⟨ul, own, word⟩
    cases word with
    | solved hs l i h is layer ant word =>
      refine .inl ⟨_, List.mem_map_of_mem own, ?_⟩
      rw [groupWords_solved is]
      exact List.mem_flatMap.mpr ⟨(l, i), layer, List.mem_map.mpr ⟨h, ant, word.symm⟩⟩
    | kept l a fails l32 a64 word =>
      refine .inl ⟨_, List.mem_map_of_mem own, ?_⟩
      rw [groupWords_failed fails]
      exact List.mem_flatMap.mpr ⟨l, List.mem_range.mpr l32, List.mem_map.mpr ⟨a, List.mem_range.mpr a64, word.symm⟩⟩
    | zero l a layer a64 left word =>
      exact .inr ⟨ul, own, List.mem_map.mpr ⟨_, mem_zeroWords.mpr ⟨l, a, layer, a64, left, rfl⟩, word.symm⟩⟩

/-- The antennas of a group's solution are those of the cycle. -/
theorem solution_ant {hs : List (Nat × List Cfp × List Cfp)} {l : Nat} {h : Nat × List Cfp × List Cfp} (is : d.solution g = some hs)
    (layer : l ∈ d.solveLayers g.car) (ant : h ∈ hs) : h.1 ∈ d.solveAnts := by
  unfold Dev.solution at is
  split at is
  case isTrue none => exact absurd layer (by rw [List.isEmpty_iff.mp none]; exact List.not_mem_nil)
  case isFalse => exact solveC_ants is ▸ List.mem_map_of_mem ant

theorem mem_of_zipIdx {α : Type} {xs : List α} {x : α} {i : Nat} (mem : (x, i) ∈ xs.zipIdx) : x ∈ xs :=
  (List.mem_zipIdx' mem).2 ▸ List.getElem_mem _

/-- Every word that a group writes has its place in its direction's inactive bank. -/
theorem Writes.place {ul : Bool} {y : Nat × Word} (w : Writes d m g ul y) : ∃ l a, l < 32 ∧ a < 64 ∧ y.1 = ashlarAddr (d.inactive ul) ul g.slot l a := by
  cases w with
  | solved hs l i h is layer ant word =>
    have mem := mem_of_zipIdx layer
    exact ⟨l, h.1, layersOn_lt (mem_solveLayers.mp mem).1, (mem_solveAnts.mp (solution_ant is mem ant)).1, congrArg Prod.fst word⟩
  | kept l a fails l32 a64 word => exact ⟨l, a, l32, a64, congrArg Prod.fst word⟩
  | zero l a layer a64 left word => exact ⟨l, a, layersOn_lt layer, a64, congrArg Prod.fst word⟩

end

end Sys2Proof.Machine

/-! PROOFS. The weight solver (O52, second part): what a group writes, and when a cycle begins and ends. -/

namespace Sys2Proof.Machine

section

variable {d : Dev} {m : Mem} {g : SolveGroup} {ul : Bool} {l a : Nat} {v : Word}

/-! ### The word of one place -/

/-- An entry for a place is of its direction, its layer and its antenna. -/
theorem writes_apart {y : Nat × Word} (mem : y ∈ groupWrites d m g) :
    y.1 = ashlarAddr (d.inactive ul) ul g.slot l a ∨ ashlarAddr (d.inactive ul) ul g.slot l a + 4 ≤ y.1 ∨
      y.1 + 4 ≤ ashlarAddr (d.inactive ul) ul g.slot l a := by
  obtain ⟨ul', -, word⟩ := mem_groupWrites.mp mem
  obtain ⟨l', a', -, -, place⟩ := word.place
  have aligned := ashlarAddr_aligned (d.inactive ul) ul g.slot l a
  have aligned' := ashlarAddr_aligned (d.inactive ul') ul' g.slot l' a'
  rw [← place] at aligned'
  omega

/-- What an entry of a place says, by what it is. -/
theorem writes_of_place {y : Nat × Word} (l32 : l < 32) (a64 : a < 64) (mem : y ∈ groupWrites d m g)
    (at_ : y.1 = ashlarAddr (d.inactive ul) ul g.slot l a) :
    (∃ hs i h, d.solution g = some hs ∧ (l, i) ∈ (d.solveLayers g.car).zipIdx ∧ h ∈ hs ∧ h.1 = a ∧ y.2 = (d.solvedWord hs ul l i h.2.2).1) ∨
    (d.solution g = none ∧ y.2 = d.weight m (ashlarAddr (if ul then d.beam.ulBank else d.beam.dlBank) ul g.slot l a)) ∨
    ((g.car, l) ∈ d.layersOn ∧ (d.beam.dropped.testBit a = true ∨ (g.car, l) ∈ d.beam.excluded) ∧ y.2 = 0) := by
  obtain ⟨ul', -, word⟩ := mem_groupWrites.mp mem
  cases word with
  | solved hs l₁ i h is layer ant word =>
    have mem := mem_of_zipIdx layer
    have l32₁ : l₁ < 32 := layersOn_lt (mem_solveLayers.mp mem).1
    have h64 : h.1 < 64 := (mem_solveAnts.mp (solution_ant is mem ant)).1
    have first : y.1 = ashlarAddr (d.inactive ul') ul' g.slot l₁ h.1 := congrArg Prod.fst word
    obtain ⟨rfl, rfl, own⟩ := ashlarAddr_inj (bank := d.inactive) l32₁ l32 h64 a64 (first.symm.trans at_)
    exact .inl ⟨hs, i, h, is, layer, ant, own, congrArg Prod.snd word⟩
  | kept l₁ a₁ fails l32₁ a64₁ word =>
    obtain ⟨rfl, rfl, rfl⟩ := ashlarAddr_inj (bank := d.inactive) l32₁ l32 a64₁ a64 ((congrArg Prod.fst word).symm.trans at_)
    exact .inr (.inl ⟨fails, congrArg Prod.snd word⟩)
  | zero l₁ a₁ layer a64₁ left word =>
    obtain ⟨rfl, rfl, rfl⟩ := ashlarAddr_inj (bank := d.inactive) (layersOn_lt layer) l32 a64₁ a64 ((congrArg Prod.fst word).symm.trans at_)
    exact .inr (.inr ⟨layer, left, congrArg Prod.snd word⟩)

/-- A place on whose entries all agree, and that has one, takes what they say. -/
theorem solveGroup_word (new : ashlarAddr (d.inactive ul) ul g.slot l a ∉ d.beam.brought)
    (agree : ∀ y ∈ groupWrites d m g, y.1 = ashlarAddr (d.inactive ul) ul g.slot l a → y.2 = v)
    (one : ∃ y ∈ groupWrites d m g, y.1 = ashlarAddr (d.inactive ul) ul g.slot l a) :
    Mem.word (solveGroup d m g).2 (ashlarAddr (d.inactive ul) ul g.slot l a) = v := by
  rw [solveGroup_mem]
  exact writeBut_agreed (by simpa using new) (fun y mem => writes_apart mem) agree m (.inr one)

/-- A place that the cycle leaves out ends with zero: the zero words come last. -/
theorem solveGroup_zero (a64 : a < 64) (new : ashlarAddr (d.inactive ul) ul g.slot l a ∉ d.beam.brought) (own : ul ∈ d.owned)
    (layer : (g.car, l) ∈ d.layersOn) (left : d.beam.dropped.testBit a = true ∨ (g.car, l) ∈ d.beam.excluded) :
    Mem.word (solveGroup d m g).2 (ashlarAddr (d.inactive ul) ul g.slot l a) = 0 := by
  rw [solveGroup_mem, groupWrites, writeBut, List.foldl_append]
  refine writeBut_agreed (by simpa using new) (fun y mem => writes_apart (m := m) ?_) (fun y mem _ => ?_) _ (.inr ⟨(_, 0), ?_, rfl⟩)
  · rw [groupWrites, List.mem_append]
    exact .inr mem
  · obtain ⟨_, -, mem⟩ := List.mem_flatMap.mp mem
    obtain ⟨_, -, rfl⟩ := List.mem_map.mp mem
    rfl
  · exact List.mem_flatMap.mpr ⟨ul, own, List.mem_map_of_mem (mem_zeroWords.mpr ⟨l, a, layer, a64, left, rfl⟩)⟩

/-- A word that was brought stays. -/
theorem solveGroup_brought {x : Nat} (aligned : x % 4 = 0) (brought : x ∈ d.beam.brought) :
    Mem.word (solveGroup d m g).2 x = Mem.word m x := by
  rw [solveGroup_mem]
  refine writeBut_other (fun y mem new => ?_) m
  obtain ⟨ul', -, word⟩ := mem_groupWrites.mp mem
  obtain ⟨l', a', -, -, place⟩ := word.place
  have aligned' := ashlarAddr_aligned (d.inactive ul') ul' g.slot l' a'
  rw [← place] at aligned'
  have ne : y.1 ≠ x := fun same => by
    rw [same, List.contains_eq_mem, decide_eq_true brought] at new
    cases new
  omega

/-- Two entries of a list without repetition that name the same stand in the same place. -/
theorem zipIdx_index {α : Type} {xs : List α} {x : α} {i j : Nat} (nodup : xs.Nodup) (hi : (x, i) ∈ xs.zipIdx) (hj : (x, j) ∈ xs.zipIdx) :
    i = j := by
  obtain ⟨lt, is⟩ := List.mem_zipIdx' hi
  obtain ⟨lt', is'⟩ := List.mem_zipIdx' hj
  exact (nodup.getElem_inj_iff (hi := lt) (hj := lt')).mp (is.symm.trans is')

/-- Registers that a solved group counts and raises. -/
def solveRegs : List Nat := [Reg.BEAM_SAT, Reg.BEAM_SOLVER_ILL, Reg.BEAM_EVT]

/-- The parts of a group's words that saturate. -/
def saturated (d : Dev) (m : Mem) (g : SolveGroup) : Nat := ((d.owned.map fun ul => d.groupWords m g (d.solution g) ul).map Prod.snd).sum

/-- A group's words written, their saturations counted. -/
def groupWritten (d : Dev) (m : Mem) (g : SolveGroup) : Dev :=
  ((groupWrites d m g).foldl (fun x y => solverPut x y.1 y.2) (d, m)).1.countBy Reg.BEAM_SAT 31 16 (saturated d m g)

theorem solveGroup_dev (d : Dev) (m : Mem) (g : SolveGroup) : (solveGroup d m g).1 =
    if (d.solution g).isNone then ((groupWritten d m g).count32 Reg.BEAM_SOLVER_ILL).raise Reg.BEAM_EVT 1 else groupWritten d m g := by
  unfold solveGroup groupWritten saturated groupWrites Dev.solution Dev.owned
  dsimp only

end

end Sys2Proof.Machine

namespace Sys2Proof.Cert

open Sys2Proof.Machine

section

variable {s : State} {d e : Dev} {m : Mem} {g : SolveGroup} {b n : Nat}

theorem sameRegs_countBy {as : List Nat} (d : Dev) {a : Nat} (hi lo n : Nat) (mem : a ∈ as) : SameRegsBut as d (d.countBy a hi lo n) :=
  sameRegs_wr d _ mem

theorem sameRegs_groupWritten (d : Dev) (m : Mem) (g : SolveGroup) : SameRegsBut [Reg.BEAM_SAT] d (groupWritten d m g) := by
  obtain ⟨ecc, written, put⟩ := solverPuts_frame (groupWrites d m g) (d, m)
  refine SameRegsBut.trans (.of_regs ?_) (sameRegs_countBy _ 31 16 _ List.mem_cons_self)
  rw [put]

theorem sameRegs_solveGroup (d : Dev) (m : Mem) (g : SolveGroup) : SameRegsBut solveRegs d (solveGroup d m g).1 := by
  have written : SameRegsBut solveRegs d (groupWritten d m g) := (sameRegs_groupWritten d m g).mono (by simp [solveRegs])
  rw [solveGroup_dev]
  split
  · exact (written.trans (sameRegs_count32 _ (by simp [solveRegs]))).trans (sameRegs_raise _ _ (by simp [solveRegs]))
  · exact written

/-- A group whose factorisation fails is counted and raised as ill-conditioned (R144). -/
theorem solveGroup_ill (fails : d.solution g = none) : Counted d (solveGroup d m g).1 Reg.BEAM_SOLVER_ILL 31 0 ∧
    Set (solveGroup d m g).1 Reg.BEAM_EVT 1 := by
  rw [solveGroup_dev, fails, Option.isNone_none, if_pos rfl]
  have counts : Counted d ((groupWritten d m g).count32 Reg.BEAM_SOLVER_ILL) Reg.BEAM_SOLVER_ILL 31 0 :=
    counted_from (counted_count32 _) (sameRegs_groupWritten d m g _ (by decide))
  exact ⟨counts.of_rd_eq (Dev.rd_raise_ne _ _ (by decide)), set_raise _ (by decide)⟩

theorem solverWritesGroups : SolverWritesGroups := by
  intro d m g ul l a own l32 a64 _
  dsimp only
  have owned : ul ∈ d.owned := mem_owned.mpr own
  have bank : (!(if ul then d.beam.ulBank else d.beam.dlBank)) = d.inactive ul := rfl
  rw [bank]
  refine ⟨fun brought => solveGroup_brought (ashlarAddr_aligned ..) brought,
    fun new layer left => solveGroup_zero a64 new owned layer left,
    fun hs i h new stays solved index ant named => ?_, fun fails some_ => ?_⟩
  · have layers : d.solveLayers g.car ≠ [] := fun none => by simp [none] at index
    have is : d.solution g = some hs := by
      unfold Dev.solution
      rw [if_neg (by simpa using layers), solved]
    refine solveGroup_word new (fun y mem at_ => ?_)
      ⟨_, mem_groupWrites.mpr ⟨ul, owned, .solved hs l i h is index ant rfl⟩, by rw [named]⟩
    rcases writes_of_place l32 a64 mem at_ with ⟨hs', i', h', is', index', ant', named', word⟩ | ⟨fails, -⟩ | ⟨-, left, -⟩
    · obtain rfl : hs' = hs := Option.some.inj (is'.symm.trans is)
      obtain rfl : i' = i := zipIdx_index (solveLayers_nodup ..) index' index
      have nodup : (hs'.map Prod.fst).Nodup := solveC_ants solved ▸ List.nodup_range.filter _
      obtain rfl : h' = h := List.inj_on_of_nodup_map nodup ant' ant (named'.trans named.symm)
      exact word
    · rw [is] at fails
      cases fails
    · exact absurd left stays
  · have is : d.solution g = none := by
      unfold Dev.solution
      rw [if_neg (by simpa using some_), fails]
    obtain ⟨counts, raises⟩ := solveGroup_ill (m := m) is
    refine ⟨counts, raises, fun new stays => solveGroup_word new (fun y mem at_ => ?_)
      ⟨_, mem_groupWrites.mpr ⟨ul, owned, .kept l a is l32 a64 rfl⟩, rfl⟩⟩
    rcases writes_of_place l32 a64 mem at_ with ⟨hs, i, h, solved, -⟩ | ⟨-, word⟩ | ⟨-, left, -⟩
    · rw [is] at solved
      cases solved
    · exact word
    · exact absurd left stays

end

end Sys2Proof.Cert

/-! PROOFS. The weight solver (O52, last part): the end of a cycle, group by group, and its start. -/

namespace Sys2Proof.Machine

section

variable {d : Dev} {m : Mem} {x y : Dev × Mem}

/-- What solved groups leave of the device and of memory. -/
structure Solved (d : Dev) (m : Mem) (x : Dev × Mem) : Prop where
  regs : Cert.SameRegsBut solveRegs d x.1
  frame : ∃ rg rs sc e v, x.1 = { d with regs := rg, rises := rs, same := sc, beam := { d.beam with eccZero := e, written := v } }
  outside : ∀ a, (∀ ul ∈ d.owned, a < ashlarAddr (d.inactive ul) ul 0 0 0 ∨ ashlarAddr (d.inactive ul) ul 0 0 0 + 0x500000 ≤ a) →
    Mem.get x.2 a = Mem.get m a
  brought : ∀ a ∈ d.beam.brought, a % 4 = 0 → Mem.word x.2 a = Mem.word m a

theorem Solved.refl (d : Dev) (m : Mem) : Solved d m (d, m) := ⟨.of_regs rfl, ⟨_, _, _, _, _, rfl⟩, fun _ _ => rfl, fun _ _ _ => rfl⟩

theorem Solved.trans (h : Solved d m x) (k : Solved x.1 x.2 y) : Solved d m y := by
  obtain ⟨rg, rs, sc, e, v, first⟩ := h.frame
  obtain ⟨rg', rs', sc', e', v', second⟩ := k.frame
  have owned : x.1.owned = d.owned := by rw [first]; rfl
  have bank : x.1.inactive = d.inactive := by rw [first]; rfl
  have brings : x.1.beam.brought = d.beam.brought := by rw [first]
  refine ⟨h.regs.trans k.regs, ⟨rg', rs', sc', e', v', by rw [second, first]⟩, fun a out => ?_, fun a mem aligned => ?_⟩
  · rw [k.outside a (by rw [owned, bank]; exact out), h.outside a out]
  · rw [k.brought a (by rw [brings]; exact mem) aligned, h.brought a mem aligned]

theorem solved_group {g : SolveGroup} (slot : g.slot < 640) : Solved d m (solveGroup d m g) := by
  refine ⟨Cert.sameRegs_solveGroup d m g, solveGroup_frame d m g, fun a out => ?_, fun a mem aligned => solveGroup_brought aligned mem⟩
  rw [solveGroup_mem]
  refine writeBut_get (fun y mem => ?_) m
  obtain ⟨ul, own, word⟩ := mem_groupWrites.mp mem
  obtain ⟨l, a, l32, a64, place⟩ := word.place
  have there := out ul own
  rw [place]
  unfold ashlarAddr at there ⊢
  omega

theorem solved_groups {gs : List SolveGroup} (slots : ∀ g ∈ gs, g.slot < 640) (x : Dev × Mem) :
    Solved x.1 x.2 (gs.foldl (fun x g => solveGroup x.1 x.2 g) x) := by
  induction gs generalizing x with
  | nil => exact .refl ..
  | cons g gs ih =>
    rw [List.forall_mem_cons] at slots
    exact (solved_group slots.1).trans (ih slots.2 _)

theorem sum_take_add_le (n : List Nat) (c : Nat) : (n.take c).sum + n.getD c 0 ≤ n.sum := by
  induction n generalizing c with
  | nil => simp
  | cons k n ih =>
    cases c with
    | zero => simp
    | succ c =>
      have more := ih c
      simp only [List.take_succ_cons, List.sum_cons, List.getD_cons_succ]
      omega

theorem slot_inForce {g : SolveGroup} (mem : g ∈ d.solveGroups) : g.slot < d.slotsInForce := by
  obtain ⟨c, -, mem⟩ := List.mem_flatMap.mp mem
  obtain ⟨i, lt, rfl⟩ := List.mem_map.mp mem
  have all := sum_take_add_le (d.carsInf.map fun x => carSlots (groupSize (d.inf Reg.BEAM_CFG)) x.1) c
  rw [List.mem_range] at lt
  unfold Dev.slotsInForce
  dsimp only
  omega

/-! ### The switch at the end of a cycle -/

theorem solverSwitch_owns {ul : Bool} (own : (d.inf Reg.BEAM_CFG).bit (if ul then 0 else 1) = true) : ∃ w mask,
    d.solverSwitch ul = (d.swr byFirmware Reg.BEAM_BANK w).commit byFirmware (.beamBank ul) [(Reg.BEAM_BANK, w, mask)] (b2n (d.inactive ul)) := by
  unfold Dev.solverSwitch
  dsimp only
  rw [if_pos own]
  exact ⟨_, _, rfl⟩

theorem solverSwitch_rests {ul : Bool} (own : ¬ (d.inf Reg.BEAM_CFG).bit (if ul then 0 else 1) = true) : d.solverSwitch ul = d := by
  unfold Dev.solverSwitch
  exact if_neg own

/-- The key and the argument of every change that waits. -/
def Dev.pending (d : Dev) : List (Setting × Nat) := d.cad.changes.map fun c => (c.key, c.arg)

theorem swr_parts (d : Dev) (c : Committer) (a : Nat) (w : Word) : (d.swr c a w).beam = d.beam ∧ (d.swr c a w).inforce = d.inforce ∧
    (d.swr c a w).cad = d.cad := by
  unfold Dev.swr
  split <;> exact ⟨rfl, rfl, rfl⟩

theorem solverSwitch_parts (d : Dev) (ul : Bool) : (d.solverSwitch ul).beam = d.beam ∧ (d.solverSwitch ul).inforce = d.inforce ∧
    (d.solverSwitch ul).pending = d.pending ++
      if (d.inf Reg.BEAM_CFG).bit (if ul then 0 else 1) = true then [(.beamBank ul, b2n (d.inactive ul))] else [] := by
  by_cases own : (d.inf Reg.BEAM_CFG).bit (if ul then 0 else 1) = true
  · obtain ⟨w, mask, is⟩ := solverSwitch_owns own
    obtain ⟨beam, inforce, cad⟩ := swr_parts d byFirmware Reg.BEAM_BANK w
    rw [is, if_pos own]
    refine ⟨beam, inforce, ?_⟩
    obtain ⟨c, key, -, -, arg, -, -, committed⟩ := Dev.commit_eq (d.swr byFirmware Reg.BEAM_BANK w) byFirmware (.beamBank ul)
      [(Reg.BEAM_BANK, w, mask)] (b2n (d.inactive ul))
    rw [Dev.pending, committed, Dev.pending, cad]
    simp [key, arg]
  · rw [solverSwitch_rests own, if_neg own]
    exact ⟨rfl, rfl, (List.append_nil _).symm⟩

end

end Sys2Proof.Machine

namespace Sys2Proof.Cert

open Sys2Proof.Machine

section

variable {s : State} {d e : Dev} {m : Mem}

theorem sameRegs_swr {as : List Nat} (d : Dev) (c : Committer) {a : Nat} (w : Word) (mem : a ∈ as) : SameRegsBut as d (d.swr c a w) := by
  unfold Dev.swr
  split
  · exact .of_regs rfl
  · exact (sameRegs_wr d w mem).congr rfl

theorem sameRegs_solverSwitch (d : Dev) (ul : Bool) : SameRegsBut [Reg.BEAM_BANK] d (d.solverSwitch ul) := by
  by_cases own : (d.inf Reg.BEAM_CFG).bit (if ul then 0 else 1) = true
  · obtain ⟨w, mask, is⟩ := solverSwitch_owns own
    rw [is]
    exact (sameRegs_swr d _ w List.mem_cons_self).congr rfl
  · rw [solverSwitch_rests own]
    exact .of_regs rfl

/-- A cycle whose groups are solved: counted, and its banks switched. -/
def switched (d : Dev) : Dev := ((d.count32 Reg.BEAM_SOLVER_DONE).solverSwitch false).solverSwitch true

theorem switched_counts (d : Dev) : Counted d (switched d) Reg.BEAM_SOLVER_DONE 31 0 :=
  (counted_count32 _).of_rd_eq ((sameRegs_solverSwitch _ true _ (by decide)).trans (sameRegs_solverSwitch _ false _ (by decide)))

theorem sameRegs_switched (d : Dev) : SameRegsBut [Reg.BEAM_SOLVER_DONE, Reg.BEAM_BANK] d (switched d) :=
  ((sameRegs_count32 d List.mem_cons_self).trans ((sameRegs_solverSwitch _ false).mono (by simp))).trans
    ((sameRegs_solverSwitch _ true).mono (by simp))

theorem switched_parts (d : Dev) : (switched d).beam = d.beam ∧ (switched d).pending = d.pending ++
    (if (d.inf Reg.BEAM_CFG).bit 1 = true then [(Setting.beamBank false, b2n (d.inactive false))] else []) ++
    (if (d.inf Reg.BEAM_CFG).bit 0 = true then [(Setting.beamBank true, b2n (d.inactive true))] else []) := by
  obtain ⟨beam, inforce, pending⟩ := solverSwitch_parts (d.count32 Reg.BEAM_SOLVER_DONE) false
  obtain ⟨beam', -, pending'⟩ := solverSwitch_parts ((d.count32 Reg.BEAM_SOLVER_DONE).solverSwitch false) true
  have inf : ((d.count32 Reg.BEAM_SOLVER_DONE).solverSwitch false).inf Reg.BEAM_CFG = d.inf Reg.BEAM_CFG := by
    rw [Dev.inf, inforce, Dev.count32_inforce, Dev.inf]
  have inf₀ : (d.count32 Reg.BEAM_SOLVER_DONE).inf Reg.BEAM_CFG = d.inf Reg.BEAM_CFG := by
    rw [Dev.inf, Dev.count32_inforce, Dev.inf]
  have bank : ((d.count32 Reg.BEAM_SOLVER_DONE).solverSwitch false).inactive true = d.inactive true := by
    rw [Dev.inactive, beam, Dev.count32_beam, Dev.inactive]
  have bank₀ : (d.count32 Reg.BEAM_SOLVER_DONE).inactive false = d.inactive false := by
    rw [Dev.inactive, Dev.count32_beam, Dev.inactive]
  refine ⟨beam'.trans (beam.trans (Dev.count32_beam ..)), ?_⟩
  have before : (d.count32 Reg.BEAM_SOLVER_DONE).pending = d.pending := by rw [Dev.pending, Dev.count32_cad, Dev.pending]
  rw [switched, pending', pending, inf, inf₀, bank, bank₀, before]
  simp only [Bool.false_eq_true, if_false, if_true]

/-- The cycle is over, with all its groups written or not. -/
def cycleOver (d : Dev) (all : Bool) : Dev := { d with beam := { d.beam with solving := false, lastMiss := !all } }

theorem solverDeadline_rests (all : Bool) (m : Mem)
    (rests : ¬ (d.beam.solving = true ∧ d.cad.frozen = false ∧ d.cycleTick d.beam.pEff d.nextNom = true)) :
    solverDeadline all d m = (d, m) := by
  unfold solverDeadline
  refine if_pos ?_
  rw [Bool.or_eq_true, Bool.or_eq_true, Bool.not_eq_true', Bool.not_eq_true']
  by_contra none
  rw [not_or, not_or, Bool.not_eq_false, Bool.not_eq_true, Bool.not_eq_false] at none
  exact rests ⟨none.1.1, none.1.2, none.2⟩

/-- A cycle that misses its deadline: counted and raised. -/
def missed (d : Dev) : Dev := (d.count32 Reg.BEAM_SOLVER_MISS).raise Reg.BEAM_EVT 0

theorem missed_parts (d : Dev) : Counted d (missed d) Reg.BEAM_SOLVER_MISS 31 0 ∧ Set (missed d) Reg.BEAM_EVT 0 ∧
    SameRegsBut [Reg.BEAM_SOLVER_MISS, Reg.BEAM_EVT] d (missed d) ∧ (missed d).beam = d.beam ∧ (missed d).cad = d.cad :=
  ⟨(counted_count32 _).of_rd_eq (Dev.rd_raise_ne _ _ (by decide)), set_raise _ (by decide),
    (sameRegs_count32 _ List.mem_cons_self).trans (sameRegs_raise _ _ (by simp)), by rw [missed, Dev.raise_beam, Dev.count32_beam],
    by rw [missed, Dev.raise_cad, Dev.count32_cad]⟩

theorem solverDeadline_due (all : Bool) (m : Mem) (solving : d.beam.solving = true) (open_ : d.cad.frozen = false)
    (closes : d.cycleTick d.beam.pEff d.nextNom = true) : solverDeadline all d m =
      if all then (switched ((cycleOver d all).solveGroups.foldl (fun x g => solveGroup x.1 x.2 g) (cycleOver d all, m)).1,
        ((cycleOver d all).solveGroups.foldl (fun x g => solveGroup x.1 x.2 g) (cycleOver d all, m)).2)
      else (missed (cycleOver d all), m) := by
  have due : ¬ (!d.beam.solving || d.cad.frozen || !d.cycleTick d.beam.pEff d.nextNom) = true := by
    rw [solving, open_, closes]
    decide
  unfold solverDeadline switched missed cycleOver
  rw [if_neg due]

theorem cycleOver_regs (d : Dev) (all : Bool) : (cycleOver d all).regs = d.regs := rfl

theorem solverCycleEnds : SolverCycleEnds := by
  intro s
  dsimp only
  have row : ∀ all, exec (.solverCycleDeadline all) s = .next (after s (solverDeadline all s.dev s.mem)) := fun _ => rfl
  refine ⟨fun ⟨solving, open_, closes⟩ fit => ?_, fun ⟨solving, open_, closes⟩ => ?_, fun rests all => ?_⟩
  · have is := solverDeadline_due true s.mem solving open_ closes
    obtain ⟨x, solved⟩ : ∃ x, (cycleOver s.dev true).solveGroups.foldl (fun x g => solveGroup x.1 x.2 g) (cycleOver s.dev true, s.mem) = x :=
      ⟨_, rfl⟩
    have leaves := solved_groups (gs := (cycleOver s.dev true).solveGroups) (fun g mem => lt_of_lt_of_le (slot_inForce mem) fit)
      (cycleOver s.dev true, s.mem)
    rw [solved] at is leaves
    obtain ⟨rg, rs, sc, ecc, written, frame⟩ := leaves.frame
    obtain ⟨beam, pending⟩ := switched_parts x.1
    have regs : SameRegsBut solveRegs s.dev x.1 := SameRegsBut.trans (.of_regs (cycleOver_regs ..)) leaves.regs
    refine ⟨switched x.1, x.2, (row true).trans (by rw [is, if_pos rfl]), counted_from (switched_counts x.1) (regs _ (by decide)), ?_, ?_, ?_,
      fun a out => leaves.outside a fun ul own => out ul (mem_owned.mp own), leaves.brought⟩
    · exact (regs.mono (by simp [solveRegs])).trans ((sameRegs_switched x.1).mono (by simp))
    · rw [beam, frame]
      rfl
    · have same : x.1.pending = s.dev.pending := by rw [frame]; rfl
      have inf : x.1.inf Reg.BEAM_CFG = s.dev.inf Reg.BEAM_CFG := by rw [frame]; rfl
      have bank : x.1.inactive = s.dev.inactive := by rw [frame]; rfl
      rw [same, inf, bank] at pending
      exact pending
  · have is := solverDeadline_due false s.mem solving open_ closes
    obtain ⟨counts, raises, regs, beam, cad⟩ := missed_parts (cycleOver s.dev false)
    exact ⟨_, (row false).trans (by rw [is, if_neg Bool.false_ne_true]), counted_from counts (Dev.rd_of_regs (cycleOver_regs ..) _), raises,
      SameRegsBut.trans (.of_regs (cycleOver_regs ..)) regs, beam, cad⟩
  · have is := row all
    rwa [solverDeadline_rests all s.mem rests] at is

/-! ### The start of a cycle (R141, R142, R145, R149) -/

/-- The estimates once the symbols that were sounded before tick `t` are the newest. -/
def newest (b : Beam) (t : Nat) : List SoundSym :=
  (b.sounded.partition fun x => decide (x.tick < t)).1 ++ b.est.filter fun x =>
    !(b.sounded.partition fun x => decide (x.tick < t)).1.any fun y => y.car == x.car && y.layer == x.layer

theorem mem_newest {b : Beam} {t : Nat} {x : SoundSym} : x ∈ newest b t ↔ (x ∈ b.sounded ∧ x.tick < t) ∨
    (x ∈ b.est ∧ ∀ y ∈ b.sounded, y.tick < t → y.car ≠ x.car ∨ y.layer ≠ x.layer) := by
  unfold newest
  rw [List.partition_eq_filter_filter]
  simp only [List.mem_append, List.mem_filter, decide_eq_true_eq, Bool.not_eq_true', List.any_eq_false, Bool.and_eq_true, beq_iff_eq,
    not_and, and_imp]
  refine or_congr_right (and_congr_right fun _ => forall_congr' fun y => imp_congr_right fun _ => imp_congr_right fun _ => ?_)
  rw [imp_iff_not_or]

/-- The layers left out: those on whose newest estimate is too old or absent. -/
def tooOld (d : Dev) : List (Nat × Nat) :=
  d.layersOn.filter fun (c, l) => !(newest d.beam d.cad.tickIdx).any fun x => x.car == c && x.layer == l &&
    decide (d.time.cycle ≤ x.cycle + max 1 (d.fget Reg.BEAM_SOLVER_CFG 7 0) * 245760)

theorem mem_tooOld {c l : Nat} : (c, l) ∈ tooOld d ↔ (c, l) ∈ d.layersOn ∧ ∀ x ∈ newest d.beam d.cad.tickIdx, x.car = c → x.layer = l →
    x.cycle + max 1 ((d.rd Reg.BEAM_SOLVER_CFG).get 7 0) * 245760 < d.time.cycle := by
  unfold tooOld
  simp only [List.mem_filter, Bool.not_eq_true', List.any_eq_false, Bool.and_eq_true, beq_iff_eq, decide_eq_true_eq, not_and, and_imp,
    not_le]
  rfl

/-- The word that shows the layers left out. -/
def agedWord (out : List (Nat × Nat)) : Word := out.foldl (fun w x => w ||| BitVec.twoPow 32 x.2) 0

theorem agedWord_bit (out : List (Nat × Nat)) {l : Nat} (l32 : l < 32) : (agedWord out).bit l = true ↔ ∃ c, (c, l) ∈ out := by
  have general : ∀ w : Word, Word.bit (out.foldl (fun w x => w ||| BitVec.twoPow 32 x.2) w) l = true ↔ w.bit l = true ∨ ∃ c, (c, l) ∈ out := by
    induction out with
    | nil => simp
    | cons x out ih =>
      intro w
      obtain ⟨c, k⟩ := x
      rw [List.foldl_cons, ih]
      have or : Word.bit (w ||| BitVec.twoPow 32 k) l = true ↔ w.bit l = true ∨ k = l := by
        simp only [Word.bit, BitVec.testBit_toNat, BitVec.getLsbD_or, BitVec.getLsbD_twoPow, Bool.or_eq_true, Bool.and_eq_true, decide_eq_true_eq]
        exact or_congr_right ⟨fun h => h.2, fun h => ⟨by omega, h⟩⟩
      rw [or, or_assoc]
      refine or_congr_right ?_
      simp only [List.mem_cons, Prod.mk.injEq]
      constructor
      · rintro (rfl | ⟨c', mem⟩)
        · exact ⟨c, .inl ⟨rfl, rfl⟩⟩
        · exact ⟨c', .inr mem⟩
      · rintro ⟨c', ⟨rfl, rfl⟩ | mem⟩
        · exact .inl rfl
        · exact .inr ⟨c', mem⟩
  rw [agedWord, general]
  simp [Word.bit]

/-- The solver at the start of a cycle. -/
def cycleBegun (d : Dev) : Dev :=
  { d with beam := { d.beam with
      solving := true, solvedAt := some d.cad.tickIdx, pEff := d.solverPeriod, est := newest d.beam d.cad.tickIdx
      sounded := (d.beam.sounded.partition fun x => decide (x.tick < d.cad.tickIdx)).2, excluded := tooOld d, dropped := d.retiredMask
      brought := [] } }

theorem solverStart_due (runs : d.solverRuns = true) (closes : d.cycleTick d.solverPeriod d.cad.nom = true)
    (new : d.beam.solvedAt ≠ some d.cad.tickIdx) : d.solverStart =
      if agedWord (tooOld d) = 0 then (cycleBegun d).wr Reg.BEAM_SOLVER_AGED (agedWord (tooOld d))
      else ((cycleBegun d).wr Reg.BEAM_SOLVER_AGED (agedWord (tooOld d))).raise Reg.BEAM_EVT 2 := by
  have due : ¬ (!d.solverRuns || !d.cycleTick d.solverPeriod d.cad.nom || d.beam.solvedAt == some d.cad.tickIdx) = true := by
    rw [runs, closes]
    simpa using new
  unfold Dev.solverStart
  exact (if_neg due).trans rfl

theorem solverStart_rests (rests : ¬ (d.solverRuns = true ∧ d.cycleTick d.solverPeriod d.cad.nom = true ∧
    d.beam.solvedAt ≠ some d.cad.tickIdx)) : d.solverStart = d := by
  unfold Dev.solverStart
  refine if_pos ?_
  by_contra none
  rw [Bool.or_eq_true, Bool.or_eq_true, not_or, not_or, Bool.not_eq_true', Bool.not_eq_true', Bool.not_eq_false, Bool.not_eq_false,
    beq_iff_eq] at none
  exact rests ⟨none.1.1, none.1.2, none.2⟩

/-- The start of a cycle, shown by `e` from the device at that instant. -/
theorem begun_frame (d : Dev) : ∃ e, (agedWord (tooOld d) ≠ 0 → Set e Reg.BEAM_EVT 2) ∧
    (e = if agedWord (tooOld d) = 0 then (cycleBegun d).wr Reg.BEAM_SOLVER_AGED (agedWord (tooOld d))
      else ((cycleBegun d).wr Reg.BEAM_SOLVER_AGED (agedWord (tooOld d))).raise Reg.BEAM_EVT 2) ∧
    e = { d with regs := e.regs, beam := e.beam, rises := e.rises, same := e.same } ∧
    SameRegsBut [Reg.BEAM_SOLVER_AGED, Reg.BEAM_EVT] d e ∧ e.rd Reg.BEAM_SOLVER_AGED = agedWord (tooOld d) ∧
    e.beam = (cycleBegun d).beam := by
  have regs : SameRegsBut [Reg.BEAM_SOLVER_AGED, Reg.BEAM_EVT] d ((cycleBegun d).wr Reg.BEAM_SOLVER_AGED (agedWord (tooOld d))) :=
    SameRegsBut.trans (e := cycleBegun d) (.of_regs rfl) (sameRegs_wr _ _ List.mem_cons_self)
  have frame : ∀ w : Word, ∃ rg, (cycleBegun d).wr Reg.BEAM_SOLVER_AGED w = { d with regs := rg, beam := (cycleBegun d).beam } :=
    fun w => ⟨_, rfl⟩
  generalize agedWord (tooOld d) = w at regs ⊢
  obtain ⟨rg, wrote⟩ := frame w
  by_cases none : w = 0
  · exact ⟨_, fun some_ => absurd none some_, (if_pos none).symm, by rw [wrote], regs, Dev.rd_wr_same .., by rw [wrote]⟩
  · refine ⟨_, fun _ => set_raise _ (by decide), (if_neg none).symm, ?_, regs.trans (sameRegs_raise _ _ (by simp)), ?_, ?_⟩
    · obtain ⟨rg', rs, sc, raised⟩ := ((cycleBegun d).wr Reg.BEAM_SOLVER_AGED w).raise_frame Reg.BEAM_EVT 2
      rw [raised, wrote]
    · rw [Dev.rd_raise_ne _ _ (by decide), Dev.rd_wr_same]
    · rw [Dev.raise_beam, wrote]

theorem solverCycleStarts : SolverCycleStarts := by
  intro s
  dsimp only
  have row : Leads s .solverCycleStart s.dev.solverStart := leads_of_onCommit (f := Dev.solverStart) rfl
  refine ⟨fun ⟨runs, closes, new⟩ => ?_, fun rests => by rwa [solverStart_rests rests] at row⟩
  obtain ⟨e, raises, is, frame, regs, aged, beam⟩ := begun_frame s.dev
  rw [solverStart_due runs closes new, ← is] at row
  have est : e.beam.est = newest s.dev.beam s.dev.cad.tickIdx := congrArg Beam.est beam
  have out : e.beam.excluded = tooOld s.dev := congrArg Beam.excluded beam
  have left : e.beam.sounded = (s.dev.beam.sounded.partition fun x => decide (x.tick < s.dev.cad.tickIdx)).2 := congrArg Beam.sounded beam
  refine ⟨e, row, frame, regs, ?_, fun x => ?_, fun x => ?_, fun c l => ?_, fun l l32 => ?_, fun some_ => raises fun none => ?_⟩
  · rw [est, out, left, beam]
    rfl
  · rw [left, List.partition_eq_filter_filter]
    simp
  · rw [est]
    exact mem_newest
  · rw [est, out]
    exact mem_tooOld
  · rw [aged, out]
    exact agedWord_bit _ l32
  · obtain ⟨⟨c, l⟩, mem⟩ := List.exists_mem_of_ne_nil _ (out ▸ some_)
    have shown := (agedWord_bit (tooOld s.dev) (layersOn_lt (mem_tooOld.mp mem).1)).mpr ⟨c, mem⟩
    rw [none] at shown
    simp [Word.bit] at shown

/-- Settles O52: the start of a cycle, its end group by group, and the words of one group by their places in the store. -/
theorem solverCycle : Obligations.SolverCycle := ⟨solverCycleStarts, solverCycleEnds, solverWritesGroups⟩

end

end Sys2Proof.Cert

/-! PROOFS. Observation captures (O53, first part): what a capture that ends gives its path, and the verification of an update. -/

namespace Sys2Proof.Machine

section

variable {d e : Dev} {p : Fin 64} {k : Fin 16} {c : OrxCapture} {q : CaptureQuality}

/-! ### One predistorter, one receiver -/

theorem Dev.modDpd_path (p : Fin 64) (f : DpdPath → DpdPath) : (d.modDpd p f).dpd.path[p] = f d.dpd.path[p] := by simp [Dev.modDpd]

theorem Dev.modDpd_path_ne {r : Fin 64} (f : DpdPath → DpdPath) (ne : r ≠ p) : (d.modDpd p f).dpd.path[r] = d.dpd.path[r] := by
  simp [Dev.modDpd, Vector.getElem_set_ne, Fin.val_ne_of_ne ne.symm]

theorem Dev.modDpd_orx (p : Fin 64) (f : DpdPath → DpdPath) : (d.modDpd p f).dpd.orx = d.dpd.orx := rfl

/-- The receiver is free again. -/
def freed (d : Dev) (k : Fin 16) : Dev := d.modOrx k fun o => { o with cap := none }

theorem freed_cap (d : Dev) (k : Fin 16) : (freed d k).dpd.orx[k].cap = none := by simp [freed, Dev.modOrx]

theorem freed_path (d : Dev) (k : Fin 16) : (freed d k).dpd.path = d.dpd.path := rfl

/-! ### The request for an update's work (R177) -/

/-- `e` is `d` but for the cluster and the voltage of its operating point. -/
structure Asked (d e : Dev) : Prop where
  frame : ∃ rg ch, e = { d with regs := rg, chisel := ch }
  regs : Cert.SameRegsBut [Reg.POWER_VOLT] d e

theorem Asked.refl (d : Dev) : Asked d d := ⟨⟨_, _, rfl⟩, .of_regs rfl⟩

theorem asked_opStart (d : Dev) (op : Nat) : Asked d (d.opStart op) := by
  have raised : ∀ (x : Dev) (w : Word), ∃ rg, x.wr Reg.POWER_VOLT w = { x with regs := rg } := fun _ _ => ⟨_, rfl⟩
  unfold Dev.opStart
  split
  · exact .refl d
  · dsimp only
    split
    · refine ⟨?_, Cert.SameRegsBut.trans (.of_regs rfl) (Cert.sameRegs_fset _ 15 0 _ List.mem_cons_self)⟩
      obtain ⟨rg, is⟩ := raised { d with chisel := { d.chisel with opTgt := some op, settled := decide (op < d.chisel.op) } }
        (Word.put (Dev.rd { d with chisel := { d.chisel with opTgt := some op, settled := decide (op < d.chisel.op) } } Reg.POWER_VOLT) 15 0 (opVolt op))
      exact ⟨rg, _, is⟩
    · exact ⟨⟨_, _, rfl⟩, .of_regs rfl⟩

/-- An update that asks gets its kernel where a core has room; otherwise the operating point may rise for it. -/
def askRoom (d : Dev) (p : Fin 64) : Dev :=
  match d.place (d.updateKernel p) d.opAdm with
  | some k => d.addKernel k
  | none =>
    if (d.rd Reg.CHISEL_CFG).bit 2 then
      match ((List.range 4).filter fun op => decide (d.opAdm < op)).find? fun op => (d.place (d.updateKernel p) op).isSome with
      | some op => d.opStart op
      | none => d
    else d

theorem asked_askRoom (d : Dev) (p : Fin 64) : Asked d (askRoom d p) := by
  unfold askRoom
  split
  · exact ⟨⟨_, _, rfl⟩, .of_regs rfl⟩
  · split
    · split
      · exact asked_opStart d _
      · exact .refl d
    · exact .refl d

theorem asked_askUpdate (d : Dev) (p : Fin 64) : Asked d (d.askUpdate p) := by
  have either : d.askUpdate p = d ∨ d.askUpdate p = askRoom d p := by
    unfold Dev.askUpdate
    exact ite_eq_or_eq ..
  rcases either with same | asks
  · rw [same]
    exact .refl d
  · rw [asks]
    exact asked_askRoom d p

theorem Asked.dpd (h : Asked d e) : e.dpd = d.dpd := by
  obtain ⟨rg, ch, rfl⟩ := h.frame
  rfl

theorem Asked.cad (h : Asked d e) : e.cad = d.cad := by
  obtain ⟨rg, ch, rfl⟩ := h.frame
  rfl

/-! ### A capture that ends (R171, R183) -/

theorem captureDone_host (cap : d.dpd.orx[k].cap = some c) {n : Nat} (host : c.user = .host n) : d.captureDone k q = d := by
  unfold Dev.captureDone
  rw [cap]
  dsimp only
  rw [host]

/-- A capture that is dropped. -/
def dropCounted (d : Dev) (k : Fin 16) : Dev := (freed d k).count32 Reg.DPD_CAP_DROP

/-- What the capture of an input answers the background tracking and array calibration. -/
def trackHeard (d : Dev) (k : Fin 16) (p : Fin 64) : Dev :=
  { freed d k with dpd := { (freed d k).dpd with wantTrack := (freed d k).dpd.wantTrack.filter (· != p.val) } }

/-- An update takes a capture of its bank. -/
def DpdUpdate.take (bank : Nat) (samples : List CapSample) (w : DpdUpdate) : DpdUpdate :=
  if w.bank = bank ∧ 0 < w.need then
    { w with need := w.need - 1, caps := if samples.isEmpty then w.caps else w.caps ++ [capSetOf samples] }
  else w

/-- The figures of a capture and its samples, taken up by the path. -/
def adapted (d : Dev) (k : Fin 16) (c : OrxCapture) (q : CaptureQuality) (fig : Nat × Nat) : Dev :=
  let f := (trackHeard d k c.input).setQuality c.input c.bank fig
  let f := { f with dpd := { f.dpd with capAt := (c.input.val, f.time.cycle) :: f.dpd.capAt.filter (fun x => x.1 != c.input.val) } }
  if c.user = .dpd then f.modDpd c.input fun x => { x with upd := x.upd.map (DpdUpdate.take c.bank q.samples) } else f

theorem captureDone_bad (cap : d.dpd.orx[k].cap = some c) (own : ∀ n, c.user ≠ .host n) (bad : ¬ (c.valid = true ∧ q.overrange = false)) :
    d.captureDone k q = if q.overrange then (dropCounted d k).report (toSrc (136 + k.val)) else dropCounted d k := by
  have drops : (!c.valid || q.overrange) = true := by
    cases valid : c.valid <;> cases over_ : q.overrange <;> simp_all
  unfold Dev.captureDone
  rw [cap]
  dsimp only
  split
  case h_1 n host => exact absurd host (own n)
  case h_2 => exact if_pos drops

theorem captureDone_cal (cap : d.dpd.orx[k].cap = some c) (cal : c.user = .cal) (valid : c.valid = true) (clear : q.overrange = false) :
    d.captureDone k q = { trackHeard d k c.input with dpd :=
      { (trackHeard d k c.input).dpd with wantCal := (trackHeard d k c.input).dpd.wantCal.filter (· != c.input.val) } } := by
  unfold Dev.captureDone
  rw [cap]
  dsimp only
  rw [cal, valid, clear]
  rfl

theorem captureDone_adapts (cap : d.dpd.orx[k].cap = some c) (own : c.user = .dpd ∨ c.user = .track) (valid : c.valid = true)
    (clear : q.overrange = false) {fig : Nat × Nat}
    (figs : captureFigures (trackHeard d k c.input).mu (trackHeard d k c.input).carsInf q = fig) : d.captureDone k q =
      ((adapted d k c q fig).askUpdate c.input).verifyUpdate c.input c.bank c.tick fig.1 := by
  have keep : (!c.valid || q.overrange) = false := by rw [valid, clear]; rfl
  subst figs
  unfold Dev.captureDone
  rw [cap]
  dsimp only
  split
  case h_1 n host => rw [host] at own; simp at own
  case h_2 =>
    have other : c.user ≠ .cal := fun cal => by rw [cal] at own; simp at own
    rw [keep, if_neg Bool.false_ne_true, if_neg other]
    rfl

theorem figures_of_inforce (same : e.inforce = d.inforce) (q : CaptureQuality) :
    captureFigures e.mu e.carsInf q = captureFigures d.mu d.carsInf q := by
  have inf : ∀ a, e.inf a = d.inf a := fun a => by rw [Dev.inf, same, Dev.inf]
  have mu : e.mu = d.mu := by rw [Dev.mu, inf, Dev.mu]
  have cars : e.carsInf = d.carsInf := by simp only [Dev.carsInf, inf]
  rw [mu, cars]

theorem trackHeard_inforce (d : Dev) (k : Fin 16) (p : Fin 64) : (trackHeard d k p).inforce = d.inforce := rfl

theorem modDpd_frame (d : Dev) (p : Fin 64) (f : DpdPath → DpdPath) : ∃ x, d.modDpd p f = { d with dpd := x } := ⟨_, rfl⟩

theorem trackHeard_frame (d : Dev) (k : Fin 16) (p : Fin 64) : ∃ x, trackHeard d k p = { d with dpd := x } := ⟨_, rfl⟩

theorem setQuality_frame (d : Dev) (p : Fin 64) (bank : Nat) (fig : Nat × Nat) : ∃ x, d.setQuality p bank fig = { d with dpd := x } :=
  modDpd_frame d p _

theorem adapted_frame (d : Dev) (k : Fin 16) (c : OrxCapture) (q : CaptureQuality) (fig : Nat × Nat) :
    ∃ x, adapted d k c q fig = { d with dpd := x } := by
  obtain ⟨x, heard⟩ := trackHeard_frame d k c.input
  obtain ⟨y, figured⟩ := setQuality_frame (trackHeard d k c.input) c.input c.bank fig
  unfold adapted
  rw [figured, heard]
  dsimp only
  split
  · exact modDpd_frame { d with dpd := _ } _ _
  · exact ⟨_, rfl⟩

/-- The path's figures after a capture. -/
def figured (x : DpdPath) (bank : Nat) (fig : Nat × Nat) : DpdPath := { x with aclr := fig.1, evm := fig.2, qbank := bank, stale := false }

theorem adapted_path (d : Dev) (k : Fin 16) (c : OrxCapture) (q : CaptureQuality) (fig : Nat × Nat) : (adapted d k c q fig).dpd.path[c.input] =
    { figured d.dpd.path[c.input] c.bank fig with
      upd := if c.user = .dpd then d.dpd.path[c.input].upd.map (DpdUpdate.take c.bank q.samples) else d.dpd.path[c.input].upd } := by
  have shown : ((trackHeard d k c.input).setQuality c.input c.bank fig).dpd.path[c.input] =
      figured d.dpd.path[c.input] c.bank fig := Dev.modDpd_path ..
  unfold adapted
  dsimp only
  split
  · rw [Dev.modDpd_path]
    exact congrArg (fun x : DpdPath => { x with upd := x.upd.map (DpdUpdate.take c.bank q.samples) }) shown
  · exact shown

theorem adapted_path_ne (d : Dev) (k : Fin 16) (c : OrxCapture) (q : CaptureQuality) (fig : Nat × Nat) {r : Fin 64} (ne : r ≠ c.input) :
    (adapted d k c q fig).dpd.path[r] = d.dpd.path[r] := by
  have shown : ((trackHeard d k c.input).setQuality c.input c.bank fig).dpd.path[r] = d.dpd.path[r] :=
    Dev.modDpd_path_ne _ ne
  unfold adapted
  dsimp only
  split
  · rw [Dev.modDpd_path_ne _ ne]
    exact shown
  · exact shown

theorem adapted_orx (d : Dev) (k : Fin 16) (c : OrxCapture) (q : CaptureQuality) (fig : Nat × Nat) : (adapted d k c q fig).dpd.orx = (freed d k).dpd.orx := by
  unfold adapted
  dsimp only
  split <;> rfl

/-! ### The verification of an update (R179, R180) -/

theorem verifyUpdate_rests {bank tick aclr : Nat} (rests : d.dpd.path[p].verify = none ∨
    ∃ b before land, d.dpd.path[p].verify = some (b, before, land) ∧ (b ≠ bank ∨ tick < land)) : d.verifyUpdate p bank tick aclr = d := by
  unfold Dev.verifyUpdate
  rcases rests with none | ⟨b, before, land, is, early⟩
  · rw [none]
  · rw [is]
    exact if_pos early

/-- The update is verified, whatever its figures. -/
def unverified (d : Dev) (p : Fin 64) : Dev := d.modDpd p fun x => { x with verify := none }

theorem verifyUpdate_kept {b : Nat} {i : Fin 4} {before land tick aclr : Nat} (own : i = ⟨b % 4, Nat.mod_lt _ (by decide)⟩)
    (is : d.dpd.path[p].verify = some (b, before, land))
    (after : land ≤ tick) (kept : ¬ (aclr < 255 ∧ before < 255 ∧ aclr + (d.rd Reg.DPD_CFG).get 23 16 < before)) :
    d.verifyUpdate p b tick aclr = (unverified d p).modDpd p fun x => { x with reverts := x.reverts.set i 0 } := by
  subst own
  unfold Dev.verifyUpdate
  rw [is]
  dsimp only
  rw [if_neg (by omega)]
  exact if_neg kept

/-- An update is reverted. -/
def reverted (d : Dev) (p : Fin 64) (b : Nat) (i : Fin 4) : Dev :=
  ((((unverified d p).commit byFirmware (.dpdPage p) [] b).count32 Reg.DPD_REVERT).raise Reg.DPD_EVT 1).modDpd p fun x =>
    { x with reverts := x.reverts.set i (x.reverts[i] + 1) }

theorem reverted_path (d : Dev) (p : Fin 64) (b : Nat) (i : Fin 4) : (reverted d p b i).dpd.path[p] =
    { d.dpd.path[p] with verify := none, reverts := d.dpd.path[p].reverts.set i (d.dpd.path[p].reverts[i] + 1) } := by
  have judge : (unverified d p).dpd.path[p] = { d.dpd.path[p] with verify := none } := Dev.modDpd_path ..
  have before : ((((unverified d p).commit byFirmware (.dpdPage p) [] b).count32 Reg.DPD_REVERT).raise Reg.DPD_EVT 1).dpd.path[p] =
      { d.dpd.path[p] with verify := none } := by
    rw [Dev.raise_dpd, Dev.count32_dpd, Dev.commit_dpd, judge]
  rw [reverted, Dev.modDpd_path]
  exact congrArg (fun x : DpdPath => { x with reverts := x.reverts.set i (x.reverts[i] + 1) }) before

theorem verifyUpdate_reverted {b : Nat} {i : Fin 4} {before land tick aclr : Nat} (own : i = ⟨b % 4, Nat.mod_lt _ (by decide)⟩)
    (is : d.dpd.path[p].verify = some (b, before, land))
    (after : land ≤ tick) (few : d.dpd.path[p].reverts[i] ≠ 2) (low : aclr < 255) (low' : before < 255)
    (worse : aclr + (d.rd Reg.DPD_CFG).get 23 16 < before) : d.verifyUpdate p b tick aclr = reverted d p b i := by
  have count : (reverted d p b i).dpd.path[p].reverts[i] = d.dpd.path[p].reverts[i] + 1 := by
    rw [reverted_path]
    simp
  unfold Dev.verifyUpdate
  rw [is]
  dsimp only
  rw [if_neg (by omega)]
  subst own
  refine (if_pos ⟨low, low', worse⟩).trans (if_neg (c := (reverted d p b ⟨b % 4, _⟩).dpd.path[p].reverts[(⟨b % 4, _⟩ : Fin 4)] = 3) ?_)
  rw [count]
  omega

end

end Sys2Proof.Machine

/-! PROOFS. The adaptation of the predistorters (O53, second part): captures, as their rows state them. -/

namespace Sys2Proof.Cert

open Sys2Proof.Machine

section

variable {s : State} {d e : Dev} {p : Fin 64} {k : Fin 16} {c : OrxCapture} {q : CaptureQuality} {fig : Nat × Nat}

/-- The device with a capture taken up and the update's work asked for. -/
def heard (d : Dev) (k : Fin 16) (c : OrxCapture) (q : CaptureQuality) (fig : Nat × Nat) : Dev := (adapted d k c q fig).askUpdate c.input

theorem heard_dpd (d : Dev) (k : Fin 16) (c : OrxCapture) (q : CaptureQuality) (fig : Nat × Nat) :
    (heard d k c q fig).dpd = (adapted d k c q fig).dpd := (asked_askUpdate _ _).dpd

theorem heard_cad (d : Dev) (k : Fin 16) (c : OrxCapture) (q : CaptureQuality) (fig : Nat × Nat) : (heard d k c q fig).cad = d.cad := by
  obtain ⟨x, is⟩ := adapted_frame d k c q fig
  rw [heard, (asked_askUpdate _ _).cad, is]

theorem sameRegs_heard (d : Dev) (k : Fin 16) (c : OrxCapture) (q : CaptureQuality) (fig : Nat × Nat) :
    SameRegsBut [Reg.POWER_VOLT] d (heard d k c q fig) := by
  obtain ⟨x, is⟩ := adapted_frame d k c q fig
  exact SameRegsBut.trans (.of_regs (by rw [is])) (asked_askUpdate _ _).regs

theorem heard_cap (d : Dev) (k : Fin 16) (c : OrxCapture) (q : CaptureQuality) (fig : Nat × Nat) : (heard d k c q fig).dpd.orx[k].cap = none := by
  rw [heard_dpd, adapted_orx, freed_cap]

theorem take_samples (bank : Nat) (samples : List CapSample) : DpdUpdate.take bank samples = fun (w : DpdUpdate) =>
    if w.bank = bank ∧ 0 < w.need then
      { w with need := w.need - 1, caps := if samples = [] then w.caps else w.caps ++ [capSetOf samples] } else w := by
  funext w
  unfold DpdUpdate.take
  simp only [List.isEmpty_iff]

theorem heard_path (d : Dev) (k : Fin 16) (c : OrxCapture) (q : CaptureQuality) (fig : Nat × Nat) : (heard d k c q fig).dpd.path[c.input] =
    { figured d.dpd.path[c.input] c.bank fig with
      upd := if c.user = .dpd then d.dpd.path[c.input].upd.map (DpdUpdate.take c.bank q.samples) else d.dpd.path[c.input].upd } := by
  rw [heard_dpd, adapted_path]

theorem heard_verify (d : Dev) (k : Fin 16) (c : OrxCapture) (q : CaptureQuality) (fig : Nat × Nat) :
    (heard d k c q fig).dpd.path[c.input].verify = d.dpd.path[c.input].verify ∧
      (heard d k c q fig).dpd.path[c.input].reverts = d.dpd.path[c.input].reverts := by
  rw [heard_path]
  exact ⟨rfl, rfl⟩

theorem heard_limit (d : Dev) (k : Fin 16) (c : OrxCapture) (q : CaptureQuality) (fig : Nat × Nat) :
    (heard d k c q fig).rd Reg.DPD_CFG = d.rd Reg.DPD_CFG := sameRegs_heard d k c q fig _ (by decide)

/-- The row of a capture that adaptation or tracking takes up. -/
theorem captureRow (cap : s.dev.dpd.orx[k].cap = some c) (own : c.user = .dpd ∨ c.user = .track) (valid : c.valid = true)
    (clear : q.overrange = false) (figs : captureFigures s.dev.mu s.dev.carsInf q = fig) :
    Leads s (.orxCaptureDone k q) ((heard s.dev k c q fig).verifyUpdate c.input c.bank c.tick fig.1) := by
  have row : Leads s (.orxCaptureDone k q) (s.dev.captureDone k q) := leads_of_onCommit (f := fun d => d.captureDone k q) rfl
  rwa [captureDone_adapts cap own valid clear ((figures_of_inforce (trackHeard_inforce ..) q).trans figs)] at row

/-! ### A verified update -/

/-- An update judged good: the path's count of reverts of that bank starts afresh. -/
theorem judged_kept (d : Dev) (p : Fin 64) (i : Fin 4) :
    ((unverified d p).modDpd p fun x => { x with reverts := x.reverts.set i 0 }).dpd.path[p].verify = none ∧
    ((unverified d p).modDpd p fun x => { x with reverts := x.reverts.set i 0 }).dpd.path[p].reverts[i] = 0 ∧
    ((unverified d p).modDpd p fun x => { x with reverts := x.reverts.set i 0 }).cad = d.cad ∧
    ((unverified d p).modDpd p fun x => { x with reverts := x.reverts.set i 0 }).regs = d.regs := by
  have judge : (unverified d p).dpd.path[p] = { d.dpd.path[p] with verify := none } := Dev.modDpd_path ..
  have both : ((unverified d p).modDpd p fun x => { x with reverts := x.reverts.set i 0 }).dpd.path[p] =
      { d.dpd.path[p] with verify := none, reverts := d.dpd.path[p].reverts.set i 0 } := by
    rw [Dev.modDpd_path, judge]
  rw [both]
  exact ⟨rfl, by simp, rfl, rfl⟩

/-- The change that gives a bank its page. -/
theorem commit_page (d : Dev) (p : Fin 64) (b : Nat) : ∃ y : Change,
    (d.commit byFirmware (.dpdPage p) [] b).cad = { d.cad with changes := d.cad.changes ++ [y] } ∧ y.key = .dpdPage p ∧ y.arg = b ∧
      y.land = d.nextLanding := by
  obtain ⟨y, key, -, land, arg, -, -, is⟩ := Dev.commit_eq d byFirmware (.dpdPage p) [] b
  exact ⟨y, by rw [is], key, arg, land⟩

/-- An update reverted is counted and raised, and the page that stood before is committed again. -/
theorem reverted_parts (d : Dev) (p : Fin 64) (b : Nat) (i : Fin 4) : Counted d (reverted d p b i) Reg.DPD_REVERT 31 0 ∧
    Set (reverted d p b i) Reg.DPD_EVT 1 ∧
    ∃ y : Change, (reverted d p b i).cad.changes = d.cad.changes ++ [y] ∧ y.key = .dpdPage p ∧ y.arg = b ∧ y.land = d.nextLanding := by
  have judge : (unverified d p).regs = d.regs ∧ (unverified d p).cad = d.cad := ⟨rfl, rfl⟩
  obtain ⟨y, cad, key, arg, land⟩ := commit_page (unverified d p) p b
  have counts : Counted d (((unverified d p).commit byFirmware (.dpdPage p) [] b).count32 Reg.DPD_REVERT) Reg.DPD_REVERT 31 0 :=
    counted_from (counted_count32 _) (Dev.rd_of_regs ((Dev.commit_regs ..).trans judge.1) _)
  refine ⟨?_, ?_, y, ?_, key, arg, land⟩
  · exact (counts.of_rd_eq (Dev.rd_raise_ne _ _ (by decide))).of_regs (Dev.modDpd_regs ..)
  · exact (set_raise _ (by decide)).of_regs (Dev.modDpd_regs ..)
  · rw [reverted, Dev.modDpd_cad, Dev.raise_cad, Dev.count32_cad, cad, judge.2]

theorem nextLanding_of_cad (same : e.cad = d.cad) : e.nextLanding = d.nextLanding := by
  rw [Dev.nextLanding, same, Dev.nextLanding]

theorem dropCounted_parts (d : Dev) (k : Fin 16) : Counted d (dropCounted d k) Reg.DPD_CAP_DROP 31 0 ∧
    SameRegsBut [Reg.DPD_CAP_DROP] d (dropCounted d k) ∧ (dropCounted d k).dpd = (freed d k).dpd := by
  have same : (freed d k).regs = d.regs := rfl
  refine ⟨counted_from (counted_count32 _) (Dev.rd_of_regs same _), SameRegsBut.trans (.of_regs same) (sameRegs_count32 _ List.mem_cons_self), ?_⟩
  rw [dropCounted, Dev.count32_dpd]

theorem calHeard_frame (d : Dev) (k : Fin 16) (p : Fin 64) : { trackHeard d k p with dpd :=
    { (trackHeard d k p).dpd with wantCal := (trackHeard d k p).dpd.wantCal.filter (· != p.val) } } = { d with dpd :=
    { (trackHeard d k p).dpd with wantCal := (trackHeard d k p).dpd.wantCal.filter (· != p.val) } } := by
  obtain ⟨x, is⟩ := trackHeard_frame d k p
  rw [is]

theorem dpdCaptures : DpdCaptures := by
  intro s k q c cap
  dsimp only
  have row : Leads s (.orxCaptureDone k q) (s.dev.captureDone k q) := leads_of_onCommit (f := fun d => d.captureDone k q) rfl
  refine ⟨fun ⟨n, host⟩ => by rwa [captureDone_host cap host] at row, fun own bad => ?_, fun cal ⟨valid, clear⟩ => ?_,
    fun own ⟨valid, clear⟩ => ⟨fun rests => ?_, fun b before land waits early => ?_, fun b before land waits bank after => ⟨fun kept => ?_,
      fun few low low' worse => ?_⟩⟩⟩
  · rw [captureDone_bad cap own bad] at row
    obtain ⟨counts, regs, dpd⟩ := dropCounted_parts s.dev k
    exact ⟨_, counts, regs, by rw [dpd, freed_cap], by rw [dpd, freed_path], row⟩
  · rw [captureDone_cal cap cal valid clear, calHeard_frame] at row
    exact ⟨_, row, freed_cap s.dev k, rfl, freed_path s.dev k⟩
  · have takes := captureRow cap own valid clear rfl
    rw [verifyUpdate_rests (.inl ((heard_verify ..).1.trans rests))] at takes
    refine ⟨_, takes, heard_cap .., sameRegs_heard _ _ _ _ _, heard_cad .., ?_, fun r ne => ?_⟩
    · rw [heard_path, figured, take_samples]
    · rw [heard_dpd, adapted_path_ne _ _ _ _ _ ne]
  · have takes := captureRow cap own valid clear rfl
    have other : b.val ≠ c.bank ∨ c.tick < land := early.imp_left Ne.symm
    rw [verifyUpdate_rests (.inr ⟨b.val, before, land, (heard_verify ..).1.trans waits, other⟩)] at takes
    exact ⟨_, takes, (heard_verify ..).1, heard_cad ..⟩
  · have takes := captureRow cap own valid clear rfl
    rw [bank, verifyUpdate_kept (i := b) (Fin.ext (Nat.mod_eq_of_lt b.isLt).symm) ((heard_verify ..).1.trans waits) after
      (by rwa [heard_limit])] at takes
    obtain ⟨verify, reverts, cad, regs⟩ := judged_kept (heard s.dev k c q (captureFigures s.dev.mu s.dev.carsInf q)) c.input b
    exact ⟨_, takes, verify, reverts, cad.trans (heard_cad ..), (sameRegs_heard _ _ _ _ _).congr regs⟩
  · have takes := captureRow cap own valid clear rfl
    have reverts := (heard_verify s.dev k c q (captureFigures s.dev.mu s.dev.carsInf q)).2
    rw [bank, verifyUpdate_reverted (i := b) (Fin.ext (Nat.mod_eq_of_lt b.isLt).symm) ((heard_verify ..).1.trans waits) after
      (by rwa [reverts]) low low' (by rwa [heard_limit])] at takes
    obtain ⟨counts, raises, y, changes, key, arg, lands⟩ :=
      reverted_parts (heard s.dev k c q (captureFigures s.dev.mu s.dev.carsInf q)) c.input b.val b
    refine ⟨_, takes, counted_from counts (sameRegs_heard _ _ _ _ _ _ (by decide)), raises, ?_, ?_, y, ?_, key, arg, ?_⟩
    · rw [reverted_path]
    · rw [reverted_path, reverts]
      simp
    · rw [changes, heard_cad]
    · rw [lands, nextLanding_of_cad (heard_cad ..)]

end

end Sys2Proof.Cert

/-! PROOFS. The adaptation of the predistorters (O53, last part): the choice of an update, its end, and one that is abandoned. -/

namespace Sys2Proof.Machine

section

variable {d e : Dev} {m : Mem} {p : Fin 64} {u : DpdUpdate} {luts : List Word} {cls b : Nat}

/-! ### The next update (R174, R175) -/

/-- A path of the first class: continuous, its bank in need. -/
def Dev.needy (d : Dev) (p : Fin 64) : Bool := d.continuous p && d.dpd.path[p].needs.testBit d.dpd.path[p].bank

/-- The paths in the order of the first class. -/
def Dev.firstClass (d : Dev) : List (Fin 64) := ((List.finRange 64).filter fun p => !d.dpd.last.contains p.val) ++ d.dpd.last.map toPath

theorem nextUpdate_first {r : Fin 64} (found : d.firstClass.find? d.needy = some r) : d.nextUpdate = some (r, d.dpd.path[r].bank, 1) := by
  unfold Dev.nextUpdate
  change (match d.firstClass.find? d.needy with | some p => some (p, d.dpd.path[p].bank, 1) | none => _) = _
  rw [found]

theorem mem_firstClass (d : Dev) (p : Fin 64) : p ∈ d.firstClass := by
  rw [Dev.firstClass, List.mem_append, List.mem_filter]
  by_cases last : d.dpd.last.contains p.val = true
  · exact .inr (List.mem_map.mpr ⟨p.val, List.contains_iff_mem.mp last, Fin.ext (Nat.mod_eq_of_lt p.isLt)⟩)
  · exact .inl ⟨List.mem_finRange p, by rw [Bool.eq_false_iff.mpr last]; rfl⟩

/-- A search in a list in rising order finds the least. -/
theorem find?_least {xs : List (Fin 64)} {test : Fin 64 → Bool} {r : Fin 64} (sorted : xs.Pairwise (· < ·)) (mem : p ∈ xs) (holds : test p = true)
    (found : xs.find? test = some r) : r ≤ p := by
  induction xs with
  | nil => cases mem
  | cons x xs ih =>
    obtain ⟨below, rest⟩ := List.pairwise_cons.mp sorted
    rw [List.find?_cons] at found
    split at found
    · obtain rfl := Option.some.inj found
      rcases List.mem_cons.mp mem with rfl | later
      · exact le_refl _
      · exact le_of_lt (below p later)
    · next fails =>
      rcases List.mem_cons.mp mem with rfl | later
      · rw [holds] at fails
        cases fails
      · exact ih rest later found

/-- A path in need is served by the first class, before every later path of those that were not abandoned. -/
theorem nextUpdate_needy (needs : d.needy p = true) : ∃ r, d.nextUpdate = some (r, d.dpd.path[r].bank, 1) ∧ d.needy r = true ∧
    (p.val ∉ d.dpd.last → r ≤ p) := by
  obtain ⟨r, found⟩ : ∃ r, d.firstClass.find? d.needy = some r :=
    Option.isSome_iff_exists.mp (List.find?_isSome.mpr ⟨p, mem_firstClass d p, needs⟩)
  refine ⟨r, nextUpdate_first found, List.find?_some found, fun fresh => ?_⟩
  have mem : p ∈ (List.finRange 64).filter fun p => !d.dpd.last.contains p.val := by
    rw [List.mem_filter]
    exact ⟨List.mem_finRange p, by simpa using fresh⟩
  have sorted : ((List.finRange 64).filter fun p => !d.dpd.last.contains p.val).Pairwise (· < ·) :=
    (List.pairwise_lt_finRange 64).filter _
  rw [Dev.firstClass, List.find?_append] at found
  cases early : ((List.finRange 64).filter fun p => !d.dpd.last.contains p.val).find? d.needy with
  | none => exact absurd (List.find?_eq_none.mp early p mem) (by rw [needs]; simp)
  | some r' =>
    rw [early] at found
    obtain rfl : r' = r := Option.some.inj found
    exact find?_least sorted mem needs early

/-! ### An update begins (R176) -/

/-- The update of a path, its captures requested. -/
def updateBegun (d : Dev) (p : Fin 64) (b cls : Nat) : Dev :=
  d.modDpd p fun x => { x with upd := some { caps := [], bank := b, need := max 1 (d.fget Reg.DPD_CFG 7 4), before := x.aclr, cls := cls } }

theorem updateStart_picks (on : (d.rd Reg.DPD_CFG).bit 31 = true) (next : d.nextUpdate = some (p, b, cls)) : d.updateStart =
    if cls = 2 then { updateBegun d p b cls with dpd := { (updateBegun d p b cls).dpd with queue := (updateBegun d p b cls).dpd.queue.erase (p.val, b) } }
    else if cls = 3 then { updateBegun d p b cls with dpd := { (updateBegun d p b cls).dpd with round := p.val } }
    else updateBegun d p b cls := by
  unfold Dev.updateStart
  rw [on, next]
  rfl

theorem updateStart_rests (rests : (d.rd Reg.DPD_CFG).bit 31 = false ∨ d.nextUpdate = none) : d.updateStart = d := by
  unfold Dev.updateStart
  rcases rests with off | none
  · rw [off]
    rfl
  · rw [none]
    split <;> rfl

/-! ### The words of an update (R176) -/

theorem length_blocks {f : Nat → List Word} (size : ∀ t, (f t).length = 32) (n : Nat) : ((List.range n).flatMap f).length = 32 * n := by
  induction n with
  | zero => rfl
  | succ n ih => rw [List.range_succ, List.flatMap_append, List.length_append, ih, List.flatMap_singleton, size, Nat.mul_succ]

theorem getD_blocks {f : Nat → List Word} (size : ∀ t, (f t).length = 32) {n i : Nat} (lt : i < 32 * n) :
    ((List.range n).flatMap f).getD i 0 = (f (i / 32)).getD (i % 32) 0 := by
  induction n with
  | zero => omega
  | succ n ih =>
    rw [List.range_succ, List.flatMap_append, List.flatMap_singleton]
    have length := length_blocks size n
    rcases Nat.lt_or_ge i (32 * n) with early | last
    · rw [List.getD_append _ _ _ _ (by rw [length]; exact early), ih early]
    · have block : i / 32 = n := by omega
      have within : i - 32 * n = i % 32 := by omega
      rw [List.getD_append_right _ _ _ _ (by rw [length]; exact last), length, block, within]

/-- The LUTs of a page as an update computes them: zero where the term takes no part. -/
theorem updateWords_blocks (mu delta : Nat) (terms : List Nat) (caps : List CapSet) (page : Nat → Word) : ∃ f : Nat → List Word,
    updateWords mu delta terms caps page = (List.range 44).flatMap f ∧ (∀ t, (f t).length = 32) ∧
      ∀ t, 40 ≤ t → t - 40 ∉ terms → f t = List.replicate 32 0 := by
  refine ⟨_, rfl, fun t => ?_, fun t high out => ?_⟩
  · dsimp only
    split
    · rw [List.length_map, List.length_range]
    · exact List.length_replicate
  · refine if_neg ?_
    rw [List.contains_iff_mem, List.mem_append, List.mem_range, List.mem_map]
    rintro (low | ⟨j, mem, is⟩)
    · omega
    · exact out (by rwa [← is, Nat.add_sub_cancel_left])

theorem updWords_free (m : Mem) (luts : List Word) (none : u.caps = []) : d.updWords m p u luts =
    (List.range 1408).map fun i => if 1280 ≤ i ∧ !(d.updTerms p).contains (i / 32 - 40) then 0 else luts.getD i 0 := by
  unfold Dev.updWords
  rw [none]
  rfl

theorem updWords_solved (m : Mem) (luts : List Word) (some_ : u.caps ≠ []) : d.updWords m p u luts =
    updateWords (d.fget Reg.DPD_CFG 15 8) (d.fget Reg.DPD_CFG 3 0) (d.updTerms p) u.caps
      fun i => Mem.word m (dpdAddr p.val (d.dpd.path[p].pageOf u.bank) i) := by
  unfold Dev.updWords
  exact if_neg (by simpa using some_)

theorem length_updWords (d : Dev) (m : Mem) (p : Fin 64) (u : DpdUpdate) (luts : List Word) : (d.updWords m p u luts).length = 1408 := by
  by_cases none : u.caps = []
  · rw [updWords_free m luts none, List.length_map, List.length_range]
  · obtain ⟨f, is, size, -⟩ := updateWords_blocks (d.fget Reg.DPD_CFG 15 8) (d.fget Reg.DPD_CFG 3 0) (d.updTerms p) u.caps
      fun i => Mem.word m (dpdAddr p.val (d.dpd.path[p].pageOf u.bank) i)
    rw [updWords_solved m luts none, is, length_blocks size]

/-- A term that takes no part has a LUT of zeros. -/
theorem updWords_silent (m : Mem) (luts : List Word) {i : Nat} (high : 1280 ≤ i) (lt : i < 1408) (out : i / 32 - 40 ∉ d.updTerms p) :
    (d.updWords m p u luts).getD i 0 = 0 := by
  by_cases none : u.caps = []
  · rw [updWords_free m luts none, List.getD_eq_getElem _ _ (by simpa using lt), List.getElem_map, List.getElem_range]
    exact if_pos ⟨high, by simpa using out⟩
  · obtain ⟨f, is, size, zero⟩ := updateWords_blocks (d.fget Reg.DPD_CFG 15 8) (d.fget Reg.DPD_CFG 3 0) (d.updTerms p) u.caps
      fun i => Mem.word m (dpdAddr p.val (d.dpd.path[p].pageOf u.bank) i)
    rw [updWords_solved m luts none, is, getD_blocks size (by omega), zero _ (by omega) out]
    rw [List.getD_eq_getElem _ _ (by rw [List.length_replicate]; omega), List.getElem_replicate]

theorem updWords_given (m : Mem) (luts : List Word) (none : u.caps = []) {i : Nat} (low : i < 1280) :
    (d.updWords m p u luts).getD i 0 = luts.getD i 0 := by
  rw [updWords_free m luts none, List.getD_eq_getElem _ _ (by rw [List.length_map, List.length_range]; omega), List.getElem_map,
    List.getElem_range]
  exact if_neg fun h => by omega

theorem dpdAddr_word (p page i : Nat) : dpdAddr p page i = dpdAddr p page 0 + 4 * i := by
  unfold dpdAddr
  omega

/-! ### An update ends (R176, R178) -/

/-- A path whose update is done: its bank is to be verified, and needs no update any more. -/
def DpdPath.updated (x : DpdPath) (u : DpdUpdate) (land : Nat) : DpdPath :=
  { x with upd := none, verify := some (u.bank, u.before, land), needs := if x.needs.testBit u.bank then x.needs - 2 ^ u.bank else x.needs }

/-- The update's words are written and its work leaves the cluster. -/
def updateReleased (d : Dev) (p : Fin 64) (u : DpdUpdate) : Dev :=
  let d := d.modDpd p fun x => x.updated u (if d.ticking then d.nextLanding else d.cad.tickIdx)
  ({ d with dpd := { d.dpd with last := d.dpd.last.filter (· != p.val) } }).dropFirmware (updateSlot p)

/-- An update that is done is committed, counted and raised. -/
def updateShown (d : Dev) (p : Fin 64) (u : DpdUpdate) : Dev :=
  ((((updateReleased d p u).commit byFirmware (.dpdPage p) [] u.bank).count32 Reg.DPD_UPD_DONE).count32 (Reg.DPD_PATH_UPD p)).raise Reg.DPD_EVT 6

theorem updateDone_ready (m : Mem) (luts : List Word) (upd : d.dpd.path[p].upd = some u) (complete : u.need = 0)
    (admitted : d.updateAdmitted p = true) :
    updateDone d m p luts = (updateShown d p u, Mem.setWords m (dpdAddr p.val d.dpd.path[p].spare 0) (d.updWords m p u luts)) := by
  unfold updateDone
  rw [upd]
  dsimp only
  rw [complete, admitted]
  rfl

theorem updateDone_rests (m : Mem) (luts : List Word)
    (rests : d.dpd.path[p].upd = none ∨ (∃ u, d.dpd.path[p].upd = some u ∧ 0 < u.need) ∨ d.updateAdmitted p = false) :
    updateDone d m p luts = (d, m) := by
  unfold updateDone
  rcases rests with none | ⟨u, upd, waits⟩ | out
  · rw [none]
  · rw [upd]
    dsimp only
    exact if_pos (by simp [waits])
  · rw [out]
    split
    · rfl
    · exact if_pos (by simp)

/-- The update of a path is abandoned (R178). -/
def abandoned (d : Dev) (p : Fin 64) : Dev :=
  ((d.modDpd p fun x => { x with upd := none }).count32 Reg.DPD_CAP_TIMEOUT).raise Reg.DPD_EVT 0

/-- The device with the state of the adaptation `x`. -/
def withDpd (d : Dev) (x : Dpd) : Dev := { d with dpd := x }

theorem withDpd_regs (d : Dev) (x : Dpd) : (withDpd d x).regs = d.regs := rfl

theorem withDpd_cad (d : Dev) (x : Dpd) : (withDpd d x).cad = d.cad := rfl

theorem withDpd_dpd (d : Dev) (x : Dpd) : (withDpd d x).dpd = x := rfl

/-- The classes of the adaptation with a path placed last in one. -/
def placedLast (x : Dpd) (p : Fin 64) (u : DpdUpdate) : Dpd :=
  if u.cls = 2 then { x with queue := x.queue.filter (fun y => !(y.1 == p.val)) ++ (p.val, u.bank) :: x.queue.filter fun y => y.1 == p.val }
  else if u.cls = 3 then { x with round := p.val }
  else { x with last := x.last.filter (· != p.val) ++ [p.val] }

theorem capTimeout_waits (upd : d.dpd.path[p].upd = some u) (waits : 0 < u.need) :
    d.capTimeout p = withDpd (abandoned d p) (placedLast (abandoned d p).dpd p u) := by
  unfold Dev.capTimeout
  rw [upd]
  dsimp only
  rw [if_neg (by omega)]
  rfl

end

end Sys2Proof.Machine

namespace Sys2Proof.Cert

open Sys2Proof.Machine

section

variable {s : State} {d e : Dev} {m : Mem} {p : Fin 64} {u : DpdUpdate} {luts : List Word} {cls b : Nat}

theorem begun_parts (d : Dev) (p : Fin 64) (b cls : Nat) : (updateBegun d p b cls).dpd.path[p].upd =
      some { caps := [], bank := b, need := max 1 ((d.rd Reg.DPD_CFG).get 7 4), before := d.dpd.path[p].aclr, cls := cls } ∧
    (updateBegun d p b cls).regs = d.regs ∧ (updateBegun d p b cls).cad = d.cad ∧ (updateBegun d p b cls).dpd.queue = d.dpd.queue ∧
    (updateBegun d p b cls).dpd.round = d.dpd.round ∧ ∀ r : Fin 64, r ≠ p → (updateBegun d p b cls).dpd.path[r] = d.dpd.path[r] :=
  ⟨congrArg DpdPath.upd (Dev.modDpd_path ..), rfl, rfl, rfl, rfl, fun _ ne => Dev.modDpd_path_ne _ ne⟩

/-- Where an update begins, its class alone moves on. -/
theorem updateStarts (on : (d.rd Reg.DPD_CFG).bit 31 = true) (next : d.nextUpdate = some (p, b, cls)) :
    d.updateStart.dpd.path[p].upd =
      some { caps := [], bank := b, need := max 1 ((d.rd Reg.DPD_CFG).get 7 4), before := d.dpd.path[p].aclr, cls := cls } ∧
    d.updateStart.regs = d.regs ∧ d.updateStart.cad = d.cad ∧
    (∀ r : Fin 64, r ≠ p → d.updateStart.dpd.path[r] = d.dpd.path[r]) ∧
    d.updateStart.dpd.queue = (if cls = 2 then d.dpd.queue.erase (p.val, b) else d.dpd.queue) ∧
    d.updateStart.dpd.round = if cls = 3 then p.val else d.dpd.round := by
  obtain ⟨upd, regs, cad, queue, round, others⟩ := begun_parts d p b cls
  rw [updateStart_picks on next]
  by_cases second : cls = 2
  · rw [if_pos second, if_pos second, if_neg (by omega)]
    exact ⟨upd, regs, cad, others, by rw [← queue], round⟩
  · by_cases third : cls = 3
    · rw [if_neg second, if_pos third, if_neg second, if_pos third]
      exact ⟨upd, regs, cad, others, queue, rfl⟩
    · rw [if_neg second, if_neg third, if_neg second, if_neg third]
      exact ⟨upd, regs, cad, others, queue, round⟩

theorem updateReleased_parts (d : Dev) (p : Fin 64) (u : DpdUpdate) : (updateReleased d p u).dpd.path[p] =
      d.dpd.path[p].updated u (if d.ticking then d.nextLanding else d.cad.tickIdx) ∧
    (updateReleased d p u).regs = d.regs ∧ (updateReleased d p u).cad = d.cad ∧ (updateReleased d p u).updateAdmitted p = false := by
  have paths : (updateReleased d p u).dpd.path =
      (d.modDpd p fun x => x.updated u (if d.ticking then d.nextLanding else d.cad.tickIdx)).dpd.path := rfl
  refine ⟨(congrArg (fun v : Vector DpdPath 64 => v[p]) paths).trans (Dev.modDpd_path ..), rfl, rfl, ?_⟩
  have kernels : (updateReleased d p u).chisel.kernels = d.chisel.kernels.filter fun k => k.slot != updateSlot p := rfl
  rw [Dev.updateAdmitted, kernels, List.any_eq_false]
  intro k mem
  simpa using (List.mem_filter.mp mem).2

theorem dpdPathUpd_ne (p : Fin 64) : Reg.DPD_PATH_UPD p.val ≠ Reg.DPD_UPD_DONE ∧ Reg.DPD_PATH_UPD p.val ≠ Reg.DPD_EVT ∧
    Reg.DPD_EVT ≠ Reg.DPD_PATH_UPD p.val := by
  unfold Reg.DPD_PATH_UPD Reg.DPD_UPD_DONE Reg.DPD_EVT
  omega

theorem updateShown_parts (d : Dev) (p : Fin 64) (u : DpdUpdate) : (updateShown d p u).dpd.path[p] =
      d.dpd.path[p].updated u (if d.ticking then d.nextLanding else d.cad.tickIdx) ∧
    (updateShown d p u).updateAdmitted p = false ∧ Counted d (updateShown d p u) Reg.DPD_UPD_DONE 31 0 ∧
    Counted d (updateShown d p u) (Reg.DPD_PATH_UPD p.val) 31 0 ∧ Set (updateShown d p u) Reg.DPD_EVT 6 ∧
    ∃ y : Change, (updateShown d p u).cad.changes = d.cad.changes ++ [y] ∧ y.key = .dpdPage p ∧ y.arg = u.bank ∧ y.land = d.nextLanding := by
  obtain ⟨path, regs, cad, admitted⟩ := updateReleased_parts d p u
  obtain ⟨y, committed, key, arg, land⟩ := commit_page (updateReleased d p u) p u.bank
  obtain ⟨done, event, event'⟩ := dpdPathUpd_ne p
  have before : ∀ a, ((updateReleased d p u).commit byFirmware (.dpdPage p) [] u.bank).rd a = d.rd a :=
    fun a => Dev.rd_of_regs ((Dev.commit_regs ..).trans regs) a
  have second := counted_count32 (d := ((updateReleased d p u).commit byFirmware (.dpdPage p) [] u.bank).count32 Reg.DPD_UPD_DONE)
    (Reg.DPD_PATH_UPD p.val)
  refine ⟨?_, ?_, ?_, ?_, set_raise _ (by decide), y, ?_, key, arg, land.trans (nextLanding_of_cad cad)⟩
  · rw [updateShown, Dev.raise_dpd, Dev.count32_dpd, Dev.count32_dpd, Dev.commit_dpd, path]
  · rw [Dev.updateAdmitted, updateShown, Dev.raise_chisel, Dev.count32_chisel, Dev.count32_chisel, Dev.commit_chisel]
    exact admitted
  · exact counted_from ((counted_count32 _).of_rd_eq ((Dev.rd_raise_ne _ _ (by decide)).trans (Dev.rd_count32_ne _ done.symm))) (before _)
  · exact counted_from (second.of_rd_eq (Dev.rd_raise_ne _ _ event)) ((Dev.rd_count32_ne _ done).trans (before _))
  · rw [updateShown, Dev.raise_cad, Dev.count32_cad, Dev.count32_cad, committed, cad]

theorem abandoned_parts (d : Dev) (p : Fin 64) : (abandoned d p).dpd.path[p] = { d.dpd.path[p] with upd := none } ∧
    Counted d (abandoned d p) Reg.DPD_CAP_TIMEOUT 31 0 ∧ Set (abandoned d p) Reg.DPD_EVT 0 ∧
    SameRegsBut [Reg.DPD_CAP_TIMEOUT, Reg.DPD_EVT] d (abandoned d p) ∧ (abandoned d p).cad = d.cad ∧
    (abandoned d p).dpd.queue = d.dpd.queue ∧ (abandoned d p).dpd.last = d.dpd.last := by
  have ends : (abandoned d p).dpd = (d.modDpd p fun x => { x with upd := none }).dpd := by
    rw [abandoned, Dev.raise_dpd, Dev.count32_dpd]
  refine ⟨?_, ?_, set_raise _ (by decide), ?_, ?_, ?_, ?_⟩
  · rw [ends, Dev.modDpd_path]
  · exact counted_from ((counted_count32 _).of_rd_eq (Dev.rd_raise_ne _ _ (by decide))) (Dev.rd_of_regs (Dev.modDpd_regs ..) _)
  · exact SameRegsBut.trans (.of_regs (Dev.modDpd_regs ..)) ((sameRegs_count32 _ List.mem_cons_self).trans (sameRegs_raise _ _ (by simp)))
  · rw [abandoned, Dev.raise_cad, Dev.count32_cad, Dev.modDpd_cad]
  · rw [ends]
    rfl
  · rw [ends]
    rfl

/-- Placing a path last in its class leaves the paths, and moves that class alone. -/
theorem placedLast_parts (x : Dpd) (p : Fin 64) (u : DpdUpdate) : (placedLast x p u).path = x.path ∧
    (u.cls = 1 → (placedLast x p u).last = x.last.filter (· != p.val) ++ [p.val]) ∧ (u.cls = 3 → (placedLast x p u).round = p.val) ∧
    (placedLast x p u).queue = if u.cls = 2 then x.queue.filter (fun y => y.1 != p.val) ++ (p.val, u.bank) ::
      x.queue.filter (fun y => y.1 == p.val) else x.queue := by
  unfold placedLast
  by_cases second : u.cls = 2
  · rw [if_pos second, if_pos second]
    exact ⟨rfl, fun one => absurd one (by omega), fun three => absurd three (by omega), rfl⟩
  · rw [if_neg second, if_neg second]
    by_cases third : u.cls = 3
    · rw [if_pos third]
      exact ⟨rfl, fun one => absurd one (by omega), fun _ => rfl, rfl⟩
    · rw [if_neg third]
      exact ⟨rfl, fun _ => rfl, fun three => absurd three third, rfl⟩

/-- An update that is done, as its row states it. -/
theorem updateDone_row (size : luts.length = 1408) : exec (.dpdUpdateDone p luts) s = .next (after s (updateDone s.dev s.mem p luts)) := by
  have row : exec (.dpdUpdateDone p luts) s = onSettled s fun d m => updateDone d m p luts := if_pos size
  rw [row]
  rfl

theorem dpdUpdates : DpdUpdates := by
  intro s p
  dsimp only
  refine ⟨fun b cls on next => ?_, fun rests => ?_, fun goes needs => ?_, fun u luts size upd complete admitted => ?_, fun luts size rests => ?_,
    fun u upd waits => ⟨fun arrives => ?_, fun alone => ?_⟩, ?_⟩
  · have row : Leads s .dpdUpdateStart s.dev.updateStart := leads_of_onCommit (f := Dev.updateStart) rfl
    exact ⟨_, row, updateStarts on next⟩
  · have row : Leads s .dpdUpdateStart s.dev.updateStart := leads_of_onCommit (f := Dev.updateStart) rfl
    rwa [updateStart_rests rests] at row
  · have needy : s.dev.needy p = true := by rw [Dev.needy, goes, needs]; rfl
    obtain ⟨r, next, holds, least⟩ := nextUpdate_needy needy
    rw [Dev.needy, Bool.and_eq_true] at holds
    exact ⟨r, _, next, holds.2, least⟩
  · have row := updateDone_row (s := s) (p := p) size
    rw [updateDone_ready s.mem luts upd complete admitted] at row
    obtain ⟨path, gone, done, own, raises, changes⟩ := updateShown_parts s.dev p u
    have length := length_updWords s.dev s.mem p u luts
    have word : ∀ i, i < 1408 → Mem.word (Mem.setWords s.mem (dpdAddr p.val s.dev.dpd.path[p].spare 0) (s.dev.updWords s.mem p u luts))
        (dpdAddr p.val s.dev.dpd.path[p].spare i) = (s.dev.updWords s.mem p u luts).getD i 0 := fun i lt => by
      rw [dpdAddr_word p.val s.dev.dpd.path[p].spare i, Mem.word_setWords_in _ _ _ (by rw [length]; exact lt), List.getD_eq_getElem]
    refine ⟨_, _, row, fun none i low => ?_, fun some_ i lt => ?_, fun i high lt out => ?_, fun a out => ?_, ?_, ?_, gone, ?_, done, own, raises,
      changes⟩
    · rw [word i (by omega), updWords_given _ _ none low]
    · rw [word i lt, updWords_solved _ _ some_, Dev.fget, Dev.fget]
    · rw [word i lt, updWords_silent _ _ high lt out]
    · refine Mem.get_setWords_out _ _ _ ?_
      rw [length]
      rw [dpdAddr_word _ _ 1408] at out
      exact out
    · rw [path]
      rfl
    · rw [path]
      rfl
    · rw [path]
      rfl
  · have row := updateDone_row (s := s) (p := p) size
    rwa [updateDone_rests s.mem luts rests] at row
  · exact unlessNow_arrives _ _ _ arrives
  · have row : Leads s (.dpdCapTimeout p) (s.dev.capTimeout p) :=
      leads_of_onCommit (f := fun d => d.capTimeout p) (by dsimp only [exec]; exact unlessNow_else _ _ _ alone)
    rw [capTimeout_waits upd waits] at row
    obtain ⟨path, counts, raises, regs, cad, queue, last⟩ := abandoned_parts s.dev p
    obtain ⟨paths, first, third, second⟩ := placedLast_parts (abandoned s.dev p).dpd p u
    rw [queue] at second
    rw [last] at first
    refine ⟨_, row, ?_, counts.of_regs (withDpd_regs ..), raises.of_regs (withDpd_regs ..), regs.congr (withDpd_regs ..),
      (withDpd_cad ..).trans cad, ?_, ?_, ?_⟩
    · rw [withDpd_dpd, paths, path]
    · rw [withDpd_dpd]
      exact first
    · rw [withDpd_dpd]
      exact third
    · rw [withDpd_dpd]
      exact second
  · exact ⟨_, makes_of_onDev (f := fun d => d.modDpd p fun x => { x with stale := true }) rfl, Dev.modDpd_path .., rfl,
      fun _ ne => Dev.modDpd_path_ne _ ne⟩

/-- Settles O53: what a capture gives its path, from the equation of its end; and an update's choice, end and abandonment. -/
theorem predistortionAdapts : Obligations.PredistortionAdapts := ⟨dpdCaptures, dpdUpdates⟩

end

end Sys2Proof.Cert

/-! PROOFS. Calibration (O54, first part): what an estimate does to the figures of its path. -/

namespace Sys2Proof.Machine

section

variable {d e f : Dev} {p : Fin 64} {x : CalEst} {dly : Bool}

/-! ### One path's calibration -/

theorem Dev.modCal_path (p : Fin 64) (g : CalPath → CalPath) : (d.modCal p g).cal.path[p] = g d.cal.path[p] := by simp [Dev.modCal]

theorem Dev.modCal_frame (d : Dev) (p : Fin 64) (g : CalPath → CalPath) : ∃ y, d.modCal p g = { d with cal := y } := ⟨_, rfl⟩

theorem Dev.modCalDir_path (p : Fin 64) (g : CalDir → CalDir) :
    (d.modCalDir p false g).cal.path[p] = { d.cal.path[p] with rx := g d.cal.path[p].rx } := Dev.modCal_path p _

/-! ### The figures of the receive direction -/

/-- `e` has the receive figures of `d` on path `p`, but for the flags of its residual; its transmit figures, the ownership of the
corrections and the ticks are those of `d`. -/
structure SameFigures (p : Fin 64) (d e : Dev) : Prop where
  rx : ∃ first high, e.cal.path[p].rx = { d.cal.path[p].rx with first := first, high := high }
  tx : e.cal.path[p].tx = d.cal.path[p].tx
  held : e.calHeld = d.calHeld
  ticks : e.ticking = d.ticking

theorem SameFigures.refl (p : Fin 64) (d : Dev) : SameFigures p d d := ⟨⟨_, _, rfl⟩, rfl, rfl, rfl⟩

theorem SameFigures.trans (h : SameFigures p d e) (k : SameFigures p e f) : SameFigures p d f := by
  obtain ⟨a, b, first⟩ := h.rx
  obtain ⟨a', b', second⟩ := k.rx
  exact ⟨⟨a', b', by rw [second, first]⟩, k.tx.trans h.tx, k.held.trans h.held, k.ticks.trans h.ticks⟩

theorem calHeld_of_rd (same : e.rd Reg.CAL_CFG = d.rd Reg.CAL_CFG) : e.calHeld = d.calHeld := by rw [Dev.calHeld, same, Dev.calHeld]

theorem ticking_of_cad (same : e.cad = d.cad) : e.ticking = d.ticking := by rw [Dev.ticking, same, Dev.ticking]

theorem sameFigures_of (cal : e.cal = d.cal) (cad : e.cad = d.cad) (cfg : e.rd Reg.CAL_CFG = d.rd Reg.CAL_CFG) : SameFigures p d e :=
  ⟨⟨d.cal.path[p].rx.first, d.cal.path[p].rx.high, by rw [cal]⟩, by rw [cal], calHeld_of_rd cfg, ticking_of_cad cad⟩

theorem sameFigures_modCal (g : CalPath → CalPath) (rx : ∃ first high, (g d.cal.path[p]).rx = { d.cal.path[p].rx with first := first, high := high })
    (tx : (g d.cal.path[p]).tx = d.cal.path[p].tx) : SameFigures p d (d.modCal p g) :=
  ⟨by rwa [Dev.modCal_path], by rwa [Dev.modCal_path], rfl, rfl⟩

theorem sameFigures_modCalDir (g : CalDir → CalDir) (rx : ∃ first high, g d.cal.path[p].rx = { d.cal.path[p].rx with first := first, high := high }) :
    SameFigures p d (d.modCalDir p false g) := sameFigures_modCal _ rx rfl

theorem sameFigures_raise (d : Dev) (p : Fin 64) (a b : Nat) (out : Reg.CAL_CFG ≠ a) : SameFigures p d (d.raise a b) :=
  sameFigures_of (Dev.raise_cal ..) (Dev.raise_cad ..) (Dev.rd_raise_ne _ _ out)

theorem cfg_ne_pflag (p : Fin 64) : Reg.CAL_CFG ≠ Reg.CAL_PFLAG p.val := by simp only [Reg.CAL_CFG, Reg.CAL_PFLAG]; omega

theorem sameFigures_fset (d : Dev) (p : Fin 64) (hi lo n : Nat) : SameFigures p d (d.fset (Reg.CAL_PFLAG p.val) hi lo n) :=
  sameFigures_of (Dev.fset_cal ..) (Dev.fset_cad ..) (Dev.rd_fset_ne _ _ _ _ (cfg_ne_pflag p))

theorem sameFigures_report (d : Dev) (p : Fin 64) (n : Fin 256) : SameFigures p d (d.report n) := by
  have reports := Dev.report_reported d n
  have cal := Cert.reported_cal reports
  refine ⟨⟨d.cal.path[p].rx.first, d.cal.path[p].rx.high, by rw [cal]⟩, by rw [cal], calHeld_of_rd (Cert.rd_report d n _ (by decide)), ?_⟩
  obtain ⟨m, rs, sc, su, cs, is⟩ := reports
  rw [is]
  rfl

/-! ### An estimate, stage by stage (R201, R209, R214) -/

/-- The estimate in its averages, and they in the quality registers. -/
def taken (d : Dev) (p : Fin 64) (tx : Bool) (x : CalEst) (dly : Bool) : Dev :=
  (d.modCalDir p tx fun c => c.taken x dly (d.fget Reg.CAL_CFG 3 0) d.time.cycle).showQuality p tx

/-- The residual judged: its first one after a restore, and how often it has been high. -/
def residJudged (d : Dev) (p : Fin 64) (tx first high : Bool) : Dev :=
  (if first && high then d.raise Reg.CAL_EVT 7 else d).modCalDir p tx fun c => { c with first := false, high := if high then c.high + 1 else 0 }

/-- The eighth high residual in a row is flagged and reported. -/
def residFlagged (d : Dev) (p : Fin 64) (tx high : Bool) : Dev :=
  if !high then d.fset (Reg.CAL_PFLAG p.val) 28 28 0
  else if (d.cal.path[p].dir tx).high = 8 then
    (((d.modCalDir p tx fun c => { c with high := 0 }).fset (Reg.CAL_PFLAG p.val) 28 28 1).raise Reg.CAL_EVT 3).report
      (toSrc (if tx then 64 + p.val else p.val))
  else d

/-- An estimate that enters, before its correction. -/
def estimated (d : Dev) (p : Fin 64) (tx : Bool) (x : CalEst) (dly : Bool) : Dev :=
  let t := taken d p tx x dly
  let c := t.cal.path[p].dir tx
  let u := t.modCal p fun y => { y with stale := false }
  residFlagged (residJudged u p tx c.first (u.residHigh c)) p tx (u.residHigh c)

theorem estimate_outlier (tx : Bool) (far : (d.cal.path[p].dir tx).discards x dly = true) : d.estimate p tx x dly = d := if_pos far

theorem estimate_enters (tx : Bool) (near : (d.cal.path[p].dir tx).discards x dly = false) :
    d.estimate p tx x dly = (estimated d p tx x dly).correctPath p tx dly := by
  unfold Dev.estimate estimated residFlagged residJudged taken
  rw [if_neg (by rw [near]; decide)]

theorem sameFigures_judged (d : Dev) (p : Fin 64) (first high : Bool) : SameFigures p d (residJudged d p false first high) := by
  have raised : SameFigures p d (if first && high then d.raise Reg.CAL_EVT 7 else d) := by
    split
    · exact sameFigures_raise d p _ _ (by decide)
    · exact .refl p d
  exact raised.trans (sameFigures_modCalDir _ ⟨_, _, rfl⟩)

theorem sameFigures_flagged (d : Dev) (p : Fin 64) (high : Bool) : SameFigures p d (residFlagged d p false high) := by
  unfold residFlagged
  split
  · exact sameFigures_fset d p ..
  · split
    · have cleared : SameFigures p d (d.modCalDir p false fun c => { c with high := 0 }) := sameFigures_modCalDir _ ⟨_, _, rfl⟩
      exact ((cleared.trans (sameFigures_fset ..)).trans (sameFigures_raise _ _ _ _ (by decide))).trans (sameFigures_report ..)
    · exact .refl p d

theorem wr_wr_frame (d : Dev) (a b : Nat) (v w : Word) : (d.wr a v).wr b w = { d with regs := ((d.wr a v).wr b w).regs } := rfl

theorem showQuality_frame (d : Dev) (p : Fin 64) : ∃ rg, d.showQuality p false = { d with regs := rg } := ⟨_, wr_wr_frame ..⟩

theorem showQuality_cfg (d : Dev) (p : Fin 64) : (d.showQuality p false).rd Reg.CAL_CFG = d.rd Reg.CAL_CFG := by
  have ne0 : Reg.CAL_CFG ≠ Reg.CAL_RXQ0 p.val := by simp only [Reg.CAL_CFG, Reg.CAL_RXQ0]; omega
  have ne1 : Reg.CAL_CFG ≠ Reg.CAL_RXQ1 p.val := by simp only [Reg.CAL_CFG, Reg.CAL_RXQ1]; omega
  exact (Dev.rd_wr_ne _ _ ne1).trans (Dev.rd_wr_ne _ _ ne0)

theorem sameFigures_showQuality (d : Dev) (p : Fin 64) : SameFigures p d (d.showQuality p false) := by
  obtain ⟨rg, is⟩ := showQuality_frame d p
  exact sameFigures_of (by rw [is]) (by rw [is]) (showQuality_cfg d p)

/-- An estimate that enters has its figures in the path. -/
theorem sameFigures_estimated (d : Dev) (p : Fin 64) (x : CalEst) (dly : Bool) :
    SameFigures p (d.modCalDir p false fun c => c.taken x dly (d.fget Reg.CAL_CFG 3 0) d.time.cycle) (estimated d p false x dly) :=
  (((sameFigures_showQuality _ p).trans (sameFigures_modCal (fun y => { y with stale := false }) ⟨_, _, rfl⟩ rfl)).trans
    (sameFigures_judged _ p _ _)).trans (sameFigures_flagged _ p _)

/-- The figures after an estimate that enters. -/
theorem estimated_rx (d : Dev) (p : Fin 64) (x : CalEst) (dly : Bool) : ∃ first high, (estimated d p false x dly).cal.path[p].rx =
    { d.cal.path[p].rx.taken x dly (d.fget Reg.CAL_CFG 3 0) d.time.cycle with first := first, high := high } := by
  obtain ⟨first, high, is⟩ := (sameFigures_estimated d p x dly).rx
  exact ⟨first, high, by rw [is, Dev.modCalDir_path]⟩

theorem estimated_rest (d : Dev) (p : Fin 64) (x : CalEst) (dly : Bool) : (estimated d p false x dly).cal.path[p].tx = d.cal.path[p].tx ∧
    (estimated d p false x dly).calHeld = d.calHeld ∧ (estimated d p false x dly).ticking = d.ticking := by
  have same := sameFigures_estimated d p x dly
  exact ⟨same.tx.trans (by rw [Dev.modCalDir_path]), same.held, same.ticks⟩

theorem CalDir.taken_owed (c : CalDir) (x : CalEst) (dly : Bool) (w now : Nat) : (c.taken x dly w now).owedGain = c.owedGain ∧
    (c.taken x dly w now).owedPhase = c.owedPhase ∧ (c.taken x dly w now).owedDelay = c.owedDelay := ⟨rfl, rfl, rfl⟩

/-! ### What a path is owed (R201, R207) -/

theorem correctPath_held (tx : Bool) (held : d.calHeld = true) : d.correctPath p tx dly = d := if_pos held

theorem correctPath_owes (held : d.calHeld = false) (ticks : d.ticking = true) : d.correctPath p false true = d.modCalDir p false fun c =>
    { c with owedGain := -(rounded c.gain), owedPhase := -(rounded c.phase), owedDelay := -(dlyUnits (rounded c.delay)) } := by
  unfold Dev.correctPath
  rw [if_neg (by rw [held]; decide)]
  exact if_pos (c := Dev.ticking (d.modCalDir p false _) = true) ticks

end

end Sys2Proof.Machine

/-! PROOFS. Calibration (O54, second part): measurements, the voltage reference, and the age of estimates. -/

namespace Sys2Proof.Machine

section

variable {d : Dev} {m : CalMeasure} {t : Fin 4}

theorem modCalDir_rx (p : Fin 64) (g : CalDir → CalDir) : (d.modCalDir p false g).cal.path[p].rx = g d.cal.path[p].rx := by
  rw [Dev.modCalDir_path]

theorem modCalDir_tx (p : Fin 64) (g : CalDir → CalDir) : (d.modCalDir p false g).cal.path[p].tx = d.cal.path[p].tx := by
  rw [Dev.modCalDir_path]

/-! ### What a measurement does, by its route (R198, R201, R210) -/

theorem measured_nothing (out : ¬ (d.measures (tileOf m.path) m.route = true ∧ d.measurable m = true)) : d.measured m = d := by
  refine if_pos ?_
  cases h : d.measures (tileOf m.path) m.route
  · rfl
  · cases k : d.measurable m
    · rfl
    · exact absurd ⟨h, k⟩ out

theorem measured_counts (runs : d.measures (tileOf m.path) m.route = true) (open_ : d.measurable m = true) :
    ¬ (!d.measures (tileOf m.path) m.route || !d.measurable m) = true := by rw [runs, open_]; decide

theorem measured_out (runs : d.measures (tileOf m.path) m.route = true) (open_ : d.measurable m = true) (route : m.route = 0) :
    d.measured m = d.estimate m.path false (estOf m) true := by
  unfold Dev.measured
  refine (if_neg (measured_counts runs open_)).trans ?_
  rw [route]
  rfl

theorem measured_ref (runs : d.measures (tileOf m.path) m.route = true) (open_ : d.measurable m = true) (route : m.route = 1) :
    d.measured m = d.measureRef (tileOf m.path) m := by
  unfold Dev.measured
  refine (if_neg (measured_counts runs open_)).trans ?_
  rw [route]
  rfl

/-- A weak reference is flagged. -/
def refWeak (d : Dev) (t : Fin 4) (g : CalTile → CalTile) (x y : Nat) : Dev :=
  ((((d.modCalTile t g).fset (Reg.CAL_TQ t.val) 31 24 x).fset (Reg.CAL_TQ t.val) 23 16 y).fset (Reg.CAL_TQ t.val) 7 7 1).raise Reg.CAL_EVT 4

theorem measureRef_weak (low : m.refLevelLow = true) : ∃ g x y, d.measureRef t m = refWeak d t g x y := ⟨_, _, _, if_pos low⟩

/-- The voltage reference as judged. -/
def vrefShown (d : Dev) (e : Int) : Dev :=
  d.wr Reg.CAL_VREF (((0 : Word).put 31 31 (b2n (decide (5000 < e.natAbs)))).put 15 0 (unsigned 16 (sat16 e)))

theorem vrefCheck_good {e : Int} (good : e.natAbs ≤ 5000) : d.vrefCheck e = vrefShown d e := if_neg (by simpa using good)

theorem vrefCheck_bad {e : Int} (bad : 5000 < e.natAbs) : d.vrefCheck e = ((vrefShown d e).raise Reg.CAL_EVT 5).report 217 :=
  if_pos (decide_eq_true bad)

/-- A number within a signed halfword stands in it as it is. -/
theorem signed_unsigned_16 {e : Int} (low : -32768 ≤ e) (high : e ≤ 32767) : signed 16 (unsigned 16 (sat16 e) % 65536) = e := by
  have same : sat16 e = e := by unfold sat16; omega
  rw [same]
  unfold signed unsigned
  norm_num
  split <;> omega

end

end Sys2Proof.Machine

namespace Sys2Proof.Cert

open Sys2Proof.Machine

section

variable {d : Dev} {t : Fin 4}

theorem refWeak_parts (d : Dev) (t : Fin 4) (g : CalTile → CalTile) (x y : Nat) : Set (refWeak d t g x y) (Reg.CAL_TQ t.val) 7 ∧
    Set (refWeak d t g x y) Reg.CAL_EVT 4 ∧ SameRegsBut [Reg.CAL_TQ t.val, Reg.CAL_EVT] d (refWeak d t g x y) ∧
    (refWeak d t g x y).cal.path = d.cal.path ∧ (refWeak d t g x y).cad = d.cad := by
  have ne : Reg.CAL_TQ t.val ≠ Reg.CAL_EVT := by simp only [Reg.CAL_TQ, Reg.CAL_EVT]; omega
  have first : Reg.CAL_TQ t.val ∈ [Reg.CAL_TQ t.val, Reg.CAL_EVT] := List.mem_cons_self
  have flagged : ∀ e : Dev, Set (e.fset (Reg.CAL_TQ t.val) 7 7 1) (Reg.CAL_TQ t.val) 7 := fun e => by
    unfold Set Dev.fset
    rw [Dev.rd_wr_same, bit_put_same _ _ (by decide)]
    rfl
  refine ⟨(flagged _).of_rd_eq (Dev.rd_raise_ne _ _ ne), set_raise _ (by decide), ?_, ?_, ?_⟩
  · exact ((((SameRegsBut.of_regs (e := d.modCalTile t g) rfl).trans (sameRegs_fset _ 31 24 _ first)).trans (sameRegs_fset _ 23 16 _ first)).trans
      (sameRegs_fset _ 7 7 _ first)).trans (sameRegs_raise _ _ (by simp))
  · rw [refWeak, Dev.raise_cal, Dev.fset_cal, Dev.fset_cal, Dev.fset_cal]
    rfl
  · rw [refWeak, Dev.raise_cad, Dev.fset_cad, Dev.fset_cad, Dev.fset_cad]
    rfl

theorem vrefShown_error (d : Dev) {e : Int} (low : -32768 ≤ e) (high : e ≤ 32767) :
    signed 16 (((vrefShown d e).rd Reg.CAL_VREF).get 15 0) = e := by
  rw [vrefShown, Dev.rd_wr_same, Word.get_put_same _ _ (by decide) (by decide)]
  exact signed_unsigned_16 low high

theorem wr_frame (d : Dev) (a : Nat) (w : Word) : d.wr a w = { d with regs := (d.wr a w).regs } := rfl

theorem vrefShown_frame (d : Dev) (e : Int) : vrefShown d e = { d with regs := (vrefShown d e).regs } := wr_frame ..

theorem vrefShown_bad (d : Dev) (e : Int) : ((vrefShown d e).rd Reg.CAL_VREF).bit 31 = decide (5000 < e.natAbs) := by
  rw [vrefShown, Dev.rd_wr_same, bit_put _ _ (by decide) (by decide) (by decide), if_neg (by decide), bit_put_same _ _ (by decide)]
  cases decide (5000 < e.natAbs) <;> rfl

theorem sameRegs_vrefShown (d : Dev) (e : Int) : SameRegsBut [Reg.CAL_VREF] d (vrefShown d e) := sameRegs_wr d _ List.mem_cons_self

/-- The averages that an estimate leaves are those of R201. -/
theorem taken_figures (c : CalDir) (x : CalEst) (w now : Nat) :
    (c.taken x true w now).gain = (if c.hist = [] then x.gain * 1048576 else c.gain + (x.gain * 1048576 - c.gain) / 2 ^ w) ∧
    (c.taken x true w now).phase = (if c.hist = [] then x.phase * 1048576 else c.phase + (x.phase * 1048576 - c.phase) / 2 ^ w) ∧
    (c.taken x true w now).delay = (if c.hist = [] then x.delay * 1048576 else c.delay + (x.delay * 1048576 - c.delay) / 2 ^ w) := by
  cases none : c.hist <;> simp [CalDir.taken, none, average, avgScale]

/-- An estimate that enters, with what its path is then owed. -/
theorem outEnters (s : State) (m : CalMeasure) (runs : s.dev.measures (tileOf m.path) m.route = true) (open_ : s.dev.measurable m = true)
    (route : m.route = 0) (near : (s.dev.cal.path[m.path]).rx.discards (estOf m) true = false)
    (enters : s.dev.calHeld = true ∨ s.dev.ticking = true) :
    ∃ d, Leads s (.calMeasurementDone m) d ∧ (d.cal.path[m.path]).tx = (s.dev.cal.path[m.path]).tx ∧ ∃ first high,
      let c := { s.dev.cal.path[m.path].rx.taken (estOf m) true (s.dev.fget Reg.CAL_CFG 3 0) s.dev.time.cycle with first := first, high := high }
      (s.dev.calHeld = true → d.cal.path[m.path].rx = c) ∧
      (s.dev.calHeld = false → d.cal.path[m.path].rx =
        { c with owedGain := -(rounded c.gain), owedPhase := -(rounded c.phase), owedDelay := -(dlyUnits (rounded c.delay)) }) := by
  have row : Leads s (.calMeasurementDone m) (s.dev.measured m) := leads_of_onCommit (f := fun d => d.measured m) rfl
  rw [measured_out runs open_ route, estimate_enters false near] at row
  obtain ⟨first, high, rx⟩ := estimated_rx s.dev m.path (estOf m) true
  obtain ⟨tx, held, ticks⟩ := estimated_rest s.dev m.path (estOf m) true
  by_cases owns : s.dev.calHeld = true
  · rw [correctPath_held false (held.trans owns)] at row
    exact ⟨_, row, tx, first, high, fun _ => rx, fun free => by rw [owns] at free; cases free⟩
  · have free := Bool.not_eq_true _ ▸ owns
    rw [correctPath_owes (held.trans free) (ticks.trans (enters.resolve_left owns))] at row
    refine ⟨_, row, ?_, first, high, fun own => absurd own owns, fun _ => ?_⟩
    · exact (modCalDir_tx ..).trans tx
    · rw [modCalDir_rx, rx]

theorem vrefJudged (s : State) (e : Int) (low : -32768 ≤ e) (high : e ≤ 32767) :
    (e.natAbs ≤ 5000 → ∃ d, Leads s (.vrefCheck e) d ∧ (d.rd Reg.CAL_VREF).bit 31 = false ∧
      signed 16 ((d.rd Reg.CAL_VREF).get 15 0) = e ∧ SameRegsBut [Reg.CAL_VREF] s.dev d ∧ d = { s.dev with regs := d.regs }) ∧
    (5000 < e.natAbs → ∃ d, Leads s (.vrefCheck e) (d.report 217) ∧ (d.rd Reg.CAL_VREF).bit 31 = true ∧ Set d Reg.CAL_EVT 5 ∧
      signed 16 ((d.rd Reg.CAL_VREF).get 15 0) = e ∧ SameRegsBut [Reg.CAL_VREF, Reg.CAL_EVT] s.dev d) := by
  have checks : Leads s (.vrefCheck e) (s.dev.vrefCheck e) := leads_of_onCommit (f := fun d => d.vrefCheck e) rfl
  constructor
  · intro good
    rw [vrefCheck_good good] at checks
    exact ⟨_, checks, (vrefShown_bad ..).trans (decide_eq_false (by omega)), vrefShown_error _ low high, sameRegs_vrefShown _ _,
      vrefShown_frame ..⟩
  · intro bad
    rw [vrefCheck_bad bad] at checks
    have same := Dev.rd_raise_ne (vrefShown s.dev e) (a := Reg.CAL_EVT) 5 (show Reg.CAL_VREF ≠ Reg.CAL_EVT by decide)
    refine ⟨_, checks, ?_, set_raise _ (by decide), ?_, ?_⟩
    · rw [same, vrefShown_bad, decide_eq_true bad]
    · rw [same, vrefShown_error _ low high]
    · exact ((sameRegs_vrefShown _ _).mono (by simp)).trans (sameRegs_raise _ _ (by simp))

theorem ageRaised (s : State) (p : Fin 64) (tx : Bool) :
    (s.dev.estStale p tx = true → ∃ d, Makes s (.calPathStale p tx) d ∧ Set d Reg.CAL_EVT 6 ∧ SameRegsBut [Reg.CAL_EVT] s.dev d) ∧
    (s.dev.estStale p tx = false → Makes s (.calPathStale p tx) s.dev) := by
  have ages : Makes s (.calPathStale p tx) (if s.dev.estStale p tx then s.dev.raise Reg.CAL_EVT 6 else s.dev) :=
    makes_of_onDev (f := fun d => if d.estStale p tx then d.raise Reg.CAL_EVT 6 else d) rfl
  constructor
  · intro old
    rw [if_pos old] at ages
    exact ⟨_, ages, set_raise _ (by decide), sameRegs_raise _ _ List.mem_cons_self⟩
  · intro fresh
    rwa [if_neg (by rw [fresh]; decide)] at ages

theorem calMeasures : CalMeasures := by
  intro s m
  dsimp only
  have row : Leads s (.calMeasurementDone m) (s.dev.measured m) := leads_of_onCommit (f := fun d => d.measured m) rfl
  refine ⟨fun out => by rwa [measured_nothing out] at row, fun ⟨runs, open_⟩ route far => ?_, fun ⟨runs, open_⟩ route near enters => ?_,
    fun ⟨runs, open_⟩ route low => ?_, vrefJudged s, ageRaised s⟩
  · rwa [measured_out runs open_ route, estimate_outlier false far] at row
  · obtain ⟨d, leads, tx, first, high, owned, free⟩ := outEnters s m runs open_ route near enters
    obtain ⟨gain, phase, delay⟩ := taken_figures s.dev.cal.path[m.path].rx (estOf m) (s.dev.fget Reg.CAL_CFG 3 0) s.dev.time.cycle
    obtain ⟨owedGain, owedPhase, owedDelay⟩ :=
      CalDir.taken_owed s.dev.cal.path[m.path].rx (estOf m) true (s.dev.fget Reg.CAL_CFG 3 0) s.dev.time.cycle
    refine ⟨d, leads, ?_⟩
    cases owns : s.dev.calHeld with
    | true =>
      rw [owned owns]
      exact ⟨gain, phase, delay, rfl, rfl, tx, fun _ => ⟨owedGain, owedPhase, owedDelay⟩, fun none => absurd none (by decide)⟩
    | false =>
      rw [free owns]
      exact ⟨gain, phase, delay, rfl, rfl, tx, fun none => absurd none (by decide), fun _ => ⟨rfl, rfl, rfl⟩⟩
  · rw [measured_ref runs open_ route] at row
    obtain ⟨g, x, y, is⟩ := measureRef_weak (d := s.dev) (t := tileOf m.path) low
    obtain ⟨weak, raises, regs, path, cad⟩ := refWeak_parts s.dev (tileOf m.path) g x y
    rw [is] at row
    exact ⟨_, row, weak, raises, regs, path, cad⟩

end

end Sys2Proof.Cert

/-! PROOFS. Calibration (O54, third part): on-request calibrations, snapshots and restores. -/

namespace Sys2Proof.Machine

section

variable {d : Dev} {t : Fin 4} {r : CalReq} {e : Int}

/-! ### The calibration that runs alone -/

theorem runs_find (one : d.cal.runs = [r]) (q : CalReq → Bool) (is : q r = true) : d.cal.runs.find? q = some r := by
  rw [one, List.find?_cons_of_pos is]

theorem portHolder_one (one : d.cal.runs = [r]) (code : 5 ≤ r.code) (now : r.deferred.testBit t.val = false) (left : r.left.testBit t.val = true) :
    d.portHolder t = some r := runs_find one _ (by rw [left, now, decide_eq_true code]; rfl)

theorem startQueued_none (empty : d.cal.queue = []) : d.startQueued = d := by
  unfold Dev.startQueued
  rw [empty]
  rfl

/-! ### The codes of a filter calibration (Table 7.7) -/

/-- A path's filter code, drawn free, waits for its path to be idle. -/
def filterItem (d : Dev) (p : Fin 64) : IdleItem :=
  { kind := 1, index := p.val, words := [], codes := [(0, (d.draw 1).1.getD 0 0)], restore := false }

/-- A path's filter code joins the corrections that wait. -/
def filterFound (d : Dev) (p : Fin 64) : Dev := (d.draw 1).2.addIdle (filterItem d p)

/-- What identifies an idle-class correction: its kind, its unit, and whether a restore brings it. -/
def IdleItem.named (x : IdleItem) : Nat × Nat × Bool := (x.kind, x.index, x.restore)

theorem filtersFound (l : List (Fin 64)) (d : Dev) : ∃ ys : List IdleItem, ys.map IdleItem.named = l.map (fun p => (1, p.val, false)) ∧
    l.foldl filterFound d = { d with freeCtr := d.freeCtr + l.length, cal := { d.cal with idle := d.cal.idle ++ ys } } := by
  induction l generalizing d with
  | nil => exact ⟨[], rfl, by simp⟩
  | cons p l ih =>
    obtain ⟨ys, named, is⟩ := ih (filterFound d p)
    refine ⟨filterItem d p :: ys, by rw [List.map_cons, List.map_cons, named]; rfl, is.trans ?_⟩
    simp only [filterFound, Dev.draw, Dev.addIdle, List.length_cons, List.append_assoc, List.singleton_append, Nat.add_assoc, Nat.add_comm l.length 1]

theorem calResult_filters (d : Dev) (t : Fin 4) : ∃ ys : List IdleItem, ys.map IdleItem.named = (pathsOf t).map (fun p => (1, p.val, false)) ∧
    d.calResult 2 t = { d with freeCtr := d.freeCtr + 16, cal := { d.cal with idle := d.cal.idle ++ ys } } := by
  have sixteen : (pathsOf t).length = 16 := by simp [pathsOf]
  have folds := filtersFound (pathsOf t) d
  rw [sixteen] at folds
  exact folds

/-- A running calibration with one tile less to go. -/
def CalReq.tileDone (r : CalReq) (t : Fin 4) (e ofs : Int) : CalReq := { r with left := r.left - 2 ^ t.val, terr := r.terr + (e - ofs) }

/-- The calibrations that run are `rs`. -/
def runsNow (d : Dev) (rs : List CalReq) : Dev := { d with cal := { d.cal with runs := rs } }

theorem runsNow_regs (d : Dev) (rs : List CalReq) : (runsNow d rs).regs = d.regs := rfl

/-- The end of a calibration that is not inter-device alignment. -/
def calEnded (d : Dev) (r : CalReq) : Dev := ((runsNow d []).raise Reg.CAL_EVT 0).endCmd r.cmd 0 [0]

theorem calDone_one {f : Dev} (is : d.calResult r.code t = f) (one : d.cal.runs = [r]) (local_ : r.code ≠ 7)
    (now : r.deferred.testBit t.val = false) (left : r.left.testBit t.val = true) (free : f.cal.restore = none) (kept : f.cal.runs = [r]) :
    d.calDone t e =
      if r.left - 2 ^ t.val ≠ 0 then runsNow f [r.tileDone t e (signed 32 (f.rd (Reg.CAL_REFOFS_B t.val)).toNat)]
      else (calEnded f r).startQueued := by
  unfold Dev.calDone
  rw [runs_find one _ (by rw [left, now]; rfl)]
  dsimp only
  rw [is, free]
  simp only [Option.isSome_none, Bool.false_eq_true, if_false, kept, List.map_cons, List.map_nil, beq_self_eq_true, if_true,
    List.filter_cons, List.filter_nil, bne_self_eq_false, if_neg local_]
  rfl

/-! ### The timeout of a calibration (R203) -/

/-- A calibration that ran alone is aborted. -/
def calAborted (d : Dev) (r : CalReq) : Dev :=
  ((((runsNow d []).fset Reg.CAL_STATUS 19 16 r.left).raise Reg.CAL_EVT 1).endCmd r.cmd 0x31 [BitVec.ofNat 32 r.left])

theorem abortCal_one (one : d.cal.runs = [r]) : d.abortCal r = (calAborted d r).startQueued := by
  have gone : d.cal.runs.filter (· != r) = [] := by simp [one]
  unfold Dev.abortCal
  rw [gone]
  rfl

theorem calTimeout_early (holds : d.portHolder t = some r) (early : d.time.cycle < r.at_ + 49152000 * max 1 ((d.rd Reg.CAL_CFG).get 23 16)) :
    d.calTimeout t = d := by
  unfold Dev.calTimeout
  rw [holds]
  exact if_pos early

theorem calTimeout_due (holds : d.portHolder t = some r) (due : r.at_ + 49152000 * max 1 ((d.rd Reg.CAL_CFG).get 23 16) ≤ d.time.cycle) :
    d.calTimeout t = d.abortCal r := by
  unfold Dev.calTimeout
  rw [holds]
  exact if_neg (Nat.not_lt.mpr due)

/-! ### Snapshot and restore (R212, R213) -/

/-- A snapshot is over. -/
def snapOver (d : Dev) : Dev := ({ d with cal := { d.cal with snap := none } } : Dev).raise Reg.CAL_EVT 8

theorem spoilOverlaps_none (m : Mem) (id : Nat) (apart : d.drunas.clash = []) : spoilOverlaps d m id = (d, m) := by
  unfold spoilOverlaps
  rw [apart]
  rfl

theorem snapshotDone_image {x : Snapshot} {img : List Byte} (m : Mem) (is : d.cal.snap = some x) (image : x.image = some img) :
    snapshotDone d m = ((snapOver d).endCmd x.cmd 0 [BitVec.ofNat 32 img.length], Mem.setBytes m x.base img) := by
  unfold snapshotDone
  rw [is]
  dsimp only
  rw [image]
  rfl

theorem snapshotEnds_image {x : Snapshot} {img : List Byte} (m : Mem) (is : d.cal.snap = some x) (image : x.image = some img)
    (apart : d.drunas.clash = []) :
    snapshotEnds d m = ((snapOver d).endCmd x.cmd 0 [BitVec.ofNat 32 img.length], Mem.setBytes m x.base img) := by
  unfold snapshotEnds
  rw [is]
  dsimp only
  rw [snapshotDone_image m is image]
  dsimp only
  split
  · rw [spoilOverlaps_none _ _ apart, Nat.sub_self]
    rfl
  · rfl

/-- No restore is in progress. -/
def restoreOver (d : Dev) : Dev := { d with cal := { d.cal with restore := none, mixed := [] } }

theorem restoreDone_all {c : Option Nat} (is : d.cal.restore = some c) (mixed : d.cal.mixed = []) (idle : d.cal.idle.all (fun x => !x.restore) = true)
    (due : d.cad.running = true → d.cal.restoreLand ≤ d.cad.tickIdx) :
    d.restoreDone = (restoreOver d).endCmd c 0 [BitVec.ofNat 32 d.cal.restoreN] := by
  have landed : (d.cal.idle.any (·.restore) || (d.cad.running && decide (d.cad.tickIdx < d.cal.restoreLand))) = false := by
    rw [Bool.or_eq_false_iff]
    refine ⟨?_, ?_⟩
    · simpa using idle
    · cases run : d.cad.running
      · rfl
      · simpa using due run
  unfold Dev.restoreDone
  rw [is]
  dsimp only
  rw [landed, mixed]
  rfl

end

end Sys2Proof.Machine

/-! PROOFS. Calibration (O54, last part): how its work ends, as the rows state it. -/

namespace Sys2Proof.Cert

open Sys2Proof.Machine

section

variable {s : State} {d : Dev} {t : Fin 4} {r : CalReq} {e : Int}

/-- The working command that an operation ends has its verdict. -/
theorem endCmd_given {c : Cmd} (d : Dev) {id : Option Nat} (n : Nat) (rs : List Word) (mem : c ∈ d.drunas.cmds) (own : id = some c.id)
    (works : c.verdict = none) : { c with verdict := some n, results := rs } ∈ (d.endCmd id n rs).drunas.cmds := by
  subst own
  refine List.mem_map.mpr ⟨c, mem, if_pos ⟨rfl, ?_⟩⟩
  rw [works]
  rfl

theorem testBit_le {n k : Nat} (bit : n.testBit k = true) : 2 ^ k ≤ n := Nat.ge_two_pow_of_testBit bit

theorem calEnded_parts (f : Dev) (r : CalReq) : (calEnded f r).cal = (runsNow f []).cal ∧ (calEnded f r).freeCtr = f.freeCtr ∧
    Set (calEnded f r) Reg.CAL_EVT 0 ∧ SameRegsBut [Reg.CAL_EVT] f (calEnded f r) ∧
    ∀ c ∈ f.drunas.cmds, r.cmd = some c.id → c.verdict = none → { c with verdict := some 0, results := [0] } ∈ (calEnded f r).drunas.cmds := by
  have regs : SameRegsBut [Reg.CAL_EVT] f ((runsNow f []).raise Reg.CAL_EVT 0) :=
    SameRegsBut.trans (.of_regs (runsNow_regs f [])) (sameRegs_raise _ _ List.mem_cons_self)
  refine ⟨?_, ?_, ?_, ?_, fun c mem own works => endCmd_given _ 0 [0] ?_ own works⟩
  · rw [calEnded, Dev.endCmd_cal, Dev.raise_cal]
  · rw [calEnded, Dev.endCmd_freeCtr, Dev.raise_freeCtr]
    rfl
  · exact (set_raise _ (by decide)).of_regs (Dev.endCmd_regs ..)
  · exact regs.congr (Dev.endCmd_regs ..)
  · rw [Dev.raise_drunas]
    exact mem

theorem filterRunEnds (one : s.dev.cal.runs = [r]) (empty : s.dev.cal.queue = []) (free : s.dev.cal.restore = none) (code : r.code = 2)
    (now : r.deferred.testBit t.val = false) (left : r.left.testBit t.val = true) :
    ∃ d, Leads s (.calRunDone t e) d ∧
      d.cal.idle.map IdleItem.named = s.dev.cal.idle.map IdleItem.named ++ (pathsOf t).map (fun p => (1, p.val, false)) ∧
      d.freeCtr = s.dev.freeCtr + 16 ∧
      (r.left ≠ 2 ^ t.val → d.cal.runs = [r.tileDone t e (signed 32 (s.dev.rd (Reg.CAL_REFOFS_B t.val)).toNat)] ∧ d.regs = s.dev.regs ∧
        d.drunas = s.dev.drunas) ∧
      (r.left = 2 ^ t.val → d.cal.runs = [] ∧ Set d Reg.CAL_EVT 0 ∧ SameRegsBut [Reg.CAL_EVT] s.dev d ∧
        ∀ c ∈ s.dev.drunas.cmds, r.cmd = some c.id → c.verdict = none → { c with verdict := some 0, results := [0] } ∈ d.drunas.cmds) := by
  have row : Leads s (.calRunDone t e) (s.dev.calDone t e) := leads_of_onCommit (f := fun d => d.calDone t e) rfl
  obtain ⟨ys, named, is⟩ := calResult_filters s.dev t
  have result := is
  rw [← code] at result
  rw [calDone_one result one (by rw [code]; decide) now left free one] at row
  have large := testBit_le left
  by_cases last : r.left = 2 ^ t.val
  · rw [if_neg (by omega)] at row
    obtain ⟨cal, ctr, raises, regs, cmds⟩ :=
      calEnded_parts { s.dev with freeCtr := s.dev.freeCtr + 16, cal := { s.dev.cal with idle := s.dev.cal.idle ++ ys } } r
    rw [startQueued_none (by rw [cal]; exact empty)] at row
    refine ⟨_, row, ?_, ctr, fun more => absurd last more, fun _ => ⟨by rw [cal]; rfl, raises, regs, cmds⟩⟩
    rw [cal]
    exact (List.map_append ..).trans (by rw [named])
  · rw [if_pos (by omega)] at row
    refine ⟨_, row, ?_, rfl, fun _ => ⟨rfl, rfl, rfl⟩, fun all => absurd all last⟩
    exact (List.map_append ..).trans (by rw [named])

/-- What waits for the calibrations on a tile: the measurement that ends one of them. -/
def endsOn (t : Fin 4) (c : Instr) : Bool := match c with | .calRunDone u _ => u == t | _ => false

theorem calAborted_parts (d : Dev) (r : CalReq) (low : r.left < 16) : (calAborted d r).cal = (runsNow d []).cal ∧
    Set (calAborted d r) Reg.CAL_EVT 1 ∧ ((calAborted d r).rd Reg.CAL_STATUS).get 19 16 = r.left ∧
    SameRegsBut [Reg.CAL_STATUS, Reg.CAL_EVT] d (calAborted d r) ∧
    ∀ c ∈ d.drunas.cmds, r.cmd = some c.id → c.verdict = none →
      { c with verdict := some 0x31, results := [BitVec.ofNat 32 r.left] } ∈ (calAborted d r).drunas.cmds := by
  have regs : SameRegsBut [Reg.CAL_STATUS, Reg.CAL_EVT] d (((runsNow d []).fset Reg.CAL_STATUS 19 16 r.left).raise Reg.CAL_EVT 1) :=
    (SameRegsBut.trans (.of_regs (runsNow_regs d [])) (sameRegs_fset _ 19 16 _ List.mem_cons_self)).trans (sameRegs_raise _ _ (by simp))
  refine ⟨?_, ?_, ?_, ?_, fun c mem own works => endCmd_given _ _ _ ?_ own works⟩
  · rw [calAborted, Dev.endCmd_cal, Dev.raise_cal, Dev.fset_cal]
  · exact (set_raise _ (by decide)).of_regs (Dev.endCmd_regs ..)
  · rw [calAborted, Dev.rd_of_regs (Dev.endCmd_regs ..), Dev.rd_raise_ne _ _ (by decide), Dev.fset, Dev.rd_wr_same,
      Word.get_put_same _ _ (by decide) (by decide)]
    exact Nat.mod_eq_of_lt low
  · exact regs.congr (Dev.endCmd_regs ..)
  · rw [Dev.raise_drunas, Dev.fset_drunas]
    exact mem

theorem calRunTimeout_row (s : State) (t : Fin 4) : exec (.calRunTimeout t) s = unlessNow s (endsOn t) (onCommit s fun d => d.calTimeout t) := rfl

theorem calRunEnds (s : State) (t : Fin 4) (r : CalReq) (one : s.dev.cal.runs = [r]) (empty : s.dev.cal.queue = []) (code : 5 ≤ r.code)
    (now : r.deferred.testBit t.val = false) (left : r.left.testBit t.val = true) (low : r.left < 16) :
    YieldsTo s (.calRunTimeout t) (endsOn t) ∧
    (s.dev.time.cycle < r.at_ + 49152000 * max 1 ((s.dev.rd Reg.CAL_CFG).get 23 16) →
      Leads s (.calRunTimeout t) s.dev ∨ ArrivesNow s (endsOn t)) ∧
    (¬ ArrivesNow s (endsOn t) → r.at_ + 49152000 * max 1 ((s.dev.rd Reg.CAL_CFG).get 23 16) ≤ s.dev.time.cycle →
      Leads s (.calRunTimeout t) (calAborted s.dev r)) := by
  have holds := portHolder_one one code now left
  have row : ¬ ArrivesNow s (endsOn t) → Leads s (.calRunTimeout t) (s.dev.calTimeout t) := fun alone =>
    leads_of_onCommit (f := fun d => d.calTimeout t) ((calRunTimeout_row s t).trans (unlessNow_else _ _ _ alone))
  refine ⟨fun arrives => (calRunTimeout_row s t).trans (unlessNow_arrives _ _ _ arrives), fun early => ?_, fun alone due => ?_⟩
  · by_cases arrives : ArrivesNow s (endsOn t)
    · exact .inr arrives
    · have leads := row arrives
      rw [calTimeout_early holds early] at leads
      exact .inl leads
  · have leads := row alone
    rw [calTimeout_due holds due, abortCal_one one, startQueued_none (by rw [(calAborted_parts s.dev r low).1]; exact empty)] at leads
    exact leads

theorem snapshotWritten (s : State) (x : Snapshot) (img : List Byte) (is : s.dev.cal.snap = some x) (image : x.image = some img)
    (apart : s.dev.drunas.clash = []) :
    ∃ d m, exec .snapshotDone s = .next (after s (d, m)) ∧ d.cal.snap = none ∧ Set d Reg.CAL_EVT 8 ∧ SameRegsBut [Reg.CAL_EVT] s.dev d ∧
      (∀ i, i < img.length → Mem.get m (x.base + i) = img.getD i 0) ∧
      ∀ b, (b < x.base ∨ x.base + img.length ≤ b) → Mem.get m b = Mem.get s.mem b := by
  have ends := snapshotEnds_image s.mem is image apart
  have row : exec .snapshotDone s = .next (after s (snapshotEnds s.dev s.mem)) := rfl
  rw [ends] at row
  have regs : SameRegsBut [Reg.CAL_EVT] s.dev (snapOver s.dev) := SameRegsBut.trans (.of_regs rfl) (sameRegs_raise _ _ List.mem_cons_self)
  refine ⟨_, _, row, ?_, ?_, regs.congr (Dev.endCmd_regs ..), fun i inside => ?_, fun b out => Mem.get_setBytes_out _ _ _ _ out⟩
  · rw [Dev.endCmd_cal, snapOver, Dev.raise_cal]
  · exact (set_raise _ (by decide)).of_regs (Dev.endCmd_regs ..)
  · rw [Mem.get_setBytes_in _ _ _ _ inside]
    simp [inside]

theorem calWorkEnds : CalWorkEnds := by
  intro s t r e free
  refine ⟨fun one empty code now left => filterRunEnds one empty free code now left, fun one empty code now left low => ?_, snapshotWritten s⟩
  obtain ⟨yields, early, due⟩ := calRunEnds s t r one empty code now left low
  obtain ⟨cal, raises, status, regs, cmds⟩ := calAborted_parts s.dev r low
  exact ⟨yields, early, fun alone late => ⟨_, due alone late, by rw [cal]; rfl, raises, status, regs, cmds⟩⟩

theorem calRestoreEnds : CalRestoreEnds := by
  intro s c is mixed idle due
  have row : Leads s .restoreDone s.dev.restoreDone := leads_of_onCommit (f := Dev.restoreDone) rfl
  rw [restoreDone_all is mixed idle due] at row
  refine ⟨_, row, ?_, Dev.endCmd_regs .., fun x mem own works => endCmd_given (restoreOver s.dev) 0 _ mem own works⟩
  simp only [Dev.endCmd_cal, restoreOver, mixed]

/-- Settles O54: each row is read off the branch of its operation that its hypotheses name. -/
theorem calibrationActs : Obligations.CalibrationActs := ⟨calMeasures, calWorkEnds, calRestoreEnds⟩

end

end Sys2Proof.Cert

/-! PROOFS. The clock of the cadence unit: what units, landing changes and settling leave of it. -/

namespace Sys2Proof.Machine

/-- `e` has the cadence unit of `d` but for the changes that wait: its ticks, its edges and the state of its RUN bit. -/
def SameClock (d e : Dev) : Prop := ∃ cs, e.cad = { d.cad with changes := cs }

section

variable {d e f : Dev}

theorem SameClock.refl (d : Dev) : SameClock d d := ⟨d.cad.changes, rfl⟩

/-- First `d` becomes `e`, and after that `e` becomes `f`. -/
theorem SameClock.after (second : SameClock e f) (first : SameClock d e) : SameClock d f := by
  obtain ⟨cs, is⟩ := second
  obtain ⟨cs', was⟩ := first
  exact ⟨cs, by rw [is, was]⟩

theorem SameClock.of_cad (same : e.cad = d.cad) : SameClock d e := ⟨d.cad.changes, same⟩

theorem SameClock.of_changes {cs : List Change} (same : e.cad = { d.cad with changes := cs }) : SameClock d e := ⟨cs, same⟩

theorem SameClock.via (same : f.cad = e.cad) (first : SameClock d e) : SameClock d f := .after (.of_cad same) first

variable {regs inforce staged : List (Nat × Word)} {tiles : Vector Tile 4} {paths : Vector PathSt 64} {relief : Vector ReliefTile 4}
  {sump : Sump} {spi : Spi} {derrick : Derrick} {check : CheckUnit} {power : Power} {sec : Sec} {drunas : Drunas} {time : TimeUnit}
  {lanes : Vector Lane 8} {link : Link} {chisel : Chisel} {beam : Beam} {dpd : Dpd} {cal : Cal} {bias : Bias} {sig : Datapath}
  {rises : List Rise} {same : SameCycle} {freeCtr : Nat} {cs : List Change}

/-- What stands beside the cadence unit is replaced. -/
theorem SameClock.beside (first : SameClock d e) : SameClock d (Dev.mk regs inforce staged e.cad tiles paths relief sump spi derrick check
    power sec drunas time lanes link chisel beam dpd cal bias sig rises same freeCtr) := first

/-- The changes that wait are replaced. -/
theorem SameClock.waiting (first : SameClock d e) : SameClock d (Dev.mk regs inforce staged { e.cad with changes := cs } tiles paths relief
    sump spi derrick check power sec drunas time lanes link chisel beam dpd cal bias sig rises same freeCtr) :=
  .after ⟨cs, rfl⟩ first

theorem SameClock.ite {c : Prop} [Decidable c] (yes : SameClock d e) (no : SameClock d f) : SameClock d (if c then e else f) := by
  split
  · exact yes
  · exact no

theorem SameClock.ite_fst {α : Type} {c : Prop} [Decidable c] {x y : Dev × α} (yes : SameClock d x.1) (no : SameClock d y.1) :
    SameClock d (if c then x else y).1 := by
  split
  · exact yes
  · exact no

theorem SameClock.foldl {α : Type} {g : Dev → α → Dev} (each : ∀ d a, SameClock d (g d a)) (l : List α) (d : Dev) :
    SameClock d (l.foldl g d) := by
  induction l generalizing d with
  | nil => exact .refl d
  | cons a l ih => exact (ih (g d a)).after (each d a)

theorem SameClock.foldl_mem {α β : Type} {g : Dev × β → α → Dev × β} (each : ∀ x a, SameClock x.1 (g x a).1) (l : List α) (x : Dev × β) :
    SameClock x.1 (l.foldl g x).1 := by
  induction l generalizing x with
  | nil => exact .refl x.1
  | cons a l ih => exact (ih (g x a)).after (each x a)

end

theorem sameClock_noteMark (d : Dev) (p : Fin 64) (a b : Nat) : SameClock d (d.noteMark p a b) := .of_cad rfl

theorem sameClock_modTile (d : Dev) (t : Fin 4) (f : Tile → Tile) : SameClock d (d.modTile t f) := .of_cad (Dev.modTile_cad ..)

theorem sameClock_closeLo (d : Dev) : SameClock d d.closeLo :=
  .foldl (fun _ _ => .ite (.refl _) (.after (sameClock_modTile ..) (.foldl (fun _ _ => .foldl (fun _ _ => sameClock_noteMark ..) _ _) _
    _))) _ _

theorem sameClock_closeSymbol (d : Dev) : SameClock d d.closeSymbol :=
  .ite (.refl _) (.after (.beside (.refl _)) (sameClock_closeLo ..))

theorem sameClock_noteSet (d : Dev) (a : Nat) (m : Word) : SameClock d (d.noteSet a m) := .of_cad (Dev.noteSet_cad ..)

theorem sameClock_wr (d : Dev) (a : Nat) (w : Word) : SameClock d (d.wr a w) := .of_cad (Dev.wr_cad ..)

theorem sameClock_raise (d : Dev) (a bit : Nat) : SameClock d (d.raise a bit) := .of_cad (Dev.raise_cad ..)

theorem sameClock_setInf (d : Dev) (a : Nat) (w m : Word) : SameClock d (d.setInf a w m) := .of_cad (Dev.setInf_cad ..)

theorem sameClock_landWords (d : Dev) (c : Change) (mask : Nat → Word) : SameClock d (d.landWords c mask) :=
  .foldl (fun _ _ => sameClock_setInf ..) _ _

theorem sameClock_solverAbandon (d : Dev) : SameClock d d.solverAbandon := .of_cad rfl

theorem sameClock_fset (d : Dev) (a hi lo n : Nat) : SameClock d (d.fset a hi lo n) := .of_cad (Dev.fset_cad ..)

theorem sameClock_disableCar (d : Dev) (c : Nat) : SameClock d (d.disableCar c) := .after (sameClock_setInf ..) (sameClock_fset ..)

theorem sameClock_configError (d : Dev) : SameClock d d.configError := .after (sameClock_raise ..) (.beside (.refl _))

theorem sameClock_disableMore (l : List Nat) (x : Dev × Bool) : SameClock x.1
    (l.foldl (fun (x : Dev × Bool) c => if x.1.beamValid || !x.1.carOn c then x else (x.1.disableCar c, true)) x).1 :=
  .foldl_mem (fun x c => by
    split
    · exact .refl _
    · exact sameClock_disableCar ..) l x

theorem sameClock_muDisable (d : Dev) : SameClock d d.muDisable := by
  unfold Dev.muDisable
  generalize ([3, 2, 1, 0] : List Nat) = order
  exact .after (.ite (.refl _) (sameClock_configError ..)) (.after (sameClock_disableMore order (_, false)) (.foldl sameClock_disableCar ..))

theorem sameClock_landCadence (d : Dev) (c : Change) : SameClock d (d.landCadence c) :=
  .after (.after (.ite (.refl _) (.after (sameClock_solverAbandon ..) (sameClock_muDisable ..))) (.ite (sameClock_raise ..) (.refl _)))
    (.after (sameClock_raise ..) (sameClock_landWords ..))

theorem sameClock_noteCount (d : Dev) (a lo n : Nat) : SameClock d (d.noteCount a lo n) := .of_cad (Dev.noteCount_cad ..)

theorem sameClock_publish (d : Dev) (resid : Nat) (wasLag : Int) : SameClock d (d.publish resid wasLag) :=
  .after (.after (.ite (sameClock_raise ..) (.refl _)) (.ite (sameClock_raise ..) (.refl _))) (.after (sameClock_noteCount ..) (.after
    (sameClock_wr ..) (.after (sameClock_wr ..) (.after (sameClock_wr ..) (.after (sameClock_wr ..) (sameClock_wr ..))))))

theorem sameClock_countBy (d : Dev) (a hi lo n : Nat) : SameClock d (d.countBy a hi lo n) := .of_cad (Dev.countBy_cad ..)

theorem sameClock_count (d : Dev) (a hi lo : Nat) : SameClock d (d.count a hi lo) := .of_cad (Dev.count_cad ..)

theorem sameClock_count32 (d : Dev) (a : Nat) : SameClock d (d.count32 a) := .of_cad (Dev.count32_cad ..)

theorem sameClock_landBank (d : Dev) (ul bank : Bool) : SameClock d (d.landBank ul bank) :=
  .ite (.beside (.refl _)) (.ite (.after (sameClock_raise ..) (.after (sameClock_count32 ..) (.beside (.refl _)))) (.beside (.refl _)))

theorem sameClock_modOrx (d : Dev) (k : Fin 16) (f : Orx → Orx) : SameClock d (d.modOrx k f) := .of_cad (Dev.modOrx_cad ..)

theorem sameClock_spoil (d : Dev) (p : Fin 64) : SameClock d (d.spoil p) := sameClock_modOrx ..

theorem sameClock_modDpd (d : Dev) (p : Fin 64) (f : DpdPath → DpdPath) : SameClock d (d.modDpd p f) := .of_cad (Dev.modDpd_cad ..)

theorem sameClock_dpdMoves (d : Dev) (p : Fin 64) : SameClock d (d.dpdMoves p) := .after (sameClock_spoil ..) (sameClock_modDpd ..)

theorem sameClock_landPage (d : Dev) (p : Fin 64) (bank : Nat) : SameClock d (d.landPage p bank) :=
  .after (sameClock_dpdMoves ..) (sameClock_modDpd ..)

theorem sameClock_landBlended (d : Dev) (c : Change) : SameClock d (d.landBlended c) := by
  unfold Dev.landBlended
  dsimp only
  split
  · exact .after (sameClock_landBank ..) (sameClock_landWords ..)
  · exact sameClock_landPage ..
  · exact sameClock_landWords ..
  · exact sameClock_landWords ..
  · split
    · exact .ite (sameClock_landWords ..) (.after (sameClock_dpdMoves ..) (sameClock_landWords ..))
    · exact .after (sameClock_modTile ..) (sameClock_landWords ..)
    · exact sameClock_landWords ..
  · exact .refl _

theorem sameClock_modPath (d : Dev) (p : Fin 64) (f : PathSt → PathSt) : SameClock d (d.modPath p f) := .of_cad (Dev.modPath_cad ..)

theorem sameClock_healAtTick (d : Dev) (after : Dev) : SameClock d (d.healAtTick after) :=
  .foldl (fun _ _ => .ite (.refl _) (.after (.after (.ite (sameClock_raise ..) (.refl _)) (.foldl (fun _ _ => sameClock_dpdMoves ..) _
    _)) (sameClock_modPath ..))) _ _

theorem sameClock_formDelays (d : Dev) (resid : Nat) : SameClock d (d.formDelays resid) :=
  .foldl (fun _ _ => .after (.after (sameClock_modPath ..) (.ite (sameClock_raise ..) (.refl _))) (.ite (sameClock_raise ..) (.refl _)))
    _ _

theorem sameClock_selectBanks (d : Dev) : SameClock d d.selectBanks :=
  .foldl (fun _ _ => .ite (.refl _) (.after (sameClock_dpdMoves ..) (sameClock_modDpd ..))) _ _

theorem sameClock_startMirror (d : Dev) : SameClock d d.startMirror := .ite (.beside (.refl _)) (.beside (.refl _))

theorem sameClock_mirrorAtTick (d : Dev) : SameClock d d.mirrorAtTick := by
  unfold Dev.mirrorAtTick
  dsimp only
  split
  · exact .ite (.after (sameClock_startMirror ..) (.beside (.refl _))) (.refl _)
  · exact .refl _

theorem sameClock_rescaleAtTick (d : Dev) (m : Mem) : SameClock d (d.rescaleAtTick m) := .ite (sameClock_raise ..) (.refl _)

theorem sameClock_beginPath (d : Dev) (p : Fin 64) (m : Nat) : SameClock d (d.beginPath p m) :=
  .ite (.refl _) (.ite (.after (sameClock_modPath ..) (.ite (sameClock_noteMark ..) (.refl _))) (.ite (sameClock_raise ..) (.ite
    (sameClock_modPath ..) (.after (sameClock_modPath ..) (.ite (sameClock_noteMark ..) (.refl _))))))

theorem sameClock_reenter (d : Dev) : SameClock d d.reenter :=
  .foldl (fun _ _ => .ite (.after (sameClock_beginPath ..) (sameClock_modPath ..)) (.refl _)) _ _

theorem sameClock_openSymbol (d : Dev) : SameClock d d.openSymbol := .of_cad rfl

theorem sameClock_unsettlePath (d : Dev) (p : Fin 64) : SameClock d (d.unsettlePath p) :=
  .after (.ite (.after (sameClock_raise ..) (sameClock_noteMark ..)) (.refl _)) (sameClock_modPath ..)

theorem sameClock_unsettleSymbol (d : Dev) : SameClock d d.unsettleSymbol := .foldl (fun _ _ => sameClock_unsettlePath ..) _ _

theorem sameClock_markCarried (d : Dev) : SameClock d d.markCarried :=
  .foldl (fun _ _ => .after (.ite (sameClock_raise ..) (.refl _)) (.ite (sameClock_noteMark ..) (.refl _))) _ _

theorem sameClock_trackTick (d : Dev) : SameClock d d.trackTick := .ite (.refl _) (.beside (.refl _))

theorem sameClock_modCal (d : Dev) (p : Fin 64) (f : CalPath → CalPath) : SameClock d (d.modCal p f) := .of_cad (Dev.modCal_cad ..)

theorem sameClock_modCalDir (d : Dev) (p : Fin 64) (tx : Bool) (f : CalDir → CalDir) : SameClock d (d.modCalDir p tx f) :=
  sameClock_modCal ..

theorem sameClock_commitAt (d : Dev) (c : Committer) (key : Setting) (words : List (Nat × Word × Word)) (land arg : Nat) : SameClock d
    (d.commitAt c key words land arg) :=
  .waiting (.refl _)

theorem sameClock_commit (d : Dev) (c : Committer) (key : Setting) (words : List (Nat × Word × Word)) (arg : Nat) : SameClock d
    (d.commit c key words arg) :=
  sameClock_commitAt ..

theorem sameClock_stepDly (d : Dev) (p : Fin 64) (tx : Bool) (step : Int) : SameClock d (d.stepDly p tx step) :=
  .ite (.refl _) (.after (sameClock_commit ..) (sameClock_wr ..))

theorem sameClock_stepTrims (d : Dev) (p : Fin 64) (tx : Bool) (mdeg mdb : Int) : SameClock d (d.stepTrims p tx mdeg mdb) :=
  .ite (.refl _) (.foldl (fun _ _ => .after (sameClock_commit ..) (sameClock_wr ..)) _ _)

theorem sameClock_stepOwed (d : Dev) (p : Fin 64) (tx : Bool) : SameClock d (d.stepOwed p tx) :=
  .ite (.refl _) (.ite (sameClock_modCalDir ..) (.after (.after (sameClock_stepDly ..) (sameClock_stepTrims ..)) (sameClock_modCalDir
    ..)))

theorem sameClock_stepAllOwed (d : Dev) : SameClock d d.stepAllOwed :=
  .foldl (fun _ _ => .after (sameClock_stepOwed ..) (sameClock_stepOwed ..)) _ _

theorem sameClock_modCalTile (d : Dev) (t : Fin 4) (f : CalTile → CalTile) : SameClock d (d.modCalTile t f) :=
  .of_cad (Dev.modCalTile_cad ..)

theorem sameClock_closeRoute (d : Dev) (t : Fin 4) : SameClock d (d.closeRoute t) :=
  .after (sameClock_modCalTile ..) (.ite (.beside (.refl _)) (.refl _))

theorem sameClock_openRoute (d : Dev) (after : Dev) (t : Fin 4) (route : Nat) : SameClock d (d.openRoute after t route) :=
  .after (.after (.foldl (fun _ _ => sameClock_unsettlePath ..) _ _) (.ite (.beside (.refl _)) (.refl _))) (sameClock_modCalTile ..)

theorem sameClock_drew (d : Dev) : SameClock d d.drew := .of_cad (Dev.drew_cad ..)

theorem sameClock_routeTick (d : Dev) (after : Dev) (t : Fin 4) : SameClock d (d.routeTick after t) := by
  unfold Dev.routeTick
  dsimp only
  refine .ite ?_ ?_
  · exact sameClock_closeRoute ..
  · split
    · exact .ite (sameClock_closeRoute ..) (.ite (.ite (.after (sameClock_openRoute ..) (sameClock_closeRoute ..)) (sameClock_closeRoute
        ..)) (.after (.ite (.ite (sameClock_openRoute ..) (.refl _)) (.ite (sameClock_openRoute ..) (.ite (sameClock_openRoute ..)
        (.refl _)))) (.after (sameClock_drew ..) (sameClock_closeRoute ..))))
    · exact .ite (sameClock_closeRoute ..) (.ite (.after (sameClock_openRoute ..) (sameClock_closeRoute ..)) (.ite (.after
        (sameClock_modCalTile ..) (.after (sameClock_openRoute ..) (sameClock_closeRoute ..))) (sameClock_closeRoute ..)))

theorem sameClock_calTick (d : Dev) (after : Dev) : SameClock d (d.calTick after) :=
  .after (sameClock_trackTick ..) (.after (sameClock_stepAllOwed ..) (.foldl (fun _ _ => sameClock_routeTick ..) _ _))

theorem sameClock_snapTick (d : Dev) : SameClock d d.snapTick := by
  unfold Dev.snapTick
  dsimp only
  split
  · exact .ite (.beside (.refl _)) (.refl _)
  · exact .refl _

theorem sameClock_biasTouched (d : Dev) : SameClock d d.biasTouched := .of_cad rfl

theorem sameClock_senseTick (d : Dev) (p : Fin 64) : SameClock d (d.senseTick p) :=
  .after (.after (.ite (.after (.ite (.refl _) (.after (sameClock_commit ..) (sameClock_wr ..))) (.ite (sameClock_raise ..) (.refl _)))
    (.refl _)) (.ite (sameClock_fset ..) (.refl _))) (.beside (.refl _))

theorem sameClock_senseAll (d : Dev) : SameClock d d.senseAll :=
  .after (.beside (.refl _)) (.foldl (fun _ _ => .ite (sameClock_senseTick ..) (.refl _)) _ _)

theorem sameClock_addKernel (d : Dev) (k : Kernel) : SameClock d (d.addKernel k) := .of_cad rfl

theorem sameClock_opStart (d : Dev) (op : Nat) : SameClock d (d.opStart op) :=
  .ite (.refl _) (.after (.ite (sameClock_fset ..) (.refl _)) (.beside (.refl _)))

theorem sameClock_askUpdate (d : Dev) (p : Fin 64) : SameClock d (d.askUpdate p) := by
  unfold Dev.askUpdate
  dsimp only
  refine .ite ?_ ?_
  · exact .refl _
  · split
    · exact sameClock_addKernel ..
    · refine .ite ?_ ?_
      · split
        · exact sameClock_opStart ..
        · exact .refl _
      · exact .refl _

theorem sameClock_askUpdates (d : Dev) : SameClock d d.askUpdates := .foldl (fun _ _ => sameClock_askUpdate ..) _ _

theorem sameClock_endCmd (d : Dev) (id : Option Nat) (status : Nat) (results : List Word) : SameClock d (d.endCmd id status results) :=
  .of_cad (Dev.endCmd_cad ..)

theorem sameClock_chiselLoadAt (d : Dev) (m : Mem) (cmd : Nat) (a : Nat) (late : Bool) : SameClock d (chiselLoadAt d m cmd a late).1 :=
    by
  unfold chiselLoadAt
  dsimp only
  refine .ite_fst ?_ ?_
  · exact sameClock_endCmd ..
  · split
    · exact .after (sameClock_endCmd ..) (sameClock_count32 ..)
    · split
      · exact .after (sameClock_endCmd ..) (.after (sameClock_addKernel ..) (.beside (.refl _)))
      · split
        · exact .ite_fst (.after (sameClock_opStart ..) (.beside (.refl _))) (.after (sameClock_endCmd ..) (sameClock_count32 ..))
        · exact .after (sameClock_endCmd ..) (sameClock_count32 ..)

theorem sameClock_modKernel (d : Dev) (slot : Nat) (f : Kernel → Kernel) : SameClock d (d.modKernel slot f) :=
  .of_cad (Dev.modKernel_cad ..)

theorem sameClock_modCore (d : Dev) (c : Fin 16) (f : Core → Core) : SameClock d (d.modCore c f) := .of_cad (Dev.modCore_cad ..)

theorem sameClock_dispatch (d : Dev) (c : Fin 16) : SameClock d (d.dispatch c) := by
  unfold Dev.dispatch
  dsimp only
  refine .ite ?_ ?_
  · exact .refl _
  · split
    · refine .after (sameClock_modCore ..) ?_
      split
      · exact sameClock_modKernel ..
      · exact .refl _
    · refine .after (sameClock_modCore ..) ?_
      split
      · exact sameClock_modKernel ..
      · exact .refl _

theorem sameClock_release (d : Dev) (slot : Nat) : SameClock d (d.release slot) := by
  unfold Dev.release
  dsimp only
  split
  · exact .refl _
  · exact .after (sameClock_dispatch ..) (sameClock_modKernel ..)

theorem sameClock_opCheck (d : Dev) (frame : Bool) : SameClock d (d.opCheck frame) :=
  .after (.ite (.refl _) (.ite (.refl _) (sameClock_opStart ..))) (.beside (.refl _))

theorem sameClock_chiselTick (d : Dev) (m : Mem) (frame : Bool) : SameClock d (chiselTick d m frame).1 := by
  unfold chiselTick
  dsimp only
  refine .after (.after (.ite (sameClock_opCheck ..) (.refl _)) (.foldl (fun _ _ => .ite (sameClock_release ..) (.refl _)) _ _)) ?_
  split
  · exact .ite_fst (.after (.after (.foldl_mem (fun _ _ => sameClock_chiselLoadAt ..) _ _) (sameClock_fset ..)) (.after (sameClock_raise
      ..) (.beside (.refl _)))) (.refl _)
  · exact .refl _

/-- A core that is vacated moves its kernels. -/
theorem sameClock_vacateCore {d : Dev} {m : Mem} {c : Fin 16} {x : Dev × Mem} (moved : vacateCore d m c = some x) : SameClock d x.1 := by
  unfold vacateCore at moved
  dsimp only at moved
  split at moved
  · exact nomatch moved
  · refine List.foldlRecOn (motive := fun y : Option (Dev × Mem) => ∀ x, y = some x → SameClock d x.1) _ _ ?_ ?_ x moved
    · rintro _ ⟨⟩
      exact sameClock_modCore ..
    · intro y kept k _ x hx
      cases y with
      | none => exact nomatch hx
      | some y =>
        dsimp only at hx
        split at hx
        · cases hx
          exact (sameClock_modKernel ..).after (kept y rfl)
        · exact nomatch hx

theorem sameClock_returnKernels (d : Dev) (m : Mem) (c : Fin 16) : SameClock d (returnKernels d m c).1 := by
  unfold returnKernels
  dsimp only
  refine .after (.foldl_mem (fun x _ => ?_) _ _) ?_
  · split
    · exact sameClock_modKernel ..
    · exact sameClock_modKernel ..
  · exact sameClock_modCore ..

theorem sameClock_coreTestStep (x : Dev × Mem) (c : Fin 16) : SameClock x.1 (Cert.coreTestStep x c).1 := by
  refine .ite_fst (.ite_fst (.refl _) ?_) (.ite_fst (sameClock_returnKernels ..) (.refl _))
  cases moved : vacateCore x.1 x.2 c with
  | some y => exact sameClock_vacateCore moved
  | none => exact .foldl (fun _ _ => .ite (sameClock_endCmd ..) (.refl _)) ..

theorem sameClock_coreTestsTick (d : Dev) (m : Mem) : SameClock d (coreTestsTick d m).1 := by
  rw [Cert.coreTestsTick_eq]
  exact .foldl_mem sameClock_coreTestStep ..

theorem sameClock_soundTick (d : Dev) : SameClock d d.soundTick :=
  .ite (.beside (.refl _)) (.after (.beside (.refl _)) (sameClock_fset ..))

theorem sameClock_modLink (d : Dev) (f : Link → Link) : SameClock d (d.modLink f) := .of_cad (Dev.modLink_cad ..)

theorem sameClock_spendAccepted (d : Dev) : SameClock d d.spendAccepted := sameClock_modLink ..

theorem sameClock_satAdd (d : Dev) (a hi lo : Nat) : SameClock d (d.satAdd a hi lo) := .after (sameClock_drew ..) (sameClock_fset ..)

theorem sameClock_satTick (d : Dev) : SameClock d d.satTick :=
  .after (.after (.after (.ite (sameClock_satAdd ..) (.refl _)) (.ite (sameClock_satAdd ..) (.refl _))) (.foldl (fun _ _ => .after (.ite
    (sameClock_satAdd ..) (.refl _)) (sameClock_satAdd ..)) _ _)) (.foldl (fun _ _ => sameClock_satAdd ..) _ _)

theorem sameClock_modDrunas (d : Dev) (f : Drunas → Drunas) : SameClock d (d.modDrunas f) := .of_cad (Dev.modDrunas_cad ..)

theorem sameClock_modCmd (d : Dev) (id : Nat) (f : Cmd → Cmd) : SameClock d (d.modCmd id f) := .of_cad (Dev.modCmd_cad ..)

theorem sameClock_commitWord (d : Dev) (c : Committer) (a : Nat) (w : Word) : SameClock d (d.commitWord c a w) := sameClock_commit ..

theorem sameClock_noteWrite (d : Dev) (a rank : Nat) : SameClock d (d.noteWrite a rank) := .of_cad (Dev.noteWrite_cad ..)

theorem sameClock_writeFields (d : Dev) (c : Committer) (a : Nat) (w : Word) : SameClock d (d.writeFields c a w) :=
  .after (.after (sameClock_noteWrite ..) (.ite (.refl _) (sameClock_commitWord ..))) (sameClock_wr ..)

theorem sameClock_dropFirmware (d : Dev) (slot : Nat) : SameClock d (d.dropFirmware slot) := .of_cad rfl

theorem sameClock_writeAmode (d : Dev) (p : Fin 64) (changed : Bool) : SameClock d (d.writeAmode p changed) :=
  .after (sameClock_modDpd ..) (.ite (sameClock_dropFirmware ..) (.refl _))

theorem sameClock_dpdRest (d : Dev) (c : Cmd) : SameClock d (d.dpdRest c) :=
  .after (.foldl (fun _ _ => .after (sameClock_writeAmode ..) (.after (sameClock_noteWrite ..) (sameClock_wr ..))) _ _) (.ite
    (sameClock_writeFields ..) (.refl _))

theorem sameClock_dpdRests (d : Dev) (timing : Nat) : SameClock d (d.dpdRests timing) :=
  .foldl (fun _ _ => .after (sameClock_modCmd ..) (sameClock_dpdRest ..)) _ _

theorem sameClock_modRelief (d : Dev) (t : Fin 4) (f : ReliefTile → ReliefTile) : SameClock d (d.modRelief t f) :=
  .of_cad (Dev.modRelief_cad ..)

theorem sameClock_windowTick (d : Dev) (before : Bool) : SameClock d (d.windowTick before) :=
  .foldl (fun _ _ => .foldl (fun _ _ => sameClock_modRelief ..) _ _) _ _

theorem sameClock_markUnsettled (d : Dev) (p : Fin 64) : SameClock d (d.markUnsettled p) :=
  .after (.after (.ite (sameClock_raise ..) (.refl _)) (.ite (sameClock_noteMark ..) (.refl _))) (.ite (.refl _) (sameClock_modPath ..))

theorem sameClock_jumpMarks (d : Dev) : SameClock d d.jumpMarks :=
  .foldl (fun _ _ => .ite (.after (sameClock_modPath ..) (sameClock_markUnsettled ..)) (.refl _)) _ _

theorem sameClock_healed (d : Dev) : SameClock d d.healed := .foldl (fun _ _ => .ite (sameClock_modPath ..) (.refl _)) _ _

theorem sameClock_send (d : Dev) (flow : Nat) (ws : List Word) : SameClock d (d.send flow ws) := .ite (.refl _) (sameClock_modLink ..)

theorem sameClock_shedStep (d : Dev) (f : Nat) (shed : Bool) : SameClock d (d.shedStep f shed) :=
  .after (.ite (.after (sameClock_raise ..) (sameClock_count32 ..)) (sameClock_raise ..)) (sameClock_send ..)

theorem sameClock_flowShed (d : Dev) : SameClock d d.flowShed :=
  .after (.after (.foldl (fun _ _ => sameClock_shedStep ..) _ _) (.foldl (fun _ _ => sameClock_shedStep ..) _ _)) (sameClock_modLink ..)

theorem sameClock_startSyn (d : Dev) (t : Fin 4) (b : Bool) (int frac : Word) : SameClock d (d.startSyn t b int frac) :=
  sameClock_modTile ..

theorem sameClock_stopSyn (d : Dev) (t : Fin 4) (b : Bool) : SameClock d (d.stopSyn t b) := sameClock_modTile ..

theorem sameClock_unalign (d : Dev) (t : Fin 4) : SameClock d (d.unalign t) := sameClock_modTile ..

theorem sameClock_unqualify (d : Dev) (t : Fin 4) (b : Bool) : SameClock d (d.unqualify t b) :=
  .after (.ite (sameClock_raise ..) (.refl _)) (sameClock_modTile ..)

theorem sameClock_retune (d : Dev) (t : Fin 4) (b : Bool) (int frac : Word) : SameClock d (d.retune t b int frac) :=
  .after (sameClock_modTile ..) (.ite (sameClock_unqualify ..) (.refl _))

theorem sameClock_roleStandby (d : Dev) (t : Fin 4) : SameClock d (d.roleStandby t) := by
  unfold Dev.roleStandby
  dsimp only
  refine .ite ?_ ?_
  · exact .refl _
  · split
    · exact sameClock_stopSyn ..
    · exact .ite (sameClock_startSyn ..) (.ite (.refl _) (.after (sameClock_unalign ..) (sameClock_retune ..)))
    · exact .ite (sameClock_startSyn ..) (.ite (.refl _) (sameClock_retune ..))

theorem sameClock_beginSynthOn (d : Dev) (t : Fin 4) : SameClock d (d.beginSynthOn t) :=
  .after (.after (sameClock_roleStandby ..) (sameClock_startSyn ..)) (sameClock_modTile ..)

theorem sameClock_idlePaths (d : Dev) (t : Fin 4) : SameClock d (d.idlePaths t) := .foldl (fun _ _ => sameClock_modPath ..) _ _

theorem sameClock_beginLevel (d : Dev) (t : Fin 4) (l : Nat) : SameClock d (d.beginLevel t l) :=
  .ite (.refl _) (.ite (.ite (sameClock_modTile ..) (sameClock_beginSynthOn ..)) (.after (.after (sameClock_modTile ..) (.after
    (sameClock_stopSyn ..) (sameClock_stopSyn ..))) (sameClock_idlePaths ..)))

theorem sameClock_beginDeferred (d : Dev) : SameClock d d.beginDeferred := by
  unfold Dev.beginDeferred
  dsimp only
  refine .after (.foldl (fun d _ => ?_) _ _) ?_
  · split
    · exact .ite (.after (sameClock_count32 ..) (.after (sameClock_beginPath ..) (sameClock_modPath ..))) (.refl _)
    · exact .refl _
  · refine .after (.foldl (fun d _ => ?_) _ _) ?_
    · split
      · exact .ite (.after (sameClock_count32 ..) (.after (sameClock_beginLevel ..) (sameClock_modTile ..))) (.refl _)
      · exact .refl _
    · exact .refl _

theorem sameClock_muteAtMidpoint (d : Dev) : SameClock d d.muteAtMidpoint :=
  .foldl (fun _ _ => .ite (sameClock_modPath ..) (.refl _)) _ _

theorem sameClock_handover (d : Dev) (t : Fin 4) (toB : Bool) : SameClock d (d.handover t toB) :=
  .after (.after (sameClock_roleStandby ..) (.ite (.refl _) (sameClock_unalign ..))) (sameClock_modTile ..)

theorem sameClock_loClose (d : Dev) (t : Fin 4) : SameClock d (d.loClose t) := by
  unfold Dev.loClose
  split
  · exact .ite (sameClock_modTile ..) (.refl _)
  · exact .refl _

theorem sameClock_rxUnsettled (d : Dev) (t : Fin 4) : SameClock d (d.rxUnsettled t) :=
  .after (.foldl (fun _ _ => .ite (sameClock_raise ..) (.refl _)) _ _) (sameClock_modTile ..)

theorem sameClock_tileMidpoint (d : Dev) (t : Fin 4) : SameClock d (d.tileMidpoint t) :=
  .ite (sameClock_modTile ..) (.after (.after (.after (.ite (.after (sameClock_raise ..) (.after (sameClock_count32 ..)
    (sameClock_modTile ..))) (.refl _)) (.ite (sameClock_loClose ..) (sameClock_rxUnsettled ..))) (sameClock_modTile ..)) (.ite
    (sameClock_handover ..) (.ite (.after (.after (sameClock_raise ..) (.after (sameClock_setInf ..) (.ite (.refl _) (sameClock_fset
    ..)))) (sameClock_handover ..)) (.refl _))))

theorem sameClock_reselect (d : Dev) (t : Fin 4) (b : Bool) : SameClock d (d.reselect t b) :=
  .after (sameClock_modTile ..) (sameClock_unqualify ..)

theorem sameClock_rebandIdle (d : Dev) (t : Fin 4) : SameClock d (d.rebandIdle t) :=
  .ite (.after (sameClock_modTile ..) (sameClock_reselect ..)) (.refl _)

theorem sameClock_tilesMidpoint (d : Dev) : SameClock d d.tilesMidpoint :=
  .foldl (fun _ _ => .after (sameClock_tileMidpoint ..) (sameClock_rebandIdle ..)) _ _

theorem sameClock_spareMidpoint (d : Dev) : SameClock d d.spareMidpoint := by
  unfold Dev.spareMidpoint
  dsimp only
  split
  · exact .ite (.after (.ite (sameClock_raise ..) (.refl _)) (.beside (.refl _))) (.refl _)
  · exact .refl _

theorem sameClock_settleSymbol (d : Dev) : SameClock d d.settleSymbol := .of_cad rfl

theorem sameClock_capturesMidpoint (d : Dev) (touched : List (Fin 64)) : SameClock d (d.capturesMidpoint touched) := by
  unfold Dev.capturesMidpoint
  dsimp only
  refine .after (.foldl (fun d _ => ?_) _ _) ?_
  · split
    · exact .ite (sameClock_spoil ..) (.refl _)
    · refine .ite ?_ ?_
      · exact .refl _
      · split
        · split
          · exact .beside (sameClock_modOrx ..)
          · exact sameClock_modOrx ..
        · exact .refl _
  · exact .foldl (fun _ _ => sameClock_modDpd ..) _ _

theorem sameClock_landIdle (d : Dev) (x : IdleItem) : SameClock d (d.landIdle x) :=
  .after (.after (.ite (.after (sameClock_modTile ..) (.beside (.refl _))) (.refl _)) (.foldl (fun _ _ => sameClock_modCal ..) _ _))
    (.foldl (fun _ _ => sameClock_wr ..) _ _)

theorem sameClock_addIdle (d : Dev) (x : IdleItem) : SameClock d (d.addIdle x) := .of_cad rfl

theorem sameClock_calSyn (d : Dev) (t : Fin 4) (b : Bool) : SameClock d (d.calSyn t b) := sameClock_modTile ..

theorem sameClock_idleMidpoint (d : Dev) : SameClock d d.idleMidpoint :=
  .after (.after (.foldl (fun _ _ => .ite (.after (sameClock_calSyn ..) (.beside (.refl _))) (.refl _)) _ _) (.foldl (fun _ _ => .ite
    (sameClock_landIdle ..) (sameClock_addIdle ..)) _ _)) (.beside (.refl _))

theorem sameClock_modOut (d : Dev) (n : Fin 96) (f : BiasOut → BiasOut) : SameClock d (d.modOut n f) := .of_cad (Dev.modOut_cad ..)

theorem sameClock_testBegin (d : Dev) : SameClock d d.testBegin := by
  unfold Dev.testBegin
  dsimp only
  split
  · exact .refl _
  · exact .ite (.beside (.refl _)) (.refl _)

theorem sameClock_biasReturn (d : Dev) : SameClock d d.biasReturn :=
  .after (.after (.after (sameClock_testBegin ..) (.beside (.refl _))) (.foldl (fun _ _ => sameClock_modOut ..) _ _)) (.beside (.refl
    _))

theorem sameClock_countLost54 (d : Dev) (ls : List Change) : SameClock d (d.countLost54 ls) := by
  unfold Dev.countLost54
  dsimp only
  refine .after (.foldl (fun d _ => ?_) _ _) ?_
  · split
    · exact .after (sameClock_modCmd ..) (sameClock_count32 ..)
    · exact sameClock_count32 ..
  · exact .refl _

theorem sameClock_withdraw (d : Dev) (others : List Change) (c : Change) : SameClock d (d.withdraw others c) :=
  .ite (.refl _) (.foldl (fun _ _ => sameClock_wr ..) _ _)

theorem sameClock_refuseModes (d : Dev) (ls : List Change) : SameClock d (d.refuseModes ls).1 :=
  .after (.foldl (fun _ _ => sameClock_endCmd ..) _ _) (.foldl (fun _ _ => sameClock_withdraw ..) _ _)

theorem sameClock_landConfig (d : Dev) (ls : List Change) : SameClock d (d.landConfig ls).1 :=
  .ite_fst (.refl _) (.ite_fst (.after (.ite (.foldl (fun _ _ => sameClock_markUnsettled ..) _ _) (.refl _)) (.after
    (sameClock_solverAbandon ..) (.beside (.foldl (fun _ _ => sameClock_landWords ..) _ _)))) (.after (.foldl (fun _ _ => .after
    (sameClock_endCmd ..) (sameClock_withdraw ..)) _ _) (sameClock_configError ..)))

theorem sameClock_landLevel (d : Dev) (t : Fin 4) (code : Nat) : SameClock d (d.landLevel t code) := by
  unfold Dev.landLevel
  dsimp only
  refine .ite ?_ ?_
  · exact .refl _
  · split
    · exact .after (sameClock_beginLevel ..) (sameClock_modTile ..)
    · exact .ite (.after (.after (.ite (sameClock_raise ..) (.refl _)) (sameClock_beginLevel ..)) (sameClock_modTile ..))
        (sameClock_modTile ..)

theorem sameClock_landIndex (d : Dev) (c : Change) (a : Nat) : SameClock d (d.landIndex c a) := sameClock_modPath ..

theorem sameClock_wordLanded (d : Dev) (c : Change) (a : Nat) : SameClock d (d.wordLanded c a) :=
  .ite (.ite (sameClock_landLevel ..) (.ite (sameClock_landIndex ..) (.refl _))) (.ite (.ite (sameClock_solverAbandon ..) (.refl _))
    (.ite (sameClock_solverAbandon ..) (.refl _)))

theorem sameClock_landMode (d : Dev) (p : Fin 64) : SameClock d (d.landMode p) :=
  .ite (.refl _) (.ite (sameClock_modPath ..) (.after (sameClock_beginPath ..) (sameClock_modPath ..)))

theorem sameClock_landWord (d : Dev) (t : Fin 4) (b : Bool) (int frac : Word) : SameClock d (d.landWord t b int frac) :=
  .ite (.after (sameClock_raise ..) (sameClock_modTile ..)) (.after (.ite (.refl _) (.after (.after (.ite (sameClock_retune ..) (.refl
    _)) (.ite (sameClock_unalign ..) (.refl _))) (sameClock_retune ..))) (.after (sameClock_modTile ..) (.after (sameClock_setInf ..)
    (sameClock_setInf ..))))

theorem sameClock_startActive (d : Dev) (t : Fin 4) : SameClock d (d.startActive t) :=
  .after (sameClock_roleStandby ..) (.ite (sameClock_startSyn ..) (.ite (.refl _) (sameClock_retune ..)))

theorem sameClock_landAct (d : Dev) (t : Fin 4) : SameClock d (d.landAct t) :=
  .ite (sameClock_modTile ..) (.ite (.after (.ite (sameClock_startActive ..) (.refl _)) (sameClock_modTile ..)) (.ite
    (sameClock_handover ..) (sameClock_modTile ..)))

theorem sameClock_suspend (d : Dev) (t : Fin 4) : SameClock d (d.suspend t) :=
  .after (.ite (sameClock_raise ..) (.refl _)) (sameClock_modRelief ..)

theorem sameClock_landRelief (d : Dev) (t : Fin 4) (dac : Bool) (arg : Nat) : SameClock d (d.landRelief t dac arg) :=
  .ite (.refl _) (.ite (.after (sameClock_count32 ..) (sameClock_modRelief ..)) (.ite (.after (sameClock_suspend ..) (.after
    (sameClock_count32 ..) (sameClock_modRelief ..))) (.refl _)))

theorem sameClock_landCode (d : Dev) (n : Fin 96) (w : Word) : SameClock d (d.landCode n w) :=
  .ite (.refl _) (.ite (sameClock_modOut ..) (.after (sameClock_modOut ..) (sameClock_setInf ..)))

theorem sameClock_refuseCmd (d : Dev) (id : Option Nat) : SameClock d (d.refuseCmd id) := by
  unfold Dev.refuseCmd
  dsimp only
  split
  · exact .refl _
  · exact .beside (.refl _)

theorem sameClock_judgeSpan (d : Dev) (n : Fin 96) (s : Nat) (cmd : Option Nat) : SameClock d (d.judgeSpan n s cmd) :=
  .ite (.refl _) (.ite (.after (.after (.after (sameClock_refuseCmd ..) (sameClock_raise ..)) (.ite (.refl _) (sameClock_fset ..)))
    (sameClock_setInf ..)) (sameClock_modOut ..))

theorem sameClock_landSpan (d : Dev) (n : Fin 96) (code : Nat) (cmd : Option Nat) : SameClock d (d.landSpan n code cmd) :=
  .ite (.refl _) (.ite (sameClock_modOut ..) (sameClock_judgeSpan ..))

theorem sameClock_log (d : Dev) (type n kind i count : Nat) (temp : Int) : SameClock d (d.log type n kind i count temp) :=
  .ite (.beside (.refl _)) (.after (sameClock_raise ..) (sameClock_count32 ..))

theorem sameClock_modSrc (d : Dev) (n : Fin 256) (f : Source → Source) : SameClock d (d.modSrc n f) := .of_cad (Dev.modSrc_cad ..)

theorem sameClock_flagRestored (d : Dev) (kind i : Nat) : SameClock d (d.flagRestored kind i) :=
  .foldl (fun _ _ => sameClock_modSrc ..) _ _

theorem sameClock_dpdRestore (d : Dev) (q : Fin 64) : SameClock d (d.dpdRestore q) :=
  .foldl (fun _ _ => .after (sameClock_spoil ..) (sameClock_modDpd ..)) _ _

theorem sameClock_restorePath (d : Dev) (p : Fin 64) : SameClock d (d.restorePath p) :=
  .after (sameClock_landMode ..) (sameClock_modPath ..)

theorem sameClock_restorePathUnit (d : Dev) (p : Fin 64) : SameClock d (d.restorePathUnit p) :=
  .ite (.after (sameClock_flagRestored ..) (.after (sameClock_dpdRestore ..) (sameClock_restorePath ..))) (.refl _)

theorem sameClock_restoreConv (d : Dev) (p : Fin 64) (dac : Bool) : SameClock d (d.restoreConv p dac) :=
  .after (sameClock_modRelief ..) (sameClock_modPath ..)

theorem sameClock_restoreRelief (d : Dev) (t : Fin 4) (dac : Bool) : SameClock d (d.restoreRelief t dac) :=
  .after (sameClock_suspend ..) (sameClock_modRelief ..)

theorem sameClock_restoreSyn' (d : Dev) (t : Fin 4) (b : Bool) : SameClock d (d.restoreSyn' t b) :=
  .after (.ite (sameClock_roleStandby ..) (.refl _)) (.after (sameClock_flagRestored ..) (sameClock_modTile ..))

theorem sameClock_restoreOrx (d : Dev) (k : Fin 16) : SameClock d (d.restoreOrx k) := sameClock_modOrx ..

theorem sameClock_restoreTile (d : Dev) (t : Fin 4) : SameClock d (d.restoreTile t) :=
  .after (sameClock_landLevel ..) (sameClock_modTile ..)

theorem sameClock_modLane (d : Dev) (k : Fin 8) (f : Lane → Lane) : SameClock d (d.modLane k f) := .of_cad (Dev.modLane_cad ..)

theorem sameClock_beginAttempt (d : Dev) (k : Fin 8) (n : Nat) : SameClock d (d.beginAttempt k n) :=
  .after (sameClock_count ..) (sameClock_modLane ..)

theorem sameClock_laneStart (d : Dev) (k : Fin 8) : SameClock d (d.laneStart k) := .ite (sameClock_beginAttempt ..) (.refl _)

theorem sameClock_restoreLane (d : Dev) (k : Fin 8) : SameClock d (d.restoreLane k) :=
  .after (sameClock_laneStart ..) (sameClock_modLane ..)

theorem sameClock_restoreSlice (d : Dev) (s : Nat) : SameClock d (d.restoreSlice s).1 := .of_cad rfl

theorem sameClock_restoreSpare (d : Dev) : SameClock d d.restoreSpare.1 := by
  unfold Dev.restoreSpare
  dsimp only
  split
  · exact .beside (.beside (.refl _))
  · exact .beside (.refl _)

theorem sameClock_restoreCore (d : Dev) (c : Fin 16) : SameClock d (d.restoreCore c) := sameClock_modCore ..

/-- A slice, or the spare, returns with the paths of its lost layers. -/
theorem sameClock_restoreSlices (d : Dev) (i : Nat) : SameClock d (if i < 8 then d.restoreSlice i else d.restoreSpare).1 :=
  .ite_fst (sameClock_restoreSlice ..) (sameClock_restoreSpare ..)

theorem sameClock_restoreUnit (d : Dev) (m : Mem) (kind i : Nat) : SameClock d (restoreUnit d m kind i).1 := by
  have logged := sameClock_log d 4 ((sourcesOfUnit kind i).headD 0).val kind i 0 0
  unfold restoreUnit
  refine .after ?_ logged
  generalize d.log 4 ((sourcesOfUnit kind i).headD 0).val kind i 0 0 = d
  dsimp only
  split
  · exact sameClock_restorePathUnit ..
  · exact .after (sameClock_flagRestored ..) (sameClock_restoreConv ..)
  · exact .after (sameClock_flagRestored ..) (sameClock_restoreConv ..)
  · exact .after (sameClock_flagRestored ..) (sameClock_restoreRelief ..)
  · exact .after (sameClock_flagRestored ..) (sameClock_restoreRelief ..)
  · exact sameClock_restoreSyn' ..
  · exact .after (sameClock_flagRestored ..) (sameClock_restoreOrx ..)
  · dsimp only
    exact .after (.after (.after (.after (.foldl (fun _ _ => sameClock_restorePathUnit ..) _ _)
        (.after (sameClock_flagRestored ..) (sameClock_restoreTile ..)))
        (.after (sameClock_flagRestored ..) (.after (sameClock_restoreRelief ..)
          (.after (sameClock_flagRestored ..) (sameClock_restoreRelief ..)))))
        (.foldl (fun _ _ => .after (sameClock_flagRestored ..) (sameClock_restoreOrx ..)) _ _))
        (.after (sameClock_restoreSyn' ..) (sameClock_restoreSyn' ..))
  · exact .after (sameClock_flagRestored ..) (sameClock_restoreLane ..)
  · exact .after (.foldl sameClock_restorePathUnit ..) (.after (sameClock_flagRestored ..) (sameClock_restoreSlices ..))
  · exact .after (sameClock_flagRestored ..) (sameClock_restoreCore ..)
  · exact .refl _

theorem sameClock_flagRetired (d : Dev) (kind i : Nat) : SameClock d (d.flagRetired kind i) :=
  .foldl (fun _ _ => sameClock_modSrc ..) _ _

theorem sameClock_dpdRetire (d : Dev) (q : Fin 64) : SameClock d (d.dpdRetire q) :=
  .after (.after (.ite (.refl _) (sameClock_raise ..)) (.foldl (fun _ _ => .after (sameClock_spoil ..) (sameClock_modDpd ..)) _ _))
    (.after (sameClock_modDpd ..) (sameClock_dropFirmware ..))

theorem sameClock_retirePath (d : Dev) (p : Fin 64) : SameClock d (d.retirePath p) := sameClock_modPath ..

theorem sameClock_retirePathUnit (d : Dev) (p : Fin 64) : SameClock d (d.retirePathUnit p) :=
  .ite (.refl _) (.after (sameClock_flagRetired ..) (.after (sameClock_dpdRetire ..) (sameClock_retirePath ..)))

theorem sameClock_putTrims (d : Dev) (t : Fin 4) (dac : Bool) (k : Nat) (w : Word × Word) : SameClock d (d.putTrims t dac k w) :=
  .after (sameClock_wr ..) (sameClock_wr ..)

theorem sameClock_nativeReturns (d : Dev) (t : Fin 4) (dac : Bool) : SameClock d (d.nativeReturns t dac) := by
  unfold Dev.nativeReturns
  dsimp only
  refine .ite ?_ ?_
  · refine .after (sameClock_count32 ..) ?_
    split
    · exact sameClock_putTrims ..
    · exact .refl _
  · exact .refl _

theorem sameClock_stopRotation (d : Dev) (t : Fin 4) : SameClock d (d.stopRotation t) :=
  .after (sameClock_suspend ..) (sameClock_modRelief ..)

theorem sameClock_retireConv (d : Dev) (p : Fin 64) (dac : Bool) : SameClock d (d.retireConv p dac).1 :=
  .after (.ite_fst (.refl _) (.after (.after (sameClock_stopRotation ..) (sameClock_modRelief ..)) (.ite (.refl _) (.after
    (sameClock_count32 ..) (sameClock_nativeReturns ..))))) (sameClock_modPath ..)

theorem sameClock_retireConvUnit (d : Dev) (kind i : Nat) (byCommand : Bool) : SameClock d (d.retireConvUnit kind i byCommand) :=
  .after (.after (.ite (sameClock_retirePathUnit ..) (.refl _)) (.ite (sameClock_flagRetired ..) (.refl _))) (sameClock_retireConv ..)

theorem sameClock_retireRelief (d : Dev) (t : Fin 4) (dac : Bool) : SameClock d (d.retireRelief t dac).1 :=
  .after (.after (sameClock_suspend ..) (sameClock_modRelief ..)) (sameClock_nativeReturns ..)

theorem sameClock_retireReliefUnit (d : Dev) (t : Fin 4) (dac : Bool) : SameClock d (d.retireReliefUnit t dac) := by
  unfold Dev.retireReliefUnit
  refine .ite ?_ ?_
  · exact .refl _
  · refine .after (sameClock_flagRetired ..) ?_
    split
    · exact .after (sameClock_retirePathUnit ..) (sameClock_retireRelief ..)
    · exact sameClock_retireRelief ..

theorem sameClock_retireSyn (d : Dev) (t : Fin 4) (b : Bool) : SameClock d (d.retireSyn t b) :=
  .after (.ite (.refl _) (.ite (.after (.after (.ite (.refl _) (.ite (sameClock_startSyn ..) (.ite (sameClock_modTile ..) (.after
    (sameClock_unalign ..) (sameClock_retune ..))))) (.after (sameClock_setInf ..) (sameClock_fset ..))) (sameClock_modTile ..)) (.refl
    _))) (sameClock_modTile ..)

theorem sameClock_retireSynUnit (d : Dev) (t : Fin 4) (b : Bool) : SameClock d (d.retireSynUnit t b) :=
  .ite (.refl _) (.after (sameClock_flagRetired ..) (sameClock_retireSyn ..))

theorem sameClock_retireTile (d : Dev) (t : Fin 4) : SameClock d (d.retireTile t) :=
  .after (sameClock_modTile ..) (.after (sameClock_beginLevel ..) (sameClock_modTile ..))

theorem sameClock_retirePaths (d : Dev) (ps : List (Fin 64)) : SameClock d (d.retirePaths ps) :=
  .foldl (fun _ _ => sameClock_retirePathUnit ..) _ _

theorem sameClock_retireOrx (d : Dev) (k : Fin 16) : SameClock d (d.retireOrx k) :=
  .after (.after (sameClock_raise ..) (.foldl (fun _ _ => .after (sameClock_modDpd ..) (sameClock_dropFirmware ..)) _ _))
    (sameClock_modOrx ..)

theorem sameClock_retireOrxUnit (d : Dev) (k : Fin 16) : SameClock d (d.retireOrxUnit k) :=
  .ite (.refl _) (.after (sameClock_flagRetired ..) (sameClock_retireOrx ..))

theorem sameClock_retireTileUnit (d : Dev) (t : Fin 4) : SameClock d (d.retireTileUnit t) :=
  .ite (.refl _) (.after (.after (.after (.after (.after (sameClock_retireReliefUnit ..) (sameClock_retireReliefUnit ..)) (.foldl (fun _
    _ => sameClock_retireOrxUnit ..) _ _)) (.foldl (fun _ _ => .after (sameClock_flagRetired ..) (sameClock_modTile ..)) _ _))
    (sameClock_retirePaths ..)) (.after (sameClock_flagRetired ..) (sameClock_retireTile ..)))

theorem sameClock_addProposal (d : Dev) (p : Proposal) : SameClock d (d.addProposal p) := sameClock_modLink ..

theorem sameClock_propose (d : Dev) (leave join sleepTx sleepRx wakeTx wakeRx : Nat) : SameClock d (d.propose leave join sleepTx sleepRx
    wakeTx wakeRx) :=
  .after (.foldl (fun _ _ => .ite (.refl _) (sameClock_addProposal ..)) _ _) (sameClock_send ..)

theorem sameClock_laneRetired (d : Dev) (k : Fin 8) : SameClock d (d.laneRetired k) :=
  .after (sameClock_raise ..) (sameClock_modLane ..)

theorem sameClock_laneIdle (d : Dev) (k : Fin 8) (fast : Bool) : SameClock d (d.laneIdle k fast) :=
  .after (sameClock_laneStart ..) (sameClock_modLane ..)

theorem sameClock_laneLeft (d : Dev) (k : Fin 8) : SameClock d (d.laneLeft k) := by
  unfold Dev.laneLeft
  dsimp only
  split
  · exact .refl _
  · split
    · exact .after (sameClock_laneRetired ..) (sameClock_modLane ..)
    · exact .after (sameClock_modLane ..) (sameClock_modLane ..)
    · exact .ite (.after (sameClock_laneIdle ..) (sameClock_modLane ..)) (sameClock_modLane ..)

theorem sameClock_proposeLeave (d : Dev) (k : Fin 8) (leaveTo : LaneSt × Bool) : SameClock d (d.proposeLeave k leaveTo) :=
  .after (.ite (sameClock_propose ..) (.ite (.refl _) (.after (sameClock_laneLeft ..) (sameClock_modLink ..)))) (sameClock_modLane ..)

theorem sameClock_retireLane (d : Dev) (k : Fin 8) : SameClock d (d.retireLane k) :=
  .after (.ite (sameClock_proposeLeave ..) (.after (sameClock_laneRetired ..) (sameClock_modLink ..))) (sameClock_modLane ..)

theorem sameClock_retireSlice (d : Dev) (s : Nat) : SameClock d (d.retireSlice s).1 :=
  .ite_fst (.refl _) (.after (.ite_fst (.refl _) (.ite_fst (.beside (.refl _)) (.ite_fst (.beside (.refl _)) (.beside (.refl _)))))
    (.beside (.refl _)))

theorem sameClock_retireSpare (d : Dev) : SameClock d d.retireSpare.1 := by
  unfold Dev.retireSpare
  dsimp only
  split
  · exact .beside (.beside (.refl _))
  · exact .beside (.refl _)

theorem sameClock_readmit (x : Dev × Mem) (k : Kernel) : SameClock x.1 (readmit x k).1 := by
  unfold readmit
  dsimp only
  split
  · exact .after (sameClock_raise ..) (sameClock_modKernel ..)
  · exact .ite_fst (sameClock_dropFirmware ..) (.after (.after (sameClock_raise ..) (sameClock_count32 ..)) (sameClock_modKernel ..))

theorem sameClock_retireCore (d : Dev) (m : Mem) (c : Fin 16) : SameClock d (retireCore d m c).1 :=
  .after (.after (.after (.after (.foldl_mem (fun _ _ => sameClock_readmit ..) _ _) (.beside (.refl _))) (sameClock_raise ..))
    (sameClock_modCore ..)) (.ite (sameClock_count32 ..) (.refl _))

theorem sameClock_solverAdmission (d : Dev) : SameClock d d.solverAdmission := .ite (.beside (.refl _)) (.refl _)

/-- A slice, or the spare, is lost with the paths of its layers. -/
theorem sameClock_retireSlices (d : Dev) (i : Nat) : SameClock d (if i < 8 then d.retireSlice i else d.retireSpare).1 :=
  .ite_fst (sameClock_retireSlice ..) (sameClock_retireSpare ..)

theorem sameClock_retireUnit (d : Dev) (m : Mem) (kind i : Nat) (byCommand : Bool) :
    SameClock d (retireUnit d m kind i byCommand).1 := by
  unfold retireUnit
  refine .after ?_ (sameClock_raise d Reg.SUMP_EVT 1)
  generalize d.raise Reg.SUMP_EVT 1 = d
  dsimp only
  split
  · exact sameClock_retirePathUnit ..
  · exact sameClock_retireConvUnit ..
  · exact sameClock_retireConvUnit ..
  · exact sameClock_retireReliefUnit ..
  · exact sameClock_retireReliefUnit ..
  · exact .after (.ite (sameClock_retireTileUnit ..) (.refl _)) (sameClock_retireSynUnit ..)
  · exact sameClock_retireOrxUnit ..
  · exact sameClock_retireTileUnit ..
  · exact .after (sameClock_flagRetired ..) (sameClock_retireLane ..)
  · exact .after (sameClock_flagRetired ..) (.after (sameClock_retirePaths ..) (sameClock_retireSlices ..))
  · exact .after (sameClock_solverAdmission ..) (.after (sameClock_retireCore ..) (sameClock_flagRetired ..))
  · exact .refl _

theorem sameClock_modPower (d : Dev) (f : Power → Power) : SameClock d (d.modPower f) := .of_cad (Dev.modPower_cad ..)

theorem sameClock_commitLevels (d : Dev) (l : Nat) : SameClock d (d.commitLevels l) :=
  .foldl (fun _ _ => .ite (.refl _) (.after (sameClock_commit ..) (sameClock_wr ..))) _ _

theorem sameClock_setDomains (d : Dev) (dev : Nat) : SameClock d (d.setDomains dev) := by
  unfold Dev.setDomains
  split
  · exact sameClock_modPower ..
  · exact sameClock_modPower ..
  · exact sameClock_modPower ..
  · exact .refl _

theorem sameClock_stepPower (d : Dev) : SameClock d d.stepPower.1 := by
  unfold Dev.stepPower
  dsimp only
  split
  · exact .refl _
  · exact .ite_fst (.after (.after (sameClock_modPower ..) (sameClock_endCmd ..)) (.after (sameClock_raise ..) (.after (sameClock_fset
      ..) (sameClock_count32 ..)))) (.after (.ite_fst (.after (sameClock_commitLevels ..) (sameClock_setDomains ..)) (.ite_fst (.after
      (sameClock_solverAbandon ..) (sameClock_commitLevels ..)) (.ite_fst (sameClock_modPower ..) (sameClock_commit ..))))
      (sameClock_modPower ..))

theorem sameClock_nextRequest (d : Dev) : SameClock d d.nextRequest := by
  unfold Dev.nextRequest
  dsimp only
  split
  · exact .refl _
  · exact .after (.ite (sameClock_endCmd ..) (.after (sameClock_stepPower ..) (sameClock_modPower ..))) (sameClock_modPower ..)

theorem sameClock_arrived (d : Dev) : SameClock d d.arrived := by
  unfold Dev.arrived
  dsimp only
  split
  · exact sameClock_modPower ..
  · exact .after (.ite (.after (.after (sameClock_nextRequest ..) (sameClock_endCmd ..)) (.after (sameClock_modPower ..)
      (sameClock_raise ..))) (.after (.ite (.refl _) (sameClock_nextRequest ..)) (sameClock_stepPower ..))) (sameClock_modPower ..)

theorem sameClock_landPower (d : Dev) (to_ : Nat) : SameClock d (d.landPower to_) :=
  .ite (.refl _) (.after (.after (sameClock_arrived ..) (.ite (.beside (.refl _)) (.refl _))) (sameClock_modPower ..))

theorem sameClock_startCal (d : Dev) (r : CalReq) : SameClock d (d.startCal r) :=
  .after (.after (.after (.ite (.refl _) (sameClock_raise ..)) (.ite (.foldl (fun _ _ => sameClock_modCalTile ..) _ _) (.refl _))) (.ite
    (.foldl (fun _ _ => .after (.ite (.refl _) (sameClock_calSyn ..)) (sameClock_calSyn ..)) _ _) (.refl _))) (.beside (.refl _))

theorem sameClock_startQueued (d : Dev) : SameClock d d.startQueued := by
  unfold Dev.startQueued
  dsimp only
  refine .after (.foldl (fun d _ => ?_) _ _) ?_
  · split
    · exact .ite (.after (sameClock_startCal ..) (.beside (.refl _))) (.refl _)
    · exact .refl _
  · exact .refl _

theorem sameClock_abortCal (d : Dev) (r : CalReq) : SameClock d (d.abortCal r) :=
  .after (.after (.after (sameClock_startQueued ..) (sameClock_endCmd ..)) (.after (sameClock_raise ..) (sameClock_fset ..))) (.beside
    (.refl _))

theorem sameClock_dropCapture (d : Dev) (id : Nat) : SameClock d (d.dropCapture id) := by
  unfold Dev.dropCapture
  exact .of_cad rfl

theorem sameClock_modeAfterTest (d : Dev) (p : Fin 64) : SameClock d (d.modeAfterTest p) := .ite (.refl _) (sameClock_commit ..)

theorem sameClock_pathTesting (d : Dev) (on : Bool) (p : Fin 64) : SameClock d (d.pathTesting on p) := sameClock_modPath ..

theorem sameClock_qualifyDone (d : Dev) (k : Fin 8) : SameClock d (d.qualifyDone k) :=
  .ite (.after (.after (.after (sameClock_propose ..) (sameClock_fset ..)) (sameClock_wr ..)) (.after (sameClock_raise ..) (.after
    (sameClock_modLane ..) (sameClock_drew ..)))) (.refl _)

theorem sameClock_bistRelease (d : Dev) (kind i : Nat) (pass : Bool) : SameClock d (d.bistRelease kind i pass) := by
  unfold Dev.bistRelease
  dsimp only
  split
  · exact .after (sameClock_modeAfterTest ..) (sameClock_pathTesting ..)
  · exact sameClock_modRelief ..
  · exact sameClock_modRelief ..
  · exact .ite (sameClock_roleStandby ..) (.refl _)
  · exact sameClock_modOrx ..
  · exact .foldl (fun _ _ => .after (sameClock_modeAfterTest ..) (sameClock_pathTesting ..)) _ _
  · exact .ite (.refl _) (.ite (sameClock_modLane ..) (.ite (.after (sameClock_qualifyDone ..) (sameClock_modLane ..))
      (sameClock_laneIdle ..)))
  · exact .ite (.beside (.refl _)) (.refl _)
  · exact .refl _

theorem sameClock_abortWork (d : Dev) : SameClock d d.abortWork := by
  unfold Dev.abortWork
  refine .after (.foldl (fun d _ => ?_) _ _) ?_
  · refine .after (sameClock_endCmd ..) ?_
    refine .ite ?_ ?_
    · split
      · exact .after (sameClock_bistRelease ..) (.ite (sameClock_dropCapture ..) (.refl _))
      · exact .ite (sameClock_dropCapture ..) (.refl _)
    · exact .ite (sameClock_dropCapture ..) (.refl _)
  · split
    · refine .beside ?_
      split
      · exact .ite (.beside (.after (.foldl (fun _ _ => sameClock_abortCal ..) _ _) (.beside (.foldl (fun _ _ => sameClock_endCmd ..) _
          _)))) (.after (.foldl (fun _ _ => sameClock_abortCal ..) _ _) (.beside (.foldl (fun _ _ => sameClock_endCmd ..) _ _)))
      · exact .after (.foldl (fun _ _ => sameClock_abortCal ..) _ _) (.beside (.foldl (fun _ _ => sameClock_endCmd ..) _ _))
    · split
      · exact .ite (.beside (.after (.foldl (fun _ _ => sameClock_abortCal ..) _ _) (.beside (.foldl (fun _ _ => sameClock_endCmd ..) _
          _)))) (.after (.foldl (fun _ _ => sameClock_abortCal ..) _ _) (.beside (.foldl (fun _ _ => sameClock_endCmd ..) _ _)))
      · exact .after (.foldl (fun _ _ => sameClock_abortCal ..) _ _) (.beside (.foldl (fun _ _ => sameClock_endCmd ..) _ _))

theorem sameClock_handoverBegins (d : Dev) (cmd : Option Nat) : SameClock d (d.handoverBegins cmd) :=
  .after (.beside (.refl _)) (sameClock_abortWork ..)

theorem sameClock_dropUnloaded (d : Dev) : SameClock d d.dropUnloaded := .of_cad rfl

theorem sameClock_landStepped (d : Dev) (m : Mem) (c : Change) : SameClock d (landStepped d m c).1 := by
  unfold landStepped
  dsimp only
  split
  · exact .after (sameClock_wordLanded ..) (sameClock_landWords d c _)
  · exact .after (sameClock_landMode ..) (sameClock_landWords d c _)
  · split
    · exact sameClock_landWord ..
    · exact .refl _
  · exact .after (sameClock_landAct ..) (sameClock_landWords d c _)
  · exact sameClock_landRelief d _ _ c.arg
  · exact sameClock_landWords d c (fun _ => wholeWord)
  · split
    · exact sameClock_landCode d _ _
    · exact .refl _
  · exact sameClock_landSpan d _ c.arg c.cmd
  · split
    · exact sameClock_restoreUnit d m _ _
    · exact sameClock_retireUnit d m _ _ _
  · exact sameClock_landPower d c.arg
  · exact sameClock_handoverBegins d c.cmd
  · exact .after (sameClock_dropUnloaded _) (.beside (.refl _))
  · exact .refl _

theorem sameClock_landAll (d : Dev) (m : Mem) (ls : List Change) : SameClock d (landAll d m ls).1 := by
  unfold landAll
  generalize ([0, 1, 2, 3, 4, 5, 6, 7] : List Nat) = ranks
  exact .foldl_mem (fun _ _ => .foldl_mem (fun _ _ => sameClock_landStepped ..) _ _) _ _

theorem sameClock_settleOnce (d : Dev) (m : Mem) : SameClock d (settleOnce d m).1 := by
  unfold settleOnce
  dsimp only
  exact .after (.after (.after (.after (.after (.after (.after (.after (.after (.after (sameClock_beginDeferred ..)
    (sameClock_biasReturn ..)) (.after (sameClock_mirrorAtTick ..) (.after (sameClock_formDelays ..) (sameClock_selectBanks ..))))
    (sameClock_landAll ..)) (sameClock_landConfig ..)) (.foldl (fun _ _ => sameClock_landBlended ..) _ _)) (.foldl (fun _ _ =>
    sameClock_landCadence ..) _ _)) (sameClock_refuseModes ..)) (.beside (.refl _))) (sameClock_countLost54 ..)) (.waiting (.refl _))

theorem sameClock_modTime (d : Dev) (f : TimeUnit → TimeUnit) : SameClock d (d.modTime f) := .of_cad (Dev.modTime_cad ..)

theorem sameClock_unlock (d : Dev) : SameClock d d.unlock := .after (.ite (sameClock_raise ..) (.refl _)) (sameClock_modTime ..)

theorem sameClock_steerInc (d : Dev) (x : Int) : SameClock d (d.steerInc x) := sameClock_modTime ..

theorem sameClock_enterHoldover (d : Dev) : SameClock d d.enterHoldover :=
  .ite (.refl _) (.after (.ite (sameClock_steerInc ..) (.refl _)) (.after (sameClock_unlock ..) (.after (sameClock_raise ..)
    (sameClock_modTime ..))))

theorem sameClock_receiveEmptied (d : Dev) (was : Nat) : SameClock d (d.receiveEmptied was) :=
  .ite (sameClock_enterHoldover ..) (.refl _)

theorem sameClock_countLost (d : Dev) (k : Fin 8) : SameClock d (d.countLost k) := by
  unfold Dev.countLost
  dsimp only
  split
  · exact .refl _
  · exact .after (sameClock_modLane ..) (sameClock_fset ..)

theorem sameClock_switchSets (d : Dev) (ps : List Proposal) (rxSet : Option Nat) : SameClock d (d.switchSets ps rxSet) :=
  .after (.after (.ite (.refl _) (.after (.after (.ite (sameClock_raise ..) (.refl _)) (.ite (sameClock_raise ..) (.refl _)))
    (sameClock_count32 ..))) (.foldl (fun _ _ => .after (.after (.after (.ite (sameClock_laneLeft ..) (.refl _)) (.ite
    (sameClock_modLane ..) (.refl _))) (.ite (sameClock_modLane ..) (.refl _))) (.ite (sameClock_countLost ..) (.refl _))) _ _))
    (sameClock_modLink ..)

theorem sameClock_settleSets (d : Dev) : SameClock d d.settleSets :=
  .ite (.refl _) (.ite (.refl _) (.after (sameClock_switchSets ..) (sameClock_modLink ..)))

theorem sameClock_settle (d : Dev) (m : Mem) : SameClock d (settle d m).1 := by
  unfold settle
  exact .ite_fst (.refl _) (.after (.ite (.refl _) (.after (sameClock_flowShed ..) (.after (sameClock_receiveEmptied ..)
    (sameClock_settleSets ..)))) (.ite_fst (.refl _) (.after (sameClock_flowShed ..) (.foldl_mem (fun _ _ => .ite_fst
    (sameClock_settleOnce ..) (.refl _)) _ _))))

end Sys2Proof.Machine

/-! PROOFS. Weight-load messages: one that ends a BEAM_LOAD commits its switch, which may land late and is then counted. -/

open Sys2Proof.Machine

namespace Sys2Proof.Cert

/-! ### What final replies leave -/

/-- The registers that a reply may count in or raise. -/
def replyRegs : List Nat := [Reg.DRUNAS_REPLY_LOST, Reg.DRUNAS_EVT, Reg.DRUNAS_DONE, Reg.DRUNAS_LATE]

theorem sameRegs_send {as : List Nat} (d : Dev) (f : Nat) (ws : List Word) : SameRegsBut as d (d.send f ws) := by
  obtain ⟨l, is⟩ := d.send_link f ws
  rw [is]
  exact .of_regs rfl

theorem sameRegs_deliver (d : Dev) (spi : Bool) (ws : List Word) : SameRegsBut replyRegs d (d.deliver spi ws).1 := by
  unfold Dev.deliver
  split
  · split
    · exact .trans (sameRegs_count32 _ (by decide)) (sameRegs_raise _ 3 (by decide))
    · exact .trans (.of_regs rfl) (sameRegs_raise _ 0 (by decide))
  · split
    · exact sameRegs_count32 _ (by decide)
    · exact sameRegs_send d _ _

theorem sameRegs_doneReply (d : Dev) (p q : Bool) :
    SameRegsBut replyRegs d (if q then (if p then d.count32 Reg.DRUNAS_DONE else d).count32 Reg.DRUNAS_LATE
      else if p then d.count32 Reg.DRUNAS_DONE else d) := by
  have done : SameRegsBut replyRegs d (if p then d.count32 Reg.DRUNAS_DONE else d) := by
    split
    · exact sameRegs_count32 _ (by decide)
    · exact .of_regs rfl
  split
  · exact done.trans (sameRegs_count32 _ (by decide))
  · exact done

theorem sameRegs_reply (d : Dev) (spi auth : Bool) (op tag status supn time : Nat) (final : Bool) (results : List Word) :
    SameRegsBut replyRegs d (d.reply spi auth op tag status supn time final results) := by
  unfold Dev.reply
  cases auth
  · exact (sameRegs_deliver _ _ _).trans (sameRegs_doneReply _ _ _)
  · exact ((SameRegsBut.of_regs (e := (d.nextTxSeq spi).2) rfl).trans (sameRegs_deliver _ _ _)).trans (sameRegs_doneReply _ _ _)

/-- The command of this number is taken out, with its ranges and its clashes. -/
def withoutCmd (d : Dev) (id : Nat) : Dev := d.modDrunas fun x => { x with
  cmds := x.cmds.filter fun y => y.id != id
  ranges := x.ranges.filter fun (r : Nat × Nat × Nat) => r.1 != id
  clash := x.clash.filter fun (r : Nat × Nat × Nat) => r.1 != id }

theorem withoutCmd_regs (d : Dev) (id : Nat) : (withoutCmd d id).regs = d.regs := rfl

theorem withoutCmd_cad (d : Dev) (id : Nat) : (withoutCmd d id).cad = d.cad := rfl

/-- A final reply takes the command out, and is then a reply or, of a silent command, none. -/
theorem endReply_replies (d : Dev) (c : Cmd) (status time : Nat) : ∃ rs, d.endReply c status time =
    if c.silent then withoutCmd d c.id
    else (withoutCmd d c.id).reply c.spi c.auth c.opcode c.tag (lateStatus c.late status) c.lost time true rs := by
  unfold Dev.endReply
  exact ⟨_, rfl⟩

theorem sameRegs_endReply (d : Dev) (c : Cmd) (status time : Nat) : SameRegsBut replyRegs d (d.endReply c status time) := by
  obtain ⟨rs, is⟩ := endReply_replies d c status time
  rw [is]
  split
  · exact .of_regs (withoutCmd_regs ..)
  · exact .trans (.of_regs (withoutCmd_regs ..)) (sameRegs_reply _ _ _ _ _ _ _ _ _ _)

theorem endReply_cad (d : Dev) (c : Cmd) (status time : Nat) : (d.endReply c status time).cad = d.cad := by
  obtain ⟨rs, is⟩ := endReply_replies d c status time
  rw [is]
  split
  · exact withoutCmd_cad ..
  · obtain ⟨m, rises, sc, l, x, s, replied⟩ :=
      (withoutCmd d c.id).reply_replied c.spi c.auth c.opcode c.tag (lateStatus c.late status) c.lost time true rs
    exact (congrArg Dev.cad replied).trans (withoutCmd_cad d c.id)

/-- What every final reply keeps, the sending of final replies keeps. -/
theorem finals_keep {P : Dev → Prop} (each : ∀ d c status time, P d → P (Dev.endReply d c status time)) {d : Dev} (landed : Bool) (time : Nat)
    (holds : P d) : P (d.finals landed time) := by
  unfold Dev.finals
  generalize d.drunas.cmds = cmds
  induction cmds generalizing d with
  | nil => exact holds
  | cons c cmds ih =>
    refine ih ?_
    dsimp only
    split
    · split
      · exact each _ _ _ _ holds
      · exact holds
    · split
      · exact each _ _ _ _ holds
      · exact holds

theorem sameRegs_finalise (d : Dev) : SameRegsBut replyRegs d d.finalise :=
  finals_keep (P := SameRegsBut replyRegs d) (fun _ c status time before => before.trans (sameRegs_endReply _ c status time)) _ _ fun _ _ => rfl

theorem finalise_cad (d : Dev) : d.finalise.cad = d.cad :=
  finals_keep (P := fun e => e.cad = d.cad) (fun e c status time before => (endReply_cad e c status time).trans before) _ _ rfl

theorem sameClock_settled (d : Dev) (m : Mem) : SameClock d (settled (d, m)).1 :=
  .after (.of_cad (finalise_cad _)) (sameClock_settle d m)

/-! ### A BEAM_LOAD that its last message ends -/

section

open Sys2Proof.Tests

/-- A BEAM_LOAD with SWITCH whose time has gone by, at work. -/
def lateSwitch : Cmd := { cmdOf 0x401 .working [0, 0, 0] with params := [0x40000000, 0], late := false }

/-- The message of its TAG: one word for slot 0, layer 0, antenna 0. -/
def lastMessage : Inbox := { weightMsg with words := [0x00090000, ((0 : Word).put 25 19 1).put 18 13 1, 1] }

/-- Ticks run, and the message of a BEAM_LOAD whose time has gone by waits. -/
def lastOfLoad : State :=
  withDev (withCmd lateSwitch) { (withCmd lateSwitch).dev with link := { (withCmd lateSwitch).dev.link with inbox := [lastMessage] } }

end

theorem lastOfLoad_late : (weightMessage lastOfLoad.dev lastOfLoad.mem).1.rd Reg.CADENCE_LATE = 1 := by decide +kernel

theorem lastOfLoad_before : lastOfLoad.dev.rd Reg.CADENCE_LATE = 0 := by decide +kernel

theorem lastOfLoad_runs : (weightMessage lastOfLoad.dev lastOfLoad.mem).1.cad.running = true := by decide +kernel

/-- While ticks run, what an event settles to reads of a register that no reply writes what the event left. -/
theorem settled_rd {d : Dev} (m : Mem) {a : Nat} (runs : d.cad.running = true) (beside : a ∉ replyRegs) : (settled (d, m)).1.rd a = d.rd a := by
  unfold settled
  rw [settle_running d m runs]
  exact sameRegs_finalise d a beside

/-- What settles to one end, where ticks run, agrees on such a register. -/
theorem rd_of_settled {x y : Dev × Mem} {a : Nat} (same : settled x = settled y) (runs : y.1.cad.running = true) (beside : a ∉ replyRegs) :
    x.1.rd a = y.1.rd a := by
  obtain ⟨d, m⟩ := x
  obtain ⟨e, mem⟩ := y
  obtain ⟨cs, clock⟩ := sameClock_settled d m
  obtain ⟨cs', clock'⟩ := sameClock_settled e mem
  rw [same, clock'] at clock
  have runs' : d.cad.running = true := (congrArg Cadence.running clock).symm.trans runs
  have here := settled_rd m runs' beside
  rw [same] at here
  exact here.symm.trans (settled_rd mem runs beside)

/-- Refutes O56: the last message of a BEAM_LOAD with SWITCH commits the switch (R139, R293), and where the time of the command has gone
by, the commit is counted in CADENCE_LATE (R42), a register beside BEAM_BANK. -/
theorem not_cellsAndMessages : ¬ Obligations.CellsAndMessages := by
  unfold Obligations.CellsAndMessages
  rintro ⟨-, -, -, messages, -⟩
  obtain ⟨allowed, -⟩ := messages lastOfLoad lastMessage [] rfl rfl (by decide) (by decide) (by decide) (by decide)
  obtain ⟨d, mem, leads, -, -, -, regs⟩ := allowed (by decide +kernel) (by decide)
  have row : exec .weightLoadMessage lastOfLoad = .next (after lastOfLoad (weightMessage lastOfLoad.dev lastOfLoad.mem)) := rfl
  have same : settled (d, mem) = settled (weightMessage lastOfLoad.dev lastOfLoad.mem) := by
    rw [row] at leads
    injection leads with leads
    exact (Prod.ext (congrArg (fun t : State => t.dev) leads) (congrArg (fun t : State => t.mem) leads)).symm
  have late := rd_of_settled (a := Reg.CADENCE_LATE) same lastOfLoad_runs (by decide)
  rw [lastOfLoad_late, regs Reg.CADENCE_LATE (by decide), lastOfLoad_before] at late
  exact absurd late (by decide)

end Sys2Proof.Cert

/-! PROOFS. The cutoff of a tick: the clock has gone on to it, and commits from now on land one tick later (R40). -/

namespace Sys2Proof.Machine

/-! ### What the freezing of the changes leaves of the cadence unit and of time -/

section

variable {d e : Dev}

theorem countLost54_time (d : Dev) (ls : List Change) : (d.countLost54 ls).time = d.time := by
  refine foldl_keeps_of Dev.time (fun x c _ => ?_) d
  dsimp only
  split
  · rw [Dev.modCmd_time, Dev.count32_time]
  · exact Dev.count32_time ..

theorem withdraw_time (d : Dev) (others : List Change) (c : Change) : (d.withdraw others c).time = d.time := by
  unfold Dev.withdraw
  split
  · rfl
  · exact foldl_keeps_of Dev.time (fun x w _ => Dev.wr_time (d := x) ..) d

theorem refuseModes_time (d : Dev) (ls : List Change) : (d.refuseModes ls).1.time = d.time :=
  (foldl_keeps_of Dev.time (fun x _ _ => Dev.endCmd_time (d := x) ..) _).trans (foldl_keeps_of Dev.time (fun x c _ => withdraw_time x _ c) d)

/-- The cadence unit and the time unit of a device. -/
def clocks (d : Dev) : Cadence × TimeUnit := (d.cad, d.time)

theorem clocks_eq (same : clocks e = clocks d) : e.cad = d.cad ∧ e.time = d.time := Prod.ext_iff.mp same

theorem send_clocks (d : Dev) (f : Nat) (ws : List Word) : clocks (d.send f ws) = clocks d := by
  obtain ⟨l, is⟩ := d.send_link f ws
  rw [is]
  rfl

theorem fixSets_clocks (d : Dev) (land edge : Nat) : clocks (d.fixSets land edge) = clocks d := by
  unfold Dev.fixSets
  dsimp only
  split
  · rfl
  · exact send_clocks _ _ _

theorem clocks_rises (d : Dev) (rs : List Rise) : clocks { d with rises := rs } = clocks d := rfl

theorem eventMessages_clocks (d : Dev) : clocks d.eventMessages = clocks d := by
  unfold Dev.eventMessages
  refine (clocks_rises _ _).trans (foldl_keeps_of clocks (fun x g _ => ?_) d)
  dsimp only
  split
  · split
    · exact send_clocks _ _ _
    · rfl
  · rfl

/-- The changes that are fixed for the next tick, those that lose under R54 and those that stay. -/
def fixedBy (d : Dev) : List Change × List Change := superseded (d.cad.changes.filter fun c => c.landsAt (d.cad.tickIdx + 1) d.nextNom)

def waitsOn (d : Dev) : List Change := d.cad.changes.filter fun c => !c.landsAt (d.cad.tickIdx + 1) d.nextNom

theorem refuseModes_nil (d : Dev) : (d.refuseModes []).2 = [] := rfl

/-- The device at a cutoff once the modes that may not land are refused, and the changes that are left to land. -/
def refusals (d : Dev) : Dev × List Change :=
  (({ d with cad := { d.cad with changes := waitsOn d } }).countLost54 (fixedBy d).2).refuseModes (fixedBy d).1

/-- After them the numerology is judged, at a frame boundary. -/
def judged (d : Dev) : Dev × List Change := if isFrame d.nextNom then (refusals d).1.judgeMu (refusals d).2 else refusals d

/-- The changes are frozen. -/
def frozenWith (rest : List Change) (x : Dev × List Change) : Dev :=
  { x.1 with cad := { x.1.cad with changes := x.2.map x.1.latchEntry ++ rest, frozen := true } }

theorem freeze_eq (d : Dev) : d.freeze =
    ((frozenWith (waitsOn d) (judged d)).fixSets (d.cad.tickIdx + 1)
      ((frozenWith (waitsOn d) (judged d)).time.cycle + (frozenWith (waitsOn d) (judged d)).toEdge)).eventMessages := by
  unfold Dev.freeze judged
  rfl

theorem freeze_clocks (d : Dev) : d.freeze.cad = (frozenWith (waitsOn d) (judged d)).cad ∧ d.freeze.time = (judged d).1.time := by
  have same : clocks d.freeze = clocks (frozenWith (waitsOn d) (judged d)) := by
    rw [freeze_eq, eventMessages_clocks, fixSets_clocks]
  exact clocks_eq same

theorem refusals_time (d : Dev) : (refusals d).1.time = d.time :=
  (refuseModes_time _ _).trans (countLost54_time _ _)

theorem sameClock_refusals (d : Dev) : SameClock d (refusals d).1 :=
  .after (sameClock_refuseModes ..) (.after (sameClock_countLost54 ..) (.waiting (.refl _)))

/-- Judging the numerology touches of the device the next held numerology alone. -/
theorem judgeMu_frame (d : Dev) (ls : List Change) : ∃ mu, (d.judgeMu ls).1 = { d with cad := { d.cad with muNext := mu } } := by
  unfold Dev.judgeMu
  dsimp only
  split
  · exact ⟨d.cad.muNext, rfl⟩
  · split
    · exact ⟨_, rfl⟩
    · exact ⟨_, rfl⟩
  · split
    · exact ⟨d.cad.muNext, rfl⟩
    · exact ⟨_, rfl⟩

theorem judgeMu_nil (held : d.cad.muHeld = none) : d.judgeMu [] = (d, []) := by
  unfold Dev.judgeMu
  simp only [List.findSome?_nil, held]

theorem cad_muNext {c : Cadence} {cs : List Change} {mu : Option (Option Nat)} (is : d.cad = { c with changes := cs }) :
    ({ d with cad := { d.cad with muNext := mu } } : Dev).cad = { c with changes := cs, muNext := mu } := by rw [is]

theorem judged_cad (d : Dev) : (judged d).1.time = d.time ∧ ∃ cs mu, (judged d).1.cad = { d.cad with changes := cs, muNext := mu } := by
  obtain ⟨cs, clock⟩ := sameClock_refusals d
  unfold judged
  split
  · obtain ⟨mu, frame⟩ := judgeMu_frame (refusals d).1 (refusals d).2
    rw [frame]
    exact ⟨refusals_time d, cs, mu, cad_muNext clock⟩
  · exact ⟨refusals_time d, cs, d.cad.muNext, clock⟩

theorem frozenWith_changes (rest : List Change) (x : Dev × List Change) :
    (frozenWith rest x).cad.changes = x.2.map x.1.latchEntry ++ rest := rfl

theorem frozenWith_cad {c : Cadence} {cs : List Change} {mu : Option (Option Nat)} {x : Dev × List Change} (rest : List Change)
    (is : x.1.cad = { c with changes := cs, muNext := mu }) :
    ∃ cs', (frozenWith rest x).cad = { c with changes := cs', muNext := mu, frozen := true } := by
  rw [frozenWith, is]
  exact ⟨_, rfl⟩

/-- The cadence unit and the clock after the freezing at a cutoff. -/
theorem freeze_clock (d : Dev) : d.freeze.time = d.time ∧ ∃ cs mu, d.freeze.cad = { d.cad with changes := cs, muNext := mu, frozen := true } := by
  obtain ⟨is, then_⟩ := freeze_clocks d
  obtain ⟨time, cs, mu, cad⟩ := judged_cad d
  obtain ⟨cs', frozen⟩ := frozenWith_cad (waitsOn d) cad
  exact ⟨then_.trans time, cs', mu, is.trans frozen⟩

/-- With no change pending and no numerology held none is pending after a cutoff. -/
theorem freeze_changes (none : d.cad.changes = []) (held : d.cad.muHeld = Option.none) : d.freeze.cad.changes = [] := by
  have waits : waitsOn d = [] := by rw [waitsOn, none, List.filter_nil]
  have fixed : fixedBy d = ([], []) := by
    rw [fixedBy, none, List.filter_nil]
    rfl
  have left : (refusals d).2 = [] := by
    rw [refusals, fixed]
    exact refuseModes_nil _
  have holds : (refusals d).1.cad.muHeld = Option.none := by
    obtain ⟨cs, clock⟩ := sameClock_refusals d
    exact (congrArg Cadence.muHeld clock).trans held
  have judge : (judged d).2 = [] := by
    unfold judged
    split
    · rw [left, judgeMu_nil holds]
    · exact left
  rw [(freeze_clocks d).1, frozenWith_changes, judge, waits]
  rfl

end

end Sys2Proof.Machine

namespace Sys2Proof.Cert

open Sys2Proof.Machine

theorem cutoff_running {d : Dev} (m : Mem) (runs : d.cad.running = true) (thaws : d.cad.frozen = false) (mid : d.cad.midDone = true) :
    cutoff d m = (d.cutoffNow, m) := by
  unfold cutoff
  simp only [Dev.ticking, runs, thaws, mid, Bool.true_or, Bool.not_true, Bool.false_or, Bool.false_eq_true, if_false, if_true]

theorem cutoffNow_eq (d : Dev) : d.cutoffNow = (d.passCycles d.toCutoff).freeze := rfl

theorem passed_clock (d : Dev) (n : Nat) (cs : List Change) (mu : Option (Option Nat)) :
    (d.passCycles n).time.cycle = d.time.cycle + n ∧
    ({ (d.passCycles n).cad with changes := cs, muNext := mu, frozen := true } : Cadence).frozen = true ∧
    ({ (d.passCycles n).cad with changes := cs, muNext := mu, frozen := true } : Cadence).tickIdx = d.cad.tickIdx ∧
    ({ (d.passCycles n).cad with changes := cs, muNext := mu, frozen := true } : Cadence).since = d.cad.since + n := ⟨rfl, rfl, rfl, rfl⟩

/-- A cutoff passes the cycles up to it and freezes what lands at the tick. -/
theorem cutoffNow_clock (d : Dev) : d.cutoffNow.time.cycle = d.time.cycle + d.toCutoff ∧ d.cutoffNow.cad.frozen = true ∧
    d.cutoffNow.cad.tickIdx = d.cad.tickIdx ∧ d.cutoffNow.cad.since = d.cad.since + d.toCutoff := by
  rw [cutoffNow_eq]
  obtain ⟨time, cs, mu, cad⟩ := freeze_clock (d.passCycles d.toCutoff)
  rw [time, cad]
  exact passed_clock d _ cs mu

theorem passed_changes (d : Dev) (n : Nat) : (d.passCycles n).cad.changes = d.cad.changes := rfl

theorem passed_muHeld (d : Dev) (n : Nat) : (d.passCycles n).cad.muHeld = d.cad.muHeld := rfl

theorem cutoffNow_changes {d : Dev} (none : d.cad.changes = []) (held : d.cad.muHeld = Option.none) : d.cutoffNow.cad.changes = [] := by
  rw [cutoffNow_eq]
  exact freeze_changes ((passed_changes ..).trans none) ((passed_muHeld ..).trans held)

theorem cutoff_leads {s : State} (runs : s.dev.cad.running = true) (thaws : s.dev.cad.frozen = false) (mid : s.dev.cad.midDone = true) :
    Leads s .cutoff s.dev.cutoffNow := by
  have row : exec .cutoff s = .next (after s (cutoff s.dev s.mem)) := rfl
  rw [cutoff_running s.mem runs thaws mid] at row
  exact row

theorem nextLanding_thawed {d : Dev} (thaws : d.cad.frozen = false) : d.nextLanding = d.cad.tickIdx + 1 := by
  rw [Dev.nextLanding, thaws]
  rfl

theorem nextLanding_frozen {d : Dev} (frozen : d.cad.frozen = true) : d.nextLanding = d.cad.tickIdx + 2 := by
  rw [Dev.nextLanding, frozen]
  rfl

theorem cutoffFreezes : CutoffFreezes := by
  intro s runs thaws mid
  obtain ⟨cycle, frozen, idx, since⟩ := cutoffNow_clock s.dev
  exact ⟨s.dev.cutoffNow, cutoff_leads runs thaws mid, frozen, idx, cycle, since, nextLanding_thawed thaws,
    (nextLanding_frozen frozen).trans (congrArg (· + 2) idx), cutoffNow_changes⟩

end Sys2Proof.Cert

/-! PROOFS. The start of ticks: the first tick stands at the edge that was asked for (R57). -/

namespace Sys2Proof.Machine

/-- The cadence unit at the edge of a tick, for what it says of RUN and of a start that waits. -/
structure AtEdge (n nom : Nat) (runs : Bool) (start : Option Nat) (c : Cadence) : Prop where
  running : c.running = runs
  startAt : c.startAt = start
  nom : c.nom = nom
  tickIdx : c.tickIdx = n
  since : c.since = 0
  midDone : c.midDone = false

section

variable {d e : Dev} {n nom : Nat} {runs : Bool} {start : Option Nat}

theorem AtEdge.of_sameClock (edge : AtEdge n nom runs start d.cad) (same : SameClock d e) : AtEdge n nom runs start e.cad := by
  obtain ⟨cs, is⟩ := same
  rw [is]
  exact ⟨edge.running, edge.startAt, edge.nom, edge.tickIdx, edge.since, edge.midDone⟩

theorem tickEdge_atEdge (d : Dev) (n nom : Nat) : AtEdge n nom d.cad.running d.cad.startAt (d.tickEdge n nom).cad :=
  ⟨rfl, rfl, rfl, rfl, rfl, rfl⟩

theorem sameClock_tickClosed (d : Dev) : SameClock d d.tickClosed :=
  .after (.ite (sameClock_wr ..) (.refl _)) (sameClock_closeSymbol d)

theorem sameClock_tickSettles (d : Dev) (ended : Nat) : SameClock d (d.tickSettles ended) := .foldl (fun _ _ => sameClock_modPath ..) _ _

theorem sameClock_tickNumerology (d : Dev) (n nom : Nat) : SameClock d (d.tickNumerology n nom) :=
  .waiting (.foldl sameClock_landCadence _ _)

theorem sameClock_tickShown (d : Dev) (nom : Nat) : SameClock (d.tickClosed.tickEdge (d.cad.tickIdx + 1) nom) (d.tickShown nom) :=
  .after (sameClock_publish ..) (.after (sameClock_tickNumerology ..) (sameClock_tickSettles ..))

theorem sameClock_tickBlended (d : Dev) (m : Mem) (n nom resid : Nat) : SameClock d (d.tickBlended m n nom resid) := by
  unfold Dev.tickBlended
  exact .after (sameClock_openSymbol _) (.after (sameClock_reenter _) (.after (sameClock_rescaleAtTick _ m) (.after (sameClock_mirrorAtTick _)
    (.after (sameClock_selectBanks _) (.after (sameClock_formDelays _ resid) (.after (.ite (sameClock_healAtTick _ _) (.refl _))
      (.foldl sameClock_landBlended _ _)))))))

theorem sameClock_tickUnits (d after : Dev) (gap : Bool) : SameClock d (d.tickUnits after gap) :=
  .after (sameClock_senseAll _) (.after (sameClock_biasTouched _) (.after (sameClock_snapTick _) (.after (sameClock_calTick _ after)
    (.ite (sameClock_unsettleSymbol _) (sameClock_markCarried _)))))

theorem sameClock_tickReady (d : Dev) (m : Mem) (nom : Nat) : SameClock (d.tickClosed.tickEdge (d.cad.tickIdx + 1) nom) (d.tickReady m nom) := by
  unfold Dev.tickReady
  exact .after (sameClock_tickUnits _ _ _) (.after (sameClock_tickBlended _ _ _ _ _) (sameClock_tickShown d nom))

theorem sameClock_tickCores (d : Dev) (m : Mem) (nom : Nat) : SameClock (d.tickReady m nom) (tickCores d m nom).1 := by
  unfold tickCores
  exact .after (sameClock_coreTestsTick _ _) (.after (sameClock_chiselTick _ _ _) (sameClock_askUpdates _))

/-- The device of the tick but for the length of its symbol. -/
def tickSpent (d : Dev) : Dev := (d.soundTick.spendAccepted.satTick).dpdRests 2

theorem tickDone_eq (d : Dev) : d.tickDone = { tickSpent d with cad := { (tickSpent d).cad with len := (tickSpent d).symCycles } } := rfl

theorem sameClock_tickSpent (d : Dev) : SameClock d (tickSpent d) :=
  .after (sameClock_dpdRests _ 2) (.after (sameClock_satTick _) (.after (sameClock_spendAccepted _) (sameClock_soundTick d)))

theorem AtEdge.measured (edge : AtEdge n nom runs start d.cad) (len : Nat) :
    AtEdge n nom runs start ({ d with cad := { d.cad with len := len } } : Dev).cad :=
  ⟨edge.running, edge.startAt, edge.nom, edge.tickIdx, edge.since, edge.midDone⟩

theorem tickDone_atEdge (edge : AtEdge n nom runs start d.cad) : AtEdge n nom runs start d.tickDone.cad := by
  rw [tickDone_eq]
  exact (edge.of_sameClock (sameClock_tickSpent d)).measured _

/-- Where a tick leaves the cadence unit. -/
theorem tickAt_atEdge (d : Dev) (m : Mem) (nom : Nat) :
    AtEdge (d.cad.tickIdx + 1) nom d.tickClosed.cad.running d.tickClosed.cad.startAt (tickAt d m nom).1.cad := by
  rw [tickAt_eq]
  exact tickDone_atEdge ((tickEdge_atEdge d.tickClosed (d.cad.tickIdx + 1) nom).of_sameClock
    ((sameClock_tickCores d m nom).after (sameClock_tickReady d m nom)))

/-! ### The device before its first tick -/

/-- A device whose ticks are to start, after the cutoff of the first one. -/
def startFrozen (d : Dev) : Dev := if d.cad.frozen then d else d.cutoffNow

/-- Ticks run from the next edge on. -/
def startRunning (d : Dev) : Dev :=
  { d with cad := { d.cad with running := true, startAt := none, gapTo := none, lag := 0 }, sig := Datapath.reset }

theorem startReady_eq (d : Dev) : d.startReady = startRunning ((startFrozen d).passCycles (startFrozen d).toEdge) := rfl

theorem startFrozen_tickIdx (d : Dev) : (startFrozen d).cad.tickIdx = d.cad.tickIdx := by
  unfold startFrozen
  split
  · rfl
  · obtain ⟨-, -, idx, -⟩ := Cert.cutoffNow_clock d
    exact idx

theorem startRunning_cad (d : Dev) (n : Nat) : (startRunning (d.passCycles n)).cad.running = true ∧
    (startRunning (d.passCycles n)).cad.startAt = none ∧ (startRunning (d.passCycles n)).cad.tickIdx = d.cad.tickIdx := ⟨rfl, rfl, rfl⟩

theorem startReady_closed (d : Dev) : d.startReady.tickClosed.cad.running = true ∧ d.startReady.tickClosed.cad.startAt = none ∧
    d.startReady.cad.tickIdx = d.cad.tickIdx := by
  obtain ⟨cs, clock⟩ := sameClock_tickClosed d.startReady
  obtain ⟨running, startAt, tickIdx⟩ := startRunning_cad (startFrozen d) (startFrozen d).toEdge
  rw [← startReady_eq] at running startAt tickIdx
  exact ⟨(congrArg Cadence.running clock).trans running, (congrArg Cadence.startAt clock).trans startAt,
    tickIdx.trans (startFrozen_tickIdx d)⟩

end

end Sys2Proof.Machine

namespace Sys2Proof.Cert

open Sys2Proof.Machine

theorem ticksStartAtTheFrame : TicksStartAtTheFrame := by
  intro s f start rests advances
  have row : exec .ticksStart s = .next (after s (ticksStart s.dev s.mem)) := rfl
  rw [ticksStart_due s.mem start (by rw [rests, advances]; rfl)] at row
  have edge := tickAt_atEdge s.dev.startReady s.mem f
  obtain ⟨running, startAt, tickIdx⟩ := startReady_closed s.dev
  rw [running, startAt, tickIdx] at edge
  generalize tickAt s.dev.startReady s.mem f = first at row edge
  obtain ⟨d, m⟩ := first
  exact ⟨d, m, row, edge.running, edge.startAt, edge.nom, edge.tickIdx, edge.since, edge.midDone⟩

end Sys2Proof.Cert

/-! PROOFS. The seam midpoint: a power-step index that lands there is in force, and what follows keeps it (R46, R51, R83). -/

namespace Sys2Proof.Machine

/-- `e` has of `d` what is in force for power-step index `k` of tile `t`, the entry of its path, the changes that wait and the commands. -/
def SameIndex (t : Fin 4) (k : Fin 16) (d e : Dev) : Prop :=
  e.inf (Reg.TILE_PIDX t.val k.val) = d.inf (Reg.TILE_PIDX t.val k.val) ∧ e.paths[pathOf t k].pstep = d.paths[pathOf t k].pstep ∧
    e.cad.changes = d.cad.changes ∧ e.drunas.cmds = d.drunas.cmds

section

variable {t : Fin 4} {k : Fin 16} {d e f : Dev}

theorem SameIndex.refl (d : Dev) : SameIndex t k d d := ⟨rfl, rfl, rfl, rfl⟩

/-- First `d` becomes `e`, and after that `e` becomes `f`. -/
theorem SameIndex.after (second : SameIndex t k e f) (first : SameIndex t k d e) : SameIndex t k d f := by
  obtain ⟨inf, pstep, changes, cmds⟩ := second
  obtain ⟨inf', pstep', changes', cmds'⟩ := first
  exact ⟨inf.trans inf', pstep.trans pstep', changes.trans changes', cmds.trans cmds'⟩

theorem SameIndex.of_parts (inf : e.inforce = d.inforce) (paths : e.paths = d.paths) (cad : e.cad = d.cad) (drunas : e.drunas = d.drunas) :
    SameIndex t k d e :=
  ⟨by rw [Dev.inf, Dev.inf, inf], by rw [paths], by rw [cad], by rw [drunas]⟩

theorem SameIndex.ite {c : Prop} [Decidable c] (yes : SameIndex t k d e) (no : SameIndex t k d f) : SameIndex t k d (if c then e else f) := by
  split
  · exact yes
  · exact no

theorem SameIndex.foldl {α : Type} {g : Dev → α → Dev} (each : ∀ d a, SameIndex t k d (g d a)) (l : List α) (d : Dev) :
    SameIndex t k d (l.foldl g d) := by
  induction l generalizing d with
  | nil => exact .refl d
  | cons a l ih => exact (ih (g d a)).after (each d a)

/-! ### The operations of the units -/

theorem sameIndex_raise (d : Dev) (a b : Nat) : SameIndex t k d (d.raise a b) :=
  .of_parts (Dev.raise_inforce ..) (Dev.raise_paths ..) (Dev.raise_cad ..) (Dev.raise_drunas ..)

theorem sameIndex_wr (d : Dev) (a : Nat) (w : Word) : SameIndex t k d (d.wr a w) := .of_parts rfl rfl rfl rfl

theorem sameIndex_fset (d : Dev) (a hi lo n : Nat) : SameIndex t k d (d.fset a hi lo n) := sameIndex_wr ..

theorem sameIndex_count32 (d : Dev) (a : Nat) : SameIndex t k d (d.count32 a) :=
  .of_parts (Dev.count32_inforce ..) (Dev.count32_paths ..) (Dev.count32_cad ..) (Dev.count32_drunas ..)

theorem sameIndex_modTile (d : Dev) (u : Fin 4) (f : Tile → Tile) : SameIndex t k d (d.modTile u f) := .of_parts rfl rfl rfl rfl

theorem sameIndex_modRelief (d : Dev) (u : Fin 4) (f : ReliefTile → ReliefTile) : SameIndex t k d (d.modRelief u f) := .of_parts rfl rfl rfl rfl

theorem sameIndex_modDpd (d : Dev) (p : Fin 64) (f : DpdPath → DpdPath) : SameIndex t k d (d.modDpd p f) := .of_parts rfl rfl rfl rfl

theorem sameIndex_modOrx (d : Dev) (u : Fin 16) (f : Orx → Orx) : SameIndex t k d (d.modOrx u f) := .of_parts rfl rfl rfl rfl

theorem sameIndex_modCal (d : Dev) (p : Fin 64) (f : CalPath → CalPath) : SameIndex t k d (d.modCal p f) := .of_parts rfl rfl rfl rfl

theorem sameIndex_modOut (d : Dev) (n : Fin 96) (f : BiasOut → BiasOut) : SameIndex t k d (d.modOut n f) := .of_parts rfl rfl rfl rfl

theorem sameIndex_modLink (d : Dev) (f : Link → Link) : SameIndex t k d (d.modLink f) := .of_parts rfl rfl rfl rfl

theorem sameIndex_link (d : Dev) (l : Link) : SameIndex t k d { d with link := l } := .of_parts rfl rfl rfl rfl

theorem sameIndex_beam (d : Dev) (b : Beam) : SameIndex t k d { d with beam := b } := .of_parts rfl rfl rfl rfl

theorem sameIndex_bias (d : Dev) (b : Bias) : SameIndex t k d { d with bias := b } := .of_parts rfl rfl rfl rfl

theorem sameIndex_cal (d : Dev) (c : Cal) : SameIndex t k d { d with cal := c } := .of_parts rfl rfl rfl rfl

theorem sameIndex_dpd (d : Dev) (x : Dpd) : SameIndex t k d { d with dpd := x } := .of_parts rfl rfl rfl rfl

theorem sameIndex_freeCtr (d : Dev) (n : Nat) : SameIndex t k d { d with freeCtr := n } := .of_parts rfl rfl rfl rfl

theorem sameIndex_noteMark (d : Dev) (p : Fin 64) (a b : Nat) : SameIndex t k d (d.noteMark p a b) := .of_parts rfl rfl rfl rfl

theorem sameIndex_settleSymbol (d : Dev) : SameIndex t k d d.settleSymbol := .of_parts rfl rfl rfl rfl

theorem sameIndex_send (d : Dev) (flow : Nat) (ws : List Word) : SameIndex t k d (d.send flow ws) := by
  obtain ⟨l, is⟩ := d.send_link flow ws
  rw [is]
  exact sameIndex_link d l

/-- A change of a path that leaves its power-step entry. -/
theorem sameIndex_modPath (d : Dev) (p : Fin 64) {g : PathSt → PathSt} (keeps : ∀ s, (g s).pstep = s.pstep) : SameIndex t k d (d.modPath p g) := by
  refine ⟨rfl, ?_, rfl, rfl⟩
  unfold Dev.modPath
  by_cases same : p = pathOf t k
  · subst same
    simp [keeps]
  · simp [Vector.getElem_set_ne, Fin.val_ne_of_ne same]

theorem sameIndex_setInf (d : Dev) {a : Nat} (w m : Word) (other : Reg.TILE_PIDX t.val k.val ≠ a) : SameIndex t k d (d.setInf a w m) :=
  ⟨d.inf_setInf_ne _ _ other, rfl, rfl, rfl⟩

/-! ### The units at the seam midpoint -/

theorem sameIndex_markUnsettled (d : Dev) (p : Fin 64) : SameIndex t k d (d.markUnsettled p) := by
  unfold Dev.markUnsettled
  dsimp only
  exact .after (.ite (sameIndex_raise ..) (.refl _)) (.after (.ite (sameIndex_noteMark ..) (.refl _))
    (.ite (.refl _) (sameIndex_modPath _ _ fun _ => rfl)))

theorem sameIndex_jumpMarks (d : Dev) : SameIndex t k d d.jumpMarks := by
  refine .foldl (fun d p => ?_) _ d
  exact .ite (.after (sameIndex_modPath _ p fun _ => rfl) (sameIndex_markUnsettled d p)) (.refl d)

theorem sameIndex_healed (d : Dev) : SameIndex t k d d.healed := by
  refine .foldl (fun d p => ?_) _ d
  exact .ite (sameIndex_modPath d p fun _ => rfl) (.refl d)

theorem sameIndex_shedStep (d : Dev) (f : Nat) (shed : Bool) : SameIndex t k d (d.shedStep f shed) :=
  .after (.ite (.after (sameIndex_raise ..) (sameIndex_count32 ..)) (sameIndex_raise ..)) (sameIndex_send ..)

theorem sameIndex_flowShed (d : Dev) : SameIndex t k d d.flowShed :=
  .after (.foldl (fun _ _ => sameIndex_shedStep ..) _ _) (.after (.foldl (fun _ _ => sameIndex_shedStep ..) _ _) (sameIndex_modLink ..))

theorem sameIndex_startSyn (d : Dev) (u : Fin 4) (b : Bool) (int frac : Word) : SameIndex t k d (d.startSyn u b int frac) := sameIndex_modTile ..

theorem sameIndex_stopSyn (d : Dev) (u : Fin 4) (b : Bool) : SameIndex t k d (d.stopSyn u b) := sameIndex_modTile ..

theorem sameIndex_unqualify (d : Dev) (u : Fin 4) (b : Bool) : SameIndex t k d (d.unqualify u b) :=
  .after (.ite (sameIndex_raise ..) (.refl _)) (sameIndex_modTile ..)

theorem sameIndex_retune (d : Dev) (u : Fin 4) (b : Bool) (int frac : Word) : SameIndex t k d (d.retune u b int frac) :=
  .after (sameIndex_modTile ..) (.ite (sameIndex_unqualify ..) (.refl _))

theorem sameIndex_unalign (d : Dev) (u : Fin 4) : SameIndex t k d (d.unalign u) := sameIndex_modTile ..

theorem sameIndex_roleStandby (d : Dev) (u : Fin 4) : SameIndex t k d (d.roleStandby u) := by
  unfold Dev.roleStandby
  dsimp only
  refine .ite (.refl _) ?_
  split
  · exact sameIndex_stopSyn ..
  · exact .ite (sameIndex_startSyn ..) (.ite (.refl _) (.after (sameIndex_unalign ..) (sameIndex_retune ..)))
  · exact .ite (sameIndex_startSyn ..) (.ite (.refl _) (sameIndex_retune ..))

theorem sameIndex_beginSynthOn (d : Dev) (u : Fin 4) : SameIndex t k d (d.beginSynthOn u) :=
  .after (sameIndex_roleStandby ..) (.after (sameIndex_startSyn ..) (sameIndex_modTile ..))

theorem sameIndex_idlePaths (d : Dev) (u : Fin 4) : SameIndex t k d (d.idlePaths u) := by
  refine .foldl (fun d p => ?_) _ d
  exact sameIndex_modPath d p fun _ => rfl

theorem sameIndex_beginLevel (d : Dev) (u : Fin 4) (l : Nat) : SameIndex t k d (d.beginLevel u l) :=
  .ite (.refl _) (.ite (.ite (sameIndex_modTile ..) (sameIndex_beginSynthOn ..))
    (.after (sameIndex_modTile ..) (.after (sameIndex_stopSyn ..) (.after (sameIndex_stopSyn ..) (sameIndex_idlePaths ..)))))

theorem sameIndex_beginPath (d : Dev) (p : Fin 64) (m : Nat) : SameIndex t k d (d.beginPath p m) :=
  .ite (.refl _) (.ite (.after (sameIndex_modPath _ _ fun _ => rfl) (.ite (sameIndex_noteMark ..) (.refl _)))
    (.ite (sameIndex_raise ..) (.ite (sameIndex_modPath _ _ fun _ => rfl)
      (.after (sameIndex_modPath _ _ fun _ => rfl) (.ite (sameIndex_noteMark ..) (.refl _))))))

theorem sameIndex_beginDeferred (d : Dev) : SameIndex t k d d.beginDeferred := by
  unfold Dev.beginDeferred
  dsimp only
  refine .after (.foldl (fun d _ => ?_) _ _) (.foldl (fun d _ => ?_) _ _)
  · split
    · exact .ite (.after (sameIndex_count32 ..) (.after (sameIndex_beginPath ..) (sameIndex_modPath _ _ fun _ => rfl))) (.refl _)
    · exact .refl _
  · split
    · exact .ite (.after (sameIndex_count32 ..) (.after (sameIndex_beginLevel ..) (sameIndex_modTile ..))) (.refl _)
    · exact .refl _

theorem sameIndex_muteAtMidpoint (d : Dev) : SameIndex t k d d.muteAtMidpoint := by
  refine .foldl (fun d p => ?_) _ d
  exact .ite (sameIndex_modPath d p fun _ => rfl) (.refl d)

theorem sameIndex_rebandIdle (d : Dev) (u : Fin 4) : SameIndex t k d (d.rebandIdle u) :=
  .ite (.after (sameIndex_modTile ..) (.after (sameIndex_modTile ..) (sameIndex_unqualify ..))) (.refl _)

theorem sameIndex_handover (d : Dev) (u : Fin 4) (toB : Bool) : SameIndex t k d (d.handover u toB) :=
  .after (sameIndex_roleStandby ..) (.after (.ite (.refl _) (sameIndex_unalign ..)) (sameIndex_modTile ..))

theorem sameIndex_loClose (d : Dev) (u : Fin 4) : SameIndex t k d (d.loClose u) := by
  unfold Dev.loClose
  split
  · exact .ite (sameIndex_modTile ..) (.refl _)
  · exact .refl _

theorem sameIndex_rxUnsettled (d : Dev) (u : Fin 4) : SameIndex t k d (d.rxUnsettled u) :=
  .after (.foldl (fun _ _ => .ite (sameIndex_raise ..) (.refl _)) _ _) (sameIndex_modTile ..)

theorem pidx_ne_synCtrl (t u : Fin 4) (k : Fin 16) : Reg.TILE_PIDX t.val k.val ≠ Reg.TILE_SYN_CTRL u := by
  simp only [Reg.TILE_PIDX, Reg.TILE_SYN_CTRL]
  omega

/-- The automatic handover of a tile whose active synthesizer has lost its qualification, noted in its ACT bit. -/
theorem sameIndex_handedOver (d : Dev) (u : Fin 4) (o : Bool) (c : Prop) [Decidable c] :
    SameIndex t k d ((((if c then d.handover u o else (d.handover u o).fset (Reg.TILE_SYN_CTRL u) 0 0 (b2n o)).setInf (Reg.TILE_SYN_CTRL u)
      (BitVec.ofNat 32 (b2n o)) 1)).raise (Reg.TILE_EVT u) 4) :=
  .after (sameIndex_raise ..) (.after (sameIndex_setInf _ _ _ (pidx_ne_synCtrl t u k))
    (.ite (sameIndex_handover ..) (.after (sameIndex_fset ..) (sameIndex_handover ..))))

theorem sameIndex_tileMidpoint (d : Dev) (u : Fin 4) : SameIndex t k d (d.tileMidpoint u) := by
  unfold Dev.tileMidpoint
  dsimp only
  exact .ite (sameIndex_modTile ..) (.after (.ite (.after (sameIndex_raise ..) (.after (sameIndex_count32 ..) (sameIndex_modTile ..))) (.refl _))
    (.after (.ite (sameIndex_loClose ..) (sameIndex_rxUnsettled ..)) (.after (sameIndex_modTile ..)
      (.ite (sameIndex_handover ..) (.ite (sameIndex_handedOver ..) (.refl _))))))

theorem sameIndex_tilesMidpoint (d : Dev) : SameIndex t k d d.tilesMidpoint :=
  .foldl (fun _ _ => .after (sameIndex_tileMidpoint ..) (sameIndex_rebandIdle ..)) _ _

theorem sameIndex_spareMidpoint (d : Dev) : SameIndex t k d d.spareMidpoint := by
  unfold Dev.spareMidpoint
  split
  · exact .ite (.after (.ite (sameIndex_raise ..) (.refl _)) (sameIndex_beam ..)) (.refl _)
  · exact .refl _

theorem sameIndex_spoil (d : Dev) (p : Fin 64) : SameIndex t k d (d.spoil p) := sameIndex_modOrx ..

theorem sameIndex_capturesMidpoint (d : Dev) (touched : List (Fin 64)) : SameIndex t k d (d.capturesMidpoint touched) := by
  unfold Dev.capturesMidpoint
  dsimp only
  refine .after (.foldl (fun d _ => ?_) _ _) (.foldl (fun _ _ => sameIndex_modDpd ..) _ _)
  split
  · exact .ite (sameIndex_spoil ..) (.refl _)
  · refine .ite (.refl _) ?_
    split
    · split
      · exact .after (sameIndex_dpd ..) (sameIndex_modOrx ..)
      · exact sameIndex_modOrx ..
    · exact .refl _

theorem sameIndex_landIdle (d : Dev) (x : IdleItem) : SameIndex t k d (d.landIdle x) :=
  .after (.ite (.after (sameIndex_modTile ..) (sameIndex_freeCtr ..)) (.refl _)) (.after (.foldl (fun _ _ => sameIndex_modCal ..) _ _)
    (.foldl (fun _ _ => sameIndex_wr ..) _ _))

theorem sameIndex_addIdle (d : Dev) (x : IdleItem) : SameIndex t k d (d.addIdle x) := sameIndex_cal ..

theorem sameIndex_calSyn (d : Dev) (u : Fin 4) (b : Bool) : SameIndex t k d (d.calSyn u b) := sameIndex_modTile ..

theorem sameIndex_idleMidpoint (d : Dev) : SameIndex t k d d.idleMidpoint :=
  .after (.foldl (fun _ _ => .ite (.after (sameIndex_calSyn ..) (sameIndex_cal ..)) (.refl _)) _ _)
    (.after (.foldl (fun _ _ => .ite (sameIndex_landIdle ..) (sameIndex_addIdle ..)) _ _) (sameIndex_cal ..))

theorem sameIndex_testBegin (d : Dev) : SameIndex t k d d.testBegin := by
  unfold Dev.testBegin
  split
  · exact .refl _
  · exact .ite (sameIndex_bias ..) (.refl _)

theorem sameIndex_biasReturn (d : Dev) : SameIndex t k d d.biasReturn :=
  .after (sameIndex_testBegin _) (.after (sameIndex_bias ..) (.after (.foldl (fun _ _ => sameIndex_modOut ..) _ _) (sameIndex_bias ..)))

theorem sameIndex_windowTick (d : Dev) (before : Bool) : SameIndex t k d (d.windowTick before) :=
  .foldl (fun _ _ => .foldl (fun _ _ => sameIndex_modRelief ..) _ _) _ _

/-- The units at the midpoint up to the stopping of ticks. -/
def unitsTurn (d : Dev) (touched : List (Fin 64)) : Dev :=
  ((((d.jumpMarks.healed).flowShed.beginDeferred.muteAtMidpoint.tilesMidpoint.spareMidpoint.settleSymbol).capturesMidpoint
    touched).idleMidpoint).biasReturn.windowTick false

theorem midUnits_eq (d : Dev) (touched : List (Fin 64)) (wasBusy : Bool) : d.midUnits touched wasBusy = (unitsTurn d touched).stopTicks wasBusy := rfl

theorem sameIndex_unitsTurn (d : Dev) (touched : List (Fin 64)) : SameIndex t k d (unitsTurn d touched) := by
  unfold unitsTurn
  exact .after (sameIndex_windowTick _ false) (.after (sameIndex_biasReturn _) (.after (sameIndex_idleMidpoint _)
    (.after (sameIndex_capturesMidpoint _ touched) (.after (sameIndex_settleSymbol _) (.after (sameIndex_spareMidpoint _)
      (.after (sameIndex_tilesMidpoint _) (.after (sameIndex_muteAtMidpoint _) (.after (sameIndex_beginDeferred _)
        (.after (sameIndex_flowShed _) (.after (sameIndex_healed _) (sameIndex_jumpMarks d)))))))))))

theorem sameClock_unitsTurn (d : Dev) (touched : List (Fin 64)) : SameClock d (unitsTurn d touched) := by
  unfold unitsTurn
  exact .after (sameClock_windowTick _ false) (.after (sameClock_biasReturn _) (.after (sameClock_idleMidpoint _)
    (.after (sameClock_capturesMidpoint _ touched) (.after (sameClock_settleSymbol _) (.after (sameClock_spareMidpoint _)
      (.after (sameClock_tilesMidpoint _) (.after (sameClock_muteAtMidpoint _) (.after (sameClock_beginDeferred _)
        (.after (sameClock_flowShed _) (.after (sameClock_healed _) (sameClock_jumpMarks d)))))))))))

/-- Ticks that stop change the cadence unit alone; a held numerology then waits as a change of CADENCE_CFG. -/
theorem stopTicks_frame (d : Dev) (wasBusy : Bool) : ∃ y, d.stopTicks wasBusy = { d with cad := y } ∧ y.midDone = d.cad.midDone ∧
    y.since = d.cad.since ∧ ∀ c ∈ y.changes, c ∈ d.cad.changes ∨ c.key = .cadenceCfg := by
  unfold Dev.stopTicks
  split
  · dsimp only
    split
    · refine ⟨_, rfl, rfl, rfl, fun c mem => ?_⟩
      obtain rfl | mem := List.mem_cons.mp mem
      · exact .inr rfl
      · exact .inl mem
    · exact ⟨_, rfl, rfl, rfl, fun c mem => .inl mem⟩
  · exact ⟨d.cad, rfl, rfl, rfl, fun c mem => .inl mem⟩

end

end Sys2Proof.Machine

/-! PROOFS. The instants of the cadence unit (O9): the landing of a power-step index at the seam midpoint, and the three instants together. -/

namespace Sys2Proof.Machine

section

variable {t : Fin 4} {k : Fin 16} {d : Dev} {m : Mem} {w e : Word} {c : Change}

/-! ### One change lands (R54) -/

/-- With one change to land only its own rank has work. -/
theorem landAll_one (d : Dev) (m : Mem) {r : Nat} (rank : c.key.rank = r) (low : r < 8) : landAll d m [c] = landStepped d m c := by
  unfold landAll
  have turns : ∀ n, ([c].filter fun c => c.key.rank == n) = if r = n then [c] else [] := by
    intro n
    simp [List.filter_cons, rank]
  simp only [turns]
  have here : r = 0 ∨ r = 1 ∨ r = 2 ∨ r = 3 ∨ r = 4 ∨ r = 5 ∨ r = 6 ∨ r = 7 := by omega
  rcases here with rfl | rfl | rfl | rfl | rfl | rfl | rfl | rfl <;> rfl

theorem pidx_rank (t : Fin 4) (k : Fin 16) : (Setting.word (Reg.TILE_PIDX t.val k.val)).rank = 4 := by
  refine if_neg ?_
  simp only [Reg.TILE_PIDX, Reg.TILE_CFG]
  omega

/-- A power-step index is no word of the beamforming configuration. -/
theorem configBits_pidx (t : Fin 4) (k : Fin 16) : configBits (Reg.TILE_PIDX t.val k.val) = 0 := by
  revert t k
  decide

theorem landConfig_index (d : Dev) (words : c.words = [(Reg.TILE_PIDX t.val k.val, w, 0x3FF#32)]) : d.landConfig [c] = (d, [c]) := by
  unfold Dev.landConfig
  refine if_pos ?_
  simp [words, configBits_pidx]

/-- A landing power-step index: the register word, and the entry of its path as it was latched. -/
def indexLanded (d : Dev) (t : Fin 4) (k : Fin 16) (w e : Word) : Dev :=
  (d.setInf (Reg.TILE_PIDX t.val k.val) w (0x3FF#32 &&& wholeWord)).modPath (pathOf t k) fun s => { s with pstep := e }

theorem landIndex_latched (d : Dev) (latch : c.latch = some e) :
    d.landIndex c (Reg.TILE_PIDX t.val k.val) = d.modPath (pathOf t k) fun s => { s with pstep := e } := by
  have path : toPath (16 * ((Reg.TILE_PIDX t.val k.val - Reg.TILE_PIDX 0 0) / 0x10000) + Reg.TILE_PIDX t.val k.val % 0x10000 % 0x100 / 4) =
      pathOf t k := by
    revert t k
    decide
  unfold Dev.landIndex
  dsimp only
  rw [path, latch]
  rfl

theorem wordLanded_index (d : Dev) (c : Change) :
    d.wordLanded c (Reg.TILE_PIDX t.val k.val) = d.landIndex c (Reg.TILE_PIDX t.val k.val) := by
  have tile : 0x100000 ≤ Reg.TILE_PIDX t.val k.val ∧ Reg.TILE_PIDX t.val k.val < 0x140000 := by
    simp only [Reg.TILE_PIDX]
    omega
  have level : Reg.TILE_PIDX t.val k.val ≠ Reg.TILE_CFG (toTile ((Reg.TILE_PIDX t.val k.val - 0x100000) / 0x10000)).val := by
    revert t k
    decide
  have index : 0x100 ≤ Reg.TILE_PIDX t.val k.val % 0x10000 ∧ Reg.TILE_PIDX t.val k.val % 0x10000 < 0x140 := by
    simp only [Reg.TILE_PIDX]
    omega
  unfold Dev.wordLanded
  rw [if_pos tile]
  dsimp only
  rw [if_neg level, if_pos index]

theorem landWords_index (d : Dev) (words : c.words = [(Reg.TILE_PIDX t.val k.val, w, 0x3FF#32)]) :
    (d.landWords c fun _ => wholeWord) = d.setInf (Reg.TILE_PIDX t.val k.val) w (0x3FF#32 &&& wholeWord) := by
  rw [Dev.landWords, words]
  rfl

theorem landStepped_index (d : Dev) (m : Mem) (key : c.key = .word (Reg.TILE_PIDX t.val k.val))
    (words : c.words = [(Reg.TILE_PIDX t.val k.val, w, 0x3FF#32)]) (latch : c.latch = some e) :
    landStepped d m c = (indexLanded d t k w e, m) := by
  unfold landStepped
  rw [key]
  dsimp only
  rw [landWords_index d words, wordLanded_index, landIndex_latched _ latch]
  rfl

/-! ### What the landing shows -/

/-- Ten low bits from one word and the rest from another. -/
theorem get_low_ten (v w : Word) : ((v &&& ~~~(0x3FF#32 &&& wholeWord)) ||| (w &&& (0x3FF#32 &&& wholeWord))).get 9 0 = w.get 9 0 := by
  rw [Word.get_eq_extractLsb', Word.get_eq_extractLsb']
  congr 1
  rw [show (0x3FF#32 &&& wholeWord : Word) = 0x3FF#32 from by decide]
  ext i low
  have ten : i < 10 := low
  have mask : (0x3FF#32).getLsbD i = true := by
    interval_cases i <;> rfl
  have rest : (4294966272#32).getLsbD i = false := by
    interval_cases i <;> rfl
  simp [mask, rest]

theorem indexLanded_inf (d : Dev) (t : Fin 4) (k : Fin 16) (w e : Word) :
    ((indexLanded d t k w e).inf (Reg.TILE_PIDX t.val k.val)).get 9 0 = w.get 9 0 := by
  rw [indexLanded, Dev.inf_modPath, Dev.inf_setInf_same]
  exact get_low_ten ..

theorem indexLanded_pstep (d : Dev) (t : Fin 4) (k : Fin 16) (w e : Word) : (indexLanded d t k w e).paths[pathOf t k].pstep = e := by
  simp [indexLanded, Dev.modPath]

theorem indexLanded_cad (d : Dev) (t : Fin 4) (k : Fin 16) (w e : Word) : (indexLanded d t k w e).cad = d.cad := rfl

theorem indexLanded_drunas (d : Dev) (t : Fin 4) (k : Fin 16) (w e : Word) : (indexLanded d t k w e).drunas = d.drunas := rfl

end

/-! ### The midpoint -/

section

variable {t : Fin 4} {k : Fin 16} {d : Dev} {m : Mem} {w e : Word} {c : Change}

theorem sameIndex_midTaken_cmds (d : Dev) : d.midTaken.drunas.cmds = d.drunas.cmds := by
  obtain ⟨-, -, -, cmds⟩ := sameIndex_windowTick (t := 0) (k := 0) d true
  exact cmds

theorem midLands_one (waits : d.cad.changes = [c]) (lands : c.land ≤ d.cad.tickIdx) (anywhere : c.atFrame = false) :
    d.midLands = [c] ∧ d.midTaken.cad.changes = [] := by
  have due : c.landsAt d.cad.tickIdx d.cad.nom = true := by simp [Change.landsAt, lands, anywhere]
  exact ⟨by simp [Dev.midLands, waits, due], by simp [Dev.midTaken, waits, due]⟩

theorem midTaken_clock (d : Dev) : d.midTaken.cad.midDone = true ∧ d.midTaken.cad.since = d.cad.since := ⟨rfl, rfl⟩

theorem midClock_since (d : Dev) : d.midClock.cad.since = max d.cad.since (d.seamL / 2) := by
  have passes (n : Nat) : (d.passCycles n).cad.since = d.cad.since + n := rfl
  rw [Dev.midClock, passes]
  omega

/-- The device that the units at the midpoint start from, where one power-step index lands. -/
theorem midLanded_index (m : Mem) (waits : d.cad.changes = [c]) (key : c.key = .word (Reg.TILE_PIDX t.val k.val))
    (words : c.words = [(Reg.TILE_PIDX t.val k.val, w, 0x3FF#32)]) (latch : c.latch = some e) (lands : c.land ≤ d.cad.tickIdx)
    (anywhere : c.atFrame = false) : midLanded d m = (indexLanded d.midClock.midTaken t k w e, m) := by
  obtain ⟨due, -⟩ := midLands_one (d := d.midClock) waits lands anywhere
  unfold midLanded
  dsimp only
  rw [due, landConfig_index _ words, landAll_one (r := 4) _ _ (by rw [key]; exact pidx_rank t k) (by decide), landStepped_index _ _ key words latch]

theorem midCommands_none (m : Mem) (quiet : d.drunas.cmds = []) : midCommands d m = (d, m) := by
  rw [midCommands, quiet]
  rfl

theorem midFinals_none (n : Nat) (quiet : d.drunas.cmds = []) : d.midFinals n = d := by
  unfold Dev.midFinals
  rw [Cert.dpdRests_of_none 2 quiet, ite_self]
  exact Dev.finals_nil _ _ _ quiet

/-- With no command open the midpoint ends with its units. -/
theorem midpoint_quiet (d : Dev) (m : Mem) (quiet : (d.midReady m).drunas.cmds = []) : midpoint d m = (d.midReady m, (midLanded d m).2) := by
  rw [midpoint_eq, Cert.dpdRests_of_none 1 quiet, midCommands_none _ quiet, midFinals_none _ quiet]

/-- What the units leave of a landed power-step index. -/
theorem midUnits_index {u : Dev} {touched : List (Fin 64)} {wasBusy : Bool} (turn : u = d.midUnits touched wasBusy) (none : d.cad.changes = []) :
    u.cad.midDone = d.cad.midDone ∧ u.cad.since = d.cad.since ∧ u.inf (Reg.TILE_PIDX t.val k.val) = d.inf (Reg.TILE_PIDX t.val k.val) ∧
      u.paths[pathOf t k].pstep = d.paths[pathOf t k].pstep ∧ (∀ c ∈ u.cad.changes, c.key = .cadenceCfg) ∧ u.drunas.cmds = d.drunas.cmds := by
  rw [midUnits_eq] at turn
  obtain ⟨cs, clock⟩ := sameClock_unitsTurn d touched
  obtain ⟨inf, pstep, changes, cmds⟩ := sameIndex_unitsTurn (t := t) (k := k) d touched
  obtain ⟨y, stops, midDone, since, keys⟩ := stopTicks_frame (unitsTurn d touched) wasBusy
  generalize unitsTurn d touched = v at clock inf pstep changes cmds stops midDone since keys turn
  rw [turn, stops]
  refine ⟨midDone.trans (by rw [clock]), since.trans (by rw [clock]), inf, pstep, fun c mem => ?_, cmds⟩
  obtain old | new := keys c mem
  · rw [changes, none] at old
    exact absurd old List.not_mem_nil
  · exact new

end

end Sys2Proof.Machine

namespace Sys2Proof.Cert

open Sys2Proof.Machine

theorem exec_seamMidpoint {s : State} (runs : s.dev.cad.running = true) (before : s.dev.cad.midDone = false) :
    exec .seamMidpoint s = .next (after s (midpoint s.dev s.mem)) := by
  have row : exec .seamMidpoint s =
      .next (after s (if s.dev.cad.running && !s.dev.cad.midDone then midpoint s.dev s.mem else (s.dev, s.mem))) := rfl
  rw [row, runs, before]
  rfl

theorem steppedWordLands : SteppedWordLands := by
  intro s t k w e c runs before waits key words latch lands anywhere quiet
  have landed := midLanded_index s.mem waits key words latch lands anywhere
  obtain ⟨-, none⟩ := midLands_one (d := s.dev.midClock) waits lands anywhere
  obtain ⟨midDone, since⟩ := midTaken_clock s.dev.midClock
  have ready : s.dev.midReady s.mem = (indexLanded s.dev.midClock.midTaken t k w e).midUnits ((List.finRange 64).filter s.dev.midClock.touched)
      ((List.finRange 64).any fun p => s.dev.midClock.paths[p].onAir) := by rw [Dev.midReady, landed]
  obtain ⟨midDone', since', inf, pstep, keys, cmds⟩ := midUnits_index (t := t) (k := k) ready none
  have still : (s.dev.midReady s.mem).drunas.cmds = [] := by
    rw [cmds, indexLanded_drunas, sameIndex_midTaken_cmds]
    exact quiet
  have row := exec_seamMidpoint runs before
  rw [midpoint_quiet _ _ still] at row
  refine ⟨_, _, row, midDone'.trans midDone, since'.trans (since.trans (midClock_since s.dev)), ?_, ?_, fun mem => ?_⟩
  · rw [inf]
    exact indexLanded_inf ..
  · rw [pstep]
    exact indexLanded_pstep ..
  · exact Setting.noConfusion (key.symm.trans (keys c mem))

/-- Settles O9: what the cutoff freezes, the landing at the seam midpoint, and the first tick at the frame that was asked for. -/
theorem cadenceInstants : Obligations.CadenceInstants := ⟨cutoffFreezes, steppedWordLands, ticksStartAtTheFrame⟩

end Sys2Proof.Cert

/-! PROOFS. A command that executes at once: it runs its meaning and is answered, or stays open with an interim reply (R309 to R313). -/

namespace Sys2Proof.Machine

/-! ### What a reply keeps -/

section

variable (d : Dev)

theorem deliver_cmds (spi : Bool) (ws : List Word) : (d.deliver spi ws).1.drunas.cmds = d.drunas.cmds := by
  unfold Dev.deliver
  split
  · split
    · rw [Dev.raise_drunas, Dev.count32_drunas]
    · rw [Dev.raise_drunas]
      rfl
  · split
    · rw [Dev.count32_drunas]
    · rw [Dev.send_drunas]

theorem doneReply_cmds (p q : Bool) :
    (if q then (if p then d.count32 Reg.DRUNAS_DONE else d).count32 Reg.DRUNAS_LATE
      else if p then d.count32 Reg.DRUNAS_DONE else d).drunas.cmds = d.drunas.cmds := by
  have done : (if p then d.count32 Reg.DRUNAS_DONE else d).drunas.cmds = d.drunas.cmds := by
    split
    · rw [Dev.count32_drunas]
    · rfl
  split
  · rw [Dev.count32_drunas, done]
  · exact done

theorem reply_cmds (spi auth : Bool) (op tag status supn time : Nat) (final : Bool) (results : List Word) :
    (d.reply spi auth op tag status supn time final results).drunas.cmds = d.drunas.cmds := by
  unfold Dev.reply
  cases auth
  · exact (doneReply_cmds _ _ _).trans (deliver_cmds _ _ _)
  · exact (doneReply_cmds _ _ _).trans (deliver_cmds _ _ _)

theorem reply_cad (spi auth : Bool) (op tag status supn time : Nat) (final : Bool) (results : List Word) :
    (d.reply spi auth op tag status supn time final results).cad = d.cad := by
  obtain ⟨m, rises, sc, l, x, s, replied⟩ := d.reply_replied spi auth op tag status supn time final results
  rw [replied]

end

end Sys2Proof.Machine

namespace Sys2Proof.Cert

open Sys2Proof.Machine

section

variable {d e : Dev} {m mem : Mem} {c x : Cmd}

/-! ### A command in the hands of its meaning -/

theorem holding_closed (d : Dev) (c : Cmd) : holding (closed d) c = holding d c := rfl

theorem holding_cad (d : Dev) (c : Cmd) : (holding d c).cad = d.cad := rfl

theorem nowNs_holding (d : Dev) (c : Cmd) : (holding d c).nowNs = d.nowNs := rfl

/-- A command that has just come to its execution point has its time and stage. -/
theorem noted_holding (time : c.time = d.nowNs) (stage : c.stage = .working) :
    (holding d c).modCmd c.id (fun x => { x with time := (holding d c).nowNs, stage := .working }) = holding d c := by
  rw [modCmd_holding, nowNs_holding, ← time, ← stage]

/-- A meaning that answers at once. -/
theorem runMeaning_done {f : Meaning} {status : Nat} {results : List Word} (time : c.time = d.nowNs) (stage : c.stage = .working)
    (does : f (holding d c) m c = (.done status results, holding e c, mem)) (unended : c.verdict = none) :
    runMeaning f (holding d c) m c.id none = (holding e { c with results := results, verdict := some status }, mem) := by
  rw [runMeaning, cmd?_holding]
  dsimp only
  rw [noted_holding time stage, does]
  dsimp only
  rw [modCmd_holding]
  exact congrArg (·, mem) (endCmd_holding e { c with results := results } status results unended)

/-- An interim reply goes out once, unless FINAL_ONLY asked for none (R310). -/
theorem interim_holding (d : Dev) (x : Cmd) (t : Nat) (loud : x.silent = false) : (holding d x).interim x.id t =
    if x.finalOnly then holding d x else (holding d { x with finalOnly := true }).reply x.spi x.auth x.opcode x.tag 1 0 t false [] := by
  have here : (holding d x).drunas.cmds.find? (fun c => c.id == x.id) = some x := by simp [holding]
  have marks : ((holding d x).modDrunas fun y => { y with cmds := y.cmds.map fun z => if z.id = x.id then { z with finalOnly := true } else z }) =
      holding d { x with finalOnly := true } := modCmd_holding d x fun z => { z with finalOnly := true }
  have only : (x.finalOnly || x.silent) = x.finalOnly := by rw [loud, Bool.or_false]
  rw [Dev.interim, here]
  dsimp only
  rw [only, marks]

/-- A meaning that leaves work in progress. -/
theorem runMeaning_works {f : Meaning} {aux : List Nat} (time : c.time = d.nowNs) (stage : c.stage = .working)
    (does : f (holding d c) m c = (.works aux, holding e c, mem)) (unended : c.verdict = none) :
    runMeaning f (holding d c) m c.id none = ((holding e { c with aux := aux }).interim c.id 0, mem) := by
  rw [runMeaning, cmd?_holding]
  dsimp only
  rw [noted_holding time stage, does]
  dsimp only
  rw [modCmd_holding, show (holding e { c with aux := aux }).cmd? c.id = some { c with aux := aux } from cmd?_holding e { c with aux := aux }]
  dsimp only
  rw [unended]
  rfl

/-- The changes of a command, counted, and the last tick at which one lands. -/
def ownChanges (d : Dev) (id : Nat) : Nat := d.cad.changes.countP fun x => x.cmd == some id

def lastLanding (d : Dev) (id : Nat) : Nat := d.cad.changes.foldl (fun t x => if x.cmd = some id then max t x.land else t) 0

/-- A meaning that commits changes while ticks run or are to run: with none it is answered at once. -/
theorem runMeaning_commits {f : Meaning} (time : c.time = d.nowNs) (stage : c.stage = .working)
    (does : f (holding d c) m c = (.commits [], holding e c, mem)) (unended : c.verdict = none) (ticks : e.ticking = true) :
    runMeaning f (holding d c) m c.id none =
      if ownChanges e c.id = 0 then
        (holding e { c with results := [], total := 0, stage := .working, verdict := some (landedStatus { c with total := 0 }) }, mem)
      else ((holding e { c with results := [], total := ownChanges e c.id, stage := .committed }).interim c.id (e.tickNs (lastLanding e c.id)),
        mem) := by
  rw [runMeaning, cmd?_holding]
  dsimp only
  rw [noted_holding time stage, does]
  dsimp only
  have count : (holding e c).cad.changes.countP (fun x => x.cmd == some c.id) = ownChanges e c.id := rfl
  rw [count, modCmd_holding]
  split
  next none =>
    have ends := modCmd_holding e { c with results := [], total := ownChanges e c.id, stage := .committed } fun c =>
      { c with stage := .working, verdict := some (landedStatus c) }
    refine congrArg (·, mem) (ends.trans ?_)
    rw [none]
    have status : landedStatus { c with results := [], total := 0, stage := .committed } = landedStatus { c with total := 0 } := by
      simp only [landedStatus, unended]
    dsimp only
    rw [status]
  next some =>
    rw [if_pos (show (holding e _).ticking = true from ticks)]
    rfl

/-! ### What is left open settles to itself -/

/-- With its only command open while ticks run a device sends no final reply. -/
theorem finalise_open (only : d.drunas.cmds = [x]) (opens : x.stage = .committed ∨ x.verdict = none) (ticks : d.ticking = true) :
    d.finalise = d := by
  rw [Dev.finalise, Dev.finals, only, List.foldl_cons, List.foldl_nil, ticks]
  split
  · exact if_neg (by simp)
  · rename_i open_
    rw [opens.resolve_left open_]

theorem settled_open (m : Mem) (running : d.cad.running = true) (only : d.drunas.cmds = [x]) (opens : x.stage = .committed ∨ x.verdict = none) :
    settled (d, m) = (d, m) := by
  unfold settled
  rw [settle_running d m running]
  exact congrArg (·, m) (finalise_open only opens (Bool.or_eq_true_iff.mpr (.inl running)))

/-- The open command and its interim reply. -/
def opened (d : Dev) (x : Cmd) (t : Nat) : Dev :=
  if x.finalOnly then holding d { x with finalOnly := true }
  else (holding d { x with finalOnly := true }).reply x.spi x.auth x.opcode x.tag 1 0 t false []

theorem interim_opened (d : Dev) (x : Cmd) (t : Nat) (loud : x.silent = false) : (holding d x).interim x.id t = opened d x t := by
  rw [interim_holding d x t loud, opened]
  split
  next final => rw [← final]
  next => rfl

theorem opened_cmds (d : Dev) (x : Cmd) (t : Nat) : (opened d x t).drunas.cmds = [{ x with finalOnly := true }] := by
  unfold opened
  split
  · rfl
  · exact reply_cmds ..

theorem opened_cad (d : Dev) (x : Cmd) (t : Nat) : (opened d x t).cad = d.cad := by
  unfold opened
  split
  · rfl
  · exact reply_cad ..

theorem settled_opened (m : Mem) (t : Nat) (running : d.cad.running = true) (opens : x.stage = .committed ∨ x.verdict = none) :
    settled (coreTestsNow (opened d x t, m)) = (opened d x t, m) := by
  have runs : (opened d x t).cad.running = true := by rw [opened_cad, running]
  rw [coreTestsNow_still (.inl (Bool.or_eq_true_iff.mpr (.inl runs)))]
  exact settled_open m runs (opened_cmds d x t) opens

/-- An ended command is answered. -/
theorem settled_ended {v : Nat} (m : Mem) (running : d.cad.running = true) (stage : x.stage ≠ .committed) (ended : x.verdict = some v)
    (loud : x.silent = false) (other : x.opcode ≠ 0x401) (ranges : d.drunas.ranges = []) (clash : d.drunas.clash = []) :
    settled (coreTestsNow (holding d x, m)) =
      ((closed d).reply x.spi x.auth x.opcode x.tag (lateStatus x.late v) x.lost x.time true x.results, m) := by
  have runs : (holding d x).cad.running = true := running
  rw [coreTestsNow_still (.inl (Bool.or_eq_true_iff.mpr (.inl runs)))]
  unfold settled
  rw [settle_running _ m runs]
  exact congrArg (·, m) (finalise_verdict (d := holding d x) rfl stage ended loud other ranges clash)

end

/-! ### The packet at the head of the ring -/

section

variable {s : State} {p : Packet} {rest : List Packet} {ps : List Word} {op : Nat} {f : Meaning} {e : Dev} {row : Instr}

/-- The command that the packet is. -/
def issued (s : State) (p : Packet) (ps : List Word) : Cmd := commandOf s.dev p ps false

theorem openCmd_issued (ring : s.dev.drunas.ring = p :: rest) (none : s.dev.drunas.cmds = []) (c : Cmd) :
    s.dev.popRing.openCmd c = holding (begun s rest) c := by
  simp [Dev.openCmd, Dev.popRing, Dev.modDrunas, holding, begun, ring, none]

theorem issued_timing (once : AtOnce p) : (issued s p ps).timing = 0 := by
  unfold issued commandOf
  obtain zero | three := once
  · exact (if_neg (by rw [zero]; decide)).trans zero
  · exact if_pos three

/-- The row of a packet with good checks runs its meaning. -/
theorem headCommand_runs {form : List Word → Bool} (heads : Heads s p rest op ps) (fits : form ps = true) (none : s.dev.drunas.cmds = []) :
    headCommand op form f s.dev s.mem =
      coreTestsNow (runMeaning f (holding (begun s rest) (issued s p ps)) s.mem (issued s p ps).id Option.none) := by
  obtain ⟨⟨works, ring, command⟩, once, opcode, passes⟩ := heads
  have start : startCommand f s.dev.popRing s.mem (issued s p ps) =
      runMeaning f (holding (begun s rest) (issued s p ps)) s.mem (issued s p ps).id Option.none := by
    unfold startCommand
    rw [issued_timing once, if_neg (by simp), if_neg (by simp), openCmd_issued ring none]
  unfold headCommand
  rw [ring]
  dsimp only
  rw [if_neg (by simp [works, command, opcode]), passes]
  dsimp only
  rw [if_pos fits]
  exact congrArg coreTestsNow start

/-- What a row runs. -/
def Runs (row : Instr) (op : Nat) (form : List Word → Bool) (f : Meaning) : Prop := ∀ s, exec row s = onSettled s (headCommand op form f)

theorem exec_heads {form : List Word → Bool} {y : Dev} (runs : Runs row op form f) (heads : Heads s p rest op ps) (fits : form ps = true)
    (none : s.dev.drunas.cmds = [])
    (is : settled (coreTestsNow (runMeaning f (holding (begun s rest) (issued s p ps)) s.mem (issued s p ps).id Option.none)) = (y, s.mem)) :
    exec row s = .next (withDev s y) := by
  rw [runs, onSettled_eq, headCommand_runs heads fits none, is]
  rfl

/-- A command that its meaning answers at once. -/
theorem answers_of {form : List Word → Bool} {status : Nat} {results : List Word} (runs : Runs row op form f) (heads : Heads s p rest op ps)
    (fits : form ps = true) (quiet : NoneOpen s) (running : e.cad.running = true)
    (does : f (holding (begun s rest) (issued s p ps)) s.mem (issued s p ps) = (.done status results, holding e (issued s p ps), s.mem))
    (other : op ≠ 0x401) (ranges : e.drunas.ranges = []) (clash : e.drunas.clash = []) : Answers s row p (closed e) status results := by
  obtain ⟨none, -⟩ := quiet
  have opcode : (issued s p ps).opcode ≠ 0x401 := by
    obtain ⟨-, -, is, -⟩ := heads
    exact fun same => other (is.symm.trans same)
  refine exec_heads runs heads fits none ?_
  rw [runMeaning_done rfl rfl does rfl]
  exact settled_ended (x := { issued s p ps with results := results, verdict := some status }) s.mem running CmdStage.noConfusion rfl rfl opcode
    ranges clash

/-- A command that its meaning leaves at work. -/
theorem works_of {form : List Word → Bool} {aux : List Nat} (runs : Runs row op form f) (heads : Heads s p rest op ps)
    (fits : form ps = true) (quiet : NoneOpen s) (running : e.cad.running = true)
    (does : f (holding (begun s rest) (issued s p ps)) s.mem (issued s p ps) = (.works aux, holding e (issued s p ps), s.mem)) :
    Works s row p (closed e) aux := by
  obtain ⟨none, -⟩ := quiet
  refine ⟨{ issued s p ps with aux := aux, finalOnly := true }, ⟨?_, rfl, rfl, rfl, rfl⟩, rfl, rfl⟩
  refine exec_heads runs heads fits none ?_
  rw [runMeaning_works rfl rfl does rfl]
  have opens := interim_opened e { issued s p ps with aux := aux } 0 rfl
  exact (congrArg (fun x => settled (coreTestsNow (x, s.mem))) opens).trans (settled_opened s.mem 0 running (.inr rfl))

/-! ### Commits of the command -/

/-- What the statements see of a change. -/
def seen (x : Change) : Setting × Nat × Nat × Option Nat × Nat := (x.key, x.arg, x.land, x.cmd, x.rank)

/-- `e` has the settings `ks` committed beside what waits in `d`, for the next landing, and keeps its clock, what is in force and commands. -/
structure Adds (by_ : Committer) (ks : List (Setting × Nat)) (d e : Dev) : Prop where
  cad : ∃ cs, e.cad = { d.cad with changes := d.cad.changes ++ cs } ∧
    cs.map seen = ks.map fun k => (k.1, k.2, d.nextLanding, by_.cmd, by_.rank)
  time : e.time = d.time
  inforce : e.inforce = d.inforce
  drunas : e.drunas = d.drunas

theorem tickNs_of {d e : Dev} {cs : List Change} (cad : e.cad = { d.cad with changes := cs }) (inforce : e.inforce = d.inforce) (n : Nat) :
    e.tickNs n = d.tickNs n := by
  unfold Dev.tickNs Dev.tickNom Dev.nextNom Dev.mu Dev.inf
  rw [cad, inforce]

section

variable {by_ : Committer} {ks ls : List (Setting × Nat)} {d e f : Dev}

theorem Adds.nothing (cad : e.cad = d.cad) (time : e.time = d.time) (inforce : e.inforce = d.inforce) (drunas : e.drunas = d.drunas) :
    Adds by_ [] d e := ⟨⟨[], by rw [cad, List.append_nil], rfl⟩, time, inforce, drunas⟩

theorem Adds.nextLanding (adds : Adds by_ ks d e) : e.nextLanding = d.nextLanding := by
  obtain ⟨cs, cad, -⟩ := adds.cad
  rw [Dev.nextLanding, Dev.nextLanding, cad]

/-- First `ks` are committed and then `ls`. -/
theorem Adds.andThen (first : Adds by_ ks d e) (second : Adds by_ ls e f) : Adds by_ (ks ++ ls) d f := by
  obtain ⟨cs, cad, sees⟩ := first.cad
  obtain ⟨cs', cad', sees'⟩ := second.cad
  refine ⟨⟨cs ++ cs', ?_, ?_⟩, second.time.trans first.time, second.inforce.trans first.inforce, second.drunas.trans first.drunas⟩
  · rw [cad', cad, List.append_assoc]
  · rw [List.map_append, List.map_append, sees, sees', first.nextLanding]

theorem Adds.beside (adds : Adds by_ ks d e) (cad : f.cad = e.cad) (time : f.time = e.time) (inforce : f.inforce = e.inforce)
    (drunas : f.drunas = e.drunas) : Adds by_ ks d f := by
  have both := adds.andThen (.nothing (by_ := by_) cad time inforce drunas)
  rwa [List.append_nil] at both

theorem Adds.foldl {α : Type} {g : Dev → α → Dev} {ks : α → List (Setting × Nat)} (l : List α)
    (each : ∀ d, ∀ a ∈ l, Adds by_ (ks a) d (g d a)) (d : Dev) : Adds by_ (l.flatMap ks) d (l.foldl g d) := by
  induction l generalizing d with
  | nil => exact .nothing rfl rfl rfl rfl
  | cons a l ih => exact (each d a List.mem_cons_self).andThen (ih (fun d b mem => each d b (List.mem_cons_of_mem _ mem)) (g d a))

theorem Adds.foldl_nothing {α : Type} {g : Dev → α → Dev} (l : List α) (each : ∀ d a, Adds by_ [] d (g d a)) (d : Dev) :
    Adds by_ [] d (l.foldl g d) := by
  induction l generalizing d with
  | nil => exact .nothing rfl rfl rfl rfl
  | cons a l ih => exact (each d a).andThen (ih (g d a))

theorem adds_commit (d : Dev) (by_ : Committer) (key : Setting) (ws : List (Nat × Word × Word)) (arg : Nat) :
    Adds by_ [(key, arg)] d (d.commit by_ key ws arg) := by
  obtain ⟨x, hkey, -, hland, harg, hcmd, -, is⟩ := d.commit_eq by_ key ws arg
  exact ⟨⟨_, rfl, rfl⟩, rfl, rfl, rfl⟩

theorem Adds.running (adds : Adds by_ ks d e) (runs : d.cad.running = true) : e.cad.running = true := by
  obtain ⟨cs, cad, -⟩ := adds.cad
  rw [cad]
  exact runs

end

section

variable {s : State} {p : Packet} {rest : List Packet} {ps : List Word} {op : Nat} {f : Meaning} {e : Dev} {row : Instr}
  {ks : List (Setting × Nat)}

/-- The committer that the command of the packet is. -/
def committer (s : State) : Committer := ⟨1, some s.dev.drunas.nextId⟩

/-- The device with the packet's command in the hands of its meaning. -/
def inHand (s : State) (p : Packet) (rest : List Packet) (ps : List Word) : Dev := holding (begun s rest) (issued s p ps)

theorem countP_seen {l : List Change} {id : Nat} {ks : List (Setting × Nat)} {land : Nat}
    (sees : l.map seen = ks.map fun k => (k.1, k.2, land, some id, 1)) :
    l.countP (fun x => x.cmd == some id) = ks.length ∧ (∀ x ∈ l, x.cmd = some id ∧ x.land = land) ∧ l.length = ks.length := by
  have each : ∀ x ∈ l, x.cmd = some id ∧ x.land = land := by
    intro x mem
    have mem' : seen x ∈ ks.map fun k => (k.1, k.2, land, some id, 1) := by
      rw [← sees]
      exact List.mem_map_of_mem mem
    obtain ⟨k, -, is⟩ := List.mem_map.mp mem'
    simp only [seen, Prod.mk.injEq] at is
    exact ⟨is.2.2.2.1.symm, is.2.2.1.symm⟩
  have len : l.length = ks.length := by
    have := congrArg List.length sees
    simpa using this
  refine ⟨?_, each, len⟩
  rw [← len, List.countP_eq_length]
  exact fun x mem => beq_iff_eq.mpr (each x mem).1

theorem foldl_landing {l : List Change} {id land : Nat} (each : ∀ x ∈ l, x.cmd = some id ∧ x.land = land) (t : Nat) (le : t ≤ land) :
    l.foldl (fun t x => if x.cmd = some id then max t x.land else t) t = if l = [] then t else land := by
  induction l generalizing t with
  | nil => rfl
  | cons x l ih =>
    obtain ⟨cmd, is⟩ := each x List.mem_cons_self
    rw [List.foldl_cons, if_pos cmd, is, Nat.max_eq_right le, ih (fun y mem => each y (List.mem_cons_of_mem _ mem)) land (Nat.le_refl land),
      if_neg (List.cons_ne_nil _ _), ite_self]

theorem foldl_others {l : List Change} {id : Nat} (each : ∀ x ∈ l, x.cmd = none) (t : Nat) :
    l.foldl (fun t x => if x.cmd = some id then max t x.land else t) t = t := by
  induction l with
  | nil => rfl
  | cons x l ih =>
    rw [List.foldl_cons, if_neg (by rw [each x List.mem_cons_self]; exact Option.some_ne_none id ∘ Eq.symm)]
    exact ih fun y mem => each y (List.mem_cons_of_mem _ mem)

/-- What a command that commits has added to the changes that wait. -/
theorem ownChanges_adds (others : ∀ c ∈ s.dev.cad.changes, c.cmd = none) (adds : Adds (committer s) ks (inHand s p rest ps) e) :
    ownChanges e s.dev.drunas.nextId = ks.length ∧ (ks ≠ [] → lastLanding e s.dev.drunas.nextId = s.dev.nextLanding) := by
  obtain ⟨cs, cad, sees⟩ := adds.cad
  obtain ⟨count, each, len⟩ := countP_seen (id := s.dev.drunas.nextId) (land := s.dev.nextLanding) sees
  have waits : e.cad.changes = s.dev.cad.changes ++ cs := by
    rw [cad]
    rfl
  constructor
  · have none : s.dev.cad.changes.countP (fun x => x.cmd == some s.dev.drunas.nextId) = 0 :=
      List.countP_eq_zero.mpr fun x mem => by simp [others x mem]
    rw [ownChanges, waits, List.countP_append, none, count, Nat.zero_add]
  · intro some
    have more : cs ≠ [] := fun nil => some (List.length_eq_zero_iff.mp (by rw [← len, nil]; rfl))
    rw [lastLanding, waits, List.foldl_append, foldl_others others, foldl_landing each 0 (Nat.zero_le _), if_neg more]

/-- A command that its meaning leaves with changes committed. -/
theorem commits_of {form : List Word → Bool} (runs : Runs row op form f) (heads : Heads s p rest op ps) (fits : form ps = true)
    (quiet : NoneOpen s) (running : s.dev.cad.running = true)
    (does : f (inHand s p rest ps) s.mem (issued s p ps) = (.commits [], e, s.mem)) (adds : Adds (committer s) ks (inHand s p rest ps) e)
    (other : op ≠ 0x401) : Commits s row p (closed e) ks := by
  obtain ⟨none, ranges, clash, others, -⟩ := quiet
  have drunas := adds.drunas
  have only : e.drunas.cmds = [issued s p ps] := by
    rw [drunas]
    rfl
  have runs' : e.cad.running = true := adds.running running
  obtain ⟨count, last⟩ := ownChanges_adds others adds
  have opcode : (issued s p ps).opcode ≠ 0x401 := by
    obtain ⟨-, -, is, -⟩ := heads
    exact fun same => other (is.symm.trans same)
  rw [← holding_self only] at does
  have done := runMeaning_commits (d := begun s rest) (c := issued s p ps) rfl rfl does rfl (Bool.or_eq_true_iff.mpr (.inl runs'))
  rw [show (issued s p ps).id = s.dev.drunas.nextId from rfl, count] at done
  obtain ⟨cs, cad, sees⟩ := adds.cad
  refine ⟨?_, fun nil => ?_, fun some => ?_⟩
  · rw [show (closed e).cad.changes = s.dev.cad.changes ++ cs from by rw [show (closed e).cad = e.cad from rfl, cad]; rfl, List.map_append]
    exact congrArg (_ ++ ·) sees
  · rw [if_pos (by rw [nil]; rfl)] at done
    refine exec_heads runs heads fits none ?_
    rw [show (issued s p ps).id = s.dev.drunas.nextId from rfl, done]
    exact settled_ended (x := { issued s p ps with results := [], total := 0, stage := .working, verdict := some 0 }) s.mem runs'
      CmdStage.noConfusion rfl rfl opcode (by rw [drunas]; exact ranges) (by rw [drunas]; exact clash)
  · rw [if_neg (fun zero => some (List.length_eq_zero_iff.mp zero)), last some, tickNs_of cad adds.inforce] at done
    refine ⟨{ issued s p ps with results := [], total := ks.length, stage := .committed, finalOnly := true },
      ⟨?_, rfl, rfl, rfl, rfl⟩, rfl, rfl⟩
    refine exec_heads runs heads fits none ?_
    rw [show (issued s p ps).id = s.dev.drunas.nextId from rfl, done]
    have opens := interim_opened e { issued s p ps with results := [], total := ks.length, stage := .committed }
      ((inHand s p rest ps).tickNs s.dev.nextLanding) rfl
    exact (congrArg (fun x => settled (coreTestsNow (x, s.mem))) opens).trans (settled_opened s.mem _ runs' (.inl rfl))

end

end

end Sys2Proof.Cert

/-! PROOFS. Rules for commands that commit: what their writes add to the changes that wait, and which registers they leave. -/

open Sys2Proof.Machine

namespace Sys2Proof.Cert

/-! ### Folds over the entries of a command -/

theorem SameRegsBut.foldl {α : Type} {as : List Nat} {g : Dev → α → Dev} (l : List α) (each : ∀ d, ∀ x ∈ l, SameRegsBut as d (g d x)) (d : Dev) :
    SameRegsBut as d (l.foldl g d) := by
  induction l generalizing d with
  | nil => exact fun _ _ => rfl
  | cons x l ih => exact (each d x List.mem_cons_self).trans (ih (fun d y mem => each d y (List.mem_cons_of_mem _ mem)) (g d x))

/-- In a fold whose entries write registers of their own, a register is as its own entry leaves it. -/
theorem rd_foldl_own {α : Type} {g : Dev → α → Dev} {P : Dev → Prop} {a : Nat} {v : Word → Word} {x : α} (keeps : ∀ d y, P d → P (g d y))
    (own : ∀ d, P d → (g d x).rd a = v (d.rd a)) {l : List α} (others : ∀ d, ∀ y ∈ l, y ≠ x → (g d y).rd a = d.rd a) (once : l.Nodup)
    (mem : x ∈ l) {d : Dev} (holds : P d) : (l.foldl g d).rd a = v (d.rd a) := by
  have beside : ∀ (l : List α) (d : Dev), (∀ d, ∀ y ∈ l, (g d y).rd a = d.rd a) → (l.foldl g d).rd a = d.rd a := by
    intro l d each
    induction l generalizing d with
    | nil => rfl
    | cons y l ih =>
      rw [List.foldl_cons, ih (g d y) fun d z mem => each d z (List.mem_cons_of_mem _ mem), each d y List.mem_cons_self]
  induction l generalizing d with
  | nil => exact absurd mem List.not_mem_nil
  | cons y l ih =>
    obtain ⟨out, once'⟩ := List.nodup_cons.mp once
    rw [List.foldl_cons]
    by_cases same : y = x
    · subst same
      rw [beside l _ fun d z mem' => others d z (List.mem_cons_of_mem _ mem') fun is => out (is ▸ mem'), own d holds]
    · rw [ih (fun d z mem' => others d z (List.mem_cons_of_mem _ mem')) once' ((List.mem_cons.mp mem).resolve_left (Ne.symm same)) (keeps d y holds),
        others d y List.mem_cons_self same]

theorem lastEntries_sub (unit : Word → Nat) (ws : List Word) : ∀ w ∈ lastEntries unit ws, w ∈ ws := by
  induction ws with
  | nil => exact fun _ mem => mem
  | cons w ws ih =>
    intro x mem
    rw [lastEntries] at mem
    split at mem
    · exact List.mem_cons_of_mem _ (ih x mem)
    · exact (List.mem_cons.mp mem).elim (fun is => is ▸ List.mem_cons_self) fun mem => List.mem_cons_of_mem _ (ih x mem)

/-- Of two entries for one unit one is left. -/
theorem lastEntries_apart (unit : Word → Nat) (ws : List Word) : (lastEntries unit ws).Pairwise fun x y => unit x ≠ unit y := by
  induction ws with
  | nil => exact List.Pairwise.nil
  | cons w ws ih =>
    rw [lastEntries]
    split
    · exact ih
    · rename_i new
      refine List.pairwise_cons.mpr ⟨fun x mem same => new ?_, ih⟩
      exact List.any_eq_true.mpr ⟨x, lastEntries_sub unit ws x mem, beq_iff_eq.mpr same.symm⟩

theorem eq_of_apart {α : Type} {f : α → Nat} {l : List α} (apart : l.Pairwise fun x y => f x ≠ f y) {x y : α} (hx : x ∈ l) (hy : y ∈ l)
    (same : f x = f y) : x = y := by
  induction l with
  | nil => exact absurd hx List.not_mem_nil
  | cons z l ih =>
    obtain ⟨out, apart⟩ := List.pairwise_cons.mp apart
    obtain rfl | hx := List.mem_cons.mp hx
    · exact (List.mem_cons.mp hy).elim Eq.symm fun hy => absurd same (out y hy)
    · exact (List.mem_cons.mp hy).elim (fun is => absurd (is ▸ same).symm (out x hx)) fun hy => ih apart hx hy

theorem nodup_of_apart {α : Type} {f : α → Nat} {l : List α} (apart : l.Pairwise fun x y => f x ≠ f y) : l.Nodup :=
  apart.imp fun ne same => ne (congrArg f same)

theorem flatMap_ite {α β : Type} (q : α → Bool) (f : α → β) (l : List α) :
    (l.flatMap fun x => if q x then [f x] else []) = (l.filter q).map f := by
  induction l with
  | nil => rfl
  | cons x l ih =>
    rw [List.flatMap_cons, ih, List.filter_cons]
    split <;> rfl

/-! ### Writes of a command -/

section

variable {c : Committer} {d e : Dev} {a : Nat} {w : Word} {as : List Nat}

theorem adds_wr (d : Dev) (c : Committer) (a : Nat) (w : Word) : Adds c [] d (d.wr a w) := .nothing rfl rfl rfl rfl

theorem adds_raise (d : Dev) (c : Committer) (a b : Nat) : Adds c [] d (d.raise a b) :=
  .nothing (Dev.raise_cad ..) (Dev.raise_time ..) (Dev.raise_inforce ..) (Dev.raise_drunas ..)

theorem adds_swr (d : Dev) (c : Committer) (a : Nat) (w : Word) : Adds c [] d (d.swr c a w) := by
  unfold Dev.swr
  split <;> exact .nothing rfl rfl rfl rfl

theorem adds_commitWord (d : Dev) (c : Committer) (a : Nat) (w : Word) : Adds c [(.word a, 0)] d (d.commitWord c a w) := adds_commit ..

/-- A register word is written and committed. -/
theorem adds_wordCommitted (d : Dev) (c : Committer) (a : Nat) (w : Word) : Adds c [(.word a, 0)] d ((d.wr a w).commitWord c a w) :=
  (adds_wr d c a w).andThen (adds_commitWord ..)

theorem writeFieldsBy_eq (d : Dev) (c : Committer) (a : Nat) (w : Word) : d.writeFields c a w =
    (committed (d.wr a (d.fieldWrite c.rank a w)) c a (d.fieldWrite c.rank a w) w).noteWrite a c.rank := rfl

theorem adds_writeFields (d : Dev) (c : Committer) (w : Word) (timed : tickMask a ≠ 0) : Adds c [(.word a, 0)] d (d.writeFields c a w) := by
  rw [writeFieldsBy_eq, committed, if_neg timed]
  exact ((adds_wr ..).andThen (adds_commitWord ..)).beside rfl rfl rfl rfl

theorem adds_writeFields_untimed (d : Dev) (c : Committer) (w : Word) (untimed : tickMask a = 0) : Adds c [] d (d.writeFields c a w) := by
  rw [writeFieldsBy_eq, committed, if_pos untimed]
  exact .nothing rfl rfl rfl rfl

theorem rd_writeFieldsBy (d : Dev) (c : Committer) (a : Nat) (w : Word) (b : Nat) :
    (d.writeFields c a w).rd b = (d.wr a (d.fieldWrite c.rank a w)).rd b := by
  obtain ⟨x, is⟩ := committed_frame (d.wr a (d.fieldWrite c.rank a w)) c a (d.fieldWrite c.rank a w) w
  rw [writeFieldsBy_eq, Dev.rd_noteWrite, is]
  rfl

theorem rd_writeFieldsBy_same (d : Dev) (c : Committer) (a : Nat) (w : Word) : (d.writeFields c a w).rd a = d.fieldWrite c.rank a w :=
  (rd_writeFieldsBy d c a w a).trans (Dev.rd_wr_same ..)

theorem rd_writeFieldsBy_ne (d : Dev) (c : Committer) (w : Word) {a b : Nat} (other : b ≠ a) : (d.writeFields c a w).rd b = d.rd b :=
  (rd_writeFieldsBy d c a w b).trans (Dev.rd_wr_ne _ _ other)

theorem sameRegs_writeFieldsBy (d : Dev) (c : Committer) (w : Word) (mem : a ∈ as) : SameRegsBut as d (d.writeFields c a w) :=
  fun _ out => rd_writeFieldsBy_ne d c w fun same => out (same ▸ mem)

theorem sameRegs_commit (d : Dev) (c : Committer) (key : Setting) (ws : List (Nat × Word × Word)) (arg : Nat) :
    SameRegsBut as d (d.commit c key ws arg) := .of_regs rfl

theorem sameRegs_wordCommitted (d : Dev) (c : Committer) (w : Word) (mem : a ∈ as) : SameRegsBut as d ((d.wr a w).commitWord c a w) :=
  (sameRegs_wr d w mem).congr rfl

end

/-! ### What contends with a write in its cycle (R13, R43) -/

/-- Nothing of the cycle contends with a command's write of a register. -/
def Uncontended (d : Dev) (a : Nat) : Prop := d.overtaken a 1 = false ∧ d.setNow a = 0 ∧ ∀ lo, d.countedNow a lo = 0

section

variable {d e : Dev} {a : Nat}

theorem uncontended_of_same (same : e.same = d.same) (time : e.time = d.time) (alone : Uncontended d a) : Uncontended e a := by
  have now : e.sameNow = d.sameNow := by rw [Dev.sameNow, Dev.sameNow, same, time]
  obtain ⟨first, sets, counts⟩ := alone
  exact ⟨by rw [Dev.overtaken, now]; exact first, by rw [Dev.setNow, now]; exact sets, fun lo => by rw [Dev.countedNow, now]; exact counts lo⟩

/-- Another write of a command changes nothing of it. -/
theorem uncontended_noteWrite (b : Nat) (alone : Uncontended d a) : Uncontended (d.noteWrite b 1) a := by
  have now := sameNow_noteWrite d b 1
  obtain ⟨first, sets, counts⟩ := alone
  refine ⟨?_, by rw [Dev.setNow, now]; exact sets, fun lo => by rw [Dev.countedNow, now]; exact counts lo⟩
  rw [Dev.overtaken, now]
  simpa [Dev.overtaken] using first

theorem uncontended_writeFields (c : Committer) (rank : c.rank = 1) (b : Nat) (w : Word) (alone : Uncontended d a) :
    Uncontended (d.writeFields c b w) a := by
  obtain ⟨x, is⟩ := committed_frame (d.wr b (d.fieldWrite c.rank b w)) c b (d.fieldWrite c.rank b w) w
  rw [writeFieldsBy_eq, is, rank]
  exact uncontended_noteWrite b (uncontended_of_same rfl rfl alone)

theorem uncontended_swr (c : Committer) (rank : c.rank = 1) (b : Nat) (w : Word) (alone : Uncontended d a) : Uncontended (d.swr c b w) a := by
  unfold Dev.swr
  rw [rank]
  split
  · exact uncontended_noteWrite b alone
  · exact uncontended_noteWrite b (uncontended_of_same rfl rfl alone)

theorem rd_writeFields_uncontended (c : Committer) (rank : c.rank = 1) (w : Word) (alone : Uncontended d a) :
    (d.writeFields c a w).rd a = fieldWrite (fieldsOf a) (d.rd a) w := by
  obtain ⟨first, sets, counts⟩ := alone
  rw [rd_writeFieldsBy_same, rank]
  exact fieldWrite_alone first sets counts

theorem rd_swr_uncontended (c : Committer) (rank : c.rank = 1) (w : Word) (alone : Uncontended d a) : (d.swr c a w).rd a = w := by
  unfold Dev.swr
  rw [rank, alone.1, if_neg Bool.false_ne_true, Dev.rd_noteWrite, Dev.rd_wr_same]

end

end Sys2Proof.Cert

/-! PROOFS. The commands of the radio, the carriers and the beams that commit. -/

open Sys2Proof.Machine

namespace Sys2Proof.Cert

section

variable {s : State} {p : Packet} {rest : List Packet} {ps : List Word} {as : List Nat} {e : Dev} {a : Nat} {ks : List (Setting × Nat)}

theorem issued_by : (issued s p ps).by_ = committer s := rfl

theorem issued_p (i : Nat) : (issued s p ps).p i = ps.getD i 0 := rfl

theorem rd_closed (e : Dev) (a : Nat) : (closed e).rd a = e.rd a := rfl

/-- What a statement says of the registers and of the values in force. -/
theorem frame_of (adds : Adds (committer s) ks (inHand s p rest ps) e) (same : SameRegsBut as (inHand s p rest ps) e) :
    SameRegsBut as s.dev (closed e) ∧ (closed e).inforce = s.dev.inforce := ⟨same, adds.inforce⟩

theorem uncontended_inHand (alone : Alone s .cpu a) : Uncontended (inHand s p rest ps) a :=
  uncontended_of_same (d := s.dev) rfl rfl alone

/-! ### BEAM_MODE -/

theorem beamMode_commits (heads : Heads s p rest 0x400 ps) (quiet : NoneOpen s) (running : s.dev.cad.running = true) :
    ∃ d, Commits s .beamMode p d [(.word Reg.BEAM_CFG, 0)] ∧ (SameRegsBut [Reg.BEAM_CFG] s.dev d ∧ d.inforce = s.dev.inforce) ∧
      (Alone s .cpu Reg.BEAM_CFG → d.rd Reg.BEAM_CFG = fieldWrite (fieldsOf Reg.BEAM_CFG) (s.dev.rd Reg.BEAM_CFG) (ps.getD 0 0)) := by
  have adds := adds_writeFields (a := Reg.BEAM_CFG) (inHand s p rest ps) (committer s) (ps.getD 0 0) (by decide +kernel)
  exact ⟨_, commits_of (fun _ => rfl) heads rfl quiet running rfl adds (by decide),
    frame_of adds (sameRegs_writeFieldsBy _ _ _ List.mem_cons_self),
    fun alone => rd_writeFields_uncontended (committer s) rfl _ (uncontended_inHand (p := p) (rest := rest) (ps := ps) alone)⟩

/-! ### POWER_STEP -/

/-- The power-step register that an entry names. -/
def stepReg (w : Word) : Nat := Reg.TILE_PIDX (w.get 29 24 / 16) (w.get 29 24 % 16)

/-- The entries of a POWER_STEP, the last for each path. -/
def stepEntries (ps : List Word) : List Word :=
  lastEntries (fun w => w.get 29 24) ((ps.drop 1).take ((ps.getD 0 0).get 6 0))

/-- An entry sets the index of its path. -/
def stepEntry (c : Committer) (d : Dev) (w : Word) : Dev :=
  (d.wr (stepReg w) ((d.rd (stepReg w)).put 9 0 (w.get 9 0))).commitWord c (stepReg w) ((d.rd (stepReg w)).put 9 0 (w.get 9 0))

theorem opPowerStep_eq (d : Dev) (m : Mem) (c : Cmd) :
    opPowerStep d m c = (.commits [], (stepEntries c.params).foldl (stepEntry c.by_) d, m) := rfl

theorem stepReg_apart : ∀ j < 64, ∀ k < 64, j ≠ k → Reg.TILE_PIDX (j / 16) (j % 16) ≠ Reg.TILE_PIDX (k / 16) (k % 16) := by
  simp only [Reg.TILE_PIDX]
  omega

theorem get_field_lt (w : Word) (hi lo : Nat) : w.get hi lo < 2 ^ (hi + 1 - lo) := Nat.mod_lt _ (Nat.two_pow_pos _)

theorem rd_stepEntry (c : Committer) (d : Dev) (w : Word) (b : Nat) :
    (stepEntry c d w).rd b = (d.wr (stepReg w) ((d.rd (stepReg w)).put 9 0 (w.get 9 0))).rd b := rfl

theorem powerStep_commits (heads : Heads s p rest 0x320 ps) (quiet : NoneOpen s) (running : s.dev.cad.running = true) :
    ∃ d, Commits s .powerStep p d ((stepEntries ps).map fun w => (.word (stepReg w), 0)) ∧
      (SameRegsBut ((stepEntries ps).map stepReg) s.dev d ∧ d.inforce = s.dev.inforce) ∧
      ∀ w ∈ stepEntries ps, Alone s .cpu (stepReg w) → (d.rd (stepReg w)).get 9 0 = w.get 9 0 := by
  have adds : Adds (committer s) ((stepEntries ps).flatMap fun w => [(.word (stepReg w), 0)]) (inHand s p rest ps) _ :=
    .foldl (g := stepEntry (committer s)) _ (fun d w _ => adds_wordCommitted ..) _
  rw [← List.map_eq_flatMap] at adds
  refine ⟨_, commits_of (fun _ => rfl) heads rfl quiet running (opPowerStep_eq ..) adds (by decide), frame_of adds ?_, fun w mem _ => ?_⟩
  · exact SameRegsBut.foldl _ (fun d w mem => sameRegs_wordCommitted d _ _ (List.mem_map_of_mem mem)) _
  · have apart := lastEntries_apart (fun w => w.get 29 24) ((ps.drop 1).take ((ps.getD 0 0).get 6 0))
    have is := rd_foldl_own (g := stepEntry (committer s)) (P := fun _ => True) (a := stepReg w) (v := fun v => v.put 9 0 (w.get 9 0)) (x := w)
      (fun _ _ h => h) (fun d _ => (rd_stepEntry ..).trans (Dev.rd_wr_same ..))
      (fun d y mem' other => (rd_stepEntry ..).trans (Dev.rd_wr_ne _ _ fun same => ?_)) (nodup_of_apart apart) mem (d := inHand s p rest ps) trivial
    · exact (congrArg (Word.get · 9 0) is).trans ((Word.get_put_same _ _ (by decide) (by decide)).trans (Nat.mod_eq_of_lt (get_field_lt w 9 0)))
    · exact stepReg_apart _ (get_field_lt w 29 24) _ (get_field_lt y 29 24) (fun is => other (eq_of_apart apart mem' mem is.symm)) same

/-! ### CARRIER_CONFIG -/

/-- The words of carrier `k` are written from `n` on. -/
def carrierWords (c : Committer) (ps : List Word) (n : Nat → Nat) (d : Dev) (k : Nat) : Dev :=
  (((d.writeFields c (Reg.BEAM_CAR_CFG k) (ps.getD (n k) 0)).writeFields c (Reg.BEAM_CAR_NCO k) (ps.getD (n k + 1) 0)).writeFields
    c (Reg.BEAM_CAR_LDL k) (ps.getD (n k + 2) 0)).writeFields c (Reg.BEAM_CAR_LUL k) (ps.getD (n k + 3) 0)

theorem carrier_timed : ∀ k < 4, tickMask (Reg.BEAM_CAR_CFG k) ≠ 0 ∧ tickMask (Reg.BEAM_CAR_NCO k) ≠ 0 ∧ tickMask (Reg.BEAM_CAR_LDL k) ≠ 0 ∧
    tickMask (Reg.BEAM_CAR_LUL k) ≠ 0 := by
  decide +kernel

/-- The settings of a carrier. -/
def carrierSettings (k : Nat) : List (Setting × Nat) :=
  [(.word (Reg.BEAM_CAR_CFG k), 0), (.word (Reg.BEAM_CAR_NCO k), 0), (.word (Reg.BEAM_CAR_LDL k), 0), (.word (Reg.BEAM_CAR_LUL k), 0)]

theorem adds_carrierWords (c : Committer) (n : Nat → Nat) (d : Dev) {k : Nat} (four : k < 4) :
    Adds c (carrierSettings k) d (carrierWords c ps n d k) := by
  obtain ⟨cfg, nco, ldl, lul⟩ := carrier_timed k four
  exact (((adds_writeFields _ _ _ cfg).andThen (adds_writeFields _ _ _ nco)).andThen (adds_writeFields _ _ _ ldl)).andThen
    (adds_writeFields _ _ _ lul)

theorem carrier_apart (k j : Nat) : Reg.BEAM_CAR_CFG k ≠ Reg.BEAM_CAR_NCO j ∧ Reg.BEAM_CAR_CFG k ≠ Reg.BEAM_CAR_LDL j ∧
    Reg.BEAM_CAR_CFG k ≠ Reg.BEAM_CAR_LUL j ∧ (j ≠ k → Reg.BEAM_CAR_CFG k ≠ Reg.BEAM_CAR_CFG j) := by
  simp only [Reg.BEAM_CAR_CFG, Reg.BEAM_CAR_NCO, Reg.BEAM_CAR_LDL, Reg.BEAM_CAR_LUL]
  omega

theorem rd_carrierWords (c : Committer) (n : Nat → Nat) (d : Dev) (k j : Nat) :
    (carrierWords c ps n d j).rd (Reg.BEAM_CAR_CFG k) =
      (d.writeFields c (Reg.BEAM_CAR_CFG j) (ps.getD (n j) 0)).rd (Reg.BEAM_CAR_CFG k) := by
  obtain ⟨nco, ldl, lul, -⟩ := carrier_apart k j
  unfold carrierWords
  rw [rd_writeFieldsBy_ne _ _ _ lul, rd_writeFieldsBy_ne _ _ _ ldl, rd_writeFieldsBy_ne _ _ _ nco]

theorem uncontended_carrierWords (c : Committer) (rank : c.rank = 1) (n : Nat → Nat) (d : Dev) (j : Nat) (alone : Uncontended d a) :
    Uncontended (carrierWords c ps n d j) a :=
  uncontended_writeFields c rank _ _ (uncontended_writeFields c rank _ _ (uncontended_writeFields c rank _ _
    (uncontended_writeFields c rank _ _ alone)))

/-- The carriers that a packet configures, and where the words of one begin. -/
def carriersOf (ps : List Word) : List Nat := (List.range 4).filter fun k => (ps.getD 0 0).bit k

def carrierAt (ps : List Word) (k : Nat) : Nat := 1 + 4 * ((carriersOf ps).findIdx fun x => x == k)

/-- The carriers as they will be. -/
def carriersNext (d : Dev) (ps : List Word) : List (Word × Word) := (List.range 4).map fun k =>
  if (carriersOf ps).contains k then (ps.getD (carrierAt ps k) 0, ps.getD (carrierAt ps k + 1) 0)
  else (d.rd (Reg.BEAM_CAR_CFG k), d.rd (Reg.BEAM_CAR_NCO k))

theorem opCarrierConfig_eq (d : Dev) (m : Mem) (c : Cmd) : opCarrierConfig d m c =
    if configValid ((d.rd Reg.CADENCE_CFG).get 1 0) (d.rd Reg.BEAM_CFG) (carriersNext d c.params) then
      (.commits [], (carriersOf c.params).foldl (carrierWords c.by_ c.params (carrierAt c.params)) d, m)
    else (.done 0x11 [], d, m) := rfl

theorem carriersOf_lt : ∀ k ∈ carriersOf ps, k < 4 := fun _ mem => List.mem_range.mp (List.mem_filter.mp mem).1

theorem closed_begun (none : s.dev.drunas.cmds = []) : closed (begun s rest) = begun s rest := by
  simp [closed, begun, none]

/-- A command that its meaning answers, with the commands left as they are. -/
theorem answered_of {form : List Word → Bool} {f : Meaning} {row : Instr} {op status : Nat} {results : List Word} (runs : Runs row op form f)
    (heads : Heads s p rest op ps) (fits : form ps = true) (quiet : NoneOpen s) (running : e.cad.running = true)
    (does : f (inHand s p rest ps) s.mem (issued s p ps) = (.done status results, e, s.mem)) (drunas : e.drunas = (inHand s p rest ps).drunas)
    (other : op ≠ 0x401) : Answers s row p (closed e) status results := by
  have only : e.drunas.cmds = [issued s p ps] := by
    rw [drunas]
    rfl
  rw [← holding_self only] at does
  exact answers_of runs heads fits quiet running does other (by rw [drunas]; exact quiet.2.1) (by rw [drunas]; exact quiet.2.2.1)

/-- A command refused at once leaves the device as it is. -/
theorem refused_of {form : List Word → Bool} {f : Meaning} {row : Instr} {op status : Nat} {results : List Word} (runs : Runs row op form f)
    (heads : Heads s p rest op ps) (fits : form ps = true) (quiet : NoneOpen s) (running : s.dev.cad.running = true)
    (does : f (inHand s p rest ps) s.mem (issued s p ps) = (.done status results, inHand s p rest ps, s.mem)) (other : op ≠ 0x401) :
    Answers s row p (begun s rest) status results := by
  have answers := answered_of (e := inHand s p rest ps) runs heads fits quiet running does rfl other
  obtain ⟨none, -⟩ := quiet
  rwa [show closed (inHand s p rest ps) = closed (begun s rest) from rfl, closed_begun none] at answers

theorem carrierConfig_answers (heads : Heads s p rest 0x310 ps) (quiet : NoneOpen s) (running : s.dev.cad.running = true)
    (bad : configValid ((s.dev.rd Reg.CADENCE_CFG).get 1 0) (s.dev.rd Reg.BEAM_CFG) (carriersNext s.dev ps) = false) :
    Answers s .carrierConfig p (begun s rest) 0x11 [] :=
  refused_of (fun _ => rfl) heads rfl quiet running
    ((opCarrierConfig_eq ..).trans (if_neg (fun good => Bool.false_ne_true (bad.symm.trans good)))) (by decide)

theorem carrierConfig_commits (heads : Heads s p rest 0x310 ps) (quiet : NoneOpen s) (running : s.dev.cad.running = true)
    (good : configValid ((s.dev.rd Reg.CADENCE_CFG).get 1 0) (s.dev.rd Reg.BEAM_CFG) (carriersNext s.dev ps) = true) :
    ∃ d, Commits s .carrierConfig p d ((carriersOf ps).flatMap carrierSettings) ∧ d.inforce = s.dev.inforce ∧
      ∀ k ∈ carriersOf ps, Alone s .cpu (Reg.BEAM_CAR_CFG k) → d.rd (Reg.BEAM_CAR_CFG k) =
        fieldWrite (fieldsOf (Reg.BEAM_CAR_CFG k)) (s.dev.rd (Reg.BEAM_CAR_CFG k)) (ps.getD (carrierAt ps k) 0) := by
  have adds : Adds (committer s) _ (inHand s p rest ps) _ := .foldl (g := carrierWords (committer s) ps (carrierAt ps)) (carriersOf ps)
    (fun d k mem => adds_carrierWords (committer s) (carrierAt ps) d (carriersOf_lt k mem)) (inHand s p rest ps)
  refine ⟨_, commits_of (fun _ => rfl) heads rfl quiet running ((opCarrierConfig_eq ..).trans (if_pos good)) adds (by decide), adds.inforce,
    fun k mem alone => ?_⟩
  refine rd_foldl_own (g := carrierWords (committer s) ps (carrierAt ps)) (P := fun d => Uncontended d (Reg.BEAM_CAR_CFG k))
    (v := fun v => fieldWrite (fieldsOf (Reg.BEAM_CAR_CFG k)) v (ps.getD (carrierAt ps k) 0)) (x := k)
    (fun d j => uncontended_carrierWords (committer s) rfl _ d j)
    (fun d alone => (rd_carrierWords ..).trans (rd_writeFields_uncontended (committer s) rfl _ alone))
    (fun d j _ other => (rd_carrierWords ..).trans (rd_writeFieldsBy_ne _ _ _ ((carrier_apart k j).2.2.2 other))) ?_ mem
    (uncontended_inHand (p := p) (rest := rest) (ps := ps) alone)
  exact List.nodup_range.filter _

end

end Sys2Proof.Cert

/-! PROOFS. RADIO_SET_STATE commits levels and modes; and what the commands of the radio, the carriers and the beams commit. -/

open Sys2Proof.Machine

namespace Sys2Proof.Cert

section

variable {s : State} {p : Packet} {rest : List Packet} {ps : List Word} {as : List Nat} {e : Dev} {a : Nat} {ks : List (Setting × Nat)}

/-! ### Tile levels -/

/-- A tile's level is committed. -/
def levelSet (c : Committer) (v : Nat) (d : Dev) (t : Fin 4) : Dev :=
  (d.wr (Reg.TILE_CFG t.val) ((d.rd (Reg.TILE_CFG t.val)).put 1 0 v)).commitWord c (Reg.TILE_CFG t.val)
    ((d.rd (Reg.TILE_CFG t.val)).put 1 0 v)

/-- Levels, for the tiles that the packet names. -/
def levelsSet (c : Committer) (p0 : Word) (d : Dev) : Dev :=
  if p0.bit 12 then (List.finRange 4).foldl (fun d t => if p0.bit t.val then levelSet c (p0.get 9 8) d t else d) d else d

def levelSettings (p0 : Word) : List (Setting × Nat) :=
  if p0.bit 12 then ((List.finRange 4).filter fun t => p0.bit t.val).map fun t => (Setting.word (Reg.TILE_CFG t.val), 0) else []

theorem adds_levelsSet (c : Committer) (p0 : Word) (d : Dev) : Adds c (levelSettings p0) d (levelsSet c p0 d) := by
  unfold levelSettings levelsSet
  split
  · rw [← flatMap_ite]
    refine .foldl _ (fun d t _ => ?_) d
    split
    · exact adds_wordCommitted ..
    · exact .nothing rfl rfl rfl rfl
  · exact .nothing rfl rfl rfl rfl

theorem rd_levelSet (c : Committer) (v : Nat) (d : Dev) (t : Fin 4) (b : Nat) :
    (levelSet c v d t).rd b = (d.wr (Reg.TILE_CFG t.val) ((d.rd (Reg.TILE_CFG t.val)).put 1 0 v)).rd b := rfl

theorem sameRegs_levelsSet (c : Committer) (p0 : Word) (d : Dev) :
    SameRegsBut ((List.range 4).map Reg.TILE_CFG) d (levelsSet c p0 d) := by
  unfold levelsSet
  split
  · refine SameRegsBut.foldl _ (fun d t _ => ?_) d
    split
    · exact sameRegs_wordCommitted d _ _ (List.mem_map_of_mem (List.mem_range.mpr t.isLt))
    · exact fun _ _ => rfl
  · exact fun _ _ => rfl

theorem tileCfg_apart : ∀ t y : Fin 4, y ≠ t → Reg.TILE_CFG t.val ≠ Reg.TILE_CFG y.val := by decide

theorem get_levelsSet (c : Committer) (p0 : Word) (d : Dev) {t : Fin 4} (levels : p0.bit 12 = true) (named : p0.bit t.val = true) :
    ((levelsSet c p0 d).rd (Reg.TILE_CFG t.val)).get 1 0 = p0.get 9 8 := by
  have is := rd_foldl_own (g := fun d (y : Fin 4) => if p0.bit y.val then levelSet c (p0.get 9 8) d y else d) (P := fun _ => True)
    (a := Reg.TILE_CFG t.val) (v := fun v => v.put 1 0 (p0.get 9 8)) (x := t) (fun _ _ h => h)
    (fun d _ => by rw [if_pos named, rd_levelSet, Dev.rd_wr_same])
    (fun d y _ other => by split; exacts [(rd_levelSet ..).trans (Dev.rd_wr_ne _ _ (tileCfg_apart t y other)), rfl])
    (List.nodup_finRange 4) (List.mem_finRange t) (d := d) trivial
  rw [levelsSet, if_pos levels, is, Word.get_put_same _ _ (by decide) (by decide)]
  exact Nat.mod_eq_of_lt (get_field_lt p0 9 8)

/-! ### Path modes -/

/-- The settings that one half of a tile's modes is. -/
def modeSettings (b : Nat) (w : Word) (which : Nat) : List (Setting × Nat) := (List.range 8).flatMap fun k =>
  if which.testBit k then [(.pathMode (toPath (b + k)), if w.get (2 * k + 1) (2 * k) = 3 then 0 else w.get (2 * k + 1) (2 * k))] else []

/-- The mode of one path is committed, where it is named. -/
def modeCommit (c : Committer) (a b : Nat) (w : Word) (which : Nat) (d : Dev) (k : Nat) : Dev :=
  if which.testBit k then
    d.commit c (.pathMode (toPath (b + k))) [(a, w, (0 : Word).put (2 * k + 1) (2 * k) 3)]
      (if w.get (2 * k + 1) (2 * k) = 3 then 0 else w.get (2 * k + 1) (2 * k))
  else d

theorem writeModes_commits (d : Dev) (c : Committer) (a : Nat) (w : Word) (which : Nat) : ∃ v, d.writeModes c a w which =
    (List.range 8).foldl (modeCommit c a (16 * (toTile ((a - 0x100000) / 0x10000)).val + if a % 0x10000 = 0xC then 8 else 0) w which)
      (d.swr c a v) := ⟨_, rfl⟩

theorem adds_modeCommit (c : Committer) (a b : Nat) (w : Word) (which : Nat) (d : Dev) (k : Nat) :
    Adds c (if which.testBit k then
      [(.pathMode (toPath (b + k)), if w.get (2 * k + 1) (2 * k) = 3 then 0 else w.get (2 * k + 1) (2 * k))] else []) d
      (modeCommit c a b w which d k) := by
  unfold modeCommit
  split
  · exact adds_commit ..
  · exact .nothing rfl rfl rfl rfl

theorem adds_writeModes (d : Dev) (c : Committer) (a : Nat) (w : Word) (which : Nat) :
    Adds c (modeSettings (16 * (toTile ((a - 0x100000) / 0x10000)).val + if a % 0x10000 = 0xC then 8 else 0) w which) d
      (d.writeModes c a w which) := by
  obtain ⟨v, is⟩ := writeModes_commits d c a w which
  rw [is]
  have both := (adds_swr d c a v).andThen (.foldl (g := modeCommit c a _ w which) (List.range 8)
    (fun d k _ => adds_modeCommit c a (16 * (toTile ((a - 0x100000) / 0x10000)).val + if a % 0x10000 = 0xC then 8 else 0) w which d k) _)
  rwa [List.nil_append] at both

theorem sameRegs_writeModes (d : Dev) (c : Committer) (w : Word) (which : Nat) (mem : a ∈ as) : SameRegsBut as d (d.writeModes c a w which) := by
  obtain ⟨v, is⟩ := writeModes_commits d c a w which
  rw [is]
  refine (sameRegs_swr d c _ mem).trans (SameRegsBut.foldl _ (fun d k _ => ?_) _)
  unfold modeCommit
  split
  · exact SameRegsBut.of_regs rfl
  · exact SameRegsBut.of_regs rfl

/-- The modes of half a tile, where any is named. -/
def halfSet (c : Committer) (a : Nat) (w : Word) (which : Nat) (d : Dev) : Dev := if which = 0 then d else d.writeModes c a w which

theorem modeSettings_none (b : Nat) (w : Word) : modeSettings b w 0 = [] := by
  simp [modeSettings]

theorem adds_halfSet {b : Nat} (c : Committer) (a : Nat) (w : Word) (which : Nat) (d : Dev)
    (base : 16 * (toTile ((a - 0x100000) / 0x10000)).val + (if a % 0x10000 = 0xC then 8 else 0) = b) :
    Adds c (modeSettings b w which) d (halfSet c a w which d) := by
  unfold halfSet
  split
  next none =>
    rw [none, modeSettings_none]
    exact .nothing rfl rfl rfl rfl
  next =>
    rw [← base]
    exact adds_writeModes ..

theorem sameRegs_halfSet (d : Dev) (c : Committer) (w : Word) (which : Nat) (mem : a ∈ as) : SameRegsBut as d (halfSet c a w which d) := by
  unfold halfSet
  split
  · exact fun _ _ => rfl
  · exact sameRegs_writeModes d c w which mem

/-- Which of the eight paths from `n` on the packet names. -/
def namedFrom (ps : List Word) (n : Nat) : Nat :=
  if n < 32 then (ps.getD 2 0).get (n + 7) n else (ps.getD 1 0).get (n - 25) (n - 32)

/-- The modes of one tile. -/
def tileModes (c : Committer) (ps : List Word) (d : Dev) (t : Nat) : Dev :=
  halfSet c (Reg.TILE_PATH_MODE_HI t) (BitVec.ofNat 32 ((ps.getD (3 + t) 0).get 31 16)) (namedFrom ps (16 * t + 8))
    (halfSet c (Reg.TILE_PATH_MODE_LO t) (BitVec.ofNat 32 ((ps.getD (3 + t) 0).get 15 0)) (namedFrom ps (16 * t)) d)

theorem opRadioSetState_eq (d : Dev) (m : Mem) (c : Cmd) : opRadioSetState d m c =
    (.commits [], (List.range 4).foldl (tileModes c.by_ c.params) (levelsSet c.by_ (c.params.getD 0 0) d), m) := rfl

/-- Whether the packet names path `k`, and its mode. -/
def pathNamed (ps : List Word) (k : Nat) : Bool := if k < 32 then (ps.getD 2 0).bit k else (ps.getD 1 0).bit (k - 32)

def modeNamed (ps : List Word) (k : Nat) : Nat :=
  if (ps.getD (3 + k / 16) 0).get (2 * (k % 16) + 1) (2 * (k % 16)) = 3 then 0
  else (ps.getD (3 + k / 16) 0).get (2 * (k % 16) + 1) (2 * (k % 16))

def pathSetting (ps : List Word) (k : Nat) : List (Setting × Nat) :=
  if pathNamed ps k then [(.pathMode (toPath k), modeNamed ps k)] else []

theorem testBit_namedFrom (ps : List Word) {n j : Nat} (aligned : n % 8 = 0) (eight : j < 8) :
    (namedFrom ps n).testBit j = pathNamed ps (n + j) := by
  unfold namedFrom pathNamed
  by_cases low : n < 32
  · rw [if_pos low, if_pos (by omega : n + j < 32), Word.testBit_get, decide_eq_true (by omega), Bool.true_and]
  · rw [if_neg low, if_neg (by omega : ¬ n + j < 32), Word.testBit_get, decide_eq_true (by omega), Bool.true_and,
      show n - 32 + j = n + j - 32 from by omega]

/-- A field of a field. -/
theorem get_ofNat_get (w : Word) {h l b a : Nat} (inside : l + b ≤ h) (fits : h < 32) :
    Word.get (BitVec.ofNat 32 (w.get h l)) b a = w.get (l + b) (l + a) := by
  refine Nat.eq_of_testBit_eq fun j => ?_
  rw [Word.testBit_get, Word.testBit_get, show l + b + 1 - (l + a) = b + 1 - a from by omega, Word.bit, BitVec.toNat_ofNat,
    Nat.testBit_mod_two_pow, Word.testBit_get]
  by_cases here : j < b + 1 - a
  · rw [decide_eq_true here, decide_eq_true (by omega : a + j < 32), decide_eq_true (by omega : a + j < h + 1 - l), Nat.add_assoc]
    rfl
  · rw [decide_eq_false here, Bool.false_and, Bool.false_and]

/-- Half a tile's modes are those that the packet names for its paths. -/
theorem modeSettings_named (ps : List Word) {t n h l : Nat} (eight : n = 16 * t + l / 2) (half : l = 0 ∧ h = 15 ∨ l = 16 ∧ h = 31) :
    modeSettings n (BitVec.ofNat 32 ((ps.getD (3 + t) 0).get h l)) (namedFrom ps n) =
      ((List.range 8).map (n + ·)).flatMap (pathSetting ps) := by
  rw [modeSettings, List.flatMap_map]
  refine List.flatMap_congr fun k mem => ?_
  have small : k < 8 := List.mem_range.mp mem
  have tile : (n + k) / 16 = t := by omega
  have place : (n + k) % 16 = l / 2 + k := by omega
  rw [testBit_namedFrom ps (by omega) small, pathSetting, modeNamed, tile, place, get_ofNat_get _ (by omega) (by omega),
    show 2 * (l / 2 + k) = l + 2 * k from by omega, Nat.add_assoc]

/-- Where the registers of a tile's modes stand. -/
theorem modeRegs_base : ∀ t < 4,
    16 * (toTile ((Reg.TILE_PATH_MODE_LO t - 0x100000) / 0x10000)).val + (if Reg.TILE_PATH_MODE_LO t % 0x10000 = 0xC then 8 else 0) = 16 * t ∧
    16 * (toTile ((Reg.TILE_PATH_MODE_HI t - 0x100000) / 0x10000)).val + (if Reg.TILE_PATH_MODE_HI t % 0x10000 = 0xC then 8 else 0) =
      16 * t + 8 := by
  decide

theorem adds_tileModes (c : Committer) (d : Dev) {t : Nat} (four : t < 4) :
    Adds c (((List.range 8).map (16 * t + ·) ++ (List.range 8).map (16 * t + 8 + ·)).flatMap (pathSetting ps)) d (tileModes c ps d t) := by
  obtain ⟨low, high⟩ := modeRegs_base t four
  rw [List.flatMap_append, ← modeSettings_named ps (t := t) (n := 16 * t) (h := 15) (l := 0) rfl (.inl ⟨rfl, rfl⟩),
    ← modeSettings_named ps (t := t) (n := 16 * t + 8) (h := 31) (l := 16) rfl (.inr ⟨rfl, rfl⟩)]
  exact (adds_halfSet c _ _ _ d low).andThen (adds_halfSet c _ _ _ _ high)

theorem paths_of_tiles : ((List.range 4).flatMap fun t => (List.range 8).map (16 * t + ·) ++ (List.range 8).map (16 * t + 8 + ·)) =
    (List.finRange 64).map Fin.val := by
  decide

/-- The settings of the paths that the packet names. -/
def pathSettings (ps : List Word) : List (Setting × Nat) :=
  ((List.finRange 64).filter fun k => pathNamed ps k.val).map fun k => (.pathMode k, modeNamed ps k.val)

theorem pathSettings_tiles : ((List.range 4).flatMap fun t =>
    ((List.range 8).map (16 * t + ·) ++ (List.range 8).map (16 * t + 8 + ·)).flatMap (pathSetting ps)) = pathSettings ps := by
  rw [← List.flatMap_assoc, paths_of_tiles, List.flatMap_map, pathSettings, ← flatMap_ite]
  refine List.flatMap_congr fun k _ => ?_
  rw [pathSetting, show toPath k.val = k from Fin.ext (Nat.mod_eq_of_lt k.isLt)]

theorem adds_allModes (c : Committer) (d : Dev) : Adds c (pathSettings ps) d ((List.range 4).foldl (tileModes c ps) d) := by
  rw [← pathSettings_tiles]
  exact .foldl _ (fun d t mem => adds_tileModes c d (List.mem_range.mp mem)) d

theorem sameRegs_allModes (c : Committer) (d : Dev) : SameRegsBut
    ((List.range 4).flatMap fun t => [Reg.TILE_PATH_MODE_LO t, Reg.TILE_PATH_MODE_HI t]) d ((List.range 4).foldl (tileModes c ps) d) := by
  refine SameRegsBut.foldl _ (fun d t mem => ?_) d
  exact (sameRegs_halfSet d c _ _ (List.mem_flatMap.mpr ⟨t, mem, List.mem_cons_self⟩)).trans
    (sameRegs_halfSet _ c _ _ (List.mem_flatMap.mpr ⟨t, mem, List.mem_cons_of_mem _ List.mem_cons_self⟩))

/-- The registers of RADIO_SET_STATE. -/
def radioRegs : List Nat :=
  (List.range 4).flatMap fun t => [Reg.TILE_CFG t, Reg.TILE_PATH_MODE_LO t, Reg.TILE_PATH_MODE_HI t]

theorem radioRegs_parts : (∀ a ∈ (List.range 4).map Reg.TILE_CFG, a ∈ radioRegs) ∧
    (∀ a ∈ (List.range 4).flatMap fun t => [Reg.TILE_PATH_MODE_LO t, Reg.TILE_PATH_MODE_HI t], a ∈ radioRegs) ∧
    ∀ t : Fin 4, Reg.TILE_CFG t.val ∉ (List.range 4).flatMap fun t => [Reg.TILE_PATH_MODE_LO t, Reg.TILE_PATH_MODE_HI t] := by
  decide

theorem radioSetState_commits (heads : Heads s p rest 0x300 ps) (quiet : NoneOpen s) (running : s.dev.cad.running = true) :
    ∃ d, Commits s .radioSetState p d (levelSettings (ps.getD 0 0) ++ pathSettings ps) ∧
      (SameRegsBut radioRegs s.dev d ∧ d.inforce = s.dev.inforce) ∧
      ∀ t : Fin 4, (ps.getD 0 0).bit 12 = true → (ps.getD 0 0).bit t.val = true → Alone s .cpu (Reg.TILE_CFG t.val) →
        (d.rd (Reg.TILE_CFG t.val)).get 1 0 = (ps.getD 0 0).get 9 8 := by
  have adds := (adds_levelsSet (committer s) (ps.getD 0 0) (inHand s p rest ps)).andThen (adds_allModes (ps := ps) (committer s) _)
  obtain ⟨levels, modes, beside⟩ := radioRegs_parts
  have kept := sameRegs_allModes (ps := ps) (committer s) (levelsSet (committer s) (ps.getD 0 0) (inHand s p rest ps))
  refine ⟨_, commits_of (fun _ => rfl) heads rfl quiet running (opRadioSetState_eq ..) adds (by decide), frame_of adds ?_,
    fun t set named _ => ?_⟩
  · exact ((sameRegs_levelsSet _ _ _).mono levels).trans (kept.mono modes)
  · exact (congrArg (Word.get · 1 0) (kept _ (beside t))).trans (get_levelsSet _ _ _ set named)

end

/-- The commands of the radio, the carriers and the beams commit their settings. -/
theorem radioCommits : RadioCommits := fun _ _ _ _ quiet running =>
  ⟨fun heads => radioSetState_commits heads quiet running,
    fun heads => ⟨carrierConfig_answers heads quiet running, carrierConfig_commits heads quiet running⟩,
    fun heads => powerStep_commits heads quiet running, fun heads => beamMode_commits heads quiet running⟩

end Sys2Proof.Cert

/-! PROOFS. The commands of linearisation and of the quiet map that commit. -/

open Sys2Proof.Machine

namespace Sys2Proof.Cert

section

variable {s : State} {p : Packet} {rest : List Packet} {ps : List Word} {as : List Nat} {d e : Dev} {a : Nat} {ks : List (Setting × Nat)}

/-! ### DPD_CONFIG -/

/-- The tick-bound bits of a path's configuration are committed. -/
def dpdCommit (c : Committer) (d : Dev) (x : Fin 64 × Word) : Dev :=
  ((d.wr (Reg.DPD_PATH_CFG x.1.val) ((d.rd (Reg.DPD_PATH_CFG x.1.val) &&& ~~~pathTickBits) ||| (x.2 &&& pathTickBits))).commit c
    (.dpdBank x.1) [(Reg.DPD_PATH_CFG x.1.val, x.2, 0x30000000#32)] (x.2.get 29 28)).commit c (.word (Reg.DPD_PATH_CFG x.1.val))
      [(Reg.DPD_PATH_CFG x.1.val, x.2, 0xC0000000#32)] 0

/-- The bits that are not tick-bound act at once. -/
def dpdAct (c : Committer) (d : Dev) (x : Fin 64 × Word) : Dev :=
  let a := Reg.DPD_PATH_CFG x.1.val
  let e := (d.wr a (d.fieldWrite c.rank a ((d.rd a &&& pathTickBits) ||| (x.2 &&& ~~~pathTickBits)))).noteWrite a c.rank
  e.writeAmode x.1 (e.amode x.1 != d.amode x.1)

/-- The words for all paths that are tick-bound. -/
def dpdGlobal (c : Cmd) (d : Dev) : Dev := if (c.p 0).bit 31 then d.writeFields c.by_ Reg.DPD_SEL_THR (c.p 2) else d

def dpdAdjust (c : Committer) (d : Dev) (x : Fin 64 × Word) : Dev := d.writeFields c (Reg.DPD_PATH_ADJ x.1.val) x.2

theorem opDpdConfig_once (d : Dev) (m : Mem) {c : Cmd} (once : c.timing = 0) : opDpdConfig d m c =
    (.commits [], ((dpdParts c).2.foldl (dpdAdjust c.by_) ((dpdParts c).1.foldl (dpdCommit c.by_) (dpdGlobal c d))).dpdRest c, m) :=
  if_pos (.inl once)

theorem dpdRest_acts (d : Dev) (c : Cmd) : d.dpdRest c = (dpdParts c).1.foldl (dpdAct c.by_)
    (if (c.p 0).bit 31 then d.writeFields c.by_ Reg.DPD_CFG (c.p 1) else d) := rfl

theorem dpd_timed : tickMask Reg.DPD_SEL_THR ≠ 0 ∧ tickMask Reg.DPD_CFG = 0 ∧ ∀ u : Fin 64, tickMask (Reg.DPD_PATH_ADJ u.val) ≠ 0 := by
  decide +kernel

theorem adds_dpdGlobal (c : Cmd) (d : Dev) :
    Adds c.by_ (if (c.p 0).bit 31 then [(.word Reg.DPD_SEL_THR, 0)] else []) d (dpdGlobal c d) := by
  unfold dpdGlobal
  split
  · exact adds_writeFields _ _ _ dpd_timed.1
  · exact .nothing rfl rfl rfl rfl

theorem adds_dpdCommit (c : Committer) (d : Dev) (x : Fin 64 × Word) :
    Adds c [(.dpdBank x.1, x.2.get 29 28), (.word (Reg.DPD_PATH_CFG x.1.val), 0)] d (dpdCommit c d x) :=
  ((adds_wr ..).andThen (adds_commit ..)).andThen (adds_commit ..)

theorem adds_writeAmode (c : Committer) (d : Dev) (u : Fin 64) (changed : Bool) : Adds c [] d (d.writeAmode u changed) := by
  unfold Dev.writeAmode
  split <;> exact .nothing rfl rfl rfl rfl

theorem adds_noteWrite (c : Committer) (d : Dev) (a rank : Nat) : Adds c [] d (d.noteWrite a rank) := .nothing rfl rfl rfl rfl

theorem adds_dpdAct (c : Committer) (d : Dev) (x : Fin 64 × Word) : Adds c [] d (dpdAct c d x) :=
  ((adds_wr ..).andThen (adds_noteWrite ..)).andThen (adds_writeAmode ..)

theorem adds_dpdRest (c : Cmd) (d : Dev) : Adds c.by_ [] d (d.dpdRest c) := by
  have config : Adds c.by_ [] d (if (c.p 0).bit 31 then d.writeFields c.by_ Reg.DPD_CFG (c.p 1) else d) := by
    split
    · exact adds_writeFields_untimed _ _ _ dpd_timed.2.1
    · exact .nothing rfl rfl rfl rfl
  rw [dpdRest_acts]
  exact config.andThen (.foldl_nothing _ (fun d x => adds_dpdAct c.by_ d x) _)

/-- What a DPD_CONFIG commits. -/
def dpdSettings (c : Cmd) : List (Setting × Nat) :=
  (if (c.p 0).bit 31 then [(Setting.word Reg.DPD_SEL_THR, 0)] else []) ++
    ((dpdParts c).1.flatMap fun x => [(Setting.dpdBank x.1, x.2.get 29 28), (Setting.word (Reg.DPD_PATH_CFG x.1.val), 0)]) ++
    (dpdParts c).2.map fun x => (Setting.word (Reg.DPD_PATH_ADJ x.1.val), 0)

theorem adds_dpdConfig (c : Cmd) (d : Dev) : Adds c.by_ (dpdSettings c) d
    (((dpdParts c).2.foldl (dpdAdjust c.by_) ((dpdParts c).1.foldl (dpdCommit c.by_) (dpdGlobal c d))).dpdRest c) := by
  have all := (((adds_dpdGlobal c d).andThen (.foldl (g := dpdCommit c.by_) (dpdParts c).1 (fun d x _ => adds_dpdCommit c.by_ d x) _)).andThen
    (.foldl (g := dpdAdjust c.by_) (dpdParts c).2 (fun d x _ => adds_writeFields d c.by_ x.2 (dpd_timed.2.2 x.1)) _)).andThen (adds_dpdRest c _)
  rwa [List.append_nil, ← List.map_eq_flatMap] at all

theorem dpdConfig_commits (heads : Heads s p rest 0x500 ps) (quiet : NoneOpen s) (running : s.dev.cad.running = true) :
    ∃ d, Commits s .dpdConfig p d (dpdSettings (issued s p ps)) ∧ d.inforce = s.dev.inforce := by
  obtain ⟨-, once, -⟩ := id heads
  have adds := adds_dpdConfig (issued s p ps) (inHand s p rest ps)
  exact ⟨_, commits_of (fun _ => rfl) heads rfl quiet running (opDpdConfig_once _ _ (issued_timing once)) adds (by decide), adds.inforce⟩

/-! ### DPD_BANK_SELECT -/

/-- A bank is committed for a path. -/
def bankCommit (c : Committer) (b : Nat) (d : Dev) (u : Fin 64) : Dev :=
  (d.wr (Reg.DPD_PATH_CFG u.val) ((d.rd (Reg.DPD_PATH_CFG u.val)).put 29 28 b)).commit c (.dpdBank u)
    [(Reg.DPD_PATH_CFG u.val, (d.rd (Reg.DPD_PATH_CFG u.val)).put 29 28 b, 0x30000000#32)] b

theorem opDpdBankSelect_eq (d : Dev) (m : Mem) (c : Cmd) : opDpdBankSelect d m c =
    if (pairPaths (c.p 0) (c.p 1)).any fun u => (d.rd (Reg.DPD_PATH_CFG u.val)).bit 30 then (.done 0x10 [], d.raise Reg.DPD_EVT 5, m)
    else (.commits [], (pairPaths (c.p 0) (c.p 1)).foldl (bankCommit c.by_ ((c.p 2).get 1 0)) d, m) := rfl

theorem sameRegs_raised (d : Dev) (a b : Nat) : SameRegsBut [a] d (d.raise a b) := sameRegs_raise d b List.mem_cons_self

theorem dpdBankSelect_answers (heads : Heads s p rest 0x501 ps) (quiet : NoneOpen s) (running : s.dev.cad.running = true)
    (auto : ∃ u ∈ pairPaths (ps.getD 0 0) (ps.getD 1 0), (s.dev.rd (Reg.DPD_PATH_CFG u.val)).bit 30 = true) :
    ∃ d, Answers s .dpdBankSelect p d 0x10 [] ∧ Set d Reg.DPD_EVT 5 ∧
      (SameRegsBut [Reg.DPD_EVT] s.dev d ∧ d.inforce = s.dev.inforce) := by
  have cad : ((inHand s p rest ps).raise Reg.DPD_EVT 5).cad = s.dev.cad := Dev.raise_cad ..
  have answers := answered_of (row := .dpdBankSelect) (form := fun _ => true) (f := opDpdBankSelect) (e := (inHand s p rest ps).raise Reg.DPD_EVT 5) (fun _ => rfl) heads rfl quiet (by rw [cad, running])
    ((opDpdBankSelect_eq ..).trans (if_pos (List.any_eq_true.mpr auto))) (Dev.raise_drunas ..) (by decide)
  exact ⟨_, answers, set_raise _ (by decide), sameRegs_raised (inHand s p rest ps) _ _, Dev.raise_inforce ..⟩

theorem dpdBankSelect_commits (heads : Heads s p rest 0x501 ps) (quiet : NoneOpen s) (running : s.dev.cad.running = true)
    (hand : ∀ u ∈ pairPaths (ps.getD 0 0) (ps.getD 1 0), (s.dev.rd (Reg.DPD_PATH_CFG u.val)).bit 30 = false) :
    ∃ d, Commits s .dpdBankSelect p d ((pairPaths (ps.getD 0 0) (ps.getD 1 0)).map fun u => (.dpdBank u, (ps.getD 2 0).get 1 0)) ∧
      (SameRegsBut ((pairPaths (ps.getD 0 0) (ps.getD 1 0)).map fun u => Reg.DPD_PATH_CFG u.val) s.dev d ∧ d.inforce = s.dev.inforce) := by
  have none : ¬ ((pairPaths (ps.getD 0 0) (ps.getD 1 0)).any fun u => (s.dev.rd (Reg.DPD_PATH_CFG u.val)).bit 30) = true := fun any => by
    obtain ⟨u, mem, set⟩ := List.any_eq_true.mp any
    exact Bool.false_ne_true ((hand u mem).symm.trans set)
  have adds : Adds (committer s) _ (inHand s p rest ps) _ := .foldl (g := bankCommit (committer s) ((ps.getD 2 0).get 1 0))
    (pairPaths (ps.getD 0 0) (ps.getD 1 0)) (fun d u _ => (adds_wr ..).andThen (adds_commit ..)) (inHand s p rest ps)
  refine ⟨_, commits_of (fun _ => rfl) heads rfl quiet running ((opDpdBankSelect_eq ..).trans (if_neg none)) ?_ (by decide),
    frame_of adds (SameRegsBut.foldl _ (fun d u mem => ?_) _)⟩
  · rw [List.map_eq_flatMap]
    exact adds
  · exact (sameRegs_wr d _ (List.mem_map_of_mem mem)).congr rfl

/-! ### QUIET_MAP -/

/-- A word of the map is staged. -/
def mapStage (v : Nat → Word) (d : Dev) (i : Nat) : Dev := d.stage (Reg.CAL_QMAP i) (v i)

/-- A staged word of the map is written. -/
def mapWrite (v : Nat → Word) (d : Dev) (i : Nat) : Dev :=
  { d.wr (Reg.CAL_QMAP i) (v i) with staged := mapDel d.staged (Reg.CAL_QMAP i) }

theorem mapReg_apart {i j : Nat} (other : i ≠ j) : Reg.CAL_QMAP i ≠ Reg.CAL_QMAP j := by
  simp only [Reg.CAL_QMAP]
  omega

theorem mapGet_staged (v : Nat → Word) (d : Dev) {n j : Nat} (lt : j < n) :
    mapGet ((List.range n).foldl (mapStage v) d).staged (Reg.CAL_QMAP j) = some (v j) := by
  induction n with
  | zero => omega
  | succ n ih =>
    rw [List.range_succ, List.foldl_append]
    by_cases last : j = n
    · rw [last]
      exact mapGet_mapSet_same ..
    · exact (mapGet_mapSet_ne _ _ (mapReg_apart last)).trans (ih (by omega))

theorem rd_written (v : Nat → Word) (d : Dev) {n j : Nat} (lt : j < n) :
    ((List.range n).foldl (mapWrite v) d).rd (Reg.CAL_QMAP j) = v j := by
  induction n with
  | zero => omega
  | succ n ih =>
    rw [List.range_succ, List.foldl_append]
    by_cases last : j = n
    · rw [last]
      exact Dev.rd_wr_same ..
    · exact (Dev.rd_wr_ne _ _ (mapReg_apart last)).trans (ih (by omega))

/-- The words of a map that is staged whole are written and committed with its configuration. -/
theorem commitQuietMap_staged {v : Nat → Word} (c : Committer) (w : Word)
    (all : ∀ i < 70, mapGet d.staged (Reg.CAL_QMAP i) = some (v i)) : ∃ ws, d.commitQuietMap c w =
      (((List.range 70).foldl (mapWrite v) d).wr Reg.CAL_QMAP_CFG (w &&& tickMask Reg.CAL_QMAP_CFG)).commitFrame c .quietMap ws := by
  unfold Dev.commitQuietMap
  dsimp only
  rw [List.filterMap_congr (g := fun i => some (Reg.CAL_QMAP i, v i)) fun i mem => by rw [all i (List.mem_range.mp mem)],
    List.filterMap_eq_map', List.foldl_map]
  exact ⟨_, rfl⟩

theorem adds_commitFrame (d : Dev) (c : Committer) (key : Setting) (ws : List (Nat × Word × Word)) :
    Adds c [(key, 0)] d (d.commitFrame c key ws) := ⟨⟨_, rfl, rfl⟩, rfl, rfl, rfl⟩

/-- The registers of a quiet map. -/
def mapRegs : List Nat := Reg.CAL_QMAP_CFG :: (List.range 70).map Reg.CAL_QMAP

theorem cfg_mapRegs : Reg.CAL_QMAP_CFG ∈ mapRegs := List.mem_cons_self

theorem map_mapRegs {i : Nat} (mem : i ∈ List.range 70) : Reg.CAL_QMAP i ∈ mapRegs := List.mem_cons_of_mem _ (List.mem_map_of_mem mem)

theorem sameRegs_commitFrame (d : Dev) (c : Committer) (key : Setting) (ws : List (Nat × Word × Word)) :
    SameRegsBut as d (d.commitFrame c key ws) := .of_regs rfl

/-- A map sent whole. -/
def mapSent (v : Nat → Word) (c : Committer) (w : Word) (d : Dev) : Dev := ((List.range 70).foldl (mapStage v) d).commitQuietMap c w

theorem adds_mapSent (v : Nat → Word) (c : Committer) (w : Word) (d : Dev) : Adds c [(.quietMap, 0)] d (mapSent v c w d) := by
  obtain ⟨ws, is⟩ := commitQuietMap_staged (d := (List.range 70).foldl (mapStage v) d) c w fun i lt => mapGet_staged v d lt
  rw [mapSent, is]
  have stages : Adds c [] d _ := .foldl_nothing (g := mapStage v) (List.range 70) (fun d i => .nothing rfl rfl rfl rfl) d
  have writes := Adds.foldl_nothing (by_ := c) (g := mapWrite v) (List.range 70) (fun d i => .nothing rfl rfl rfl rfl)
    ((List.range 70).foldl (mapStage v) d)
  exact ((stages.andThen writes).andThen (adds_wr _ _ Reg.CAL_QMAP_CFG (w &&& tickMask Reg.CAL_QMAP_CFG))).andThen
    (adds_commitFrame _ _ .quietMap ws)

theorem sameRegs_mapSent (v : Nat → Word) (c : Committer) (w : Word) (d : Dev) : SameRegsBut mapRegs d (mapSent v c w d) := by
  obtain ⟨ws, is⟩ := commitQuietMap_staged (d := (List.range 70).foldl (mapStage v) d) c w fun i lt => mapGet_staged v d lt
  rw [mapSent, is]
  have stages : SameRegsBut mapRegs d _ := SameRegsBut.foldl (g := mapStage v) (List.range 70) (fun d i _ => .of_regs rfl) d
  have writes := SameRegsBut.foldl (as := mapRegs) (g := mapWrite v) (List.range 70)
    (fun d i mem => (sameRegs_wr d _ (map_mapRegs mem)).congr rfl) ((List.range 70).foldl (mapStage v) d)
  exact ((stages.trans writes).trans (sameRegs_wr _ _ cfg_mapRegs)).trans (sameRegs_commitFrame _ _ _ _)

theorem mapCfg_apart (j : Nat) : Reg.CAL_QMAP j ≠ Reg.CAL_QMAP_CFG := by
  simp only [Reg.CAL_QMAP, Reg.CAL_QMAP_CFG]
  omega

theorem rd_commitFrame (d : Dev) (c : Committer) (key : Setting) (ws : List (Nat × Word × Word)) (b : Nat) :
    (d.commitFrame c key ws).rd b = d.rd b := rfl

theorem rd_mapSent (v : Nat → Word) (c : Committer) (w : Word) (d : Dev) {j : Nat} (lt : j < 70) :
    (mapSent v c w d).rd (Reg.CAL_QMAP j) = v j := by
  obtain ⟨ws, is⟩ := commitQuietMap_staged (d := (List.range 70).foldl (mapStage v) d) c w fun i lt => mapGet_staged v d lt
  rw [mapSent, is, rd_commitFrame, Dev.rd_wr_ne _ _ (mapCfg_apart j), rd_written v _ lt]

theorem opQuietMap_eq (d : Dev) (m : Mem) (c : Cmd) :
    opQuietMap d m c = (.commits [], mapSent (fun i => c.p (1 + i)) c.by_ (c.p 0) d, m) := rfl

theorem quietMap_commits (heads : Heads s p rest 0x610 ps) (quiet : NoneOpen s) (running : s.dev.cad.running = true) :
    ∃ d, Commits s .quietMap p d [(.quietMap, 0)] ∧ (SameRegsBut mapRegs s.dev d ∧ d.inforce = s.dev.inforce) ∧
      ∀ j, j < 70 → d.rd (Reg.CAL_QMAP j) = ps.getD (1 + j) 0 := by
  have adds := adds_mapSent (fun i => ps.getD (1 + i) 0) (committer s) (ps.getD 0 0) (inHand s p rest ps)
  have same := sameRegs_mapSent (fun i => ps.getD (1 + i) 0) (committer s) (ps.getD 0 0) (inHand s p rest ps)
  have does : opQuietMap (inHand s p rest ps) s.mem (issued s p ps) =
      (.commits [], mapSent (fun i => ps.getD (1 + i) 0) (committer s) (ps.getD 0 0) (inHand s p rest ps), s.mem) := opQuietMap_eq ..
  exact ⟨_, commits_of (fun _ => rfl) heads rfl quiet running does adds (by decide), frame_of adds same,
    fun j lt => (rd_closed ..).trans (rd_mapSent (fun i => ps.getD (1 + i) 0) _ _ _ lt)⟩

end

end Sys2Proof.Cert

/-! PROOFS. The commands of the bias die, of retirement, of firmware and of the cores that commit. -/

open Sys2Proof.Machine

namespace Sys2Proof.Cert

section

variable {s : State} {p : Packet} {rest : List Packet} {ps : List Word} {as : List Nat} {d e : Dev} {a : Nat} {ks : List (Setting × Nat)}

/-! ### BIAS_SET and BIAS_SPAN -/

theorem biasEntriesOf_lt : ∀ w ∈ biasEntriesOf ps, w.get 30 24 < 96 := fun _ mem => of_decide_eq_true (List.mem_filter.mp mem).2

theorem toOut_entry {w : Word} (mem : w ∈ biasEntriesOf ps) : (toOut (w.get 30 24)).val = w.get 30 24 := Nat.mod_eq_of_lt (biasEntriesOf_lt w mem)

theorem biasEntriesOf_apart (ps : List Word) : (biasEntriesOf ps).Pairwise fun x y => x.get 30 24 ≠ y.get 30 24 :=
  (lastEntries_apart _ _).filter _

/-- The code that an entry gives, and its commit. -/
def codeOf (w : Word) : Word := ((0 : Word).put 27 16 (w.get 23 12)).put 11 0 (w.get 11 0)

def codeEntry (c : Committer) (d : Dev) (w : Word) : Dev := d.commitCode c (toOut (w.get 30 24)) (codeOf w)

/-- The span that an entry gives its output, and its commit. -/
def spanOf (d : Dev) (w : Word) : Word := (d.rd (Reg.BIAS_OUT_CFG (toOut (w.get 30 24)).val)).put 31 30 (w.get 1 0)

def spanEntry (c : Committer) (d : Dev) (w : Word) : Dev :=
  (d.wr (Reg.BIAS_OUT_CFG (toOut (w.get 30 24)).val) (spanOf d w)).commit c (.biasSpan (toOut (w.get 30 24)))
    [(Reg.BIAS_OUT_CFG (toOut (w.get 30 24)).val, spanOf d w, 0xC0000000#32)] (w.get 1 0)

theorem opBiasSet_eq (d : Dev) (m : Mem) (c : Cmd) : opBiasSet d m c =
    if !d.bias.linkUp then (.done 0x10 [], d, m) else (.commits [], (biasEntriesOf c.params).foldl (codeEntry c.by_) d, m) := rfl

theorem opBiasSpan_eq (d : Dev) (m : Mem) (c : Cmd) : opBiasSpan d m c =
    if !d.bias.linkUp then (.done 0x10 [], d, m) else (.commits [], (biasEntriesOf c.params).foldl (spanEntry c.by_) d, m) := rfl

theorem bias_answers (down : s.dev.bias.linkUp = false) (quiet : NoneOpen s) (running : s.dev.cad.running = true) :
    ∀ c op, (c, op) ∈ [(Instr.biasSet, 0x800), (.biasSpan, 0x801)] → Heads s p rest op ps → Answers s c p (begun s rest) 0x10 [] := by
  intro c op mem heads
  have loose : (!s.dev.bias.linkUp) = true := by rw [down]; rfl
  simp only [List.mem_cons, Prod.mk.injEq, List.not_mem_nil, or_false] at mem
  obtain ⟨rfl, rfl⟩ | ⟨rfl, rfl⟩ := mem
  · exact refused_of (fun _ => rfl) heads rfl quiet running ((opBiasSet_eq ..).trans (if_pos loose)) (by decide)
  · exact refused_of (fun _ => rfl) heads rfl quiet running ((opBiasSpan_eq ..).trans (if_pos loose)) (by decide)

theorem adds_codeEntry (c : Committer) (d : Dev) (w : Word) : Adds c [(.biasCode (toOut (w.get 30 24)), 0)] d (codeEntry c d w) :=
  (adds_swr ..).andThen (adds_commit ..)

theorem codeEntry_eq (c : Committer) (d : Dev) (w : Word) : codeEntry c d w =
    (d.swr c (Reg.BIAS_OUT_CODE (toOut (w.get 30 24)).val) (codeOf w &&& 0x0FFF0FFF#32)).commit c (.biasCode (toOut (w.get 30 24)))
      [(Reg.BIAS_OUT_CODE (toOut (w.get 30 24)).val, codeOf w &&& 0x0FFF0FFF#32, 0x0FFF0FFF#32)] 0 := rfl

theorem uncontended_commit (c : Committer) (key : Setting) (ws : List (Nat × Word × Word)) (arg : Nat) (alone : Uncontended d a) :
    Uncontended (d.commit c key ws arg) a := uncontended_of_same rfl rfl alone

theorem uncontended_codeEntry (c : Committer) (rank : c.rank = 1) (w : Word) (alone : Uncontended d a) : Uncontended (codeEntry c d w) a := by
  rw [codeEntry_eq]
  exact uncontended_commit _ _ _ _ (uncontended_swr c rank _ _ alone)

theorem rd_codeEntry (c : Committer) (d : Dev) (w : Word) (b : Nat) : (codeEntry c d w).rd b =
    (d.swr c (Reg.BIAS_OUT_CODE (toOut (w.get 30 24)).val) (codeOf w &&& 0x0FFF0FFF#32)).rd b := rfl

theorem sameRegs_codeEntry (c : Committer) (d : Dev) (w : Word) (mem : Reg.BIAS_OUT_CODE (toOut (w.get 30 24)).val ∈ as) :
    SameRegsBut as d (codeEntry c d w) := (sameRegs_swr d c (codeOf w &&& 0x0FFF0FFF#32) mem).congr rfl

/-- A mask that covers a field keeps it. -/
theorem get_and_covered (v : Word) {m : Word} {hi lo : Nat} (covers : ∀ b, lo ≤ b → b ≤ hi → m.bit b = true) : (v &&& m).get hi lo = v.get hi lo :=
  Word.get_congr fun b low high => by rw [Word.bit_and, covers b low high, Bool.and_true]

theorem codeMask_covers : ∀ b < 32, b ≤ 11 ∨ 16 ≤ b ∧ b ≤ 27 → Word.bit 0x0FFF0FFF#32 b = true := by decide

theorem codeOf_fields (w : Word) : (codeOf w &&& 0x0FFF0FFF#32).get 27 16 = w.get 23 12 ∧ (codeOf w &&& 0x0FFF0FFF#32).get 11 0 = w.get 11 0 := by
  constructor
  · rw [get_and_covered _ fun b low high => codeMask_covers b (by omega) (.inr ⟨low, high⟩), codeOf,
      get_put_beside _ _ (by decide) (by decide) (by decide) (.inr (by decide)), Word.get_put_same _ _ (by decide) (by decide)]
    exact Nat.mod_eq_of_lt (get_field_lt w 23 12)
  · rw [get_and_covered _ fun b _ high => codeMask_covers b (by omega) (.inl high), codeOf, Word.get_put_same _ _ (by decide) (by decide)]
    exact Nat.mod_eq_of_lt (get_field_lt w 11 0)

theorem codeReg_apart {i j : Nat} (other : i ≠ j) : Reg.BIAS_OUT_CODE i ≠ Reg.BIAS_OUT_CODE j := by
  simp only [Reg.BIAS_OUT_CODE]
  omega

theorem spanReg_apart {i j : Nat} (other : i ≠ j) : Reg.BIAS_OUT_CFG i ≠ Reg.BIAS_OUT_CFG j := by
  simp only [Reg.BIAS_OUT_CFG]
  omega

/-- An output has the code of its own entry. -/
theorem rd_codeEntries {w : Word} (mem : w ∈ biasEntriesOf ps) {c : Committer} (rank : c.rank = 1)
    (alone : Uncontended d (Reg.BIAS_OUT_CODE (w.get 30 24))) :
    ((biasEntriesOf ps).foldl (codeEntry c) d).rd (Reg.BIAS_OUT_CODE (w.get 30 24)) = codeOf w &&& 0x0FFF0FFF#32 := by
  refine rd_foldl_own (P := fun d => Uncontended d (Reg.BIAS_OUT_CODE (w.get 30 24))) (v := fun _ => codeOf w &&& 0x0FFF0FFF#32) (x := w)
    (fun d y alone => uncontended_codeEntry c rank y alone)
    (fun d alone => by rw [rd_codeEntry, toOut_entry mem, rd_swr_uncontended _ rank _ alone])
    (fun d y mem' other => ?_) (nodup_of_apart (biasEntriesOf_apart ps)) mem alone
  refine sameRegs_codeEntry (as := [Reg.BIAS_OUT_CODE (y.get 30 24)]) _ d y ?_ _ (List.mem_singleton.not.mpr (codeReg_apart fun same => ?_))
  · rw [toOut_entry mem']
    exact List.mem_singleton_self _
  · exact other (eq_of_apart (biasEntriesOf_apart ps) mem' mem same.symm)

theorem biasSet_commits (up : s.dev.bias.linkUp = true) (heads : Heads s p rest 0x800 ps) (quiet : NoneOpen s)
    (running : s.dev.cad.running = true) :
    ∃ d, Commits s .biasSet p d ((biasEntriesOf ps).map fun w => (.biasCode (toOut (w.get 30 24)), 0)) ∧
      (SameRegsBut ((biasEntriesOf ps).map fun w => Reg.BIAS_OUT_CODE (w.get 30 24)) s.dev d ∧ d.inforce = s.dev.inforce) ∧
      ∀ w ∈ biasEntriesOf ps, Alone s .cpu (Reg.BIAS_OUT_CODE (w.get 30 24)) →
        (d.rd (Reg.BIAS_OUT_CODE (w.get 30 24))).get 27 16 = w.get 23 12 ∧ (d.rd (Reg.BIAS_OUT_CODE (w.get 30 24))).get 11 0 = w.get 11 0 := by
  have linked : ¬ (!s.dev.bias.linkUp) = true := by rw [up]; exact Bool.false_ne_true
  have adds : Adds (committer s) _ (inHand s p rest ps) _ := .foldl (g := codeEntry (committer s)) (biasEntriesOf ps)
    (fun d w _ => adds_codeEntry _ d w) (inHand s p rest ps)
  refine ⟨_, commits_of (fun _ => rfl) heads rfl quiet running ((opBiasSet_eq ..).trans (if_neg linked)) ?_ (by decide), frame_of adds ?_,
    fun w mem alone => ?_⟩
  · rw [List.map_eq_flatMap]
    exact adds
  · refine SameRegsBut.foldl _ (fun d w mem => sameRegs_codeEntry _ d w ?_) _
    rw [toOut_entry mem]
    exact List.mem_map_of_mem (f := fun w => Reg.BIAS_OUT_CODE (w.get 30 24)) mem
  · have is := (rd_closed ..).trans
      (rd_codeEntries mem (c := committer s) rfl (uncontended_inHand (p := p) (rest := rest) (ps := ps) alone))
    exact ⟨(congrArg (Word.get · 27 16) is).trans (codeOf_fields w).1, (congrArg (Word.get · 11 0) is).trans (codeOf_fields w).2⟩

theorem adds_spanEntry (c : Committer) (d : Dev) (w : Word) : Adds c [(.biasSpan (toOut (w.get 30 24)), w.get 1 0)] d (spanEntry c d w) :=
  (adds_wr ..).andThen (adds_commit ..)

theorem rd_commit (d : Dev) (c : Committer) (key : Setting) (ws : List (Nat × Word × Word)) (arg b : Nat) :
    (d.commit c key ws arg).rd b = d.rd b := rfl

theorem rd_spanEntry (c : Committer) (d : Dev) (w : Word) (b : Nat) :
    (spanEntry c d w).rd b = (d.wr (Reg.BIAS_OUT_CFG (toOut (w.get 30 24)).val) (spanOf d w)).rd b := rd_commit ..

theorem sameRegs_spanEntry (c : Committer) (d : Dev) (w : Word) (mem : Reg.BIAS_OUT_CFG (toOut (w.get 30 24)).val ∈ as) :
    SameRegsBut as d (spanEntry c d w) := (sameRegs_wr d (spanOf d w) mem).trans (sameRegs_commit _ _ _ _ _)

theorem biasSpan_commits (up : s.dev.bias.linkUp = true) (heads : Heads s p rest 0x801 ps) (quiet : NoneOpen s)
    (running : s.dev.cad.running = true) :
    ∃ d, Commits s .biasSpan p d ((biasEntriesOf ps).map fun w => (.biasSpan (toOut (w.get 30 24)), w.get 1 0)) ∧
      (SameRegsBut ((biasEntriesOf ps).map fun w => Reg.BIAS_OUT_CFG (w.get 30 24)) s.dev d ∧ d.inforce = s.dev.inforce) ∧
      ∀ w ∈ biasEntriesOf ps, Alone s .cpu (Reg.BIAS_OUT_CFG (w.get 30 24)) → (d.rd (Reg.BIAS_OUT_CFG (w.get 30 24))).get 31 30 = w.get 1 0 := by
  have linked : ¬ (!s.dev.bias.linkUp) = true := by rw [up]; exact Bool.false_ne_true
  have adds : Adds (committer s) _ (inHand s p rest ps) _ := .foldl (g := spanEntry (committer s)) (biasEntriesOf ps)
    (fun d w _ => adds_spanEntry _ d w) (inHand s p rest ps)
  refine ⟨_, commits_of (fun _ => rfl) heads rfl quiet running ((opBiasSpan_eq ..).trans (if_neg linked)) ?_ (by decide), frame_of adds ?_,
    fun w mem _ => ?_⟩
  · rw [List.map_eq_flatMap]
    exact adds
  · refine SameRegsBut.foldl _ (fun d w mem => sameRegs_spanEntry _ d w ?_) _
    rw [toOut_entry mem]
    exact List.mem_map_of_mem (f := fun w => Reg.BIAS_OUT_CFG (w.get 30 24)) mem
  · have is := rd_foldl_own (g := spanEntry (committer s)) (P := fun _ => True) (a := Reg.BIAS_OUT_CFG (w.get 30 24))
      (v := fun v => v.put 31 30 (w.get 1 0)) (x := w) (fun _ _ h => h)
      (fun d _ => by rw [rd_spanEntry, spanOf, toOut_entry mem, Dev.rd_wr_same])
      (l := biasEntriesOf ps) (d := inHand s p rest ps)
      (fun d y mem' other => ?_) (nodup_of_apart (biasEntriesOf_apart ps)) mem trivial
    · exact (congrArg (Word.get · 31 30) is).trans ((Word.get_put_same _ _ (by decide) (by decide)).trans (Nat.mod_eq_of_lt (get_field_lt w 1 0)))
    · refine (sameRegs_spanEntry (as := [Reg.BIAS_OUT_CFG (y.get 30 24)]) _ d y ?_) _ (List.mem_singleton.not.mpr (spanReg_apart fun same => ?_))
      · rw [toOut_entry mem']
        exact List.mem_singleton_self _
      · exact other (eq_of_apart (biasEntriesOf_apart ps) mem' mem same.symm)

/-! ### PATH_RETIRE -/

theorem unitNamed_named (d : Dev) {w : Word} (named : w.get 7 0 < unitCount (w.get 27 24)) :
    d.unitNamed w = (some (w.get 27 24, w.get 7 0), d) := if_pos named

/-- The history of a unit's sources is cleared. -/
def clearedOf (ns : List (Fin 256)) (d : Dev) : Dev := ns.foldl (fun d n => d.modSrc n fun s => { s with times := [] }) d

theorem opPathRetire_named (d : Dev) (m : Mem) {c : Cmd} (named : (c.p 0).get 7 0 < unitCount ((c.p 0).get 27 24)) :
    opPathRetire d m c = if (c.p 0).get 27 24 = 8 ∧ d.lastLane ((c.p 0).get 7 0) then (.done 0x11 [], d, m)
      else (.commits [], (clearedOf (sourcesOfUnit ((c.p 0).get 27 24) ((c.p 0).get 7 0))
        (d.log 3 ((sourcesOfUnit ((c.p 0).get 27 24) ((c.p 0).get 7 0)).headD 0).val ((c.p 0).get 27 24) ((c.p 0).get 7 0) 0 0)).commandRetire
          c.by_ ((c.p 0).get 27 24) ((c.p 0).get 7 0), m) := by
  rw [opPathRetire, unitNamed_named d named]
  rfl

theorem times_cleared (n : Fin 256) {ns : List (Fin 256)} (d : Dev) (clear : n ∈ ns ∨ (d.sump.src[n]).times = []) :
    ((clearedOf ns d).sump.src[n]).times = [] := by
  induction ns generalizing d with
  | nil => exact clear.resolve_left List.not_mem_nil
  | cons k ns ih =>
    refine ih _ ?_
    by_cases same : k = n
    · subst same
      exact .inr (by simp [Dev.modSrc])
    · refine clear.imp (fun mem => (List.mem_cons.mp mem).resolve_left (Ne.symm same)) fun none => ?_
      have other : k.val ≠ n.val := fun is => same (Fin.ext is)
      simpa [Dev.modSrc, Vector.getElem_set, other] using none

theorem adds_log (c : Committer) (d : Dev) (type n kind i count : Nat) (temp : Int) : Adds c [] d (d.log type n kind i count temp) := by
  unfold Dev.log
  split
  · exact .nothing rfl rfl rfl rfl
  · exact (Adds.nothing (Dev.count32_cad ..) (Dev.count32_time ..) (Dev.count32_inforce ..) (Dev.count32_drunas ..)).andThen (adds_raise ..)

theorem sameRegs_log (d : Dev) (type n kind i count : Nat) (temp : Int) :
    SameRegsBut [Reg.SUMP_LOG_DROP, Reg.SUMP_EVT] d (d.log type n kind i count temp) := by
  unfold Dev.log
  split
  · exact .of_regs rfl
  · exact (sameRegs_count32 d List.mem_cons_self).trans (sameRegs_raise _ 7 (List.mem_cons_of_mem _ List.mem_cons_self))

theorem adds_clearedOf (c : Committer) (ns : List (Fin 256)) (d : Dev) : Adds c [] d (clearedOf ns d) := by
  unfold clearedOf
  refine .foldl_nothing ns (fun d n => ?_) d
  exact .nothing rfl rfl rfl rfl

theorem sameRegs_clearedOf (ns : List (Fin 256)) (d : Dev) : SameRegsBut as d (clearedOf ns d) := by
  unfold clearedOf
  refine SameRegsBut.foldl ns (fun d n _ => ?_) d
  exact .of_regs rfl

theorem pathRetire_answers (heads : Heads s p rest 0x901 ps) (quiet : NoneOpen s) (running : s.dev.cad.running = true)
    (named : (ps.getD 0 0).get 7 0 < unitCount ((ps.getD 0 0).get 27 24)) (lane : (ps.getD 0 0).get 27 24 = 8)
    (last : s.dev.lastLane ((ps.getD 0 0).get 7 0) = true) : Answers s .pathRetire p (begun s rest) 0x11 [] :=
  refused_of (fun _ => rfl) heads rfl quiet running ((opPathRetire_named (c := issued s p ps) _ _ named).trans (if_pos ⟨lane, last⟩)) (by decide)

theorem pathRetire_commits (heads : Heads s p rest 0x901 ps) (quiet : NoneOpen s) (running : s.dev.cad.running = true)
    (named : (ps.getD 0 0).get 7 0 < unitCount ((ps.getD 0 0).get 27 24))
    (others : ¬ ((ps.getD 0 0).get 27 24 = 8 ∧ s.dev.lastLane ((ps.getD 0 0).get 7 0) = true)) :
    ∃ d, Commits s .pathRetire p d [(.unit ((ps.getD 0 0).get 27 24) ((ps.getD 0 0).get 7 0), 2)] ∧
      (SameRegsBut [Reg.SUMP_LOG_DROP, Reg.SUMP_EVT] s.dev d ∧ d.inforce = s.dev.inforce) ∧
      ∀ n ∈ sourcesOfUnit ((ps.getD 0 0).get 27 24) ((ps.getD 0 0).get 7 0), (d.sump.src[n]).times = [] := by
  have adds := ((adds_log (committer s) (inHand s p rest ps) 3 ((sourcesOfUnit ((ps.getD 0 0).get 27 24) ((ps.getD 0 0).get 7 0)).headD 0).val
    ((ps.getD 0 0).get 27 24) ((ps.getD 0 0).get 7 0) 0 0).andThen (adds_clearedOf (committer s)
      (sourcesOfUnit ((ps.getD 0 0).get 27 24) ((ps.getD 0 0).get 7 0)) _)).andThen
        (adds_commit _ _ (.unit ((ps.getD 0 0).get 27 24) ((ps.getD 0 0).get 7 0)) [] 2)
  refine ⟨_, commits_of (fun _ => rfl) heads rfl quiet running ((opPathRetire_named (c := issued s p ps) _ _ named).trans (if_neg others)) adds (by decide),
    frame_of adds (((sameRegs_log _ _ _ _ _ _ _).trans (sameRegs_clearedOf _ _)).congr rfl), fun n mem => times_cleared n _ (.inl mem)⟩

/-! ### FW_ACTIVATE and CHISEL_LOAD with UNLOAD -/

theorem opFwActivate_eq (d : Dev) (m : Mem) (c : Cmd) : opFwActivate d m c =
    if d.drunas.staged.isNone then (.done 0x10 [], d, m) else (.commits [], d.commit c.by_ .fwActivate [] 0, m) := rfl

theorem fwActivate_answers (heads : Heads s p rest 0xA01 ps) (quiet : NoneOpen s) (running : s.dev.cad.running = true)
    (none : s.dev.drunas.staged = Option.none) : Answers s .fwActivate p (begun s rest) 0x10 [] :=
  refused_of (fun _ => rfl) heads rfl quiet running
    ((opFwActivate_eq ..).trans (if_pos (show s.dev.drunas.staged.isNone = true by rw [none]; rfl))) (by decide)

theorem fwActivate_commits (heads : Heads s p rest 0xA01 ps) (quiet : NoneOpen s) (running : s.dev.cad.running = true)
    (staged : s.dev.drunas.staged.isSome = true) : ∃ d, Commits s .fwActivate p d [(.fwActivate, 0)] ∧
      (SameRegsBut [] s.dev d ∧ d.inforce = s.dev.inforce) ∧ d.sec = s.dev.sec := by
  have adds := adds_commit (inHand s p rest ps) (committer s) .fwActivate [] 0
  have some : ¬ s.dev.drunas.staged.isNone = true := by
    rw [Option.isNone_iff_eq_none]
    exact Option.isSome_iff_ne_none.mp staged
  exact ⟨_, commits_of (fun _ => rfl) heads rfl quiet running ((opFwActivate_eq ..).trans (if_neg some)) adds (by decide),
    frame_of adds (sameRegs_commit _ _ _ _ _), rfl⟩

/-- Whether a kernel of the host has a handle. -/
def hostKernel (d : Dev) (h : Nat) : Bool := d.chisel.kernels.any fun k => k.user && k.handle == h

theorem hostKernel_iff (d : Dev) (h : Nat) : hostKernel d h = true ↔ ∃ k ∈ d.chisel.kernels, k.user = true ∧ k.handle = h := by
  rw [hostKernel, List.any_eq_true]
  simp only [Bool.and_eq_true, beq_iff_eq]

theorem opChisel_unloads (d : Dev) (m : Mem) {c : Cmd} (unload : (c.p 0).bit 31 = true) : opChisel d m c =
    if hostKernel d ((c.p 0).get 15 0) then (.commits [], d.commit c.by_ (.chiselUnload ((c.p 0).get 15 0)) [] 0, m)
    else (.done 0x10 [], d, m) := if_pos unload

theorem chiselUnload_answers (heads : Heads s p rest 0xB10 ps) (unload : (ps.getD 0 0).bit 31 = true) (quiet : NoneOpen s)
    (running : s.dev.cad.running = true)
    (none : ∀ k ∈ s.dev.chisel.kernels, ¬ (k.user = true ∧ k.handle = (ps.getD 0 0).get 15 0)) :
    Answers s .chiselUnload p (begun s rest) 0x10 [] := by
  have absent : ¬ hostKernel s.dev ((ps.getD 0 0).get 15 0) = true := fun is => by
    obtain ⟨k, mem, hit⟩ := (hostKernel_iff _ _).mp is
    exact none k mem hit
  exact refused_of (form := fun ps => (ps.getD 0 0).bit 31) (fun _ => rfl) heads unload quiet running
    ((opChisel_unloads (c := issued s p ps) _ _ unload).trans (if_neg absent)) (by decide)

theorem chiselUnload_commits (heads : Heads s p rest 0xB10 ps) (unload : (ps.getD 0 0).bit 31 = true) (quiet : NoneOpen s)
    (running : s.dev.cad.running = true) (some : ∃ k ∈ s.dev.chisel.kernels, k.user = true ∧ k.handle = (ps.getD 0 0).get 15 0) :
    ∃ d, Commits s .chiselUnload p d [(.chiselUnload ((ps.getD 0 0).get 15 0), 0)] ∧
      (SameRegsBut [] s.dev d ∧ d.inforce = s.dev.inforce) ∧ d.chisel = s.dev.chisel := by
  have adds := adds_commit (inHand s p rest ps) (committer s) (.chiselUnload ((ps.getD 0 0).get 15 0)) [] 0
  have here : hostKernel s.dev ((ps.getD 0 0).get 15 0) = true := (hostKernel_iff _ _).mpr some
  exact ⟨_, commits_of (form := fun ps => (ps.getD 0 0).bit 31) (fun _ => rfl) heads unload quiet running
    ((opChisel_unloads (c := issued s p ps) _ _ unload).trans (if_pos here)) adds (by decide), frame_of adds (sameRegs_commit _ _ _ _ _), rfl⟩

end

/-- The other commands that commit, and where they are refused. -/
theorem otherCommits : OtherCommits := fun _ _ _ _ quiet running =>
  ⟨fun heads => dpdConfig_commits heads quiet running,
    fun heads => ⟨dpdBankSelect_answers heads quiet running, dpdBankSelect_commits heads quiet running⟩,
    fun heads => quietMap_commits heads quiet running,
    fun down c op mem heads => bias_answers down quiet running c op mem heads,
    fun up heads => biasSet_commits up heads quiet running, fun up heads => biasSpan_commits up heads quiet running,
    fun heads named => ⟨pathRetire_answers heads quiet running named, pathRetire_commits heads quiet running named⟩,
    fun heads => ⟨fwActivate_answers heads quiet running, fwActivate_commits heads quiet running⟩,
    fun heads unload => ⟨chiselUnload_answers heads unload quiet running, chiselUnload_commits heads unload quiet running⟩⟩

/-- Settles O59: each command adds its settings to the changes that wait, and writes only their registers. -/
theorem commandsCommit : Obligations.CommandsCommit := ⟨radioCommits, otherCommits⟩

end Sys2Proof.Cert
